-- ==== Sys2Proof/Word.lean ====
section
/-! DEFINITION. The words of the part: a byte, a 32-bit register word (R13), a 48-bit accumulator element (R100),
and the 64-bit words of core registers and fabric time (R156, "Numbers and units"). -/
namespace Sys2Proof

/-- One byte. -/
abbrev Byte := BitVec 8
/-- A register word: registers are 32 bits wide (R13). -/
abbrev Word := BitVec 32
/-- A 64-bit word: scalar and address registers, counters, fabric time. -/
abbrev DWord := BitVec 64
/-- A status code (R10): bits [15:8] block type, bits [7:0] code within the block. -/
abbrev Code := Nat

end Sys2Proof
end

