-- ==== Sys2Proof/Syntax.lean ====
section
/-! DEFINITION. The commands of the part: one constructor per row of the table of operations and events, with the row's
operands, and the small types those operands take. The row of a core instruction carries the instruction word's fields
(R164); the row of an NVMe or BCS command carries its queue, its command identifier, the submission entry's fields and
its host-to-controller data; an event's row carries what happens outside the part. -/
namespace Sys2Proof

/-- The fields of a core instruction word other than CLASS and OP (R164). -/
structure IFields where
  /-- MOD, bits [15:10]. -/
  md : BitVec 6
  rd : BitVec 4
  ra : BitVec 4
  rb : BitVec 4
  rc : BitVec 4
  imm : BitVec 32
  ext : BitVec 64
  deriving DecidableEq, Repr

/-- A command's place: the connection (queue) it came by and its command identifier. -/
structure Tag where
  conn : Nat
  cid : Nat
  deriving DecidableEq, Repr

/-- The fields of a submission entry that commands use, and the length its SGL gives (R372, R381). -/
structure Sqe where
  nsid : BitVec 32
  cdw2 : BitVec 32
  cdw3 : BitVec 32
  cdw10 : BitVec 32
  cdw11 : BitVec 32
  cdw12 : BitVec 32
  cdw13 : BitVec 32
  cdw14 : BitVec 32
  cdw15 : BitVec 32
  /-- SGL length in bytes. -/
  sgl : Nat
  deriving DecidableEq, Repr

/-- The register access path of R33. -/
inductive Path where
  | inband
  | sideband
  | mgmt
  deriving DecidableEq, Repr

/-- What the transport finds in an arriving PDU: whether its header digest, format and TLS record are right (R388), its
offset in the connection's byte stream and its first 64 bytes (R390). -/
structure PduCheck where
  hdgstOk : Bool
  formatOk : Bool
  tlsOk : Bool
  streamOff : Nat
  head : List Byte
  deriving DecidableEq, Repr

/-- What a TLS ClientHello offers (R374). -/
structure Hello where
  suite : Bool
  pskKe : Bool
  early : Bool
  pskId : List Byte
  binderOk : Bool
  deriving DecidableEq, Repr

/-- A bank of the on-chip memories: a core-local bank of a core, or a scratchpad bank (R221). -/
inductive BankId where
  | loc (core bank : Nat)
  | spad (bank : Nat)
  deriving DecidableEq, Repr

/-- What a background test of a region meets: another master's request (R238), or a march mismatch at a word (R240). -/
inductive MarchOut where
  | clean
  | abandoned
  | mismatch (word : Nat)
  deriving DecidableEq, Repr

/-- What a die read returns: how many bits were corrected, from soft information or not, and whether the hard decode, the
soft decode and the rebuild succeed (R330). -/
structure ReadOut where
  hardOk : Bool
  softOk : Bool
  corrected : Nat
  /-- For each of the 15 read levels, bits corrected from below it to above it, and from above it to below it (R329). -/
  up : List Nat
  down : List Nat
  /-- The read suspended a program or an erase in progress on its die (R326). -/
  suspends : Bool
  deriving DecidableEq, Repr

/-- How a wordline program ends: the die slots that failed, and whether replacing their die-blocks contains the failure (R343). -/
structure ProgOut where
  failed : List Nat
  contained : Bool
  deriving DecidableEq, Repr

/-- How a superblock's erase ends: the die slots whose die-block failed, and whether replacing them contains the failure (R343). -/
structure EraseOut where
  failed : List Nat
  contained : Bool
  deriving DecidableEq, Repr

/-- A received frame: its priority, bytes, destination match, and whether its FCS is right (R405). -/
structure Frame where
  prio : Nat
  len : Nat
  toUs : Bool
  fcsOk : Bool
  data : List Byte
  deriving DecidableEq, Repr

/-- A PTP message's fields that the Sextant uses (R411 to R413). -/
structure PtpMsg where
  domain : Nat
  gm : Nat
  twoStep : Bool
  seqId : Nat
  /-- Origin or receive timestamp carried in the message, ns. -/
  stamp : Nat
  /-- Correction field, ns. -/
  corr : Int
  /-- The module's own timestamp of the message, ns. -/
  local_ : Nat
  /-- Announce priority vector, lower is better. -/
  rank : List Nat
  leap : Int
  interval : Int
  deriving DecidableEq, Repr

/-- A Strait datagram as it arrives (R420): the sender's address and the datagram's bytes. -/
structure StraitMsg where
  addr : Nat
  port : Nat
  ipv6 : Bool
  data : List Byte
  deriving DecidableEq, Repr

/-- What start-up finds (R482): the image check, the training of each channel, key store copies, the link partner. -/
structure BootOut where
  untrained : List Nat
  margins : List Nat
  linkUp : Bool
  deriving DecidableEq, Repr

/-- What the 54 V input does (R497). -/
inductive VoltEvent where
  | dip
  | ride
  | under
  | over
  | absent
  | restored
  deriving DecidableEq, Repr


/-- The commands and events of the part: one constructor per row of the table of operations and events. -/
inductive Instr where
  -- BCS and NVMe commands (12) R381, R369
  /-- LOAD_CONTEXT (R60): BCS command that checks a model package in order and, if every check passes, allocates the share and makes the context resident, completing once it is READY. -/
  | loadContext (t : Tag) (q : Sqe) (d : List Byte)
  /-- UNLOAD_CONTEXT (R62): BCS command that discards a context's pre-empted step, parked receive and outputs and frees its share, cancelling a load or waiting for a running step. -/
  | unloadContext (t : Tag) (q : Sqe) (d : List Byte)
  /-- BIND_ISLAND (R63): BCS command that sets the 48-bit core bitmap of one island, unless a refusal of R63 applies. -/
  | bindIsland (t : Tag) (q : Sqe) (d : List Byte)
  /-- WRITE_CHART (R76): BCS command that writes a slot table to one Chart bank, or refuses the whole table. -/
  | writeChart (t : Tag) (q : Sqe) (d : List Byte)
  /-- SWAP_CHART (R77): BCS command that requests the inactive Chart bank to become active at the next cycle start, or refuses the request. -/
  | swapChart (t : Tag) (q : Sqe) (d : List Byte)
  /-- SEQUENCE_JOIN (R66): BCS command that checks a join request and sets the sequence entry PENDING with its backing committed. -/
  | sequenceJoin (t : Tag) (q : Sqe) (d : List Byte)
  /-- SEQUENCE_LEAVE (R67): BCS command that frees a sequence at once or holds the leave for the next step boundary. -/
  | sequenceLeave (t : Tag) (q : Sqe) (d : List Byte)
  /-- OUTPUT_DRAIN (R386): BCS command that frees acknowledged output records and returns the unacknowledged ones, or history records with HIST set. -/
  | outputDrain (t : Tag) (q : Sqe) (d : List Byte)
  /-- INGEST (R309): BCS command that writes records, embeds them through an encoder context and inserts them into an index at one epoch. -/
  | ingest (t : Tag) (q : Sqe) (d : List Byte)
  /-- INDEX_MUTATE (R297): BCS command that applies a list of index operations and commits them at one epoch, or refuses the whole command. -/
  | indexMutate (t : Tag) (q : Sqe) (d : List Byte)
  /-- SEARCH (R383): BCS command that queues a vector search from its parameter block and returns a result when the query completes. -/
  | search (t : Tag) (q : Sqe) (d : List Byte)
  /-- SCAN (R361): BCS command that reads a range of logical blocks and evaluates each record against a predicate program. -/
  | scan (t : Tag) (q : Sqe) (d : List Byte)
  /-- REGISTER_WINDOW_READ (R35): BCS command that reads 1 to 64 register words of one page in ascending order. -/
  | registerWindowRead (t : Tag) (q : Sqe) (d : List Byte)
  /-- REGISTER_WINDOW_WRITE (R35): BCS command that writes 1 to 64 register words of one page in ascending order. -/
  | registerWindowWrite (t : Tag) (q : Sqe) (d : List Byte)
  /-- NVM_READ (R330): NVM Read that looks up the map and reads and decodes each unit through the correction ladder. -/
  | nvmRead (t : Tag) (q : Sqe) (d : List Byte)
  /-- NVM_WRITE (R338): NVM Write that places every unit it touches in the write buffer and completes once its journal entries are durable. -/
  | nvmWrite (t : Tag) (q : Sqe) (d : List Byte)
  /-- FLUSH (R338): NVM Flush, which completes at once because no volatile write cache exists. -/
  | flush (t : Tag) (q : Sqe) (d : List Byte)
  /-- WRITE_ZEROES (R339): NVM Write Zeroes, which writes zeros to the named logical blocks as a write does. -/
  | writeZeroes (t : Tag) (q : Sqe) (d : List Byte)
  /-- DATASET_MANAGEMENT (R339): Deallocate that unmaps whole units and writes zeros to parts of units. -/
  | datasetManagement (t : Tag) (q : Sqe) (d : List Byte)
  /-- NVM_VERIFY (R331): NVM Verify, which runs the full decode ladder on the named blocks without transferring data. -/
  | nvmVerify (t : Tag) (q : Sqe) (d : List Byte)
  /-- CONNECT (R375): Fabrics Connect that creates a controller or an I/O queue, or refuses it. -/
  | connect (t : Tag) (q : Sqe) (d : List Byte)
  /-- DISCONNECT (R377): Fabrics Disconnect that deletes a queue and resets it. -/
  | disconnect (t : Tag) (q : Sqe) (d : List Byte)
  /-- PROPERTY_GET (R369): Fabrics Property Get that returns a controller property. -/
  | propertyGet (t : Tag) (q : Sqe) (d : List Byte)
  /-- PROPERTY_SET (R369): Fabrics Property Set that writes a controller property, including CC.EN and CC.SHN. -/
  | propertySet (t : Tag) (q : Sqe) (d : List Byte)
  /-- NSSR_DEVICE_RESET (R479): Property Set of NSSR with 0x4E56_4D65, which starts a device reset. -/
  | nssrDeviceReset (t : Tag) (q : Sqe) (d : List Byte)
  /-- SHUTDOWN_NOTIFICATION (R484): CC.SHN set, which drains the write buffer, checkpoints the map and marks the checkpoint clean. -/
  | shutdownNotification (t : Tag) (q : Sqe) (d : List Byte)
  /-- IDENTIFY (R392): Admin Identify, which returns controller and namespace data, including the power state descriptors. -/
  | identify (t : Tag) (q : Sqe) (d : List Byte)
  /-- GET_LOG_PAGE (R390): Admin Get Log Page, including the Queue Error Log 0xC0 and the error ring log 0xC1. -/
  | getLogPage (t : Tag) (q : Sqe) (d : List Byte)
  /-- SET_FEATURES_POWER_MANAGEMENT (R393): Set Features FID 0x02, which selects a power state and completes when the entry completes or is reversed. -/
  | setFeaturesPowerManagement (t : Tag) (q : Sqe) (d : List Byte)
  /-- SET_FEATURES_NUMBER_OF_QUEUES (R375): Set Features Number of Queues, which always returns 1,023 for both counts. -/
  | setFeaturesNumberOfQueues (t : Tag) (q : Sqe) (d : List Byte)
  /-- SET_FEATURES (R369): Set Features for any other feature, including the asynchronous event configuration. -/
  | setFeatures (t : Tag) (q : Sqe) (d : List Byte)
  /-- GET_FEATURES (R393): Get Features, which reports a feature such as the power state in force. -/
  | getFeatures (t : Tag) (q : Sqe) (d : List Byte)
  /-- ASYNCHRONOUS_EVENT_REQUEST (R391): Admin command held outstanding until an enabled event completes it, or completed at once by an event already held. -/
  | asynchronousEventRequest (t : Tag) (q : Sqe) (d : List Byte)
  /-- KEEP_ALIVE (R376): Admin Keep Alive, which restarts the controller's Keep Alive timer. -/
  | keepAlive (t : Tag) (q : Sqe) (d : List Byte)
  /-- ABORT (R394): Admin Abort, which aborts a command not yet started and reports a started one as not aborted. -/
  | abortCmd (t : Tag) (q : Sqe) (d : List Byte)
  /-- NAMESPACE_MANAGEMENT (R354): Creates or deletes a fully allocated namespace, or refuses the creation. -/
  | namespaceManagement (t : Tag) (q : Sqe) (d : List Byte)
  /-- NAMESPACE_ATTACHMENT (R369): Attaches a namespace to controllers or detaches it. -/
  | namespaceAttachment (t : Tag) (q : Sqe) (d : List Byte)
  /-- FORMAT_NVM (R355): Format NVM, which performs a cryptographic erase of the namespace. -/
  | formatNvm (t : Tag) (q : Sqe) (d : List Byte)
  /-- SANITIZE (R355): Sanitize with the crypto-erase action, which replaces key pairs and unmaps the entries. -/
  | sanitize (t : Tag) (q : Sqe) (d : List Byte)
  /-- FIRMWARE_IMAGE_DOWNLOAD (R446): Stages a 4 KiB-aligned range of a firmware image in general memory, or in the NOR under the recovery agent. -/
  | firmwareImageDownload (t : Tag) (q : Sqe) (d : List Byte)
  /-- FIRMWARE_COMMIT (R447): Checks the staged image, programs the NOR in order and runs the new image through a management reset. -/
  | firmwareCommit (t : Tag) (q : Sqe) (d : List Byte)
  /-- INVALID_COMMAND_OPCODE (R381): A command with an unknown or unavailable opcode, which completes with Invalid Command Opcode. -/
  | invalidCommandOpcode (t : Tag) (q : Sqe) (d : List Byte)
  -- Transport events (12) R370 to R377
  /-- TCP_SYN (R370): An arriving SYN, which opens a connection or is answered with RST. -/
  | tcpSyn (conn port : Nat) (v6 : Bool)
  /-- ICREQ (R371): An ICReq PDU, which the module answers with ICResp or with a fatal C2HTermReq. -/
  | icreq (conn pfv : Nat) (hdgst ddgst : Bool) (maxr2t : Nat)
  /-- COMMAND_CAPSULE (R372): A command capsule taken whole, which the QCU fetches and decodes, or handles as a queue error. -/
  | commandCapsule (conn op cid : Nat) (q : Sqe) (d : List Byte) (pdu : PduCheck)
  /-- H2C_DATA (R372): An H2CData PDU that answers an outstanding R2T, checked against its digest. -/
  | h2cData (conn cid off : Nat) (d : List Byte) (pdu : PduCheck) (digestOk : Bool)
  /-- CLIENT_HELLO (R374): A TLS ClientHello, which completes a TLS 1.3 PSK handshake or fails it. -/
  | clientHello (conn : Nat) (offer : Hello)
  /-- KEY_UPDATE (R374): A TLS KeyUpdate, which is accepted and answered. -/
  | keyUpdate (conn : Nat)
  /-- FREEZE_TIMEOUT (R389): Expiry of QCU_FREEZE_TIMEOUT_MS for a frozen queue, which the module then closes with C2HTermReq. -/
  | freezeTimeout (conn : Nat)
  /-- QUEUE_RESET (R377): The connection of a queue closes and the queue's commands are discarded or run to completion. -/
  | queueReset (conn : Nat)
  /-- CONNECTION_CLOSE (R377): The host closes a connection or sends RST. -/
  | connectionClose (conn : Nat)
  /-- KATO_EXPIRED (R376): Expiry of the Keep Alive timeout, which tears the controller down. -/
  | katoExpired (cntlid : Nat)
  /-- PS4_EXIT (R393): A command or Strait message that arrives in PS4 brings the module out to its last operational state before it executes. -/
  | ps4Exit
  /-- POWER_STATE_ENTRY_COMPLETE (R393): An entry into a power state completes and the Set Features command completes. -/
  | powerStateEntryComplete
  /-- POWER_STATE_REVERSAL (R393): A command that arrives during entry into PS3 or PS4 reverses the entry. -/
  | powerStateReversal
  -- Register access (02)
  /-- SIDEBAND_READ (R34): An MCTP sideband request with opcode 0x01, which reads 1 to 16 register words. -/
  | sidebandRead (req : List Byte)
  /-- SIDEBAND_WRITE (R34): An MCTP sideband request with opcode 0x02, which writes 1 to 16 register words. -/
  | sidebandWrite (req : List Byte)
  /-- REGISTER_WRITE (R14): A write to a register field that has no row of its own, which acts as its access type states. -/
  | registerWrite (p : Path) (page off : Nat) (w : Word)
  /-- COUNTER_LOW_READ (R16): A read of a counter's low half, which latches the high half for that access path. -/
  | counterLowRead (p : Path) (page off : Nat)
  /-- IFLEVEL_SELECT (R6): A write of CHIP_IFLEVEL_SEL, which selects a supported level once per reset, or is refused, or is ignored once locked. -/
  | iflevelSelect (p : Path) (w : Word)
  /-- ERR_RING_TAIL_WRITE (R54): A write of ERR_RING_TAIL.COUNT, which consumes records or is refused with ERR_TAIL_INVALID. -/
  | errRingTailWrite (p : Path) (w : Word)
  /-- CLKRST_DEV_RESET (R49): A write of CLKRST_DEV_RESET, which starts a device reset 10 µs later for the key value and raises REG_KEY_INVALID otherwise. -/
  | clkrstDevReset (p : Path) (w : Word)
  /-- ISLAND_RESET_GO (R50): Setting CLKRST_ISLAND_RESET.GO, which resets the named island or raises ISLAND_UNBOUND. -/
  | islandResetGo (p : Path) (w : Word)
  /-- FMEAS_START (R48): Setting CLKRST_FMEAS_SEL.START, which measures the selected domain's frequency for 1 ms. -/
  | fmeasStart (p : Path) (w : Word)
  /-- CNT_FREEZE (R42): A write of PAGE_CTRL.CNT_FREEZE, which holds or releases every counter of the page. -/
  | cntFreeze (p : Path) (page : Nat) (on : Bool)
  /-- CNT_CLEAR (R42): Setting PAGE_CTRL.CNT_CLEAR, which sets every counter of the page to 0. -/
  | cntClear (p : Path) (page : Nat)
  /-- ERR_COUNT_CLR (R42): Setting PAGE_CTRL.ERR_COUNT_CLR, which sets ERR_COUNT to 0. -/
  | errCountClr (p : Path) (page : Nat)
  /-- ERR_STATUS_CLEAR (R43): A write of 1 to ERR_STATUS bits, which clears them and clears ERR_FIRST when ERR_STATUS reads 0. -/
  | errStatusClear (p : Path) (page : Nat) (w : Word)
  /-- FMEAS_DONE (R48): The 1 ms frequency measurement ends, its result is written and START clears. -/
  | fmeasDone (khz : Nat)
  /-- PLL_UNLOCK (R48): A PLL loses lock, which is counted and raises FATAL for the compute, memory or media PLL. -/
  | pllUnlock (pll : Nat)
  -- Chart (03)
  /-- CHART_ENABLE (R81): A write of CHART_CTRL.ENABLE, which starts or stops cycle starts and applies a pending swap when set. -/
  | chartEnable (p : Path) (on : Bool)
  /-- CHART_SWAP_REQUEST (R77): Setting CHART_CTRL.SWAP, which requests a swap to the inactive bank or is refused. -/
  | chartSwapRequest (p : Path)
  /-- CONTEXT_RESTART (R89): Setting CHART_CTX_CTRL.RESTART, which makes a FAULTED context READY or is refused for RELOAD_REQUIRED. -/
  | contextRestart (p : Path)
  /-- CYCLE_START (R24): Fabric time reaches a multiple of the period plus phase and the Chart starts a cycle. -/
  | cycleStart
  /-- SLOT_START (R79): A slot's start arrives and it starts or resumes a step, opens a search batch, runs maintenance or stays idle. -/
  | slotStart (bankB : Bool) (idx : Nat)
  /-- SLOT_END (R83): A slot's end arrives while its step runs, which counts an overrun and applies EXTEND or PREEMPT. -/
  | slotEnd (bankB : Bool) (idx : Nat)
  /-- LOOKAHEAD_PREFETCH (R270): Fabric time reaches a step slot's start less COMPASS_LOOKAHEAD_US and Compass prefetches for it. -/
  | lookaheadPrefetch (bankB : Bool) (idx : Nat)
  /-- TASK_COMPLETE (R161): A task's END has issued and every operation it started has completed, making dependent tasks ready. -/
  | taskComplete (ctx task : Nat)
  /-- JOB_FAULT (R88): A job fault aborts the step on every core within 4 µs and leaves the context FAULTED with nothing committed. -/
  | jobFault (ctx core : Nat) (code : Code)
  /-- REPLICA_CORRECTION (R23): Every 1 µs of master time the Sextant's sideband pulse step-corrects the compute die's replica of fabric time. -/
  | replicaCorrection
  /-- SYNC_DEADLOCK (R188): Every task of a step holding a core waits in WAITEV with nothing outstanding, raising SYNC_DEADLOCK. -/
  | syncDeadlock (ctx : Nat)
  /-- RESERVED_CLASS_FETCH (R9): A core fetches an instruction of class 0xC to 0xF and raises RESERVED_CLASS. -/
  | reservedClassFetch (core : Nat) (cls : BitVec 4)
  -- Core instructions (06)
  /-- NOP (R167): Scalar instruction that does nothing. -/
  | nop (core : Nat) (f : IFields)
  /-- ADD (R167): Scalar add of two S registers modulo 2^64. -/
  | add (core : Nat) (f : IFields)
  /-- SUB (R167): Scalar subtract of two S registers. -/
  | sub (core : Nat) (f : IFields)
  /-- MUL (R167): Scalar multiply keeping the low 64 bits. -/
  | mul (core : Nat) (f : IFields)
  /-- AND (R167): Scalar bitwise AND. -/
  | andS (core : Nat) (f : IFields)
  /-- OR (R167): Scalar bitwise OR. -/
  | orS (core : Nat) (f : IFields)
  /-- XOR (R167): Scalar bitwise exclusive OR. -/
  | xor (core : Nat) (f : IFields)
  /-- SHL (R167): Scalar shift left by S[RB][5:0]. -/
  | shl (core : Nat) (f : IFields)
  /-- SHR (R167): Scalar logical shift right. -/
  | shr (core : Nat) (f : IFields)
  /-- SRA (R167): Scalar arithmetic shift right. -/
  | sra (core : Nat) (f : IFields)
  /-- MIN (R167): Scalar signed minimum. -/
  | minS (core : Nat) (f : IFields)
  /-- MAX (R167): Scalar signed maximum. -/
  | maxS (core : Nat) (f : IFields)
  /-- SLT (R167): Scalar signed set-less-than. -/
  | slt (core : Nat) (f : IFields)
  /-- ADDI (R167): Scalar add of a sign-extended immediate. -/
  | addi (core : Nat) (f : IFields)
  /-- MOVI (R167): Loads a sign-extended immediate into an S register. -/
  | movi (core : Nat) (f : IFields)
  /-- MOVHI (R167): Writes IMM32 into bits [63:32] of an S register. -/
  | movhi (core : Nat) (f : IFields)
  /-- LD (R167): Loads 8 bytes from the LOCAL, SCRATCH or WORK window into an S register. -/
  | ld (core : Nat) (f : IFields)
  /-- ST (R167): Stores 8 bytes of an S register to the LOCAL, SCRATCH or WORK window. -/
  | st (core : Nat) (f : IFields)
  /-- TOA (R167): Copies an S register into an A register. -/
  | toa (core : Nat) (f : IFields)
  /-- TOS (R167): Copies an A register into an S register. -/
  | tos (core : Nat) (f : IFields)
  /-- AADDI (R167): Adds a sign-extended immediate to an A register. -/
  | aaddi (core : Nat) (f : IFields)
  /-- AADD (R167): Adds an S register to an A register. -/
  | aadd (core : Nat) (f : IFields)
  /-- TIME (R167): Reads replica fabric time or the current slot's start into an S register. -/
  | time (core : Nat) (f : IFields)
  /-- J (R168): Relative jump. -/
  | j (core : Nat) (f : IFields)
  /-- BEQ (R168): Branches if two S registers are equal. -/
  | beq (core : Nat) (f : IFields)
  /-- BNE (R168): Branches if two S registers differ. -/
  | bne (core : Nat) (f : IFields)
  /-- BLT (R168): Branches if signed less than. -/
  | blt (core : Nat) (f : IFields)
  /-- BGE (R168): Branches if signed greater or equal. -/
  | bge (core : Nat) (f : IFields)
  /-- JR (R168): Jumps to the address in an S register. -/
  | jr (core : Nat) (f : IFields)
  /-- LOOP (R169): Starts a hardware loop over the next instructions with a count. -/
  | loop (core : Nat) (f : IFields)
  /-- LIDX (R168): Reads a loop's INDEX into an S register. -/
  | lidx (core : Nat) (f : IFields)
  /-- BVERD (R168): Waits for a narrowing point's verdict and jumps if it is RERUN. -/
  | bverd (core : Nat) (f : IFields)
  /-- END (R161): Ends the task. -/
  | endTask (core : Nat) (f : IFields)
  /-- COPY (R170): DMA that copies a rectangular region. -/
  | copy (core : Nat) (f : IFields)
  /-- ACC48 (R170): DMA that adds 48-bit elements atomically into the destination modulo 2^48. -/
  | acc48 (core : Nat) (f : IFields)
  /-- ZERO (R170): DMA that writes zeros to a rectangular region. -/
  | zero (core : Nat) (f : IFields)
  /-- DMA_COMPLETE (R170): A DMA operation completes and leaves its completion group. -/
  | dmaComplete (core k : Nat)
  /-- TDLOAD (R171): Loads a tile descriptor from memory, or raises TILE_INVALID. -/
  | tdload (core : Nat) (f : IFields)
  /-- TDSTORE (R171): Stores a tile descriptor to memory. -/
  | tdstore (core : Nat) (f : IFields)
  /-- TDINIT (R171): Builds a tile descriptor for a tile of a BW4 or BW8 tensor entry. -/
  | tdinit (core : Nat) (f : IFields)
  /-- MATRIX (R172): Runs the passes of a matrix product over consecutive tiles into accumulator or partial-sum rows. -/
  | matrix (core : Nat) (f : IFields)
  /-- MATRIX_COMPLETE (R138): Every destination row and verdict of a matrix instruction is written and its results become readable. -/
  | matrixComplete (core : Nat)
  /-- CONV1D (R174): Runs a 1-D convolution as matrix passes through the address generator. -/
  | conv1d (core : Nat) (f : IFields)
  /-- CONV2D (R174): Runs a 2-D convolution as matrix passes through the address generator. -/
  | conv2d (core : Nat) (f : IFields)
  /-- VECTOR_ADD (R175): Elementwise FP32 addition. -/
  | vectorAdd (core : Nat) (f : IFields)
  /-- VECTOR_SUB (R175): Elementwise subtraction. -/
  | vectorSub (core : Nat) (f : IFields)
  /-- VECTOR_MUL (R175): Elementwise multiplication. -/
  | vectorMul (core : Nat) (f : IFields)
  /-- VECTOR_MAX (R175): Elementwise maximum. -/
  | vectorMax (core : Nat) (f : IFields)
  /-- VECTOR_MIN (R175): Elementwise minimum. -/
  | vectorMin (core : Nat) (f : IFields)
  /-- VECTOR_ABS (R175): Elementwise absolute value. -/
  | vectorAbs (core : Nat) (f : IFields)
  /-- VECTOR_NEG (R175): Elementwise negation. -/
  | vectorNeg (core : Nat) (f : IFields)
  /-- VECTOR_CVT (R175): Elementwise conversion between types. -/
  | vectorCvt (core : Nat) (f : IFields)
  /-- VECTOR_MAC (R175): Elementwise multiply-accumulate into D. -/
  | vectorMac (core : Nat) (f : IFields)
  /-- SPECIAL_FN (R204): Computes a special function of X plus bias, scaled, on the SFU. -/
  | specialFn (core : Nat) (f : IFields)
  /-- RMAX (R177): Row maximum. -/
  | rmax (core : Nat) (f : IFields)
  /-- RSUM (R191): Row sum by the fixed tree. -/
  | rsum (core : Nat) (f : IFields)
  /-- SOFTMAX (R193): Whole-row softmax: statistics then apply. -/
  | softmax (core : Nat) (f : IFields)
  /-- SMSTAT (R192): Folds a chunk into running softmax statistics. -/
  | smstat (core : Nat) (f : IFields)
  /-- SMAPPLY (R193): Normalises a chunk by the final softmax statistics. -/
  | smapply (core : Nat) (f : IFields)
  /-- RMSNORM (R195): RMS normalisation of each row. -/
  | rmsnorm (core : Nat) (f : IFields)
  /-- LAYERNORM (R196): Layer normalisation of each row. -/
  | layernorm (core : Nat) (f : IFields)
  /-- ARGMAX (R177): Index of the row maximum, ties to the lowest index. -/
  | argmax (core : Nat) (f : IFields)
  /-- NARROW (R109): Narrows activations for a narrowing point and reaches its ACCEPT or RERUN verdict. -/
  | narrow (core : Nat) (f : IFields)
  /-- DEQ (R104): Dequantises complete sums into floating-point rows. -/
  | deq (core : Nat) (f : IFields)
  /-- KVSTORE (R116): Writes key and value rows into KV8 cache pages. -/
  | kvstore (core : Nat) (f : IFields)
  /-- EMBED8 (R118): Stores vectors in E8 form. -/
  | embed8 (core : Nat) (f : IFields)
  /-- SAMPLE (R213): Samples one token per emitting sequence from its logit row. -/
  | sample (core : Nat) (f : IFields)
  /-- FENCE (R181): Waits for completion groups and earlier instructions. -/
  | fence (core : Nat) (f : IFields)
  /-- SIGNAL (R182): Adds to an event counter after earlier writes are visible. -/
  | signal (core : Nat) (f : IFields)
  /-- WAITEV (R181): Waits until an event counter reaches a value. -/
  | waitev (core : Nat) (f : IFields)
  /-- SLOTWAIT (R181): Waits until replica fabric time reaches a time. -/
  | slotwait (core : Nat) (f : IFields)
  /-- SSEND (R183): Sends bytes by Strait to a group member. -/
  | ssend (core : Nat) (f : IFields)
  /-- SRECV (R183): Waits for a Strait message with a tag, with a deadline. -/
  | srecv (core : Nat) (f : IFields)
  /-- SRECV_TIMEOUT (R183): An SRECV's deadline passes without a reply and it completes with TIMEOUT. -/
  | srecvTimeout (core : Nat)
  /-- PEER_SEARCH (R183): Submits a Search parameter block to the SRE as a job of its own. -/
  | peerSearch (core : Nat) (f : IFields)
  -- Vector unit tables and matrix checks (05, 07)
  /-- SFU_TBL_DATA_WRITE (R206): Writes one word of the inactive table bank and advances the address. -/
  | sfuTblDataWrite (p : Path) (w : Word)
  /-- SFU_COMPAT1_WRITE (R208): A write of SFU_CTRL.COMPAT1, taken by jobs that start after it. -/
  | sfuCompat1Write (p : Path) (w : Word)
  /-- SFU_TBL_DATA_READ (R219): Reads one word of READ_BANK and advances the address. -/
  | sfuTblDataRead (p : Path)
  /-- SFU_TBL_COMMIT (R206): Checks and commits the inactive bank, copying it to every core and measuring it. -/
  | sfuTblCommit (p : Path)
  /-- CHECK_INJECT_ARM (R145): Arms one deliberate fault in the next checked pass of a core. -/
  | checkInjectArm (p : Path) (core : Nat) (w : Word)
  -- On-chip memories (08)
  /-- OCM_DIAG_WRITE (R226): Sets all ports to fixed mode, or is refused with OCM_CFG_REFUSED. -/
  | ocmDiagWrite (p : Path) (w : Word)
  /-- ECC_FLIPMASK_ARM (R235): Arms corruption of the next master write to an on-chip bank. -/
  | eccFlipmaskArm (p : Path) (w : Word)
  /-- ATOLL_RESIZE (R241): A write of OCM_ATOLL_CFG.BANKS, which zeroes changing banks and resizes the Atoll or is refused. -/
  | atollResize (p : Path) (w : Word)
  /-- BANK_POWER_WRITE (R231): Programs bank power states, refused whole for a bank in use. -/
  | bankPowerWrite (p : Path) (off : Nat) (w : Word)
  /-- AUTO_RETENTION (R229): An AUTO bank idle for OCM_AUTO_IDLE_US enters retention. -/
  | autoRetention (b : BankId)
  /-- BANK_WAKE (R230): An access to a bank in retention waits until the bank is ON. -/
  | bankWake (b : BankId)
  /-- BGT_REGION_START (R237): Every INTERVAL_US a test engine claims the next region, saves it, runs March C− and restores it. -/
  | bgtRegionStart (core : Option Nat) (out : MarchOut)
  -- External memory and Compass (09)
  /-- XMC_FLIP_ARM (R256): Arms the channel flip mask for the next master write. -/
  | xmcFlipArm (p : Path) (ch : Nat)
  /-- SCRUB_GO (R257): Starts a scrub of a burst range, or refuses it. -/
  | scrubGo (p : Path) (w : Word)
  /-- SCRUB_ABORT (R258): Stops a scrub within 2 µs. -/
  | scrubAbort (p : Path) (w : Word)
  /-- SCRUB_DONE (R258): A scrub reaches the end of its range and sets DONE. -/
  | scrubDone
  /-- XMC_TRACKING (R261): Every 16 ms the XMC reads each device's oscillator and adjusts its delays. -/
  | xmcTracking (ch rate : Nat) (atEnd : Bool)
  /-- OBJ_REFETCHED (R274): An uncorrectable burst of an immutable object is refetched from flash. -/
  | objRefetched (addr : Nat)
  /-- STAGE_FETCH (R271): Compass fetches a layer's STREAM or COLD tensors into a free staging half. -/
  | stageFetch (ctx layer : Nat)
  /-- DEMOTE_COMPLETE (R272): A demoted page's flash write completes and the page becomes absent. -/
  | demoteComplete (ctx seq layer page : Nat)
  /-- PAGE_FETCH_COMPLETE (R71): An absent page arrives in external memory and stalled tasks proceed. -/
  | pageFetchComplete (ctx seq layer page : Nat)
  -- Vector search (10)
  /-- QUERY_COMPLETE (R293): A query's traversal, re-rank reads and filter finish and its result is formed, or it expands. -/
  | queryComplete (job : Nat)
  /-- COMPACTION_SWITCH (R300): After the new snapshot is built and queries drain, the SRE loads it and sets FLOOR. -/
  | compactionSwitch (index : Nat)
  /-- INGEST_INSERT (R309): When every record is embedded the ingest inserts them and commits. -/
  | ingestInsert (job : Nat)
  /-- MERGE_DEADLINE (R312): The merge deadline passes and the merger completes with the results received. -/
  | mergeDeadline (job : Nat)
  /-- DELTA_REBUILD (R316): An uncorrectable delta burst is rebuilt from the delta log. -/
  | deltaRebuild (index : Nat) (ok : Bool)
  /-- SRE_HOLD_WRITE (R303): A write of SRE_CTRL.HOLD, which stops or permits new batches. -/
  | sreHoldWrite (p : Path) (w : Word)
  -- Flash (11)
  /-- FLASH_READ_COMPLETE (R330): A die read completes and the codeword is decoded through the ladder. -/
  | flashReadComplete (u : Nat) (r : ReadOut)
  /-- PROGRAM_COMPLETE (R345): A wordline program completes and its map changes are committed. -/
  | programComplete (sb : Nat) (o : ProgOut)
  /-- ERASE_COMPLETE (R345): A die-block erase completes and the superblock returns to the free pool. -/
  | eraseComplete (sb : Nat) (o : EraseOut)
  /-- WRITE_BUFFER_DRAIN (R338): The MTE drains write-buffer slots to flash and frees them once durable. -/
  | writeBufferDrain (n : Nat)
  /-- MAP_CHECKPOINT (R340): The MTE checkpoints a 16 MiB map segment to flash. -/
  | mapCheckpoint (seg : Nat)
  /-- BACKGROUND_GC (R346): After FTL_BG_IDLE_MS without commands, garbage collection runs at class 3. -/
  | backgroundGc
  /-- FOREGROUND_GC (R347): Free superblocks fall below FTL_GC_LW and garbage collection runs at class 1 with write throttling. -/
  | foregroundGc
  /-- SLC_FOLD (R349): The MTE folds the oldest SLC superblock into QLC. -/
  | slcFold
  /-- POWER_LOSS_FLUSH (R350): Flush of every occupied slot and both journal tails into the flash area, ending with the closing record. -/
  | powerLossFlush (complete : Bool)
  /-- MTE_DIAG_GO (R363): Decodes a unit through steps 1 and 2 and writes the result. -/
  | mteDiagGo (p : Path) (page : Nat) (w : Word)
  /-- CHANNEL_STOPS_RESPONDING (R334): A NAND channel stops responding, and the MTE retires its 16 dies, records DIE_RETIRED and relocates their units. -/
  | channelStopsResponding (ch : Nat)
  -- Network, Sextant and Strait (13)
  /-- LINK_EN_WRITE (R399): A write of NIU_CTRL.LINK_EN, which starts or stops link bring-up. -/
  | linkEnWrite (p : Path) (w : Word)
  /-- AUTO_NEGOTIATION_TIMEOUT (R399): The link is not up within 1 s and auto-negotiation restarts. -/
  | autoNegotiationTimeout
  /-- LINK_UP (R399): All four lanes have block lock and FEC alignment and the link is declared up. -/
  | linkUp
  /-- LINK_DOWN (R401): A lane loses lock and the link goes down with its effects on queues, connections, Strait and the Sextant. -/
  | linkDown
  /-- FEC_WINDOW (R400): A 1 s window ends and FEC_DEGRADED sets or clears. -/
  | fecWindow (fixed errs : Nat)
  /-- FRAME_RECEIVE (R405): A received frame enters the receive queue of its priority or is dropped. -/
  | frameReceive (fr : Frame)
  /-- PFC_REPEAT (R407): Every 20 µs the pause is repeated until the queue reaches 4,096 free entries. -/
  | pfcRepeat (prio : Nat)
  /-- PFC_PAUSE_EXPIRY (R408): The pause quanta that the partner set for a priority run out and the MAC resumes sending frames of that priority. -/
  | pfcPauseExpiry (prio : Nat)
  /-- PFC_FRAME (R408): A received PFC frame pauses or releases a transmit priority. -/
  | pfcFrame (prio quanta : Nat)
  /-- PAUSE_FRAME (R398): A received IEEE 802.3 PAUSE frame is counted and ignored. -/
  | pauseFrame
  /-- TX_UNDERRUN (R406): The MAC runs dry inside a cut-through frame and ends it with an inverted FCS. -/
  | txUnderrun
  /-- XQ_PTR_FAULT (R410): A pointer fault pauses, empties and resets a crossing queue. -/
  | xqPtrFault (rx : Bool) (prio : Nat)
  /-- ARP_REQUEST (R403): An ARP or neighbour discovery request is answered. -/
  | arpRequest (fr : Frame)
  /-- ICMP_ECHO (R402): An ICMP echo request is answered. -/
  | icmpEcho (fr : Frame)
  /-- GATEWAY_REFRESH (R403): Every 30 s the NIU refreshes the gateway's link address. -/
  | gatewayRefresh
  /-- UNRESOLVED_TIMEOUT (R403): A packet to an unresolved destination is discarded after 1 s. -/
  | unresolvedTimeout
  /-- TCP_RETRANSMIT_TIMEOUT (R404): The TCP retransmission timeout expires and the segment is resent with a doubled timeout. -/
  | tcpRetransmitTimeout (conn : Nat)
  /-- IP_ADDRESS_WRITE (R403): A write of an IP address register, which resets connections bound to a changed address. -/
  | ipAddressWrite (p : Path) (off : Nat) (w : Word)
  /-- PTP_SYNC (R411): A PTP Sync message is timestamped and used. -/
  | ptpSync (m : PtpMsg)
  /-- PTP_FOLLOW_UP (R411): A two-step PTP Follow_Up message supplies the precise Sync origin time and completes the offset measurement. -/
  | ptpFollowUp (m : PtpMsg)
  /-- PTP_DELAY_RESP (R411): A Delay_Resp completes a delay measurement. -/
  | ptpDelayResp (m : PtpMsg)
  /-- PTP_ANNOUNCE (R413): An Announce message enters the best-master comparison and may change the grandmaster. -/
  | ptpAnnounce (m : PtpMsg)
  /-- DELAY_REQ_SEND (R411): The module sends a Delay_Req at the announced interval. -/
  | delayReqSend
  /-- REFERENCE_LOST (R414): No valid Sync pair for 3 intervals or announce timeout, and the Sextant leaves its state. -/
  | referenceLost
  /-- HOLDOVER (R414): 60 s after the loss the Sextant enters HOLDOVER. -/
  | holdover
  /-- LOST (R414): 600 s after the loss the Sextant enters LOST. -/
  | lost
  /-- PPS_IN_EDGE (R417): An accepted PPS_IN rising edge marks a whole second, or is rejected. -/
  | ppsInEdge (t : Nat)
  /-- PPS_OUT_PULSE (R418): At each whole second PPS_OUT rises for its width. -/
  | ppsOutPulse
  /-- PPS_OUT_PULSE_END (R418): SEXTANT_PPS_OUT.WIDTH_US after a PPS_OUT rise, PPS_OUT falls. -/
  | ppsOutPulseEnd
  /-- SOURCE_WRITE (R419): A write of SEXTANT_CTRL.SOURCE, which changes the time source or is ignored. -/
  | sourceWrite (p : Path) (w : Word)
  /-- TOD_SEC_WRITE (R417): A write of SEXTANT_TOD_SEC_HI, which arms the second for the next edge. -/
  | todSecWrite (p : Path) (w : Word)
  /-- DATA_MESSAGE (R426): A Strait DATA message is matched to an open receive or held. -/
  | dataMessage (m : StraitMsg)
  /-- QUERY_MESSAGE (R311): A Strait QUERY is queued for the named SEARCH_BATCH slot. -/
  | queryMessage (m : StraitMsg)
  /-- RESULT_MESSAGE (R426): A Strait RESULT is matched to the merger's query. -/
  | resultMessage (m : StraitMsg)
  /-- ACK_MESSAGE (R424): A Strait ACK acknowledges segments cumulatively. -/
  | ackMessage (m : StraitMsg)
  /-- SYNC_MESSAGE (R427): A Strait SYNC is answered with SYNC_REPLY. -/
  | syncMessage (m : StraitMsg)
  /-- SYNC_REPLY_MESSAGE (R428): A SYNC_REPLY gives offset and round trip and decides whether the member is in step. -/
  | syncReplyMessage (m : StraitMsg)
  /-- STRAIT_ACK_TIMER (R424): 2 µs after an unacknowledged segment the receiver sends an ACK. -/
  | straitAckTimer (grp mem : Nat)
  /-- STRAIT_RETRANSMIT (R424): STRAIT_RTO expires and every unacknowledged segment is resent. -/
  | straitRetransmit (grp mem : Nat)
  /-- MEMBER_STALE (R428): No SYNC_REPLY from a member has arrived within 3 × STRAIT_SYNC_MS, so the member stops being in step and GROUP_OUT_OF_STEP is recorded. -/
  | memberStale (grp mem : Nat)
  /-- SYNC_INTERVAL (R427): Every STRAIT_SYNC_MS the module sends SYNC to every member. -/
  | syncInterval
  /-- HELD_MESSAGE_EXPIRY (R426): A held message waits STRAIT_HOLD_MS without a match and is discarded. -/
  | heldMessageExpiry (k : Nat)
  /-- STRAIT_MEM_CFG_WRITE (R431): A write of STRAIT_MEM_CFG applies a member's address and resets its sequences. -/
  | straitMemCfgWrite (p : Path) (off : Nat) (w : Word)
  /-- STRAIT_GRP_CFG_WRITE (R431): A write of a group slot's configuration, which discards held messages when set to 0. -/
  | straitGrpCfgWrite (p : Path) (off : Nat) (w : Word)
  /-- STRAIT_PORT_WRITE (R431): A write of STRAIT_PORT, after which datagrams to the old port are discarded. -/
  | straitPortWrite (p : Path) (off : Nat) (w : Word)
  -- Management and security (14)
  /-- MSP_WATCHDOG (R438): The watchdog expires after 1 s and performs a management reset. -/
  | mspWatchdog
  /-- MANAGEMENT_RESET (R439): The management core restarts at the boot ROM and leaves the data path running. -/
  | managementReset
  /-- SECTOR_PROGRAM_COMPLETE (R447): A NOR sector erase and program of a firmware update completes and progress advances. -/
  | sectorProgramComplete (ok : Bool)
  /-- GET_VERSION (R456): SPDM GET_VERSION. -/
  | getVersion (m : List Byte)
  /-- GET_CAPABILITIES (R456): SPDM GET_CAPABILITIES. -/
  | getCapabilities (m : List Byte)
  /-- NEGOTIATE_ALGORITHMS (R456): SPDM NEGOTIATE_ALGORITHMS. -/
  | negotiateAlgorithms (m : List Byte)
  /-- GET_DIGESTS (R456): SPDM GET_DIGESTS. -/
  | getDigests (m : List Byte)
  /-- GET_CERTIFICATE (R455): SPDM GET_CERTIFICATE returning a certificate chain. -/
  | getCertificate (m : List Byte)
  /-- CHALLENGE (R456): SPDM CHALLENGE, signed with the identity key or refused when none is held. -/
  | challenge (m : List Byte)
  /-- GET_MEASUREMENTS (R457): SPDM GET_MEASUREMENTS returning the measurement blocks. -/
  | getMeasurements (m : List Byte)
  /-- CHUNK_SEND (R456): SPDM CHUNK_SEND. -/
  | chunkSend (m : List Byte)
  /-- CHUNK_GET (R456): SPDM CHUNK_GET. -/
  | chunkGet (m : List Byte)
  /-- SESSION_OPEN (R458): A management session OPEN answered with ACCEPT. -/
  | sessionOpen (m : List Byte)
  /-- SESSION_AUTH (R458): AUTH for role OWNER or MADELVAR, verified against the key hash. -/
  | sessionAuth (m : List Byte)
  /-- SESSION_RECORD (R458): An authenticated RECORD message carrying a management command. -/
  | sessionRecord (m : List Byte)
  /-- SESSION_IDLE_TIMEOUT (R458): 60 s without a message closes the session. -/
  | sessionIdleTimeout
  /-- PROVISION (R459): Draws the UDS and nonces and moves BLANK to PROVISIONED. -/
  | provision (a : List Byte)
  /-- CERT_WRITE (R459): Writes a certificate chain to slot 0 or 1. -/
  | certWrite (a : List Byte)
  /-- TAKE_OWNERSHIP (R459): Stores the owner key hash and moves PROVISIONED to OPERATIONAL. -/
  | takeOwnership (a : List Byte)
  /-- PSK_INSTALL (R454): Installs a PSK in the key store and the Atoll. -/
  | pskInstall (a : List Byte)
  /-- PSK_DELETE (R454): Deletes a PSK. -/
  | pskDelete (a : List Byte)
  /-- CONFIG_WRITE (R460): Writes stored fields to the configuration copy and applies them. -/
  | configWrite (a : List Byte)
  /-- TAMPER_CFG (R459): Writes MSP_TAMPER_EN.LOOP_EN to the configuration. -/
  | tamperCfg (a : List Byte)
  /-- RETURN (R461): Moves OPERATIONAL to RETURN and destroys owner data and keys. -/
  | retire (a : List Byte)
  /-- DECOMMISSION (R461): Moves to DECOMMISSIONED and locks the KDE permanently. -/
  | decommission (a : List Byte)
  /-- REPROVISION (R461): Moves RETURN to PROVISIONED. -/
  | reprovision (a : List Byte)
  /-- TAMPER_CLEAR (R461): Moves TAMPERED to BLANK, erasing keys and killing the UDS slot. -/
  | tamperClear (a : List Byte)
  /-- REVOKE_FW_KEY (R459): Blows the revocation fuse of one firmware key. -/
  | revokeFwKey (a : List Byte)
  /-- TAMPER_EVENT (R465): A tamper source fires; the KDE locks, the Atoll is wiped, jobs abort and the state becomes TAMPERED. -/
  | tamperEvent (src : Nat)
  /-- TAMPER_LOOP_MEASURE (R496): Every 2 µs the module measures the tamper loop. -/
  | tamperLoopMeasure (ok : Bool)
  /-- KEYSTORE_ERASE (R465): The xSPI sequencer erases both key store copies and certificate slot 0 after a tamper event. -/
  | keystoreErase
  /-- COMMAND_INTERRUPTED (R439): A command that waits for the management core completes with Command Interrupted, or with MGMT_BUSY for Index Mutate CREATE, when the core has not returned within 1 s. -/
  | commandInterrupted (t : Tag)
  /-- MCTP_CONTROL_MESSAGE (R492): An MCTP control message is answered, and in the AUX-only state any other MCTP message gets ERROR_NOT_READY. -/
  | mctpControlMessage (m : List Byte)
  /-- ENTDAA (R491): The I3C ENTDAA procedure gives the module's I3C target its dynamic address from its provisional ID. -/
  | entdaa (addr : Nat)
  -- Resets and power (15, 16)
  /-- POWER_ON_RESET (R479): Power good after absence starts a power-on reset and start-up. -/
  | powerOnReset
  /-- MODULE_RESET (R494): A module reset takes effect after the flush and start-up follows. -/
  | moduleReset
  /-- DEVICE_RESET (R483): A device reset unloads contexts and returns to ready within 50 ms. -/
  | deviceReset
  /-- START_UP (R482): Start-up proceeds through ROM, image verify, training, key unwrap, map rebuild and link up to ready. -/
  | startUp (o : BootOut)
  /-- READY (R482): Start-up reaches ready and the QCU accepts connections. -/
  | ready
  /-- PWR_EN_EDGE (R493): A filtered edge of PWR_EN switches the converters on or starts the flush and switches them off. -/
  | pwrEnEdge (level : Bool)
  /-- MOD_RST_N_EDGE (R494): A filtered edge of MOD_RST_N starts the flush and module reset, or releases start-up. -/
  | modRstNEdge (level : Bool)
  /-- BRAKE_N_EDGE (R505): A filtered edge of BRAKE_N enters brake level within 50 µs or ends it. -/
  | brakeNEdge (level : Bool)
  /-- AUX_3V3_CHANGE (R492): AUX_3V3 appears or disappears, starting or ending the AUX domain's tamper monitoring and MCTP service while the main converters are off. -/
  | aux3v3Change (level : Bool)
  /-- BRAKE_TOGGLE_HOLD_END (R506): BRAKE_N stays high 10 ms and the toggle hold ends. -/
  | brakeToggleHoldEnd
  /-- BRAKE_HELD (R506): BRAKE_N stays low 60 s and BRAKE_HELD is recorded. -/
  | brakeHeld
  /-- INPUT_VOLTAGE_EVENT (R497): The 54 V input leaves its range for a stated time, causing a dip cap, ride-through, overvoltage or flush. -/
  | inputVoltageEvent (v : VoltEvent)
  /-- GOVERNOR_INTERVAL (R501): Each 10 µs the governor measures power and sets the gated arrays and peak grant for the next interval. -/
  | governorInterval (mw mv : Nat)
  /-- THERMAL_READ (R510): Every 1 ms the governor reads each sensor and forms the thermal caps. -/
  | thermalRead (sensor : Nat) (dc : Int)
  /-- HOLDUP_MEASUREMENT (R498): At power good and every 24 h the governor measures the hold-up store's energy. -/
  | holdupMeasurement (mj : Nat)
  /-- FLIT_GROUP_CRC_FAIL (R20): A die-to-die flit group fails its CRC, is replayed from the retry buffer and recorded as LINK_REPLAY, and after 8 consecutive failed replays raises FATAL LINK_DOWN. -/
  | flitGroupCrcFail (replayOk : Bool)
  /-- CLASS_LATE (R29): A class 0 request's wait at an arbiter passes its bound of R27, and CLASS_LATE is recorded unattached with the resource and the measured wait. -/
  | classLate (resource inst cls wait : Nat)
  /-- PS4_FABRIC_CLOCK_STOP (R22): In PS4, 100 µs after the last KEY or MSP access to an Atoll bank, the module stops the fabric clock it restarted for that bank. -/
  | ps4FabricClockStop
  /-- ACT_LED_TIMEOUT (R491): 50 ms after the last NVM or BCS completion, ACT_LED_N goes high. -/
  | actLedTimeout
  deriving DecidableEq, Repr

end Sys2Proof
end

