-- ==== Sys2Proof/Decode.lean ====
section
/-! DEFINITION. The table of operations and events gives no row any bits: a command reaches the part as a register access, a
capsule, a pin event or a timer, and no word spells one. -/
namespace Sys2Proof

/-- The command that a word of the table's bits spells: no row of the table has bits, so no word spells one. -/
def decodeTableWord (_nbits _w : Nat) : Option Instr := none

end Sys2Proof
end

