-- ==== Sys2Proof/Config.lean ====
section
/-! DEFINITION. What an implementation fixes and the free values: values that the spec leaves undefined or does not state.
Each free value is a constant with no body, so that no proof can see what it is. -/
namespace Sys2Proof.Config

/-- Free values drawn one after another: a random draw, an undefined byte, an unstated value (log entry 3). -/
opaque free : Nat → Nat
/-- Time from a job fault's record to the end of its abort, in ns; the step's bound of 4 µs is applied where it is used
(R88, R468; log entry 4). -/
opaque abortNs : Nat → Nat
/-- Words of the default SFU table set of the firmware image, by word 0 to 4,095 (R205; log entry 5). -/
opaque sfuDefault : Nat → Nat
/-- Result of a Cartik 1 special-function evaluation, by function, input and β (R209, R210; log entry 6). -/
opaque compat1 : Nat → Nat → Nat → Nat
/-- Result of VECTOR MAX (true) or MIN (false) for operands of which one is a NaN (log entry 7). -/
opaque maxNaN : Bool → Nat → Nat → Nat
/-- Whether VECTOR MAX or MIN of two zeros of opposite sign returns its first operand (log entry 7). -/
opaque zeroFirst : Bool → Bool
/-- exp2 as the TAIL form of a segment evaluates it, by the 40-bit significand and exponent of its argument: significand
and exponent of the result (R199; log entry 8). -/
opaque tailExp2 : Bool → Nat → Int → Nat × Int
/-- MXC_FUSE_STATUS of each core (R146, R153; log entry 9). -/
opaque fuseStatus : Nat → Nat
/-- CHIP_STEPPING and the words of CHIP_SERIAL (R47; log entry 9). -/
opaque stepping : Nat
/-- 128-bit unit serial number. -/
opaque serial : Nat
/-- Data returned as corrected for a burst with three or more symbols in error, and whether it is reported uncorrectable
(R255; log entry 10). -/
opaque tripleUncorr : Nat → Nat → Bool
/-- The undefined byte such a read may return. -/
opaque tripleByte : Nat → Nat → Nat
/-- Byte that a DMA copy writes where its own destination overlaps its source, by a drawn number and the byte's place (R170; log entry 31). -/
opaque dmaByte : Nat → Nat → Nat
/-- Whether the product of an argument by log2 e, formed with 40 fraction bits, is rounded up, by argument (R198; log entry 32). -/
opaque log2eUp : Nat → Bool
/-- BF16 page scale of a head whose opening positions hold a value that is not finite (R116; log entry 15). -/
opaque kvScaleFree : Nat → Nat

/-- Stored byte of an element that is not finite, converted to E8 (R118; log entry 15). -/
opaque e8Free : Nat → Nat
/-- Element of a query or vector of norm zero divided by its norm (R290, R291; log entry 15). -/
opaque zeroNorm : Nat → Nat
/-- Place of a NaN distance in the order of candidates (R293; log entry 15). -/
opaque nanKey : Nat → Int
/-- Delta bytes that an operation takes: operation code, bytes of a compressed code, neighbours of a list (R298; log entry 16). -/
opaque deltaBytes : Nat → Nat → Nat → Nat
/-- ML-DSA-87 verification under FIPS 204: public key, message digest, signature (R444, R458; log entry 20). -/
opaque mldsaVerify : List Byte → List Byte → List Byte → Bool
/-- ML-DSA-87 signature of a message digest under the identity seed (R458; log entry 20). -/
opaque mldsaSign : Nat → List Byte → List Byte
/-- ML-DSA-87 public key generated from an identity seed (R451). -/
opaque mldsaPub : Nat → List Byte
/-- KMAC256 of a device secret over a label: the identity seed (R451; log entry 20). -/
opaque kmacSeed : Nat → Nat → Nat
/-- ML-KEM-1024 encapsulation to a key with fresh randomness: the ciphertext and the shared secret (R458; log entry 20). -/
opaque mlkemEncaps : List Byte → Nat → List Byte × Nat
/-- AES-256-GCM opening and sealing of a session record: shared secret, transcript hash, count, bytes (R458; log entry 20). -/
opaque gcmOpen : Nat → List Byte → Nat → List Byte → Option (List Byte)
/-- Sealing of a session record. -/
opaque gcmSeal : Nat → List Byte → Nat → List Byte → List Byte
/-- Fused hashes of the four firmware keys and of the Madelvar service key (R444, R458; log entry 9). -/
opaque fwKeyHash : Nat → List Byte
/-- Fused hash of the Madelvar service key. -/
opaque serviceKeyHash : List Byte
/-- Boot ROM version and digest (R457, R466; log entry 9). -/
opaque romVersion : Nat
/-- SHA3-512 digest of the boot ROM. -/
opaque romDigest : List Byte
/-- Version, SVN, key index and digest of the image programmed at manufacture (log entry 9). -/
opaque factoryImage : Nat × Nat × Nat × List Byte
/-- MAC address, and the PTP latencies measured in manufacture (R412, R432; log entry 9). -/
opaque macAddr : Nat
/-- NIU_PTP_LAT. -/
opaque ptpLat : Nat
/-- Frequency of a clock domain in kHz as FMEAS measures it is an input of its event; size of a slew of fabric time that one
offset measurement makes, by offset: bounded where it is used (R415; log entry 17). -/
opaque slew : Nat → Int → Int

/-- Bits of the controller capabilities that the spec does not state (R369; log entry 41). -/
opaque capOpen : Nat
/-- Bytes of Identify data structures and of log pages that the spec does not state, by structure or page and offset (R369; log entry 41). -/
opaque identOpen : Nat → Nat → Nat
/-- Bytes of log pages likewise. -/
opaque logOpen : Nat → Nat → Nat
/-- Value a feature has before it is set, by feature (R369; log entry 41). -/
opaque featDefault : Nat → Nat

/-- Madelvar's IANA enterprise number and the CTExponent that the module reports (R456; log entry 45). -/
opaque enterprise : Nat
/-- CTExponent of the CAPABILITIES response. -/
opaque ctExponent : Nat

end Sys2Proof.Config
end

