-- ==== Sys2Proof/Machine/Bits.lean ====
section
/-! DEFINITION. Bit fields, byte order and sign extension. Registers and in-memory descriptors are little-endian; fields
of network frames are in network byte order (R11). -/
namespace Sys2Proof.Machine

/-- Bits [hi:lo] of a natural number. -/
def bits (w hi lo : Nat) : Nat := (w >>> lo) % 2 ^ (hi + 1 - lo)

/-- Bit `i` of a natural number. -/
def bit (w i : Nat) : Bool := (w >>> i) % 2 == 1

/-- A Bool as the number 0 or 1. -/
def b2n (b : Bool) : Nat := if b then 1 else 0

/-- Little-endian value of a byte list (R11). -/
def leNat : List Byte → Nat
  | [] => 0
  | b :: bs => b.toNat + 256 * leNat bs

/-- Big-endian value of a byte list (network byte order, R11). -/
def beNat (bs : List Byte) : Nat := leNat bs.reverse

/-- The `n` low bytes of `v`, little-endian. -/
def leBytes : Nat → Nat → List Byte
  | 0, _ => []
  | n + 1, v => BitVec.ofNat 8 v :: leBytes n (v / 256)

/-- The `n` low bytes of `v`, network byte order. -/
def beBytes (n v : Nat) : List Byte := (leBytes n v).reverse

/-- `n` bytes of a list from offset `off`, zero-filled past its end. -/
def slice (bs : List Byte) (off n : Nat) : List Byte :=
  let t := (bs.drop off).take n
  t ++ List.replicate (n - t.length) 0

/-- The little-endian field of `n` bytes at offset `off`. -/
def fld (bs : List Byte) (off n : Nat) : Nat := leNat ((bs.drop off).take n)

/-- The network-order field of `n` bytes at offset `off`. -/
def fldBE (bs : List Byte) (off n : Nat) : Nat := beNat ((bs.drop off).take n)

/-- Every byte from offset `lo` to `hi - 1` is zero. -/
def zeroRange (bs : List Byte) (lo hi : Nat) : Bool := ((bs.drop lo).take (hi - lo)).all (· == 0)

/-- Pad with zeros to `n` bytes. -/
def padTo (n : Nat) (bs : List Byte) : List Byte := bs ++ List.replicate (n - bs.length) 0

/-- The signed value of the `n` low bits of `v` (two's complement). -/
def signed (n v : Nat) : Int :=
  let u := v % 2 ^ n
  if 2 * u < 2 ^ n then (u : Int) else (u : Int) - (2 ^ n : Nat)

/-- Two's complement of an integer in `n` bits. -/
def toBits (n : Nat) (i : Int) : Nat := (i % (2 ^ n : Nat)).toNat

/-- Sign extension of an immediate to 64 bits ("sext", R164). -/
def sext64 (w : Word) : DWord := w.signExtend 64

/-- ⌈a ÷ b⌉. -/
def cdiv (a b : Nat) : Nat := (a + b - 1) / b

/-- `a` rounded up to a multiple of `b`. -/
def roundUp (a b : Nat) : Nat := cdiv a b * b

/-- Fabric time and other 64-bit counts wrap modulo 2^64. -/
def w64 (n : Nat) : Nat := n % 2 ^ 64

/-- ⌊log2 n⌋, 0 for 0. -/
def lg2 (n : Nat) : Nat := Nat.log2 n

/-- ⌈log2 n⌉, 0 for 0 and 1. -/
def clog2 (n : Nat) : Nat := if n ≤ 1 then 0 else Nat.log2 (n - 1) + 1

/-- Bits set in the low `n` bits of `v`, lowest first. -/
def setBits (v : Nat) : Nat → List Nat
  | 0 => []
  | n + 1 => setBits v n ++ (if bit v n then [n] else [])

/-- Number of bits set in the low `n` bits of `v`. -/
def popc (v n : Nat) : Nat := (setBits v n).length

/-- Exclusive or of a byte list with a pattern, byte by byte. -/
def xorBytes (a b : List Byte) : List Byte := List.zipWith (· ^^^ ·) a b

/-- Replace element `i` of a list. -/
def setAt {α : Type} (xs : List α) (i : Nat) (v : α) : List α := xs.set i v

/-- Overwrite bytes from offset `off`, zero-filling a gap. -/
def overwrite (bs : List Byte) (off : Nat) (d : List Byte) : List Byte :=
  let pre := padTo off (bs.take off)
  pre ++ d ++ bs.drop (off + d.length)

/-- The ASCII bytes of a string. -/
def strBytes (s : String) : List Byte := s.toList.map fun c => BitVec.ofNat 8 c.toNat

end Sys2Proof.Machine
end

