-- ==== Sys2Proof/Machine/RegTab.lean ====
section
/-! DEFINITION. The register fields of every page, as the register tables of 02 to 16 give them: offset, lowest bit, width,
access type (R14), reset domain (R18) and reset value. A field of a block with several pages stands once, under the block's
type (R45). Fields whose access is RO and whose value other state gives are read through the views of RegView. -/
namespace Sys2Proof.Machine

/-- Access types of R14 (Rsvd fields have no row). -/
inductive Acc where
  | ro
  | rw
  | w1c
  | w1s
  | wo
  deriving DecidableEq, Repr

/-- Reset domains of R18; a field kept in flash or in the configuration copy is `stored`, one with no reset `fixed`. -/
inductive Dom where
  | p
  | m
  | d
  | i
  | stored
  | fixed
  deriving DecidableEq, Repr

/-- One register field. -/
structure RegRow where
  off : Nat
  lo : Nat
  width : Nat
  acc : Acc
  dom : Dom
  val : Nat
  deriving DecidableEq, Repr

/-- Fields of the CHIP page (R47). -/
def regsChip : List RegRow :=
  [⟨0x100, 0, 32, .ro, .fixed, 0x0⟩,
   ⟨0x104, 0, 4, .rw, .d, 0x2⟩,
   ⟨0x104, 8, 1, .ro, .d, 0x0⟩,
   ⟨0x108, 0, 16, .ro, .fixed, 0x0⟩,
   ⟨0x108, 16, 8, .ro, .fixed, 0x0⟩,
   ⟨0x108, 24, 8, .ro, .fixed, 0x0⟩,
   ⟨0x10C, 0, 8, .ro, .fixed, 0x0⟩,
   ⟨0x10C, 8, 8, .ro, .fixed, 0x0⟩,
   ⟨0x110, 0, 32, .ro, .fixed, 0x0⟩,
   ⟨0x114, 0, 32, .ro, .fixed, 0x0⟩,
   ⟨0x118, 0, 32, .ro, .fixed, 0x0⟩,
   ⟨0x11C, 0, 32, .ro, .fixed, 0x0⟩,
   ⟨0x120, 0, 3, .ro, .p, 0x0⟩,
   ⟨0x120, 4, 3, .ro, .p, 0x0⟩,
   ⟨0x120, 8, 3, .ro, .m, 0x0⟩,
   ⟨0x124, 0, 32, .rw, .p, 0x0⟩]

/-- Fields of the CLKRST page (R48). -/
def regsClkrst : List RegRow :=
  [⟨0x100, 0, 5, .ro, .p, 0x0⟩,
   ⟨0x104, 0, 8, .ro, .p, 0x0⟩,
   ⟨0x108, 0, 5, .ro, .p, 0x1⟩,
   ⟨0x10C, 0, 32, .wo, .fixed, 0x0⟩,
   ⟨0x110, 0, 6, .rw, .d, 0x0⟩,
   ⟨0x110, 31, 1, .w1s, .d, 0x0⟩,
   ⟨0x114, 0, 3, .rw, .d, 0x0⟩,
   ⟨0x114, 31, 1, .w1s, .d, 0x0⟩,
   ⟨0x118, 0, 32, .ro, .d, 0x0⟩]

/-- Fields of the PWR page (R512). -/
def regsPwr : List RegRow :=
  [⟨0x100, 0, 1, .rw, .stored, 0x0⟩,
   ⟨0x100, 1, 1, .rw, .d, 0x0⟩,
   ⟨0x104, 0, 1, .ro, .m, 0x0⟩,
   ⟨0x104, 1, 1, .ro, .m, 0x0⟩,
   ⟨0x104, 2, 1, .ro, .m, 0x0⟩,
   ⟨0x104, 3, 1, .ro, .m, 0x0⟩,
   ⟨0x104, 4, 1, .ro, .m, 0x0⟩,
   ⟨0x104, 5, 1, .ro, .m, 0x0⟩,
   ⟨0x104, 6, 1, .ro, .m, 0x0⟩,
   ⟨0x104, 7, 1, .ro, .m, 0x0⟩,
   ⟨0x108, 0, 10, .rw, .stored, 0x2BC⟩,
   ⟨0x10C, 0, 10, .ro, .m, 0x0⟩,
   ⟨0x10C, 16, 10, .ro, .m, 0x0⟩,
   ⟨0x110, 0, 16, .ro, .m, 0x0⟩,
   ⟨0x110, 16, 12, .ro, .m, 0x0⟩,
   ⟨0x114, 0, 19, .ro, .m, 0x0⟩,
   ⟨0x118, 0, 14, .rw, .stored, 0x0⟩,
   ⟨0x118, 16, 14, .rw, .stored, 0x0⟩,
   ⟨0x11C, 0, 6, .ro, .m, 0x0⟩,
   ⟨0x120, 0, 32, .ro, .m, 0x0⟩,
   ⟨0x124, 0, 16, .ro, .m, 0x0⟩,
   ⟨0x128, 0, 16, .ro, .m, 0x0⟩,
   ⟨0x128, 16, 16, .ro, .m, 0x0⟩,
   ⟨0x12C, 0, 7, .rw, .d, 0x0⟩,
   ⟨0x130, 0, 16, .ro, .m, 0x0⟩,
   ⟨0x130, 16, 7, .ro, .m, 0x0⟩,
   ⟨0x134, 0, 3, .ro, .stored, 0x0⟩,
   ⟨0x134, 3, 1, .ro, .stored, 0x0⟩]

/-- Fields of the MSP page (R466). -/
def regsMsp : List RegRow :=
  [⟨0x100, 0, 8, .ro, .m, 0x0⟩,
   ⟨0x100, 8, 1, .ro, .m, 0x0⟩,
   ⟨0x100, 9, 1, .ro, .m, 0x0⟩,
   ⟨0x100, 10, 1, .ro, .m, 0x0⟩,
   ⟨0x104, 0, 32, .ro, .m, 0x0⟩,
   ⟨0x108, 0, 32, .ro, .fixed, 0x0⟩,
   ⟨0x10C, 0, 6, .ro, .fixed, 0x0⟩,
   ⟨0x110, 0, 4, .ro, .fixed, 0x0⟩,
   ⟨0x114, 0, 6, .ro, .fixed, 0x0⟩,
   ⟨0x114, 8, 4, .ro, .fixed, 0x0⟩,
   ⟨0x114, 12, 4, .ro, .fixed, 0x0⟩,
   ⟨0x114, 16, 4, .ro, .fixed, 0x0⟩,
   ⟨0x114, 20, 4, .ro, .fixed, 0x0⟩,
   ⟨0x118, 0, 4, .ro, .p, 0x0⟩,
   ⟨0x11C, 0, 1, .rw, .stored, 0x1⟩,
   ⟨0x11C, 1, 3, .ro, .fixed, 0x7⟩,
   ⟨0x120, 0, 1, .ro, .m, 0x0⟩,
   ⟨0x120, 1, 2, .ro, .m, 0x0⟩,
   ⟨0x120, 16, 16, .ro, .m, 0x0⟩,
   ⟨0x124, 0, 16, .ro, .m, 0x0⟩,
   ⟨0x124, 16, 16, .ro, .m, 0x0⟩,
   ⟨0x128, 0, 11, .ro, .m, 0x0⟩,
   ⟨0x128, 16, 9, .ro, .m, 0x0⟩,
   ⟨0x128, 25, 1, .ro, .m, 0x0⟩,
   ⟨0x130, 0, 32, .ro, .m, 0x0⟩,
   ⟨0x134, 0, 32, .ro, .m, 0x0⟩,
   ⟨0x138, 0, 32, .ro, .m, 0x0⟩,
   ⟨0x13C, 0, 32, .ro, .m, 0x0⟩,
   ⟨0x140, 0, 32, .ro, .m, 0x0⟩,
   ⟨0x144, 0, 32, .ro, .m, 0x0⟩,
   ⟨0x148, 0, 32, .ro, .m, 0x0⟩,
   ⟨0x14C, 0, 32, .ro, .m, 0x0⟩,
   ⟨0x150, 0, 32, .ro, .m, 0x0⟩,
   ⟨0x154, 0, 32, .ro, .m, 0x0⟩,
   ⟨0x158, 0, 32, .ro, .m, 0x0⟩,
   ⟨0x15C, 0, 32, .ro, .m, 0x0⟩,
   ⟨0x160, 0, 32, .ro, .m, 0x0⟩,
   ⟨0x164, 0, 32, .ro, .m, 0x0⟩,
   ⟨0x168, 0, 32, .ro, .m, 0x0⟩,
   ⟨0x16C, 0, 32, .ro, .m, 0x0⟩,
   ⟨0x170, 0, 32, .ro, .m, 0x0⟩,
   ⟨0x174, 0, 32, .ro, .m, 0x0⟩,
   ⟨0x178, 0, 32, .ro, .m, 0x0⟩,
   ⟨0x17C, 0, 32, .ro, .m, 0x0⟩,
   ⟨0x180, 0, 32, .ro, .m, 0x0⟩,
   ⟨0x184, 0, 32, .ro, .m, 0x0⟩,
   ⟨0x188, 0, 32, .ro, .m, 0x0⟩,
   ⟨0x18C, 0, 32, .ro, .m, 0x0⟩,
   ⟨0x190, 0, 32, .ro, .m, 0x0⟩,
   ⟨0x194, 0, 32, .ro, .m, 0x0⟩,
   ⟨0x198, 0, 32, .ro, .m, 0x0⟩,
   ⟨0x19C, 0, 32, .ro, .m, 0x0⟩,
   ⟨0x1A0, 0, 32, .ro, .m, 0x0⟩,
   ⟨0x1A4, 0, 32, .ro, .m, 0x0⟩,
   ⟨0x1A8, 0, 32, .ro, .m, 0x0⟩,
   ⟨0x1AC, 0, 32, .ro, .m, 0x0⟩]

/-- Fields of the NIU page (R432). -/
def regsNiu : List RegRow :=
  [⟨0x100, 0, 1, .rw, .stored, 0x1⟩,
   ⟨0x100, 1, 1, .rw, .stored, 0x1⟩,
   ⟨0x104, 0, 1, .ro, .m, 0x0⟩,
   ⟨0x104, 1, 1, .ro, .m, 0x0⟩,
   ⟨0x104, 2, 4, .ro, .m, 0x0⟩,
   ⟨0x108, 0, 32, .ro, .fixed, 0x0⟩,
   ⟨0x10C, 0, 16, .ro, .fixed, 0x0⟩,
   ⟨0x110, 0, 12, .rw, .stored, 0x0⟩,
   ⟨0x110, 12, 1, .rw, .stored, 0x0⟩,
   ⟨0x114, 0, 3, .rw, .stored, 0x3⟩,
   ⟨0x114, 3, 3, .rw, .stored, 0x4⟩,
   ⟨0x114, 6, 3, .rw, .stored, 0x6⟩,
   ⟨0x114, 9, 3, .rw, .stored, 0x0⟩,
   ⟨0x118, 0, 6, .rw, .stored, 0x0⟩,
   ⟨0x118, 8, 6, .rw, .stored, 0x0⟩,
   ⟨0x118, 16, 6, .rw, .stored, 0x0⟩,
   ⟨0x11C, 0, 32, .rw, .stored, 0x0⟩,
   ⟨0x120, 0, 6, .rw, .stored, 0x0⟩,
   ⟨0x124, 0, 32, .rw, .stored, 0x0⟩,
   ⟨0x130, 0, 32, .rw, .stored, 0x0⟩,
   ⟨0x134, 0, 32, .rw, .stored, 0x0⟩,
   ⟨0x138, 0, 32, .rw, .stored, 0x0⟩,
   ⟨0x13C, 0, 32, .rw, .stored, 0x0⟩,
   ⟨0x140, 0, 8, .rw, .stored, 0x0⟩,
   ⟨0x150, 0, 32, .rw, .stored, 0x0⟩,
   ⟨0x154, 0, 32, .rw, .stored, 0x0⟩,
   ⟨0x158, 0, 32, .rw, .stored, 0x0⟩,
   ⟨0x15C, 0, 32, .rw, .stored, 0x0⟩,
   ⟨0x160, 0, 8, .rw, .stored, 0x18⟩,
   ⟨0x164, 0, 8, .rw, .d, 0xFF⟩,
   ⟨0x164, 8, 8, .rw, .d, 0x0⟩,
   ⟨0x164, 16, 8, .rw, .d, 0x10⟩,
   ⟨0x168, 0, 8, .ro, .d, 0x0⟩,
   ⟨0x168, 8, 8, .ro, .d, 0x0⟩,
   ⟨0x168, 16, 8, .ro, .d, 0x0⟩,
   ⟨0x16C, 0, 16, .ro, .fixed, 0x0⟩,
   ⟨0x16C, 16, 16, .ro, .fixed, 0x0⟩,
   ⟨0x170, 0, 32, .rw, .stored, 0x0⟩,
   ⟨0x174, 0, 8, .rw, .stored, 0x0⟩,
   ⟨0x174, 8, 2, .rw, .stored, 0x1⟩,
   ⟨0x178, 0, 14, .rw, .stored, 0x2328⟩,
   ⟨0x17C, 0, 16, .rw, .d, 0x10⟩]

/-- Fields of the SEXTANT page (R434). -/
def regsSextant : List RegRow :=
  [⟨0x100, 0, 2, .rw, .stored, 0x0⟩,
   ⟨0x100, 2, 1, .rw, .stored, 0x0⟩,
   ⟨0x100, 3, 1, .rw, .stored, 0x1⟩,
   ⟨0x104, 0, 3, .ro, .m, 0x0⟩,
   ⟨0x104, 3, 1, .ro, .m, 0x0⟩,
   ⟨0x108, 0, 32, .ro, .m, 0x0⟩,
   ⟨0x10C, 0, 32, .ro, .m, 0x0⟩,
   ⟨0x110, 0, 32, .ro, .m, 0x0⟩,
   ⟨0x114, 0, 32, .ro, .m, 0x0⟩,
   ⟨0x118, 0, 24, .rw, .stored, 0x3E8⟩,
   ⟨0x11C, 0, 32, .rw, .m, 0x0⟩,
   ⟨0x120, 0, 16, .rw, .m, 0x0⟩,
   ⟨0x124, 0, 19, .rw, .stored, 0x186A0⟩,
   ⟨0x128, 0, 16, .ro, .m, 0x0⟩,
   ⟨0x12C, 0, 32, .ro, .m, 0x0⟩,
   ⟨0x130, 0, 32, .ro, .m, 0x0⟩,
   ⟨0x134, 0, 32, .ro, .m, 0x0⟩]

/-- Fields of the STRAIT page (R436). -/
def regsStrait : List RegRow :=
  [⟨0x100, 0, 1, .rw, .stored, 0x1⟩,
   ⟨0x104, 0, 16, .rw, .stored, 0x6A0E⟩,
   ⟨0x108, 0, 14, .rw, .d, 0x2000⟩,
   ⟨0x10C, 0, 16, .rw, .d, 0x32⟩,
   ⟨0x10C, 16, 4, .rw, .d, 0x8⟩,
   ⟨0x110, 0, 16, .rw, .d, 0x64⟩,
   ⟨0x110, 16, 16, .rw, .d, 0x1F4⟩,
   ⟨0x114, 0, 16, .rw, .d, 0x64⟩,
   ⟨0x118, 0, 32, .ro, .d, 0x0⟩,
   ⟨0x120, 0, 6, .rw, .d, 0x0⟩,
   ⟨0x124, 0, 16, .rw, .d, 0x0⟩,
   ⟨0x124, 16, 8, .rw, .d, 0x0⟩,
   ⟨0x128, 0, 9, .ro, .d, 0x0⟩,
   ⟨0x128, 16, 9, .ro, .d, 0x0⟩,
   ⟨0x12C, 0, 8, .rw, .d, 0x0⟩,
   ⟨0x130, 0, 1, .rw, .d, 0x0⟩,
   ⟨0x130, 1, 1, .rw, .d, 0x0⟩,
   ⟨0x134, 0, 32, .rw, .d, 0x0⟩,
   ⟨0x138, 0, 32, .rw, .d, 0x0⟩,
   ⟨0x13C, 0, 32, .rw, .d, 0x0⟩,
   ⟨0x140, 0, 32, .rw, .d, 0x0⟩,
   ⟨0x144, 0, 2, .ro, .d, 0x0⟩,
   ⟨0x144, 2, 1, .ro, .d, 0x0⟩,
   ⟨0x144, 3, 1, .ro, .d, 0x0⟩,
   ⟨0x144, 4, 1, .ro, .d, 0x0⟩,
   ⟨0x144, 5, 1, .ro, .d, 0x0⟩,
   ⟨0x148, 0, 32, .ro, .d, 0x0⟩,
   ⟨0x14C, 0, 32, .ro, .d, 0x0⟩]

/-- Fields of the QCU page (R395). -/
def regsQcu : List RegRow :=
  [⟨0x100, 0, 1, .rw, .d, 0x0⟩,
   ⟨0x100, 1, 1, .rw, .d, 0x0⟩,
   ⟨0x100, 2, 1, .rw, .d, 0x0⟩,
   ⟨0x104, 0, 16, .rw, .d, 0x1144⟩,
   ⟨0x104, 16, 16, .rw, .d, 0x1F49⟩,
   ⟨0x108, 0, 13, .ro, .d, 0x0⟩,
   ⟨0x108, 16, 9, .ro, .d, 0x0⟩,
   ⟨0x10C, 0, 11, .ro, .d, 0x0⟩,
   ⟨0x110, 0, 16, .rw, .d, 0x2710⟩,
   ⟨0x114, 0, 9, .ro, .d, 0x0⟩,
   ⟨0x118, 0, 3, .ro, .d, 0x0⟩,
   ⟨0x118, 3, 1, .ro, .d, 0x0⟩]

/-- Fields of the CHART page (R90). -/
def regsChart : List RegRow :=
  [⟨0x100, 0, 1, .rw, .d, 0x0⟩,
   ⟨0x100, 1, 1, .w1s, .d, 0x0⟩,
   ⟨0x104, 0, 1, .ro, .d, 0x0⟩,
   ⟨0x104, 1, 1, .ro, .d, 0x0⟩,
   ⟨0x104, 2, 1, .ro, .d, 0x0⟩,
   ⟨0x104, 3, 1, .ro, .d, 0x0⟩,
   ⟨0x104, 16, 8, .ro, .d, 0x0⟩,
   ⟨0x108, 0, 14, .ro, .d, 0x0⟩,
   ⟨0x10C, 0, 24, .ro, .d, 0x0⟩,
   ⟨0x110, 0, 32, .ro, .d, 0x0⟩,
   ⟨0x114, 0, 32, .ro, .d, 0x0⟩,
   ⟨0x118, 0, 32, .ro, .d, 0x0⟩,
   ⟨0x11C, 0, 32, .ro, .d, 0x0⟩,
   ⟨0x120, 0, 8, .rw, .d, 0x0⟩,
   ⟨0x120, 8, 1, .rw, .d, 0x0⟩,
   ⟨0x124, 0, 32, .ro, .d, 0x0⟩,
   ⟨0x128, 0, 32, .ro, .d, 0x0⟩,
   ⟨0x12C, 0, 32, .ro, .d, 0x0⟩,
   ⟨0x130, 0, 32, .ro, .d, 0x0⟩,
   ⟨0x134, 0, 9, .ro, .d, 0x0⟩,
   ⟨0x134, 31, 1, .ro, .d, 0x0⟩,
   ⟨0x140, 0, 10, .rw, .d, 0x0⟩,
   ⟨0x144, 0, 3, .ro, .d, 0x0⟩,
   ⟨0x144, 3, 1, .ro, .d, 0x0⟩,
   ⟨0x144, 4, 6, .ro, .d, 0x0⟩,
   ⟨0x144, 16, 13, .ro, .d, 0x0⟩,
   ⟨0x148, 0, 1, .w1s, .d, 0x0⟩,
   ⟨0x14C, 0, 16, .ro, .d, 0x0⟩,
   ⟨0x150, 0, 6, .rw, .d, 0x0⟩,
   ⟨0x154, 0, 32, .ro, .d, 0x0⟩,
   ⟨0x158, 0, 16, .ro, .d, 0x0⟩,
   ⟨0x15C, 0, 2, .ro, .d, 0x0⟩]

/-- Fields of the MXC page (R153, R216). -/
def regsMxc : List RegRow :=
  [⟨0x100, 0, 1, .rw, .d, 0x0⟩,
   ⟨0x104, 0, 1, .ro, .i, 0x0⟩,
   ⟨0x104, 1, 1, .ro, .i, 0x0⟩,
   ⟨0x104, 2, 1, .ro, .d, 0x0⟩,
   ⟨0x104, 3, 1, .ro, .d, 0x0⟩,
   ⟨0x104, 4, 6, .ro, .d, 0x0⟩,
   ⟨0x104, 10, 1, .ro, .d, 0x0⟩,
   ⟨0x108, 0, 7, .ro, .fixed, 0x0⟩,
   ⟨0x108, 7, 1, .ro, .fixed, 0x0⟩,
   ⟨0x108, 8, 7, .ro, .fixed, 0x0⟩,
   ⟨0x108, 15, 1, .ro, .fixed, 0x0⟩,
   ⟨0x108, 16, 7, .ro, .fixed, 0x0⟩,
   ⟨0x108, 23, 1, .ro, .fixed, 0x0⟩,
   ⟨0x108, 24, 7, .ro, .fixed, 0x0⟩,
   ⟨0x108, 31, 1, .ro, .fixed, 0x0⟩,
   ⟨0x10C, 0, 2, .rw, .i, 0x0⟩,
   ⟨0x10C, 2, 7, .rw, .i, 0x0⟩,
   ⟨0x10C, 31, 1, .w1s, .i, 0x0⟩,
   ⟨0x110, 0, 8, .rw, .d, 0x4⟩,
   ⟨0x114, 0, 2, .ro, .d, 0x0⟩,
   ⟨0x114, 2, 1, .ro, .d, 0x0⟩,
   ⟨0x114, 8, 8, .ro, .d, 0x0⟩,
   ⟨0x114, 16, 16, .ro, .d, 0x0⟩,
   ⟨0x118, 0, 32, .ro, .d, 0x0⟩,
   ⟨0x11C, 0, 32, .ro, .d, 0x0⟩,
   ⟨0x120, 0, 32, .ro, .d, 0x0⟩,
   ⟨0x400, 0, 1, .ro, .i, 0x0⟩,
   ⟨0x400, 1, 1, .ro, .i, 0x0⟩,
   ⟨0x400, 2, 1, .ro, .i, 0x0⟩,
   ⟨0x404, 0, 16, .ro, .d, 0x0⟩,
   ⟨0x408, 0, 32, .ro, .d, 0x0⟩]

/-- Fields of the SFU page (R219). -/
def regsSfu : List RegRow :=
  [⟨0x100, 0, 1, .rw, .d, 0x0⟩,
   ⟨0x104, 0, 1, .ro, .d, 0x0⟩,
   ⟨0x104, 1, 1, .ro, .d, 0x0⟩,
   ⟨0x104, 2, 1, .ro, .d, 0x0⟩,
   ⟨0x108, 0, 12, .rw, .d, 0x0⟩,
   ⟨0x108, 16, 1, .rw, .d, 0x0⟩,
   ⟨0x10C, 0, 32, .rw, .fixed, 0x0⟩,
   ⟨0x110, 0, 1, .w1s, .d, 0x0⟩,
   ⟨0x114, 0, 16, .ro, .d, 0x0⟩,
   ⟨0x140, 0, 32, .ro, .d, 0x0⟩,
   ⟨0x144, 0, 32, .ro, .d, 0x0⟩,
   ⟨0x148, 0, 32, .ro, .d, 0x0⟩,
   ⟨0x14C, 0, 32, .ro, .d, 0x0⟩,
   ⟨0x150, 0, 32, .ro, .d, 0x0⟩,
   ⟨0x154, 0, 32, .ro, .d, 0x0⟩,
   ⟨0x158, 0, 32, .ro, .d, 0x0⟩,
   ⟨0x15C, 0, 32, .ro, .d, 0x0⟩,
   ⟨0x160, 0, 32, .ro, .d, 0x0⟩,
   ⟨0x164, 0, 32, .ro, .d, 0x0⟩,
   ⟨0x168, 0, 32, .ro, .d, 0x0⟩,
   ⟨0x16C, 0, 32, .ro, .d, 0x0⟩,
   ⟨0x170, 0, 32, .ro, .d, 0x0⟩,
   ⟨0x174, 0, 32, .ro, .d, 0x0⟩,
   ⟨0x178, 0, 32, .ro, .d, 0x0⟩,
   ⟨0x17C, 0, 32, .ro, .d, 0x0⟩]

/-- Fields of the OCM page (R246). -/
def regsOcm : List RegRow :=
  [⟨0x100, 0, 1, .rw, .d, 0x0⟩,
   ⟨0x104, 0, 1, .ro, .d, 0x1⟩,
   ⟨0x104, 1, 1, .ro, .d, 0x1⟩,
   ⟨0x104, 2, 1, .ro, .m, 0x0⟩,
   ⟨0x108, 0, 3, .rw, .m, 0x0⟩,
   ⟨0x10C, 0, 6, .rw, .d, 0x0⟩,
   ⟨0x10C, 6, 1, .rw, .d, 0x0⟩,
   ⟨0x10C, 7, 6, .rw, .d, 0x0⟩,
   ⟨0x10C, 31, 1, .w1s, .d, 0x0⟩,
   ⟨0x110, 0, 32, .rw, .d, 0x0⟩,
   ⟨0x114, 0, 32, .rw, .d, 0x0⟩,
   ⟨0x118, 0, 8, .rw, .d, 0x0⟩,
   ⟨0x11C, 0, 1, .rw, .d, 0x0⟩,
   ⟨0x11C, 1, 1, .rw, .d, 0x0⟩,
   ⟨0x11C, 16, 16, .rw, .d, 0xA⟩,
   ⟨0x120, 0, 6, .ro, .d, 0x0⟩,
   ⟨0x120, 6, 9, .ro, .d, 0x0⟩,
   ⟨0x124, 0, 16, .rw, .d, 0x64⟩,
   ⟨0x128, 0, 6, .ro, .d, 0x0⟩,
   ⟨0x128, 6, 1, .ro, .d, 0x0⟩,
   ⟨0x128, 7, 1, .ro, .d, 0x0⟩,
   ⟨0x128, 8, 6, .ro, .d, 0x0⟩,
   ⟨0x128, 14, 17, .ro, .d, 0x0⟩,
   ⟨0x12C, 0, 32, .ro, .d, 0x0⟩,
   ⟨0x130, 0, 6, .rw, .d, 0x0⟩,
   ⟨0x134, 0, 32, .rw, .m, 0x0⟩,
   ⟨0x138, 0, 32, .ro, .m, 0x0⟩,
   ⟨0x140, 0, 32, .rw, .m, 0x0⟩,
   ⟨0x144, 0, 32, .rw, .m, 0x0⟩,
   ⟨0x148, 0, 32, .rw, .m, 0x0⟩,
   ⟨0x14C, 0, 32, .rw, .m, 0x0⟩,
   ⟨0x150, 0, 32, .ro, .m, 0x0⟩,
   ⟨0x154, 0, 32, .ro, .m, 0x0⟩,
   ⟨0x158, 0, 32, .ro, .m, 0x0⟩,
   ⟨0x15C, 0, 32, .ro, .m, 0x0⟩]

/-- Fields of the XMC page (R279). -/
def regsXmc : List RegRow :=
  [⟨0x100, 0, 1, .ro, .m, 0x0⟩,
   ⟨0x100, 1, 1, .ro, .m, 0x0⟩,
   ⟨0x100, 2, 2, .ro, .m, 0x0⟩,
   ⟨0x100, 4, 1, .ro, .m, 0x0⟩,
   ⟨0x104, 0, 8, .ro, .m, 0x0⟩,
   ⟨0x104, 8, 8, .ro, .m, 0x0⟩,
   ⟨0x104, 16, 8, .ro, .m, 0x0⟩,
   ⟨0x108, 0, 7, .rw, .d, 0x0⟩,
   ⟨0x108, 8, 8, .rw, .d, 0x0⟩,
   ⟨0x108, 16, 7, .rw, .d, 0x0⟩,
   ⟨0x108, 24, 8, .rw, .d, 0x0⟩,
   ⟨0x10C, 0, 1, .w1s, .d, 0x0⟩,
   ⟨0x110, 6, 26, .ro, .d, 0x0⟩,
   ⟨0x114, 0, 7, .ro, .d, 0x0⟩,
   ⟨0x114, 7, 1, .ro, .d, 0x0⟩,
   ⟨0x114, 8, 7, .ro, .d, 0x0⟩,
   ⟨0x120, 0, 1, .ro, .m, 0x0⟩,
   ⟨0x120, 1, 1, .ro, .m, 0x0⟩,
   ⟨0x120, 2, 2, .ro, .m, 0x0⟩,
   ⟨0x120, 4, 1, .ro, .m, 0x0⟩,
   ⟨0x124, 0, 8, .ro, .m, 0x0⟩,
   ⟨0x124, 8, 8, .ro, .m, 0x0⟩,
   ⟨0x124, 16, 8, .ro, .m, 0x0⟩,
   ⟨0x128, 0, 7, .rw, .d, 0x0⟩,
   ⟨0x128, 8, 8, .rw, .d, 0x0⟩,
   ⟨0x128, 16, 7, .rw, .d, 0x0⟩,
   ⟨0x128, 24, 8, .rw, .d, 0x0⟩,
   ⟨0x12C, 0, 1, .w1s, .d, 0x0⟩,
   ⟨0x130, 6, 26, .ro, .d, 0x0⟩,
   ⟨0x134, 0, 7, .ro, .d, 0x0⟩,
   ⟨0x134, 7, 1, .ro, .d, 0x0⟩,
   ⟨0x134, 8, 7, .ro, .d, 0x0⟩,
   ⟨0x200, 0, 1, .w1s, .d, 0x0⟩,
   ⟨0x200, 1, 1, .w1s, .d, 0x0⟩,
   ⟨0x200, 2, 1, .rw, .d, 0x0⟩,
   ⟨0x200, 8, 7, .rw, .d, 0x19⟩,
   ⟨0x204, 0, 1, .ro, .d, 0x0⟩,
   ⟨0x204, 1, 1, .ro, .d, 0x0⟩,
   ⟨0x204, 2, 1, .ro, .d, 0x0⟩,
   ⟨0x204, 3, 1, .ro, .d, 0x0⟩,
   ⟨0x208, 6, 26, .rw, .d, 0x0⟩,
   ⟨0x20C, 0, 7, .rw, .d, 0x0⟩,
   ⟨0x210, 6, 26, .rw, .d, 0x0⟩,
   ⟨0x214, 0, 7, .rw, .d, 0x0⟩,
   ⟨0x218, 6, 26, .ro, .d, 0x0⟩,
   ⟨0x21C, 0, 7, .ro, .d, 0x0⟩,
   ⟨0x220, 6, 26, .ro, .d, 0x0⟩,
   ⟨0x224, 0, 7, .ro, .d, 0x0⟩]

/-- Fields of the COMPASS page (R282). -/
def regsCompass : List RegRow :=
  [⟨0x100, 0, 14, .rw, .d, 0xFA⟩,
   ⟨0x104, 0, 8, .ro, .d, 0x0⟩,
   ⟨0x108, 0, 18, .ro, .fixed, 0x0⟩,
   ⟨0x10C, 0, 18, .ro, .d, 0x379E8⟩,
   ⟨0x110, 0, 18, .ro, .d, 0x0⟩,
   ⟨0x120, 0, 10, .rw, .d, 0x0⟩,
   ⟨0x124, 0, 18, .ro, .d, 0x0⟩,
   ⟨0x128, 0, 24, .ro, .d, 0x0⟩,
   ⟨0x12C, 0, 24, .ro, .d, 0x0⟩,
   ⟨0x130, 0, 24, .ro, .d, 0x0⟩,
   ⟨0x134, 0, 1, .ro, .d, 0x0⟩,
   ⟨0x140, 0, 10, .ro, .d, 0x0⟩,
   ⟨0x140, 12, 20, .ro, .d, 0x0⟩,
   ⟨0x144, 0, 32, .ro, .d, 0x0⟩,
   ⟨0x148, 0, 32, .ro, .d, 0x0⟩,
   ⟨0x14C, 0, 32, .ro, .d, 0x0⟩]

/-- Fields of the SRE page (R320). -/
def regsSre : List RegRow :=
  [⟨0x100, 0, 1, .rw, .d, 0x0⟩,
   ⟨0x104, 0, 13, .ro, .d, 0x0⟩,
   ⟨0x104, 16, 15, .ro, .d, 0x0⟩,
   ⟨0x108, 0, 15, .rw, .d, 0x1F40⟩,
   ⟨0x10C, 0, 20, .rw, .d, 0x7D0⟩,
   ⟨0x110, 0, 32, .ro, .d, 0x0⟩,
   ⟨0x120, 0, 4, .rw, .d, 0x0⟩,
   ⟨0x124, 0, 3, .ro, .d, 0x0⟩,
   ⟨0x128, 0, 2, .ro, .d, 0x0⟩,
   ⟨0x128, 2, 1, .ro, .d, 0x0⟩,
   ⟨0x128, 3, 13, .ro, .d, 0x0⟩,
   ⟨0x128, 16, 8, .ro, .d, 0x0⟩,
   ⟨0x128, 24, 6, .ro, .d, 0x0⟩,
   ⟨0x12C, 0, 16, .ro, .d, 0x0⟩,
   ⟨0x130, 0, 32, .ro, .d, 0x0⟩,
   ⟨0x134, 0, 32, .ro, .d, 0x0⟩,
   ⟨0x138, 0, 32, .ro, .d, 0x0⟩,
   ⟨0x13C, 0, 32, .ro, .d, 0x0⟩,
   ⟨0x140, 0, 32, .ro, .d, 0x0⟩,
   ⟨0x144, 0, 32, .ro, .d, 0x0⟩,
   ⟨0x148, 0, 7, .ro, .d, 0x0⟩,
   ⟨0x14C, 0, 32, .ro, .d, 0xFFFFFFFF⟩]

/-- Fields of the MTE page (R363). -/
def regsMte : List RegRow :=
  [⟨0x100, 0, 1, .ro, .m, 0x0⟩,
   ⟨0x100, 1, 5, .ro, .m, 0x0⟩,
   ⟨0x104, 0, 1, .ro, .m, 0x0⟩,
   ⟨0x104, 1, 5, .ro, .m, 0x0⟩,
   ⟨0x108, 0, 1, .ro, .m, 0x0⟩,
   ⟨0x108, 1, 5, .ro, .m, 0x0⟩,
   ⟨0x10C, 0, 1, .ro, .m, 0x0⟩,
   ⟨0x10C, 1, 5, .ro, .m, 0x0⟩,
   ⟨0x110, 0, 2, .rw, .d, 0x0⟩,
   ⟨0x110, 2, 4, .rw, .d, 0x0⟩,
   ⟨0x114, 0, 1, .ro, .m, 0x0⟩,
   ⟨0x114, 1, 1, .ro, .d, 0x0⟩,
   ⟨0x114, 2, 1, .ro, .d, 0x0⟩,
   ⟨0x114, 3, 5, .ro, .d, 0x0⟩,
   ⟨0x118, 0, 16, .ro, .m, 0x0⟩,
   ⟨0x118, 16, 16, .ro, .m, 0x0⟩,
   ⟨0x11C, 0, 3, .rw, .d, 0x0⟩,
   ⟨0x11C, 4, 4, .rw, .d, 0x0⟩,
   ⟨0x120, 0, 7, .ro, .m, 0x0⟩,
   ⟨0x124, 0, 32, .rw, .d, 0x0⟩,
   ⟨0x128, 0, 2, .rw, .d, 0x0⟩,
   ⟨0x12C, 0, 1, .w1s, .d, 0x0⟩,
   ⟨0x130, 0, 16, .ro, .d, 0x0⟩,
   ⟨0x130, 16, 2, .ro, .d, 0x0⟩,
   ⟨0x130, 18, 8, .ro, .d, 0x0⟩]

/-- Fields of the FTL page (R366). -/
def regsFtl : List RegRow :=
  [⟨0x100, 0, 1, .ro, .stored, 0x0⟩,
   ⟨0x100, 1, 1, .ro, .d, 0x0⟩,
   ⟨0x100, 2, 1, .ro, .d, 0x0⟩,
   ⟨0x100, 3, 1, .ro, .m, 0x1⟩,
   ⟨0x104, 0, 17, .ro, .fixed, 0x0⟩,
   ⟨0x108, 0, 17, .ro, .m, 0x0⟩,
   ⟨0x10C, 0, 17, .ro, .m, 0x0⟩,
   ⟨0x110, 0, 17, .ro, .m, 0x0⟩,
   ⟨0x114, 0, 17, .ro, .m, 0x0⟩,
   ⟨0x118, 0, 13, .ro, .m, 0x0⟩,
   ⟨0x11C, 0, 16, .rw, .stored, 0x100⟩,
   ⟨0x11C, 16, 16, .rw, .stored, 0x180⟩,
   ⟨0x120, 0, 16, .ro, .fixed, 0x0⟩,
   ⟨0x120, 16, 16, .rw, .stored, 0x400⟩,
   ⟨0x124, 0, 7, .rw, .stored, 0x46⟩,
   ⟨0x128, 0, 12, .rw, .stored, 0x5DC⟩,
   ⟨0x12C, 0, 16, .rw, .stored, 0x32⟩,
   ⟨0x130, 0, 32, .ro, .m, 0x0⟩,
   ⟨0x134, 0, 2, .ro, .m, 0x0⟩,
   ⟨0x138, 0, 32, .ro, .m, 0x0⟩,
   ⟨0x13C, 0, 2, .ro, .m, 0x0⟩,
   ⟨0x140, 0, 16, .ro, .m, 0x0⟩,
   ⟨0x140, 16, 16, .ro, .m, 0x0⟩,
   ⟨0x144, 0, 16, .ro, .m, 0x0⟩]

/-- Fields of the FILTER page (R368). -/
def regsFilter : List RegRow :=
  [⟨0x100, 0, 16, .ro, .d, 0x0⟩,
   ⟨0x104, 0, 13, .ro, .d, 0x0⟩,
   ⟨0x108, 0, 16, .ro, .d, 0x0⟩,
   ⟨0x108, 16, 8, .ro, .d, 0x0⟩]

/-- Fields of the ERR page (R51), part 0. -/
def regsErr0 : List RegRow :=
  [⟨0x100, 0, 7, .ro, .m, 0x0⟩,
   ⟨0x100, 8, 24, .ro, .m, 0x0⟩,
   ⟨0x104, 0, 7, .rw, .m, 0x0⟩,
   ⟨0x108, 0, 7, .ro, .m, 0x0⟩,
   ⟨0x108, 8, 1, .w1c, .m, 0x0⟩,
   ⟨0x10C, 0, 4, .rw, .d, 0xC⟩,
   ⟨0x10C, 4, 1, .ro, .fixed, 0x1⟩,
   ⟨0x120, 0, 32, .ro, .m, 0x0⟩,
   ⟨0x124, 0, 32, .ro, .m, 0x0⟩,
   ⟨0x128, 0, 32, .ro, .m, 0x0⟩,
   ⟨0x12C, 0, 32, .ro, .m, 0x0⟩,
   ⟨0x130, 0, 32, .ro, .m, 0x0⟩,
   ⟨0x134, 0, 32, .ro, .m, 0x0⟩,
   ⟨0x138, 0, 32, .ro, .m, 0x0⟩,
   ⟨0x13C, 0, 32, .ro, .m, 0x0⟩,
   ⟨0x140, 0, 32, .ro, .p, 0x0⟩,
   ⟨0x144, 0, 32, .ro, .p, 0x0⟩,
   ⟨0x148, 0, 32, .ro, .p, 0x0⟩,
   ⟨0x14C, 0, 32, .ro, .p, 0x0⟩,
   ⟨0x400, 0, 32, .ro, .m, 0x0⟩,
   ⟨0x404, 0, 32, .ro, .m, 0x0⟩,
   ⟨0x408, 0, 32, .ro, .m, 0x0⟩,
   ⟨0x40C, 0, 32, .ro, .m, 0x0⟩,
   ⟨0x410, 0, 32, .ro, .m, 0x0⟩,
   ⟨0x414, 0, 32, .ro, .m, 0x0⟩,
   ⟨0x418, 0, 32, .ro, .m, 0x0⟩,
   ⟨0x41C, 0, 32, .ro, .m, 0x0⟩,
   ⟨0x420, 0, 32, .ro, .m, 0x0⟩,
   ⟨0x424, 0, 32, .ro, .m, 0x0⟩,
   ⟨0x428, 0, 32, .ro, .m, 0x0⟩,
   ⟨0x42C, 0, 32, .ro, .m, 0x0⟩,
   ⟨0x430, 0, 32, .ro, .m, 0x0⟩,
   ⟨0x434, 0, 32, .ro, .m, 0x0⟩,
   ⟨0x438, 0, 32, .ro, .m, 0x0⟩,
   ⟨0x43C, 0, 32, .ro, .m, 0x0⟩,
   ⟨0x440, 0, 32, .ro, .m, 0x0⟩,
   ⟨0x444, 0, 32, .ro, .m, 0x0⟩,
   ⟨0x448, 0, 32, .ro, .m, 0x0⟩,
   ⟨0x44C, 0, 32, .ro, .m, 0x0⟩,
   ⟨0x450, 0, 32, .ro, .m, 0x0⟩,
   ⟨0x454, 0, 32, .ro, .m, 0x0⟩,
   ⟨0x458, 0, 32, .ro, .m, 0x0⟩,
   ⟨0x45C, 0, 32, .ro, .m, 0x0⟩,
   ⟨0x460, 0, 32, .ro, .m, 0x0⟩,
   ⟨0x464, 0, 32, .ro, .m, 0x0⟩,
   ⟨0x468, 0, 32, .ro, .m, 0x0⟩,
   ⟨0x46C, 0, 32, .ro, .m, 0x0⟩,
   ⟨0x470, 0, 32, .ro, .m, 0x0⟩,
   ⟨0x474, 0, 32, .ro, .m, 0x0⟩,
   ⟨0x478, 0, 32, .ro, .m, 0x0⟩,
   ⟨0x47C, 0, 32, .ro, .m, 0x0⟩,
   ⟨0x480, 0, 32, .ro, .m, 0x0⟩,
   ⟨0x484, 0, 32, .ro, .m, 0x0⟩,
   ⟨0x488, 0, 32, .ro, .m, 0x0⟩,
   ⟨0x48C, 0, 32, .ro, .m, 0x0⟩,
   ⟨0x490, 0, 32, .ro, .m, 0x0⟩,
   ⟨0x494, 0, 32, .ro, .m, 0x0⟩,
   ⟨0x498, 0, 32, .ro, .m, 0x0⟩,
   ⟨0x49C, 0, 32, .ro, .m, 0x0⟩,
   ⟨0x4A0, 0, 32, .ro, .m, 0x0⟩]

/-- Fields of the ERR page (R51), part 1. -/
def regsErr1 : List RegRow :=
  [⟨0x4A4, 0, 32, .ro, .m, 0x0⟩,
   ⟨0x4A8, 0, 32, .ro, .m, 0x0⟩,
   ⟨0x4AC, 0, 32, .ro, .m, 0x0⟩,
   ⟨0x4B0, 0, 32, .ro, .m, 0x0⟩,
   ⟨0x4B4, 0, 32, .ro, .m, 0x0⟩,
   ⟨0x4B8, 0, 32, .ro, .m, 0x0⟩,
   ⟨0x4BC, 0, 32, .ro, .m, 0x0⟩,
   ⟨0x4C0, 0, 32, .ro, .m, 0x0⟩,
   ⟨0x4C4, 0, 32, .ro, .m, 0x0⟩,
   ⟨0x4C8, 0, 32, .ro, .m, 0x0⟩,
   ⟨0x4CC, 0, 32, .ro, .m, 0x0⟩,
   ⟨0x4D0, 0, 32, .ro, .m, 0x0⟩,
   ⟨0x4D4, 0, 32, .ro, .m, 0x0⟩,
   ⟨0x4D8, 0, 32, .ro, .m, 0x0⟩,
   ⟨0x4DC, 0, 32, .ro, .m, 0x0⟩,
   ⟨0x4E0, 0, 32, .ro, .m, 0x0⟩,
   ⟨0x4E4, 0, 32, .ro, .m, 0x0⟩,
   ⟨0x4E8, 0, 32, .ro, .m, 0x0⟩,
   ⟨0x4EC, 0, 32, .ro, .m, 0x0⟩,
   ⟨0x4F0, 0, 32, .ro, .m, 0x0⟩,
   ⟨0x4F4, 0, 32, .ro, .m, 0x0⟩,
   ⟨0x4F8, 0, 32, .ro, .m, 0x0⟩,
   ⟨0x4FC, 0, 32, .ro, .m, 0x0⟩,
   ⟨0x500, 0, 32, .ro, .m, 0x0⟩,
   ⟨0x504, 0, 32, .ro, .m, 0x0⟩,
   ⟨0x508, 0, 32, .ro, .m, 0x0⟩,
   ⟨0x50C, 0, 32, .ro, .m, 0x0⟩,
   ⟨0x510, 0, 32, .ro, .m, 0x0⟩,
   ⟨0x514, 0, 32, .ro, .m, 0x0⟩,
   ⟨0x518, 0, 32, .ro, .m, 0x0⟩,
   ⟨0x51C, 0, 32, .ro, .m, 0x0⟩,
   ⟨0x520, 0, 32, .ro, .m, 0x0⟩,
   ⟨0x524, 0, 32, .ro, .m, 0x0⟩,
   ⟨0x528, 0, 32, .ro, .m, 0x0⟩,
   ⟨0x52C, 0, 32, .ro, .m, 0x0⟩,
   ⟨0x530, 0, 32, .ro, .m, 0x0⟩,
   ⟨0x534, 0, 32, .ro, .m, 0x0⟩,
   ⟨0x538, 0, 32, .ro, .m, 0x0⟩,
   ⟨0x53C, 0, 32, .ro, .m, 0x0⟩,
   ⟨0x540, 0, 32, .ro, .m, 0x0⟩,
   ⟨0x544, 0, 32, .ro, .m, 0x0⟩,
   ⟨0x548, 0, 32, .ro, .m, 0x0⟩,
   ⟨0x54C, 0, 32, .ro, .m, 0x0⟩,
   ⟨0x550, 0, 32, .ro, .m, 0x0⟩,
   ⟨0x554, 0, 32, .ro, .m, 0x0⟩,
   ⟨0x558, 0, 32, .ro, .m, 0x0⟩,
   ⟨0x55C, 0, 32, .ro, .m, 0x0⟩,
   ⟨0x560, 0, 32, .ro, .m, 0x0⟩,
   ⟨0x564, 0, 32, .ro, .m, 0x0⟩,
   ⟨0x568, 0, 32, .ro, .m, 0x0⟩,
   ⟨0x56C, 0, 32, .ro, .m, 0x0⟩,
   ⟨0x570, 0, 32, .ro, .m, 0x0⟩,
   ⟨0x574, 0, 32, .ro, .m, 0x0⟩,
   ⟨0x578, 0, 32, .ro, .m, 0x0⟩,
   ⟨0x57C, 0, 32, .ro, .m, 0x0⟩,
   ⟨0x580, 0, 32, .ro, .m, 0x0⟩,
   ⟨0x584, 0, 32, .ro, .m, 0x0⟩,
   ⟨0x588, 0, 32, .ro, .m, 0x0⟩,
   ⟨0x58C, 0, 32, .ro, .m, 0x0⟩,
   ⟨0x590, 0, 32, .ro, .m, 0x0⟩]

/-- Fields of the ERR page (R51), part 2. -/
def regsErr2 : List RegRow :=
  [⟨0x594, 0, 32, .ro, .m, 0x0⟩,
   ⟨0x598, 0, 32, .ro, .m, 0x0⟩,
   ⟨0x59C, 0, 32, .ro, .m, 0x0⟩,
   ⟨0x5A0, 0, 32, .ro, .m, 0x0⟩,
   ⟨0x5A4, 0, 32, .ro, .m, 0x0⟩,
   ⟨0x5A8, 0, 32, .ro, .m, 0x0⟩,
   ⟨0x5AC, 0, 32, .ro, .m, 0x0⟩,
   ⟨0x5B0, 0, 32, .ro, .m, 0x0⟩,
   ⟨0x5B4, 0, 32, .ro, .m, 0x0⟩,
   ⟨0x5B8, 0, 32, .ro, .m, 0x0⟩,
   ⟨0x5BC, 0, 32, .ro, .m, 0x0⟩,
   ⟨0x5C0, 0, 32, .ro, .m, 0x0⟩,
   ⟨0x5C4, 0, 32, .ro, .m, 0x0⟩,
   ⟨0x5C8, 0, 32, .ro, .m, 0x0⟩,
   ⟨0x5CC, 0, 32, .ro, .m, 0x0⟩,
   ⟨0x5D0, 0, 32, .ro, .m, 0x0⟩,
   ⟨0x5D4, 0, 32, .ro, .m, 0x0⟩,
   ⟨0x5D8, 0, 32, .ro, .m, 0x0⟩,
   ⟨0x5DC, 0, 32, .ro, .m, 0x0⟩,
   ⟨0x5E0, 0, 32, .ro, .m, 0x0⟩,
   ⟨0x5E4, 0, 32, .ro, .m, 0x0⟩,
   ⟨0x5E8, 0, 32, .ro, .m, 0x0⟩,
   ⟨0x5EC, 0, 32, .ro, .m, 0x0⟩,
   ⟨0x5F0, 0, 32, .ro, .m, 0x0⟩,
   ⟨0x5F4, 0, 32, .ro, .m, 0x0⟩,
   ⟨0x5F8, 0, 32, .ro, .m, 0x0⟩,
   ⟨0x5FC, 0, 32, .ro, .m, 0x0⟩,
   ⟨0x600, 0, 32, .ro, .m, 0x0⟩,
   ⟨0x604, 0, 32, .ro, .m, 0x0⟩,
   ⟨0x608, 0, 32, .ro, .m, 0x0⟩,
   ⟨0x60C, 0, 32, .ro, .m, 0x0⟩,
   ⟨0x610, 0, 32, .ro, .m, 0x0⟩,
   ⟨0x614, 0, 32, .ro, .m, 0x0⟩,
   ⟨0x618, 0, 32, .ro, .m, 0x0⟩,
   ⟨0x61C, 0, 32, .ro, .m, 0x0⟩,
   ⟨0x620, 0, 32, .ro, .m, 0x0⟩,
   ⟨0x624, 0, 32, .ro, .m, 0x0⟩,
   ⟨0x628, 0, 32, .ro, .m, 0x0⟩,
   ⟨0x62C, 0, 32, .ro, .m, 0x0⟩,
   ⟨0x630, 0, 32, .ro, .m, 0x0⟩,
   ⟨0x634, 0, 32, .ro, .m, 0x0⟩,
   ⟨0x638, 0, 32, .ro, .m, 0x0⟩,
   ⟨0x63C, 0, 32, .ro, .m, 0x0⟩,
   ⟨0x640, 0, 32, .ro, .m, 0x0⟩,
   ⟨0x644, 0, 32, .ro, .m, 0x0⟩,
   ⟨0x648, 0, 32, .ro, .m, 0x0⟩,
   ⟨0x64C, 0, 32, .ro, .m, 0x0⟩,
   ⟨0x650, 0, 32, .ro, .m, 0x0⟩,
   ⟨0x654, 0, 32, .ro, .m, 0x0⟩,
   ⟨0x658, 0, 32, .ro, .m, 0x0⟩,
   ⟨0x65C, 0, 32, .ro, .m, 0x0⟩,
   ⟨0x660, 0, 32, .ro, .m, 0x0⟩,
   ⟨0x664, 0, 32, .ro, .m, 0x0⟩,
   ⟨0x668, 0, 32, .ro, .m, 0x0⟩,
   ⟨0x66C, 0, 32, .ro, .m, 0x0⟩,
   ⟨0x670, 0, 32, .ro, .m, 0x0⟩,
   ⟨0x674, 0, 32, .ro, .m, 0x0⟩,
   ⟨0x678, 0, 32, .ro, .m, 0x0⟩,
   ⟨0x67C, 0, 32, .ro, .m, 0x0⟩,
   ⟨0x680, 0, 32, .ro, .m, 0x0⟩]

/-- Fields of the ERR page (R51), part 3. -/
def regsErr3 : List RegRow :=
  [⟨0x684, 0, 32, .ro, .m, 0x0⟩,
   ⟨0x688, 0, 32, .ro, .m, 0x0⟩,
   ⟨0x68C, 0, 32, .ro, .m, 0x0⟩,
   ⟨0x690, 0, 32, .ro, .m, 0x0⟩,
   ⟨0x694, 0, 32, .ro, .m, 0x0⟩,
   ⟨0x698, 0, 32, .ro, .m, 0x0⟩,
   ⟨0x69C, 0, 32, .ro, .m, 0x0⟩,
   ⟨0x6A0, 0, 32, .ro, .m, 0x0⟩,
   ⟨0x6A4, 0, 32, .ro, .m, 0x0⟩,
   ⟨0x6A8, 0, 32, .ro, .m, 0x0⟩,
   ⟨0x6AC, 0, 32, .ro, .m, 0x0⟩,
   ⟨0x6B0, 0, 32, .ro, .m, 0x0⟩,
   ⟨0x6B4, 0, 32, .ro, .m, 0x0⟩,
   ⟨0x6B8, 0, 32, .ro, .m, 0x0⟩,
   ⟨0x6BC, 0, 32, .ro, .m, 0x0⟩,
   ⟨0x6C0, 0, 32, .ro, .m, 0x0⟩,
   ⟨0x6C4, 0, 32, .ro, .m, 0x0⟩,
   ⟨0x6C8, 0, 32, .ro, .m, 0x0⟩,
   ⟨0x6CC, 0, 32, .ro, .m, 0x0⟩,
   ⟨0x6D0, 0, 32, .ro, .m, 0x0⟩,
   ⟨0x6D4, 0, 32, .ro, .m, 0x0⟩,
   ⟨0x6D8, 0, 32, .ro, .m, 0x0⟩,
   ⟨0x6DC, 0, 32, .ro, .m, 0x0⟩,
   ⟨0x6E0, 0, 32, .ro, .m, 0x0⟩,
   ⟨0x6E4, 0, 32, .ro, .m, 0x0⟩,
   ⟨0x6E8, 0, 32, .ro, .m, 0x0⟩,
   ⟨0x6EC, 0, 32, .ro, .m, 0x0⟩,
   ⟨0x6F0, 0, 32, .ro, .m, 0x0⟩,
   ⟨0x6F4, 0, 32, .ro, .m, 0x0⟩,
   ⟨0x6F8, 0, 32, .ro, .m, 0x0⟩,
   ⟨0x6FC, 0, 32, .ro, .m, 0x0⟩,
   ⟨0x700, 0, 32, .ro, .m, 0x0⟩,
   ⟨0x704, 0, 32, .ro, .m, 0x0⟩,
   ⟨0x708, 0, 32, .ro, .m, 0x0⟩,
   ⟨0x70C, 0, 32, .ro, .m, 0x0⟩,
   ⟨0x710, 0, 32, .ro, .m, 0x0⟩,
   ⟨0x714, 0, 32, .ro, .m, 0x0⟩,
   ⟨0x718, 0, 32, .ro, .m, 0x0⟩,
   ⟨0x71C, 0, 32, .ro, .m, 0x0⟩,
   ⟨0x720, 0, 32, .ro, .m, 0x0⟩,
   ⟨0x724, 0, 32, .ro, .m, 0x0⟩,
   ⟨0x728, 0, 32, .ro, .m, 0x0⟩,
   ⟨0x72C, 0, 32, .ro, .m, 0x0⟩,
   ⟨0x730, 0, 32, .ro, .m, 0x0⟩,
   ⟨0x734, 0, 32, .ro, .m, 0x0⟩,
   ⟨0x738, 0, 32, .ro, .m, 0x0⟩,
   ⟨0x73C, 0, 32, .ro, .m, 0x0⟩,
   ⟨0x740, 0, 32, .ro, .m, 0x0⟩,
   ⟨0x744, 0, 32, .ro, .m, 0x0⟩,
   ⟨0x748, 0, 32, .ro, .m, 0x0⟩,
   ⟨0x74C, 0, 32, .ro, .m, 0x0⟩,
   ⟨0x750, 0, 32, .ro, .m, 0x0⟩,
   ⟨0x754, 0, 32, .ro, .m, 0x0⟩,
   ⟨0x758, 0, 32, .ro, .m, 0x0⟩,
   ⟨0x75C, 0, 32, .ro, .m, 0x0⟩,
   ⟨0x760, 0, 32, .ro, .m, 0x0⟩,
   ⟨0x764, 0, 32, .ro, .m, 0x0⟩,
   ⟨0x768, 0, 32, .ro, .m, 0x0⟩,
   ⟨0x76C, 0, 32, .ro, .m, 0x0⟩,
   ⟨0x770, 0, 32, .ro, .m, 0x0⟩]

/-- Fields of the ERR page (R51), part 4. -/
def regsErr4 : List RegRow :=
  [⟨0x774, 0, 32, .ro, .m, 0x0⟩,
   ⟨0x778, 0, 32, .ro, .m, 0x0⟩,
   ⟨0x77C, 0, 32, .ro, .m, 0x0⟩,
   ⟨0x780, 0, 32, .ro, .m, 0x0⟩,
   ⟨0x784, 0, 32, .ro, .m, 0x0⟩,
   ⟨0x788, 0, 32, .ro, .m, 0x0⟩,
   ⟨0x78C, 0, 32, .ro, .m, 0x0⟩,
   ⟨0x790, 0, 32, .ro, .m, 0x0⟩,
   ⟨0x794, 0, 32, .ro, .m, 0x0⟩,
   ⟨0x798, 0, 32, .ro, .m, 0x0⟩,
   ⟨0x79C, 0, 32, .ro, .m, 0x0⟩,
   ⟨0x7A0, 0, 32, .ro, .m, 0x0⟩,
   ⟨0x7A4, 0, 32, .ro, .m, 0x0⟩,
   ⟨0x7A8, 0, 32, .ro, .m, 0x0⟩,
   ⟨0x7AC, 0, 32, .ro, .m, 0x0⟩,
   ⟨0x7B0, 0, 32, .ro, .m, 0x0⟩,
   ⟨0x7B4, 0, 32, .ro, .m, 0x0⟩,
   ⟨0x7B8, 0, 32, .ro, .m, 0x0⟩,
   ⟨0x7BC, 0, 32, .ro, .m, 0x0⟩,
   ⟨0x7C0, 0, 32, .ro, .m, 0x0⟩,
   ⟨0x7C4, 0, 32, .ro, .m, 0x0⟩,
   ⟨0x7C8, 0, 32, .ro, .m, 0x0⟩,
   ⟨0x7CC, 0, 32, .ro, .m, 0x0⟩,
   ⟨0x7D0, 0, 32, .ro, .m, 0x0⟩,
   ⟨0x7D4, 0, 32, .ro, .m, 0x0⟩,
   ⟨0x7D8, 0, 32, .ro, .m, 0x0⟩,
   ⟨0x7DC, 0, 32, .ro, .m, 0x0⟩,
   ⟨0x7E0, 0, 32, .ro, .m, 0x0⟩,
   ⟨0x7E4, 0, 32, .ro, .m, 0x0⟩,
   ⟨0x7E8, 0, 32, .ro, .m, 0x0⟩,
   ⟨0x7EC, 0, 32, .ro, .m, 0x0⟩,
   ⟨0x7F0, 0, 32, .ro, .m, 0x0⟩,
   ⟨0x7F4, 0, 32, .ro, .m, 0x0⟩,
   ⟨0x7F8, 0, 32, .ro, .m, 0x0⟩,
   ⟨0x7FC, 0, 32, .ro, .m, 0x0⟩]

/-- Fields of the ERR page. -/
def regsErr : List RegRow := regsErr0 ++ regsErr1 ++ regsErr2 ++ regsErr3 ++ regsErr4

/-- Block type of a page that the page map of R45 lists; the instance within the block. -/
def pageBlock (page : Nat) : Option (Nat × Nat) :=
  if 0x40 ≤ page && page ≤ 0x6F then some (0x40, page - 0x40)
  else if 0x90 ≤ page && page ≤ 0x9F then some (0x90, page - 0x90)
  else if 0xC0 ≤ page && page ≤ 0xCF then some (0xC0, page - 0xC0)
  else if page ∈ [0x00, 0x01, 0x02, 0x03, 0x10, 0x11, 0x12, 0x20, 0x30, 0x70, 0x80, 0xA0, 0xB0, 0xD0, 0xD8, 0xE0] then some (page, 0)
  else none

/-- Register fields of a block type. -/
def blockRegs (bt : Nat) : List RegRow :=
  if bt = 0x00 then regsChip
  else if bt = 0x01 then regsClkrst
  else if bt = 0x02 then regsPwr
  else if bt = 0x03 then regsMsp
  else if bt = 0x10 then regsNiu
  else if bt = 0x11 then regsSextant
  else if bt = 0x12 then regsStrait
  else if bt = 0x20 then regsQcu
  else if bt = 0x30 then regsChart
  else if bt = 0x40 then regsMxc
  else if bt = 0x70 then regsSfu
  else if bt = 0x80 then regsOcm
  else if bt = 0x90 then regsXmc
  else if bt = 0xA0 then regsCompass
  else if bt = 0xB0 then regsSre
  else if bt = 0xC0 then regsMte
  else if bt = 0xD0 then regsFtl
  else if bt = 0xD8 then regsFilter
  else if bt = 0xE0 then regsErr
  else []

/-- Fields of the word at an offset of a page. Offsets 0x200 to 0x224 of an XMC page exist on page 0x90 only (R279). -/
def wordRows (page off : Nat) : List RegRow :=
  match pageBlock page with
  | none => []
  | some (bt, inst) => if bt = 0x90 ∧ inst ≠ 0 ∧ 0x200 ≤ off then [] else (blockRegs bt).filter fun r => r.off = off

/-- Reset word at an offset of a page. -/
def resetWord (page off : Nat) : Word := BitVec.ofNat 32 ((wordRows page off).foldl (fun w r => w + r.val * 2 ^ r.lo) 0)

end Sys2Proof.Machine
end

