-- ==== Sys2Proof/Machine/SMap.lean ====
section
/-! DEFINITION. Sparse memories and tables: lists of (key, value) pairs in strictly rising key order, no entry equal to
what an unlisted key reads as, so that equal memories are equal data. Every sparse memory of State is read and written
through these operations. -/
namespace Sys2Proof.Machine

/-- A sparse table from natural-number keys. -/
abbrev SMap (α : Type) := List (Nat × α)

/-- The entry of key `k`, if one is listed. -/
def smFind {α : Type} : SMap α → Nat → Option α
  | [], _ => none
  | (k', v) :: m, k => if k' = k then some v else smFind m k

/-- What key `k` reads as when an unlisted key reads as `d`. -/
def smGet {α : Type} (d : α) (m : SMap α) (k : Nat) : α := (smFind m k).getD d

/-- List `v` at key `k`, in key order. -/
def smSet {α : Type} : SMap α → Nat → α → SMap α
  | [], k, v => [(k, v)]
  | (k', v') :: m, k, v =>
    if k < k' then (k, v) :: (k', v') :: m
    else if k = k' then (k, v) :: m
    else (k', v') :: smSet m k v

/-- Take key `k` off the list. -/
def smDel {α : Type} (m : SMap α) (k : Nat) : SMap α := m.filter fun e => e.1 != k

/-- Write `v` at key `k` where an unlisted key reads as `d`: writing `d` takes the entry off the list. -/
def smPut {α : Type} [DecidableEq α] (d : α) (m : SMap α) (k : Nat) (v : α) : SMap α :=
  if v = d then smDel m k else smSet m k v

/-- Take every key from `lo` to `hi - 1` off the list: those keys read as the default again. -/
def smClear {α : Type} (m : SMap α) (lo hi : Nat) : SMap α := m.filter fun e => e.1 < lo || hi ≤ e.1

/-- Change the entry of key `k`, if one is listed. -/
def smMod {α : Type} (m : SMap α) (k : Nat) (f : α → α) : SMap α :=
  m.map fun e => if e.1 = k then (e.1, f e.2) else e

/-- Keys strictly rise. -/
def smSorted {α : Type} : SMap α → Bool
  | [] => true
  | [_] => true
  | a :: b :: m => a.1 < b.1 && smSorted (b :: m)

/-- The canonical form: strictly rising keys and no entry equal to the default. -/
def smWf {α : Type} [DecidableEq α] (d : α) (m : SMap α) : Bool :=
  smSorted m && m.all fun e => e.2 != d

/-- Bytes at `n` addresses from `a`. -/
def smBytes (m : SMap Byte) (a : Nat) : Nat → List Byte
  | 0 => []
  | n + 1 => smGet 0 m a :: smBytes m (a + 1) n

/-- Store bytes from address `a` up; unlisted addresses read 0. -/
def smStore (m : SMap Byte) (a : Nat) : List Byte → SMap Byte
  | [] => m
  | b :: bs => smStore (smPut 0 m a b) (a + 1) bs

end Sys2Proof.Machine
end

