-- ==== Sys2Proof/Machine/StateBase.lean ====
section
/-! DEFINITION. The parts of the state every block shares: time, page headers and registers, counters and latches, the
error ring and the handlings in progress, power and boot stage, and what the part has sent out. -/
namespace Sys2Proof.Machine
open Sys2Proof

/-- The time bases: master fabric time in the Sextant, the Chart's replica (R23), ns since power good (R47). -/
structure TimeSt where
  master : Nat
  replica : Nat
  uptime : Nat
  deriving DecidableEq, Repr

/-- The changing part of a page header (R42, R43). -/
structure PageHdr where
  freeze : Bool
  ready : Bool
  errStatus : Word
  errMask : Word
  firstValid : Bool
  firstBit : Nat
  firstCode : Nat
  errCount : Nat
  deriving DecidableEq, Repr

/-- A header at reset: every field 0 (R42). -/
def PageHdr.zero : PageHdr :=
  { freeze := false, ready := false, errStatus := 0, errMask := 0, firstValid := false, firstBit := 0, firstCode := 0,
    errCount := 0 }

/-- The five error classes (R468). -/
inductive Cls where
  | advisory
  | corrected
  | queue
  | job
  | fatal
  deriving DecidableEq, Repr

/-- The scope an error acts on (R468). -/
inductive Scope where
  | chip
  | step (ctx : Nat)
  | query (job : Nat)
  | ingest (job : Nat)
  | scan (conn cid : Nat)
  | queue (conn : Nat)
  | source (page : Nat)
  deriving DecidableEq, Repr

/-- An error handling in progress (R468, R469): its class, scope and code, and for a job the fabric time it ends. -/
structure Handling where
  cls : Cls
  scope : Scope
  code : Nat
  ends : Option Nat
  deriving DecidableEq, Repr

/-- An error record (R474). -/
structure ErrRec where
  code : Nat
  page : Nat
  cls : Cls
  nested : Bool
  injected : Bool
  unattached : Bool
  time : Nat
  d0 : Nat
  d1 : Nat
  deriving DecidableEq, Repr

/-- The error ring and what the ERR page keeps (R51). -/
structure ErrSt where
  /-- Entries by ring index 0 to 63. -/
  ring : SMap ErrRec
  head : Nat
  wraps : Nat
  tail : Nat
  overflow : Bool
  fatalLast : Option ErrRec
  handlings : List Handling
  /-- FAULT_N and ALERT_N held low by THERMAL_TRIP until the power-on reset (R530). -/
  tripHold : Bool
  deriving DecidableEq, Repr

/-- Lifecycle states (R47, R461). -/
inductive Life where
  | blank
  | provisioned
  | operational
  | retn
  | decommissioned
  | tampered
  deriving DecidableEq, Repr

/-- Stages of start-up (CHIP_STATE.BOOT_STAGE, R47). -/
inductive Stage where
  | powerGood
  | rom
  | verify
  | training
  | rebuild
  | linkUp
  | ready
  deriving DecidableEq, Repr

/-- Chip-wide state: start-up stage, interface level, reset cause, clocks. -/
structure ChipSt where
  stage : Stage
  /-- Start-up stopped in this stage (R260, R450): XM_TRAIN_FAIL or the recovery agent. -/
  stopped : Bool
  level1 : Bool
  locked : Bool
  /-- CLKRST_RST_CAUSE bit number (R48). -/
  cause : Nat
  /-- CLKRST_PLL_STATUS.LOCK. -/
  pll : Nat
  /-- A device reset waits for its 10 µs (R49). -/
  devResetDue : Option Nat
  /-- A module reset is due, with the cause bit it will set (R471, R494, R500). -/
  modReset : Option Nat
  /-- FMEAS: START and the domain measured (R48). -/
  fmeas : Option Nat
  fmeasKhz : Nat
  /-- Failed replays of the flit group in replay (R20). -/
  replays : Nat
  /-- The main converters are on (R493). -/
  powered : Bool
  /-- Fabric clock restarted in PS4 for an Atoll bank, and when it was last used (R22). -/
  ps4Fabric : Option Nat
  deriving DecidableEq, Repr

/-- A completion (R379): status code type and code, DW0 and DW1, and the data returned. -/
structure Compl where
  tag : Tag
  sct : Nat
  sc : Nat
  dw0 : Nat
  dw1 : Nat
  data : List Byte
  deriving DecidableEq, Repr

/-- What the part sends to the outside, in order: the model's own record of its outputs. -/
inductive OutMsg where
  | compl (c : Compl)
  /-- A register access refused with this code, or words read, on a path. -/
  | reg (p : Path) (status : Nat) (words : List Word)
  | sideband (bytes : List Byte)
  | rst (conn : Nat)
  | icresp (conn : Nat) (bytes : List Byte)
  | r2t (conn cid off len : Nat)
  | term (conn : Nat)
  | tls (conn : Nat) (ok : Bool)
  | keyUpdate (conn : Nat)
  | aer (tag : Tag) (type info log : Nat)
  | frame (bytes : List Byte)
  | strait (addr port : Nat) (bytes : List Byte)
  | mgmt (bytes : List Byte)
  | pps (level : Bool)
  deriving DecidableEq, Repr

end Sys2Proof.Machine
end

