-- ==== Sys2Proof/Machine/StateChart.lean ====
section
/-! DEFINITION. State of the Chart, of contexts and their sequences, and of the cores' runs (03, 04, 05, 06). -/
namespace Sys2Proof.Machine
open Sys2Proof

/-- A Chart slot: its four words (R75). -/
structure Slot where
  w0 : Word
  w1 : Word
  w2 : Word
  w3 : Word
  deriving DecidableEq, Repr

/-- A Chart bank (R74, R78). -/
structure Bank where
  written : Bool
  period : Nat
  phase : Nat
  slots : List Slot
  deriving DecidableEq, Repr

/-- A bank at reset: not written, empty (R78). -/
def Bank.empty : Bank := { written := false, period := 0, phase := 0, slots := [] }

/-- Where a slot of a cycle stands. -/
inductive SlotPhase where
  /-- Its start has not come. -/
  | waiting
  /-- Its start has come, but its island is still in an earlier slot or step (R77, R83). -/
  | due
  | running
  | ended
  deriving DecidableEq, Repr

/-- A slot of a cycle taken: bank, index, fabric-time start and end, and the slot itself (R79, R80). -/
structure SlotRun where
  bankB : Bool
  idx : Nat
  startT : Nat
  endT : Nat
  slot : Slot
  phase : SlotPhase
  deriving DecidableEq, Repr

/-- A pending swap (R77): the target bank, the command that waits for it, and when it was accepted. -/
structure SwapPend where
  bankB : Bool
  tag : Option Tag
  at_ : Nat
  deriving DecidableEq, Repr

/-- The Chart (R74 to R83, R90). -/
structure ChartSt where
  bankA : Bank
  bankB : Bank
  active : Option Bool
  last : Option Bool
  swap : Option SwapPend
  enable : Bool
  cycling : Bool
  /-- Fabric time of the last cycle start taken, and whether one was taken since ENABLE was set or a bank swapped in. -/
  cycleT : Nat
  haveCycle : Bool
  /-- Earliest fabric time of the first cycle start after ENABLE was set or a swap took effect (R77, R81). -/
  fromT : Nat
  swapT : Nat
  lastSlot : Nat
  runs : List SlotRun
  deriving DecidableEq, Repr

/-- The Chart at reset (R78, R90). -/
def ChartSt.reset : ChartSt :=
  { bankA := Bank.empty, bankB := Bank.empty, active := none, last := none, swap := none, enable := false, cycling := false,
    cycleT := 0, haveCycle := false, fromT := 0, swapT := 0, lastSlot := 0, runs := [] }

/-- A tensor table entry (R119). -/
structure Tensor where
  format : Nat
  layer : Nat
  gen : Nat
  policy : Nat
  dataOff : Nat
  dataBytes : Nat
  scaleOff : Nat
  scaleBytes : Nat
  /-- REDUCE_LEN and COLS as stored: K − 1 (or d − 1) and N − 1. -/
  reduceLen : Nat
  cols : Nat
  histN : Nat
  headroom : Nat
  warmup : Nat
  satThr : Nat
  histIdx : Nat
  deriving DecidableEq, Repr

/-- Where Compass placed a tensor (R265, R267). -/
inductive Place where
  /-- ACT and KV8 entries have no object. -/
  | none
  /-- PINNED_SRAM: data and scale offsets within SCRATCH. -/
  | sram (d sc : Nat)
  /-- External memory: data and scale offsets within the context's layout. -/
  | xm (d sc : Nat)
  /-- STREAM, or PREFER_XM handled as STREAM. -/
  | stream
  | cold
  deriving DecidableEq, Repr

/-- A task table entry (R158). -/
structure TaskEnt where
  entry : Nat
  deps : List Nat
  arg0 : DWord
  arg1 : DWord
  deriving DecidableEq, Repr

/-- A loaded package: its header (R58), its program (R157) and its tensors (R119). -/
structure Pkg where
  nsid : Nat
  slba : Nat
  encoder : Bool
  checked : Bool
  sampler : Bool
  layers : Nat
  minCores : Nat
  kvHeads : Nat
  headDim : Nat
  maxSeqLen : Nat
  maxSeqs : Nat
  chunk : Nat
  localKib : Nat
  scratchKib : Nat
  xmBytes : Nat
  flashBytes : Nat
  weightBytes : Nat
  pkgBytes : Nat
  digest : List Byte
  code : List Byte
  tasks : List TaskEnt
  tensors : List Tensor
  deriving DecidableEq, Repr

/-- A sequence's state (R69): an entry not listed is FREE. -/
inductive SeqSt where
  | pending
  | run
  | held
  deriving DecidableEq, Repr

/-- Where a cache page's data lies (R271, R272). -/
inductive PageAt where
  /-- In external memory, in this pool slot. -/
  | slot (n : Nat)
  /-- In this slot, its demotion under way. -/
  | demoting (n : Nat)
  /-- In flash: the bytes of its backing. -/
  | absent (data : List Byte)
  /-- Absent, its fetch into this slot under way (R71). -/
  | fetching (n : Nat) (data : List Byte)
  deriving DecidableEq, Repr

/-- A cache page: its place, per-head BF16 scales (R115), the step that last used it (R272), the scrubber's mark (R254). -/
structure CachePage where
  at_ : PageAt
  scales : List Nat
  lastUse : Nat
  poisoned : Bool
  deriving DecidableEq, Repr

/-- A sequence table entry (03 "Sequences and the step boundary"). -/
structure Seq where
  st : SeqSt
  pos : Nat
  maxLen : Nat
  seed : Nat
  /-- Prompt tokens not yet consumed. -/
  prompt : List Nat
  /-- Order of acceptance of the join (R70). -/
  order : Nat
  leave : Bool
  /-- The ingest that joined it, if any (R309, R384). -/
  ingest : Option Nat
  pages : SMap CachePage
  deriving DecidableEq, Repr

/-- A history record (R113): a ring of FP32 maxima and the counts. -/
structure HistRec where
  ring : List Nat
  count : Nat
  next : Nat
  satTotal : Nat
  reruns : Nat
  lastSat : Nat
  deriving DecidableEq, Repr

/-- A history record at Load Context: every byte 0 (R113). -/
def HistRec.zero : HistRec := { ring := List.replicate 16 0, count := 0, next := 0, satTotal := 0, reruns := 0, lastSat := 0 }

/-- An output record (R385). -/
structure OutRec where
  dseq : Nat
  step : Nat
  seq : Nat
  endMark : Bool
  tokValid : Bool
  token : Nat
  pos : Nat
  payload : List Byte
  deriving DecidableEq, Repr

/-- A context's state (R61). -/
inductive CtxSt where
  | loading
  | ready
  | running
  | preempted
  | faulted
  | unloading
  deriving DecidableEq, Repr

/-- A sequence of a step's batch: positions it consumes and whether it emits a token (R72). -/
structure BatchEnt where
  seq : Nat
  pos : Nat
  n : Nat
  emits : Bool
  deriving DecidableEq, Repr

/-- A task of a step (R65). -/
inductive TaskSt where
  | waiting
  | running (core : Nat)
  | done
  deriving DecidableEq, Repr

/-- The verdict of a narrowing point in a step (R109, R156). -/
inductive Verdict where
  | accept
  | rerun
  deriving DecidableEq, Repr

/-- A narrowing point in a step (R107 to R112): form, A, s, m, saturations, verdict. -/
structure NpSt where
  int16 : Bool
  a : Nat
  s : Nat
  m : Nat
  sat : Nat
  rerun : Bool
  verdict : Verdict
  deriving DecidableEq, Repr

/-- A sequence's state before a boundary, and its order of acceptance (R88). -/
structure Prior where
  seq : Nat
  st : SeqSt
  deriving DecidableEq, Repr

/-- A step in progress, running or pre-empted. -/
structure Step where
  slotStart : Nat
  slotClass : Nat
  group : Nat
  checked : Bool
  /-- Table bank and COMPAT1 value the step holds (R208). -/
  bank : Nat
  compat : Bool
  batch : List BatchEnt
  prior : List Prior
  /-- Cache pages reserved for the step: key seq * 2^28 + layer * 2^16 + page. -/
  newPages : List Nat
  tasks : List TaskSt
  /-- Event counters E0 to E15 (R156). -/
  ev : List Nat
  np : SMap NpSt
  /-- Saturations of cache writes, by history record (R116). -/
  kvSat : SMap Nat
  /-- Cache bytes written by the step, by physical address, committed at completion. -/
  kvw : SMap Byte
  /-- Page scales set by the step, by page key. -/
  kvScale : SMap (List Nat)
  /-- Rows discarded by a RERUN verdict (R173), with the narrowing point that wrote them: accumulator row r of core k at
  k * 2^40 + r, partial-sum row at local offset a of core k at k * 2^40 + 64 + a. -/
  discarded : SMap Nat
  /-- OUTPUT window bytes (R162). -/
  out : SMap Byte
  tokens : List Nat
  /-- Tokens were sampled (R385). -/
  sampled : Bool
  deriving DecidableEq, Repr

/-- A DMA operation in flight (R170). -/
structure Dma where
  op : Nat
  src : Nat
  dst : Nat
  rowBytes : Nat
  rows : Nat
  sstr : Nat
  dstr : Nat
  cls : Nat
  grp : Nat
  deriving DecidableEq, Repr

/-- A row that a matrix instruction in progress will write: accumulator row, or partial-sum row at a local address. -/
structure MatRow where
  toAcc : Bool
  at_ : Nat
  vals : List Nat
  deriving DecidableEq, Repr

/-- A matrix instruction in progress (R138): its rows, narrowing point, the layers whose streamed tensors it reads, the tile
descriptors it advances, whether it loads column scales, and whether its rows are discarded (R173). -/
structure MatOp where
  rows : List MatRow
  np : Nat
  checked : Bool
  layers : List Nat
  tds : List Nat
  latches : Bool
  disc : Bool
  deriving DecidableEq, Repr

/-- What a core waits on (R149, R181, R185). -/
inductive Wait where
  | none
  | fence
  | waitev (ev : Nat) (target : Nat)
  | slotwait (t : Nat)
  | verdict (np : Nat)
  | interlock
  | dmaFull
  | recv
  | xm
  | flash
  | scratch
  deriving DecidableEq, Repr

/-- A Strait receive that a core waits on, or a parked receive (R87, R183). -/
structure Recv where
  grp : Nat
  mem : Nat
  tag : Nat
  dst : Nat
  cap : Nat
  rb : Nat
  deadline : Nat
  /-- Fabric time of its issue. -/
  issued : Nat
  /-- The reply has been written to its destination. -/
  arrived : Bool
  deriving DecidableEq, Repr

/-- A loop register (R156). -/
structure LoopReg where
  count : Nat
  index : Nat
  start : Nat
  stop : Nat
  deriving DecidableEq, Repr

/-- An inactive loop register. -/
def LoopReg.zero : LoopReg := { count := 0, index := 0, start := 0, stop := 0 }

/-- What a core holds while it runs a task (R156). -/
structure Run where
  ctx : Nat
  task : Nat
  pc : DWord
  s : Vector DWord 16
  a : Vector DWord 8
  l : Vector LoopReg 4
  /-- Active loops, most recently started first (R169). -/
  lstack : List Nat
  t : Vector (BitVec 256) 16
  /-- Operations outstanding in each completion group. -/
  g : Vector Nat 8
  /-- Column-scale latch: 128 BF16 scales and the TAG, or empty. -/
  latch : Option (Nat × List Nat)
  dma : List Dma
  mat : Option MatOp
  wait : Wait
  recv : Option Recv
  /-- END has issued (R161). -/
  ended : Bool
  deriving DecidableEq, Repr

/-- A save area (R85): its header fields and the core state it holds. -/
structure Save where
  cause : Nat
  time : Nat
  checked : Bool
  wide : Bool
  parked : Bool
  core : Nat
  run : Run
  acc : SMap Nat
  deriving DecidableEq, Repr

/-- One half of the staging ring (R270, R271): the layer it holds or fetches, whether it is fetched, whether it was prefetched
for the next step, and whether it is released once no matrix instruction reads it. -/
structure Half where
  layer : Option Nat
  ready : Bool
  next : Bool
  due : Bool
  deriving DecidableEq, Repr

/-- A resident context (R59). -/
structure Ctx where
  pkg : Pkg
  island : Nat
  st : CtxSt
  fault : Nat
  /-- Step number: steps completed, and the step in progress. -/
  stepNo : Nat
  active : Nat
  workBytes : Nat
  outBytes : Nat
  outbufKib : Nat
  places : List Place
  /-- Physical frame of each frame of the layout; none where R266 does not allocate it. -/
  frames : List (Option Nat)
  /-- Layout: frames of history and WORK, of the staging ring, and the first frame of the pool (R267). -/
  workF0 : Nat
  stageF0 : Nat
  poolF0 : Nat
  halfBytes : Nat
  poolSlots : Nat
  streamed : Bool
  /-- Scratchpad extents backing SCRATCH: physical KiB base and length (R162). -/
  scratch : List (Nat × Nat)
  /-- Extents of the LOCAL partition, the same on every core of the island: KiB base and length. -/
  localEx : List (Nat × Nat)
  seqs : SMap Seq
  joinOrder : Nat
  hist : SMap HistRec
  step : Option Step
  save : SMap Save
  halves : List Half
  /-- Layers fetched in this step, for STAGE_REFETCH (R284). -/
  staged : List Nat
  out : List OutRec
  dseq : Nat
  acked : Nat
  loadTag : Option Tag
  unloadTags : List Tag
  cnt : SMap Nat
  deriving DecidableEq, Repr

/-- A free half. -/
def Half.free : Half := { layer := none, ready := false, next := false, due := false }

/-- One plane of an array (R125): full or not, its 4-bit operands and shift codes by row. -/
structure Plane where
  full : Bool
  nib : List (List Int)
  k : List (List Nat)
  deriving DecidableEq, Repr

/-- An empty plane. -/
def Plane.empty : Plane := { full := false, nib := [], k := [] }

/-- A matrix core with its vector unit (05, 07). -/
structure Core where
  run : Option Run
  /-- Accumulator memory: 48-bit element at row * 128 + column (R137). -/
  acc : SMap Nat
  /-- Bits in error of an element. -/
  accErr : SMap Nat
  active : Plane
  shadow : Plane
  gated : Bool
  degraded : Bool
  /-- Check failures counted since the last device reset (R144). -/
  fails : Nat
  /-- MXC_LAST_FAIL, MXC_SKEW_* (R153). -/
  lastFail : Nat
  skewData : Nat
  skewScale : Nat
  skewExpect : Nat
  /-- VSU_LAST_FAULT and its index (R216). -/
  vsuFault : Nat
  vsuIndex : Nat
  deriving DecidableEq, Repr

/-- A core at reset. -/
def Core.reset : Core :=
  { run := none, acc := [], accErr := [], active := Plane.empty, shadow := Plane.empty, gated := false, degraded := false,
    fails := 0, lastFail := 0, skewData := 0, skewScale := 0, skewExpect := 0, vsuFault := 0, vsuIndex := 0 }

/-- The SFU's table banks (R205 to R208, R219). -/
structure SfuSt where
  /-- Bank 0 holds the default set of the firmware image until written. -/
  default0 : Bool
  default1 : Bool
  bank0 : SMap Nat
  bank1 : SMap Nat
  active : Nat
  addr : Nat
  readBank : Nat
  compat1 : Bool
  result : Nat
  /-- Digest of the active bank; none: the default set's. -/
  digest : Option (List Byte)
  deriving DecidableEq, Repr

/-- The tables at reset (R205). -/
def SfuSt.reset : SfuSt :=
  { default0 := true, default1 := false, bank0 := [], bank1 := [], active := 0, addr := 0, readBank := 0, compat1 := false,
    result := 0, digest := none }

end Sys2Proof.Machine
end

