-- ==== Sys2Proof/Machine/StateFlash.lean ====
section
/-! DEFINITION. State of the flash media and the translation layer (11). -/
namespace Sys2Proof.Machine
open Sys2Proof

/-- A programmed unit (R323): its map index, owner, write sequence and its 16,384 data bytes as the reader sees them. -/
structure FUnit where
  idx : Nat
  owner : Nat
  wseq : Nat
  data : List Byte
  deriving DecidableEq, Repr

/-- Where a superblock stands (R341 to R345). -/
inductive SbSt where
  | free
  | opened
  | closed
  /-- Victim of a run: its valid units are being copied. -/
  | victim
  /-- Marked, its die-blocks being erased. -/
  | erasing
  /-- Its valid units are being relocated; then it is retired (R343). -/
  | retiring
  | reserved
  | retired
  deriving DecidableEq, Repr

/-- A superblock: state, SLC mode, erase count, next wordline and unit position, when it was closed, write order. -/
structure Sb where
  st : SbSt
  slc : Bool
  erases : Nat
  /-- Data units programmed or in programming since its erase. -/
  used : Nat
  /-- Closed at this wordline by an interrupted program (R328). -/
  closedT : Nat
  order : Nat
  deriving DecidableEq, Repr

/-- A superblock of a new module: free, never erased. -/
def Sb.fresh : Sb := { st := .free, slc := false, erases := 0, used := 0, closedT := 0, order := 0 }

/-- A unit's program in flight: where it goes, what it holds, and what the map must still name for its commit (R338, R345). -/
structure Prog where
  sb : Nat
  unit : Nat
  idx : Nat
  /-- The entry (R336) that the map must still hold for the change to be committed. -/
  expect : Nat
  /-- 0 host drain, 1 garbage collection, 2 fold, 3 rewrite, 4 relocation off a retired die, 5 relocation before retirement. -/
  why : Nat
  victim : Option Nat
  deriving DecidableEq, Repr

/-- A journal entry (R340). -/
structure JEnt where
  idx : Nat
  new : Nat
  old : Nat
  wseq : Nat
  deriving DecidableEq, Repr

/-- A namespace (R354): size in units, first map index, attached controllers, its key pair's number. -/
structure Ns where
  units : Nat
  base : Nat
  attached : List Nat
  key : Nat
  deriving DecidableEq, Repr

/-- A range of map indices held by a context (owner 1 + context) or an index (owner 5000 + index) (R335). -/
structure Quota where
  base : Nat
  units : Nat
  owner : Nat
  key : Nat
  deriving DecidableEq, Repr

/-- A run that copies the valid units of a superblock, or of one die slot of it (R345, R331, R334, R343). -/
structure CopyRun where
  sb : Nat
  why : Nat
  slot : Option Nat
  /-- Valid units at its choice. -/
  valid : Nat
  deriving DecidableEq, Repr

/-- A host command that writes and waits for admission (R347) or for free slots. -/
structure WaitWrite where
  tag : Tag
  op : Nat
  sqe : Sqe
  data : List Byte
  since : Nat
  /-- It waits under R347. -/
  held : Bool
  deriving DecidableEq, Repr

/-- A write that completes when its units stand in flash (R498). -/
structure Through where
  tag : Tag
  idxs : List Nat
  deriving DecidableEq, Repr

/-- The MTE's translation layer, the media it manages and the filter engines (11). -/
structure FtlSt where
  /-- Programmed units by unit address (R324). -/
  units : SMap FUnit
  /-- How a unit reads: 1 the hard decode fails, 2 the soft decode fails too, 3 its contents are undefined (R328). -/
  qual : SMap Nat
  /-- The map: 36-bit entries (R336) by map index. -/
  map : SMap Nat
  /-- Occupied write-buffer slots. -/
  slots : SMap FUnit
  journal : List JEnt
  /-- Segments changed since their checkpoint (R340). -/
  dirty : List Nat
  clean : Bool
  wseq : Nat
  sbs : SMap Sb
  /-- Open superblock of each stream: 0 host QLC, 1 host SLC, 2 garbage collection, 3 fold. -/
  streams : SMap Nat
  progs : List Prog
  runs : List CopyRun
  through : List Through
  /-- Read-level offsets by (die * 8 + class) * 16 + level, biased by 64; the two direction counts. -/
  levels : SMap Nat
  lvUp : SMap Nat
  lvDown : SMap Nat
  /-- Retired dies, and program or erase failures by die. -/
  retiredDies : List Nat
  dieFails : SMap Nat
  downChannels : List Nat
  /-- Suspends of the erase in progress by die (R326). -/
  suspends : SMap Nat
  /-- Die-blocks (superblock * 32 + slot) scheduled for rewrite (R331). -/
  rewrites : List Nat
  namespaces : SMap Ns
  quotas : SMap Quota
  readOnly : Bool
  foreground : Bool
  background : Bool
  rebuilding : Bool
  /-- Fabric time since which no NVM or Ingest command has been in flight (R346). -/
  idleSince : Nat
  /-- Host units admitted per copied unit that stand unused, times 2^16 (R347). -/
  credit : Nat
  waiting : List WaitWrite
  spareLowDone : Bool
  smart2 : Bool
  flushBad : Bool
  /-- Closing record of the last flush (R350, R353). -/
  flushClosed : Bool
  flushing : Bool
  nextKey : Nat
  /-- Diagnostic result by MTE page instance (R363). -/
  diag : SMap Nat
  /-- FILTER_LAST_REFUSAL: code and instruction (R368). -/
  filterRefusal : Nat × Nat
  deriving DecidableEq, Repr

/-- The flash of a new module: 53 superblocks reserved (R341), nothing mapped; REBUILDING reads 1 (R366). -/
def FtlSt.reset : FtlSt :=
  { units := [], qual := [], map := [], slots := [], journal := [], dirty := [], clean := true, wseq := 0, sbs := [],
    streams := [], progs := [], runs := [], through := [], levels := [], lvUp := [], lvDown := [], retiredDies := [], dieFails := [], downChannels := [],
    suspends := [], rewrites := [], namespaces := [], quotas := [], readOnly := false, foreground := false, background := false,
    rebuilding := true, idleSince := 0, credit := 0, waiting := [], spareLowDone := false, smart2 := false, flushBad := false,
    flushClosed := true, flushing := false, nextKey := 1, diag := [], filterRefusal := (0, 0) }

end Sys2Proof.Machine
end

