-- ==== Sys2Proof/Machine/StateHost.lean ====
section
/-! DEFINITION. State of the QCU: connections, queues, controllers and power states (12). -/
namespace Sys2Proof.Machine
open Sys2Proof

/-- A command a queue holds outstanding: fetched and executing, waiting for its data, or held (R388, R391). -/
structure OutCmd where
  cid : Nat
  op : Nat
  /-- Data still awaited: the command's fields, its data as far as it has arrived, and the bytes missing (R372). -/
  sqe : Sqe
  data : List Byte
  need : Nat
  /-- The offset up to which data has been solicited. -/
  asked : Nat
  /-- R2Ts outstanding: the offset each next expects and its end. -/
  r2ts : List (Nat × Nat)
  /-- Interface level 1 was in force when the command was fetched: the command completes at that level (R55). -/
  level1 : Bool
  deriving DecidableEq, Repr

/-- A connection and its queue (R370, R375). -/
structure Conn where
  /-- Connected to the discovery port (R370). -/
  disc : Bool
  /-- The peer reached an IPv6 address of the module. -/
  v6 : Bool
  tls : Bool
  icDone : Bool
  hdgst : Bool
  ddgst : Bool
  maxr2t : Nat
  /-- Connect has made this connection a queue: controller, queue number, SQSIZE. -/
  queue : Option (Nat × Nat × Nat)
  noFlow : Bool
  outst : List OutCmd
  frozen : Option Nat
  discarded : Nat
  deriving DecidableEq, Repr

/-- A connection just opened. -/
def Conn.fresh (disc v6 : Bool) : Conn :=
  { disc := disc, v6 := v6, tls := false, icDone := false, hdgst := false, ddgst := false, maxr2t := 0, queue := none, noFlow := false,
    outst := [], frozen := none, discarded := 0 }

/-- An entry of a Queue Error Log (R390). -/
structure QErr where
  time : Nat
  cntlid : Nat
  qid : Nat
  cause : Nat
  cid : Nat
  inFlight : Nat
  discarded : Nat
  state : Nat
  conn : Nat
  streamOff : Nat
  pdu : List Byte
  deriving DecidableEq, Repr

/-- A held asynchronous event: type, information, log page (R391). -/
structure HeldEvent where
  type : Nat
  info : Nat
  log : Nat
  deriving DecidableEq, Repr

/-- A controller (R375, R376, R369). -/
structure Ctrl where
  adminConn : Nat
  discovery : Bool
  kato : Nat
  /-- Fabric time at which the Keep Alive timer last restarted. -/
  kaStart : Nat
  cc : Nat
  /-- CSTS.SHST: 0, 1 or 2. -/
  shst : Nat
  aerCids : List Nat
  held : List HeldEvent
  /-- Events reported and masked until their log page is read (R391). -/
  masked : List HeldEvent
  aeCfg : Nat
  /-- Namespaces changed since the log of changed namespaces was read (R391). -/
  changed : List Nat
  feats : SMap Nat
  log : List QErr
  logTotal : Nat
  deriving DecidableEq, Repr

/-- A power state transition in progress (R393). -/
structure Trans where
  target : Nat
  src : Nat
  tag : Option Tag
  deriving DecidableEq, Repr

/-- Power states (R392, R393). -/
structure PsSt where
  selected : Nat
  inForce : Nat
  lastOp : Nat
  trans : Option Trans
  /-- Set Features commands that wait for the transition, in start order. -/
  waiting : List (Tag × Nat)
  /-- Fabric time at which PS4 was entered, for the cycle starts missed (R82). -/
  ps4At : Nat
  deriving DecidableEq, Repr

/-- The QCU (12). -/
structure QcuSt where
  conns : SMap Conn
  ctrls : SMap Ctrl
  ps : PsSt
  /-- Fabric time of the last CONN_REFUSED record (R370). -/
  lastRefused : Option Nat
  /-- ACT_LED_N low since this fabric time (R491). -/
  actLed : Option Nat
  deriving DecidableEq, Repr

/-- The QCU at reset (R479, R393). -/
def QcuSt.reset : QcuSt :=
  { conns := [], ctrls := [], ps := { selected := 0, inForce := 0, lastOp := 0, trans := none, waiting := [], ps4At := 0 },
    lastRefused := none, actLed := none }

end Sys2Proof.Machine
end

