-- ==== Sys2Proof/Machine/StateMem.lean ====
section
/-! DEFINITION. State of the on-chip memories, external memory and Compass (08, 09). -/
namespace Sys2Proof.Machine
open Sys2Proof

/-- Physical state of a bank (R229, R246). -/
inductive Phys where
  | on
  | ret
  | off
  deriving DecidableEq, Repr

/-- A test engine (R236): the next region, and the region it holds claimed. -/
structure Bgt where
  bank : Nat
  region : Nat
  deriving DecidableEq, Repr

/-- The on-chip memories (08). -/
structure OcmSt where
  /-- Scratchpad bytes by physical offset. -/
  spad : SMap Byte
  /-- Core-local bytes by core * 4 MiB + offset. -/
  loc : SMap Byte
  /-- Flipped bits of the 72-bit codeword of a scratchpad word (byte offset / 8), and of a core-local word. -/
  spadErr : SMap Nat
  locErr : SMap Nat
  /-- Programmed power field by bank (0 to 63), and by core * 16 + bank; unlisted: ON. -/
  spadPwr : SMap Nat
  locPwr : SMap Nat
  /-- Physical state; unlisted: on. -/
  spadPhys : SMap Phys
  locPhys : SMap Phys
  atoll : Nat
  diag : Bool
  wiping : Bool
  /-- A device reset or start-up holds every port in fixed mode (R225). -/
  initBusy : Bool
  flipArm : Bool
  bgtSpad : Bgt
  bgtLoc : SMap Bgt
  /-- OCM_LAST_ECC and OCM_LAST_TEST. -/
  lastEcc : Nat
  lastTest : Nat
  /-- Local conflict counters kept per core: core * 8 + master (R248). -/
  locConf : SMap Nat
  deriving DecidableEq, Repr

/-- The on-chip memories at reset (R244, R246). -/
def OcmSt.reset : OcmSt :=
  { spad := [], loc := [], spadErr := [], locErr := [], spadPwr := [], locPwr := [], spadPhys := [], locPhys := [], atoll := 0,
    diag := false, wiping := false, initBusy := true, flipArm := false, bgtSpad := ⟨0, 0⟩, bgtLoc := [], lastEcc := 0,
    lastTest := 0, locConf := [] }

/-- A channel of external memory (R279). -/
structure Chan where
  trained : Bool
  selfRefresh : Bool
  rate : Nat
  drift : Bool
  margin : Nat
  flipArm : Bool
  /-- Most recent burst in error: address, uncorrectable, symbol. -/
  lastAddr : Nat
  lastUncorr : Bool
  lastSym : Nat
  deriving DecidableEq, Repr

/-- A channel at reset: every field 0 (R279). -/
def Chan.reset : Chan :=
  { trained := false, selfRefresh := false, rate := 0, drift := false, margin := 0, flipArm := false, lastAddr := 0,
    lastUncorr := false, lastSym := 0 }

/-- A scrub in progress (R257): range, and what its reads found is in the counters. -/
structure ScrubSt where
  busy : Bool
  done : Bool
  aborted : Bool
  rangeErr : Bool
  first : Nat
  last : Nat
  firstFail : Option Nat
  lastFail : Nat
  deriving DecidableEq, Repr

/-- External memory (R249 to R263). -/
structure XmcSt where
  /-- Bytes by physical address; every frame is zeroed before it is allocated (R269), so an unlisted byte reads 0. -/
  mem : SMap Byte
  /-- Symbols in error of a burst (address / 64): (symbol, pattern) pairs. -/
  err : SMap (List (Nat × Nat))
  chans : SMap Chan
  scrub : ScrubSt
  deriving DecidableEq, Repr

/-- External memory at reset. -/
def XmcSt.reset : XmcSt :=
  { mem := [], err := [], chans := [],
    scrub := { busy := false, done := false, aborted := false, rangeErr := false, first := 0, last := 0, firstFail := none,
               lastFail := 0 } }

/-- Tensors shared by contexts loaded from one package (R266): the contexts, the layout frames that hold shared bytes and
their physical frames, the offsets of the shared tensors. -/
structure Share where
  nsid : Nat
  slba : Nat
  digest : List Byte
  users : List Nat
  /-- Frames in the account, by frame of the layout the copy was placed under. -/
  frames : SMap Nat
  places : List (Nat × Nat × Nat)
  deriving DecidableEq, Repr

/-- A quarantined package's object (R275). -/
structure Quar where
  nsid : Nat
  slba : Nat
  entry : Nat
  ctxs : List Nat
  deriving DecidableEq, Repr

/-- Compass (R264 to R284). -/
structure CompassSt where
  /-- Owner of each allocated general frame: 1 + context, or 2000 + n for share n. -/
  frames : SMap Nat
  shares : SMap Share
  quar : List Quar
  /-- Most recently quarantined: context, entry, namespace, first logical block. -/
  quarInfo : Option (Nat × Nat × Nat × Nat)
  deriving DecidableEq, Repr

/-- Compass at reset. -/
def CompassSt.reset : CompassSt := { frames := [], shares := [], quar := [], quarInfo := none }

end Sys2Proof.Machine
end

