-- ==== Sys2Proof/Machine/StateMsp.lean ====
section
/-! DEFINITION. State of the management core: fuses, key store and configuration copies, firmware image, attestation and the
management session (14). -/
namespace Sys2Proof.Machine
open Sys2Proof

/-- The fuses of the module (R451, R461, R465, R466). -/
structure Fuses where
  lcCount : Nat
  tampers : Nat
  clears : Nat
  udsUsed : Nat
  udsKilled : Nat
  /-- UDS values by slot: read by the KDE only. -/
  uds : SMap Nat
  svnFloor : Nat
  keyRevoked : Nat
  /-- The kill fuse of the KDE (DECOMMISSION). -/
  kdeKilled : Bool
  deriving DecidableEq, Repr

/-- What the key store holds (R452): its header's lifecycle state and nonces, and its entries. -/
structure KeyStore where
  life : Life
  nonceId : Option Nat
  salt : Option Nat
  /-- Number of the media key pair, once one is held. -/
  media : Option Nat
  /-- PSKs: identity and key. -/
  psks : List (List Byte × List Byte)
  ownerHash : Option (List Byte)
  deriving DecidableEq, Repr

/-- An empty key store of a BLANK module. -/
def KeyStore.blank : KeyStore := { life := .blank, nonceId := none, salt := none, media := none, psks := [], ownerHash := none }

/-- A copy in the NOR (R441): whether its tag verifies, its sequence number, its LC_COUNT and what it holds. -/
structure NorCopy (α : Type) where
  tagOk : Bool
  seq : Nat
  lcCount : Nat
  val : α
  deriving DecidableEq, Repr

/-- A running firmware image (R443, R444): version, SVN, key, digest, whether it raises the floor at ready. -/
structure FwInfo where
  version : Nat
  svn : Nat
  key : Nat
  digest : List Byte
  raise : Bool
  deriving DecidableEq, Repr

/-- A firmware update in progress (R447): sectors done, sectors of the image, the image, its command. -/
structure FwUpdate where
  done : Nat
  total : Nat
  img : List Byte
  tag : Tag
  deriving DecidableEq, Repr

/-- Roles of a management session (R458). -/
inductive Role where
  | none
  | owner
  | madelvar
  deriving DecidableEq, Repr

/-- A management session (R458): its messages so far, what OPEN asked for, and the role AUTH gave. -/
structure Session where
  id : Nat
  asked : Role
  role : Role
  transcript : List Byte
  /-- The shared secret of the encapsulation. -/
  secret : Nat
  /-- RECORD messages may come. -/
  ready : Bool
  /-- Counts of records received and sent. -/
  rx : Nat
  tx : Nat
  lastT : Nat
  deriving DecidableEq, Repr

/-- The SPDM responder (R456): how far negotiation has come, the requester's DataTransferSize, the transcripts of negotiation, of
digests and certificates, and of measurements, and the chunk buffers. -/
structure SpdmSt where
  /-- 0: nothing agreed; 1: version; 2: capabilities; 3: algorithms. -/
  stage : Nat
  dts : Nat
  vca : List Byte
  certs : List Byte
  meas : List Byte
  /-- A large request arriving: handle, next sequence number, size, bytes so far. -/
  req : Option (Nat × Nat × Nat × List Byte)
  /-- A large response held: handle, next sequence number, bytes not yet sent. -/
  resp : Option (Nat × Nat × List Byte)
  /-- Handle of the next large response. -/
  handle : Nat
  deriving DecidableEq, Repr

/-- The responder before any message. -/
def SpdmSt.reset : SpdmSt := { stage := 0, dts := 1024, vca := [], certs := [], meas := [], req := none, resp := none, handle := 0 }

/-- The management core (14). -/
structure MspSt where
  fuses : Fuses
  ksA : NorCopy KeyStore
  ksB : NorCopy KeyStore
  cfgA : NorCopy (SMap Word)
  cfgB : NorCopy (SMap Word)
  /-- No valid key store copy was found: RETURN behaviour until reprovisioned (R463). -/
  ksLost : Bool
  cert0 : List Byte
  cert1 : List Byte
  /-- Kinds and times of event log records. -/
  events : List (Nat × Nat)
  /-- The image programmed at manufacture stands in the NOR. -/
  factory : Bool
  /-- The NOR's image region, 64 KiB sectors; unlisted: erased. -/
  nor : SMap (List Byte)
  /-- Sectors the recovery agent has erased. -/
  recErased : List Nat
  fw : Option FwInfo
  imageValid : Bool
  recovery : Bool
  update : Option FwUpdate
  /-- MSP_UPDATE_PROGRESS: sectors programmed, sectors of the image. -/
  progress : Nat × Nat
  /-- Staged firmware ranges: offset and bytes. -/
  staged : List (Nat × List Byte)
  /-- The management core runs only the ROM: its management commands wait (R439). -/
  busy : Bool
  session : Option Session
  spdm : SpdmSt
  /-- The identity public key generated at start-up. -/
  idKey : Option (List Byte)
  kdeLocked : Bool
  /-- Valid bits of the Atoll's key slots: the key store is unwrapped in it (R453). -/
  keysLoaded : Bool
  tamperStatus : Nat
  /-- The tamper loop has been outside its window since this fabric time. -/
  loopSince : Option Nat
  /-- The LOOP event of this excursion has been raised. -/
  loopRaised : Bool
  /-- Key store copies and certificate slot 0 wait to be erased (R465). -/
  erasePending : Bool
  deriving DecidableEq, Repr

/-- The management core of a BLANK module at power good. -/
def MspSt.reset : MspSt :=
  { fuses := { lcCount := 0, tampers := 0, clears := 0, udsUsed := 0, udsKilled := 0, uds := [], svnFloor := 0, keyRevoked := 0,
               kdeKilled := false },
    ksA := ⟨true, 1, 0, KeyStore.blank⟩, ksB := ⟨true, 0, 0, KeyStore.blank⟩, cfgA := ⟨true, 1, 0, []⟩, cfgB := ⟨true, 0, 0, []⟩,
    ksLost := false, cert0 := [], cert1 := [], events := [], factory := true, nor := [], recErased := [], fw := none,
    imageValid := false, recovery := false, update := none, progress := (0, 0), staged := [], busy := false, session := none,
    spdm := SpdmSt.reset, idKey := none, kdeLocked := false,
    keysLoaded := false, tamperStatus := 0, loopSince := none, loopRaised := false, erasePending := false }

end Sys2Proof.Machine
end

