-- ==== Sys2Proof/Machine/StateNet.lean ====
section
/-! DEFINITION. State of the port, the Sextant and the Strait block (13). -/
namespace Sys2Proof.Machine
open Sys2Proof

/-- The NIU (R398 to R410). -/
structure NiuSt where
  linkUp : Bool
  /-- Auto-negotiation runs since this fabric time. -/
  anSince : Option Nat
  laneLock : Nat
  fecDegraded : Bool
  /-- Frames in each receive queue, and what each transmit queue holds, with its bytes, followed by what stalled writers wait to
  write (R408). -/
  rxq : SMap (List Frame)
  txq : SMap (List (OutMsg × Nat))
  /-- Priorities the module pauses; priorities the partner pauses, with the fabric time the pause ends. -/
  xoff : List Nat
  paused : SMap Nat
  flushing : Nat
  /-- Fabric times of recent pointer faults by queue: 8 receive, then 8 transmit. -/
  ptrFaults : SMap (List Nat)
  /-- The gateway's link address is known since this fabric time. -/
  gateway : Option Nat
  /-- Packets that wait for a link address, with the fabric time each was queued. -/
  unresolved : List (Nat × OutMsg)
  /-- Retransmission timeout of each TCP connection in µs, once it has been doubled. -/
  rto : SMap Nat
  deriving DecidableEq, Repr

/-- The NIU at reset. -/
def NiuSt.reset : NiuSt :=
  { linkUp := false, anSince := none, laneLock := 0, fecDegraded := false, rxq := [], txq := [], xoff := [], paused := [],
    flushing := 0, ptrFaults := [], gateway := none, unresolved := [], rto := [] }

/-- States of the Sextant (R414). -/
inductive SxState where
  | freerun
  | acquiring
  | locked
  | coast
  | holdover
  | lost
  deriving DecidableEq, Repr

/-- A foreign master: its identity and its dataset's rank (R411). -/
structure Foreign where
  gm : Nat
  rank : List Nat
  deriving DecidableEq, Repr

/-- The Sextant (R411 to R419). -/
structure SextSt where
  st : SxState
  /-- Where ACQUIRING was entered from. -/
  from_ : SxState
  /-- A reference is present. -/
  haveRef : Bool
  /-- Fabric time of the loss while LOCKED that SEXTANT_LOSS_S counts from. -/
  lossT : Option Nat
  offset : Int
  freqPpb : Int
  gm : Nat
  pathDelay : Int
  /-- Consecutive offsets within ±100 ns, and consecutive offsets of at least SEXTANT_STEP_NS. -/
  good : Nat
  big : Nat
  foreign : List Foreign
  /-- A two-step Sync waiting for its Follow_Up: sequence number, and own timestamp less its correction. -/
  sync : Option (Nat × Int)
  /-- Origin and own timestamps of the last complete Sync. -/
  t1t2 : Option (Int × Int)
  delaySeq : Nat
  /-- Own timestamp of the Delay_Req outstanding. -/
  t3 : Option Nat
  delayInterval : Int
  syncInterval : Int
  todSet : Bool
  todArmed : Bool
  todSec : Nat
  /-- Fabric time at which the last accepted PPS_IN edge stood, and consecutive rejected edges. -/
  ppsLast : Option Nat
  ppsRej : Nat
  ppsOut : Bool
  ppsRise : Nat
  deriving DecidableEq, Repr

/-- The Sextant at reset (R414, R434). -/
def SextSt.reset : SextSt :=
  { st := .freerun, from_ := .freerun, haveRef := false, lossT := none, offset := 0, freqPpb := 0, gm := 0, pathDelay := 0, good := 0,
    big := 0, foreign := [], sync := none, t1t2 := none, delaySeq := 0, t3 := none, delayInterval := 0, syncInterval := 0,
    todSet := false, todArmed := false, todSec := 0, ppsLast := none, ppsRej := 0, ppsOut := false, ppsRise := 0 }

/-- A segment sent and not acknowledged: its SEQ, its bytes and the message it belongs to. -/
structure TxSeg where
  seq : Nat
  bytes : List Byte
  msg : Nat
  deriving DecidableEq, Repr

/-- A message being sent: its number, the job it belongs to as core, context and completion group, if it has one. -/
structure TxMsg where
  num : Nat
  core : Option (Nat × Nat × Nat)
  deriving DecidableEq, Repr

/-- A member of a group (R424 to R428, R436). -/
structure Member where
  valid : Bool
  ipv6 : Bool
  /-- Address words in force, and as written since the last write of 0x130. -/
  addr : Nat
  addrNext : Nat
  txSeq : Nat
  rxSeq : Nat
  session : Option Nat
  unacked : List TxSeg
  /-- Segments that wait for room among the 64 unacknowledged. -/
  waiting : List TxSeg
  msgs : List TxMsg
  /-- The current retransmission wait in µs and the resends made. -/
  rto : Nat
  retries : Nat
  /-- Payload of the message being received, by segment. -/
  part : List (List Byte)
  /-- Segments accepted and not acknowledged. -/
  ackDue : Nat
  down : Bool
  /-- Fabric time of the last SYNC_REPLY, and what it reported. -/
  reply : Option Nat
  inStep : Bool
  chartDiff : Bool
  timeBad : Bool
  offBad : Bool
  stale : Bool
  offset : Int
  rtt : Int
  deriving DecidableEq, Repr

/-- A member at reset. -/
def Member.reset : Member :=
  { valid := false, ipv6 := false, addr := 0, addrNext := 0, txSeq := 1, rxSeq := 1, session := none, unacked := [], waiting := [],
    msgs := [], rto := 0, retries := 0, part := [], ackDue := 0, down := false, reply := none, inStep := false, chartDiff := false,
    timeBad := false, offBad := false, stale := false, offset := 0, rtt := 0 }

/-- A group slot. -/
structure GrpSlot where
  group : Nat
  self : Nat
  members : SMap Member
  deriving DecidableEq, Repr

/-- A group slot at reset. -/
def GrpSlot.reset : GrpSlot := { group := 0, self := 0, members := [] }

/-- A message that no open receive matched (R426). -/
structure HeldMsg where
  grp : Nat
  mem : Nat
  tag : Nat
  data : List Byte
  since : Nat
  deriving DecidableEq, Repr

/-- The Strait block (R420 to R431). -/
structure StraitSt where
  session : Nat
  slots : SMap GrpSlot
  held : List HeldMsg
  /-- Fabric time of the last STRAIT_BUF_FULL record. -/
  fullT : Option Nat
  nextMsg : Nat
  deriving DecidableEq, Repr

/-- The Strait block at reset. -/
def StraitSt.reset : StraitSt := { session := 0, slots := [], held := [], fullT := none, nextMsg := 1 }

end Sys2Proof.Machine
end

