-- ==== Sys2Proof/Machine/StatePwr.lean ====
section
/-! DEFINITION. State of the pins, the 54 V input, the hold-up store and the power governor (16). -/
namespace Sys2Proof.Machine
open Sys2Proof

/-- Causes of a power-loss flush (PWR_LAST_FLUSH.CAUSE, R512). -/
inductive FlushCause where
  | none
  | input
  | modRst
  | pwrEn
  | over
  | trip
  | fatal
  deriving DecidableEq, Repr

/-- Pins, supply and governor (R487 to R513). -/
structure PwrSt where
  /-- Filtered levels of PWR_EN, MOD_RST_N and BRAKE_N, and presence of AUX_3V3 and of the 54 V input in its range. -/
  pwrEn : Bool
  modRstN : Bool
  brakeN : Bool
  aux : Bool
  vin : Bool
  /-- Brake level is in force; the hold of R506. -/
  brake : Bool
  toggleHold : Bool
  /-- Fabric time of the last brake request, and whether BRAKE_HELD was recorded for this assertion. -/
  brakeT : Option Nat
  brakeHeld : Bool
  dipCap : Bool
  ride : Bool
  /-- Mean input power of the last interval in mW, and voltage in mV. -/
  lastMw : Nat
  lastMv : Nat
  /-- Energy counted and not yet a whole joule, in nJ. -/
  energyNj : Nat
  /-- Fabric times of the intervals above L in the trailing 4 s, newest first. -/
  peak : List Nat
  peakGrant : Bool
  /-- PEAK_LIMIT has been recorded and the account has not fallen since. -/
  peakLimited : Bool
  limitW : Nat
  /-- Sensors in tenths of a degree; unlisted: not yet read. -/
  temps : SMap Int
  throttle : Bool
  holdupMj : Nat
  holdupUf : Nat
  holdupLow : Bool
  writeThrough : Bool
  /-- A flush in progress and its cause; the cause of the last, kept in the flash area (R512). -/
  flush : Option FlushCause
  lastFlush : FlushCause
  lastComplete : Bool
  /-- Start-up waits for every sensor to read below its throttle temperature (R511). -/
  tripped : Bool
  /-- The converters may switch on: not after a THERMAL_TRIP, until PWR_EN has fallen and risen or P54V has been away (R511). -/
  armed : Bool
  /-- The I3C target's dynamic address (R491). -/
  i3c : Option Nat
  deriving DecidableEq, Repr

/-- Pins and governor at power good: PWR_EN high, no reset, no brake, 54 V and AUX_3V3 present. -/
def PwrSt.reset : PwrSt :=
  { pwrEn := true, modRstN := true, brakeN := true, aux := true, vin := true, brake := false, toggleHold := false, brakeT := none,
    brakeHeld := false, dipCap := false, ride := false, lastMw := 0, lastMv := 0, energyNj := 0, peak := [], peakGrant := false,
    peakLimited := false, limitW := 0, temps := [], throttle := false, holdupMj := 0, holdupUf := 0, holdupLow := false,
    writeThrough := false, flush := none, lastFlush := .none, lastComplete := false, tripped := false, armed := true, i3c := none }

end Sys2Proof.Machine
end

