-- ==== Sys2Proof/Machine/StateSre.lean ====
section
/-! DEFINITION. State of the SRE: indexes, queries, ingests and merges (10). -/
namespace Sys2Proof.Machine
open Sys2Proof

/-- The parameters an index fixes at its creation (R285). -/
structure IdxCfg where
  metric : Nat
  e16 : Bool
  dim : Nat
  m : Nat
  degree : Nat
  buildL : Nat
  /-- ALPHA as an FP32 encoding. -/
  alpha : Nat
  shard : Nat
  maxVec : Nat
  slotBytes : Nat
  xmBytes : Nat
  flashBytes : Nat
  codebook : List Byte
  deriving DecidableEq, Repr

/-- A node of the graph: its code, its epochs, the versions of its neighbour list and of its flash slot, newest first
("Traversal and determinism"). -/
structure GNode where
  code : List Nat
  ins : Nat
  del : Option Nat
  lists : List (Nat × List Nat)
  slots : List (Nat × Nat)
  deriving DecidableEq, Repr

/-- State of an index (SRE_IDX_STATE); an index not listed does not exist. LOADING lasts until the fabric time given. -/
inductive IdxSt where
  | loading (until_ : Nat)
  | ready
  | compacting
  | switching
  | damaged
  deriving DecidableEq, Repr

/-- An index. -/
structure Index where
  cfg : IdxCfg
  st : IdxSt
  entry : Option Nat
  last : Nat
  floor : Nat
  /-- LAST before each commit in reverse order with the fabric time of the commit, for a batch opening at the same instant
  (R296, R318). -/
  lastPrev : Nat
  lastT : Nat
  snapshot : Nat
  nodes : SMap GNode
  deltaUsed : Nat
  /-- Slots marked unreadable (R315) and the ID most recently marked. -/
  lost : List Nat
  lostId : Option Nat
  /-- A compaction in progress: its S and its command. -/
  compact : Option (Nat × Option Tag)
  /-- A drop waiting for queries in progress. -/
  drop : Option (Option Tag)
  deriving DecidableEq, Repr

/-- Where a query came from. -/
inductive Origin where
  | host (t : Tag)
  /-- The SEARCH instruction: core, context and step, destination, capacity, completion group (R183). -/
  | core (core ctx step dst cap grp : Nat)
  /-- A Strait QUERY: group, merger's member number, the merger's query number (R311). -/
  | member (grp mem tag : Nat)
  deriving DecidableEq, Repr

/-- A query's parameters (R306). -/
structure QParm where
  index : Nat
  filter : Bool
  expand : Bool
  explicit : Bool
  k : Nat
  l : Nat
  rerank : Nat
  expandMax : Nat
  qformat : Nat
  group : Nat
  deadlineUs : Nat
  epoch : Nat
  q : List Byte
  prog : List Byte
  deriving DecidableEq, Repr

/-- A merge in progress (R311 to R313): target, deadline, members asked, and the results received, by member. -/
structure Merge where
  target : Nat
  deadline : Nat
  members : List Nat
  /-- Members not asked because they were not in step (R429). -/
  skipped : List Nat
  got : SMap (List Byte)
  deriving DecidableEq, Repr

/-- A query, queued or (with its epoch and class) in flight. -/
structure Query where
  parm : QParm
  origin : Origin
  order : Nat
  /-- Fabric time of the first slot it may open in; 0 = any. -/
  target : Nat
  /-- It opens a batch of its own at once (R311). -/
  imm : Bool
  opened : Option (Nat × Nat)
  merge : Option Merge
  /-- A merger's own copy has completed; what remains is the wait for members. -/
  ownDone : Bool
  deriving DecidableEq, Repr

/-- A record of an ingest: local ID, tokens, kept filter record, its sequence while it has one, its vector once embedded. -/
structure IngRec where
  id : Nat
  tokens : List Nat
  rec_ : List Byte
  seq : Option Nat
  vec : Option (List Byte)
  deriving DecidableEq, Repr

/-- An ingest job (R308, R309). -/
structure Ingest where
  tag : Tag
  index : Nat
  ctx : Nat
  epoch : Nat
  recs : List IngRec
  deriving DecidableEq, Repr

/-- The SRE (10). -/
structure SreSt where
  idx : SMap Index
  queries : SMap Query
  ingests : SMap Ingest
  nextJob : Nat
  order : Nat
  deriving DecidableEq, Repr

/-- The SRE at reset. -/
def SreSt.reset : SreSt := { idx := [], queries := [], ingests := [], nextJob := 1, order := 0 }

end Sys2Proof.Machine
end

