-- ==== Sys2Proof/Machine/State.lean ====
section
/-! DEFINITION. The state of the part, what stops a step, and the state after power-on reset. -/
namespace Sys2Proof.Machine
open Sys2Proof

/-- What stops the machine with a fault. No rule of the spec stops the part for a command: an error is recorded and acted
on by its class (R468). The one constructor is kept for the interface and is raised by nothing (safe). -/
inductive Fault where
  /-- Raised by no command. -/
  | none
  deriving DecidableEq, Repr

/-- Why a command has no meaning. -/
inductive Refusal where
  /-- A command whose meaning is not written: raised by its arm of exec only (safe). -/
  | notModelled (mnemonic : String)
  /-- A command that names a core, connection or unit number the part does not have: such a command cannot arrive; raised by
  the meaning of a row whose operand fails its WellFormed check (safe). -/
  | illFormed
  deriving DecidableEq, Repr

/-- The state of the part. -/
structure State where
  time : TimeSt
  err : ErrSt
  /-- Page headers by page; unlisted: every field 0. -/
  hdr : SMap PageHdr
  /-- Software-written fields of registers, by 20-bit address; unlisted: the reset word. -/
  regs : SMap Word
  /-- Counters by page * 4096 + offset (R16, R44). -/
  cnt : SMap Nat
  /-- Latched high halves by path * 2^20 + address (R16, R17). -/
  latch : SMap Nat
  chip : ChipSt
  chart : ChartSt
  ctxs : SMap Ctx
  /-- Core bitmaps of the 48 islands (R63). -/
  islands : SMap Nat
  cores : SMap Core
  sfu : SfuSt
  ocm : OcmSt
  xmc : XmcSt
  compass : CompassSt
  ftl : FtlSt
  qcu : QcuSt
  sre : SreSt
  niu : NiuSt
  sext : SextSt
  strait : StraitSt
  msp : MspSt
  pwr : PwrSt
  /-- The model's own record of what the part has sent out, oldest first. -/
  out : List OutMsg
  /-- The model's own counter of free values drawn. -/
  fresh : Nat
  /-- Commands waiting, first in first out. -/
  pending : List Instr
  deriving DecidableEq, Repr

/-- The state right after a power-on reset, at power good (R479, R482). -/
def State.reset : State :=
  { time := { master := 0, replica := 0, uptime := 0 },
    err := { ring := [], head := 0, wraps := 0, tail := 0, overflow := false, fatalLast := none, handlings := [], tripHold := false },
    hdr := [], regs := [], cnt := [], latch := [],
    chip := { stage := .powerGood, stopped := false, level1 := false, locked := false, cause := 0, pll := 0, devResetDue := none, modReset := none,
              fmeas := none, fmeasKhz := 0, replays := 0, powered := true, ps4Fabric := none },
    chart := ChartSt.reset, ctxs := [], islands := [], cores := [], sfu := SfuSt.reset, ocm := OcmSt.reset, xmc := XmcSt.reset,
    compass := CompassSt.reset, ftl := FtlSt.reset, qcu := QcuSt.reset, sre := SreSt.reset, niu := NiuSt.reset,
    sext := SextSt.reset, strait := StraitSt.reset, msp := MspSt.reset, pwr := PwrSt.reset, out := [], fresh := 0, pending := [] }

end Sys2Proof.Machine
end

