-- ==== Sys2Proof/Machine/Setters.lean ====
section
/-! DEFINITION. One update per field of State: every operation changes the state through these. -/
namespace Sys2Proof.Machine
open Sys2Proof

/-- Replace `time`. -/
def setTime (v : TimeSt) (s : State) : State := { s with time := v }
/-- Replace `err`. -/
def setErr (v : ErrSt) (s : State) : State := { s with err := v }
/-- Replace `hdr`. -/
def setHdr (v : SMap PageHdr) (s : State) : State := { s with hdr := v }
/-- Replace `regs`. -/
def setRegs (v : SMap Word) (s : State) : State := { s with regs := v }
/-- Replace `cnt`. -/
def setCnt (v : SMap Nat) (s : State) : State := { s with cnt := v }
/-- Replace `latch`. -/
def setLatch (v : SMap Nat) (s : State) : State := { s with latch := v }
/-- Replace `chip`. -/
def setChip (v : ChipSt) (s : State) : State := { s with chip := v }
/-- Replace `chart`. -/
def setChart (v : ChartSt) (s : State) : State := { s with chart := v }
/-- Replace `ctxs`. -/
def setCtxs (v : SMap Ctx) (s : State) : State := { s with ctxs := v }
/-- Replace `islands`. -/
def setIslands (v : SMap Nat) (s : State) : State := { s with islands := v }
/-- Replace `cores`. -/
def setCores (v : SMap Core) (s : State) : State := { s with cores := v }
/-- Replace `sfu`. -/
def setSfu (v : SfuSt) (s : State) : State := { s with sfu := v }
/-- Replace `ocm`. -/
def setOcm (v : OcmSt) (s : State) : State := { s with ocm := v }
/-- Replace `xmc`. -/
def setXmc (v : XmcSt) (s : State) : State := { s with xmc := v }
/-- Replace `compass`. -/
def setCompass (v : CompassSt) (s : State) : State := { s with compass := v }
/-- Replace `ftl`. -/
def setFtl (v : FtlSt) (s : State) : State := { s with ftl := v }
/-- Replace `qcu`. -/
def setQcu (v : QcuSt) (s : State) : State := { s with qcu := v }
/-- Replace `sre`. -/
def setSre (v : SreSt) (s : State) : State := { s with sre := v }
/-- Replace `niu`. -/
def setNiu (v : NiuSt) (s : State) : State := { s with niu := v }
/-- Replace `sext`. -/
def setSext (v : SextSt) (s : State) : State := { s with sext := v }
/-- Replace `strait`. -/
def setStrait (v : StraitSt) (s : State) : State := { s with strait := v }
/-- Replace `msp`. -/
def setMsp (v : MspSt) (s : State) : State := { s with msp := v }
/-- Replace `pwr`. -/
def setPwr (v : PwrSt) (s : State) : State := { s with pwr := v }
/-- Replace `out`. -/
def setOut (v : List OutMsg) (s : State) : State := { s with out := v }
/-- Replace `fresh`. -/
def setFresh (v : Nat) (s : State) : State := { s with fresh := v }
/-- Replace `pending`. -/
def setPending (v : List Instr) (s : State) : State := { s with pending := v }

end Sys2Proof.Machine
end

