-- ==== Sys2Proof/Machine/Ops.lean ====
section
/-! DEFINITION. The named operations every block shares: outcomes, free values, time, page headers, counters, register
words, outputs, asynchronous events, and the raising and recording of errors (R42 to R53, R468 to R477). -/
namespace Sys2Proof.Machine
open Sys2Proof

/-- What a meaning answers. -/
abbrev Res := Host.Outcome State Fault Refusal

/-- A command that completes with a next state. -/
def ok (s : State) : Res := .next s

/-- A free value, and the state that has drawn it. -/
def draw (s : State) : Nat × State := (Config.free s.fresh, setFresh (s.fresh + 1) s)

/-- Master fabric time now. -/
def now (s : State) : Nat := s.time.master

/-! ### Page headers, counters, register words -/

/-- Header of a page. -/
def hdr (s : State) (page : Nat) : PageHdr := smGet PageHdr.zero s.hdr page

/-- Change a page's header. -/
def modHdr (page : Nat) (f : PageHdr → PageHdr) (s : State) : State :=
  setHdr (smPut PageHdr.zero s.hdr page (f (hdr s page))) s

/-- Key of a register address: page and offset (R41). -/
def addr (page off : Nat) : Nat := page * 4096 + off

/-- A counter's value (R44). -/
def cntGet (s : State) (page off : Nat) : Nat := smGet 0 s.cnt (addr page off)

/-- Set a counter, modulo 2^64. -/
def cntSet (page off v : Nat) (s : State) : State := setCnt (smPut 0 s.cnt (addr page off) (w64 v)) s

/-- Count `n` events: a frozen page counts nothing (R42); a counter wraps from 2^64 − 1 to 0 (R44). -/
def cntAdd (page off n : Nat) (s : State) : State :=
  if (hdr s page).freeze then s else cntSet page off (cntGet s page off + n) s

/-- The stored word of a register's software-written fields. -/
def regWord (s : State) (page off : Nat) : Word := smGet (resetWord page off) s.regs (addr page off)

/-- Store a register's word. -/
def setRegWord (page off : Nat) (w : Word) (s : State) : State :=
  setRegs (smPut (resetWord page off) s.regs (addr page off) w) s

/-- A stored field [hi:lo]. -/
def regFld (s : State) (page off hi lo : Nat) : Nat := bits (regWord s page off).toNat hi lo

/-! ### Sub-states -/

def modErr (f : ErrSt → ErrSt) (s : State) : State := setErr (f s.err) s
def modChip (f : ChipSt → ChipSt) (s : State) : State := setChip (f s.chip) s
def modChart (f : ChartSt → ChartSt) (s : State) : State := setChart (f s.chart) s
def modOcm (f : OcmSt → OcmSt) (s : State) : State := setOcm (f s.ocm) s
def modXmc (f : XmcSt → XmcSt) (s : State) : State := setXmc (f s.xmc) s
def modCompass (f : CompassSt → CompassSt) (s : State) : State := setCompass (f s.compass) s
def modFtl (f : FtlSt → FtlSt) (s : State) : State := setFtl (f s.ftl) s
def modQcu (f : QcuSt → QcuSt) (s : State) : State := setQcu (f s.qcu) s
def modSre (f : SreSt → SreSt) (s : State) : State := setSre (f s.sre) s
def modNiu (f : NiuSt → NiuSt) (s : State) : State := setNiu (f s.niu) s
def modSext (f : SextSt → SextSt) (s : State) : State := setSext (f s.sext) s
def modStrait (f : StraitSt → StraitSt) (s : State) : State := setStrait (f s.strait) s
def modMsp (f : MspSt → MspSt) (s : State) : State := setMsp (f s.msp) s
def modPwr (f : PwrSt → PwrSt) (s : State) : State := setPwr (f s.pwr) s
def modSfu (f : SfuSt → SfuSt) (s : State) : State := setSfu (f s.sfu) s

/-- A resident context. -/
def ctx? (s : State) (n : Nat) : Option Ctx := smFind s.ctxs n

/-- Replace a context's entry. -/
def putCtx (n : Nat) (c : Ctx) (s : State) : State := setCtxs (smSet s.ctxs n c) s

/-- Change a resident context. -/
def modCtx (n : Nat) (f : Ctx → Ctx) (s : State) : State :=
  match ctx? s n with
  | none => s
  | some c => putCtx n (f c) s

/-- A core. -/
def core (s : State) (k : Nat) : Core := smGet Core.reset s.cores k

/-- Change a core. -/
def modCore (k : Nat) (f : Core → Core) (s : State) : State := setCores (smPut Core.reset s.cores k (f (core s k))) s

/-- Count for a context (R91, R284): key page * 4096 + offset; frozen with the page. -/
def ctxCnt (n page off v : Nat) (s : State) : State :=
  if (hdr s page).freeze then s
  else modCtx n (fun c => { c with cnt := smPut 0 c.cnt (addr page off) (w64 (smGet 0 c.cnt (addr page off) + v)) }) s

/-! ### The passage of time -/

/-- The per-context counter that a core stalled in this way adds to (R273). -/
def stallCnt : Wait → Option Nat
  | .xm => some 0x900
  | .flash => some 0x908
  | .scratch => some 0x910
  | _ => none

/-- `d` ns pass: each core stalled on operand data adds them to a counter of its context (R273). -/
def stallTime (d : Nat) (s : State) : State :=
  s.cores.foldl (fun s e => match e.2.run with
    | none => s
    | some r => match stallCnt r.wait with
      | none => s
      | some off => ctxCnt r.ctx 0xA0 off d s) s

/-- The power state whose rules the Chart and the memories keep: a state being entered acts from the start of its entry, and a
state being left until its exit is complete (R82, R393). -/
def chartPs (s : State) : Nat :=
  match s.qcu.ps.trans with
  | some t => max t.target s.qcu.ps.inForce
  | none => s.qcu.ps.inForce

/-- `d` ns pass: master fabric time and the time since power good advance, the replica with them unless PS4 stops it
(R22, R23, R82); whole milliseconds since power good are counted (R47). -/
def passTime (d : Nat) (s : State) : State :=
  stallTime d (cntAdd 0x00 0x800 ((s.time.uptime + d) / 1000000 - s.time.uptime / 1000000) (setTime
    { master := w64 (s.time.master + d), replica := if chartPs s = 4 then s.time.replica else w64 (s.time.replica + d),
      uptime := w64 (s.time.uptime + d) } s))

/-- Bring the replica of fabric time up to an instant, if it lies ahead and the replica runs. -/
def advanceTo (t : Nat) (s : State) : State :=
  if s.time.replica < t ∧ chartPs s ≠ 4 then passTime (t - s.time.replica) s else s

/-- Bring master fabric time up to an instant, if it lies ahead. -/
def advanceMaster (t : Nat) (s : State) : State :=
  if s.time.master < t then passTime (t - s.time.master) s else s

/-- Send a message out. -/
def emit (m : OutMsg) (s : State) : State := setOut (s.out ++ [m]) s

/-! ### Asynchronous events (R391) -/

/-- Whether Asynchronous Event Configuration enables an event: SMART bits 7:0, namespace notices bit 8, firmware notices
bit 9; vendor events are not masked by it. PRESUMED (log entry 11). -/
def aeEnabled (cfg type info : Nat) : Bool :=
  if type = 1 then cfg % 256 != 0
  else if type = 2 then (if info = 0 then bit cfg 8 else bit cfg 9)
  else true

/-- Post an event to one controller: complete an outstanding request with it, or hold it, one per type and information. -/
def postTo (cid type info log : Nat) (s : State) : State :=
  match smFind s.qcu.ctrls cid with
  | none => s
  | some c =>
    let e : HeldEvent := ⟨type, info, log⟩
    if !aeEnabled c.aeCfg type info || c.masked.contains e then s
    else match c.aerCids with
      | [] =>
        if c.held.contains e then s
        else modQcu (fun q => { q with ctrls := smSet q.ctrls cid { c with held := c.held ++ [e] } }) s
      | a :: rest =>
        let s := modQcu (fun q => { q with
          ctrls := smSet q.ctrls cid { c with aerCids := rest, masked := c.masked ++ [e] },
          conns := smMod q.conns c.adminConn fun k => { k with outst := k.outst.filter fun o => o.cid != a } }) s
        cntAdd 0x20 0x840 1 (emit (.aer ⟨c.adminConn, a⟩ type info log) s)

/-- Post an event to every controller. -/
def postAll (type info log : Nat) (s : State) : State :=
  s.qcu.ctrls.foldl (fun s e => postTo e.1 type info log s) s

/-! ### Errors -/

/-- Severity of a class (R469). -/
def Cls.sev : Cls → Nat
  | .advisory => 0
  | .corrected => 1
  | .queue => 2
  | .job => 3
  | .fatal => 4

/-- Scope `x` lies within scope `y` (R469). -/
def Scope.within (x y : Scope) : Bool := y == .chip || x == y

/-- Handlings in progress now. -/
def openHandlings (s : State) : List Handling :=
  s.err.handlings.filter fun h => match h.ends with | none => true | some t => now s < t

/-- A FATAL handling is in progress (R471). -/
def fatalOpen (s : State) : Bool := (openHandlings s).any fun h => h.cls == .fatal

/-- FATAL codes whose handling takes other actions than R472 (R473). -/
def fatalException (code : Nat) : Bool := code ∈ [0x9003, 0x0301, 0x0307, 0x0308, 0xD006]

/-- The actions of R472 are in force. -/
def fatalStop (s : State) : Bool := (openHandlings s).any fun h => h.cls == .fatal && !fatalException h.code

/-- An error as its source raises it. -/
structure Raise where
  code : Nat
  page : Nat
  /-- Source bit; none for an unattached record (R476). -/
  bit : Option Nat
  cls : Cls
  scope : Scope
  d0 : Nat
  d1 : Nat
  injected : Bool
  deriving DecidableEq, Repr

/-- An error would be nested now (R469). -/
def isNested (r : Raise) (s : State) : Bool :=
  (openHandlings s).any fun h => r.scope.within h.scope && decide (r.cls.sev ≤ h.cls.sev)

/-- Offset of a class counter on the ERR page. -/
def clsCounter : Cls → Nat
  | .fatal => 0x800
  | .job => 0x808
  | .queue => 0x810
  | .corrected => 0x818
  | .advisory => 0x820

/-- Ring occupancy (R51). -/
def occupancy (e : ErrSt) : Nat := (e.head + 128 - e.tail) % 128

/-- Set the source bit, ERR_FIRST and ERR_COUNT of the page (R42, R43). -/
def hdrError (b code : Nat) (h : PageHdr) : PageHdr :=
  { h with
    errStatus := h.errStatus ||| BitVec.ofNat 32 (2 ^ b)
    firstValid := true
    firstBit := if h.errStatus = 0 then b else h.firstBit
    firstCode := if h.errStatus = 0 then code else h.firstCode
    errCount := min (h.errCount + 1) 0xFFFFFFFF }

/-- Write a record to the ring, or drop it (R51 to R53). -/
def ringWrite (r : ErrRec) (s : State) : State :=
  if occupancy s.err = 64 then
    cntAdd 0xE0 0x830 1 (modErr (fun e => { e with overflow := true }) s)
  else
    modErr (fun e => { e with
      ring := smSet e.ring (e.head % 64) r
      head := (e.head + 1) % 128
      wraps := if e.head = 127 then (e.wraps + 1) % 2 ^ 24 else e.wraps }) s

/-- The class asserts ALERT_N and posts an event: FATAL always, the others by ERR_ALERT_EN (R51). -/
def alerts (c : Cls) (s : State) : Bool :=
  match c with
  | .fatal => true
  | .job => bit (regWord s 0xE0 0x10C).toNat 3
  | .queue => bit (regWord s 0xE0 0x10C).toNat 2
  | .corrected => bit (regWord s 0xE0 0x10C).toNat 1
  | .advisory => bit (regWord s 0xE0 0x10C).toNat 0

/-- Raise an error: source bit, ERR_FIRST, counts, record or drop, mask, event (R42, R43, R53, R469, R474, R476). The action
of its class is its caller's. -/
def recordErr (r : Raise) (s : State) : State :=
  let nested := isNested r s
  let masked := match r.bit with | none => false | some b => r.cls != .fatal && bit (hdr s r.page).errMask.toNat b
  let s := match r.bit with | none => s | some b => modHdr r.page (hdrError b r.code) s
  let s := cntAdd 0xE0 (clsCounter r.cls) 1 s
  let s := if nested then cntAdd 0xE0 0x828 1 s else s
  let rec_ : ErrRec :=
    { code := r.code, page := if r.bit.isNone then 0xE0 else r.page, cls := r.cls, nested := nested, injected := r.injected,
      unattached := r.bit.isNone, time := bits (now s) 41 10, d0 := r.d0, d1 := r.d1 }
  let s := if masked then s else ringWrite rec_ s
  let s := if r.cls == .fatal then modErr (fun e => { e with fatalLast := some rec_ }) s else s
  if masked || nested || !alerts r.cls s then s else postAll 7 1 0xC1 s

/-- An ADVISORY of a page source with its detail words. -/
def advisory (page b code d0 d1 : Nat) (s : State) : State :=
  recordErr { code := code, page := page, bit := some b, cls := .advisory, scope := .source page, d0 := d0, d1 := d1,
              injected := false } s

/-- A CORRECTED error of a page source; its handling ends as it is recorded (R468). -/
def corrected (page b code d0 d1 : Nat) (s : State) : State :=
  recordErr { code := code, page := page, bit := some b, cls := .corrected, scope := .source page, d0 := d0, d1 := d1,
              injected := false } s

/-- Start the handling of a JOB error: it lasts until the abort completes, at most 4 µs after the record (R468). -/
def openJob (sc : Scope) (code : Nat) (s : State) : State :=
  let t := now s + min (Config.abortNs s.fresh) 4000
  modErr (fun e => { e with handlings := e.handlings ++ [⟨.job, sc, code, some t⟩] }) (setFresh (s.fresh + 1) s)

/-- Raise a JOB error on a page source and start its handling unless it is nested (R469). -/
def jobErr (page b code : Nat) (sc : Scope) (d0 d1 : Nat) (inj : Bool) (s : State) : State :=
  let r : Raise := { code := code, page := page, bit := some b, cls := .job, scope := sc, d0 := d0, d1 := d1, injected := inj }
  let nested := isNested r s
  let s := recordErr r s
  if nested then s else openJob sc code s

/-- End every handling of a FATAL code (R473). -/
def endFatal (code : Nat) (s : State) : State :=
  modErr (fun e => { e with handlings := e.handlings.filter fun h => !(h.cls == .fatal && h.code == code) }) s

end Sys2Proof.Machine
end

