-- ==== Sys2Proof/Machine/Mem.lean ====
section
/-! DEFINITION. Reads and writes of the on-chip memories and of external memory: the SEC-DED code of R233 to R235 and the
symbol code of R252 to R256, with their corrections, counts, records and armed flips. The byte maps hold the data written;
separate maps hold which bits or symbols of a word or burst stand in error. -/
namespace Sys2Proof.Machine
open Sys2Proof

/-- Bits set in a 72-bit error mask. -/
def errBits (m : Nat) : Nat := popc m 72

/-! ### On-chip memories -/

/-- A word of the on-chip memories: the scratchpad's (core = none) or a core's local SRAM. -/
structure OWord where
  core : Option Nat
  /-- Word index (byte offset ÷ 8) within the scratchpad or within the core's local SRAM. -/
  word : Nat
  deriving DecidableEq, Repr

/-- Key of a core-local byte. -/
def locKey (k off : Nat) : Nat := k * 0x400000 + off

/-- Bank of a word, and its word index within the bank (R222). -/
def OWord.bank (w : OWord) : Nat × Nat :=
  match w.core with
  | none => (w.word / 131072, w.word % 131072)
  | some _ =>
    let row := w.word / 16
    (row % 16, (row / 16) * 16 + w.word % 16)

/-- Flipped bits of a word. -/
def owErr (s : State) (w : OWord) : Nat :=
  match w.core with
  | none => smGet 0 s.ocm.spadErr w.word
  | some k => smGet 0 s.ocm.locErr (locKey k 0 / 8 + w.word)

/-- Set the flipped bits of a word. -/
def setOwErr (w : OWord) (m : Nat) (s : State) : State :=
  modOcm (fun o => match w.core with
    | none => { o with spadErr := smPut 0 o.spadErr w.word m }
    | some k => { o with locErr := smPut 0 o.locErr (locKey k 0 / 8 + w.word) m }) s

/-- OCM_LAST_ECC of a word (R246). -/
def lastEccOf (w : OWord) (uncorr : Bool) : Nat :=
  w.bank.1 + 64 * b2n w.core.isSome + 128 * b2n uncorr + 256 * w.core.getD 0 + 16384 * w.bank.2

/-- How a word reads. -/
inductive WordRd where
  | clean
  | fixed
  | bad
  | undef
  deriving DecidableEq, Repr

/-- The code's verdict on an error mask: one bit corrected, two bits uncorrectable (R233, R234). Three or more bits lie
outside the code: the read is uncorrectable or returns undefined data, whichever (log entry 10). -/
def secded (w m : Nat) : WordRd :=
  if errBits m = 0 then .clean
  else if errBits m = 1 then .fixed
  else if errBits m = 2 then .bad
  else if Config.tripleUncorr w m then .bad else .undef

/-- The stored bytes of a word region, a word of undefined content reading as free bytes (R255 is XM's; log entry 10). -/
def ocmByte (s : State) (core : Option Nat) (off : Nat) : Byte :=
  let b := match core with
    | none => smGet 0 s.ocm.spad off
    | some k => smGet 0 s.ocm.loc (locKey k off)
  let m := owErr s ⟨core, off / 8⟩
  if secded (off / 8) m == .undef then BitVec.ofNat 8 (Config.tripleByte off m) else b

/-- Store bytes with no check: zeroing and restores are not master writes. -/
def ocmStore (core : Option Nat) (off : Nat) (d : List Byte) (s : State) : State :=
  modOcm (fun o => match core with
    | none => { o with spad := smStore o.spad off d }
    | some k => { o with loc := smStore o.loc (locKey k off) d }) s

/-- A word read as undefined data is written back as it was read (R233; log entry 10). -/
def keepRead (w : OWord) (s : State) : State :=
  if secded w.word (owErr s w) == .undef then
    ocmStore w.core (8 * w.word) ((List.range 8).map fun i => ocmByte s w.core (8 * w.word + i)) s
  else s

/-- Read one word's check: correct and write back, or count it uncorrectable. -/
def owCheck (w : OWord) (s : State) : Bool × State :=
  match secded w.word (owErr s w) with
  | .clean => (true, s)
  | .bad =>
    (false, cntAdd 0x80 0xB08 1 (modOcm (fun o => { o with lastEcc := lastEccOf w true }) s))
  | _ =>
    (true, corrected 0x80 0 0x8001 (lastEccOf w false) 0
      (cntAdd 0x80 0xB00 1 (modOcm (fun o => { o with lastEcc := lastEccOf w false }) (setOwErr w 0 (keepRead w s)))))

/-- Bank power: programmed field and physical state. -/
def bankPwr (s : State) : BankId → Nat
  | .spad b => smGet 0 s.ocm.spadPwr b
  | .loc k b => smGet 0 s.ocm.locPwr (k * 16 + b)

/-- Physical state of a bank. -/
def bankPhys (s : State) : BankId → Phys
  | .spad b => smGet .on s.ocm.spadPhys b
  | .loc k b => smGet .on s.ocm.locPhys (k * 16 + b)

/-- Set a bank's physical state. -/
def setPhys (b : BankId) (p : Phys) (s : State) : State :=
  modOcm (fun o => match b with
    | .spad n => { o with spadPhys := smPut .on o.spadPhys n p }
    | .loc k n => { o with locPhys := smPut .on o.locPhys (k * 16 + n) p }) s

/-- Power state in force, PS3 and PS4 holding banks in retention (R232). -/
def bankHeld (s : State) : BankId → Bool
  | .loc _ _ => 3 ≤ chartPs s
  | .spad _ => chartPs s = 4

/-- An access to a bank: one in retention wakes, which is counted; programmed RET it returns to retention after the access,
programmed AUTO (or ON) it stays on (R230). -/
def touchBank (b : BankId) (s : State) : State :=
  if bankPhys s b == .ret then
    let s := cntAdd 0x80 0xB10 1 s
    if bankPwr s b = 1 || bankHeld s b then s else setPhys b .on s
  else s

/-- Banks that an extent touches. -/
def banksOf (core : Option Nat) (off n : Nat) : List BankId :=
  match core with
  | none => (List.range ((off + n - 1) / 0x100000 + 1 - off / 0x100000)).map fun i => .spad (off / 0x100000 + i)
  | some k =>
    let r0 := off / 128
    let cnt := min 16 ((off + n - 1) / 128 + 1 - r0)
    (List.range cnt).map fun i => .loc k ((r0 + i) % 16)

/-- Check the words of an extent in ascending order: the first uncorrectable word ends it. -/
def ocmChecks (core : Option Nat) (w : Nat) : Nat → State → Option Nat × State
  | 0, s => (none, s)
  | n + 1, s =>
    let (good, s) := owCheck ⟨core, w⟩ s
    if good then ocmChecks core (w + 1) n s else (some w, s)

/-- Read bytes of the on-chip memories: the data, or the uncorrectable word met. -/
def ocmRead (core : Option Nat) (off n : Nat) (s : State) : Except Nat (List Byte) × State :=
  if n = 0 then (.ok [], s)
  else
    let s := (banksOf core off n).foldl (fun s b => touchBank b s) s
    let data := (List.range n).map fun i => ocmByte s core (off + i)
    match ocmChecks core (off / 8) ((off + n - 1) / 8 + 1 - off / 8) s with
    | (none, s) => (.ok data, s)
    | (some w, s) => (.error w, s)

/-- Words that a write covers only in part (R228). -/
def partialWords (off n : Nat) : List Nat :=
  let w0 := off / 8
  let w1 := (off + n - 1) / 8
  let a := if off % 8 ≠ 0 ∨ off + n < 8 * w0 + 8 then [w0] else []
  let b := if w1 ≠ w0 ∧ (off + n) % 8 ≠ 0 then [w1] else []
  a ++ b

/-- Check the words written in part. -/
def ocmPartChecks (core : Option Nat) : List Nat → State → Option Nat × State
  | [], s => (none, s)
  | w :: ws, s =>
    let (good, s) := owCheck ⟨core, w⟩ s
    if good then ocmPartChecks core ws s else (some w, s)

/-- Where the armed flip strikes a write: the lowest-addressed byte that it writes in the bank that OCM_FLIP_SEL names, which a write of
several lines or rows may reach after its first (R228, R235). -/
def flipAt (core : Option Nat) (off n : Nat) (s : State) : Option Nat :=
  let sel := (regWord s 0x80 0x10C).toNat
  let b := bits sel 5 0
  if !s.ocm.flipArm then none
  else match core with
    | none => if !bit sel 6 ∧ off < (b + 1) * 0x100000 ∧ b * 0x100000 < off + n then some (max off (b * 0x100000)) else none
    | some k =>
      if bit sel 6 ∧ bits sel 12 7 = k then
        ((List.range ((off + n - 1) / 128 + 1 - off / 128)).find? fun i => (off / 128 + i) % 16 == b).map fun i => max off ((off / 128 + i) * 128)
      else none

/-- Corrupt the word at an offset with the armed masks (R235). -/
def flipNow (core : Option Nat) (off : Nat) (s : State) : State :=
  let m := (regWord s 0x80 0x110).toNat + 2 ^ 32 * (regWord s 0x80 0x114).toNat + 2 ^ 64 * (regWord s 0x80 0x118).toNat
  cntAdd 0x80 0xB40 1 (modOcm (fun o => { o with flipArm := false }) (setOwErr ⟨core, off / 8⟩ m s))

/-- Clear the error marks of the words of an extent: whole codewords are written. -/
def ocmClearErr (core : Option Nat) (off n : Nat) (s : State) : State :=
  if n = 0 then s else
  let lo := off / 8
  let hi := (off + n - 1) / 8 + 1
  modOcm (fun o => match core with
    | none => { o with spadErr := smClear o.spadErr lo hi }
    | some k => { o with locErr := smClear o.locErr (locKey k 0 / 8 + lo) (locKey k 0 / 8 + hi) }) s

/-- A master's write: words written in part are read and corrected first; an uncorrectable one fails the write (R234). -/
def ocmWrite (core : Option Nat) (off : Nat) (d : List Byte) (s : State) : Option Nat × State :=
  if d.isEmpty then (none, s)
  else
    let s := (banksOf core off d.length).foldl (fun s b => touchBank b s) s
    match ocmPartChecks core (partialWords off d.length) s with
    | (some w, s) => (some w, s)
    | (none, s) =>
      let w := ocmStore core off d (ocmClearErr core off d.length s)
      match flipAt core off d.length s with
      | some o => (none, flipNow core o w)
      | none => (none, w)

/-- Zero an extent with valid check bits (R245). -/
def ocmZero (core : Option Nat) (off n : Nat) (s : State) : State :=
  modOcm (fun o => match core with
    | none => { o with spad := smClear o.spad off (off + n) }
    | some k => { o with loc := smClear o.loc (locKey k off) (locKey k (off + n)) }) (ocmClearErr core off n s)

/-! ### External memory -/

/-- Channel of a physical address (R250). -/
def xmChannel (p : Nat) : Nat := bits p 13 9 ^^^ bits p 18 14

/-- A channel's state. -/
def chan (s : State) (c : Nat) : Chan := smGet Chan.reset s.xmc.chans c

/-- Change a channel. -/
def modChan (c : Nat) (f : Chan → Chan) (s : State) : State :=
  modXmc (fun x => { x with chans := smPut Chan.reset x.chans c (f (smGet Chan.reset x.chans c)) }) s

/-- Count on a channel's page and half (R281). -/
def xmCnt (c off n : Nat) (s : State) : State := cntAdd (0x90 + c / 2) (off + 0x40 * (c % 2)) n s

/-- Distinct symbols in error of a burst, as (symbol, pattern) with nonzero pattern. -/
def burstErr (s : State) (b : Nat) : List (Nat × Nat) := smGet [] s.xmc.err b

/-- Set a burst's symbols in error. -/
def setBurstErr (b : Nat) (e : List (Nat × Nat)) (s : State) : State :=
  modXmc (fun x => { x with err := smPut [] x.err b e }) s

/-- How a burst reads (R253 to R255). -/
def burstRd (s : State) (b : Nat) : WordRd :=
  match burstErr s b with
  | [] => .clean
  | [_] => .fixed
  | [_, _] => .bad
  | e => if Config.tripleUncorr b e.length then .bad else .undef

/-- Record a burst as the channel's last in error (R279). -/
def lastBurst (b : Nat) (uncorr : Bool) (sym : Nat) (s : State) : State :=
  modChan (xmChannel (64 * b)) (fun c => { c with lastAddr := 64 * b, lastUncorr := uncorr, lastSym := sym }) s

/-- Low and high words of a 64-bit detail item (R475). -/
def lo32 (n : Nat) : Nat := n % 2 ^ 32
/-- High word. -/
def hi32 (n : Nat) : Nat := (n / 2 ^ 32) % 2 ^ 32

/-- A byte of external memory as a read returns it. -/
def xmByte (s : State) (a : Nat) : Byte :=
  if burstRd s (a / 64) == .undef then BitVec.ofNat 8 (Config.tripleByte a (burstErr s (a / 64)).length)
  else smGet 0 s.xmc.mem a

/-- A burst read as undefined data is written back as it was read (R253, R255). -/
def keepBurst (b : Nat) (s : State) : State :=
  if burstRd s b == .undef then
    let d := (List.range 64).map fun i => xmByte s (64 * b + i)
    modXmc (fun x => { x with mem := smStore x.mem (64 * b) d }) s
  else s

/-- Read one burst's check: corrected and written back (R253), or uncorrectable (R254). -/
def burstCheck (b : Nat) (s : State) : Bool × State :=
  let c := xmChannel (64 * b)
  let s := xmCnt c 0x800 1 s
  match burstRd s b with
  | .clean => (true, s)
  | .bad =>
    let s := lastBurst b true 0x7F (xmCnt c 0x818 1 s)
    (false, advisory (0x90 + c / 2) 1 0x9002 (lo32 (64 * b)) (hi32 (64 * b)) s)
  | _ =>
    let sym := ((burstErr s b).head?.map Prod.fst).getD 0
    let s := xmCnt c 0x808 1 (xmCnt c 0x820 1 (xmCnt c 0x810 1 (setBurstErr b [] (lastBurst b false sym (keepBurst b s)))))
    (true, corrected (0x90 + c / 2) 0 0x9001 (lo32 (64 * b)) (hi32 (64 * b)) s)

/-- Check bursts in ascending order; the first uncorrectable one ends the read. -/
def burstChecks (b : Nat) : Nat → State → Option Nat × State
  | 0, s => (none, s)
  | n + 1, s =>
    let (good, s) := burstCheck b s
    if good then burstChecks (b + 1) n s else (some b, s)

/-- Read bytes of external memory: the data, or the uncorrectable burst met. -/
def xmRead (a n : Nat) (s : State) : Except Nat (List Byte) × State :=
  if n = 0 then (.ok [], s)
  else
    let data := (List.range n).map fun i => xmByte s (a + i)
    match burstChecks (a / 64) ((a + n - 1) / 64 + 1 - a / 64) s with
    | (none, s) => (.ok data, s)
    | (some b, s) => (.error b, s)

/-- Bursts that a write covers only in part. -/
def partialBursts (a n : Nat) : List Nat :=
  let b0 := a / 64
  let b1 := (a + n - 1) / 64
  let x := if a % 64 ≠ 0 ∨ a + n < 64 * b0 + 64 then [b0] else []
  let y := if b1 ≠ b0 ∧ (a + n) % 64 ≠ 0 then [b1] else []
  x ++ y

/-- Check the bursts written in part (R254). -/
def burstPartChecks : List Nat → State → Option Nat × State
  | [], s => (none, s)
  | b :: bs, s =>
    let (good, s) := burstCheck b s
    if good then burstPartChecks bs s else (some b, s)

/-- Symbol patterns the armed flip of a channel applies (R256). -/
def flipSyms (w : Nat) : List (Nat × Nat) :=
  let a := bits w 6 0
  let pa := bits w 15 8
  let b := bits w 22 16
  let pb := bits w 31 24
  if a = b then (if a < 72 && pa ^^^ pb != 0 then [(a, pa ^^^ pb)] else [])
  else (if a < 72 && pa != 0 then [(a, pa)] else []) ++ (if b < 72 && pb != 0 then [(b, pb)] else [])

/-- A channel's flip mask word. -/
def flipWord (s : State) (c : Nat) : Nat := (regWord s (0x90 + c / 2) (0x108 + 0x20 * (c % 2))).toNat

/-- The armed flip of each channel corrupts the first burst of a master write granted to it (R256). -/
def xmFlips (b : Nat) : Nat → State → State
  | 0, s => s
  | n + 1, s =>
    let c := xmChannel (64 * b)
    let s := xmCnt c 0x808 1 s
    let s := if (chan s c).flipArm then
        xmCnt c 0x828 1 (modChan c (fun k => { k with flipArm := false }) (setBurstErr b (flipSyms (flipWord s c)) s))
      else s
    xmFlips (b + 1) n s

/-- A master's write to external memory: a burst written in part that is uncorrectable fails the write (R254). -/
def xmWrite (a : Nat) (d : List Byte) (s : State) : Option Nat × State :=
  if d.isEmpty then (none, s)
  else
    match burstPartChecks (partialBursts a d.length) s with
    | (some b, s) => (some b, s)
    | (none, s) =>
      let b0 := a / 64
      let n := (a + d.length - 1) / 64 + 1 - b0
      let s := modXmc (fun x => { x with mem := smStore x.mem a d, err := smClear x.err b0 (b0 + n) }) s
      (none, xmFlips b0 n s)

/-- Store with no master write: zeroing, refetch (R256, R274). -/
def xmStore (a : Nat) (d : List Byte) (s : State) : State :=
  if d.isEmpty then s else
  let b0 := a / 64
  let n := (a + d.length - 1) / 64 + 1 - b0
  let s := modXmc (fun x => { x with mem := smStore x.mem a d, err := smClear x.err b0 (b0 + n) }) s
  s

/-- Zero an extent (R269). -/
def xmZero (a n : Nat) (s : State) : State :=
  modXmc (fun x => { x with mem := smClear x.mem a (a + n), err := smClear x.err (a / 64) ((a + n) / 64) }) s

end Sys2Proof.Machine
end

