-- ==== Sys2Proof/Machine/FlashOps.lean ====
section
/-! DEFINITION. The translation layer's operations: unit addresses (R324), reading a unit through the correction ladder
(R329 to R333), the map and journal (R335 to R340), superblocks and their allocation (R341 to R343), programs and their
commits (R345), and namespace addressing (R354, R355). -/
namespace Sys2Proof.Machine
open Sys2Proof

/-- Bytes of a translation unit. -/
def unitBytes : Nat := 16384
/-- User capacity in units (R335). -/
def userUnits : Nat := 14038085937
/-- The critical reserve CRIT (R341, R366). -/
def sbCrit : Nat := 64
/-- Superblocks from this number up hold the checkpoint, the journal and the flush area: 33 + 16 + 4 (R341). DESIGN CHOICE
(log entry 13): the spec gives their count, not their numbers. -/
def sbReserved : Nat := 65483

/-! ### Addresses (R323, R324) -/

/-- Superblock of a unit address. -/
def uSb (u : Nat) : Nat := u / 2 ^ 18
/-- Wordline. -/
def uWl (u : Nat) : Nat := bits u 17 9
/-- Die slot. -/
def uSlot (u : Nat) : Nat := bits u 4 0
/-- Channel of a die slot of a superblock's group. -/
def chanOf (sb slot : Nat) : Nat := 32 * ((sb % 32) / 16) + slot
/-- Die number, 16 to a channel. -/
def dieOf (sb slot : Nat) : Nat := chanOf sb slot * 16 + (sb % 32) % 16
/-- Parity slot of a superblock. -/
def paritySlot (sb : Nat) : Nat := (sb / 32) % 32
/-- MTE page of a unit's channel. -/
def mtePage (u : Nat) : Nat := 0xC0 + chanOf (uSb u) (uSlot u) / 4

/-- Data units of a superblock in its mode. -/
def sbCap (slc : Bool) : Nat := if slc then 63488 else 253952
/-- Stripes (page positions) of a wordline in a mode. -/
def wlStripes (slc : Bool) : Nat := if slc then 4 else 16

/-- Unit address of data unit `n` of a superblock: wordlines in ascending order, stripe by stripe, die slots ascending, the
parity slot left out. DESIGN CHOICE within R328 (log entry 13). -/
def unitAddr (sb : Nat) (slc : Bool) (n : Nat) : Nat :=
  let st := n / 31
  let wl := st / wlStripes slc
  let pp := st % wlStripes slc
  let k := n % 31
  let slot := if k < paritySlot sb then k else k + 1
  sb * 2 ^ 18 + wl * 512 + pp * 32 + slot

/-- Units of the stripe of a unit, the unit itself left out. -/
def stripeMates (u : Nat) : List Nat :=
  ((List.range 32).map fun j => u / 32 * 32 + j).filter fun v => v != u

/-- A superblock's entry. -/
def sbOf (s : State) (n : Nat) : Sb := smGet Sb.fresh s.ftl.sbs n

/-- Change a superblock's entry. -/
def modSb (n : Nat) (f : Sb → Sb) (s : State) : State :=
  modFtl (fun x => { x with sbs := smPut Sb.fresh x.sbs n (f (smGet Sb.fresh x.sbs n)) }) s

/-! ### Counts of superblocks and capacity -/

/-- Free superblocks F (R347, R366). -/
def sbFree (s : State) : Nat := sbReserved - (s.ftl.sbs.filter fun e => e.2.st != .free).length
/-- Retired superblocks. -/
def sbRetired (s : State) : Nat := (s.ftl.sbs.filter fun e => e.2.st == .retired).length
/-- Superblocks in SLC mode that hold data. -/
def sbSlc (s : State) : Nat := (s.ftl.sbs.filter fun e => e.2.slc && e.2.st != .free).length
/-- Spare (R341). -/
def sbSpare (s : State) : Nat := 65536 - sbRetired s - 55279 - 117 - 247
/-- Mapped units. -/
def mappedUnits (s : State) : Nat := s.ftl.map.length
/-- Units allocated to namespaces, contexts and indexes (R354). -/
def allocUnits (s : State) : Nat :=
  (s.ftl.namespaces.map fun e => e.2.units).sum + (s.ftl.quotas.map fun e => e.2.units).sum
/-- SLC limit in bytes (R348). -/
def slcLimit (s : State) : Nat :=
  max 256000000000 (min 8000000000000 ((userUnits - mappedUnits s) * unitBytes / 4))

/-! ### The map (R335, R336) -/

/-- A map entry for a flash unit. -/
def entUnit (u : Nat) (slc : Bool) : Nat := u + (if slc then 2 else 1) * 2 ^ 34
/-- A map entry for a write-buffer slot. -/
def entSlot (n : Nat) : Nat := n + 3 * 2 ^ 34
/-- The entry of a map index. -/
def mapGet (s : State) (i : Nat) : Nat := smGet 0 s.ftl.map i
/-- Checkpoint segment of a map index: 16 MiB of bursts of 14 entries (R340). -/
def segOf (i : Nat) : Nat := i / 14 / 262144
/-- Physical address of a map entry's burst (R335). -/
def mapBurst (i : Nat) : Nat := (0x6FC0000000 + 64 * (i / 14)) / 64

/-- Commit a map change: the journal entry is durable, the segment is dirty, a clean mark is cleared (R340, R484). -/
def mapSet (i e : Nat) (s : State) : State :=
  modFtl (fun x => { x with
    journal := x.journal ++ [⟨i, e, smGet 0 x.map i, x.wseq⟩]
    map := smPut 0 x.map i e
    wseq := x.wseq + 1
    dirty := if x.dirty.contains (segOf i) then x.dirty else x.dirty ++ [segOf i]
    clean := false }) s

/-- Look a map entry up: an uncorrectable burst of the map is rebuilt from the checkpoint and the journal (R337). -/
def mapLook (i : Nat) (s : State) : Nat × State :=
  let e := mapGet s i
  if (burstErr s (mapBurst i)).isEmpty then (e, s)
  else
    match burstCheck (mapBurst i) s with
    | (true, s) => (e, s)
    | (false, s) => (e, corrected 0xD0 3 0xD004 0 0 (setBurstErr (mapBurst i) [] s))

/-- A unit holds valid data: the map entry of its index names it. -/
def unitValid (s : State) (u : Nat) (f : FUnit) : Bool :=
  mapGet s f.idx == entUnit u (sbOf s (uSb u)).slc

/-- Valid units of a superblock. -/
def validUnits (s : State) (sb : Nat) : List (Nat × FUnit) :=
  s.ftl.units.filter fun e => uSb e.1 == sb && unitValid s e.1 e.2

/-! ### Reading (R329 to R333) -/

/-- A die is retired, or on a channel that no longer responds (R334). -/
def dieRetired (s : State) (d : Nat) : Bool := s.ftl.retiredDies.contains d

/-- A unit decodes directly, by step 1 or 2. -/
def directOk (s : State) (u : Nat) : Bool :=
  !dieRetired s (dieOf (uSb u) (uSlot u)) && decide (smGet 0 s.ftl.qual u ≤ 1)

/-- Data units of a wordline. -/
def wlUnits (slc : Bool) : Nat := 31 * wlStripes slc

/-- The stripe of a unit is complete: its wordline's program is, which is the program of its parity unit too (R332). -/
def stripeFull (s : State) (u : Nat) : Bool :=
  let b := sbOf s (uSb u)
  decide ((uWl u + 1) * wlUnits b.slc ≤ b.used) && !(s.ftl.progs.any fun p => p.sb == uSb u && uWl p.unit == uWl u)

/-- Schedule a rewrite of a die-block, once (R331). -/
def schedRewrite (u : Nat) (s : State) : State :=
  let k := uSb u * 32 + uSlot u
  if s.ftl.rewrites.contains k || s.ftl.runs.any (fun r => r.why == 3 && r.sb == uSb u && r.slot == some (uSlot u)) then s
  else modFtl (fun x => { x with rewrites := x.rewrites ++ [k] }) s

/-- Read a programmed unit through the ladder: its data, or unrecoverable (R330, R333). -/
def unitRead (u : Nat) (s : State) : Option (List Byte) × State :=
  let pg := mtePage u
  let s := cntAdd pg 0x800 1 s
  match smFind s.ftl.units u with
  | none => (none, advisory pg 1 0xC001 (lo32 u) (hi32 u) (cntAdd pg 0x840 1 s))
  | some f =>
    if directOk s u then
      if smGet 0 s.ftl.qual u = 1 then (some f.data, schedRewrite u (cntAdd pg 0x830 1 s)) else (some f.data, s)
    else if stripeFull s u && ((stripeMates u).all fun v => uSlot v == paritySlot (uSb u) && !dieRetired s (dieOf (uSb v) (uSlot v))
        || directOk s v) && decide (smGet 0 s.ftl.qual u ≤ 2) then
      (some f.data, schedRewrite u (corrected pg 0 0xC003 (lo32 u) (hi32 u) (cntAdd pg 0x838 1 s)))
    else (none, advisory pg 1 0xC001 (lo32 u) (hi32 u) (cntAdd pg 0x840 1 s))

/-- Bursts of a write-buffer slot in error (R337). -/
def slotErrs (s : State) (n : Nat) : List Nat :=
  let b0 := (0x7FC0000000 + n * unitBytes) / 64
  (s.xmc.err.filter fun e => b0 ≤ e.1 && e.1 < b0 + 256).map Prod.fst

/-- Check a slot's bursts: corrected, or rebuilt from the other slots of its group, WBUF_REBUILT (R337). -/
def slotCheck (n : Nat) (s : State) : State :=
  (slotErrs s n).foldl (fun s b =>
    match burstCheck b s with
    | (true, s) => s
    | (false, s) => corrected 0xD0 4 0xD005 (lo32 (64 * b)) (hi32 (64 * b)) (setBurstErr b [] s)) s

/-- Contents of map index `i`: zeros where unmapped (R336, R339), a slot's data, or a flash unit's. -/
def unitData (i : Nat) (s : State) : Option (List Byte) × State :=
  let (e, s) := mapLook i s
  let st := e / 2 ^ 34
  let loc := e % 2 ^ 34
  if st = 0 then (some (List.replicate unitBytes 0), s)
  else if st = 3 then
    let s := slotCheck loc s
    (some (((smFind s.ftl.slots loc).map (·.data)).getD (List.replicate unitBytes 0)), s)
  else unitRead loc s

/-- Read `n` bytes of a map range (base `b`) from byte offset `off`; the failing unit where a read is unrecoverable. -/
def rangeRead (b : Nat) : Nat → Nat → Nat → State → Except Nat (List Byte) × State
  | 0, _, _, s => (.ok [], s)
  | fuel + 1, off, n, s =>
    if n = 0 then (.ok [], s)
    else
      let i := off / unitBytes
      let x := off % unitBytes
      let k := min n (unitBytes - x)
      match unitData (b + i) s with
      | (none, s) => (.error i, s)
      | (some d, s) =>
        match rangeRead b fuel (off + k) (n - k) s with
        | (.ok r, s) => (.ok (slice d x k ++ r), s)
        | (.error e, s) => (.error e, s)

/-- A namespace. -/
def ns? (s : State) (n : Nat) : Option Ns := smFind s.ftl.namespaces n

/-- Read bytes of a namespace from a byte offset: past its end nothing is there. -/
def nsRead (n : Ns) (off len : Nat) (s : State) : Except Nat (List Byte) × State :=
  rangeRead n.base (len / unitBytes + 2) off len s

/-! ### Superblock allocation (R342, R343) -/

/-- Lowest superblock number that the list (ascending) does not hold. -/
def firstGap : List Nat → Nat → Nat
  | [], n => n
  | k :: ks, n => if k = n then firstGap ks (n + 1) else n

/-- The free superblock with the lowest erase count, ties to the lower number (R342). -/
def pickFree (s : State) : Option Nat :=
  let fresh := firstGap (s.ftl.sbs.map Prod.fst) 0
  let listed := s.ftl.sbs.filter fun e => e.2.st == .free
  let best := listed.foldl (fun (b : Option (Nat × Nat)) e =>
    match b with
    | none => some (e.2.erases, e.1)
    | some (x, n) => if e.2.erases < x then some (e.2.erases, e.1) else some (x, n)) none
  match best with
  | none => if fresh < sbReserved then some fresh else none
  | some (x, n) => if fresh < sbReserved && (0 < x || fresh < n) then some fresh else some n

/-- The open superblock of a stream with room, opening one if need be (R342, R348). -/
def openSb (stream : Nat) (slc : Bool) (s : State) : Option Nat × State :=
  let cur := match smFind s.ftl.streams stream with
    | some n => if (sbOf s n).st == .opened && (sbOf s n).used < sbCap (sbOf s n).slc then some n else none
    | none => none
  match cur with
  | some n => (some n, s)
  | none =>
    match pickFree s with
    | none => (none, s)
    | some n =>
      let s := modSb n (fun b => { b with st := .opened, slc := slc, used := 0, order := s.ftl.wseq }) s
      (some n, modFtl (fun x => { x with streams := smSet x.streams stream n, wseq := x.wseq + 1 }) s)

/-- Start the program of a unit into a stream's open superblock (R338, R345): its address is taken, its commit waits for the
program's completion. -/
def startProg (stream : Nat) (slc : Bool) (f : FUnit) (expect why : Nat) (victim : Option Nat) (s : State) : Bool × State :=
  match openSb stream slc s with
  | (none, s) => (false, s)
  | (some n, s) =>
    let b := sbOf s n
    let u := unitAddr n b.slc b.used
    let s := modSb n (fun b => { b with used := b.used + 1 }) s
    (true, modFtl (fun x => { x with
      units := smSet x.units u { f with wseq := x.wseq }
      wseq := x.wseq + 1
      progs := x.progs ++ [{ sb := n, unit := u, idx := f.idx, expect := expect, why := why, victim := victim }] }) s)

/-- Close a superblock that is full. -/
def closeFull (n : Nat) (s : State) : State :=
  if (sbOf s n).st == .opened && sbCap (sbOf s n).slc ≤ (sbOf s n).used then
    modSb n (fun b => { b with st := .closed, closedT := now s }) s
  else s

/-- A slot's unit is being drained. -/
def slotBusy (s : State) (n : Nat) : Bool := s.ftl.progs.any fun p => p.expect == entSlot n

/-- Free slots of the write buffer's data groups: 31 of every 32 (R337). -/
def slotFree (s : State) : Nat → Nat → Option Nat
  | 0, _ => none
  | fuel + 1, n =>
    if 65024 ≤ n then none
    else if n % 32 = 31 then slotFree s fuel (n + 1)
    else if (smFind s.ftl.slots n).isSome || slotBusy s n then slotFree s fuel (n + 1) else some n

/-- The lowest free data slot. -/
def pickSlot (s : State) : Option Nat := slotFree s ((s.ftl.slots.length + s.ftl.progs.length) * 2 + 40) 0

/-- Occupied data slots. -/
def slotsUsed (s : State) : Nat := s.ftl.slots.length

/-- Put a unit's new contents into the write buffer (R338): in place where its slot is not draining, else in a new slot. -/
def slotWrite (owner i : Nat) (d : List Byte) (s : State) : State :=
  let e := mapGet s i
  let here := if e / 2 ^ 34 = 3 && !slotBusy s (e % 2 ^ 34) then some (e % 2 ^ 34) else none
  let s := cntAdd 0xD0 0x800 1 s
  match here with
  | some n => modFtl (fun x => { x with slots := smSet x.slots n ⟨i, owner, x.wseq, d⟩, wseq := x.wseq + 1, clean := false }) s
  | none =>
    match pickSlot s with
    | none => s
    | some n =>
      mapSet i (entSlot n) (modFtl (fun x => { x with slots := smSet x.slots n ⟨i, owner, x.wseq, d⟩ }) s)

/-- Write bytes into a map range at a byte offset, unit by unit, merging with what stands there (R339). The unit whose
current contents cannot be read fails the write. -/
def rangeWrite (b owner : Nat) : Nat → Nat → List Byte → State → Option Nat × State
  | 0, _, _, s => (none, s)
  | fuel + 1, off, d, s =>
    if d.isEmpty then (none, s)
    else
      let i := off / unitBytes
      let x := off % unitBytes
      let k := min d.length (unitBytes - x)
      let whole := x = 0 && k = unitBytes
      let cur : Option (List Byte) × State := if whole then (some [], s) else unitData (b + i) s
      match cur with
      | (none, s) => (some i, s)
      | (some old, s) =>
        let s := slotWrite owner (b + i) (if whole then d.take k else overwrite old x (d.take k)) s
        rangeWrite b owner fuel (off + k) (d.drop k) s

/-- Unmap an index: its slot or unit no longer holds it (R339). -/
def unmap (i : Nat) (s : State) : State :=
  let e := mapGet s i
  if e = 0 then s
  else
    let s := if e / 2 ^ 34 = 3 then modFtl (fun x => { x with slots := smDel x.slots (e % 2 ^ 34) }) s else s
    mapSet i 0 s

/-- Unmap every index of a range that is mapped. -/
def unmapRange (b n : Nat) (s : State) : State :=
  (s.ftl.map.filter fun e => b ≤ e.1 && e.1 < b + n).foldl (fun s e => unmap e.1 s) s

/-- First base of `n` free map indices: ranges stand in ascending order of base (R335). DESIGN CHOICE: lowest first (log entry
14). -/
def freeBase : List (Nat × Nat) → Nat → Nat → Option Nat
  | [], b, n => if b + n ≤ userUnits then some b else none
  | (x, m) :: rs, b, n => if b + n ≤ x then some b else freeBase rs (max b (x + m)) n

/-- Insert a range in ascending order of base. -/
def insRange (r : Nat × Nat) : List (Nat × Nat) → List (Nat × Nat)
  | [] => [r]
  | x :: xs => if r.1 ≤ x.1 then r :: x :: xs else x :: insRange r xs

/-- Map ranges in use, ascending. -/
def usedRanges (s : State) : List (Nat × Nat) :=
  ((s.ftl.namespaces.map fun e => (e.2.base, e.2.units)) ++ (s.ftl.quotas.map fun e => (e.2.base, e.2.units))).foldr insRange []

/-- Give an owner a range of map indices with a new key pair (R354, R355, R335). -/
def allocQuota (owner n : Nat) (s : State) : State :=
  match freeBase (usedRanges s) 0 n with
  | none => s
  | some b => modFtl (fun x => { x with
      quotas := smSet x.quotas owner { base := b, units := n, owner := owner, key := x.nextKey }, nextKey := x.nextKey + 1 }) s

/-- Free an owner's range. -/
def freeQuota (owner : Nat) (s : State) : State :=
  match smFind s.ftl.quotas owner with
  | none => s
  | some q => modFtl (fun x => { x with quotas := smDel x.quotas owner }) (unmapRange q.base q.units s)

/-- A SMART critical warning bit sets: every controller that enables the event of that bit is told (R391). The information value is
0 for all of them. PRESUMED (log entry 11). -/
def smartEvent (b : Nat) (s : State) : State :=
  s.qcu.ctrls.foldl (fun s e => if bit e.2.aeCfg b then postTo e.1 1 0 2 s else s) s

/-- SMART critical warning byte: bit 2 spares, bit 3 read-only, bit 4 hold-up (R343, R344, R353). -/
def smartByte (s : State) : Nat := 4 * b2n s.ftl.smart2 + 8 * b2n s.ftl.readOnly + 16 * b2n (s.ftl.flushBad || s.pwr.holdupLow)

end Sys2Proof.Machine
end

