-- ==== Sys2Proof/Machine/Fp.lean ====
section
/-! DEFINITION. Floating point of R105: FP32, BF16 and FP16 with rounding to nearest, ties to even, subnormals kept and
canonical NaNs. A value is decoded to an exact dyadic number, operated on exactly, and rounded once ("rne32"). -/
namespace Sys2Proof.Machine

/-- A binary floating-point format: exponent bits and fraction bits. -/
structure Fmt where
  eb : Nat
  mb : Nat
  deriving DecidableEq, Repr

/-- FP32: IEEE 754 binary32 (R105). -/
def fp32 : Fmt := ⟨8, 23⟩
/-- BF16: bits [31:16] of the FP32 encoding (R105). -/
def bf16 : Fmt := ⟨8, 7⟩
/-- FP16: IEEE 754 binary16 (R105). -/
def fp16 : Fmt := ⟨5, 10⟩

/-- An exact value: NaN, a signed infinity, or ± m × 2^e (with signed zeros). -/
inductive FVal where
  | nan
  | inf (neg : Bool)
  | fin (neg : Bool) (m : Nat) (e : Int)
  deriving DecidableEq, Repr

/-- Exponent bias of a format. -/
def Fmt.bias (f : Fmt) : Nat := 2 ^ (f.eb - 1) - 1

/-- Encoding of +∞ in a format. -/
def Fmt.infCode (f : Fmt) : Nat := (2 ^ f.eb - 1) * 2 ^ f.mb

/-- The canonical NaN of a format: 0x7FC0_0000, 0x7FC0 or 0x7E00 (R105). -/
def Fmt.nanCode (f : Fmt) : Nat := f.infCode + 2 ^ (f.mb - 1)

/-- Exact value of an encoding. -/
def fdec (f : Fmt) (w : Nat) : FVal :=
  let neg := bit w (f.eb + f.mb)
  let ex := bits w (f.eb + f.mb - 1) f.mb
  let fr := w % 2 ^ f.mb
  if ex = 2 ^ f.eb - 1 then (if fr = 0 then .inf neg else .nan)
  else if ex = 0 then .fin neg fr (1 - (f.bias : Int) - f.mb)
  else .fin neg (fr + 2 ^ f.mb) ((ex : Int) - f.bias - f.mb)

/-- `m` shifted right by `k`, rounded to nearest, ties to even. -/
def rneShift (m k : Nat) : Nat :=
  let q := m >>> k
  let r := m % 2 ^ k
  if 2 * r < 2 ^ k then q
  else if 2 ^ k < 2 * r then q + 1
  else if k = 0 then q
  else if q % 2 = 0 then q else q + 1

/-- Encoding of ± m × 2^e rounded to nearest even in a format; beyond its range, ∞ of its sign (R105). -/
def fround (f : Fmt) (neg : Bool) (m : Nat) (e : Int) : Nat :=
  let sgn := if neg then 2 ^ (f.eb + f.mb) else 0
  if m = 0 then sgn
  else
    let top : Int := (Nat.log2 m : Int) + e
    let emin : Int := 1 - (f.bias : Int)
    let q : Int := max (top - f.mb) (emin - f.mb)
    let sh : Int := q - e
    let r := if sh ≤ 0 then m <<< (-sh).toNat else rneShift m sh.toNat
    let code := (q - (emin - f.mb)).toNat * 2 ^ f.mb + r
    sgn + min code f.infCode

/-- Encoding of an exact value in a format, rounded once. -/
def fenc (f : Fmt) : FVal → Nat
  | .nan => f.nanCode
  | .inf neg => f.infCode + if neg then 2 ^ (f.eb + f.mb) else 0
  | .fin neg m e => fround f neg m e

/-- Conversion between formats (R105). -/
def fconv (a b : Fmt) (w : Nat) : Nat := fenc b (fdec a w)

/-- Signed integer m × 2^e of a finite value, scaled to exponent `e0 ≤ e`. -/
def scaledInt (neg : Bool) (m : Nat) (e e0 : Int) : Int :=
  let v : Nat := m <<< (e - e0).toNat
  if neg then -(v : Int) else v

/-- Exact sum of two values, with the IEEE 754 rules for zeros, infinities and NaN. -/
def fvAdd : FVal → FVal → FVal
  | .nan, _ => .nan
  | _, .nan => .nan
  | .inf a, .inf b => if a = b then .inf a else .nan
  | .inf a, _ => .inf a
  | _, .inf b => .inf b
  | .fin na ma ea, .fin nb mb eb =>
    let e0 := min ea eb
    let s := scaledInt na ma ea e0 + scaledInt nb mb eb e0
    if s = 0 then .fin (na && nb) 0 0
    else .fin (decide (s < 0)) s.natAbs e0

/-- Negation. -/
def fvNeg : FVal → FVal
  | .nan => .nan
  | .inf n => .inf (!n)
  | .fin n m e => .fin (!n) m e

/-- Absolute value. -/
def fvAbs : FVal → FVal
  | .nan => .nan
  | .inf _ => .inf false
  | .fin _ m e => .fin false m e

/-- Exact product. -/
def fvMul : FVal → FVal → FVal
  | .nan, _ => .nan
  | _, .nan => .nan
  | .inf a, .inf b => .inf (a != b)
  | .inf a, .fin b m _ => if m = 0 then .nan else .inf (a != b)
  | .fin a m _, .inf b => if m = 0 then .nan else .inf (a != b)
  | .fin a m e, .fin b n k => .fin (a != b) (m * n) (e + k)

/-- Encoding of a quotient of values in a format, rounded once to nearest even (the divider of R195). -/
def fvDiv (f : Fmt) : FVal → FVal → Nat
  | .nan, _ => f.nanCode
  | _, .nan => f.nanCode
  | .inf _, .inf _ => f.nanCode
  | .inf a, .fin b _ _ => fenc f (.inf (a != b))
  | .fin a _ _, .inf b => fenc f (.fin (a != b) 0 0)
  | .fin a m e, .fin b n k =>
    if n = 0 then (if m = 0 then f.nanCode else fenc f (.inf (a != b)))
    else
      let sh := 2 * f.mb + 8 + Nat.log2 n
      let q := (m <<< sh) / n
      let st := if (m <<< sh) % n = 0 then 0 else 1
      fround f (a != b) (2 * q + st) (e - k - sh - 1)

/-- FP32 operations on encodings. -/
def fadd (a b : Nat) : Nat := fenc fp32 (fvAdd (fdec fp32 a) (fdec fp32 b))
/-- FP32 difference. -/
def fsub (a b : Nat) : Nat := fenc fp32 (fvAdd (fdec fp32 a) (fvNeg (fdec fp32 b)))
/-- FP32 product. -/
def fmul (a b : Nat) : Nat := fenc fp32 (fvMul (fdec fp32 a) (fdec fp32 b))
/-- FP32 quotient. -/
def fdiv (a b : Nat) : Nat := fvDiv fp32 (fdec fp32 a) (fdec fp32 b)
/-- FP32 absolute value, NaN canonical. -/
def fabs (a : Nat) : Nat := fenc fp32 (fvAbs (fdec fp32 a))
/-- FP32 negation, NaN canonical. -/
def fneg (a : Nat) : Nat := fenc fp32 (fvNeg (fdec fp32 a))

/-- rne32 of an integer. -/
def fofInt (i : Int) : Nat := fround fp32 (decide (i < 0)) i.natAbs 0

/-- An FP32 encoding is a NaN. -/
def isNaN (w : Nat) : Bool := match fdec fp32 w with | .nan => true | _ => false
/-- An FP32 encoding is an infinity of the given sign. -/
def isInf (w : Nat) (neg : Bool) : Bool := fdec fp32 w == .inf neg
/-- An FP32 encoding is finite. -/
def isFin (w : Nat) : Bool := match fdec fp32 w with | .fin .. => true | _ => false

/-- FP32 constants. -/
def fpInf : Nat := 0x7F800000
/-- −∞. -/
def fpNegInf : Nat := 0xFF800000
/-- The canonical FP32 NaN. -/
def fpNaN : Nat := 0x7FC00000
/-- 1.0. -/
def fpOne : Nat := 0x3F800000
/-- −0. -/
def fpNegZero : Nat := 0x80000000

/-- Order key of a non-NaN FP32 encoding: −∞ lowest, −0 just below +0, +∞ highest (R531). -/
def fkey (w : Nat) : Int := if bit w 31 then -((w % 2 ^ 31 : Nat) : Int) - 1 else ((w % 2 ^ 31 : Nat) : Int)

/-- a < b in the order of R531. -/
def flt (a b : Nat) : Bool := fkey a < fkey b

/-- Larger of two non-NaN encodings in the order of R531. -/
def fmax (a b : Nat) : Nat := if flt a b then b else a

/-- The integer nearest to a finite FP32 value, ties to even (R107). -/
def fnearest (w : Nat) : Int :=
  match fdec fp32 w with
  | .fin neg m e =>
    let r : Nat := if 0 ≤ e then m <<< e.toNat else rneShift m (-e).toNat
    if neg then -(r : Int) else r
  | _ => 0

/-- Compare |a| with |b| for finite values: exact maximum of magnitudes (R108). -/
def fmaxAbs (a b : Nat) : Nat :=
  if a % 2 ^ 31 < b % 2 ^ 31 then b % 2 ^ 31 else a % 2 ^ 31

/-- BF16 encoding widened to FP32 exactly. -/
def bfTo32 (w : Nat) : Nat := fconv bf16 fp32 w

/-- The smallest BF16 value not below a nonnegative quotient (m × 2^e) ÷ q: "rne-up" of R116. -/
def bfUpQuot (m : Nat) (e : Int) (q : Nat) : Nat :=
  if m = 0 then 0
  else
    let sh := 40 + Nat.log2 q
    let n := (m <<< sh) / q
    let st := if (m <<< sh) % q = 0 then 0 else 1
    let m2 := 2 * n + st
    let e2 : Int := e - sh - 1
    let top : Int := (Nat.log2 m2 : Int) + e2
    let emin : Int := 1 - (bf16.bias : Int)
    let lsb : Int := max (top - bf16.mb) (emin - bf16.mb)
    let k : Int := lsb - e2
    let r := if k ≤ 0 then m2 <<< (-k).toNat else cdiv m2 (2 ^ k.toNat)
    min ((lsb - (emin - bf16.mb)).toNat * 2 ^ bf16.mb + r) bf16.infCode

end Sys2Proof.Machine
end

