-- ==== Sys2Proof/Machine/Operands.lean ====
section
/-! DEFINITION. Operand forms of core instructions: the eight address windows of R162 with their bounds and permissions
(R163), the placed objects and cache pages behind them (R265 to R273), and reads and writes through them. -/
namespace Sys2Proof.Machine
open Sys2Proof

/-- A frame of external memory is 2 MiB (R251). -/
def frameBytes : Nat := 0x200000

/-- KV8 page size of a package (03 "Contexts"). -/
def Pkg.pageBytes (p : Pkg) : Nat := 64 * 2 * p.kvHeads * p.headDim

/-- Key of a cache page in a sequence's list: layer and page number. -/
def pageKey (layer page : Nat) : Nat := layer * 65536 + page

/-- Key of a cache page in a step's lists. -/
def stepPageKey (seq layer page : Nat) : Nat := seq * 2 ^ 28 + pageKey layer page

/-- Physical address of a byte of a context's own layout (R267). -/
def Ctx.layoutPhys (c : Ctx) (x : Nat) : Option Nat :=
  match c.frames.getD (x / frameBytes) none with
  | some f => some (f * frameBytes + x % frameBytes)
  | none => none

/-- The share a context uses, if any (R266). -/
def shareOf (s : State) (n : Nat) : Option (Nat × Share) := s.compass.shares.find? fun e => e.2.users.contains n

/-- Physical address of byte `x` of the data (or scale) stream of tensor `i`, placed in external memory. -/
def xmObjPhys (s : State) (n : Nat) (c : Ctx) (i d sc x : Nat) (scale : Bool) : Option Nat :=
  match shareOf s n with
  | some (_, sh) =>
    match sh.places.find? fun p => p.1 = i with
    | some (_, d', sc') =>
      let y := (if scale then sc' else d') + x
      match smFind sh.frames (y / frameBytes) with
      | some f => some (f * frameBytes + y % frameBytes)
      | none => c.layoutPhys y
    | none => c.layoutPhys ((if scale then sc else d) + x)
  | none => c.layoutPhys ((if scale then sc else d) + x)

/-- Bytes of the STREAM and COLD tensors of a layer that stand before entry `i` in the table: where it lies in a staging
half. -/
def stageOff (c : Ctx) (layer : Nat) : Nat → Nat
  | 0 => 0
  | i + 1 =>
    let before := stageOff c layer i
    match c.pkg.tensors[i]?, c.places[i]? with
    | some t, some .stream => if t.layer = layer then before + t.dataBytes + t.scaleBytes else before
    | some t, some .cold => if t.layer = layer then before + t.dataBytes + t.scaleBytes else before
    | _, _ => before

/-- Index of the staging half that holds a layer, fetched. -/
def halfOf (c : Ctx) (layer : Nat) : Option Nat :=
  (c.halves.findIdx? fun h => h.layer == some layer && h.ready)

/-- A piece of physical storage that an access reaches. -/
inductive Seg where
  | spad (off n : Nat)
  | loc (core off n : Nat)
  | xm (a n : Nat)
  | out (off n : Nat)
  deriving DecidableEq, Repr

/-- What kind of object a piece belongs to: decides what an uncorrectable word or burst does (R234, R254, R277). -/
inductive Owner where
  | mutable_
  | object (entry : Nat)
  | cache (seq : Nat)
  deriving DecidableEq, Repr

/-- How an address resolves. -/
inductive Res0 where
  | segs (l : List Seg) (o : Owner)
  | fault (code : Code)
  | stall (w : Wait)
  deriving DecidableEq, Repr

/-- Split `n` bytes of SCRATCH from offset `off` over its extents (KiB base, KiB length). -/
def scratchSegs : List (Nat × Nat) → Nat → Nat → List Seg
  | [], _, _ => []
  | (b, l) :: ex, off, n =>
    if n = 0 then []
    else if off < l * 1024 then
      let k := min n (l * 1024 - off)
      .spad (b * 1024 + off) k :: scratchSegs ex 0 (n - k)
    else scratchSegs ex (off - l * 1024) n

/-- Split `n` bytes of LOCAL on core `k` from offset `off` over its extents. -/
def localSegs (k : Nat) : List (Nat × Nat) → Nat → Nat → List Seg
  | [], _, _ => []
  | (b, l) :: ex, off, n =>
    if n = 0 then []
    else if off < l * 1024 then
      let m := min n (l * 1024 - off)
      .loc k (b * 1024 + off) m :: localSegs k ex 0 (n - m)
    else localSegs k ex (off - l * 1024) n

/-- Pieces of `n` bytes at layout offset `x`, frame by frame. -/
def xmSegs (ph : Nat → Option Nat) : Nat → Nat → Nat → List Seg
  | 0, _, _ => []
  | fuel + 1, x, n =>
    if n = 0 then []
    else
      let k := min n (frameBytes - x % frameBytes)
      match ph x with
      | some a => .xm a k :: xmSegs ph fuel (x + k) (n - k)
      | none => xmSegs ph fuel (x + k) (n - k)

/-- Frames an extent may cross, for fuel. -/
def segFuel (n : Nat) : Nat := n / frameBytes + 2

/-- Layout offset of a pool slot (R268). -/
def slotOff (c : Ctx) (slot : Nat) : Nat :=
  let p := c.pkg.pageBytes
  if p ≤ frameBytes then
    let per := frameBytes / max p 1
    c.poolF0 * frameBytes + (slot / per) * frameBytes + (slot % per) * p
  else c.poolF0 * frameBytes + slot * cdiv p frameBytes * frameBytes

/-- Code values used at issue (R478, block 0x30). -/
def cADDR_RANGE : Code := 0x3045
def cADDR_PERM : Code := 0x3046
def cADDR_ALIGN : Code := 0x3047
def cCOUNT_RANGE : Code := 0x3048

/-- Resolve `n` bytes at a 64-bit window address for a core running a context (R162, R163). -/
def resolve (s : State) (k n : Nat) (c : Ctx) (ctxNo : Nat) (a : Nat) (wr : Bool) : Res0 :=
  let w := bits a 63 60
  let off := bits a 59 0
  if w = 0 then
    if off + n ≤ c.pkg.localKib * 1024 then .segs (localSegs k c.localEx off n) .mutable_ else .fault cADDR_RANGE
  else if w = 1 then
    if off + n ≤ c.pkg.scratchKib * 1024 then .segs (scratchSegs c.scratch off n) .mutable_ else .fault cADDR_RANGE
  else if w = 2 then
    if c.pkg.xmBytes < off + n then .fault cADDR_RANGE
    else if off < c.workF0 * frameBytes ∨ c.workF0 * frameBytes + c.workBytes < off + n then .fault cADDR_PERM
    else .segs (xmSegs c.layoutPhys (segFuel n) off n) .mutable_
  else if w = 3 ∨ w = 4 then
    let i := bits off 59 40
    let x := bits off 39 0
    match c.pkg.tensors[i]?, c.places[i]? with
    | some t, some p =>
      if t.format = 6 ∨ t.format = 7 then .fault cADDR_RANGE
      else if (if w = 3 then t.dataBytes else t.scaleBytes) < x + n then .fault cADDR_RANGE
      else if wr then .fault cADDR_PERM
      else match p with
        | .none => .fault cADDR_RANGE
        | .sram d sc => .segs (scratchSegs c.scratch ((if w = 3 then d else sc) + x) n) (.object i)
        | .xm d sc =>
          .segs (xmSegs (fun y => xmObjPhys s ctxNo c i d sc y (w = 4)) (segFuel n) x n) (.object i)
        | .stream | .cold =>
          match halfOf c t.layer with
          | none => .stall .flash
          | some h =>
            let base := c.stageF0 * frameBytes + h * c.halfBytes + stageOff c t.layer i + (if w = 3 then 0 else t.dataBytes)
            .segs (xmSegs c.layoutPhys (segFuel n) (base + x) n) (.object i)
    | _, _ => .fault cADDR_RANGE
  else if w = 5 then
    let sq := bits off 59 48
    let layer := bits off 47 36
    let pg := bits off 35 22
    let x := bits off 21 0
    match c.step, smFind c.seqs sq with
    | some st, some q =>
      if !(st.batch.any fun b => b.seq = sq) then .fault cADDR_RANGE
      else match smFind q.pages (pageKey layer pg) with
        | none => .fault cADDR_RANGE
        | some pgst =>
          if c.pkg.pageBytes < x + n then .fault cADDR_RANGE
          else if wr then .fault cADDR_PERM
          else match pgst.at_ with
            | .slot sl => .segs (xmSegs c.layoutPhys (segFuel n) (slotOff c sl + x) n) (.cache sq)
            | .demoting sl => .segs (xmSegs c.layoutPhys (segFuel n) (slotOff c sl + x) n) (.cache sq)
            | _ => .stall .flash
    | _, _ => .fault cADDR_RANGE
  else if w = 6 then
    match c.step with
    | none => .fault cADDR_RANGE
    | some st =>
      let emitting := (st.batch.filter fun b => b.emits).length
      if emitting * c.outBytes < off + n then .fault cADDR_RANGE
      else if wr then .segs [.out off n] .mutable_ else .fault cADDR_PERM
  else .fault cADDR_RANGE

/-- What a read through a window gives. -/
inductive WRd where
  | data (d : List Byte)
  /-- A job fault with its code, and the owner of the failing storage. -/
  | fault (code : Code) (o : Owner)
  | stall (w : Wait)
  deriving DecidableEq, Repr

/-- Overlay of cache bytes the step has written and not committed. -/
def overlay (m : SMap Byte) (a : Nat) (d : List Byte) : List Byte :=
  if m.isEmpty then d else d.zipIdx.map fun p => (smFind m (a + p.2)).getD p.1

/-- Read the pieces in order (R233, R234, R253, R254, R274, R277). -/
def readSegs (kvw : SMap Byte) (o : Owner) : List Seg → State → WRd × State
  | [], s => (.data [], s)
  | g :: gs, s =>
    let r : WRd × State := match g with
      | .spad off n => match ocmRead none off n s with
        | (.ok d, s) => (.data d, s)
        | (.error _, s) => match o with
          | .object _ => (.stall .flash, s)
          | _ => (.fault 0x8002 o, s)
      | .loc k off n => match ocmRead (some k) off n s with
        | (.ok d, s) => (.data d, s)
        | (.error _, s) => (.fault 0x8002 o, s)
      | .xm a n => match xmRead a n s with
        | (.ok d, s) => (.data (overlay kvw a d), s)
        | (.error _, s) => match o with
          | .object _ => (.stall .flash, s)
          | _ => (.fault 0xA001 o, s)
      | .out _ _ => (.fault cADDR_PERM o, s)
    match r with
    | (.data d, s) => match readSegs kvw o gs s with
      | (.data d2, s) => (.data (d ++ d2), s)
      | x => x
    | x => x

/-- Write the pieces in order: the failing code, if a part of a word or burst cannot be read (R234, R254). -/
def writeSegs (ctxNo : Nat) : List Seg → List Byte → State → Option Code × State
  | [], _, s => (none, s)
  | g :: gs, d, s =>
    let (n, r) : Nat × (Option Code × State) := match g with
      | .spad off n => (n, match ocmWrite none off (d.take n) s with | (none, s) => (none, s) | (some _, s) => (some 0x8002, s))
      | .loc k off n => (n, match ocmWrite (some k) off (d.take n) s with | (none, s) => (none, s) | (some _, s) => (some 0x8002, s))
      | .xm a n => (n, match xmWrite a (d.take n) s with | (none, s) => (none, s) | (some _, s) => (some 0xA001, s))
      | .out off n => (n, (none, modCtx ctxNo (fun c => match c.step with
          | none => c
          | some st => { c with step := some { st with out := smStore st.out off (d.take n) } }) s))
    match r with
    | (some e, s) => (some e, s)
    | (none, s) => writeSegs ctxNo gs (d.drop n) s

/-- Read `n` bytes at a window address for core `k`. -/
def readWin (k ctxNo a n : Nat) (s : State) : WRd × State :=
  match ctx? s ctxNo with
  | none => (.fault cADDR_RANGE .mutable_, s)
  | some c =>
    match resolve s k n c ctxNo a false with
    | .fault e => (.fault e .mutable_, s)
    | .stall w => (.stall w, s)
    | .segs l o => readSegs ((c.step.map (·.kvw)).getD []) o l s

/-- Write bytes at a window address for core `k`: none, or the fault's code. -/
def writeWin (k ctxNo a : Nat) (d : List Byte) (s : State) : Option Code × State :=
  match ctx? s ctxNo with
  | none => (some cADDR_RANGE, s)
  | some c =>
    match resolve s k d.length c ctxNo a true with
    | .fault e => (some e, s)
    | .stall _ => (none, s)
    | .segs l _ => writeSegs ctxNo l d s

/-- The check of an access's extent at issue (R163): the code it faults with, if any. -/
def checkWin (s : State) (k ctxNo a n : Nat) (wr : Bool) : Option Code :=
  match ctx? s ctxNo with
  | none => some cADDR_RANGE
  | some c => match resolve s k n c ctxNo a wr with
    | .fault e => some e
    | _ => none

/-- Register file access. -/
def getS (r : Run) (i : BitVec 4) : DWord := r.s.getD i.toNat 0
/-- Write a scalar register. -/
def setS (r : Run) (i : BitVec 4) (v : DWord) : Run := { r with s := r.s.setIfInBounds i.toNat v }
/-- Read an address register; the index is below 8 (R165). -/
def getA (r : Run) (i : BitVec 4) : DWord := r.a.getD i.toNat 0
/-- Write an address register. -/
def setA (r : Run) (i : BitVec 4) (v : DWord) : Run := { r with a := r.a.setIfInBounds i.toNat v }
/-- Read a loop register. -/
def getL (r : Run) (i : Nat) : LoopReg := r.l.getD i LoopReg.zero
/-- Write a loop register. -/
def setL (r : Run) (i : Nat) (v : LoopReg) : Run := { r with l := r.l.setIfInBounds i v }
/-- Read a tile descriptor. -/
def getT (r : Run) (i : Nat) : BitVec 256 := r.t.getD i 0
/-- Write a tile descriptor. -/
def setT (r : Run) (i : Nat) (v : BitVec 256) : Run := { r with t := r.t.setIfInBounds i v }
/-- A completion group's count. -/
def getG (r : Run) (i : Nat) : Nat := r.g.getD i 0
/-- Write a completion group's count. -/
def setG (r : Run) (i v : Nat) : Run := { r with g := r.g.setIfInBounds i v }

end Sys2Proof.Machine
end

