-- ==== Sys2Proof/Machine/Sha3.lean ====
section
/-! DEFINITION. SHA3-512, the digest of package headers (R58), SFU table banks (R206) and measurements (R457): the
Keccak-f[1600] permutation with rate 576 and the SHA3 padding. PRESUMED: the spec names the function and leaves its
definition to FIPS 202 (log entry 21). -/
namespace Sys2Proof.Machine

/-- Rotate a 64-bit lane left. -/
def rotl64 (w n : Nat) : Nat := ((w <<< (n % 64)) ||| (w >>> ((64 - n % 64) % 64))) % 2 ^ 64

/-- The 24 round constants. -/
def keccakRC : List Nat :=
  [0x0000000000000001, 0x0000000000008082, 0x800000000000808A, 0x8000000080008000, 0x000000000000808B, 0x0000000080000001,
   0x8000000080008081, 0x8000000000008009, 0x000000000000008A, 0x0000000000000088, 0x0000000080008009, 0x000000008000000A,
   0x000000008000808B, 0x800000000000008B, 0x8000000000008089, 0x8000000000008003, 0x8000000000008002, 0x8000000000000080,
   0x000000000000800A, 0x800000008000000A, 0x8000000080008081, 0x8000000000008080, 0x0000000080000001, 0x8000000080008008]

/-- Rotation of lane x + 5y. -/
def keccakRot : List Nat :=
  [0, 1, 62, 28, 27, 36, 44, 6, 55, 20, 3, 10, 43, 25, 39, 41, 45, 15, 21, 8, 18, 2, 61, 56, 14]

/-- One round on 25 lanes. -/
def keccakRound (a : List Nat) (rc : Nat) : List Nat :=
  let l := fun (xs : List Nat) (i : Nat) => xs.getD i 0
  let c := (List.range 5).map fun x => l a x ^^^ l a (x + 5) ^^^ l a (x + 10) ^^^ l a (x + 15) ^^^ l a (x + 20)
  let d := (List.range 5).map fun x => l c ((x + 4) % 5) ^^^ rotl64 (l c ((x + 1) % 5)) 1
  let t := (List.range 25).map fun i => rotl64 (l a i ^^^ l d (i % 5)) (keccakRot.getD i 0)
  -- lane (x, y) of B takes lane ((x + 3y) mod 5, x) of t
  let b := (List.range 25).map fun i => l t (((i % 5) + 3 * (i / 5)) % 5 + 5 * (i % 5))
  let e := (List.range 25).map fun i =>
    let r := 5 * (i / 5)
    l b i ^^^ ((2 ^ 64 - 1 - l b (r + (i % 5 + 1) % 5)) &&& l b (r + (i % 5 + 2) % 5))
  match e with
  | [] => []
  | x :: xs => (x ^^^ rc) :: xs

/-- The permutation. -/
def keccakF (a : List Nat) : List Nat := keccakRC.foldl keccakRound a

/-- Absorb one 72-byte block. -/
def keccakAbsorb (a : List Nat) (blk : List Byte) : List Nat :=
  keccakF ((List.range 25).map fun i => a.getD i 0 ^^^ (if i < 9 then fld blk (8 * i) 8 else 0))

/-- Absorb blocks while fuel lasts. -/
def keccakAll : Nat → List Nat → List Byte → List Nat
  | 0, a, _ => a
  | n + 1, a, bs => if bs.isEmpty then a else keccakAll n (keccakAbsorb a (bs.take 72)) (bs.drop 72)

/-- SHA3-512 of a byte string: 64 bytes. -/
def sha3_512 (bs : List Byte) : List Byte :=
  let k := 72 - bs.length % 72
  let pad : List Byte := if k = 1 then [0x86] else 0x06 :: (List.replicate (k - 2) 0 ++ [0x80])
  let a := keccakAll (bs.length / 72 + 1) (List.replicate 25 0) (bs ++ pad)
  ((List.range 8).map fun i => leBytes 8 (a.getD i 0)).flatten

end Sys2Proof.Machine
end

