-- ==== Sys2Proof/Machine/Package.lean ====
section
/-! DEFINITION. The model package: its header (R58), step program (R157, R158), tensor table (R119) and the checks 1 and 2 of
R60 with the rules they cite (R101, R120, R159, R268), and Compass's layout of the external memory quota (R267). -/
namespace Sys2Proof.Machine
open Sys2Proof

/-- Version byte of the selected interface level (R8, R57). -/
def versionByte (s : State) : Nat := if s.chip.level1 then 1 else 2

/-- A tensor table entry's fields (R119). -/
def parseTensor (e : List Byte) : Tensor :=
  { format := fld e 1 1, layer := fld e 2 2, gen := fld e 4 1, policy := fld e 5 1, dataOff := fld e 8 8, dataBytes := fld e 16 8,
    scaleOff := fld e 24 8, scaleBytes := fld e 32 8, reduceLen := fld e 40 4, cols := fld e 44 4, histN := fld e 48 1,
    headroom := fld e 49 1, warmup := fld e 50 1, satThr := fld e 52 4, histIdx := fld e 56 4 }

/-- BW4 or BW8. -/
def Tensor.isBw (t : Tensor) : Bool := t.format == 1 || t.format == 2
/-- An entry with no object: KV8 or ACT. -/
def Tensor.noObj (t : Tensor) : Bool := t.format == 6 || t.format == 7
/-- Reduction rows K of a BW tensor. -/
def Tensor.k (t : Tensor) : Nat := t.reduceLen + 1
/-- Output columns N of a BW tensor. -/
def Tensor.n (t : Tensor) : Nat := t.cols + 1
/-- Row blocks ⌈K ÷ 128⌉. -/
def Tensor.rowBlocks (t : Tensor) : Nat := cdiv t.k 128
/-- Strips ⌈N ÷ 128⌉. -/
def Tensor.strips (t : Tensor) : Nat := cdiv t.n 128
/-- Bytes of a data tile (R94). -/
def Tensor.tileBytes (t : Tensor) : Nat := if t.format = 1 then 8256 else 16448
/-- History depth of an ACT entry: 0 means 4. -/
def Tensor.depth (t : Tensor) : Nat := if t.histN = 0 then 4 else t.histN
/-- Warm-up length of an ACT entry: 0 means 1. -/
def Tensor.warm (t : Tensor) : Nat := if t.warmup = 0 then 1 else t.warmup

/-- The rules of R119, R120 and R101 that one entry must keep, given its 64 bytes. -/
def tensorOk (pkgBytes : Nat) (e : List Byte) : Bool :=
  let t := parseTensor e
  let bw := t.isBw
  let emb := t.format == 8 || t.format == 9
  1 ≤ t.format && t.format ≤ 9 && t.layer < 4096 && t.gen < 16 && t.policy ≤ 4 && zeroRange e 6 8 && zeroRange e 51 52
  && zeroRange e 60 64
  && (if t.noObj then t.policy == 0 && t.dataOff == 0 && t.dataBytes == 0 else t.dataOff + t.dataBytes ≤ pkgBytes)
  && (if bw then
        t.k % 32 == 0 && t.k ≤ (if t.format = 1 then 2 ^ 20 else 2 ^ 18) && t.n ≤ 2 ^ 24
        && t.dataBytes == t.rowBlocks * t.strips * t.tileBytes
        && t.scaleBytes == t.rowBlocks * t.strips * 320 + t.strips * 256
        && t.scaleOff + t.scaleBytes ≤ pkgBytes
      else t.scaleOff == 0 && t.scaleBytes == 0 && t.cols == 0 && (if emb then t.reduceLen < 4096 else t.reduceLen == 0))
  && (if t.format = 7 then t.histN ≤ 16 && t.headroom ≤ 3 && t.warmup ≤ t.depth
      else t.histN == 0 && t.warmup == 0 && t.satThr == 0 && (if t.format = 6 then t.headroom ≤ 3 else t.headroom == 0))
  && (t.noObj || t.histIdx == 0)

/-- The HIST_INDEX values of the ACT and KV8 entries are exactly 0 to their count minus one (R120). -/
def histOk (ts : List Tensor) : Bool :=
  let hs := (ts.filter Tensor.noObj).map (·.histIdx)
  (List.range hs.length).all fun i => hs.contains i

/-- KV8 entries: exactly one where KV_HEADS > 0, at most one otherwise (R120). -/
def kvOk (heads : Nat) (ts : List Tensor) : Bool :=
  let n := (ts.filter fun t => t.format == 6).length
  if 0 < heads then n == 1 else n ≤ 1

/-- Task entry `i` of a step program (R158). -/
def parseTask (prog : List Byte) (i : Nat) : TaskEnt :=
  let b := 16 + 32 * i
  { entry := fld prog b 4
    deps := (List.range (fld prog (b + 8) 2)).map fun j => fld prog (fld prog (b + 4) 4 + 2 * j) 2
    arg0 := BitVec.ofNat 64 (fld prog (b + 16) 8)
    arg1 := BitVec.ofNat 64 (fld prog (b + 24) 8) }

/-- The rules of R159 for the task table and the code. -/
def programOk (prog : List Byte) (tasks : Nat) : Bool :=
  let codeOff := fld prog 4 4
  let codeBytes := fld prog 8 4
  zeroRange prog 1 4 && zeroRange prog 12 16 && 16 + 32 * tasks ≤ prog.length
  && codeOff % 16 == 0 && codeBytes % 16 == 0 && codeOff + codeBytes ≤ prog.length
  && (List.range tasks).all fun i =>
    let b := 16 + 32 * i
    let dc := fld prog (b + 8) 2
    let t := parseTask prog i
    zeroRange prog (b + 10) (b + 16) && dc ≤ 256 && fld prog (b + 4) 4 + 2 * dc ≤ prog.length
    && t.entry % 16 == 0 && decide (t.entry < codeBytes) && t.deps.all (· < i)

/-! ### Compass's layout (R267, R268) -/

/-- The layout of a context's external memory quota. -/
structure Layout where
  workF0 : Nat
  stageF0 : Nat
  poolF0 : Nat
  frames : Nat
  halfBytes : Nat
  poolSlots : Nat
  places : List Place
  streamed : Bool
  fits : Bool
  deriving DecidableEq, Repr

/-- Bytes of a tensor's two streams. -/
def Tensor.bytes (t : Tensor) : Nat := t.dataBytes + t.scaleBytes

/-- Half of the staging ring that the given tensors need as STREAM: the largest total of one LAYER (R267 step 5). -/
def ringHalf (ts : List Tensor) : Nat :=
  ts.foldl (fun m t => max m ((ts.filter fun u => u.layer == t.layer).map Tensor.bytes).sum) 0

/-- Frames of the ring. -/
def ringFrames (ts : List Tensor) : Nat := cdiv (2 * ringHalf ts) frameBytes

/-- Place one tensor's streams at 64-byte alignment: offsets, and the next free offset. -/
def placeAt (t : Tensor) (p : Nat) : Nat × Nat × Nat :=
  let d := roundUp p 64
  let sc := roundUp (d + t.dataBytes) 64
  (d, sc, if t.scaleBytes = 0 then d + t.dataBytes else sc + t.scaleBytes)

/-- Steps 3 of R267 and the SRAM offsets: PINNED_XM tensors in table order. -/
def placePinned : List Tensor → Nat → Nat → List Place × Nat × Nat
  | [], p, q => ([], p, q)
  | t :: ts, p, q =>
    if t.noObj then let (l, r) := placePinned ts p q; (.none :: l, r)
    else if t.policy = 0 then
      let (d, sc, q') := placeAt t q
      let (l, r) := placePinned ts p q'
      (.sram d sc :: l, r)
    else if t.policy = 1 then
      let (d, sc, p') := placeAt t p
      let (l, r) := placePinned ts p' q
      (.xm d sc :: l, r)
    else if t.policy = 4 then let (l, r) := placePinned ts p q; (.cold :: l, r)
    else let (l, r) := placePinned ts p q; (.stream :: l, r)

/-- Step 4: PREFER_XM tensors in table order, each placed only if the frames left still hold the ring that the tensors not
yet placed would need. `streamed` gathers those that stay STREAM. -/
def placePrefer (frames : Nat) (fixed : List Tensor) : List (Tensor × Place) → Nat → List Tensor → List Place × Nat × List Tensor
  | [], p, ns => ([], p, ns)
  | (t, pl) :: ts, p, ns =>
    if t.policy = 2 && !t.noObj then
      let (d, sc, p') := placeAt t p
      let later := (ts.map Prod.fst).filter fun u => u.policy == 2 && !u.noObj
      if cdiv p' frameBytes + ringFrames (fixed ++ ns ++ later) ≤ frames then
        let (l, r) := placePrefer frames fixed ts p' ns
        (.xm d sc :: l, r)
      else
        let (l, r) := placePrefer frames fixed ts p (ns ++ [t])
        (.stream :: l, r)
    else let (l, r) := placePrefer frames fixed ts p ns; (pl :: l, r)

/-- Page slots of a cache pool of `f` frames (R268). -/
def poolSlotsOf (page f : Nat) : Nat :=
  if page = 0 then 0 else if page ≤ frameBytes then f * (frameBytes / page) else f / cdiv page frameBytes

/-- The layout of R267 for a package's tensors and the command's WORK_BYTES, as if nothing were shared. -/
def mkLayout (ts : List Tensor) (xmBytes work page scratchKib layers heads : Nat) : Layout :=
  let frames := xmBytes / frameBytes
  let hF := cdiv (96 * (ts.filter Tensor.noObj).length) frameBytes
  let wF := cdiv work frameBytes
  let (pl, p, q) := placePinned ts ((hF + wF) * frameBytes) 0
  let fixed := ts.filter fun t => !t.noObj && 3 ≤ t.policy
  let (pl, p, ns) := placePrefer frames fixed (ts.zip pl) p []
  let half := ringHalf (fixed ++ ns)
  let sF := cdiv p frameBytes
  let pF := sF + ringFrames (fixed ++ ns)
  let slots := poolSlotsOf page (frames - pF)
  { workF0 := hF, stageF0 := sF, poolF0 := pF, frames := frames, halfBytes := half, poolSlots := slots, places := pl,
    streamed := !ns.isEmpty,
    fits := decide (pF ≤ frames) && decide (q ≤ scratchKib * 1024) && (heads == 0 || decide (layers ≤ slots)) }

/-! ### Checks 1 and 2 of R60 -/

/-- What the checks of the package find. -/
inductive PkgRes where
  | refused (code check : Nat)
  | good (p : Pkg) (l : Layout)
  deriving DecidableEq, Repr

/-- Check 1 (R60): version bytes of the header, of the step program and of every tensor entry that lies in the package. -/
def versionsOk (ver : Nat) (b : List Byte) : Bool :=
  let pb := fld b 8 8
  let po := fld b 16 8
  let tbl := fld b 32 8
  fld b 0 1 == ver && (pb ≤ po || fld b po 1 == ver)
  && (List.range (fld b 40 4)).all fun i => pb ≤ tbl + 64 * i || fld b (tbl + 64 * i) 1 == ver

/-- Header rules of check 2 (R58, R60). -/
def headerOk (b : List Byte) : Bool :=
  let pb := fld b 8 8
  let kind := fld b 1 1
  let heads := fld b 48 2
  (kind == 1 || kind == 2) && fld b 2 2 == 256 && fld b 4 4 < 4 && 256 ≤ pb
  && zeroRange b 92 96 && zeroRange b 160 256
  && fld b 24 4 % 16 == 0 && fld b 16 8 + fld b 24 4 ≤ pb
  && 1 ≤ fld b 28 4 && fld b 28 4 ≤ 65535 && fld b 32 8 + 64 * fld b 40 4 ≤ pb
  && 1 ≤ fld b 44 2 && fld b 44 2 ≤ 4096 && 1 ≤ fld b 46 2 && fld b 46 2 ≤ 48
  && 1 ≤ fld b 56 2 && fld b 56 2 ≤ 4096 && 1 ≤ fld b 58 2 && fld b 58 2 ≤ 4096
  && fld b 68 8 % frameBytes == 0 && fld b 76 8 % unitBytes == 0
  && (kind == 1 || heads == 0) && 64 * 2 * heads * fld b 50 2 ≤ 0x400000

/-- The package with its DIGEST field set to 0 (R58). -/
def digestInput (b : List Byte) : List Byte := overwrite b 96 (List.replicate 64 0)

/-- The package's fields (R58, R157, R119). -/
def parsePkg (nsid slba : Nat) (b : List Byte) : Pkg :=
  let prog := slice b (fld b 16 8) (fld b 24 4)
  { nsid := nsid, slba := slba, encoder := fld b 1 1 == 2, checked := bit (fld b 4 4) 0, sampler := bit (fld b 4 4) 1,
    layers := fld b 44 2, minCores := fld b 46 2, kvHeads := fld b 48 2, headDim := fld b 50 2, maxSeqLen := fld b 52 4,
    maxSeqs := fld b 56 2, chunk := fld b 58 2, localKib := fld b 60 4, scratchKib := fld b 64 4, xmBytes := fld b 68 8,
    flashBytes := fld b 76 8, weightBytes := fld b 84 8, pkgBytes := fld b 8 8, digest := slice b 96 64,
    code := slice prog (fld prog 4 4) (fld prog 8 4),
    tasks := (List.range (fld b 28 4)).map (parseTask prog),
    tensors := (List.range (fld b 40 4)).map fun i => parseTensor (slice b (fld b 32 8 + 64 * i) 64) }

/-- Checks 1 and 2 of R60 over the bytes that the named blocks hold. -/
def checkPkg (ver nsid slba work : Nat) (b : List Byte) : PkgRes :=
  let pb := fld b 8 8
  if !versionsOk ver b then .refused 0x0001 1
  else if !headerOk b || b.length < pb then .refused 0x3001 2
  else
    let b := b.take pb
    let p := parsePkg nsid slba b
    let ents := (List.range (fld b 40 4)).map fun i => slice b (fld b 32 8 + 64 * i) 64
    let l := mkLayout p.tensors p.xmBytes work p.pageBytes p.scratchKib p.layers p.kvHeads
    if !(ents.all (tensorOk pb)) || !histOk p.tensors || !kvOk p.kvHeads p.tensors
      || !programOk (slice b (fld b 16 8) (fld b 24 4)) (fld b 28 4) || !l.fits
      || sha3_512 (digestInput b) != p.digest then .refused 0x3001 2
    else .good p l

end Sys2Proof.Machine
end

