-- ==== Sys2Proof/Machine/NetOps.lean ====
section
/-! DEFINITION. Sending on the port (R401, R405, R408) and Strait messages: segments, their CRC, sequencing and completion
(R421 to R425). -/
namespace Sys2Proof.Machine
open Sys2Proof

/-! ### The port -/

/-- A frame's owner hands it to the transmit queue of a priority: discarded while the link is down (R401), held while the
partner pauses the priority (R408), else sent and counted. -/
def sendOn (prio : Nat) (m : OutMsg) (len : Nat) (s : State) : State :=
  if !s.niu.linkUp then cntAdd 0x10 0x860 1 s
  else if (smFind s.niu.paused prio).isSome then
    modNiu (fun n => { n with txq := smSet n.txq prio (smGet [] n.txq prio ++ [(m, len)]) }) s
  else cntAdd 0x10 0x818 len (cntAdd 0x10 0x808 1 (emit m s))

/-- Send what a transmit queue holds, in order. -/
def drainTx (prio : Nat) (s : State) : State :=
  let q := smGet [] s.niu.txq prio
  let s := modNiu (fun n => { n with txq := smDel n.txq prio }) s
  q.foldl (fun s e => sendOn prio e.1 e.2 s) s

/-- PCP of NVMe/TCP, Strait and PTP traffic (R405). -/
def pcpNvme (s : State) : Nat := regFld s 0x10 0x114 2 0
/-- PCP of Strait. -/
def pcpStrait (s : State) : Nat := regFld s 0x10 0x114 5 3
/-- PCP of PTP. -/
def pcpPtp (s : State) : Nat := regFld s 0x10 0x114 8 6

/-! ### Strait segments (R421) -/

/-- One bit of the CRC-32C division, least significant bit first. -/
def crcBit (c : Nat) : Nat := if c % 2 = 1 then (c / 2) ^^^ 0x82F63B78 else c / 2

/-- CRC-32C over bytes (R421): the Castagnoli polynomial of RFC 3720, reflected. -/
def crc32c (bs : List Byte) : Nat :=
  (bs.foldl (fun c b => crcBit (crcBit (crcBit (crcBit (crcBit (crcBit (crcBit (crcBit (c ^^^ b.toNat))))))))) 0xFFFFFFFF) ^^^ 0xFFFFFFFF

/-- The VERSION byte of Strait segments (R421). -/
def straitVersion (s : State) : Nat := if s.chip.level1 then 1 else 2

/-- A group slot. -/
def grpSlot (s : State) (n : Nat) : GrpSlot := smGet GrpSlot.reset s.strait.slots n

/-- Change a group slot. -/
def modGrp (n : Nat) (f : GrpSlot → GrpSlot) (s : State) : State :=
  modStrait (fun x => { x with slots := smPut GrpSlot.reset x.slots n (f (smGet GrpSlot.reset x.slots n)) }) s

/-- The group slot that holds a group number. -/
def slotOfGroup (s : State) (g : Nat) : Option Nat :=
  if g = 0 then none else (s.strait.slots.find? fun e => e.2.group == g).map Prod.fst

/-- A member of a group slot. -/
def member (s : State) (n m : Nat) : Member := smGet Member.reset (grpSlot s n).members m

/-- Change a member. -/
def modMember (n m : Nat) (f : Member → Member) (s : State) : State :=
  modGrp n (fun g => { g with members := smPut Member.reset g.members m (f (smGet Member.reset g.members m)) }) s

/-- The bytes of a segment: 40-byte header, payload, CRC-32C. -/
def segBytes (s : State) (self dst grp type idx cnt seq ack tag msgBytes flags : Nat) (pay : List Byte) : List Byte :=
  let h := beBytes 1 (straitVersion s) ++ beBytes 1 type ++ beBytes 1 self ++ beBytes 1 dst ++ beBytes 2 grp ++ beBytes 1 idx
    ++ beBytes 1 cnt ++ beBytes 4 seq ++ beBytes 4 ack ++ beBytes 4 tag ++ beBytes 2 pay.length ++ beBytes 2 flags
    ++ beBytes 8 s.time.master ++ beBytes 4 msgBytes ++ beBytes 4 s.strait.session
  h ++ pay ++ beBytes 4 (crc32c (h ++ pay))

/-- UDP port of Strait. -/
def straitPort (s : State) : Nat := regFld s 0x12 0x104 15 0

/-- The 128-bit value of four register words, most significant first. -/
def regWords4 (s : State) (page off : Nat) : Nat :=
  (regWord s page off).toNat * 2 ^ 96 + (regWord s page (off + 4)).toNat * 2 ^ 64 + (regWord s page (off + 8)).toNat * 2 ^ 32
    + (regWord s page (off + 12)).toNat

/-- A destination lies off the link: outside the prefix of the module's own address (R403). Addresses are 128 bits, an IPv4
address in the top 32. -/
def offLink (s : State) (v6 : Bool) (addr : Nat) : Bool :=
  if v6 then
    let p := min 128 (regFld s 0x10 0x140 7 0)
    regWords4 s 0x10 0x130 != 0 && addr / 2 ^ 118 != 0x3FA && regWords4 s 0x10 0x130 / 2 ^ (128 - p) != addr / 2 ^ (128 - p)
  else
    let p := min 32 (regFld s 0x10 0x120 5 0)
    let a := (regWord s 0x10 0x11C).toNat
    a != 0 && a / 2 ^ (32 - p) != (addr / 2 ^ 96) / 2 ^ (32 - p)

/-- Hand a packet to a destination to the port: one that goes to a gateway whose link address is not known waits (R403). -/
def sendTo (prio : Nat) (v6 : Bool) (addr : Nat) (m : OutMsg) (len : Nat) (s : State) : State :=
  if offLink s v6 addr ∧ s.niu.gateway.isNone then modNiu (fun n => { n with unresolved := n.unresolved ++ [(now s, m)] }) s
  else sendOn prio m len s

/-- Hand a segment to the port and count it (R437). -/
def sendSeg (v6 : Bool) (addr : Nat) (bytes : List Byte) (s : State) : State :=
  cntAdd 0x12 0x800 1 (sendTo (pcpStrait s) v6 addr (.strait addr (straitPort s) bytes) bytes.length s)

/-- Segment size S (R423). -/
def segSize (s : State) : Nat := min (regFld s 0x12 0x108 13 0) (regFld s 0x10 0x178 13 0 - 96) / 8 * 8

/-- Cut a message into pieces of `n` bytes. -/
def chunks (n : Nat) : Nat → List Byte → List (List Byte)
  | 0, _ => []
  | fuel + 1, d => if d.length ≤ n then [d] else d.take n :: chunks n fuel (d.drop n)

/-! ### Completion groups -/

/-- An operation of a completion group completes: the group's count falls by 1 on the core that runs the step, or in its save
area (R161, R184). -/
def completeGroup (k ctx grp : Nat) (s : State) : State :=
  let dec (r : Run) : Run := setG r grp (getG r grp - 1)
  match (core s k).run with
  | some r => if r.ctx = ctx then modCore k (fun c => { c with run := some (dec r) }) s else s
  | none => modCtx ctx (fun c => { c with save := c.save.map fun e => if e.2.core = k then (e.1, { e.2 with run := dec e.2.run }) else e }) s

/-! ### Sending messages (R423 to R425) -/

/-- A message is not sent, or its sends have failed: recorded, counted, and its completion group entry completes (R425). -/
def sendFailed (c : Option (Nat × Nat × Nat)) (s : State) : State :=
  let s := advisory 0x12 2 0x1205 0 0 (cntAdd 0x12 0x838 1 s)
  match c with
  | none => s
  | some (k, ctx, g) => completeGroup k ctx g s

/-- Send segments while fewer than 64 are unacknowledged; the rest wait (R424). -/
def pumpSegs (n m : Nat) : Nat → State → State
  | 0, s => s
  | fuel + 1, s =>
    let mb := member s n m
    match mb.waiting with
    | [] => s
    | g :: rest =>
      if 64 ≤ mb.unacked.length then s
      else
        let s := modMember n m (fun b => { b with
          waiting := rest, unacked := b.unacked ++ [g], ackDue := 0,
          rto := if b.unacked.isEmpty then regFld s 0x12 0x10C 15 0 else b.rto,
          retries := if b.unacked.isEmpty then 0 else b.retries }) s
        pumpSegs n m fuel (sendSeg mb.ipv6 mb.addr g.bytes s)

/-- Send a message of a type to a member of a group slot (R423). SEQ numbers advance by one per segment. -/
def sendMsg (n m type tag : Nat) (pay : List Byte) (c : Option (Nat × Nat × Nat)) (s : State) : State :=
  let g := grpSlot s n
  let mb := member s n m
  let parts := chunks (segSize s) 33 pay
  if segSize s = 0 ∨ 32 < parts.length then sendFailed c s
  else
    let num := s.strait.nextMsg
    let segs := parts.zipIdx.map fun p =>
      let seq := (mb.txSeq + p.2) % 2 ^ 32
      ({ seq := seq, msg := num,
         bytes := segBytes s g.self m g.group type p.2 parts.length seq mb.rxSeq tag pay.length 1 p.1 } : TxSeg)
    let s := modStrait (fun x => { x with nextMsg := x.nextMsg + 1 }) s
    let s := modMember n m (fun b => { b with
      txSeq := (b.txSeq + parts.length) % 2 ^ 32, waiting := b.waiting ++ segs, msgs := b.msgs ++ [⟨num, c⟩] }) s
    pumpSegs n m 64 s

/-- The acknowledged messages of a member complete: those of which no segment is left. -/
def settleMsgs (n m : Nat) (s : State) : State :=
  let mb := member s n m
  let left := fun (t : TxMsg) => mb.unacked.any (·.msg == t.num) || mb.waiting.any (·.msg == t.num)
  let done := mb.msgs.filter fun t => !left t
  let s := modMember n m (fun b => { b with msgs := b.msgs.filter left }) s
  done.foldl (fun s t => match t.core with
    | none => s
    | some (k, ctx, g) => completeGroup k ctx g s) s

/-- Discard every unacknowledged message to a member, each counted and recorded (R425, R431). -/
def dropMsgs (n m : Nat) (s : State) : State :=
  let ms := (member s n m).msgs
  let s := modMember n m (fun b => { b with unacked := [], waiting := [], msgs := [], retries := 0 }) s
  ms.foldl (fun s t => sendFailed t.core s) s

/-- An ACK of what has been accepted from a member, with no payload. -/
def sendAck (n m : Nat) (s : State) : State :=
  let g := grpSlot s n
  let mb := member s n m
  let s := modMember n m (fun b => { b with ackDue := 0 }) s
  sendSeg mb.ipv6 mb.addr (segBytes s g.self m g.group 4 0 1 0 mb.rxSeq 0 0 1 []) s

/-- A member counts as in step (R428). While the module's own Sextant is LOST no member is. -/
def memberInStep (s : State) (n m : Nat) : Bool :=
  let mb := member s n m
  mb.valid && mb.inStep && !mb.down && !(s.sext.st == .lost || s.sext.st == .freerun)

end Sys2Proof.Machine
end

