-- ==== Sys2Proof/Machine/QcuOps.lean ====
section
/-! DEFINITION. Completions (R377, R379) and the generic status codes of the NVM Express specifications that 12 names. -/
namespace Sys2Proof.Machine
open Sys2Proof

/-- Which counter a completion counts in (R397). -/
inductive CmdKind where
  | nvm
  | bcs
  | admin
  deriving DecidableEq, Repr

/-- A status: type and code. The values of the standard's own names are PRESUMED from the NVM Express Base Specification
2.0, which R369 implements (log entry 12). -/
structure Status where
  sct : Nat
  sc : Nat
  deriving DecidableEq, Repr

def stSuccess : Status := ⟨0, 0⟩
def stInvalidOpcode : Status := ⟨0, 0x01⟩
def stInvalidField : Status := ⟨0, 0x02⟩
def stInternalError : Status := ⟨0, 0x06⟩
def stAbortRequested : Status := ⟨0, 0x07⟩
def stInvalidNs : Status := ⟨0, 0x0B⟩
def stSequenceError : Status := ⟨0, 0x0C⟩
def stSglLength : Status := ⟨0, 0x0F⟩
def stWriteProtected : Status := ⟨0, 0x20⟩
def stInterrupted : Status := ⟨0, 0x21⟩
def stTransientTransport : Status := ⟨0, 0x22⟩
def stLbaRange : Status := ⟨0, 0x80⟩
def stAerLimit : Status := ⟨1, 0x05⟩
def stFwSlot : Status := ⟨1, 0x06⟩
def stFwImage : Status := ⟨1, 0x07⟩
def stLogPage : Status := ⟨1, 0x09⟩
def stFwReset : Status := ⟨1, 0x0B⟩
def stNsCapacity : Status := ⟨1, 0x15⟩
def stNsIdUnavailable : Status := ⟨1, 0x16⟩
def stNsAttached : Status := ⟨1, 0x18⟩
def stNsNotAttached : Status := ⟨1, 0x1A⟩
def stCtrlList : Status := ⟨1, 0x1C⟩
def stConnBusy : Status := ⟨1, 0x81⟩
def stConnParams : Status := ⟨1, 0x82⟩
def stUnrecoveredRead : Status := ⟨2, 0x81⟩
/-- The status of a refused or failed BCS command (R379). -/
def stVendor : Status := ⟨7, 0x01⟩

/-- A connection, if open. -/
def conn? (s : State) (n : Nat) : Option Conn := smFind s.qcu.conns n

/-- Change an open connection. -/
def modConn (n : Nat) (f : Conn → Conn) (s : State) : State := modQcu (fun q => { q with conns := smMod q.conns n f }) s

/-- The queue of a connection can post completions: it exists, and if it is frozen its stream is intact (R377, R389). -/
def queueAlive (s : State) (n : Nat) : Bool :=
  match conn? s n with
  | none => false
  | some c => c.queue.isSome

/-- Count a completion (R397) and light ACT_LED_N (R491). -/
def countDone (k : CmdKind) (st : Status) (s : State) : State :=
  let s := match k with
    | .nvm => cntAdd 0x20 0x808 1 s
    | .bcs => if st = stSuccess then cntAdd 0x20 0x810 1 s else if st = stVendor then cntAdd 0x20 0x818 1 s else s
    | .admin => s
  match k with
  | .admin => s
  | _ => modQcu (fun q => { q with actLed := some (now s) }) s

/-- Complete a command: post the completion with its data, or discard both when the queue is gone (R377). -/
def complete (k : CmdKind) (t : Tag) (st : Status) (dw0 dw1 : Nat) (data : List Byte) (s : State) : State :=
  let s := countDone k st s
  if queueAlive s t.conn then
    emit (.compl { tag := t, sct := st.sct, sc := st.sc, dw0 := dw0, dw1 := dw1, data := data })
      (modConn t.conn (fun c => { c with outst := c.outst.filter fun o => o.cid != t.cid }) s)
  else s

/-- Refuse a BCS command with a status code and a detail (R379). -/
def refuse (t : Tag) (code detail : Nat) (s : State) : State :=
  complete .bcs t stVendor (code + 65536 * detail) 0 [] s

/-- Complete a BCS command with success. -/
def succeed (t : Tag) (dw0 dw1 : Nat) (data : List Byte) (s : State) : State := complete .bcs t stSuccess dw0 dw1 data s

/-- CMD_PARAM (R380). -/
def cCMD_PARAM : Code := 0x2001

end Sys2Proof.Machine
end

