-- ==== Sys2Proof/Machine/Filter.lean ====
section
/-! DEFINITION. Brurevo records (R357, R358), predicate programs and their evaluation (R359, R360), as the stream filter
engines and the SRE run them. -/
namespace Sys2Proof.Machine
open Sys2Proof

/-- IEEE 754 binary64. -/
def fp64 : Fmt := ⟨11, 52⟩

/-- A field of a record: ID, TYPE and value bytes. -/
structure RField where
  id : Nat
  type : Nat
  val : List Byte
  deriving DecidableEq, Repr

/-- LEN that a TYPE allows (R357). -/
def lenOk (type len : Nat) : Bool :=
  if type = 1 ∨ type = 2 ∨ type = 5 then len == 4
  else if type = 3 ∨ type = 4 ∨ type = 6 ∨ type = 7 then len == 8
  else if type = 8 ∨ type = 9 then true
  else type == 0x0A && len % 4 == 0

/-- Fields of a record from offset `off` up to its LENGTH: none where it is malformed (R358). -/
def recFields (b : List Byte) (len : Nat) : Nat → Nat → Option Nat → Option (List RField)
  | 0, _, _ => some []
  | n + 1, off, prev =>
    let type := fld b off 1
    let id := fld b (off + 1) 1
    let l := fld b (off + 2) 2
    if len < off + 4 + roundUp l 4 then none
    else if (match prev with | none => false | some p => decide (id ≤ p)) then none
    else if !lenOk type l then none
    else match recFields b len n (off + 4 + roundUp l 4) (some id) with
      | none => none
      | some fs => some (⟨id, type, slice b (off + 4) l⟩ :: fs)

/-- A record that begins at the first byte: its LENGTH and fields, or malformed (R358). -/
def parseRec (b : List Byte) : Option (Nat × List RField) :=
  let len := fld b 0 4
  if len < 8 ∨ 2 ^ 24 < len ∨ len % 4 ≠ 0 then none
  else match recFields b len (fld b 5 1) 8 none with
    | none => none
    | some fs => some (len, fs)

/-! ### Programs -/

/-- Instructions of a program. -/
def progCount (p : List Byte) : Nat := fld p 2 2
/-- Instruction word `i`. -/
def progWord (p : List Byte) (i : Nat) : Nat := fld p (8 + 8 * i) 8
/-- Constant pool. -/
def progPool (p : List Byte) : List Byte := p.drop (8 + 8 * progCount p)

/-- Constant bytes an instruction reads from the pool lie within it. -/
def constOk (p : List Byte) (op imm : Nat) : Bool :=
  let n := (progPool p).length
  if 2 ≤ op ∧ op ≤ 7 then imm + 8 ≤ n
  else if op = 8 then imm + 16 ≤ n
  else if op = 9 ∨ op = 0x0A then imm + 2 ≤ n && imm + 2 + fld (progPool p) imm 2 ≤ n
  else if op = 0x0B then imm + 4 ≤ n
  else true

/-- An instruction keeps the layout of R359 and the table of R360. -/
def instOk (p : List Byte) (i : Nat) : Bool :=
  let w := progWord p i
  let op := w % 256
  let last := i + 1 == progCount p
  ((1 ≤ op && op ≤ 0x0B) || (0x10 ≤ op && op ≤ 0x12) || op == 0x20)
  && bits w 15 14 == 0 && bits w 31 28 == 0 && (op == 0x20) == last && constOk p op (bits w 63 32)

/-- A program's first offending instruction; none where the program is accepted (R360). -/
def progBad (p : List Byte) : Option Nat :=
  if p.length < 16 ∨ 4096 < p.length ∨ fld p 0 1 ≠ 2 ∨ fld p 1 1 ≠ 0 ∨ fld p 4 4 ≠ 0 ∨ progCount p = 0 ∨ 256 < progCount p
    ∨ p.length < 8 + 8 * progCount p then some 0
  else (List.range (progCount p)).find? fun i => !instOk p i

/-- Order key of a non-NaN FP64 encoding; the two zeros are equal. -/
def key64 (w : Nat) : Int := if bit w 63 then -((w % 2 ^ 63 : Nat) : Int) else ((w % 2 ^ 63 : Nat) : Int)

/-- An FP64 encoding is a NaN. -/
def nan64 (w : Nat) : Bool := match fdec fp64 w with | .nan => true | _ => false

/-- The outcome of comparing a field with an 8-byte constant: the two keys, or none for a NaN or a type not compared. -/
inductive Cmp where
  | keys (a b : Int)
  | unordered
  | wrongType
  deriving DecidableEq, Repr

/-- Compare a field with a constant under the field's own type (R360). -/
def cmpField (f : RField) (c : List Byte) : Cmp :=
  let v := leNat f.val
  let k := leNat c
  if f.type = 1 ∨ f.type = 3 ∨ f.type = 7 then .keys v k
  else if f.type = 2 then .keys (signed 32 v) (signed 64 k)
  else if f.type = 4 then .keys (signed 64 v) (signed 64 k)
  else if f.type = 5 ∨ f.type = 6 then
    let x := if f.type = 5 then fconv fp32 fp64 v else v
    if nan64 x || nan64 k then .unordered else .keys (key64 x) (key64 k)
  else .wrongType

/-- EQ, NE, LT, LE, GT, GE by operation code 2 to 7. -/
def cmpOp (op : Nat) : Cmp → Bool
  | .keys a b => if op = 2 then a == b else if op = 3 then a != b else if op = 4 then decide (a < b)
    else if op = 5 then decide (a ≤ b) else if op = 6 then decide (b < a) else decide (b ≤ a)
  | .unordered => op == 3
  | .wrongType => false

/-- The value an instruction gives its condition register. -/
def instVal (p : List Byte) (fs : List RField) (cr : List Bool) (w : Nat) : Bool :=
  let op := w % 256
  let imm := bits w 63 32
  let pool := progPool p
  let fo := fs.find? fun f => f.id == bits w 13 8
  let a := cr.getD (bits w 23 20) false
  let b := cr.getD (bits w 27 24) false
  if op = 0x10 then a && b
  else if op = 0x11 then a || b
  else if op = 0x12 then !a
  else match fo with
    | none => false
    | some f =>
      if op = 1 then true
      else if 2 ≤ op ∧ op ≤ 7 then cmpOp op (cmpField f (slice pool imm 8))
      else if op = 8 then cmpOp 7 (cmpField f (slice pool imm 8)) && cmpOp 5 (cmpField f (slice pool (imm + 8) 8))
      else if op = 9 ∨ op = 0x0A then
        let s := slice pool (imm + 2) (fld pool imm 2)
        (f.type == 8 || f.type == 9) && (if op = 9 then f.val == s else f.val.take s.length == s)
      else if op = 0x0B then
        f.type == 0x0A && (List.range (f.val.length / 4)).any fun i => slice f.val (4 * i) 4 == slice pool imm 4
      else false

/-- Run instructions in order; the verdict is what RESULT reads. -/
def progRun (p : List Byte) (fs : List RField) : Nat → Nat → List Bool → Bool
  | 0, _, _ => false
  | n + 1, i, cr =>
    let w := progWord p i
    if w % 256 = 0x20 then cr.getD (bits w 23 20) false
    else progRun p fs n (i + 1) (cr.set (bits w 19 16) (instVal p fs cr w))

/-- Verdicts (R358, R360). -/
inductive FilterV where
  | pass
  | fail
  | error
  deriving DecidableEq, Repr

/-- Evaluate a program on a record. -/
def filterRec (p b : List Byte) : FilterV :=
  match parseRec b with
  | none => .error
  | some (_, fs) => if progRun p fs (progCount p) 0 (List.replicate 16 false) then .pass else .fail

/-- A record of the fields that a mask keeps (KEEP_MASK of R308 and R361). -/
def keepRec (mask : Nat) (fs : List RField) : List Byte :=
  let kept := fs.filter fun f => bit mask f.id
  let body := kept.flatMap fun f => leBytes 1 f.type ++ leBytes 1 f.id ++ leBytes 2 f.val.length ++ padTo (roundUp f.val.length 4) f.val
  leBytes 4 (8 + body.length) ++ leBytes 1 2 ++ leBytes 1 kept.length ++ leBytes 2 0 ++ body

end Sys2Proof.Machine
end

