-- ==== Sys2Proof/Machine/SreMath.lean ====
section
/-! DEFINITION. Vectors, distances and the graph of an index (R117, R118, R289 to R293, R299, R300). -/
namespace Sys2Proof.Machine
open Sys2Proof

/-! ### Arithmetic -/

/-- ⌊√n⌋, bit by bit. -/
def isqrt (n : Nat) : Nat :=
  (List.range (Nat.log2 n / 2 + 1)).reverse.foldl (fun r b => if (r + 2 ^ b) * (r + 2 ^ b) ≤ n then r + 2 ^ b else r) 0

/-- Square root rounded once to a format. -/
def fvSqrt (f : Fmt) : FVal → Nat
  | .nan => f.nanCode
  | .inf true => f.nanCode
  | .inf false => f.infCode
  | .fin neg m e =>
    if m = 0 then fround f neg 0 0
    else if neg then f.nanCode
    else
      let k := 2 * (f.mb + 4) + (if (e % 2) = 0 then 0 else 1)
      let n := m <<< k
      let r := isqrt n
      fround f false (2 * r + b2n (r * r != n)) ((e - k) / 2 - 1)

/-- Sum of a row by the fixed tree (R191). -/
def treeSum : Nat → List Nat → Nat
  | 0, _ => 0
  | _, [] => 0
  | _, [x] => x
  | fuel + 1, xs =>
    let h := 2 ^ (clog2 xs.length - 1)
    fadd (treeSum fuel (xs.take h)) (treeSum fuel (xs.drop h))

/-- The tree over a list. -/
def tree (xs : List Nat) : Nat := treeSum xs.length xs

/-- Exact value of an integer. -/
def fvInt (i : Int) : FVal := .fin (decide (i < 0)) i.natAbs 0
/-- rne64 of an exact value. -/
def r64 (v : FVal) : FVal := fdec fp64 (fenc fp64 v)

/-! ### Vector forms (R117, R118) -/

/-- Padded bytes of a stored vector. -/
def vecBytes (e16 : Bool) (d : Nat) : Nat := roundUp (if e16 then 2 * d else d + 4) 64

/-- Signed elements of an E8 vector. -/
def e8Ints (d : Nat) (b : List Byte) : List Int := (List.range d).map fun i => signed 8 (fld b i 1)
/-- Scale of an E8 vector. -/
def e8Scale (d : Nat) (b : List Byte) : Nat := fld b d 4

/-- FP32 values of a vector given in FP32 (5), E8 (8) or E16 (9). -/
def vecVals (fmt d : Nat) (b : List Byte) : List Nat :=
  if fmt = 5 then (List.range d).map fun i => fld b (4 * i) 4
  else if fmt = 8 then (e8Ints d b).map fun i => fmul (fofInt i) (e8Scale d b)
  else (List.range d).map fun i => bfTo32 (fld b (2 * i) 2)

/-- The bound that R107 puts on A. -/
def boundA (a : Nat) : Nat :=
  if flt a 0x1F800000 then 0x1F800000 else if flt 0x7F7FFFFF a then 0x7F7FFFFF else a

/-- Narrow one element: the stored integer and whether it saturated (R107). -/
def narrowEl (q inv x : Nat) : Int × Bool :=
  let v := fnearest (fmul x inv)
  if (q : Int) < v then (q, true) else if v < -(q : Int) then (-(q : Int), true) else (v, false)

/-- E8 form of a vector (R118). -/
def toE8 (vs : List Nat) : List Byte :=
  let m := vs.foldl fmaxAbs 0
  if vs.all fun v => v % 2 ^ 31 = 0 then padTo (roundUp (vs.length + 4) 64) []
  else
    let inv := fdiv (fofInt 127) (boundA m)
    let el (x : Nat) : Nat := if isFin x && isFin m then toBits 8 (narrowEl 127 inv x).1 else Config.e8Free x % 256
    padTo (roundUp (vs.length + 4) 64) ((vs.map fun x => BitVec.ofNat 8 (el x)) ++ leBytes 4 (fdiv m (fofInt 127)))

/-- E16 form of a vector (R105). -/
def toE16 (vs : List Nat) : List Byte :=
  padTo (roundUp (2 * vs.length) 64) (vs.flatMap fun x => leBytes 2 (fconv fp32 bf16 x))

/-- A vector in the ELEMENT form of an index: kept where it is in that form, else converted through FP32 (R289). -/
def toElement (e16 : Bool) (fmt d : Nat) (b : List Byte) : List Byte :=
  if fmt = (if e16 then 9 else 8) then padTo (vecBytes e16 d) (b.take (vecBytes e16 d))
  else if e16 then toE16 (vecVals fmt d b) else toE8 (vecVals fmt d b)

/-! ### Exact distance (R289) -/

/-- Σ of products of integers. -/
def dotInt (a b : List Int) : Int := (List.zipWith (· * ·) a b).sum

/-- FP32 rounding of an exact value, at least 0. -/
def max0 (v : FVal) : FVal := match v with | .fin true _ _ => .fin false 0 0 | .inf true => .fin false 0 0 | x => x

/-- Exact distance of two E8 vectors. -/
def distE8 (metric d : Nat) (qb vb : List Byte) : Nat :=
  let q := e8Ints d qb
  let v := e8Ints d vb
  let sq := fdec fp32 (e8Scale d qb)
  let sv := fdec fp32 (e8Scale d vb)
  let i := dotInt q v
  let qq := dotInt q q
  let vv := dotInt v v
  let p := r64 (fvMul sq sv)
  if metric = 1 then fenc fp32 (fvNeg (r64 (fvMul p (fvInt i))))
  else if metric = 2 then
    let a := r64 (fvMul (fvMul sq sq) (fvInt qq))
    let b := r64 (fvMul p (fvInt (2 * i)))
    let c := r64 (fvMul (fvMul sv sv) (fvInt vv))
    fenc fp32 (max0 (r64 (fvAdd (r64 (fvAdd a (fvNeg b))) c)))
  else if qq * vv = 0 then fpOne
  else
    let root := fdec fp64 (fvSqrt fp64 (r64 (fvInt (qq * vv))))
    let c := fdec fp64 (fvDiv fp64 (fvInt i) root)
    fenc fp32 (r64 (fvAdd (fvInt 1) (fvNeg c)))

/-- rne32((a − b)²). -/
def sqDiff (a b : Nat) : Nat :=
  let e := fvAdd (fdec fp32 a) (fvNeg (fdec fp32 b))
  fenc fp32 (fvMul e e)

/-- Exact distance of two E16 vectors, given as FP32 values. -/
def distE16 (metric : Nat) (q v : List Nat) : Nat :=
  let dot (a b : List Nat) := tree (List.zipWith fmul a b)
  if metric = 1 then fneg (dot q v)
  else if metric = 2 then tree (List.zipWith sqDiff q v)
  else
    let qq := dot q q
    let vv := dot v v
    if qq % 2 ^ 31 = 0 ∨ vv % 2 ^ 31 = 0 then fpOne
    else fsub fpOne (fdiv (dot q v) (fvSqrt fp32 (fdec fp32 (fmul qq vv))))

/-- Exact distance between two vectors in the ELEMENT form of an index. -/
def exactDist (c : IdxCfg) (q v : List Byte) : Nat :=
  if c.e16 then distE16 c.metric (vecVals 9 c.dim q) (vecVals 9 c.dim v) else distE8 c.metric c.dim q v

/-- Order key of a distance: numbers in their order, the two zeros equal; a NaN's place is free. -/
def distKey (w : Nat) : Int :=
  if isNaN w then Config.nanKey w
  else if bit w 31 then -((w % 2 ^ 31 : Nat) : Int) else ((w % 2 ^ 31 : Nat) : Int)

/-! ### Code distance (R290, R291) -/

/-- Values of centroid `x` of subspace `j`. -/
def centroid (c : IdxCfg) (j x : Nat) : List Nat :=
  let n := c.dim / max c.m 1
  (List.range n).map fun i => bfTo32 (fld c.codebook (((j * 256 + x) * n + i) * 2) 2)

/-- A vector divided by its norm. -/
def normalise (vs : List Nat) : List Nat :=
  let n := fvSqrt fp32 (fdec fp32 (tree (List.zipWith fmul vs vs)))
  if n % 2 ^ 31 = 0 then (List.range vs.length).map Config.zeroNorm else vs.map fun v => fdiv v n

/-- Table T of a query's values (R290). -/
def tabT (c : IdxCfg) (q : List Nat) : List (List Nat) :=
  let q := if c.metric = 3 then normalise q else q
  let n := c.dim / max c.m 1
  (List.range c.m).map fun j =>
    let qj := (q.drop (j * n)).take n
    (List.range 256).map fun x =>
      if c.metric = 2 then tree (List.zipWith sqDiff qj (centroid c j x))
      else fneg (tree (List.zipWith fmul qj (centroid c j x)))

/-- Smallest of a row. -/
def rowMin (r : List Nat) : Nat := r.foldl (fun m x => if flt x m then x else m) (r.headD 0)

/-- Table u of 16-bit integers (R290). -/
def tabU (c : IdxCfg) (q : List Nat) : List (List Nat) :=
  let u := (tabT c q).map fun r => let m := rowMin r; r.map fun x => fsub x m
  let a := u.foldl (fun m r => r.foldl fmax m) 0
  let k := fdiv (fofInt 65535) a
  u.map fun r => r.map fun x => if a % 2 ^ 31 = 0 then 0 else (fnearest (fmul x k)).toNat

/-- Code distance of a code under a table. -/
def codeDist (u : List (List Nat)) (code : List Nat) : Nat := (List.zipWith (fun r x => r.getD x 0) u code).sum

/-- Code of a vector: the nearest centroid of each subspace, ties to the lower (R291). -/
def encodeVec (c : IdxCfg) (vals : List Nat) : List Nat :=
  (tabT c vals).map fun r => r.findIdx fun x => !(r.any fun y => flt y x)

/-- A vector reconstructed from its code. -/
def reconstruct (c : IdxCfg) (code : List Nat) : List Nat := (code.zipIdx.map fun p => centroid c p.2 p.1).flatten

/-! ### Traversal (R292) -/

/-- A node is visible at epoch `q`. -/
def GNode.visible (n : GNode) (q : Nat) : Bool := n.ins ≤ q
/-- A node is live at epoch `q`. -/
def GNode.live (n : GNode) (q : Nat) : Bool := n.visible q && (match n.del with | none => true | some d => decide (q < d))
/-- Newest version with epoch at most `q`. -/
def versionAt {α : Type} (vs : List (Nat × α)) (q : Nat) : Option α := (vs.find? fun v => v.1 ≤ q).map Prod.snd
/-- Neighbours of a node at epoch `q`. -/
def GNode.nbrs (n : GNode) (q : Nat) : List Nat := (versionAt n.lists q).getD []

/-- An entry of the candidate list. -/
structure Cand where
  cd : Nat
  id : Nat
  done : Bool
  deriving DecidableEq, Repr

/-- Insert in the order of (cd, local ID). -/
def insCand (c : Cand) : List Cand → List Cand
  | [] => [c]
  | x :: xs => if c.cd < x.cd ∨ (c.cd = x.cd ∧ c.id < x.id) then c :: x :: xs else x :: insCand c xs

/-- A walk: candidate list, visited set, code distances computed. -/
structure Walk where
  list : List Cand
  seen : List Nat
  evals : Nat
  deriving DecidableEq, Repr

/-- Visit the neighbours of an expanded node. -/
def walkNbrs (nodes : SMap GNode) (u : List (List Nat)) (q l : Nat) : List Nat → Walk → Walk
  | [], w => w
  | n :: ns, w =>
    match smFind nodes n with
    | none => walkNbrs nodes u q l ns w
    | some g =>
      if w.seen.contains n || !g.visible q then walkNbrs nodes u q l ns w
      else walkNbrs nodes u q l ns { list := (insCand ⟨codeDist u g.code, n, false⟩ w.list).take l, seen := n :: w.seen, evals := w.evals + 1 }

/-- Expand the first entry not yet expanded, until none is left: at most one expansion a node. -/
def walkLoop (nodes : SMap GNode) (u : List (List Nat)) (q l : Nat) : Nat → Walk → Walk
  | 0, w => w
  | fuel + 1, w =>
    match w.list.find? fun c => !c.done with
    | none => w
    | some p =>
      let w := { w with list := w.list.map fun c => if c.id = p.id then { c with done := true } else c }
      walkLoop nodes u q l fuel (walkNbrs nodes u q l (((smFind nodes p.id).map fun g => g.nbrs q).getD []) w)

/-- The traversal of R292 from an entry point. -/
def walk (nodes : SMap GNode) (entry : Option Nat) (u : List (List Nat)) (q l : Nat) : Walk :=
  match entry with
  | none => ⟨[], [], 0⟩
  | some e => match smFind nodes e with
    | none => ⟨[], [], 0⟩
    | some g =>
      if !g.visible q then ⟨[], [], 0⟩
      else walkLoop nodes u q l (nodes.length + 1) ⟨[⟨codeDist u g.code, e, false⟩], [e], 1⟩

/-! ### Pruning and insertion (R299) -/

/-- ALPHA × a ≤ b, exactly. -/
def alphaLe (alpha a b : Nat) : Bool :=
  match fdec fp32 alpha with
  | .fin false m e => if 0 ≤ e then decide ((m <<< e.toNat) * a ≤ b) else decide (m * a ≤ b <<< (-e).toNat)
  | _ => decide (a ≤ b)

/-- Choose neighbours from candidates in ascending (cd, ID). -/
def pruneLoop (c : IdxCfg) (nodes : SMap GNode) : Nat → Nat → List Cand → List Nat
  | 0, _, _ => []
  | _, 0, _ => []
  | fuel + 1, room + 1, cs =>
    match cs with
    | [] => []
    | p :: rest =>
      let up := tabU c (reconstruct c (((smFind nodes p.id).map (·.code)).getD []))
      let keep := rest.filter fun x =>
        !alphaLe c.alpha (codeDist up (((smFind nodes x.id).map (·.code)).getD [])) x.cd
      p.id :: pruneLoop c nodes fuel room keep

/-- Prune a candidate set for an owner whose table is `u`. -/
def prune (c : IdxCfg) (nodes : SMap GNode) (u : List (List Nat)) (ids : List Nat) : List Nat :=
  let cs := ids.foldl (fun l i => match smFind nodes i with
    | none => l
    | some g => if l.any (·.id == i) then l else insCand ⟨codeDist u g.code, i, false⟩ l) []
  pruneLoop c nodes cs.length c.degree cs

/-- Give a node a new version of its list at epoch `e`. -/
def newList (e : Nat) (l : List Nat) (g : GNode) : GNode :=
  { g with lists := (e, l) :: g.lists.filter fun v => v.1 != e }

/-- Append `x` to a neighbour's list, pruned where it would exceed DEGREE (R299). -/
def backLink (c : IdxCfg) (e x : Nat) (nodes : SMap GNode) (n : Nat) : SMap GNode :=
  match smFind nodes n with
  | none => nodes
  | some g =>
    let l := g.nbrs e ++ [x]
    let l := if l.length ≤ c.degree then l else prune c nodes (tabU c (reconstruct c g.code)) l
    smSet nodes n (newList e l g)

/-- Insert a vector as a node at epoch `e` (R299): the nodes and the entry point. -/
def insertNode (c : IdxCfg) (e id slot : Nat) (vals : List Nat) (nodes : SMap GNode) (entry : Option Nat) : SMap GNode × Option Nat :=
  let u := tabU c vals
  let w := walk nodes entry u e c.buildL
  let chosen := pruneLoop c nodes w.list.length c.degree w.list
  let nodes := smSet nodes id { code := encodeVec c vals, ins := e, del := none, lists := [(e, chosen)], slots := [(e, slot)] }
  (chosen.foldl (backLink c e id) nodes, match entry with | none => some id | some x => some x)

/-! ### Compaction (R300) -/

/-- A node is dropped by a snapshot at epoch `s`. -/
def GNode.dropped (n : GNode) (s : Nat) : Bool := match n.del with | none => false | some d => decide (d ≤ s)

/-- The list of a kept node at `s` with each dropped neighbour replaced by that neighbour's own neighbours, pruned by R299. -/
def reconnect (c : IdxCfg) (nodes : SMap GNode) (s : Nat) (id : Nat) (g : GNode) : List Nat :=
  let l := g.nbrs s
  let gone (i : Nat) : Bool := match smFind nodes i with | none => true | some n => n.dropped s
  if l.any gone then
    let cand := l.flatMap fun i => if gone i then ((smFind nodes i).map fun n => n.nbrs s).getD [] else [i]
    prune c nodes (tabU c (reconstruct c g.code)) (cand.filter fun i => !gone i && i != id)
  else l

/-- The graph of the new snapshot at epoch `s`: versions after `s` stay (R300, R318). -/
def compactNodes (c : IdxCfg) (nodes : SMap GNode) (s : Nat) : SMap GNode :=
  (nodes.filter fun e => !e.2.dropped s).map fun e =>
    (e.1, { e.2 with lists := (e.2.lists.filter fun v => s < v.1) ++ (if e.2.ins ≤ s then [(s, reconnect c nodes s e.1 e.2)] else [])
                     slots := (e.2.slots.filter fun v => s < v.1) ++ ((versionAt e.2.slots s).toList.map fun x => (s, x)) })

/-- Lowest live local ID at an epoch. -/
def lowestLive (nodes : SMap GNode) (q : Nat) : Option Nat := (nodes.find? fun e => e.2.live q).map Prod.fst

end Sys2Proof.Machine
end

