-- ==== Sys2Proof/Machine/SreBase.lean ====
section
/-! DEFINITION. Indexes and queries: states, results and their layout (R307, R313, R314), and how a query ends. -/
namespace Sys2Proof.Machine
open Sys2Proof

/-- An index. -/
def idx? (s : State) (n : Nat) : Option Index := smFind s.sre.idx n

/-- Change an index. -/
def modIdx (n : Nat) (f : Index → Index) (s : State) : State := modSre (fun x => { x with idx := smMod x.idx n f }) s

/-- State of an index now: LOADING ends at its fabric time (R317). -/
def idxState (s : State) (i : Index) : IdxSt :=
  match i.st with
  | .loading t => if now s < t then .loading t else .ready
  | x => x

/-- What refuses a query on an index: IDX_UNKNOWN, IDX_NOT_READY or IDX_DAMAGED (R297, R306, R316). -/
def idxRefusal (s : State) (n : Nat) : Option Code :=
  match idx? s n with
  | none => some 0xB005
  | some i =>
    if i.drop.isSome then some 0xB005
    else match idxState s i with
      | .loading _ => some 0xB006
      | .damaged => some 0xB007
      | _ => none

/-- Queries in flight. -/
def queriesOpen (s : State) : Nat := (s.sre.queries.filter fun e => e.2.opened.isSome).length
/-- Queries queued. -/
def queriesQueued (s : State) : Nat := (s.sre.queries.filter fun e => e.2.opened.isNone).length
/-- Queries in flight on an index. -/
def idxQueries (s : State) (n : Nat) : Nat :=
  (s.sre.queries.filter fun e => e.2.opened.isSome && e.2.parm.index == n && !e.2.ownDone).length

/-- Live and tombstoned IDs of an index, and of all. -/
def totalIds (s : State) : Nat := (s.sre.idx.map fun e => e.2.nodes.length).sum

/-- Global ID (R286). -/
def globalId (i : Index) (id : Nat) : Nat := i.cfg.shard * 2 ^ 32 + id

/-! ### Results (R307) -/

/-- A result. -/
structure QResult where
  status : Nat
  flags : Nat
  rounds : Nat
  epoch : Nat
  snapshot : Nat
  passed : Nat
  members : Nat
  memberStatus : Nat
  reads : Nat
  missing : Nat
  entries : List (Nat × Nat)
  deriving DecidableEq, Repr

/-- A result with no entries. -/
def QResult.empty (status : Nat) : QResult :=
  { status := status, flags := 0, rounds := 0, epoch := 0, snapshot := 0, passed := 0, members := 1, memberStatus := 0, reads := 0,
    missing := 0, entries := [] }

/-- A field in little-endian or network byte order. -/
def ordBytes (be : Bool) (n v : Nat) : List Byte := if be then beBytes n v else leBytes n v
/-- Read such a field. -/
def ordFld (be : Bool) (b : List Byte) (off n : Nat) : Nat := if be then fldBE b off n else fld b off n

/-- The bytes of a result for K entries: little-endian, or in network byte order for a Strait message (R307, R314). -/
def QResult.bytes (r : QResult) (be : Bool) (k : Nat) : List Byte :=
  leBytes 1 2 ++ leBytes 1 r.flags ++ ordBytes be 2 r.status ++ ordBytes be 2 r.entries.length ++ leBytes 1 r.rounds ++ leBytes 1 0
  ++ ordBytes be 8 r.epoch ++ ordBytes be 8 r.snapshot ++ ordBytes be 4 r.passed ++ ordBytes be 2 r.members
  ++ ordBytes be 2 r.memberStatus ++ ordBytes be 4 r.reads ++ List.replicate 28 0 ++ ordBytes be 32 r.missing
  ++ padTo (16 * k) (r.entries.flatMap fun e => ordBytes be 6 e.1 ++ [0, 0] ++ ordBytes be 4 e.2 ++ [0, 0, 0, 0])

/-- A result read from bytes. -/
def QResult.parse (be : Bool) (b : List Byte) : QResult :=
  { status := ordFld be b 2 2, flags := fld b 1 1, rounds := fld b 6 1, epoch := ordFld be b 8 8, snapshot := ordFld be b 16 8,
    passed := ordFld be b 24 4, members := ordFld be b 28 2, memberStatus := ordFld be b 30 2, reads := ordFld be b 32 4,
    missing := ordFld be b 64 32,
    entries := (List.range (ordFld be b 4 2)).map fun i => (ordFld be b (96 + 16 * i) 6, ordFld be b (96 + 16 * i + 8) 4) }

/-- Take a query off. -/
def delQuery (job : Nat) (s : State) : State := modSre (fun x => { x with queries := smDel x.queries job }) s

/-- Count a completed query and send its result where it came from (R183, R311, R322, R383). -/
def deliver (job : Nat) (q : Query) (r : QResult) (s : State) : State :=
  let s := cntAdd 0xB0 0x800 1 (delQuery job s)
  let s := if bit r.flags 0 then cntAdd 0xB0 0x808 1 s else s
  let s := if bit r.flags 1 then cntAdd 0xB0 0x810 1 s else s
  match q.origin with
  | .host t => succeed t r.status 0 (r.bytes false q.parm.k) s
  | .core k ctx step dst _ grp =>
    match ctx? s ctx with
    | none => s
    | some c =>
      if c.stepNo ≠ step ∨ c.step.isNone then s
      else completeGroup k ctx grp (writeWin k ctx dst (r.bytes false q.parm.k) s).2
  | .member g m tag =>
    match slotOfGroup s g with
    | none => s
    | some n => sendMsg n m 3 tag (r.bytes true q.parm.k) none s

/-- Insert a merged entry in ascending (distance, global ID). -/
def insEntry (e : Nat × Nat) : List (Nat × Nat) → List (Nat × Nat)
  | [] => [e]
  | x :: xs =>
    if distKey e.2 < distKey x.2 ∨ (distKey e.2 = distKey x.2 ∧ e.1 < x.1) then e :: x :: xs else x :: insEntry e xs

/-- Keep the first of equal global IDs; whether one was dropped (R313). -/
def dedupe : List (Nat × Nat) → List Nat → List (Nat × Nat) × Bool
  | [], _ => ([], false)
  | e :: es, seen =>
    if seen.contains e.1 then ((dedupe es seen).1, true)
    else let (l, d) := dedupe es (e.1 :: seen); (e :: l, d)

/-- The merged result (R313), and whether MERGE_DUP is recorded. -/
def mergeResult (q : Query) (m : Merge) : QResult × Bool :=
  let rs := m.got.map fun e => (e.1, QResult.parse false e.2)
  let good := rs.filter fun e => e.2.status == 0 || e.2.status == 0xB002
  let bad := rs.filter fun e => !(e.2.status == 0 || e.2.status == 0xB002)
  let missing := m.skipped ++ m.members.filter fun i => !(good.any fun e => e.1 == i)
  let all := (good.flatMap fun e => e.2.entries).foldl (fun l e => insEntry e l) []
  let (uniq, dup) := dedupe all []
  let out := uniq.take q.parm.k
  let part := !missing.isEmpty
  let short := decide (out.length < q.parm.k)
  let exp := good.any fun e => bit e.2.flags 2
  ({ status := if part then 0xB001 else if short then 0xB002 else 0
     flags := b2n short + 2 * b2n part + 4 * b2n exp + 8
     rounds := good.foldl (fun a e => max a e.2.rounds) 0
     epoch := (((good.find? fun e => some e.1 == m.members.head?).map fun e => e.2.epoch).getD 0)
     snapshot := (((good.find? fun e => some e.1 == m.members.head?).map fun e => e.2.snapshot).getD 0)
     passed := (good.map fun e => e.2.passed).sum, members := m.members.length
     memberStatus := (bad.head?.map fun e => e.2.status).getD 0
     reads := (good.map fun e => e.2.reads).sum, missing := (missing.map fun i => 2 ^ i).sum, entries := out }, dup)

/-- Form the merged result and deliver it (R312, R313). -/
def mergeDone (job : Nat) (q : Query) (m : Merge) (s : State) : State :=
  let (r, dup) := mergeResult q m
  deliver job q r (if dup then advisory 0xB0 4 0xB019 0 0 s else s)

/-- A member's result arrives: the merge completes once every member has answered (R312). -/
def mergeGot (job : Nat) (mem : Nat) (b : List Byte) (s : State) : State :=
  match smFind s.sre.queries job with
  | none => s
  | some q => match q.merge with
    | none => s
    | some m =>
      let m := { m with got := smSet m.got mem b }
      if m.members.all fun i => (smFind m.got i).isSome then mergeDone job q m s
      else modSre (fun x => { x with queries := smSet x.queries job { q with merge := some m } }) s

/-- A query's own result is formed: delivered, or the merger's own share of a merge (R311). The merger's own member number is
the first of the list. -/
def finishQuery (job : Nat) (r : QResult) (s : State) : State :=
  match smFind s.sre.queries job with
  | none => s
  | some q => match q.merge with
    | none => deliver job q r s
    | some m =>
      let s := modSre (fun x => { x with queries := smSet x.queries job { q with ownDone := true } }) s
      mergeGot job (m.members.headD 0) (r.bytes false q.parm.k) s

/-- The source bit of the SRE page that a query or ingest fault is recorded under (R321, R529). -/
def sreBit (code : Nat) : Nat := if code = 0xB015 then 1 else if code = 0xB007 then 2 else 0

/-- A query aborts on a job fault: one JOB record, and a result with STATUS the fault's code and COUNT 0 ("Faults, resets and
meetings" of 10). `d1` is the local ID of IDX_VECTOR_LOST. -/
def abortQuery (job code d1 : Nat) (s : State) : State :=
  match smFind s.sre.queries job with
  | none => s
  | some q =>
    let s := jobErr 0xB0 (sreBit code) code (.query job) q.parm.index d1 false s
    let ep := (q.opened.map Prod.fst).getD 0
    let sn := ((idx? s q.parm.index).map (·.snapshot)).getD 0
    finishQuery job { QResult.empty code with epoch := ep, snapshot := sn } s

/-- End a query, merged or not, with a status and no entries. -/
def endQuery (job code : Nat) (s : State) : State :=
  match smFind s.sre.queries job with
  | none => s
  | some q => deliver job q (QResult.empty code) s

end Sys2Proof.Machine
end

