-- ==== Sys2Proof/Machine/CtxOps.lean ====
section
/-! DEFINITION. Contexts: extents and frames of their shares (R59, R60, R266 to R269), sequences and cache pages (R66 to R72,
R268), how a step is aborted (R88) and how a share is freed (R62). -/
namespace Sys2Proof.Machine
open Sys2Proof

/-! ### Islands -/

/-- Core bitmap of an island. -/
def islandMap (s : State) (i : Nat) : Nat := smGet 0 s.islands i
/-- Cores of an island, lowest first. -/
def islandCores (s : State) (i : Nat) : List Nat := setBits (islandMap s i) 48
/-- The island that a core is bound to. -/
def coreIsland (s : State) (k : Nat) : Option Nat := (s.islands.find? fun e => bit e.2 k).map Prod.fst

/-- A context has a receive parked (R87). -/
def Ctx.parked (c : Ctx) : Bool := c.save.any fun e => e.2.parked

/-- An island is busy: a step running, a step pre-empted or a receive parked (R64). -/
def islandBusy (s : State) (i : Nat) : Bool := s.ctxs.any fun e => e.2.island == i && (e.2.step.isSome || e.2.parked)

/-- Resident contexts of an island. -/
def islandCtxs (s : State) (i : Nat) : List (Nat × Ctx) := s.ctxs.filter fun e => e.2.island == i

/-! ### Extents of SRAM -/

/-- Insert an extent in ascending order of base. -/
def insExt (e : Nat × Nat) : List (Nat × Nat) → List (Nat × Nat)
  | [] => [e]
  | x :: xs => if e.1 ≤ x.1 then e :: x :: xs else x :: insExt e xs

/-- Free extents of a range given the ascending extents in use. -/
def gaps : List (Nat × Nat) → Nat → Nat → List (Nat × Nat)
  | [], lo, hi => if lo < hi then [(lo, hi - lo)] else []
  | (b, l) :: xs, lo, hi => (if lo < b then [(lo, b - lo)] else []) ++ gaps xs (max lo (b + l)) hi

/-- Take `n` KiB from free extents, lowest first. DESIGN CHOICE (log entry 18). -/
def takeExt : List (Nat × Nat) → Nat → List (Nat × Nat)
  | [], _ => []
  | (b, l) :: xs, n => if n = 0 then [] else if n ≤ l then [(b, n)] else (b, l) :: takeExt xs (n - l)

/-- KiB of an extent list. -/
def extKib (l : List (Nat × Nat)) : Nat := (l.map Prod.snd).sum

/-- Scratchpad extents in use by contexts. -/
def scratchUsed (s : State) : List (Nat × Nat) := (s.ctxs.flatMap fun e => e.2.scratch).foldr insExt []
/-- Core-local extents in use on an island's cores. -/
def localUsed (s : State) (i : Nat) : List (Nat × Nat) := ((islandCtxs s i).flatMap fun e => e.2.localEx).foldr insExt []
/-- KiB of scratchpad for contexts: all but the SRE's 16 MiB and the Atoll (R60). -/
def scratchKibMax (s : State) : Nat := 49152 - 1024 * s.ocm.atoll
/-- Scratchpad extents that admission counts as not free: those in use, and OFF banks (R231). -/
def scratchTaken (s : State) : List (Nat × Nat) :=
  (s.ocm.spadPwr.filter fun e => e.2 == 2).foldr (fun e l => insExt (1024 * e.1, 1024) l) (scratchUsed s)
/-- Free scratchpad extents: KiB 16,384 up to the Atoll. -/
def scratchFree (s : State) : List (Nat × Nat) := gaps (scratchTaken s) 16384 (65536 - 1024 * s.ocm.atoll)

/-! ### Frames -/

/-- Save-area bytes of the contexts resident on their islands (R59). -/
def saveBytes (s : State) : Nat := (s.ctxs.map fun e => (islandCores s e.2.island).length * 98304).sum
/-- Frames of the save areas. -/
def saveFrames (bytes : Nat) : Nat := cdiv bytes frameBytes
/-- General frames that may be allocated (R282). -/
def generalFrames : Nat := 227816
/-- General frames allocated to nothing (COMPASS_FRAMES_FREE). -/
def framesFree (s : State) : Nat := generalFrames - s.compass.frames.length - saveFrames (saveBytes s)

/-- The `n` lowest frame numbers not in the ascending list, from `f` up. -/
def lowFrames : Nat → List Nat → Nat → List Nat
  | 0, _, _ => []
  | n + 1, [], f => f :: lowFrames n [] (f + 1)
  | n + 1, u :: us, f => if u = f then lowFramesSkip (n + 1) us (f + 1) else f :: lowFrames n (u :: us) (f + 1)
where
  /-- Skip frames in use. -/
  lowFramesSkip : Nat → List Nat → Nat → List Nat
  | n, [], f => (List.range n).map (f + ·)
  | n, u :: us, f => if u = f then lowFramesSkip n us (f + 1)
    else ((List.range (min n (u - f))).map (f + ·)) ++ lowFramesSkip (n - (u - f)) us (u + 1)

/-- Allocate and zero `n` frames for an owner, lowest first (R269). DESIGN CHOICE (log entry 18). -/
def takeFrames (n owner : Nat) (s : State) : List Nat × State :=
  let fs := lowFrames n (s.compass.frames.map Prod.fst) 0
  let s := modCompass (fun c => { c with frames := fs.foldl (fun m f => smSet m f owner) c.frames }) s
  (fs, fs.foldl (fun s f => xmZero (f * frameBytes) frameBytes s) s)

/-- Free every frame of an owner. -/
def freeFrames (owner : Nat) (s : State) : State :=
  modCompass (fun c => { c with frames := c.frames.filter fun e => e.2 != owner }) s

/-! ### Cache pool and sequences -/

/-- Slots of a context's pool that hold a page (R268). -/
def Ctx.usedSlots (c : Ctx) : List Nat :=
  c.seqs.flatMap fun e => e.2.pages.filterMap fun p => match p.2.at_ with
    | .slot n => some n
    | .demoting n => some n
    | .fetching n _ => some n
    | .absent _ => none

/-- Slots holding no page. -/
def Ctx.freeSlots (c : Ctx) : Nat := c.poolSlots - c.usedSlots.length

/-- The lowest free slot. -/
def Ctx.pickSlot (c : Ctx) : Nat :=
  let u := c.usedSlots
  ((List.range (u.length + 1)).find? fun n => !u.contains n).getD 0

/-- Pages demoted to flash. -/
def Ctx.absentPages (c : Ctx) : Nat :=
  (c.seqs.map fun e => (e.2.pages.filter fun p => match p.2.at_ with | .absent _ => true | .fetching .. => true | _ => false).length).sum

/-- Backing of a sequence of a maximum length, in bytes (R66). -/
def Pkg.backing (p : Pkg) (maxLen : Nat) : Nat := cdiv maxLen 64 * p.layers * (cdiv p.pageBytes 16384 * 16384)

/-- Backing committed to a context's sequences. -/
def Ctx.committed (c : Ctx) : Nat := (c.seqs.map fun e => c.pkg.backing e.2.maxLen).sum

/-- Pages that hold positions `pos` to `pos + n - 1` and that the sequence does not own yet, over all layers (R68). -/
def newPages (c : Ctx) (q : Seq) (n : Nat) : List (Nat × Nat) :=
  if c.pkg.kvHeads = 0 ∨ n = 0 then []
  else
    let ps := (List.range (cdiv (q.pos + n) 64)).filter fun p => q.pos / 64 ≤ p
    (List.range c.pkg.layers).flatMap fun l => (ps.filter fun p => (smFind q.pages (pageKey l p)).isNone).map fun p => (l, p)

/-- Absent pages of a sequence, by key. -/
def absentOf (q : Seq) : List Nat :=
  q.pages.filterMap fun p => match p.2.at_ with | .absent _ => some p.1 | _ => none

/-- Positions a sequence consumes in its next step (R72). -/
def consumes (c : Ctx) (q : Seq) : Nat := if q.prompt.isEmpty then 1 else min c.pkg.chunk q.prompt.length

/-- Free a sequence's entry, with its pages and backing. -/
def freeSeq (ctx sq : Nat) (s : State) : State := modCtx ctx (fun c => { c with seqs := smDel c.seqs sq }) s

/-- Sequence Leave's effect on an entry (R67): whether it was freed at once. -/
def leaveSeq (ctx sq : Nat) (s : State) : Bool × State :=
  match ctx? s ctx with
  | none => (false, s)
  | some c => match smFind c.seqs sq with
    | none => (false, s)
    | some q =>
      if q.st = .pending ∨ c.step.isNone then
        -- a join that the step in progress has admitted is RUN, not PENDING
        (true, freeSeq ctx sq s)
      else (false, modCtx ctx (fun c => { c with seqs := smMod c.seqs sq fun q => { q with leave := true } }) s)

/-! ### Aborts -/

/-- An ingest aborts: its remaining sequences leave the context, nothing is inserted, its command completes with the status
(R310, R384). -/
def abortIngest (job code : Nat) (s : State) : State :=
  match smFind s.sre.ingests job with
  | none => s
  | some g =>
    let s := modSre (fun x => { x with ingests := smDel x.ingests job }) s
    let s := g.recs.foldl (fun s r => match r.seq with
      | some sq => (leaveSeq g.ctx sq s).2
      | none => s) s
    let s := jobErr 0xB0 0 code (.ingest job) g.index 0 false s
    refuse g.tag code 0 s

/-- Ingests whose sequences take part in a context's step (R310). -/
def ingestsOf (s : State) (ctx : Nat) (seqs : List Nat) : List Nat :=
  (s.sre.ingests.filter fun e => e.2.ctx == ctx && e.2.recs.any fun r => match r.seq with | some q => seqs.contains q | none => false).map Prod.fst

/-- Release every core that runs a task of a context. -/
def freeCores (ctx : Nat) (s : State) : State :=
  setCores (s.cores.map fun e => match e.2.run with
    | some r => if r.ctx = ctx then (e.1, { e.2 with run := none }) else e
    | none => e) s

/-- A slot of a context that is in progress counts as ended: its island is free. -/
def endSlotOf (ctx : Nat) (s : State) : State :=
  modChart (fun c => { c with runs := c.runs.map fun r =>
    if r.phase = .running ∧ bits r.slot.w1.toNat 17 8 = ctx ∧ (bits r.slot.w1.toNat 20 18 = 1 ∨ bits r.slot.w1.toNat 20 18 = 2) then
      { r with phase := .ended } else r }) s

/-- The sequences as they stood before a step's boundary (R88): pages reserved for the step are released. -/
def restoreSeqs (st : Step) (seqs : SMap Seq) : SMap Seq :=
  seqs.map fun e =>
    let q := e.2
    let pages := q.pages.filter fun p => !st.newPages.contains (e.1 * 2 ^ 28 + p.1)
    let before := (st.prior.find? fun p => p.seq = e.1).map (·.st)
    (e.1, { q with pages := pages, st := before.getD q.st })

/-- A step ends: the halves of the staging ring that were not prefetched for the next step are free (DEDUCED from R270 and R271,
log entry 23). -/
def ringEnd (l : List Half) : List Half := l.map fun h => if h.next then { h with next := false } else Half.free

/-- Abort the step of a context, running or pre-empted, with a fault's code (R88): nothing is committed, the context becomes
FAULTED, and its ingests abort (R310). -/
def abortStep (n code : Nat) (s : State) : State :=
  match ctx? s n with
  | none => s
  | some c => match c.step with
    | none => s
    | some st =>
      let igs := ingestsOf s n (st.batch.map (·.seq))
      let s := putCtx n { c with seqs := restoreSeqs st c.seqs, step := none, save := [], halves := ringEnd c.halves, st := if c.st = .unloading then .unloading else .faulted,
                                 fault := code } s
      let s := ctxCnt n 0x30 0x928 1 (endSlotOf n (freeCores n s))
      igs.foldl (fun s j => abortIngest j 0xB017 s) s

/-- Page and source bit under which a step's job fault is recorded (R529, R154, R217, R247, R283). -/
def faultPlace (core : Option Nat) (code : Nat) : Nat × Nat :=
  let mx (b : Nat) : Nat × Nat := match core with | some k => (0x40 + k, b) | none => (0x30, 4)
  if code = 0x4001 then mx 0 else if code = 0x4002 then mx 1 else if code = 0x4003 then mx 2 else if code = 0x4004 then mx 3
  else if code = 0x4006 then mx 5 else if code = 0x4007 ∨ code = 0x4008 ∨ code = 0x4009 then mx 6
  else if code = 0x4010 then mx 16 else if code = 0x4011 then mx 17 else if code = 0x4012 then mx 18
  else if code = 0x4013 then mx 19 else if code = 0x4014 then mx 20 else if code = 0x4016 then mx 22
  else if code = 0x8002 then (0x80, 1) else if code = 0xA001 then (0xA0, 0) else (0x30, 4)

/-- Detail words of a step's job fault (R475). -/
def stepDetail (s : State) (n : Nat) (core : Option Nat) : Nat × Nat :=
  let saved (k : Nat) : Option Run := (ctx? s n).bind fun c => (c.save.find? fun e => e.2.core == k).map fun e => e.2.run
  let r := core.bind fun k => match (Sys2Proof.Machine.core s k).run with
    | some r => if r.ctx = n then some r else saved k
    | none => saved k
  let task := (r.map (·.task)).getD 0
  let pc := (r.map fun r => r.pc.toNat).getD 0
  let sn := ((ctx? s n).map (·.stepNo)).getD 0
  (n % 1024 + 1024 * core.getD 0x3F + 65536 * task, (pc / 16) % 2 ^ 20 + 2 ^ 20 * (sn % 4096))

/-- Complete the Unload Context commands that wait for a context, once its share is free. -/
def finishUnload (tags : List Tag) (s : State) : State := tags.foldl (fun s t => succeed t 0 0 [] s) s

/-! ### Freeing a share (R62, R266) -/

/-- A context stops using its shared tensors; the last user frees the placed copies (R266). -/
def leaveShare (n : Nat) (s : State) : State :=
  match shareOf s n with
  | none => s
  | some (k, sh) =>
    let us := sh.users.filter (· != n)
    if us.isEmpty then freeFrames (2000 + k) (modCompass (fun c => { c with shares := smDel c.shares k }) s)
    else modCompass (fun c => { c with shares := smSet c.shares k { sh with users := us } }) s

/-- Free the share of a context: frames, quota, SRAM, sequences, outputs; it is no longer resident (R62). -/
def freeCtx (n : Nat) (s : State) : State :=
  let igs := (s.sre.ingests.filter fun e => e.2.ctx == n).map Prod.fst
  let s := igs.foldl (fun s j => abortIngest j 0xB016 s) s
  let s := freeQuota (1 + n) (freeFrames (1 + n) (leaveShare n (endSlotOf n (freeCores n s))))
  let s := modCompass (fun c => { c with quar := (c.quar.map fun q => { q with ctxs := q.ctxs.filter (· != n) }).filter fun q => !q.ctxs.isEmpty }) s
  setCtxs (smDel s.ctxs n) s

/-- Free a context and complete what waits for it: its load, cancelled, and its unloads (R62). -/
def unloadNow (n : Nat) (s : State) : State :=
  match ctx? s n with
  | none => s
  | some c =>
    let s := freeCtx n s
    let s := match c.loadTag with
      | some t => refuse t 0x301D 0 s
      | none => s
    finishUnload c.unloadTags s

/-- A context that is UNLOADING and has no running step is unloaded now. -/
def settleUnload (n : Nat) (s : State) : State :=
  match ctx? s n with
  | none => s
  | some c => if c.st = .unloading then unloadNow n s else s

/-! ### Admission and placement (R60 checks 5 to 9, R266 to R269) -/

/-- Another resident context that a load would share its immutable tensors with (R266). -/
def sharePeer (s : State) (p : Pkg) : Option Nat :=
  (s.ctxs.find? fun e => e.2.pkg.nsid == p.nsid && e.2.pkg.slba == p.slba && e.2.pkg.digest == p.digest
    && !(s.compass.quar.any fun q => q.nsid == p.nsid && q.slba == p.slba)).map Prod.fst

/-- The extents in a layout of the tensors placed in external memory: offset and bytes. -/
def xmExtents (ts : List Tensor) (pl : List Place) : List (Nat × Nat) :=
  (ts.zip pl).flatMap fun e => match e.2 with
    | .xm d sc => [(d, e.1.dataBytes), (sc, e.1.scaleBytes)]
    | _ => []

/-- Frames of a layout that hold bytes of tensors and nothing else: all of them from the tensors' first frame to the staging
ring. Those with a shared tensor's bytes alone are not allocated to a context that joins a sharing. -/
def sharedFrame (ts : List Tensor) (pl : List Place) (own : List (Nat × Nat)) (f : Nat) : Bool :=
  let hits (l : List (Nat × Nat)) : Bool := l.any fun e => decide (0 < e.2 ∧ e.1 < (f + 1) * frameBytes ∧ f * frameBytes < e.1 + e.2)
  hits (xmExtents ts pl) && !hits own

/-- The placed copies that a load would find: (entry, data, scale) of the peer's layout. -/
def peerPlaces (s : State) (peer : Nat) : List (Nat × Nat × Nat) :=
  match shareOf s peer with
  | some (_, sh) => sh.places
  | none => match ctx? s peer with
    | none => []
    | some c => c.places.zipIdx.filterMap fun e => match e.1 with
      | .xm d sc => some (e.2, d, sc)
      | _ => none

/-- Extents of a layout's tensors that the sharing does not hold. -/
def ownExtents (ts : List Tensor) (pl : List Place) (shared : List Nat) : List (Nat × Nat) :=
  ((ts.zip pl).zipIdx.flatMap fun e => match e.1.2 with
    | .xm d sc => if shared.contains e.2 then [] else [(d, e.1.1.dataBytes), (sc, e.1.1.scaleBytes)]
    | _ => [])

/-- Which frames of a layout are allocated to the context (R266). -/
def allocFrame (s : State) (p : Pkg) (l : Layout) (f : Nat) : Bool :=
  match sharePeer s p with
  | none => true
  | some peer =>
    let sh := (peerPlaces s peer).map fun e => e.1
    !sharedFrame p.tensors l.places (ownExtents p.tensors l.places sh) f

/-- Frames that a load allocates to its context. -/
def needFrames (s : State) (p : Pkg) (l : Layout) : Nat := ((List.range l.frames).filter (allocFrame s p l)).length

/-- Checks 3 to 9 of R60 for a package that has passed checks 1 and 2: the refusal and its check number. -/
def admitCtx (s : State) (n island : Nat) (p : Pkg) (l : Layout) : Option (Code × Nat) :=
  let cores := islandCores s island
  let nsUnits := (s.ftl.namespaces.map fun e => e.2.units).sum
  let units := p.flashBytes / unitBytes
  let newSave := cores.length * 98304
  if (ctx? s n).isSome then some (0x3002, 3)
  else if 1024 ≤ s.ctxs.length then some (0x3003, 4)
  else if 1048576 < p.maxSeqLen then some (0x3004, 5)
  else if 4096 < p.localKib ∨ scratchKibMax s < p.scratchKib ∨ 455632 * 0x100000 < p.xmBytes + newSave ∨ userUnits - nsUnits < units then
    some (0x3005, 6)
  else if cores.isEmpty then some (0x0104, 7)
  else if cores.length < p.minCores then some (0x3006, 8)
  else if 4096 < extKib (localUsed s island) + p.localKib ∨ extKib (scratchFree s) < p.scratchKib
      ∨ generalFrames < s.compass.frames.length + needFrames s p l + saveFrames (saveBytes s + newSave)
      ∨ userUnits < allocUnits s + units ∨ (freeBase (usedRanges s) 0 units).isNone then some (0x3007, 9)
  else none

/-- The peer's tensor frames move to the shared account when a second context loads its package (R266). -/
def makeShare (peer n : Nat) (s : State) : State :=
  match shareOf s peer with
  | some (k, sh) => modCompass (fun c => { c with shares := smSet c.shares k { sh with users := sh.users ++ [n] } }) s
  | none => match ctx? s peer with
    | none => s
    | some c =>
      let k := ((List.range (s.compass.shares.length + 1)).find? fun i => (smFind s.compass.shares i).isNone).getD 0
      let move := ((List.range c.frames.length).filter fun f => sharedFrame c.pkg.tensors c.places [] f).filterMap fun f =>
        (c.frames.getD f none).map fun p => (f, p)
      let sh : Share := { nsid := c.pkg.nsid, slba := c.pkg.slba, digest := c.pkg.digest, users := [peer, n], frames := move,
                          places := peerPlaces s peer }
      let s := modCompass (fun x => { x with
        shares := smSet x.shares k sh, frames := x.frames.map fun e => if move.any fun m => m.2 = e.1 then (e.1, 2000 + k) else e }) s
      putCtx peer { c with frames := c.frames.zipIdx.map fun e => if move.any fun m => m.1 = e.2 then none else e.1 } s

/-- Store bytes at a layout offset of a context. -/
def storeLayout (c : Ctx) : Nat → Nat → List Byte → State → State
  | 0, _, _, s => s
  | fuel + 1, x, d, s =>
    if d.isEmpty then s
    else
      let k := min d.length (frameBytes - x % frameBytes)
      let s := match c.layoutPhys x with
        | some a => xmStore a (d.take k) s
        | none => s
      storeLayout c fuel (x + k) (d.drop k) s

/-- Store bytes at an offset of SCRATCH. -/
def storeScratch (c : Ctx) (off : Nat) (d : List Byte) (s : State) : State :=
  ((scratchSegs c.scratch off d.length).foldl (fun (p : List Byte × State) g => match g with
    | .spad o n => (p.1.drop n, ocmStore none o (p.1.take n) p.2)
    | _ => p) (d, s)).2

/-- Place a package's tensors (R265, R267): PINNED_SRAM into SCRATCH, tensors of external memory that no peer holds into their
frames. -/
def placeTensors (c : Ctx) (shared : List Nat) (b : List Byte) (s : State) : State :=
  ((c.pkg.tensors.zip c.places).zipIdx).foldl (fun s e =>
    let t := e.1.1
    let dat := slice b t.dataOff t.dataBytes
    let sc := slice b t.scaleOff t.scaleBytes
    match e.1.2 with
    | .sram d q => storeScratch c q sc (storeScratch c d dat s)
    | .xm d q => if shared.contains e.2 then s else storeLayout c (segFuel t.scaleBytes) q sc (storeLayout c (segFuel t.dataBytes) d dat s)
    | _ => s) s

/-- Zero a context's SRAM (R245). -/
def zeroSram (cores : List Nat) (c : Ctx) (s : State) : State :=
  let s := c.scratch.foldl (fun s e => ocmZero none (e.1 * 1024) (e.2 * 1024) s) s
  cores.foldl (fun s k => c.localEx.foldl (fun s e => ocmZero (some k) (e.1 * 1024) (e.2 * 1024) s) s) s

/-- Make a context resident: its share allocated and zeroed and its objects placed; LOADING until the load completes (R59 to R61, R266 to
R269). -/
def loadCtx (t : Tag) (n island work outBytes outKib : Nat) (p : Pkg) (l : Layout) (b : List Byte) (s : State) : State :=
  let peer := sharePeer s p
  let shared := match peer with | none => [] | some k => (peerPlaces s k).map fun e => e.1
  let want := (List.range l.frames).map (allocFrame s p l)
  let (fs, s) := takeFrames ((want.filter id).length) (1 + n) s
  let frames := (want.foldl (fun (a : List (Option Nat) × List Nat) w =>
    if w then (a.1 ++ [a.2.head?], a.2.tail) else (a.1 ++ [none], a.2)) ([], fs)).1
  let s := match peer with | none => s | some k => makeShare k n s
  let c : Ctx :=
    { pkg := p, island := island, st := .loading, fault := 0, stepNo := 0, active := 0, workBytes := work, outBytes := outBytes,
      outbufKib := outKib, places := l.places, frames := frames, workF0 := l.workF0, stageF0 := l.stageF0, poolF0 := l.poolF0,
      halfBytes := l.halfBytes, poolSlots := l.poolSlots, streamed := l.streamed, scratch := takeExt (scratchFree s) p.scratchKib,
      localEx := takeExt (gaps (localUsed s island) 0 4096) p.localKib, seqs := [], joinOrder := 0, hist := [], step := none, save := [],
      halves := [Half.free, Half.free], staged := [], out := [], dseq := 0, acked := 0, loadTag := some t, unloadTags := [],
      cnt := [] }
  let s := zeroSram (islandCores s island) c s
  let s := placeTensors c shared b s
  allocQuota (1 + n) (p.flashBytes / unitBytes) (putCtx n c s)

end Sys2Proof.Machine
end

