-- ==== Sys2Proof/Machine/Jobs.lean ====
section
/-! DEFINITION. Job faults (R88, R310, R469, R529) and FATAL errors (R470 to R473): how a job of any kind aborts, and what the
module does when it raises a FATAL error. -/
namespace Sys2Proof.Machine
open Sys2Proof

/-- A job fault of a context's step: one JOB record at the place R529 gives it, nested where R469 says so; a step that has not
aborted yet aborts with the code (R88). An UNLOADING context is then unloaded (R62). -/
def stepFaultAt (place : Nat × Nat) (n : Nat) (k : Option Nat) (code : Nat) (inj : Bool) (s : State) : State :=
  match ctx? s n with
  | none => s
  | some c =>
    if c.step.isNone && !((openHandlings s).any fun h => h.cls == .job && h.scope == .step n) then s
    else
      let d := match k with
        | some k => if code = 0x4002 then ((core s k).skewData, (core s k).skewScale) else stepDetail s n (some k)
        | none => stepDetail s n none
      settleUnload n (abortStep n code (jobErr place.1 place.2 code (.step n) d.1 d.2 inj s))

/-- A job fault raised by a core, or by none. -/
def stepFault (n : Nat) (k : Option Nat) (code : Nat) (s : State) : State := stepFaultAt (faultPlace k code) n k code false s

/-- An ingest ends without inserting anything: its sequences leave; no record, no completion. -/
def dropIngest (job : Nat) (s : State) : State :=
  match smFind s.sre.ingests job with
  | none => s
  | some g =>
    g.recs.foldl (fun s r => match r.seq with
      | some sq => (leaveSeq g.ctx sq s).2
      | none => s) (modSre (fun x => { x with ingests := smDel x.ingests job }) s)

/-- Abort every job with a code: steps, then ingests, whose commands complete with `st`, then queries, whose results carry the
code (R472, R485; the order is the model's own). -/
def abortJobs (code : Nat) (st : Status) (s : State) : State :=
  let igs := s.sre.ingests
  let s := igs.foldl (fun s e =>
    complete .bcs e.2.tag st (if st = stVendor then code else 0) 0 []
      (dropIngest e.1 (jobErr 0xB0 0 code (.ingest e.1) e.2.index 0 false s))) s
  let s := (s.ctxs.filter fun e => e.2.step.isSome).foldl (fun s e => stepFault e.1 none code s) s
  (s.sre.queries.map Prod.fst).foldl (fun s j => abortQuery j code 0 s) s

/-- The commands that stand fetched and uncompleted besides those of jobs: their kinds and tags. -/
def waitingTags (s : State) : List (CmdKind × Tag) :=
  (s.ctxs.flatMap fun e => (e.2.unloadTags ++ e.2.loadTag.toList).map fun t => (CmdKind.bcs, t))
  ++ ((s.chart.swap.bind (·.tag)).toList.map fun t => (.bcs, t))
  ++ (s.sre.idx.flatMap fun e => ((e.2.compact.bind Prod.snd).toList ++ (e.2.drop.getD none).toList).map fun t => (.bcs, t))
  ++ (s.ftl.waiting.map fun w => (.nvm, w.tag)) ++ (s.ftl.through.map fun w => (.nvm, w.tag))
  ++ ((s.qcu.ps.trans.bind (·.tag)).toList.map fun t => (.admin, t)) ++ (s.qcu.ps.waiting.map fun w => (.admin, w.1))
  ++ (s.msp.update.toList.map fun u => (.admin, u.tag))
  ++ (s.qcu.conns.flatMap fun e => match e.2.queue with
      | some (_, q, _) => (e.2.outst.filter fun o => q != 0 && o.need != 0).map fun o => (.nvm, ⟨e.1, o.cid⟩)
      | none => [])

/-- Forget the tags of commands that have been completed. What they had begun goes on. -/
def dropTags (s : State) : State :=
  let s := setCtxs (s.ctxs.map fun e => (e.1, { e.2 with unloadTags := [], loadTag := none })) s
  let s := modChart (fun c => { c with swap := c.swap.map fun w => { w with tag := none } }) s
  let s := modSre (fun x => { x with idx := x.idx.map fun e =>
    (e.1, { e.2 with compact := e.2.compact.map fun p => (p.1, none), drop := e.2.drop.map fun _ => none }) }) s
  let s := modFtl (fun x => { x with waiting := [], through := [] }) s
  let s := modQcu (fun q => { q with ps := { q.ps with trans := q.ps.trans.map fun t => { t with tag := none }, waiting := [] } }) s
  modMsp (fun m => { m with update := none }) s

/-- Complete every command that has been fetched and not completed with Internal Error (R472). -/
def failCommands (s : State) : State :=
  dropTags ((waitingTags s).foldl (fun s e => complete e.1 e.2 stInternalError 0 0 [] s) s)

/-- The actions of R472 after the record: ENABLE cleared, every job aborted with the code, commands completed with Internal
Error. -/
def fatalActions (code : Nat) (s : State) : State :=
  failCommands (abortJobs code stInternalError (modChart (fun c => { c with enable := false }) s))

/-- A power-loss flush is called for: it starts unless one is in progress (R350). -/
def wantFlush (cause : FlushCause) (s : State) : State :=
  if s.pwr.flush.isSome then s else modPwr (fun p => { p with flush := some cause }) s

/-- Raise a FATAL error (R470 to R473). While another is handled, the record is written and a module reset is forced, with
its flush (R471). -/
def raiseFatal (code page : Nat) (b : Option Nat) (d0 d1 : Nat) (s : State) : State :=
  let second := fatalOpen s
  let s := recordErr { code := code, page := page, bit := b, cls := .fatal, scope := .chip, d0 := d0, d1 := d1, injected := false } s
  if second then
    wantFlush .fatal (modChip (fun c => { c with modReset := some (c.modReset.getD 4) }) s)
  else if code = 0xD006 then s
  else
    let s := modErr (fun e => { e with handlings := e.handlings ++ [⟨.fatal, .chip, code, none⟩] }) s
    if fatalException code then s else fatalActions code s

/-- FAULT_N is low (R530): a FATAL error is handled, or THERMAL_TRIP holds it, or the state is TAMPERED. -/
def faultLow (s : State) : Bool := fatalOpen s || s.err.tripHold

/-- A record in the ring, not yet passed by TAIL, drives ALERT_N (R51). -/
def alertRec (s : State) (i : Nat) : Bool :=
  match smFind s.err.ring ((s.err.tail + i) % 64) with
  | none => false
  | some r => !r.nested && (r.cls == .fatal || alerts r.cls s)

/-- ALERT_N is low: a record that alerts stands in the ring, or FAULT_N's span (R51, R530). -/
def alertLow (s : State) : Bool := faultLow s || (List.range (occupancy s.err)).any (alertRec s)

end Sys2Proof.Machine
end

