-- ==== Sys2Proof/Machine/MspBase.lean ====
section
/-! DEFINITION. The lifecycle state and the copies of the key store and of the configuration (R441, R460, R461, R465). -/
namespace Sys2Proof.Machine
open Sys2Proof

/-- A copy is valid: its tag verifies and its LC_COUNT equals the fused count (R441). -/
def copyValid {α : Type} (s : State) (c : NorCopy α) : Bool := c.tagOk && c.lcCount == s.msp.fuses.lcCount

/-- The valid copy with the higher sequence number (R441). -/
def validCopy {α : Type} (s : State) (a b : NorCopy α) : Option (NorCopy α) :=
  match copyValid s a, copyValid s b with
  | true, true => some (if b.seq < a.seq then a else b)
  | true, false => some a
  | false, true => some b
  | false, false => none

/-- The key store in force. -/
def keyStore (s : State) : Option KeyStore := (validCopy s s.msp.ksA s.msp.ksB).map (·.val)

/-- The configuration in force; none: reset values. -/
def config (s : State) : Option (SMap Word) := (validCopy s s.msp.cfgA s.msp.cfgB).map (·.val)

/-- The lifecycle state (R461, R463, R465): TAMPERED while the TAMPER_COUNT fuses outnumber the CLEAR_COUNT fuses; the
kill fuse makes DECOMMISSIONED; a lost key store gives RETURN behaviour. -/
def lifecycle (s : State) : Life :=
  if s.msp.fuses.clears < s.msp.fuses.tampers then .tampered
  else if s.msp.fuses.kdeKilled then .decommissioned
  else if s.msp.ksLost then .retn
  else ((keyStore s).map (·.life)).getD .retn

/-- Encoding of CHIP_STATE.LIFECYCLE (R47). -/
def Life.code : Life → Nat
  | .blank => 0
  | .provisioned => 1
  | .operational => 2
  | .retn => 3
  | .decommissioned => 4
  | .tampered => 5

/-- Write a value alternately into two copies: the copy with the lower sequence number is written (R441). -/
def writeCopy {α : Type} (s : State) (a b : NorCopy α) (v : α) : NorCopy α × NorCopy α :=
  let n : NorCopy α := { tagOk := true, seq := max a.seq b.seq + 1, lcCount := s.msp.fuses.lcCount, val := v }
  let writeA := !(copyValid s a && (!copyValid s b || b.seq < a.seq))
  if writeA then (n, b) else (a, n)

/-- Write the key store. -/
def putKeyStore (k : KeyStore) (s : State) : State :=
  let (a, b) := writeCopy s s.msp.ksA s.msp.ksB k
  modMsp (fun m => { m with ksA := a, ksB := b }) s

/-- Write both copies of the key store, as a transition does (R461). -/
def putKeyStores (k : KeyStore) (s : State) : State := putKeyStore k (putKeyStore k s)

/-- Write the configuration. -/
def putConfig (c : SMap Word) (s : State) : State :=
  let (a, b) := writeCopy s s.msp.cfgA s.msp.cfgB c
  modMsp (fun m => { m with cfgA := a, cfgB := b }) s

/-- The module holds an identity key: a state that holds NONCE_ID, once start-up has generated it (R455, R456). -/
def identity (s : State) : Option (List Byte) :=
  match lifecycle s with
  | .provisioned => s.msp.idKey
  | .operational => s.msp.idKey
  | .retn => s.msp.idKey
  | _ => none

end Sys2Proof.Machine
end

