-- ==== Sys2Proof/Machine/RegOps.lean ====
section
/-! DEFINITION. Register access: which accesses a path may make (R37 to R39) and the plain storing of RW fields (R14, R15) with
the limits that the tables state for stored values. -/
namespace Sys2Proof.Machine
open Sys2Proof

/-- Pages of the compute die (R45). -/
def computePage (page : Nat) : Bool := 0x30 ≤ page && page < 0xC0

/-- The lifecycle restricts register access (R38). -/
def accessLocked (s : State) : Bool := lifecycle s == .tampered || lifecycle s == .decommissioned

/-- Offsets of the ERR page that hold RW1C fields: ERR_STATUS and ERR_RING_STATUS. -/
def errW1c (page off : Nat) : Bool := page == 0xE0 && (off == 0x010 || off == 0x108)

/-- What refuses an access to a word (R37, R38, R39). -/
def regGate (p : Path) (page off : Nat) (wr : Bool) (s : State) : Option Code :=
  if page = 0x03 ∧ wr ∧ p ≠ .mgmt then some 0x0004
  else if accessLocked s ∧ p ≠ .mgmt ∧ !(if wr then errW1c page off else page == 0x00 || page == 0xE0) then some 0x0004
  else if s.qcu.ps.inForce = 4 ∧ p ≠ .inband ∧ computePage page then some 0x0005
  else none

/-- A write to one register word through a path: refused by R37 to R39, or carried out. -/
def regRow (p : Path) (page off : Nat) (f : State → State) (s : State) : Res :=
  if !s.chip.powered then ok s else
  match regGate p page off true s with
  | some c => ok (emit (.reg p c []) s)
  | none => ok (f s)

/-- Mask of the RW bits of a word. -/
def rwMask (page off : Nat) : Nat :=
  (wordRows page off).foldl (fun m r => if r.acc == .rw then m ||| ((2 ^ r.width - 1) * 2 ^ r.lo) else m) 0

/-- A field [hi:lo] bounded to a range. -/
def clampFld (w hi lo a b : Nat) : Nat :=
  let v := max a (min b (bits w hi lo))
  (w - bits w hi lo * 2 ^ lo) + v * 2 ^ lo

/-- The limits that the register tables state for stored values. -/
def clampWord (page off w : Nat) : Nat :=
  if page = 0x80 ∧ off = 0x124 then clampFld w 15 0 1 0xFFFF
  else if page = 0x90 ∧ off = 0x200 then clampFld w 14 8 1 100
  else if page = 0xA0 ∧ off = 0x100 then clampFld w 13 0 0 16000
  else if page = 0xB0 ∧ off = 0x108 then clampFld w 14 0 1 22000
  else if page = 0xD0 ∧ off = 0x11C then
    let w := clampFld w 15 0 65 0xFFFF
    if bits w 15 0 < bits w 31 16 then w else bits w 15 0 + (bits w 15 0 + 1) % 2 ^ 16 * 2 ^ 16
  else if page = 0xD0 ∧ off = 0x124 then clampFld w 6 0 50 90
  else if page = 0x20 ∧ off = 0x110 then clampFld w 15 0 1 0xFFFF
  else if page = 0x10 ∧ off = 0x164 then clampFld w 23 16 1 255
  else if page = 0x10 ∧ off = 0x178 then clampFld w 13 0 1280 9194
  else if page = 0x11 ∧ off = 0x118 then clampFld w 23 0 100 10000000
  else if page = 0x11 ∧ off = 0x124 then clampFld w 18 0 1 500000
  else if page = 0x12 ∧ off = 0x108 then clampFld w 13 0 1024 8192
  else if page = 0x12 ∧ off = 0x10C then clampFld (clampFld w 15 0 1 0xFFFF) 19 16 1 15
  else if page = 0x12 ∧ off = 0x110 then clampFld w 15 0 1 0xFFFF
  else if page = 0x12 ∧ off = 0x114 then clampFld w 15 0 1 0xFFFF
  else if page = 0x02 ∧ off = 0x108 then clampFld w 9 0 300 700
  else if page = 0x02 ∧ off = 0x118 then clampFld w 29 16 0 16000
  else w

/-- Write the RW fields of a word (R14): the rest of the written word is ignored (R15). A DISC_PORT equal to IO_PORT, and a
SOURCE of 0b11, keep their values. -/
def storeRw (page off : Nat) (w : Word) (s : State) : State :=
  let old := (regWord s page off).toNat
  let m := rwMask page off
  let new := (old - (old &&& m)) + (w.toNat &&& m)
  let new := clampWord page off new
  let new := if page = 0x20 ∧ off = 0x104 ∧ bits new 31 16 = bits new 15 0 then bits new 15 0 + 2 ^ 16 * bits old 31 16 else new
  let new := if page = 0x11 ∧ off = 0x100 ∧ bits new 1 0 = 3 then new - 3 + bits old 1 0 else new
  setRegWord page off (BitVec.ofNat 32 new) s

/-- The RW fields of a word hold what was last written (R14): the stored word restricted to them. -/
def rwField (s : State) (page off hi lo : Nat) : Nat := regFld s page off hi lo

end Sys2Proof.Machine
end

