-- ==== Sys2Proof/Machine/SreOps.lean ====
section
/-! DEFINITION. Queries: parameter blocks (R306), submission (R301, R303, R304, R311), batches (R301 to R303) and how a query
runs at its epoch (R292, R293, R296, R305). -/
namespace Sys2Proof.Machine
open Sys2Proof

/-! ### Parameter blocks -/

/-- Reverse each group of `n` bytes: network byte order to little-endian and back. -/
def swapGroups (n : Nat) : Nat → List Byte → List Byte
  | 0, _ => []
  | fuel + 1, b => if b.isEmpty ∨ n = 0 then [] else (b.take n).reverse ++ swapGroups n fuel (b.drop n)

/-- Swap fields of the given widths in order; what follows them stays. -/
def swapFields : List Nat → List Byte → List Byte
  | [], b => b
  | n :: ns, b => (b.take n).reverse ++ swapFields ns (b.drop n)

/-- Field widths of the Search parameter block's header (R306). -/
def queryWidths : List Nat := [1, 1, 2, 2, 2, 2, 1, 1, 2, 2, 4, 4, 8, 4]

/-- The query bytes with each element swapped; the scale of an E8 query follows its `d` elements. -/
def swapQuery (fmt d : Nat) (q : List Byte) : List Byte :=
  if fmt = 5 then swapGroups 4 q.length q
  else if fmt = 9 then swapGroups 2 q.length q
  else q.take d ++ ((q.drop d).take 4).reverse ++ q.drop (d + 4)

/-- A QUERY message's block in little-endian form (R422); `d` is the index's DIM. -/
def queryFromWire (s : State) (b : List Byte) : List Byte :=
  let h := swapFields queryWidths (b.take 64)
  let qb := fld h 32 4
  let d := ((idx? s (fld h 1 1)).map fun i => i.cfg.dim).getD (qb - 4)
  h ++ swapQuery (fld h 11 1) d (slice (b.drop 64) 0 qb) ++ swapGroups 8 (fld h 20 4) (slice (b.drop 64) qb (fld h 20 4))

/-- A block as a QUERY message carries it, with GROUP 0 (R422). -/
def queryToWire (d : Nat) (b : List Byte) : List Byte :=
  let qb := fld b 32 4
  let h := overwrite (b.take 64) 12 [0, 0]
  swapFields queryWidths h ++ swapQuery (fld b 11 1) d (slice b 64 qb) ++ swapGroups 8 (fld b 20 4) (slice b (64 + qb) (fld b 20 4))

/-- The parameters of a block. -/
def queryParm (b : List Byte) : QParm :=
  let fl := fld b 2 2
  { index := fld b 1 1, filter := bit fl 0, expand := bit fl 1, explicit := bit fl 2, k := fld b 4 2, l := fld b 6 2, rerank := fld b 8 2,
    expandMax := if bit fl 1 && fld b 10 1 == 0 then 2 else fld b 10 1, qformat := fld b 11 1, group := fld b 12 2,
    deadlineUs := fld b 16 4, epoch := fld b 24 8, q := slice b 64 (fld b 32 4), prog := slice b (64 + fld b 32 4) (fld b 20 4) }

/-- The block keeps the ranges of R306, those that need no index. -/
def queryRanges (level1 : Bool) (b : List Byte) : Bool :=
  let fl := fld b 2 2
  let k := fld b 4 2
  let l := fld b 6 2
  let rr := fld b 8 2
  let qf := fld b 11 1
  fld b 1 1 < 16 && fl < 8 && (!level1 || (fl < 2 && fld b 12 2 == 0)) && 1 ≤ k && k ≤ 1024 && k ≤ l && l ≤ 4096
  && (rr == 0 || (k ≤ rr && rr ≤ l)) && (if bit fl 1 then fld b 10 1 ≤ 4 else fld b 10 1 == 0) && (qf == 5 || qf == 8 || qf == 9)
  && zeroRange b 14 16 && fld b 16 4 ≤ 1000000
  && (if bit fl 0 then 16 ≤ fld b 20 4 && fld b 20 4 ≤ 4096 else fld b 20 4 == 0)
  && (bit fl 2 || fld b 24 8 == 0) && zeroRange b 36 64 && !(bit fl 0 && rr == 0) && !(fld b 12 2 != 0 && rr == 0)
  && 64 + fld b 32 4 + fld b 20 4 ≤ b.length

/-- QUERY_BYTES that an index asks for (R306, R117). -/
def queryBytes (c : IdxCfg) (fmt : Nat) : Nat := if fmt = 5 then 4 * c.dim else vecBytes (fmt == 9) c.dim

/-! ### Slots that open batches -/

/-- The active bank, if any. -/
def activeBank (s : State) : Option Bank := s.chart.active.map fun b => if b then s.chart.bankB else s.chart.bankA

/-- KIND of a slot (R75). -/
def Slot.kind (x : Slot) : Nat := bits x.w1.toNat 20 18
/-- CLASS. -/
def Slot.cls (x : Slot) : Nat := bits x.w1.toNat 7 6
/-- ISLAND. -/
def Slot.island (x : Slot) : Nat := bits x.w1.toNat 5 0
/-- CONTEXT. -/
def Slot.ctx (x : Slot) : Nat := bits x.w1.toNat 17 8
/-- START_US. -/
def Slot.start (x : Slot) : Nat := bits x.w0.toNat 15 0
/-- DURATION_US. -/
def Slot.dur (x : Slot) : Nat := bits x.w0.toNat 31 16
/-- OVERRUN is PREEMPT. -/
def Slot.preempt (x : Slot) : Bool := bit x.w1.toNat 21
/-- GROUP. -/
def Slot.group (x : Slot) : Nat := bits x.w2.toNat 15 0
/-- A step slot: GEN_STEP or EMBED_STEP. -/
def Slot.isStep (x : Slot) : Bool := x.kind == 1 || x.kind == 2

/-- The first fabric time at or after `lo` that satisfies R24 for a period in ns and a phase. -/
def nextStart (period phase lo : Nat) : Nat :=
  if period = 0 then lo
  else if lo ≤ phase then phase - (phase - lo) / period * period
  else phase + cdiv (lo - phase) period * period

/-- Queries open batches of their own (R303). -/
def ownBatches (s : State) : Bool :=
  !s.chart.enable || (match activeBank s with | none => true | some b => !(b.slots.any fun x => x.kind == 3))

/-- Start of the first SEARCH_BATCH slot of the active bank at or after `t`; 0 under R303. -/
def searchSlotAt (s : State) (t : Nat) : Nat :=
  if ownBatches s then 0
  else match activeBank s with
    | none => 0
    | some b =>
      let ts := (b.slots.filter fun x => x.kind == 3).map fun x =>
        nextStart (b.period * 1000) ((b.phase + x.start * 1000) % max 1 (b.period * 1000)) t
      ts.foldl min (ts.headD 0)

/-! ### Opening -/

/-- SRE_CTRL.HOLD. -/
def sreHold (s : State) : Bool := bit (regWord s 0xB0 0x100).toNat 0

/-- The index of a query takes no new batch: a switch or a drop waits on it (R300). -/
def idxHeld (s : State) (n : Nat) : Bool :=
  match idx? s n with
  | none => false
  | some i => i.st == .switching

/-- The epoch of a query that opens now (R296). -/
def queryEpoch (s : State) (q : Query) (i : Index) : Nat :=
  if q.parm.explicit then q.parm.epoch else if i.lastT = s.time.replica then i.lastPrev else i.last

/-- A batch opens a query: its epoch is fixed, or it is refused, which its result tells (R296, R383). -/
def openQuery (cls : Nat) (job : Nat) (s : State) : State :=
  match smFind s.sre.queries job with
  | none => s
  | some q =>
    match idxRefusal s q.parm.index, idx? s q.parm.index with
    | none, some i =>
      let e := queryEpoch s q i
      let refuseWith (c : Code) : State := finishQuery job { QResult.empty c with epoch := e, snapshot := i.snapshot } s
      if e < i.floor then refuseWith 0xB00E
      else if i.last < e then refuseWith 0xB00F
      else modSre (fun x => { x with queries := smSet x.queries job { q with opened := some (e, cls) } }) s
    | some c, _ => finishQuery job (QResult.empty c) s
    | none, none => finishQuery job (QResult.empty 0xB005) s

/-- Queued queries in order of acceptance. -/
def insOrder (e : Nat × Query) : List (Nat × Query) → List (Nat × Query)
  | [] => [e]
  | x :: xs => if e.2.order < x.2.order then e :: x :: xs else x :: insOrder e xs

/-- Queued queries. -/
def queued (s : State) : List (Nat × Query) := (s.sre.queries.filter fun e => e.2.opened.isNone && !e.2.ownDone).foldr insOrder []

/-- Open queries of a list while fewer than 4,096 are in flight (R301). -/
def openAll (cls : Nat) (l : List (Nat × Query)) (s : State) : State :=
  l.foldl (fun s e => if queriesOpen s < 4096 then openQuery cls e.1 s else s) s

/-- A SEARCH_BATCH slot that started at `t` opens its batch (R301); under HOLD, and for an index that switches, it does not,
which is counted (R322). -/
def openBatch (cls t : Nat) (s : State) : State :=
  if sreHold s then cntAdd 0xB0 0x850 1 s
  else
    let l := (queued s).filter fun e => e.2.target ≤ t
    let s := if l.any fun e => idxHeld s e.2.parm.index then cntAdd 0xB0 0x850 1 s else s
    openAll cls (l.filter fun e => !idxHeld s e.2.parm.index) (cntAdd 0xB0 0x848 1 s)

/-- Queued queries that open batches of their own, as R303 and R311 have it: each a batch of class 2. -/
def pumpQueries (s : State) : State :=
  if sreHold s then s
  else
    ((queued s).filter fun e => (e.2.imm || ownBatches s) && !idxHeld s e.2.parm.index).foldl (fun s e =>
      if queriesOpen s < 4096 then openQuery 2 e.1 (cntAdd 0xB0 0x848 1 s) else s) s

/-! ### Submission -/

/-- A program is refused: FILTER_LAST_REFUSAL, the count and the record (R360, R368, R477). -/
def filterRefuse (i : Nat) (s : State) : State :=
  advisory 0xD8 0 0xD801 0 0 (cntAdd 0xD8 0x808 1 (modFtl (fun f => { f with filterRefusal := (0xD801, i) }) s))

/-- What refuses a Search parameter block before it is queued (R306, R304, R301, R429), with the records and counts the
refusal makes. The order of the checks after the version is DEDUCED (log entry 22). -/
def querySubmitCheck (b : List Byte) (cap : Nat) (s : State) : Option Code × State :=
  let p := queryParm b
  if fld b 0 1 ≠ versionByte s then (some 0x0001, s)
  else if b.length < 64 ∨ !queryRanges s.chip.level1 b then (some 0xB003, s)
  else if cap < 96 + 16 * p.k then (some 0x2002, s)
  else match idxRefusal s p.index, idx? s p.index with
    | some c, _ => (some c, s)
    | none, none => (some 0xB005, s)
    | none, some i =>
      if fld b 32 4 ≠ queryBytes i.cfg p.qformat then (some 0xB003, s)
      else if p.group ≠ 0 ∧ (slotOfGroup s p.group).isNone then (some 0xB003, s)
      else
        let bad := if p.filter then progBad p.prog else none
        match bad with
        | some k => (some 0xD801, filterRefuse k s)
        | none =>
          let s := if p.filter then cntAdd 0xD8 0x800 1 s else s
          if p.group ≠ 0 ∧ s.sext.st = .lost then (some 0x1204, s)
          else if 16384 ≤ queriesQueued s then (some 0xB004, advisory 0xB0 5 0xB004 0 0 s)
          else (none, s)

/-- Queue an accepted query. -/
def queueQuery (q : Query) (s : State) : Nat × State :=
  let job := s.sre.nextJob
  (job, modSre (fun x => { x with queries := smSet x.queries job { q with order := x.order }, nextJob := job + 1, order := x.order + 1 }) s)

/-- Members of a group that a merger asks and does not ask (R311, R429): valid members other than itself. -/
def mergeMembers (s : State) (n : Nat) : List Nat × List Nat :=
  let g := grpSlot s n
  let ms := ((g.members.filter fun e => e.2.valid && e.1 != g.self).map Prod.fst)
  (ms.filter (memberInStep s n), ms.filter fun m => !memberInStep s n m)

/-- Accept a query: queue it; a merger sends it to every other member in step (R311, R312). Under R303 it opens at once. -/
def acceptQuery (b : List Byte) (o : Origin) (s : State) : State :=
  let p := queryParm b
  let dim := ((idx? s p.index).map fun i => i.cfg.dim).getD 0
  let t0 := s.time.replica
  let s := if sreHold s && ownBatches s || idxHeld s p.index && ownBatches s then cntAdd 0xB0 0x850 1 s else s
  if p.group = 0 then
    pumpQueries (queueQuery { parm := p, origin := o, order := 0, target := 0, imm := false, opened := none, merge := none, ownDone := false } s).2
  else match slotOfGroup s p.group with
    | none => s
    | some n =>
      let target := searchSlotAt s (t0 + 50000)
      let (ask, skip) := mergeMembers s n
      let span := if p.deadlineUs ≠ 0 then p.deadlineUs
        else if ownBatches s then regFld s 0xB0 0x10C 19 0 else ((activeBank s).map (·.period)).getD 0
      let m : Merge := { target := target, deadline := (if target = 0 then t0 else target) + span * 1000,
                         members := (grpSlot s n).self :: ask, skipped := skip, got := [] }
      let (job, s) := queueQuery { parm := p, origin := o, order := 0, target := target, imm := false, opened := none, merge := some m,
                                   ownDone := false } s
      let s := ask.foldl (fun s i => sendMsg n i 2 job (beBytes 8 target ++ queryToWire dim b) none s) s
      pumpQueries s

/-- A member's copy of a query (R311): queued for its first slot at or after the named time, or opened at once. -/
def acceptMember (b : List Byte) (g m tag t : Nat) (s : State) : State :=
  let s := if sreHold s then cntAdd 0xB0 0x850 1 s else s
  let imm := t = 0 ∨ t ≤ s.time.replica
  pumpQueries (queueQuery { parm := queryParm b, origin := .member g m tag, order := 0, target := if imm then 0 else t, imm := decide imm,
                            opened := none, merge := none, ownDone := false } s).2

/-! ### Running a query (R292, R293, R305) -/

/-- A candidate read: local ID, distance, eligible. -/
structure Read where
  id : Nat
  dist : Nat
  elig : Bool
  deriving DecidableEq, Repr

/-- What a round's reads give: the reads, or the ID that is lost. -/
inductive Reads where
  | ok (l : List Read)
  | lost (id : Nat)
  deriving DecidableEq, Repr

/-- A vector slot's bytes in the index's flash quota. -/
def slotRead (n : Nat) (i : Index) (slot : Nat) (s : State) : Option (List Byte) × State :=
  match smFind s.ftl.quotas (5000 + n) with
  | none => (none, s)
  | some q =>
    match rangeRead q.base (i.cfg.slotBytes / unitBytes + 2) (slot * i.cfg.slotBytes) i.cfg.slotBytes s with
    | (.ok d, s) => (some d, s)
    | (.error _, s) => (none, s)

/-- Read the candidates of a read set in order; those already read are reused (R305). -/
def readSet (n : Nat) (i : Index) (q : Query) (e : Nat) : List Nat → List Read → State → Reads × State
  | [], acc, s => (.ok acc, s)
  | id :: ids, acc, s =>
    if acc.any (·.id == id) then readSet n i q e ids acc s
    else if i.lost.contains id then (.lost id, s)
    else
      let s := cntAdd 0xB0 0x828 1 s
      let slot := ((smFind i.nodes id).bind fun g => versionAt g.slots e).getD 0
      match slotRead n i slot s with
      | (none, s) => (.lost id, s)
      | (some d, s) =>
        let vb := vecBytes i.cfg.e16 i.cfg.dim
        let qv := toElement i.cfg.e16 q.parm.qformat i.cfg.dim q.parm.q
        let dist := exactDist i.cfg qv (d.take vb)
        let pass := !q.parm.filter || filterRec q.parm.prog (d.drop vb) == .pass
        let s := if q.parm.filter then cntAdd 0xB0 (if pass then 0x830 else 0x838) 1 s else s
        readSet n i q e ids (acc ++ [⟨id, dist, pass⟩]) s

/-- Insert in the order of (exact distance, local ID). -/
def insRead (r : Read) : List Read → List Read
  | [] => [r]
  | x :: xs => if distKey r.dist < distKey x.dist ∨ (distKey r.dist = distKey x.dist ∧ r.id < x.id) then r :: x :: xs else x :: insRead r xs

/-- Rounds of a query: the result, or the ID that is lost. -/
def rounds (n : Nat) (i : Index) (q : Query) (e : Nat) : Nat → Nat → Nat → Nat → List Read → State → Except Nat QResult × State
  | 0, _, _, _, _, s => (.ok (QResult.empty 0), s)
  | fuel + 1, r, l, rr, acc, s =>
    let el := if i.cfg.e16 then 9 else 8
    let u := tabU i.cfg (vecVals el i.cfg.dim (toElement i.cfg.e16 q.parm.qformat i.cfg.dim q.parm.q))
    let w := walk i.nodes i.entry u e l
    let s := cntAdd 0xB0 0x820 w.evals s
    let live := w.list.filter fun c => ((smFind i.nodes c.id).map fun g => g.live e).getD false
    let set := (live.take rr).map (·.id)
    let step : Reads × State := if rr = 0 then (.ok (live.map fun c => ⟨c.id, fofInt c.cd, true⟩), s) else readSet n i q e set acc s
    match step with
    | (.lost id, s) => (.error id, s)
    | (.ok all, s) =>
      let elig := (all.filter fun x => x.elig && (rr = 0 || set.contains x.id)).foldr insRead []
      if elig.length < q.parm.k && q.parm.expand && decide (r < 1 + q.parm.expandMax) then
        rounds n i q e fuel (r + 1) (min (2 * l) 16384) (min (2 * rr) (min (2 * l) 16384)) (if rr = 0 then [] else all)
          (cntAdd 0xB0 0x818 1 s)
      else
        let out := elig.take q.parm.k
        let short := decide (out.length < q.parm.k)
        (.ok { status := if short then 0xB002 else 0, flags := b2n short + 4 * b2n (decide (1 < r)), rounds := r, epoch := e,
               snapshot := i.snapshot, passed := elig.length, members := 1, memberStatus := 0,
               reads := if rr = 0 then 0 else all.length, missing := 0,
               entries := out.map fun x => (globalId i x.id, x.dist) }, s)

/-- A query in flight completes: its answer is formed and delivered (R292 to R294); an unreadable slot aborts it (R315). -/
def runQuery (job : Nat) (s : State) : State :=
  match smFind s.sre.queries job with
  | none => s
  | some q => match q.opened, idx? s q.parm.index with
    | some (e, _), some i =>
      if q.ownDone then s
      else match rounds q.parm.index i q e 6 1 q.parm.l q.parm.rerank [] s with
        | (.ok r, s) => finishQuery job r s
        | (.error id, s) =>
          let s := modIdx q.parm.index (fun x => { x with lost := if x.lost.contains id then x.lost else x.lost ++ [id], lostId := some id }) s
          abortQuery job 0xB015 id (cntAdd 0xB0 0x878 1 s)
    | _, _ => s

end Sys2Proof.Machine
end

