-- ==== Sys2Proof/Machine/NetSync.lean ====
section
/-! DEFINITION. Group step synchronisation (R427, R428) and the states of the Sextant (R414, R415), shared by the Chart, the
Sextant's events and the Strait block. -/
namespace Sys2Proof.Machine
open Sys2Proof

/-- Encoding of SEXTANT_STATUS.STATE (R434). -/
def SxState.code : SxState → Nat
  | .freerun => 0
  | .acquiring => 1
  | .locked => 2
  | .coast => 3
  | .holdover => 4
  | .lost => 5

/-- PERIOD_US of the active bank, 0 if none. -/
def chartPeriod (s : State) : Nat := ((activeBank s).map (·.period)).getD 0
/-- PHASE_NS of the active bank, 0 if none. -/
def chartPhase (s : State) : Nat := ((activeBank s).map (·.phase)).getD 0

/-- The SYNC layout for this module (R422). -/
def syncBytes (s : State) : List Byte :=
  beBytes 4 (chartPeriod s) ++ beBytes 4 (chartPhase s) ++ beBytes 1 s.sext.st.code ++ List.replicate 7 0

/-- STRAIT_CTRL.EN. -/
def straitOn (s : State) : Bool := bit (regWord s 0x12 0x100).toNat 0

/-- Valid members of a group slot other than the module itself. -/
def peers (g : GrpSlot) : List Nat := (g.members.filter fun e => e.2.valid && e.1 != g.self).map Prod.fst

/-- Send SYNC to every other member of each group (R427). -/
def syncAll (s : State) : State :=
  if !straitOn s then s
  else (s.strait.slots.filter fun e => e.2.group != 0).foldl (fun s e =>
    (peers e.2).foldl (fun s m => sendMsg e.1 m 5 0 (syncBytes s) none s) s) s

/-- A member comes to be not in step: recorded and counted where it was in step (R428). -/
def outOfStep (n m : Nat) (f : Member → Member) (s : State) : State :=
  let was := (member s n m).inStep
  let s := modMember n m (fun b => { f b with inStep := false }) s
  if was then advisory 0x12 1 0x1203 0 0 (cntAdd 0x12 0x850 1 s) else s

/-- Every member comes to be not in step: the module's own Sextant is LOST or FREERUN (R428). -/
def allOutOfStep (s : State) : State :=
  s.strait.slots.foldl (fun s e => (peers e.2).foldl (fun s m => outOfStep e.1 m (fun b => { b with timeBad := true }) s) s) s

/-- The Sextant enters a state (R414): in FREERUN and LOST no member is in step; SYNC is sent at once (R427). -/
def sextTo (st : SxState) (s : State) : State :=
  if s.sext.st = st then s
  else
    let s := modSext (fun x => { x with st := st, from_ := if st = .acquiring then x.st else x.from_, good := 0, big := 0 }) s
    let s := if st = .locked then modSext (fun x => { x with lossT := none }) s else s
    let s := if st = .lost ∨ st = .freerun then allOutOfStep s else s
    syncAll s

/-- Seconds since the loss (SEXTANT_LOSS_S): 0 while LOCKED. -/
def lossSeconds (s : State) : Nat :=
  match s.sext.lossT with
  | none => 0
  | some t => min 0xFFFF ((now s - t) / 1000000000)

/-- The reference is lost (R414). ACQUIRING returns where it came from. -/
def refLost (s : State) : State :=
  let x := s.sext
  let s := modSext (fun x => { x with haveRef := false, sync := none, t1t2 := none, t3 := none }) s
  let s := if x.st = .locked ∨ x.st = .acquiring then cntAdd 0x11 0x830 1 s else s
  let fresh (s : State) : State :=
    sextTo .coast (modSext (fun x => { x with lossT := some (now s) }) s)
  match x.st with
  | .locked => fresh s
  | .acquiring =>
    match x.from_ with
    | .freerun => sextTo .freerun s
    | .locked => fresh s
    | _ =>
      let t := (x.lossT.map fun t => now s - t).getD 0
      if t < 60000000000 then sextTo .coast s else if t < 600000000000 then sextTo .holdover s
      else sextTo .lost (cntAdd 0x11 0x838 1 s)
  | _ => s

end Sys2Proof.Machine
end

