-- ==== Sys2Proof/Machine/ChartOps.lean ====
section
/-! DEFINITION. The Chart: cycles, swaps, slots (R24, R77 to R83), the step boundary (R69 to R73), dispatch (R65, R160, R161),
commit (R88, R111, R114, R384, R385), pre-emption and resume (R84 to R87). -/
namespace Sys2Proof.Machine
open Sys2Proof

/-- Fabric time on the Chart's replica. -/
def chartNow (s : State) : Nat := s.time.replica

/-- A bank. -/
def bankOf (s : State) (b : Bool) : Bank := if b then s.chart.bankB else s.chart.bankA

/-! ### Dispatch (R65, R160) -/

/-- A core at the start of a task (R160). -/
def newRun (ctx task stepNo batch : Nat) (t : TaskEnt) : Run :=
  let z : DWord := 0
  { ctx := ctx, task := task, pc := BitVec.ofNat 64 t.entry,
    s := #v[BitVec.ofNat 64 task, BitVec.ofNat 64 stepNo, BitVec.ofNat 64 batch, t.arg0, t.arg1, z, z, z, z, z, z, z, z, z, z, z],
    a := #v[0x0000000000000000, 0x1000000000000000, 0x2000000000000000, z, z, z, z, z],
    l := #v[LoopReg.zero, LoopReg.zero, LoopReg.zero, LoopReg.zero], lstack := [],
    t := Vector.replicate 16 0, g := Vector.replicate 8 0, latch := none, dma := [], mat := none, wait := .none, recv := none, ended := false }

/-- A task of a step is done. -/
def taskDone (st : Step) (i : Nat) : Bool := st.tasks.getD i .done == .done

/-- The lowest ready task: not started, and every task it depends on is done (R65). -/
def readyTask (p : Pkg) (st : Step) : Option Nat :=
  (List.range st.tasks.length).find? fun i =>
    st.tasks.getD i .done == .waiting && ((p.tasks[i]?.map (·.deps)).getD []).all (taskDone st)

/-- Issue ready tasks to the lowest-numbered free cores, in ascending task number (R65). -/
def issueTasks (n : Nat) : Nat → State → State
  | 0, s => s
  | fuel + 1, s =>
    match ctx? s n with
    | none => s
    | some c => match c.step with
      | none => s
      | some st =>
        match readyTask c.pkg st, (islandCores s c.island).find? fun k => (core s k).run.isNone with
        | some i, some k =>
          match c.pkg.tasks[i]? with
          | none => s
          | some t =>
            let s := modCore k (fun x => { x with run := some (newRun n i c.stepNo st.batch.length t) }) s
            issueTasks n fuel (putCtx n { c with step := some { st with tasks := st.tasks.set i (.running k) } } s)
        | _, _ => s

/-! ### The step boundary (R69 to R73) -/

/-- What the reservation of R69 does: slots left, sequences reserved with their pages, sequences held, joins deferred. -/
structure Reserve where
  free : Nat
  seqs : SMap Seq
  run : List Nat
  held : List Nat
  newPages : List Nat
  deferred : Nat
  deriving DecidableEq, Repr

/-- The lowest slot of a pool that no page of the given sequences holds. -/
def lowSlot (seqs : SMap Seq) : Nat :=
  let u := seqs.flatMap fun e => e.2.pages.filterMap fun p => match p.2.at_ with
    | .slot n => some n
    | .demoting n => some n
    | .fetching n _ => some n
    | .absent _ => none
  ((List.range (u.length + 1)).find? fun n => !u.contains n).getD 0

/-- Reserve a sequence's pages: absent pages take slots and their fetch is asked for, pages whose demotion is under way stay
(R278), new pages take slots (R71). -/
def reserveSeq (c : Ctx) (sq : Nat) (r : Reserve) : Reserve :=
  match smFind r.seqs sq with
  | none => r
  | some q =>
    let new := newPages c q (consumes c q)
    let keep : SMap CachePage := q.pages.map fun p => match p.2.at_ with
      | .demoting k => (p.1, { p.2 with at_ := .slot k })
      | _ => p
    let seqs0 := smSet r.seqs sq { q with pages := keep, st := .run }
    let seqs1 := (absentOf q).foldl (fun m k =>
      let sl := lowSlot m
      smMod m sq fun q => { q with pages := smMod q.pages k fun p => match p.at_ with
        | .absent d => { p with at_ := .fetching sl d }
        | _ => p }) seqs0
    let seqs2 := new.foldl (fun m lp =>
      let pg : CachePage := { at_ := .slot (lowSlot m), scales := List.replicate c.pkg.kvHeads 0, lastUse := c.stepNo, poisoned := false }
      smMod m sq fun q => { q with pages := smSet q.pages (pageKey lp.1 lp.2) pg }) seqs1
    let keys := new.map fun lp => stepPageKey sq lp.1 lp.2
    { r with free := r.free - (new.length + (absentOf q).length), seqs := seqs2, run := r.run ++ [sq], newPages := r.newPages ++ keys }

/-- Slots that a sequence needs (R68). -/
def seqNeed (c : Ctx) (r : Reserve) (sq : Nat) : Nat :=
  match smFind r.seqs sq with
  | none => 0
  | some q => (newPages c q (consumes c q)).length + (absentOf q).length

/-- HELD sequences of the previous step, then the other RUN sequences, each ascending. -/
def boundaryOrder (c : Ctx) : List Nat :=
  ((c.seqs.filter fun e => e.2.st == .held).map Prod.fst) ++ ((c.seqs.filter fun e => e.2.st == .run).map Prod.fst)

/-- Pending joins in order of acceptance. -/
def insJoin (e : Nat × Nat) : List (Nat × Nat) → List (Nat × Nat)
  | [] => [e]
  | x :: xs => if e.1 ≤ x.1 then e :: x :: xs else x :: insJoin e xs

/-- Sequence numbers of the pending joins, in order of acceptance (R70). -/
def joinOrder (c : Ctx) : List Nat :=
  (((c.seqs.filter fun e => e.2.st == .pending).map fun e => (e.2.order, e.1)).foldr insJoin []).map Prod.snd

/-- Reserve or hold the sequences of the table. -/
def reserveAll (c : Ctx) : List Nat → Reserve → Reserve
  | [], r => r
  | sq :: l, r =>
    if seqNeed c r sq ≤ r.free then reserveAll c l (reserveSeq c sq r)
    else reserveAll c l { r with held := r.held ++ [sq], seqs := smMod r.seqs sq fun q => { q with st := .held } }

/-- Admit pending joins until the first that does not fit. -/
def admitJoins (c : Ctx) : List Nat → Reserve → Reserve
  | [], r => r
  | sq :: l, r =>
    if seqNeed c r sq ≤ r.free then admitJoins c l (reserveSeq c sq r) else { r with deferred := l.length + 1 }

/-- The reservation of R69 over the table after the pending leaves. -/
def reserve (c : Ctx) : Reserve :=
  let r := reserveAll c (boundaryOrder c)
    { free := c.freeSlots, seqs := c.seqs, run := [], held := [], newPages := [], deferred := 0 }
  let j := joinOrder c
  if r.held.isEmpty then admitJoins c j r else { r with deferred := j.length }

/-- Bytes of an output record (R385). -/
def Ctx.recBytes (c : Ctx) : Nat := 32 + roundUp c.outBytes 8
/-- Free bytes of the output buffer. -/
def Ctx.outFree (c : Ctx) : Nat := c.outbufKib * 1024 - c.out.length * c.recBytes

/-- Pages of HELD sequences in external memory, coldest first (R272): last use, then higher sequence, lower layer, lower page. -/
structure ColdPage where
  lastUse : Nat
  seq : Nat
  key : Nat
  deriving DecidableEq, Repr

/-- Insert in demotion order. -/
def insCold (e : ColdPage) : List ColdPage → List ColdPage
  | [] => [e]
  | x :: xs =>
    if e.lastUse < x.lastUse ∨ (e.lastUse = x.lastUse ∧ (x.seq < e.seq ∨ (x.seq = e.seq ∧ e.key < x.key))) then e :: x :: xs
    else x :: insCold e xs

/-- Start the demotions that R272 asks for; with the drive read-only none is made (R344). -/
def demoteHeld (c : Ctx) (r : Reserve) : Ctx :=
  let lacked := (r.held.map fun sq => match smFind c.seqs sq with
    | some q => (newPages c q (consumes c q)).length
    | none => 0).sum
  let under := (c.seqs.map fun e => (e.2.pages.filter fun p => match p.2.at_ with | .demoting _ => true | _ => false).length).sum
  let cand := r.held.flatMap fun sq => match smFind c.seqs sq with
    | some q => q.pages.filterMap fun p => match p.2.at_ with
      | .slot _ => some (⟨p.2.lastUse, sq, p.1⟩ : ColdPage)
      | _ => none
    | none => []
  let pick := (cand.foldr insCold []).take (lacked - (r.free + under))
  pick.foldl (fun c e => { c with seqs := smMod c.seqs e.seq fun q =>
    { q with pages := smMod q.pages e.key fun p => match p.at_ with
      | .slot n => { p with at_ := .demoting n }
      | _ => p } }) c

/-- A step slot is idle (R79, R73). -/
def slotIdle (s : State) : State := cntAdd 0x30 0x830 1 s

/-- The batch of a step, in ascending sequence number (R72). -/
def batchOf (c : Ctx) (r : Reserve) : List BatchEnt :=
  (c.seqs.filter fun e => r.run.contains e.1).map fun e =>
    { seq := e.1, pos := e.2.pos, n := consumes c e.2, emits := e.2.prompt.length ≤ c.pkg.chunk }

/-- A step belongs to an Ingest: a sequence of its batch does (R139). -/
def batchIngest (c : Ctx) (b : List BatchEnt) : Bool := b.any fun e => ((smFind c.seqs e.seq).bind fun q => q.ingest).isSome

/-- A sequence is lost (R277): its entry is FREE with its pages and backing, and SEQ_LOST is recorded. An ingest that it belongs to
aborts. -/
def seqLost (n sq : Nat) (s : State) : State :=
  let job := ((ctx? s n).bind fun c => smFind c.seqs sq).bind fun q => q.ingest
  let s := freeSeq n sq (cntAdd 0xA0 0x830 1 (advisory 0xA0 3 0xA004 n sq s))
  match job with
  | none => s
  | some j => abortIngest j 0xA001 s

/-- A reservation reaches sequences with a poisoned page: they are lost (R254). -/
def losePoisoned (n : Nat) (s : State) : State :=
  match ctx? s n with
  | none => s
  | some c => ((c.seqs.filter fun e => e.2.pages.any fun p => p.2.poisoned).map Prod.fst).foldl (fun s sq => seqLost n sq s) s

/-- Start a step for a READY context at a slot (R69, R73, R79). -/
def startStep (n : Nat) (r : SlotRun) (s : State) : State :=
  let s := losePoisoned n (modCtx n (fun c => { c with seqs := c.seqs.filter fun e => !e.2.leave }) s)
  match ctx? s n with
  | none => slotIdle s
  | some c =>
    let rv := reserve c
    if c.outFree < rv.run.length * c.recBytes then ctxCnt n 0x30 0x930 1 (slotIdle s)
    else
      let pendingJoins := (joinOrder c).length
      let c1 := { c with seqs := rv.seqs }
      let c2 := if s.ftl.readOnly then c1 else demoteHeld c1 rv
      let s := putCtx n c2 s
      let s := if rv.held.isEmpty then s else ctxCnt n 0x30 0x918 rv.held.length (advisory 0x30 3 0x300F 0 0 s)
      let s := if rv.deferred = 0 ∨ pendingJoins = 0 then s
        else ctxCnt n 0x30 0x920 rv.deferred (advisory 0x30 2 0x300E n rv.deferred s)
      let batch := batchOf c rv
      if batch.isEmpty then slotIdle s
      else
        match ctx? s n with
        | none => s
        | some c3 =>
          let st : Step :=
            { slotStart := r.startT, slotClass := r.slot.cls, group := r.slot.group, checked := c.pkg.checked || batchIngest c batch,
              bank := s.sfu.active, compat := s.sfu.compat1 || s.chip.level1, batch := batch,
              prior := c.seqs.map fun e => ⟨e.1, e.2.st⟩, newPages := rv.newPages,
              tasks := List.replicate c.pkg.tasks.length .waiting, ev := List.replicate 16 0, np := [], kvSat := [], kvw := [],
              kvScale := [], discarded := [], out := [], tokens := [], sampled := false }
          issueTasks n 48 (putCtx n { c3 with st := .running, step := some st, staged := [], active := batch.length } s)

/-! ### Pre-emption and resume (R84 to R87) -/

/-- Pre-empt the running step of a context: each core's state goes to its save area, a waiting receive is parked. -/
def preempt (n cause : Nat) (s : State) : State :=
  match ctx? s n with
  | none => s
  | some c =>
    if c.step.isNone ∨ !c.save.isEmpty then s
    else
      let cores := islandCores s c.island
      let saves : SMap Save := cores.zipIdx.filterMap fun e =>
        match (core s e.1).run with
        | none => none
        | some r =>
          if r.ctx ≠ n then none
          else
            let parked := r.wait == .recv && r.recv.isSome
            some (e.2, { cause := cause, time := chartNow s, checked := (c.step.map (·.checked)).getD false,
                         wide := (c.step.map fun st => st.np.any fun p => p.2.rerun).getD false, parked := parked, core := e.1, run := r,
                         acc := (core s e.1).acc })
      let nPark := (saves.filter fun e => e.2.parked).length
      let s := putCtx n { c with save := saves, st := if c.st = .unloading then .unloading else .preempted } s
      ctxCnt n 0x30 0x910 1 (cntAdd 0x30 0x828 1 (cntAdd 0x30 0x838 nPark (freeCores n s)))

/-! A core goes on to its next instruction (R168, R169). -/

/-- Evaluate the active loops whose body ends at the instruction just executed, most recent first (R169): the run, and whether
one of them starts its body again. -/
def loopEnd (pc : Nat) : List Nat → Run → Run × Bool
  | [], r => (r, false)
  | i :: is, r =>
    let l := getL r i
    if l.stop = pc then
      let l2 := { l with count := l.count - 1, index := (l.index + 1) % 2 ^ 32 }
      if 0 < l2.count then ({ setL r i l2 with pc := BitVec.ofNat 64 l.start }, true)
      else loopEnd pc is { setL r i l2 with lstack := r.lstack.filter (· != i) }
    else loopEnd pc is r

/-- The run after the instruction at `pc` falls through to the next, and whether the next lies in the code. -/
def fallThrough (codeBytes pc : Nat) (r : Run) : Run × Bool :=
  let (r, again) := loopEnd pc r.lstack { r with wait := .none }
  if again then (r, true) else ({ r with pc := BitVec.ofNat 64 (pc + 16) }, decide (pc + 16 < codeBytes))

/-- Code bytes of the context a core runs. -/
def codeBytes (s : State) (r : Run) : Nat := ((ctx? s r.ctx).map fun c => c.pkg.code.length).getD 0

/-- A receive completes: S[RB] takes 0 or the encoding of TIMEOUT, and the instruction is done (R183). -/
def recvDone (v : Nat) (r : Run) : Run :=
  match r.recv with
  | none => r
  | some x => (fallThrough 0 r.pc.toNat { setS r (BitVec.ofNat 4 x.rb) (BitVec.ofNat 64 v) with recv := none }).1

/-- A core that has come to an address past its code raises BRANCH_RANGE (R168). -/
def checkFetch (k : Nat) (s : State) : State :=
  match (core s k).run with
  | none => s
  | some r => if codeBytes s r ≤ r.pc.toNat then stepFault r.ctx (some k) 0x3043 s else s

/-- TIMEOUT of the STRAIT block (R183, R478). -/
def cTIMEOUT : Code := 0x1201

/-- On resume a core evaluates its wait for a receive again (R87). -/
def wakeRecv (t : Nat) (r : Run) : Run :=
  match r.recv with
  | none => r
  | some x => if x.arrived then recvDone 0 r else if x.deadline ≤ t then recvDone cTIMEOUT r else r

/-- Resume a pre-empted step: each core reads its save area back. -/
def resume (n : Nat) (s : State) : State :=
  match ctx? s n with
  | none => s
  | some c =>
    let cores := c.save.map fun e => e.2.core
    let s := c.save.foldl (fun s e => modCore e.2.core (fun x => { x with run := some (wakeRecv (chartNow s) e.2.run), acc := e.2.acc }) s) s
    cores.foldl (fun s k => checkFetch k s) (issueTasks n 48 (putCtx n { c with save := [], st := .running } s))

/-! ### Slots -/

/-- Replace the entry of a slot run. -/
def modRun (b : Bool) (i st : Nat) (f : SlotRun → SlotRun) (s : State) : State :=
  modChart (fun c => { c with runs := c.runs.map fun r => if r.bankB = b ∧ r.idx = i ∧ r.startT = st then f r else r }) s

/-- Take a slot run off. -/
def delRun (b : Bool) (i st : Nat) (s : State) : State :=
  modChart (fun c => { c with runs := c.runs.filter fun r => !(r.bankB == b && r.idx == i && r.startT == st) }) s

/-- A slot never starts and is counted as SLOT_SKIPPED (R80, R83). -/
def skipSlot (r : SlotRun) (s : State) : State :=
  advisory 0x30 1 0x301A 0 0 (cntAdd 0x30 0x820 1 (delRun r.bankB r.idx r.startT s))

/-- The island of a step slot is free for it: no other slot on it is in progress and no step runs on it (R77, R83). -/
def islandFree (s : State) (r : SlotRun) : Bool :=
  !(s.chart.runs.any fun x => x.phase == .running && x.slot.isStep && x.slot.island == r.slot.island
      && !(x.bankB == r.bankB && x.idx == r.idx && x.startT == r.startT))
  && !(s.ctxs.any fun e => e.2.island == r.slot.island && e.2.step.isSome && e.2.save.isEmpty)

/-- A prefetch for a context has not completed (R270). -/
def prefetchLate (c : Ctx) : Bool :=
  c.halves.any (fun h => h.layer.isSome && !h.ready)
  || c.seqs.any fun e => e.2.pages.any fun p => match p.2.at_ with | .fetching .. => true | _ => false

/-- Start a slot (R79). In PS3 step slots count idle (R393). -/
def beginSlot (r : SlotRun) (s : State) : State :=
  let s := modRun r.bankB r.idx r.startT (fun x => { x with phase := .running }) (modChart (fun c => { c with lastSlot := r.idx }) s)
  if r.slot.isStep then
    if 3 ≤ chartPs s then slotIdle s
    else match ctx? s r.slot.ctx with
      | none => slotIdle s
      | some c =>
        let s := if prefetchLate c then ctxCnt r.slot.ctx 0xA0 0x918 1 s else s
        if c.island ≠ r.slot.island then slotIdle s
        else match c.st with
          | .ready => startStep r.slot.ctx r s
          | .preempted => resume r.slot.ctx (modCtx r.slot.ctx (fun c => { c with step := c.step.map fun st =>
              { st with slotStart := r.startT, slotClass := r.slot.cls, group := r.slot.group } }) s)
          | _ => slotIdle s
  else if r.slot.kind = 3 then openBatch r.slot.cls r.startT s
  else s

/-- A slot's start has come: it starts, waits for its island, or is skipped where its end has passed. -/
def slotDue (r : SlotRun) (s : State) : State :=
  if r.endT ≤ chartNow s then skipSlot r s
  else if r.slot.isStep && !islandFree s r then modRun r.bankB r.idx r.startT (fun x => { x with phase := .due }) s
  else beginSlot r s

/-- Slots that waited for an island that has become free start (R77, R83). -/
def startDue (s : State) : State :=
  (s.chart.runs.filter fun r => r.phase == .due).foldl (fun s r => slotDue r s) s

/-- A context's step runs now on its island's cores. -/
def stepRunning (s : State) (n : Nat) : Bool :=
  match ctx? s n with
  | none => false
  | some c => c.step.isSome && c.save.isEmpty

/-- A slot's end arrives (R83): an overrun is counted and recorded, and EXTEND or PREEMPT applies. -/
def endSlot (r : SlotRun) (s : State) : State :=
  match r.phase with
  | .waiting => skipSlot r s
  | .due => skipSlot r s
  | .ended => delRun r.bankB r.idx r.startT s
  | .running =>
    let s := delRun r.bankB r.idx r.startT s
    let n := r.slot.ctx
    let s := if r.slot.isStep && stepRunning s n && ((ctx? s n).map fun c => c.island == r.slot.island).getD false then
        let s := advisory 0x30 0 0x3019 0 0 (ctxCnt n 0x30 0x908 1 (cntAdd 0x30 0x818 1 s))
        if r.slot.preempt then settleUnload n (preempt n 1 s) else s
      else s
    startDue s

/-! ### Cycles and swaps -/

/-- The Chart starts a cycle at fabric time `t` with the active bank (R79, R80). -/
def startCycle (t : Nat) (s : State) : State :=
  match s.chart.active with
  | none => s
  | some b =>
    let late := s.chart.runs.filter fun r => r.phase == .waiting || r.phase == .due
    let s := late.foldl (fun s r => skipSlot r s) s
    let new := ((bankOf s b).slots.zipIdx.filter fun e => e.1.kind != 0).map fun e =>
      ({ bankB := b, idx := e.2, startT := t + e.1.start * 1000, endT := t + (e.1.start + e.1.dur) * 1000, slot := e.1,
         phase := .waiting } : SlotRun)
    cntAdd 0x30 0x800 1 (modChart (fun c => { c with runs := c.runs ++ new, cycleT := t, haveCycle := true, cycling := true }) s)

/-- The next fabric time at which the active bank's cycle starts (R24, R80, R81). -/
def nextCycle (s : State) : Option Nat :=
  match s.chart.active with
  | none => none
  | some b =>
    if !s.chart.enable then none
    else
      let bk := bankOf s b
      let lo := if s.chart.haveCycle then max s.chart.fromT (s.chart.cycleT + 1) else s.chart.fromT
      some (nextStart (bk.period * 1000) bk.phase lo)

/-- A swap takes effect at fabric time `t` (R77): slots of the old bank that have not started never start and are not counted;
the command that asked for it completes with `t`; SYNC is sent (R427). -/
def swapNow (b : Bool) (tag : Option Tag) (t : Nat) (s : State) : State :=
  let s := modChart (fun c => { c with
    active := some b, swap := none, swapT := t, haveCycle := false, fromT := t
    runs := c.runs.filter fun r => r.phase == .running }) s
  let s := cntAdd 0x30 0x810 1 s
  let s := match tag with
    | none => s
    | some g => succeed g (t % 2 ^ 32) (t / 2 ^ 32) [] s
  pumpQueries (syncAll s)

/-- Fabric time reaches a cycle start `t` of the active bank: a pending swap accepted strictly earlier takes effect there, and the
new bank's cycle starts there if it satisfies R24 (R32, R77); where it does not, CHART_GAP is recorded. -/
def cycleAt (t : Nat) (s : State) : State :=
  match s.chart.swap with
  | none => startCycle t s
  | some w =>
    if t ≤ w.at_ then startCycle t s
    else
      let s := swapNow w.bankB w.tag t s
      let bk := bankOf s w.bankB
      if nextStart (bk.period * 1000) bk.phase t = t then startCycle t s else advisory 0x30 6 0x301B 0 0 s

/-- The bank a swap would activate: the inactive one, or with none active the one most recently written (R77, R78). -/
def swapTarget (s : State) : Option Bool :=
  match s.chart.active with
  | some b => if (bankOf s !b).written then some !b else none
  | none => s.chart.last

/-- What a slot's context breaks: CHART_CONTEXT or CHART_KIND_MISMATCH (R76, R77). -/
def slotCtxBad (s : State) (x : Slot) : Bool :=
  x.isStep && (match ctx? s x.ctx with | none => true | some c => c.island != x.island)
/-- Its KIND does not match the context's. -/
def slotKindBad (s : State) (x : Slot) : Bool :=
  x.isStep && (match ctx? s x.ctx with | none => false | some c => c.pkg.encoder != (x.kind == 2))

/-- What refuses a swap request (R77, R78). -/
def swapRefusal (s : State) : Option Code :=
  if s.chart.swap.isSome then some 0x3012
  else match swapTarget s with
    | none => some 0x3018
    | some b =>
      if (bankOf s b).slots.any (slotCtxBad s) then some 0x3016
      else if (bankOf s b).slots.any (slotKindBad s) then some 0x3017 else none

/-- A swap request: refused with a record (R477), applied at once where no cycle start occurs (R78), or pending. -/
def swapRequest (tag : Option Tag) (s : State) : State :=
  match swapRefusal s, swapTarget s with
  | none, some b =>
    if s.chart.active.isNone ∨ !s.chart.enable then swapNow b tag (chartNow s) s
    else modChart (fun c => { c with swap := some { bankB := b, tag := tag, at_ := chartNow s } }) s
  | some e, _ =>
    let s := advisory 0x30 5 e 0 0 s
    match tag with
    | none => s
    | some t => refuse t e 0 s
  | none, none => s

/-- A pending swap is refused with a code. -/
def refuseSwap (code : Code) (s : State) : State :=
  match s.chart.swap with
  | none => s
  | some w =>
    let s := advisory 0x30 5 code 0 0 (modChart (fun c => { c with swap := none }) s)
    match w.tag with
    | none => s
    | some t => refuse t code 0 s

/-- Return both banks to the reset state of R78 (R56, R462); ENABLE stays. -/
def clearBanks (s : State) : State :=
  modChart (fun c => { c with
    bankA := Bank.empty, bankB := Bank.empty, active := none, last := none, swap := none, runs := c.runs.filter fun r => r.phase == .running }) s

/-- Cycle starts of the active bank in (lo, hi) and whether one lies in (lo, hi] (R80). -/
def startsIn (s : State) (lo hi : Nat) : Nat × Bool :=
  match nextCycle s, activeBank s with
  | some t0, some bk =>
    let p := max 1 (bk.period * 1000)
    let t := nextStart p bk.phase (max t0 (lo + 1))
    if hi < t then (0, false) else ((hi - t + p - 1) / p, true)
  | _, _ => (0, false)

/-- The replica is corrected to `t` (R23, R80). A forward step brings at once every instant it passes; where it reaches a cycle
start, one cycle starts at `t` and the starts passed over are counted. -/
def stepReplica (t : Nat) (s : State) : State :=
  let old := chartNow s
  let s2 := setTime { s.time with replica := t } s
  if t ≤ old then s2
  else
    let (missed, reached) := startsIn s old t
    let s2 := cntAdd 0x30 0x808 missed s2
    let s2 := (s2.chart.runs.filter fun r => r.phase == .running && r.endT ≤ t).foldl (fun s r => endSlot r s) s2
    if reached then cycleAt t s2
    else
      (s2.chart.runs.filter fun r => r.phase == .waiting && r.startT ≤ t).foldl (fun s r => slotDue r s) s2

/-! ### Completion of a step (R88, R111, R114, R384, R385) -/

/-- Append a value to a history record (R111). -/
def commitHist (p : NpSt) (h : HistRec) : HistRec :=
  { ring := h.ring.set h.next p.m, count := min (h.count + 1) 16, next := (h.next + 1) % 16, satTotal := w64 (h.satTotal + p.sat),
    reruns := w64 (h.reruns + b2n p.rerun), lastSat := min p.sat 0xFFFFFFFF }

/-- Commit the history of a step: each narrowing point by its HIST_INDEX, then cache saturations (R111, R114, R116). -/
def commitHists (c : Ctx) (st : Step) : SMap HistRec :=
  let upd (m : SMap HistRec) (i : Nat) (f : HistRec → HistRec) := smPut HistRec.zero m i (f (smGet HistRec.zero m i))
  let m := st.np.foldl (fun m p => upd m ((c.pkg.tensors[p.1]?.map (·.histIdx)).getD 0) (commitHist p.2)) c.hist
  st.kvSat.foldl (fun m e => upd m e.1 fun h => { h with satTotal := w64 (h.satTotal + e.2), lastSat := min e.2 0xFFFFFFFF }) m

/-- Every byte of a burst is written. -/
def wholeBurst (m : SMap Byte) (b : Nat) : Bool := (List.range 64).all fun i => (smFind m (64 * b + i)).isSome

/-- Commit the cache bytes a step has written to external memory; a burst written whole holds no error (R254). -/
def commitKv (st : Step) (s : State) : State :=
  modXmc (fun x => { x with mem := st.kvw.foldl (fun m e => smPut 0 m e.1 e.2) x.mem,
                            err := if x.err.isEmpty then x.err else x.err.filter fun e => !wholeBurst st.kvw e.1 }) s

/-- The sequences after a step: positions advance, prompts shrink, pages carry their scales and last use, a sequence that has
reached its maximum length leaves at the next boundary (R68, R72). One whose Leave is held gives up its pages and its backing now
(its maximum length is 0 from here on) and its entry at the boundary (R67). -/
def commitSeqs (c : Ctx) (st : Step) : SMap Seq :=
  c.seqs.map fun e => match st.batch.find? fun b => b.seq = e.1 with
    | none => e
    | some b =>
      let q := e.2
      let pages := q.pages.map fun p =>
        (p.1, { p.2 with lastUse := c.stepNo, scales := (smFind st.kvScale (e.1 * 2 ^ 28 + p.1)).getD p.2.scales })
      if q.leave then (e.1, { q with pos := q.pos + b.n, prompt := q.prompt.drop b.n, pages := [], maxLen := 0 })
      else (e.1, { q with pos := q.pos + b.n, prompt := q.prompt.drop b.n, pages := pages, leave := decide (q.maxLen ≤ q.pos + b.n) })

/-- Output records of a step, one for each sequence that emits, in ascending sequence number (R384, R385). -/
def stepRecords (c : Ctx) (st : Step) : List OutRec :=
  (st.batch.filter (·.emits)).zipIdx.map fun (e : BatchEnt × Nat) =>
    let q := smFind c.seqs e.1.seq
    let maxLen := (q.map (·.maxLen)).getD 0
    { dseq := 0, step := c.stepNo, seq := e.1.seq, endMark := decide (maxLen ≤ e.1.pos + e.1.n), tokValid := st.sampled,
      token := if st.sampled then st.tokens.getD e.2 0 else 0, pos := e.1.pos,
      payload := smBytes st.out (e.2 * c.outBytes) c.outBytes }

/-- Join the records of an ingest that have no sequence yet to free entries, in ascending number (R309). -/
def ingestJoin (job : Nat) (s : State) : State :=
  match smFind s.sre.ingests job with
  | none => s
  | some g => match ctx? s g.ctx with
    | none => s
    | some c =>
      let free := (List.range c.pkg.maxSeqs).filter fun q => (smFind c.seqs q).isNone
      let want := (g.recs.zipIdx.filter fun r => r.1.seq.isNone && r.1.vec.isNone).map Prod.snd
      let pairs := want.zip free
      let recs := g.recs.zipIdx.map fun r => match pairs.find? fun p => p.1 = r.2 with
        | some (_, q) => { r.1 with seq := some q }
        | none => r.1
      let c := pairs.foldl (fun c p =>
        let toks := ((g.recs[p.1]?).map (·.tokens)).getD []
        let q : Seq := { st := .pending, pos := 0, maxLen := toks.length, seed := 0, prompt := toks, order := c.joinOrder, leave := false,
                         ingest := some job, pages := [] }
        { c with seqs := smSet c.seqs p.2 q, joinOrder := c.joinOrder + 1 }) c
      modSre (fun x => { x with ingests := smSet x.ingests job { g with recs := recs } }) (putCtx g.ctx c s)

/-- An ingest takes the output record of one of its sequences: DIM FP32 values, converted to the ELEMENT form; another length
aborts it with EMBED_MISMATCH (R309). The sequence leaves. -/
def ingestTake (n job : Nat) (r : OutRec) (s : State) : State :=
  match smFind s.sre.ingests job with
  | none => s
  | some g => match idx? s g.index with
    | none => abortIngest job 0xB005 s
    | some i =>
      if r.payload.length ≠ 4 * i.cfg.dim then abortIngest job 0xB018 s
      else
        let v := toElement i.cfg.e16 5 i.cfg.dim r.payload
        let recs := g.recs.map fun x => if x.seq = some r.seq then { x with seq := none, vec := some v } else x
        modCtx n (fun c => { c with seqs := smDel c.seqs r.seq })
          (modSre (fun x => { x with ingests := smSet x.ingests job { g with recs := recs } }) s)

/-- Complete a step: everything it produced is committed (R88, R111, R114, R384). -/
def completeStep (n : Nat) (s : State) : State :=
  match ctx? s n with
  | none => s
  | some c => match c.step with
    | none => s
    | some st =>
      let recs := stepRecords c st
      let owner (r : OutRec) : Option Nat := (smFind c.seqs r.seq).bind fun q => q.ingest
      let own := recs.filter fun r => (owner r).isNone
      let numbered := own.zipIdx.map fun e => { e.1 with dseq := c.dseq + 1 + e.2 }
      let jobs := ((recs.filterMap owner).foldl (fun (l : List Nat) j => if l.contains j then l else l ++ [j]) [])
      let s := commitKv st s
      let s := putCtx n { c with
        hist := commitHists c st, seqs := commitSeqs c st, step := none, halves := ringEnd c.halves, st := if c.st = .unloading then .unloading else .ready,
        stepNo := c.stepNo + 1, out := c.out ++ numbered, dseq := c.dseq + own.length } s
      let s := ctxCnt n 0x30 0x900 1 s
      let s := recs.foldl (fun s r => match owner r with
        | some j => ingestTake n j r s
        | none => s) s
      let s := jobs.foldl (fun s j => ingestJoin j s) s
      startDue (settleUnload n s)

/-- A job fault raised by a core or by none, with the slots that waited for its island started (R83, R88). -/
def jobFault (n : Nat) (k : Option Nat) (code : Nat) (s : State) : State := startDue (stepFault n k code s)

end Sys2Proof.Machine
end

