-- ==== Sys2Proof/Machine/Objects.lean ====
section
/-! DEFINITION. Compass's objects: whose bytes stand where (R265 to R268), quarantine (R275) and the refetch of immutable bursts
(R274). -/
namespace Sys2Proof.Machine
open Sys2Proof

/-! ### Faults of objects -/

/-- A context takes a job fault whether or not a step of it runs (R275, R529): one record, and it becomes FAULTED. -/
def faultCtx (n code : Nat) (s : State) : State :=
  match ctx? s n with
  | none => s
  | some c =>
    if c.step.isSome then stepFault n none code s
    else
      let d := stepDetail s n none
      let s := jobErr 0x30 4 code (.step n) d.1 d.2 false s
      modCtx n (fun c => { c with st := if c.st = .unloading then .unloading else .faulted, fault := code }) s

/-- Contexts that use a package's objects. A load in progress has read flash afresh (R278). -/
def usersOf (s : State) (p : Pkg) : List Nat :=
  (s.ctxs.filter fun e => e.2.st != .loading && e.2.pkg.nsid == p.nsid && e.2.pkg.slba == p.slba && e.2.pkg.digest == p.digest).map Prod.fst

/-- Quarantine entry `i` of a context's package: its placed copy is given up, and every context that uses it takes RELOAD_REQUIRED
(R275). -/
def quarantine (n i : Nat) (s : State) : State :=
  match ctx? s n with
  | none => s
  | some c =>
    let us := usersOf s c.pkg
    let s := recordErr { code := 0xA003, page := 0xA0, bit := some 2, cls := .job, scope := .source 0xA0, d0 := i, d1 := c.pkg.nsid, injected := false } s
    let q : Quar := { nsid := c.pkg.nsid, slba := c.pkg.slba, entry := i, ctxs := us }
    let s := cntAdd 0xA0 0x828 1 (modCompass (fun x => { x with quar := x.quar ++ [q], quarInfo := some (us.headD n, i, c.pkg.nsid, c.pkg.slba) }) s)
    us.foldl (fun s u => startDue (faultCtx u 0xA005 (modCtx u (fun c => { c with places := c.places.set i .cold }) s))) s

/-- Bytes of a package in its namespace. -/
def pkgBytesAt (p : Pkg) (off len : Nat) (s : State) : Option (List Byte) × State :=
  match ns? s p.nsid with
  | none => (none, s)
  | some n => match nsRead n (p.slba * 4096 + off) len s with
    | (.ok b, s) => (some b, s)
    | (.error _, s) => (none, s)

/-! ### The staging ring -/

/-- STREAM and COLD entries of a layer. -/
def ringEntries (c : Ctx) (layer : Nat) : List (Nat × Tensor) :=
  (c.pkg.tensors.zipIdx.filter fun e => e.1.layer == layer && (c.places[e.2]? == some .stream || c.places[e.2]? == some .cold)).map fun e => (e.2, e.1)

/-- Bytes a layer's entries take in the ring. -/
def layerBytes (c : Ctx) (layer : Nat) : Nat := ((ringEntries c layer).map fun e => e.2.bytes).sum

/-! ### Cache pages -/

/-- Bytes of a page in its slot, as they stand. -/
def pageData (s : State) (c : Ctx) (slot : Nat) : List Byte :=
  (xmSegs c.layoutPhys (segFuel c.pkg.pageBytes) (slotOff c slot) c.pkg.pageBytes).flatMap fun g => match g with
    | .xm a n => (List.range n).map fun i => smGet 0 s.xmc.mem (a + i)
    | _ => []

/-- Bursts of a page in its slot. -/
def pageBursts (c : Ctx) (slot : Nat) : List Nat :=
  (xmSegs c.layoutPhys (segFuel c.pkg.pageBytes) (slotOff c slot) c.pkg.pageBytes).flatMap fun g => match g with
    | .xm a n => (List.range ((a + n - 1) / 64 + 1 - a / 64)).map fun i => a / 64 + i
    | _ => []

/-- Change a cache page. -/
def modPage (ctx sq key : Nat) (f : CachePage → CachePage) (s : State) : State :=
  modCtx ctx (fun c => { c with seqs := smMod c.seqs sq fun q => { q with pages := smMod q.pages key f } }) s

/-! ### Refetch (R274) -/

/-- What an immutable object's byte is: context, entry, offset in the package, and bytes of its stream from there. -/
structure ObjAt where
  ctx : Nat
  entry : Nat
  off : Nat
  len : Nat
  deriving DecidableEq, Repr

/-- A stream of a tensor at `base` holds byte `x`. -/
def inStream (n i base off len x : Nat) : Option ObjAt :=
  if base ≤ x ∧ x < base + len then some { ctx := n, entry := i, off := off + (x - base), len := len - (x - base) } else none

/-- Either stream of a tensor whose data and scale streams lie at `d` and `sc`. -/
def inTensor (n i d sc x : Nat) (t : Tensor) : Option ObjAt :=
  (inStream n i d t.dataOff t.dataBytes x).orElse fun _ => inStream n i sc t.scaleOff t.scaleBytes x

/-- The object at an offset of a context's layout. -/
def objOfLayout (n : Nat) (c : Ctx) (x : Nat) : Option ObjAt :=
  if c.stageF0 * frameBytes ≤ x ∧ x < c.poolF0 * frameBytes then
    let h := (x - c.stageF0 * frameBytes) / max 1 c.halfBytes
    match (c.halves[h]?).bind (·.layer) with
    | none => none
    | some l => (ringEntries c l).findSome? fun e =>
        let base := c.stageF0 * frameBytes + h * c.halfBytes + stageOff c l e.1
        inTensor n e.1 base (base + e.2.dataBytes) x e.2
  else ((c.pkg.tensors.zip c.places).zipIdx).findSome? fun e => match e.1.2 with
    | .xm d sc => inTensor n e.2 d sc x e.1.1
    | _ => none

/-- The object at a physical address of external memory. -/
def objOfPhys (s : State) (a : Nat) : Option ObjAt :=
  let f := a / frameBytes
  let own := s.ctxs.findSome? fun e =>
    (e.2.frames.findIdx? fun x => x == some f).bind fun i => objOfLayout e.1 e.2 (i * frameBytes + a % frameBytes)
  own.orElse fun _ => s.compass.shares.findSome? fun sh =>
    ((sh.2.frames.find? fun x => x.2 == f).map Prod.fst).bind fun i =>
      let x := i * frameBytes + a % frameBytes
      sh.2.users.head?.bind fun n => (ctx? s n).bind fun c =>
        sh.2.places.findSome? fun p => (c.pkg.tensors[p.1]?).bind fun t => inTensor n p.1 p.2.1 p.2.2 x t

/-- Offset in SCRATCH of a physical scratchpad offset. -/
def scratchOff : List (Nat × Nat) → Nat → Nat → Option Nat
  | [], _, _ => none
  | (b, l) :: ex, base, off =>
    if b * 1024 ≤ off ∧ off < (b + l) * 1024 then some (base + (off - b * 1024)) else scratchOff ex (base + l * 1024) off

/-- The PINNED_SRAM object at a physical scratchpad offset. -/
def objOfSpad (s : State) (off : Nat) : Option ObjAt :=
  s.ctxs.findSome? fun e => (scratchOff e.2.scratch 0 off).bind fun x =>
    ((e.2.pkg.tensors.zip e.2.places).zipIdx).findSome? fun t => match t.1.2 with
      | .sram d sc => inTensor e.1 t.2 d sc x t.1.1
      | _ => none

/-- Refetch one burst's bytes from flash and store them; an unrecoverable copy quarantines the object. -/
def refetch (o : ObjAt) (st : List Byte → State → State) (s : State) : State :=
  match ctx? s o.ctx with
  | none => s
  | some c => match pkgBytesAt c.pkg o.off (min 64 o.len) s with
    | (none, s) => quarantine o.ctx o.entry s
    | (some b, s) => corrected 0xA0 1 0xA002 0 0 (cntAdd 0xA0 0x820 1 (st (padTo 64 b) s))

end Sys2Proof.Machine
end

