-- ==== Sys2Proof/Machine/Scrub.lean ====
section
/-! DEFINITION. The scrubber of external memory (R257 to R259). -/
namespace Sys2Proof.Machine
open Sys2Proof

/-! ### The scrubber (R257 to R259) -/

/-- An address of a scrub register pair: bits [31:6] and [38:32]. -/
def scrubAddr (s : State) (off : Nat) : Nat :=
  (regWord s 0x90 off).toNat / 64 * 64 + 2 ^ 32 * bits (regWord s 0x90 (off + 4)).toNat 6 0

/-- GO is written (R257, R259). -/
def scrubGo (s : State) : State :=
  if s.xmc.scrub.busy then advisory 0x90 5 0x9006 0 0 s
  else
    let a := scrubAddr s 0x208
    let b := scrubAddr s 0x210
    let s := cntSet 0x90 0xA10 0 (cntSet 0x90 0xA08 0 (cntSet 0x90 0xA00 0 s))
    if b < a ∨ 0x7FFFFFFFC0 < a ∨ 0x7FFFFFFFC0 < b then
      modXmc (fun x => { x with scrub := { x.scrub with done := true, aborted := false, rangeErr := true, firstFail := none } }) s
    else
      modXmc (fun x => { x with scrub :=
        { busy := true, done := false, aborted := false, rangeErr := false, first := a / 64, last := b / 64, firstFail := none,
          lastFail := 0 } }) s

/-- Bursts below burst `n` that lie on channel `c`: 8 of them in each 512-byte granule that the channel serves (R250). -/
def chanBursts (n c : Nat) : Nat :=
  n / 8192 * 256 + ((List.range 1024).map fun g =>
    if xmChannel (512 * g) = c then min 8 (n % 8192 - 8 * g) else 0).sum

/-- The cache page at a burst of external memory: context, sequence, key. -/
def pageAtBurst (s : State) (b : Nat) : Option (Nat × Nat × Nat) :=
  s.ctxs.findSome? fun e => e.2.seqs.findSome? fun q => q.2.pages.findSome? fun p =>
    let hit (n : Nat) : Option (Nat × Nat × Nat) := if (pageBursts e.2 n).contains b then some (e.1, q.1, p.1) else none
    match p.2.at_ with
    | .slot n => hit n
    | .demoting n => hit n
    | _ => none

/-- What the scrubber does at a burst in error (R254, R258, R259). -/
def scrubBurst (b : Nat) (s : State) : State :=
  let (good, s) := burstCheck b s
  let s := modXmc (fun x => { x with scrub := { x.scrub with firstFail := some (x.scrub.firstFail.getD (64 * b)), lastFail := 64 * b } }) s
  if good then cntAdd 0x90 0xA08 1 s
  else
    let s := cntAdd 0x90 0xA10 1 s
    match objOfPhys s (64 * b), pageAtBurst s b with
    | some o, _ => refetch o (fun d => xmStore (64 * b) d) s
    | none, some (n, sq, k) => modPage n sq k (fun p => { p with poisoned := true }) s
    | none, none => s

/-- The scrub reads the first `n` bursts of its range: the clean ones are counted, those in error are dealt with in order. -/
def scrubRead (n : Nat) (s : State) : State :=
  let a := s.xmc.scrub.first
  let bad := (s.xmc.err.filter fun e => a ≤ e.1 && e.1 < a + n).map Prod.fst
  let s := cntAdd 0x90 0xA00 n s
  let s := (List.range 32).foldl (fun s c =>
    xmCnt c 0x800 (chanBursts (a + n) c - chanBursts a c - (bad.filter fun b => xmChannel (64 * b) == c).length) s) s
  bad.foldl (fun s b => scrubBurst b s) s

/-- A scrub ends (R258): DONE, with ABORTED where it was stopped; XM_SCRUB_DONE where NOTIFY is set. -/
def endScrub (aborted : Bool) (s : State) : State :=
  if !s.xmc.scrub.busy then s
  else
    let s := modXmc (fun x => { x with scrub := { x.scrub with busy := false, done := true, aborted := aborted } }) s
    if bit (regWord s 0x90 0x200).toNat 2 then advisory 0x90 4 0x9005 0 0 s else s

/-- A scrub is stopped, by ABORT or by the entry into PS4 (R258): what it has read by then is free, up to its whole range. -/
def scrubAbort (s : State) : State :=
  if !s.xmc.scrub.busy then s
  else
    let (v, s) := draw s
    endScrub true (scrubRead (v % (s.xmc.scrub.last - s.xmc.scrub.first + 2)) s)

end Sys2Proof.Machine
end

