-- ==== Sys2Proof/Machine/PsOps.lean ====
section
/-! DEFINITION. Power state transitions (R82, R232, R258, R262, R392, R393) and what stands before every command: the states in
which it is fetched, the exit from PS4 it brings about, and the refusals that hold for every command (R57, R380, R462, R472). -/
namespace Sys2Proof.Machine
open Sys2Proof

/-! ### Banks in retention (R232) -/

/-- Every core-local bank. -/
def locBanks : List BankId := (List.range 48).flatMap fun k => (List.range 16).map fun b => .loc k b
/-- Every scratchpad bank. -/
def spadBanks : List BankId := (List.range 64).map .spad

/-- Banks that are ON or AUTO enter retention. -/
def retainBanks (l : List BankId) (s : State) : State :=
  l.foldl (fun s b => if (bankPwr s b = 0 ∨ bankPwr s b = 3) ∧ bankPhys s b = .on then setPhys b .ret s else s) s

/-- Banks programmed ON or AUTO leave retention. -/
def releaseBanks (l : List BankId) (s : State) : State :=
  l.foldl (fun s b => if (bankPwr s b = 0 ∨ bankPwr s b = 3) ∧ bankPhys s b = .ret then setPhys b .on s else s) s

/-! ### Entries and exits -/

/-- Pre-empt every running step at an entry (R82, R393). -/
def preemptAll (s : State) : State :=
  ((s.ctxs.filter fun e => e.2.step.isSome && e.2.save.isEmpty).map Prod.fst).foldl (fun s n => settleUnload n (preempt n 2 s)) s

/-- An entry into PS3 or PS4 begins: running steps are pre-empted and banks enter retention; in PS4 the slots in progress end, the
Chart stops and a scrub aborts (R82, R232, R258, R393). -/
def deepEnter (target : Nat) (s : State) : State :=
  let s := retainBanks locBanks (preemptAll s)
  if target = 4 then
    let s := modChart (fun c => { c with runs := [] }) (scrubAbort (retainBanks spadBanks s))
    modXmc (fun x => { x with chans := (List.range 32).foldl (fun m k => smPut Chan.reset m k { smGet Chan.reset m k with selfRefresh := true }) x.chans }) s
  else startDue s

/-- PS4 is left: the replica is loaded from the master; the cycle starts that fell while it stood still are counted missed, and
the next one taken lies after the exit (R82). External memory leaves self-refresh (R262). -/
def leave4 (s : State) : State :=
  let t := s.time.master
  let s := cntAdd 0x30 0x808 (startsIn s s.time.replica (t + 1)).1 s
  let s := setTime { s.time with replica := t } s
  let s := modXmc (fun x => { x with chans := (List.range 32).foldl (fun m k => smPut Chan.reset m k { smGet Chan.reset m k with selfRefresh := false }) x.chans }) s
  modChip (fun c => { c with ps4Fabric := none }) (modChart (fun c => { c with fromT := t + 1 }) s)

/-- Deep states are left for `target`: banks come back (R232). -/
def deepLeave (src target : Nat) (s : State) : State :=
  let s := if src = 4 ∧ target < 4 then releaseBanks spadBanks (leave4 s) else s
  if 3 ≤ src ∧ target < 3 then releaseBanks locBanks s else s

/-- Complete the Set Features command of a transition: DW0 bit 0 tells a reversal. -/
def psTell (tag : Option Tag) (rev : Bool) (s : State) : State :=
  match tag with
  | none => s
  | some t => complete .admin t stSuccess (b2n rev) 0 [] s

/-- A selection of a power state is applied: the state selected follows it, and a transition begins unless it is in force. -/
def psBegin (tag : Option Tag) (target : Nat) (s : State) : State :=
  let cur := s.qcu.ps.inForce
  let s := modQcu (fun q => { q with ps := { q.ps with selected := target } }) s
  if target = cur then psTell tag false s
  else
    let s := modQcu (fun q => { q with ps := { q.ps with
      trans := some { target := target, src := cur, tag := tag }, lastOp := if target = 4 then cur else q.ps.lastOp, ps4At := if target = 4 then now s else q.ps.ps4At } }) s
    if cur < target ∧ 3 ≤ target then deepEnter target s else s

/-- Selections that waited for a transition are applied in their order, until one begins a transition. -/
def psNext : List (Tag × Nat) → State → State
  | [], s => modQcu (fun q => { q with ps := { q.ps with waiting := [] } }) s
  | (t, k) :: l, s =>
    let s := psBegin (some t) k s
    if s.qcu.ps.trans.isNone then psNext l s else modQcu (fun q => { q with ps := { q.ps with waiting := l } }) s

/-- The transition in progress ends in state `dst`, its command told whether it was reversed. -/
def psEnd (t : Trans) (dst : Nat) (rev : Bool) (s : State) : State :=
  let was := chartPs s
  let s := modQcu (fun q => { q with ps := { q.ps with trans := none, inForce := dst } }) s
  let s := psTell t.tag rev (deepLeave was dst s)
  pumpQueries (psNext s.qcu.ps.waiting s)

/-- The transition in progress completes (POWER_STATE_ENTRY_COMPLETE). -/
def psComplete (s : State) : State :=
  match s.qcu.ps.trans with
  | none => s
  | some t => psEnd t t.target false s

/-- An entry into PS3 or PS4 in progress is reversed: the module is back in the operational state it was leaving (R393). -/
def psReverse (s : State) : State :=
  match s.qcu.ps.trans with
  | none => s
  | some t => if t.src < t.target ∧ 3 ≤ t.target then psEnd t t.src true (cntAdd 0x20 0x860 1 s) else s

/-- The module leaves PS4 for the operational state it last left, or completes the exit in progress (R393). -/
def psExit (s : State) : State :=
  if s.qcu.ps.inForce ≠ 4 then s
  else match s.qcu.ps.trans with
    | some t => psEnd t t.target false s
    | none => psEnd { target := s.qcu.ps.lastOp, src := 4, tag := none } s.qcu.ps.lastOp false s

/-! ### Before a command -/

/-- The connection's queue: controller, queue number. -/
def queueOf (s : State) (conn : Nat) : Option (Nat × Nat) := ((conn? s conn).bind (·.queue)).map fun q => (q.1, q.2.1)

/-- The command comes by an admin queue. -/
def onAdmin (s : State) (t : Tag) : Bool := match queueOf s t.conn with | some (_, q) => q == 0 | none => false

/-- A command is outstanding on its queue until it completes (R375, R390). -/
def noteCmd (t : Tag) (op : Nat) (q : Sqe) (s : State) : State :=
  match conn? s t.conn with
  | none => s
  | some c =>
    if c.outst.any fun o => o.cid == t.cid then s
    else modConn t.conn (fun c => { c with outst := c.outst ++ [{ cid := t.cid, op := op, sqe := q, data := [], need := 0, asked := 0, r2ts := [], level1 := s.chip.level1 }] }) s

/-- Admin opcodes that the recovery agent serves: Get Log Page, Identify, Firmware Commit, Firmware Image Download, Keep Alive (R450). -/
def agentOps : List Nat := [0x02, 0x06, 0x10, 0x11, 0x18]

/-- What a command stands before: the final state of one that goes no further, or the state in which it executes. A command that
arrives by no queue, or by a frozen one, or before the module is ready, is not fetched; the recovery agent serves the
opcodes of R450 and no other; after a FATAL error I/O commands are
not fetched (R389, R472, R482). `wake` brings the module out of PS4; any command reverses an entry (R393). -/
def fetch (t : Tag) (op : Nat) (q : Sqe) (wake : Bool) (reverse : Bool) (s : State) : Except State State :=
  match conn? s t.conn with
  | none => .error s
  | some c =>
    if (s.chip.stage ≠ .ready ∧ !s.msp.recovery) ∨ c.queue.isNone ∨ (c.frozen.isSome ∧ !(c.outst.any fun o => o.cid == t.cid)) then .error s
    else if fatalStop s ∧ !onAdmin s t then .error s
    else if s.chip.stage ≠ .ready ∧ !(agentOps.contains op && onAdmin s t) then .error (complete .admin t stInvalidOpcode 0 0 [] (noteCmd t op q s))
    else
      let s := noteCmd t op q s
      let s := if reverse then psReverse s else s
      .ok (if wake then psExit s else s)

/-! ### Fields of BCS commands (R380, R381) -/

/-- Command dword `n` of an entry: 1 is NSID. -/
def cdw (q : Sqe) : Nat → Nat
  | 1 => q.nsid.toNat
  | 2 => q.cdw2.toNat
  | 3 => q.cdw3.toNat
  | 10 => q.cdw10.toNat
  | 11 => q.cdw11.toNat
  | 12 => q.cdw12.toNat
  | 13 => q.cdw13.toNat
  | 14 => q.cdw14.toNat
  | 15 => q.cdw15.toNat
  | _ => 0

/-- The dword numbers that R380 checks. -/
def cdwAll : List Nat := [1, 2, 3, 10, 11, 12, 13, 14, 15]

/-- Bits of a dword that a command's fields use, from a list of (dword, bits from 0 up). -/
def usedBits (w : List (Nat × Nat)) (n : Nat) : Nat := ((w.find? fun e => e.1 == n).map Prod.snd).getD 0

/-- The lowest-numbered dword with a nonzero Rsvd bit or a field out of its range (R380). -/
def badCdw (q : Sqe) (w : List (Nat × Nat)) (range : Nat → Bool) : Option Nat :=
  cdwAll.find? fun n => decide (2 ^ usedBits w n ≤ cdw q n) || !range n

/-- The field check of Write Chart. -/
def chartFields (q : Sqe) : Option Nat := badCdw q [(12, 1)] fun _ => true

/-- The field check of Sequence Join. -/
def joinFields (q : Sqe) : Option Nat :=
  badCdw q [(2, 32), (3, 32), (12, 10), (13, 12), (14, 32), (15, 21)] fun n => if n = 15 then decide (cdw q 15 ≤ 1048576) else true

/-- The field check of Search and Scan. -/
def resultFields (q : Sqe) : Option Nat := badCdw q [(10, 32)] fun _ => true

/-- The field check of the Register Window commands. -/
def windowFields (q : Sqe) : Option Nat := badCdw q [(12, 8), (13, 12), (14, 7)] fun _ => true

/-- A command may move at most 4 MiB (R372). -/
def maxData : Nat := 0x400000

/-- LIFECYCLE (R462). -/
def cLIFECYCLE : Code := 0x030A

/-- A BCS command: fetched, its fields checked, refused outside OPERATIONAL, else executed (R57, R380, R393, R462, R472). -/
def bcsRow (t : Tag) (op : Nat) (q : Sqe) (bad : Option Nat) (f : State → State) (s : State) : Res :=
  match fetch t op q true true s with
  | .error s => ok s
  | .ok s =>
    if fatalStop s then ok (complete .bcs t stInternalError 0 0 [] s)
    else match bad with
      | some d => ok (refuse t cCMD_PARAM d s)
      | none =>
        if lifecycle s ≠ .operational then ok (refuse t cLIFECYCLE 0 s)
        else if maxData < q.sgl then ok (complete .bcs t stInvalidField 0 0 [] s)
        else ok (f s)

/-- Namespace Not Ready with DNR set (R462): the Do Not Retry bit is bit 14 of the status, 0x4000 over the code as the model
writes it. PRESUMED (log entry 12). -/
def stNotReadyDnr : Status := ⟨0, 0x82 + 0x4000⟩

/-- An NVM command: not ready outside OPERATIONAL (R462). -/
def nvmRow (t : Tag) (op : Nat) (q : Sqe) (f : State → State) (s : State) : Res :=
  match fetch t op q true true s with
  | .error s => ok s
  | .ok s =>
    if fatalStop s then ok (complete .nvm t stInternalError 0 0 [] s)
    else if lifecycle s ≠ .operational then ok (complete .nvm t stNotReadyDnr 0 0 [] s) else ok (f s)

/-- An admin command; `serves` tells the commands that the admin queues go on serving after a FATAL error (R472). -/
def adminRow (t : Tag) (op : Nat) (q : Sqe) (serves : Bool) (f : State → State) (s : State) : Res :=
  match fetch t op q false true s with
  | .error s => ok s
  | .ok s =>
    if fatalStop s ∧ !serves then ok (complete .admin t stInternalError 0 0 [] s)
    else if maxData < q.sgl then ok (complete .admin t stInvalidField 0 0 [] s)
    else ok (f s)

end Sys2Proof.Machine
end

