-- ==== Sys2Proof/Machine/MutOps.lean ====
section
/-! DEFINITION. Changing an index (10): the operations of Index Mutate (R295, R297 to R299), creation, drop and the compaction switch
(R287, R300), and the records of an Ingest (R308, R309). -/
namespace Sys2Proof.Machine
open Sys2Proof

def cMUTATE_FORMAT : Code := 0xB00C

/-! ### Operations of a command (R297) -/

/-- An operation: OP, VFORMAT, LOCAL_ID, body. -/
structure MutOp where
  op : Nat
  vf : Nat
  id : Nat
  body : List Byte
  deriving DecidableEq, Repr

/-- Parse OPCOUNT operations: the operations and what follows them, or the index of the first whose header breaks the layout. -/
def parseOps : Nat → Nat → List Byte → Except Nat (List MutOp × List Byte)
  | 0, _, b => .ok ([], b)
  | n + 1, k, b =>
    let len := fld b 4 4
    let op := fld b 0 1
    let idOk := (3 ≤ op && op ≤ 5) || fld b 8 4 == 0
    if b.length < 16 ∨ len < 16 ∨ len % 8 ≠ 0 ∨ b.length < len ∨ !zeroRange b 2 4 ∨ !zeroRange b 12 16 ∨ op = 0 ∨ 6 < op ∨ !idOk
      ∨ (op ≠ 3 ∧ fld b 1 1 ≠ 0) ∨ fld b 8 4 = 0xFFFFFFFF then .error k
    else match parseOps n (k + 1) (b.drop len) with
      | .error e => .error e
      | .ok (l, r) => .ok (⟨op, fld b 1 1, fld b 8 4, slice b 16 (len - 16)⟩ :: l, r)

/-- Bytes of the graph and of the codebook (R287). -/
def graphBytes (c : IdxCfg) : Nat := c.maxVec * (c.m + 4 * c.degree)
/-- Bytes of the codebook. -/
def codebookBytes (c : IdxCfg) : Nat := 512 * c.dim
/-- Bytes of the delta. -/
def deltaCap (c : IdxCfg) : Nat := c.xmBytes - graphBytes c - codebookBytes c

/-! ### CREATE (R285, R287, R297) -/

/-- The configuration and codebook of a CREATE body. -/
def parseCfg (b : List Byte) : IdxCfg :=
  { metric := fld b 0 1, e16 := fld b 1 1 == 9, dim := fld b 2 2, m := fld b 4 2, degree := fld b 6 1, buildL := fld b 8 2, alpha := fld b 12 4,
    shard := fld b 10 2, maxVec := fld b 16 4, slotBytes := fld b 20 4, xmBytes := fld b 24 8, flashBytes := fld b 32 8,
    codebook := b.drop 64 }

/-- The values of a CREATE body lie within R285. -/
def cfgOk (b : List Byte) : Bool :=
  let c := parseCfg b
  1 ≤ c.metric && c.metric ≤ 3 && (fld b 1 1 == 8 || fld b 1 1 == 9) && 1 ≤ c.dim && c.dim ≤ 4096 && 1 ≤ c.m && c.m ≤ 256 && c.dim % c.m == 0
  && 1 ≤ c.degree && c.degree ≤ 64 && max c.degree 16 ≤ c.buildL && c.buildL ≤ 1024 && 0x3F800000 ≤ c.alpha && c.alpha ≤ 0x40000000
  && 1 ≤ c.maxVec && c.maxVec ≤ 2 ^ 31 && [512, 1024, 2048, 4096, 8192, 16384].contains c.slotBytes
  && c.xmBytes % 0x200000 == 0 && c.flashBytes % 16384 == 0 && zeroRange b 7 8 && zeroRange b 40 64
  && b.length == roundUp (64 + codebookBytes c) 8

/-- What refuses a CREATE (R287, R297). -/
def createRefusal (n : Nat) (b : List Byte) (s : State) : Option Code :=
  let c := parseCfg b
  let frames := c.xmBytes / frameBytes
  let units := c.flashBytes / unitBytes
  if !cfgOk b then some cMUTATE_FORMAT
  else if (idx? s n).isSome then some 0xB009
  else if c.xmBytes < graphBytes c + codebookBytes c + 0x4000000 then some 0xB00A
  else if generalFrames < s.compass.frames.length + frames + saveFrames (saveBytes s) then some 0x3007
  else if c.flashBytes < c.maxVec * c.slotBytes + 2 * (graphBytes c + codebookBytes c) + 2 * deltaCap c then some 0xB00A
  else if userUnits < allocUnits s + units ∨ (freeBase (usedRanges s) 0 units).isNone then some 0x3007
  else none

/-- Create an index: empty, READY, both epochs 0 (R295). -/
def createIdx (n : Nat) (b : List Byte) (s : State) : State :=
  let c := parseCfg b
  let s := allocQuota (5000 + n) (c.flashBytes / unitBytes) (takeFrames (c.xmBytes / frameBytes) (3000 + n) s).2
  modSre (fun x => { x with idx := smSet x.idx n {
    cfg := c, st := .ready, entry := none, last := 0, floor := 0, lastPrev := 0, lastT := 0, snapshot := 0, nodes := [], deltaUsed := 0,
    lost := [], lostId := none, compact := none, drop := none } }) s

/-! ### INSERT, DELETE and RECORD (R298, R299) -/

/-- A command's changes as they are worked out: the index, the slots to write, inserts and deletes counted. -/
structure Work where
  idx : Index
  writes : List (Nat × List Byte)
  ins : Nat
  dels : Nat
  deriving DecidableEq, Repr

/-- The lowest flash slot that no node's version and no earlier write of the command names. -/
def freeSlot (w : Work) : Nat :=
  let used := (w.idx.nodes.flatMap fun e => e.2.slots.map Prod.snd) ++ w.writes.map Prod.fst
  ((List.range (used.length + 1)).find? fun k => !used.contains k).getD 0

/-- Slots of an index's flash quota. -/
def slotCount (c : IdxCfg) : Nat := c.flashBytes / max c.slotBytes 1

/-- Bytes of the filter record at the head of a body's rest; none where its LENGTH overruns. -/
def recordOf (b : List Byte) : Option (List Byte) :=
  if b.length < 4 ∨ fld b 0 4 = 0 then some []
  else if b.length < fld b 0 4 then none else some (b.take (fld b 0 4))

/-- Vector bytes of an INSERT body in its VFORMAT. -/
def bodyVec (c : IdxCfg) (vf : Nat) : Nat := if vf = 5 then 4 * c.dim else vecBytes (vf == 9) c.dim

/-- Take delta room for an operation (R298). -/
def takeDelta (op : Nat) (w : Work) : Option Work :=
  let u := w.idx.deltaUsed + Config.deltaBytes op w.idx.cfg.m w.idx.cfg.degree
  if deltaCap w.idx.cfg < u then none else some { w with idx := { w.idx with deltaUsed := u } }

/-- A node of the working copy that is live. -/
def liveNode (w : Work) (id : Nat) : Option GNode := (smFind w.idx.nodes id).filter fun g => g.del.isNone

/-- Insert a vector given in ELEMENT form with its filter record at epoch `e`; `total` counts the module's other IDs. -/
def workInsert (e total id : Nat) (v rec_ : List Byte) (w : Work) : Except Code Work :=
  let c := w.idx.cfg
  if (smFind w.idx.nodes id).isSome then .error 0xB010
  else if c.maxVec < w.idx.nodes.length + 1 ∨ 2 ^ 31 < total + w.idx.nodes.length + 1 then .error 0xB00B
  else if c.slotBytes < vecBytes c.e16 c.dim + rec_.length then .error 0xB012
  else
    let k := freeSlot w
    match takeDelta 3 w with
    | none => .error 0xB013
    | some w =>
      if slotCount c ≤ k then .error 0xB013
      else
        let (nodes, entry) := insertNode c e id k (vecVals (if c.e16 then 9 else 8) c.dim v) w.idx.nodes w.idx.entry
        .ok { w with idx := { w.idx with nodes := nodes, entry := entry }
                     writes := w.writes ++ [(k, padTo c.slotBytes (v ++ rec_))], ins := w.ins + 1 }

/-- Delete a live ID at epoch `e`. -/
def workDelete (e id : Nat) (w : Work) : Except Code Work :=
  match liveNode w id, takeDelta 4 w with
  | none, _ => .error 0xB011
  | some _, none => .error 0xB013
  | some g, some w => .ok { w with idx := { w.idx with nodes := smSet w.idx.nodes id { g with del := some e }, lost := w.idx.lost.filter (· != id) }
                                   dels := w.dels + 1 }

/-- Give a live ID a new flash slot with vector bytes `v` and a new filter record at epoch `e`. -/
def workRecord (e id : Nat) (v rec_ : List Byte) (w : Work) : Except Code Work :=
  let c := w.idx.cfg
  match liveNode w id, takeDelta 5 w with
  | none, _ => .error 0xB011
  | some g, w' =>
    if c.slotBytes < vecBytes c.e16 c.dim + rec_.length then .error 0xB012
    else match w' with
      | none => .error 0xB013
      | some w =>
        let k := freeSlot w
        if slotCount c ≤ k then .error 0xB013
        else .ok { w with
          idx := { w.idx with nodes := smSet w.idx.nodes id { g with slots := (e, k) :: g.slots.filter fun x => x.1 != e }, lost := w.idx.lost.filter (· != id) }
          writes := w.writes ++ [(k, padTo c.slotBytes (v ++ rec_))] }

/-- Bytes of a vector slot in an index's flash quota. -/
def slotBytesOf (n : Nat) (i : Index) (slot : Nat) (s : State) : Option (List Byte) × State :=
  match smFind s.ftl.quotas (5000 + n) with
  | none => (none, s)
  | some q =>
    match rangeRead q.base (i.cfg.slotBytes / unitBytes + 2) (slot * i.cfg.slotBytes) i.cfg.slotBytes s with
    | (.ok d, s) => (some d, s)
    | (.error _, s) => (none, s)

/-- Vector bytes that a RECORD carries over: of the command's own write, or of the newest slot. Those of an unreadable slot are not
stated: free bytes (log entry 38). -/
def carryVec (n id : Nat) (w : Work) (s : State) : List Byte × State :=
  let vb := vecBytes w.idx.cfg.e16 w.idx.cfg.dim
  match (smFind w.idx.nodes id).bind fun g => g.slots.head? with
  | none => ([], s)
  | some (_, k) => match w.writes.find? fun x => x.1 == k with
    | some (_, d) => (d.take vb, s)
    | none => match slotBytesOf n w.idx k s with
      | (some d, s) => (d.take vb, s)
      | (none, s) => let (v, s) := draw s; (leBytes vb v, s)

/-- Format checks of an operation on an existing index, apart from what the index holds. -/
def opFormat (c : IdxCfg) (o : MutOp) : Bool :=
  if o.op = 3 then (o.vf == 5 || o.vf == 8 || o.vf == 9) && decide (bodyVec c o.vf ≤ o.body.length) && (recordOf (o.body.drop (bodyVec c o.vf))).isSome
  else if o.op = 5 then (recordOf o.body).isSome
  else o.body.isEmpty

/-- What keeps an operation from being applied in its order: IDs that earlier operations of the command insert count as live
(R297, R298). `news` are those IDs, `gone` those it deletes. -/
def opRefusal (w : Work) (total : Nat) (news gone : List Nat) (o : MutOp) : Option Code :=
  let c := w.idx.cfg
  let has := (smFind w.idx.nodes o.id).isSome || news.contains o.id
  let live := ((liveNode w o.id).isSome || news.contains o.id) && !gone.contains o.id
  let n := w.idx.nodes.length + news.length
  if !opFormat c o then some cMUTATE_FORMAT
  else if o.op = 3 then
    if has then some 0xB010
    else if c.maxVec < n + 1 ∨ 2 ^ 31 < total + n + 1 then some 0xB00B
    else if c.slotBytes < vecBytes c.e16 c.dim + ((recordOf (o.body.drop (bodyVec c o.vf))).getD []).length then some 0xB012 else none
  else if o.op = 4 then (if live then none else some 0xB011)
  else if !live then some 0xB011
  else if c.slotBytes < vecBytes c.e16 c.dim + ((recordOf o.body).getD []).length then some 0xB012 else none

/-- The first operation refused in the order of the command. -/
def opsRefusal (w : Work) (total : Nat) : Nat → List Nat → List Nat → List MutOp → Option (Code × Nat)
  | _, _, _, [] => none
  | k, news, gone, o :: os =>
    match opRefusal w total news gone o with
    | some c => some (c, k)
    | none => opsRefusal w total (k + 1) (if o.op = 3 then o.id :: news else news) (if o.op = 4 then o.id :: gone else gone) os

/-- Insert an operation in ascending local ID. -/
def insOp (e : Nat × MutOp) : List (Nat × MutOp) → List (Nat × MutOp)
  | [] => [e]
  | x :: xs => if e.2.id ≤ x.2.id then e :: x :: xs else x :: insOp e xs

/-- Apply numbered operations: inserts come in ascending local ID (R299), the others after them in their order. The refusal and the
index of the operation it names. -/
def applyOps (n e total : Nat) : List (Nat × MutOp) → Work → State → Except (Code × Nat) Work × State
  | [], w, s => (.ok w, s)
  | (k, o) :: os, w, s =>
    let c := w.idx.cfg
    let r : Except Code Work × State :=
      if o.op = 3 then
        let vb := bodyVec c o.vf
        (workInsert e total o.id (toElement c.e16 o.vf c.dim (o.body.take vb)) ((recordOf (o.body.drop vb)).getD []) w, s)
      else if o.op = 4 then (workDelete e o.id w, s)
      else
        let (v, s) := carryVec n o.id w s
        (workRecord e o.id v ((recordOf o.body).getD []) w, s)
    match r with
    | (.error c, s) => (.error (c, k), s)
    | (.ok w, s) => applyOps n e total os w s

/-- Write the slots of a commit into the index's quota. -/
def writeSlots (n : Nat) (c : IdxCfg) (l : List (Nat × List Byte)) (s : State) : State :=
  match smFind s.ftl.quotas (5000 + n) with
  | none => s
  | some q => l.foldl (fun s e => (rangeWrite q.base (5000 + n) 2 (e.1 * c.slotBytes) e.2 s).2) s

/-- Commit at epoch `e` (R295, R296, R318). -/
def commitWork (n e : Nat) (w : Work) (s : State) : State :=
  let s := writeSlots n w.idx.cfg w.writes s
  let t := s.time.replica
  let s := modIdx n (fun i => { w.idx with
    last := e, lastPrev := if i.lastT = t ∧ i.last ≠ 0 then i.lastPrev else i.last, lastT := t }) s
  cntAdd 0xB0 0x868 w.dels (cntAdd 0xB0 0x860 w.ins (cntAdd 0xB0 0x858 1 s))

/-- IDs of the module's other indexes. -/
def otherIds (s : State) (n : Nat) : Nat := ((s.sre.idx.filter fun e => e.1 != n).map fun e => e.2.nodes.length).sum

/-- The commit epoch, or EPOCH_ORDER (R295). -/
def commitEpoch (i : Index) (epoch : Nat) : Option Nat :=
  if epoch = 0 then some (i.last + 1) else if i.last < epoch then some epoch else none

/-! ### Compaction and drop (R300) -/

/-- The switch: the new snapshot at S is loaded, the versions up to S are gone (R300, R318). Delta bytes that later versions keep are not
stated: a free value, none where no version is later (log entry 16). -/
def switchIdx (n : Nat) (s : State) : State :=
  match idx? s n with
  | none => s
  | some i => match i.compact with
    | none => s
    | some (e, tag) =>
      let (v, s) := draw s
      let nodes := compactNodes i.cfg i.nodes e
      let entry := match lowestLive nodes e with | some x => some x | none => nodes.head?.map Prod.fst
      let s := modIdx n (fun i => { i with
        st := .ready, nodes := nodes, entry := entry, floor := e, snapshot := i.snapshot + 1, compact := none
        deltaUsed := if e = i.last then 0 else v % (i.deltaUsed + 1) }) s
      let s := cntAdd 0xB0 0x870 1 s
      match tag with
      | none => s
      | some t => succeed t 0 0 [] s

/-- Drop an index now: both quotas are free, and what waits for it completes. -/
def dropNow (n : Nat) (s : State) : State :=
  match idx? s n with
  | none => s
  | some i =>
    let s := freeQuota (5000 + n) (freeFrames (3000 + n) (modSre (fun x => { x with idx := smDel x.idx n }) s))
    let s := match i.compact.bind Prod.snd with
      | none => s
      | some t => refuse t 0xB005 0 s
    match i.drop.getD none with
    | none => s
    | some t => succeed t 0 0 [] s

/-- A drop or a switch that waited for an index's queries goes on once none is in progress. -/
def settleIdx (n : Nat) (s : State) : State :=
  match idx? s n with
  | none => s
  | some i =>
    if idxQueries s n ≠ 0 then s
    else if i.drop.isSome then dropNow n s
    else if i.st = .switching then pumpQueries (switchIdx n s)
    else s

/-- DROP: queued queries are refused, those in progress are waited for. -/
def dropIdx (t : Tag) (n : Nat) (s : State) : State :=
  let s := modIdx n (fun i => { i with drop := some (some t) }) s
  let q := s.sre.queries.filter fun e => e.2.opened.isNone && e.2.parm.index == n && !e.2.ownDone
  settleIdx n ((q.map Prod.fst).foldl (fun s j => finishQuery j (QResult.empty 0xB005) s) s)

/-! ### Index Mutate (R297) -/

/-- What refuses a command on an index's state; DROP is accepted on a damaged index alone of all operations (R316). -/
def mutState (s : State) (n : Nat) (op : Nat) : Option Code :=
  match idx? s n with
  | none => some 0xB005
  | some i =>
    if i.drop.isSome then some 0xB005
    else if op = 2 then none
    else match idxState s i with
      | .loading _ => some 0xB006
      | .damaged => some 0xB007
      | _ => none

/-- Apply a command's list of INSERT, DELETE and RECORD operations. -/
def mutateList (t : Tag) (n epoch : Nat) (ops : List MutOp) (s : State) : State :=
  match idx? s n with
  | none => refuse t 0xB005 0 s
  | some i =>
    let w : Work := { idx := i, writes := [], ins := 0, dels := 0 }
    let total := otherIds s n
    match opsRefusal w total 0 [] [] ops with
    | some (c, k) => refuse t c k s
    | none => match commitEpoch i epoch with
      | none => refuse t 0xB00D 0 s
      | some e =>
        let num := ops.zipIdx.map fun x => (x.2, x.1)
        let ins := (num.filter fun x => x.2.op == 3).foldr insOp []
        match applyOps n e total (ins ++ num.filter fun x => x.2.op != 3) w s with
        | (.error (c, k), s) => refuse t c k s
        | (.ok w, s) => succeed t (e % 2 ^ 32) (e / 2 ^ 32) [] (commitWork n e w s)

/-- The index of the first operation that may not stand with others in a command. -/
def soloAt (ops : List MutOp) : Option Nat :=
  if ops.length ≤ 1 then none else ops.findIdx? fun o => o.op == 1 || o.op == 2 || o.op == 6

/-- Carry out an Index Mutate command (R297, R298, R300). -/
def mutate (t : Tag) (d : List Byte) (s : State) : State :=
  let n := fld d 1 1
  match parseOps (fld d 2 2) 0 (d.drop 64) with
  | .error k => refuse t cMUTATE_FORMAT k s
  | .ok (ops, rest) =>
    if !rest.isEmpty then complete .bcs t stSglLength 0 0 [] s
    else match soloAt ops, ops with
      | some k, _ => refuse t cMUTATE_FORMAT k s
      | none, [] => refuse t cMUTATE_FORMAT 0 s
      | none, o :: _ =>
        if o.op = 1 then
          -- CREATE needs the management core and waits for it (R439)
          if s.msp.busy then s else match createRefusal n o.body s with
          | some c => refuse t c 0 s
          | none => succeed t 0 0 [] (createIdx n o.body s)
        else match mutState s n o.op with
          | some c => refuse t c 0 s
          | none =>
            if o.op = 2 then (if o.body.isEmpty then dropIdx t n s else refuse t cMUTATE_FORMAT 0 s)
            else if o.op = 6 then
              if !o.body.isEmpty then refuse t cMUTATE_FORMAT 0 s
              else if ((idx? s n).bind fun i => i.compact).isSome then refuse t 0xB008 0 s
              else modIdx n (fun i => { i with compact := some (i.last, some t), st := .compacting }) s
            else mutateList t n (fld d 8 8) ops s

/-- Flash units that an Index Mutate command's slots touch. -/
def mutUnits (d : List Byte) : Nat :=
  match parseOps (fld d 2 2) 0 (d.drop 64) with
  | .error _ => 0
  | .ok (ops, _) => (ops.filter fun o => o.op == 3 || o.op == 5).length

/-! ### Ingest (R308, R309) -/

/-- Split records from bytes: `n` well-formed records that fill them. -/
def splitRecs : Nat → List Byte → Option (List (List Byte × List RField))
  | 0, b => if b.isEmpty then some [] else none
  | n + 1, b =>
    match parseRec b with
    | none => none
    | some (len, fs) =>
      if b.length < len then none
      else match splitRecs n (b.drop len) with
        | none => none
        | some l => some ((b.take len, fs) :: l)

/-- Tokens of a record: the field at a position holds them as an array of 32-bit integers. DEDUCED (log entry 39): the position in the
record's field list. -/
def recTokens (pos : Nat) (fs : List RField) : Option (List Nat) :=
  match fs[pos]? with
  | none => none
  | some f => if f.type = 0x0A then some ((List.range (f.val.length / 4)).map fun i => fld f.val (4 * i) 4) else none

/-- The records of an ingest block as its job holds them. -/
def ingestRecs (d : List Byte) : Option (List IngRec) :=
  match splitRecs (fld d 16 4) (slice d 64 (fld d 48 4)) with
  | none => none
  | some l => (l.zipIdx.map fun e => (recTokens (fld d 24 1) e.1.2).map fun ts =>
      ({ id := fld d 20 4 + e.2, tokens := ts, rec_ := keepRec (fld d 32 8) e.1.2, seq := none, vec := none } : IngRec)).mapM id

/-- The header keeps the ranges of R308. -/
def ingestRanges (d : List Byte) : Bool :=
  fld d 1 1 < 16 && fld d 2 2 < 1024 && 1 ≤ fld d 16 4 && fld d 16 4 ≤ 4096 && fld d 20 4 + fld d 16 4 ≤ 0xFFFFFFFF && fld d 24 1 < 64
  && zeroRange d 25 32 && zeroRange d 52 64

/-- Logical blocks of an ingest's records. -/
def ingestBlocks (d : List Byte) : Nat := cdiv (fld d 48 4) 4096

/-- How an ingest is refused before anything is written. -/
inductive IngBad where
  | code (c : Code)
  | status (st : Status)
  deriving DecidableEq, Repr

/-- What refuses an ingest (R309); the order of the checks is DEDUCED (log entry 39). -/
def ingestRefusal (d : List Byte) (s : State) : Option IngBad :=
  if !ingestRanges d then some (.code cCMD_PARAM)
  else match ingestRecs d with
    | none => some (.code cCMD_PARAM)
    | some recs => match mutState s (fld d 1 1) 3, idx? s (fld d 1 1) with
      | some c, _ => some (.code c)
      | none, none => some (.code 0xB005)
      | none, some i =>
        match ctx? s (fld d 2 2) with
        | none => some (.code 0xB016)
        | some c =>
          if !c.pkg.encoder ∨ c.st = .faulted ∨ c.st = .unloading then some (.code 0xB016)
          else if recs.any fun r => decide (c.pkg.maxSeqLen < r.tokens.length) then some (.code 0x3004)
          else if recs.any fun r => (smFind i.nodes r.id).isSome then some (.code 0xB010)
          else if i.cfg.maxVec < i.nodes.length + recs.length ∨ 2 ^ 31 < totalIds s + recs.length then some (.code 0xB00B)
          else if recs.any fun r => decide (i.cfg.slotBytes < vecBytes i.cfg.e16 i.cfg.dim + r.rec_.length) then some (.code 0xB012)
          else match ns? s (fld d 4 4) with
            | none => some (.status stInvalidNs)
            | some n => if 4 * n.units < fld d 8 8 + ingestBlocks d then some (.status stLbaRange) else none

/-- Refuse an ingest. -/
def ingestRefuse (t : Tag) (b : IngBad) (s : State) : State :=
  match b with
  | .code c => refuse t c 0 s
  | .status st => complete .bcs t st 0 0 [] s

/-- Stages 1 and 2 of an accepted ingest: its records are written, and its job starts. -/
def ingestStart (t : Tag) (d : List Byte) (s : State) : State :=
  match ingestRefusal d s, ns? s (fld d 4 4), ingestRecs d with
  | some b, _, _ => ingestRefuse t b s
  | none, some n, some recs =>
    let nb := ingestBlocks d
    match rangeWrite n.base (fld d 4 4) (nb / 4 + 3) (fld d 8 8 * 4096) (padTo (nb * 4096) (slice d 64 (fld d 48 4))) s with
    | (some _, s) => refuse t 0xC001 0 s
    | (none, s) =>
      let job := s.sre.nextJob
      let g : Ingest := { tag := t, index := fld d 1 1, ctx := fld d 2 2, epoch := fld d 40 8, recs := recs }
      ingestJoin job (modSre (fun x => { x with ingests := smSet x.ingests job g, nextJob := job + 1 }) s)
  | none, _, _ => refuse t cCMD_PARAM 0 s

/-- Stage 4: insert every embedded record and commit (R309). -/
def ingestInsert (job : Nat) (g : Ingest) (s : State) : State :=
  let s' := modSre (fun x => { x with ingests := smDel x.ingests job }) s
  match mutState s g.index 3, idx? s g.index with
  | some c, _ => refuse g.tag c 0 s'
  | none, none => refuse g.tag 0xB005 0 s'
  | none, some i => match commitEpoch i g.epoch with
    | none => refuse g.tag 0xB00D 0 s'
    | some e =>
      let w0 : Except Code Work := .ok { idx := i, writes := [], ins := 0, dels := 0 }
      let total := otherIds s g.index
      let r := g.recs.foldl (fun (w : Except Code Work) x => match w with
        | .error c => .error c
        | .ok w => workInsert e total x.id (x.vec.getD []) x.rec_ w) w0
      match r with
      | .error c => refuse g.tag c 0 s'
      | .ok w => succeed g.tag (e % 2 ^ 32) (e / 2 ^ 32) [] (commitWork g.index e w s')

end Sys2Proof.Machine
end

