-- ==== Sys2Proof/Machine/Nvm.lean ====
section
/-! DEFINITION. The MTE's own work (11): copy runs and their commits (R331, R334, R343, R345), retirement of superblocks and
dies, the admission of host writes (R344, R347, R498), and the NVM commands (R330, R331, R338, R339). -/
namespace Sys2Proof.Machine
open Sys2Proof

def cWRITE_PROTECT_WORN : Code := 0xD003

/-! ### Copy runs -/

/-- Valid units that a run still has to copy: none of their copies is in flight. -/
def runLeft (s : State) (r : CopyRun) : List (Nat × FUnit) :=
  (validUnits s r.sb).filter fun e => (match r.slot with | none => true | some k => uSlot e.1 == k)
    && !(s.ftl.progs.any fun p => p.expect == entUnit e.1 (sbOf s r.sb).slc)

/-- Copy a unit (R345 stage 1): it is read, and its copy is programmed in the stream's open superblock. A unit that cannot be read
is copied as it is: the copy cannot be read either. DESIGN CHOICE (log entry 35). -/
def copyUnit (r : CopyRun) (e : Nat × FUnit) (s : State) : State :=
  let (d, s) := unitRead e.1 s
  match startProg (if r.why = 2 then 3 else 2) false e.2 (entUnit e.1 (sbOf s r.sb).slc) r.why (some r.sb) s with
  | (false, s) => s
  | (true, s) => match d, s.ftl.progs.getLast? with
    | none, some p => modFtl (fun x => { x with qual := smSet x.qual p.unit 3 }) s
    | _, _ => s

/-- Superblock `n` is retired (R343); SPARE_LOW below 5 % of a new module's spare, once. -/
def retireSb (n : Nat) (s : State) : State :=
  let s := modSb n (fun b => { b with st := .retired }) s
  if sbSpare s * 20 < 9893 ∧ !s.ftl.spareLowDone then
    smartEvent 2 (advisory 0xD0 1 0xD002 0 0 (modFtl (fun x => { x with spareLowDone := true, smart2 := true }) s))
  else s

/-- A run with no unit left and no copy in flight ends: a victim is marked and its erase starts (R345 stages 3 and 4); a superblock
emptied for it is retired. -/
def endRun (r : CopyRun) (s : State) : State :=
  let s := modFtl (fun x => { x with runs := x.runs.filter fun y => y != r }) s
  if r.why ≤ 2 then modSb r.sb (fun b => { b with st := .erasing }) s
  else if r.why = 5 then retireSb r.sb s else s

/-- Carry a run on: copies start for its valid units that have none in flight. -/
def goRun (r : CopyRun) (s : State) : State :=
  let s := (runLeft s r).foldl (fun s e => copyUnit r e s) s
  if (runLeft s r).isEmpty && !(s.ftl.progs.any fun p => p.victim == some r.sb && p.why == r.why) then endRun r s else s

/-- Begin a run. -/
def beginRun (sb why : Nat) (slot : Option Nat) (s : State) : State :=
  let r : CopyRun := { sb := sb, why := why, slot := slot, valid := (validUnits s sb).length }
  let s := modFtl (fun x => { x with runs := x.runs ++ [r] }) s
  goRun r (if why ≤ 2 then modSb sb (fun b => { b with st := .victim }) s else s)

/-- Rewrites scheduled begin (R331). -/
def beginRewrites (s : State) : State :=
  let l := s.ftl.rewrites
  l.foldl (fun s k => beginRun (k / 32) 3 (some (k % 32)) s) (modFtl (fun x => { x with rewrites := [] }) s)

/-- Every run is carried on, and the rewrites scheduled meanwhile begin. -/
def goRuns (s : State) : State := beginRewrites (s.ftl.runs.foldl (fun s r => goRun r s) s)

/-! ### Failures and retirement (R334, R343) -/

/-- A die is retired: DIE_RETIRED, and every superblock of its group that holds data is relocated (R334). -/
def retireDie (d : Nat) (s : State) : State :=
  if dieRetired s d then s
  else
    let ch := d / 16
    let s := advisory (0xC0 + ch / 4) 3 0xC005 0 0 (modFtl (fun x => { x with retiredDies := x.retiredDies ++ [d] }) s)
    let g := (ch / 32) * 16 + d % 16
    let l := (s.ftl.sbs.filter fun e => e.1 % 32 == g && (e.2.st == .opened || e.2.st == .closed)).map Prod.fst
    l.foldl (fun s n => if (validUnits s n).isEmpty || s.ftl.runs.any (fun r => r.sb == n && r.slot.isNone) then s else beginRun n 4 none s) s

/-- A die-block fails a program or an erase: BLOCK_RETIRED, and the die is retired at its eighth failure (R334, R343). -/
def dieFail (sb slot : Nat) (s : State) : State :=
  let d := dieOf sb slot
  let n := smGet 0 s.ftl.dieFails d + 1
  let s := advisory (0xC0 + chanOf sb slot / 4) 2 0xC004 0 0 (modFtl (fun x => { x with dieFails := smSet x.dieFails d n }) s)
  if 8 ≤ n then retireDie d s else s

/-- Count one operation of each die of a superblock on its channels' pages. -/
def countDies (sb off : Nat) (s : State) : State :=
  (List.range 8).foldl (fun s j => cntAdd (0xC0 + 8 * ((sb % 32) / 16) + j) off 4 s) s

/-! ### Garbage collection (R345 to R349) -/

/-- The garbage-collection run in progress. -/
def gcRun (s : State) : Option CopyRun := s.ftl.runs.find? fun r => r.why == 1

/-- Closed superblocks that no run holds, with their valid units. -/
def gcCands (s : State) : List (Nat × Nat) :=
  (s.ftl.sbs.filter fun e => e.2.st == .closed && !(s.ftl.runs.any fun r => r.sb == e.1)).map fun e => (e.1, (validUnits s e.1).length)

/-- The closed superblock with the fewest valid units, ties to the lower number, of those a test admits (R345). -/
def gcVictim (ok : Nat → Nat → Bool) (s : State) : Option Nat :=
  ((gcCands s).foldl (fun (b : Option (Nat × Nat)) e =>
    if !ok e.1 e.2 then b
    else match b with
      | none => some e
      | some x => if e.2 < x.2 then some e else b) none).map Prod.fst

/-- A superblock holds an invalid unit. -/
def hasInvalid (s : State) (sb valid : Nat) : Bool := decide (valid < (sbOf s sb).used)

/-- FTL_GC_LW and FTL_GC_HW. -/
def gcLw (s : State) : Nat := regFld s 0xD0 0x11C 15 0
def gcHw (s : State) : Nat := regFld s 0xD0 0x11C 31 16

/-- Host units admitted for one unit that the foreground run copies, times 2^16 (R347). -/
def creditOf (r : CopyRun) (s : State) : Nat :=
  let cap := sbCap (sbOf s r.sb).slc
  let f := sbFree s - sbCrit
  let span := gcHw s - sbCrit
  if r.valid = 0 then 0 else (cap - r.valid) * min f span * 65536 / (r.valid * max span 1)

/-- The foreground run throttles host writes: a victim with no valid unit throttles nothing (R347). -/
def throttles (s : State) : Bool :=
  s.ftl.foreground && (match gcRun s with | none => true | some r => r.valid != 0)

/-- What follows when free superblocks rise: foreground collection ends above HW, background at its target, and R344 above HW. -/
def freeRose (s : State) : State :=
  let f := sbFree s
  let s := if gcHw s < f then modFtl (fun x => { x with foreground := false, readOnly := false, credit := 0 }) s else s
  if regFld s 0xD0 0x120 31 16 ≤ f then modFtl (fun x => { x with background := false }) s else s

/-- No NVM or Ingest command has been in flight for FTL_BG_IDLE_MS (R346). -/
def mteIdle (s : State) : Bool :=
  s.ftl.waiting.isEmpty && s.ftl.through.isEmpty && s.sre.ingests.isEmpty
    && decide (s.ftl.idleSince + regFld s 0xD0 0x12C 15 0 * 1000000 ≤ now s)

/-- An NVM read, write, Verify, Scan or Ingest command is in flight: background work yields (R346). -/
def mteBusy (s : State) : State := modFtl (fun x => { x with idleSince := now s, background := false }) s

/-! ### Host writes (R338, R339, R344, R347) -/

/-- First logical block of a command. -/
def slba (q : Sqe) : Nat := q.cdw10.toNat + 2 ^ 32 * q.cdw11.toNat
/-- Logical blocks of a command. -/
def nlb (q : Sqe) : Nat := q.cdw12.toNat % 65536 + 1

/-- Ranges of a Dataset Management command: first block and number of blocks. -/
def dsmRanges (q : Sqe) (d : List Byte) : List (Nat × Nat) :=
  (List.range (q.cdw10.toNat % 256 + 1)).map fun k => (fld d (16 * k + 8) 8, fld d (16 * k + 4) 4)

/-- Units that a byte range touches. -/
def touched (off n : Nat) : Nat := if n = 0 then 0 else (off + n - 1) / unitBytes + 1 - off / unitBytes

/-- Units that a waiting command writes into the buffer. -/
def writeUnits (w : WaitWrite) : Nat :=
  if w.op = 0x89 then touched (fld w.data 8 8 * 4096) (ingestBlocks w.data * 4096)
  else if w.op = 0x8D then mutUnits w.data
  else if w.op = 0x09 then ((dsmRanges w.sqe w.data).map fun r => min 2 (touched (r.1 * 4096) (r.2 * 4096))).sum
  else touched (slba w.sqe * 4096) (nlb w.sqe * 4096)

/-- Write zeros from a byte offset to another, in one unit or none. -/
def zeroPart (b owner lo hi : Nat) (s : State) : Option Nat × State :=
  if hi ≤ lo then (none, s) else rangeWrite b owner 2 lo (List.replicate (hi - lo) 0) s

/-- Deallocate blocks: whole units are unmapped, parts are written with zeros (R339). -/
def deallocate (b owner : Nat) (r : Nat × Nat) (s : State) : Option Nat × State :=
  let lo := r.1 * 4096
  let hi := lo + r.2 * 4096
  let u0 := cdiv lo unitBytes
  let u1 := hi / unitBytes
  if r.2 = 0 then (none, s)
  else if u1 < u0 then zeroPart b owner lo hi s
  else
    match zeroPart b owner lo (u0 * unitBytes) s with
    | (some e, s) => (some e, s)
    | (none, s) => zeroPart b owner (u1 * unitBytes) hi (unmapRange (b + u0) (u1 - u0) s)

/-- Deallocate a list of ranges. -/
def deallocs (b owner : Nat) : List (Nat × Nat) → State → Option Nat × State
  | [], s => (none, s)
  | r :: rs, s => match deallocate b owner r s with
    | (some e, s) => (some e, s)
    | (none, s) => deallocs b owner rs s

/-- Write zeros over a byte range, unit by unit. -/
def zeroRun (b owner : Nat) : Nat → Nat → Nat → State → Option Nat × State
  | 0, _, _, s => (none, s)
  | fuel + 1, off, n, s =>
    if n = 0 then (none, s)
    else
      let k := min n (unitBytes - off % unitBytes)
      match rangeWrite b owner 1 off (List.replicate k 0) s with
      | (some e, s) => (some e, s)
      | (none, s) => zeroRun b owner fuel (off + k) (n - k) s

/-- Apply a command that writes. -/
def applyWrite (n : Ns) (w : WaitWrite) (s : State) : Option Nat × State :=
  let len := nlb w.sqe * 4096
  let off := slba w.sqe * 4096
  if w.op = 0x01 then rangeWrite n.base w.sqe.nsid.toNat (touched off len + 1) off (padTo len (w.data.take len)) s
  else if w.op = 0x08 then zeroRun n.base w.sqe.nsid.toNat (touched off len + 1) off len s
  else deallocs n.base w.sqe.nsid.toNat (dsmRanges w.sqe w.data) s

/-- Map indices of a command's blocks that stand in write-buffer slots. -/
def slotIdxs (n : Ns) (w : WaitWrite) (s : State) : List Nat :=
  let rs := if w.op = 0x09 then dsmRanges w.sqe w.data else [(slba w.sqe, nlb w.sqe)]
  (s.ftl.slots.map fun e => e.2.idx).filter fun i => rs.any fun r =>
    decide (0 < r.2 ∧ n.base + r.1 * 4096 / unitBytes ≤ i ∧ i ≤ n.base + ((r.1 + r.2) * 4096 - 1) / unitBytes)

/-- Carry out an admitted write and complete it: at once (R338), or once its units stand in flash (R498). -/
def doWrite (w : WaitWrite) (s : State) : State :=
  if w.op = 0x89 then ingestStart w.tag w.data s
  else if w.op = 0x8D then mutate w.tag w.data s
  else match ns? s w.sqe.nsid.toNat with
  | none => complete .nvm w.tag stInvalidNs 0 0 [] s
  | some n => match applyWrite n w s with
    | (some _, s) => complete .nvm w.tag stUnrecoveredRead 0 0 [] s
    | (none, s) =>
      let l := slotIdxs n w s
      if s.pwr.writeThrough && !l.isEmpty then modFtl (fun x => { x with through := x.through ++ [⟨w.tag, l⟩] }) s
      else complete .nvm w.tag stSuccess 0 0 [] s

/-- Writes whose units all stand in flash complete (R498). -/
def settleThrough (s : State) : State :=
  let done := s.ftl.through.filter fun t => t.idxs.all fun i => mapGet s i / 2 ^ 34 != 3
  done.foldl (fun s t => complete .nvm t.tag stSuccess 0 0 [] s)
    (modFtl (fun x => { x with through := x.through.filter fun t => !done.contains t }) s)

/-- Refuse a write under R344. -/
def refuseWorn (w : WaitWrite) (s : State) : State :=
  if 0x80 ≤ w.op then refuse w.tag cWRITE_PROTECT_WORN 0 s else complete .nvm w.tag stWriteProtected cWRITE_PROTECT_WORN 0 [] s

/-- What becomes of a write that asks for admission. -/
inductive Admit where
  /-- It is carried out and uses this much credit. -/
  | go (cost : Nat)
  /-- It waits; `held` under R347. -/
  | wait (held : Bool)
  /-- The drive is full and its spares are worn (R344). -/
  | worn
  deriving DecidableEq, Repr

/-- Admission of a write (R344, R347, R350). The slots of an Index Mutate command ask for buffer room alone. -/
def admission (w : WaitWrite) (s : State) : Admit :=
  let n := writeUnits w
  let room := decide (slotsUsed s + s.ftl.progs.length + n ≤ 62992)
  if s.pwr.flush.isSome then .wait false
  else if w.op = 0x8D then (if room then .go 0 else .wait false)
  else if sbFree s ≤ sbCrit then
    (if (gcRun s).isNone && (gcVictim (hasInvalid s) s).isNone && !(s.ftl.sbs.any fun e => e.2.st == .erasing) then .worn else .wait true)
  else if throttles s && decide (s.ftl.credit < n * 65536) then .wait true
  else if !room then .wait false
  else .go (if throttles s then n * 65536 else 0)

/-- Time that a held write has waited is counted (R347). -/
def countHeld (w : WaitWrite) (s : State) : State := if w.held then cntAdd 0xD0 0x840 (now s - w.since) s else s

/-- R344 comes into force: every waiting write is refused. -/
def goWorn (s : State) : State :=
  let l := s.ftl.waiting
  let s := modFtl (fun x => { x with readOnly := true, waiting := [] }) s
  let s := smartEvent 3 (advisory 0xD0 2 cWRITE_PROTECT_WORN 0 0 s)
  l.foldl (fun s w => refuseWorn w (countHeld w s)) s

/-- Admit waiting writes in their order, up to the first that must go on waiting. -/
def admitAll : Nat → State → State
  | 0, s => s
  | fuel + 1, s =>
    match s.ftl.waiting with
    | [] => s
    | w :: ws => match admission w s with
      | .worn => goWorn s
      | .wait h =>
        if h == w.held then s
        else modFtl (fun x => { x with waiting := { w with held := h, since := now s } :: ws }) (countHeld w s)
      | .go c => admitAll fuel (doWrite w (countHeld w (modFtl (fun x => { x with waiting := ws, credit := x.credit - c }) s)))

/-- Admit what can be admitted. -/
def admitWrites (s : State) : State := admitAll s.ftl.waiting.length s

/-- A command that writes asks for admission behind those that wait. -/
def askWrite (w : WaitWrite) (s : State) : State :=
  if s.ftl.readOnly then refuseWorn w s
  else
    let first := s.ftl.waiting.isEmpty
    let h := if first then (match admission w s with | .wait h => h | _ => false) else (s.ftl.waiting.all fun x => x.held)
    let s := modFtl (fun x => { x with waiting := x.waiting ++ [{ w with held := h }] }) s
    if first then admitWrites s else s

/-! ### NVM commands -/

/-- The namespace of a command, attached to its controller. -/
def nvmNs (t : Tag) (q : Sqe) (s : State) : Option Ns :=
  match queueOf s t.conn, ns? s q.nsid.toNat with
  | some (c, _), some n => if n.attached.contains c then some n else none
  | _, _ => none

/-- Blocks of a namespace. -/
def Ns.blocks (n : Ns) : Nat := 4 * n.units

/-- What refuses a command of a block range with the SGL length it requires. The order of the checks is PRESUMED (log entry 12). -/
def nvmBad (n : Ns) (q : Sqe) (need : Nat) (limit : Bool) : Option Status :=
  if limit ∧ maxData < nlb q * 4096 then some stInvalidField
  else if n.blocks < slba q + nlb q then some stLbaRange
  else if q.sgl ≠ need then some stSglLength else none

/-- Run an NVM command on its namespace. -/
def onNs (t : Tag) (q : Sqe) (f : Ns → State → State) (s : State) : State :=
  match nvmNs t q s with
  | none => complete .nvm t stInvalidNs 0 0 [] s
  | some n => f n s

/-- NVM_READ (R330, R372). -/
def execNvmRead (t : Tag) (q : Sqe) (_d : List Byte) (s : State) : Res :=
  nvmRow t 0x02 q (fun s => onNs t q (fun n s =>
    match nvmBad n q (nlb q * 4096) true with
    | some st => complete .nvm t st 0 0 [] s
    | none => match nsRead n (slba q * 4096) (nlb q * 4096) (mteBusy s) with
      | (.ok d, s) => complete .nvm t stSuccess 0 0 d s
      | (.error _, s) => complete .nvm t stUnrecoveredRead 0 0 [] s) s) s

/-- NVM_VERIFY (R331): the full ladder, with no data transferred. -/
def execNvmVerify (t : Tag) (q : Sqe) (_d : List Byte) (s : State) : Res :=
  nvmRow t 0x0C q (fun s => onNs t q (fun n s =>
    match nvmBad n q 0 false with
    | some st => complete .nvm t st 0 0 [] s
    | none => match nsRead n (slba q * 4096) (nlb q * 4096) (mteBusy s) with
      | (.ok _, s) => complete .nvm t stSuccess 0 0 [] s
      | (.error _, s) => complete .nvm t stUnrecoveredRead 0 0 [] s) s) s

/-- NVM_WRITE (R338, R339, R344, R347). -/
def execNvmWrite (t : Tag) (q : Sqe) (d : List Byte) (s : State) : Res :=
  nvmRow t 0x01 q (fun s => onNs t q (fun n s =>
    match nvmBad n q (nlb q * 4096) true with
    | some st => complete .nvm t st 0 0 [] s
    | none => askWrite { tag := t, op := 0x01, sqe := q, data := d, since := now s, held := false } (mteBusy s)) s) s

/-- WRITE_ZEROES (R339): zeros are written as a write does. -/
def execWriteZeroes (t : Tag) (q : Sqe) (_d : List Byte) (s : State) : Res :=
  nvmRow t 0x08 q (fun s => onNs t q (fun n s =>
    match nvmBad n q 0 false with
    | some st => complete .nvm t st 0 0 [] s
    | none => askWrite { tag := t, op := 0x08, sqe := q, data := [], since := now s, held := false } (mteBusy s)) s) s

/-- DATASET_MANAGEMENT (R339): with the deallocate attribute, else hints that have no effect. -/
def execDatasetManagement (t : Tag) (q : Sqe) (d : List Byte) (s : State) : Res :=
  nvmRow t 0x09 q (fun s => onNs t q (fun n s =>
    if q.sgl ≠ 16 * (q.cdw10.toNat % 256 + 1) then complete .nvm t stSglLength 0 0 [] s
    else if (dsmRanges q d).any fun r => n.blocks < r.1 + r.2 then complete .nvm t stLbaRange 0 0 [] s
    else if !bit q.cdw11.toNat 2 then complete .nvm t stSuccess 0 0 [] s
    else askWrite { tag := t, op := 0x09, sqe := q, data := d, since := now s, held := false } (mteBusy s)) s) s

/-- FLUSH (R338): completes at once. -/
def execFlush (t : Tag) (q : Sqe) (_d : List Byte) (s : State) : Res :=
  nvmRow t 0x00 q (fun s =>
    if q.nsid = 0xFFFFFFFF then complete .nvm t stSuccess 0 0 [] s
    else onNs t q (fun _ s => complete .nvm t stSuccess 0 0 [] s) s) s

end Sys2Proof.Machine
end

