-- ==== Sys2Proof/Machine/FlashEv.lean ====
section
/-! DEFINITION. The MTE's events (11): die reads, programs and erases that complete, drains, checkpoints, garbage collection, folds,
the diagnostic decode and a channel that stops responding. -/
namespace Sys2Proof.Machine
open Sys2Proof

/-! ### Die reads (R326, R329 to R331) -/

/-- Nanoseconds of an hour, and of a month of 30 days (log entry 36). -/
def hourNs : Nat := 3600000000000
def monthNs : Nat := 720 * hourNs

/-- Age class of a superblock (R329): one still open counts as just closed. -/
def ageClass (s : State) (sb : Nat) : Nat :=
  let b := sbOf s sb
  let a := if b.st = .opened then 0 else now s - b.closedT
  if a < hourNs then 0
  else if a < 8 * hourNs then 1
  else if a < 24 * hourNs then 2
  else if a < 96 * hourNs then 3
  else if a < 336 * hourNs then 4
  else if a < 2 * monthNs then 5
  else if a < 6 * monthNs then 6 else 7

/-- The reports of a hard decode for one level (R329): `i` is 0 for level 1. -/
def levelReport (d cls i up down page : Nat) (s : State) : State :=
  let k := (d * 8 + cls) * 16 + i + 1
  let u := smGet 0 s.ftl.lvUp k + up
  let v := smGet 0 s.ftl.lvDown k + down
  let t := u + v
  let keep := modFtl (fun x => { x with lvUp := smPut 0 x.lvUp k u, lvDown := smPut 0 x.lvDown k v }) s
  if t < 256 ∨ (8 * u ≤ 5 * t ∧ 8 * v ≤ 5 * t) then keep
  else
    let o := smGet 64 s.ftl.levels k
    let o := if v < u then max 1 (o - 1) else min 127 (o + 1)
    cntAdd page 0x848 1 (modFtl (fun x => { x with lvUp := smPut 0 x.lvUp k 0, lvDown := smPut 0 x.lvDown k 0, levels := smPut 64 x.levels k o }) s)

/-- Reports of the 15 levels. -/
def levelReports (d cls page : Nat) (r : ReadOut) (s : State) : State :=
  (List.range 15).foldl (fun s i => levelReport d cls i (r.up.getD i 0) (r.down.getD i 0) page s) s

/-- A program is in progress on a die slot of a superblock. -/
def dieProgs (s : State) (sb : Nat) : Bool := s.ftl.progs.any fun p => p.sb % 32 == sb % 32
/-- A superblock of the group is being erased. -/
def dieErases (s : State) (sb : Nat) : Bool := s.ftl.sbs.any fun e => e.1 % 32 == sb % 32 && e.2.st == .erasing

/-- A read suspends the program or erase in progress on its die (R326); past the twentieth suspend of an erase it waits (R28). -/
def suspendDie (sb slot : Nat) (s : State) : State :=
  let d := dieOf sb slot
  let pg := 0xC0 + chanOf sb slot / 4
  if dieErases s sb then
    let n := smGet 0 s.ftl.suspends d
    if n < 20 then cntAdd pg 0x818 1 (modFtl (fun x => { x with suspends := smSet x.suspends d (n + 1) }) s)
    else cntAdd pg 0x820 1 s
  else if dieProgs s sb then cntAdd pg 0x818 1 s
  else s

/-- FLASH_READ_COMPLETE (R329 to R331): what the decoder found is how the unit reads from now on; the ladder runs. -/
def execFlashReadComplete (u : Nat) (r : ReadOut) (s : State) : Res :=
  match smFind s.ftl.units u with
  | none => ok s
  | some _ =>
    let pg := mtePage u
    let s := if r.suspends then suspendDie (uSb u) (uSlot u) s else s
    let q := if smGet 0 s.ftl.qual u = 3 then 3 else if r.hardOk then 0 else if r.softOk then 1 else 2
    let s := modFtl (fun x => { x with qual := smPut 0 x.qual u q }) s
    let s := cntAdd pg 0x828 r.corrected (levelReports (dieOf (uSb u) (uSlot u)) (ageClass s (uSb u)) pg r s)
    let s := if regFld s 0xD0 0x124 6 0 * 240 < r.corrected * 100 then schedRewrite u s else s
    ok (goRuns (unitRead u s).2)

/-! ### Programs and erases (R338, R345) -/

/-- Commit a completed program (R345 stage 2): only if the entry still names what was copied; else the copy is an orphan. -/
def commitProg (p : Prog) (s : State) : State :=
  let s := cntAdd 0xD0 0x808 1 s
  let s := match p.why with
    | 1 => cntAdd 0xD0 0x810 1 s
    | 2 => cntAdd 0xD0 0x818 1 s
    | 3 => cntAdd 0xD0 0x820 1 s
    | _ => s
  let s := match s.ftl.foreground && p.why == 1, gcRun s with
    | true, some r => modFtl (fun x => { x with credit := x.credit + creditOf r s }) s
    | _, _ => s
  let still := mapGet s p.idx == p.expect
  let s := if still then mapSet p.idx (entUnit p.unit (sbOf s p.sb).slc) s else if p.why = 0 then s else cntAdd 0xD0 0x828 1 s
  if p.expect / 2 ^ 34 = 3 then modFtl (fun x => { x with slots := smDel x.slots (p.expect % 2 ^ 34) }) s else s

/-- The lowest wordline of a superblock with a program in flight. -/
def firstWl (s : State) (sb : Nat) : Option Nat :=
  (s.ftl.progs.filter fun p => p.sb == sb).foldl (fun (b : Option Nat) p =>
    match b with
    | none => some (uWl p.unit)
    | some w => some (min w (uWl p.unit))) none

/-- Programs of a superblock that have not begun are withdrawn; what they held stands where it stood. -/
def withdraw (sb : Nat) (s : State) : State :=
  let ps := s.ftl.progs.filter fun p => p.sb == sb
  modFtl (fun x => { x with
    progs := x.progs.filter fun p => p.sb != sb
    units := ps.foldl (fun m p => smDel m p.unit) x.units }) s

/-- The next wordline of a superblock is programmed, and its units are committed (R343, R345). -/
def wordlineDone (sb : Nat) (o : ProgOut) (s : State) : State :=
  match firstWl s sb with
  | none => s
  | some wl =>
    let mine := s.ftl.progs.filter fun p => p.sb == sb && uWl p.unit == wl
    let s := modFtl (fun x => { x with progs := x.progs.filter fun p => !(p.sb == sb && uWl p.unit == wl) }) s
    let s := countDies sb 0x808 (modSb sb (fun b => { b with used := max b.used ((wl + 1) * wlUnits b.slc) }) s)
    let failed := o.failed.filter fun j => decide (j < 32)
    let lost := if o.contained then [] else mine.filter fun p => failed.contains (uSlot p.unit)
    let s := (mine.filter fun p => !lost.contains p).foldl (fun s p => commitProg p s) s
    let s := modFtl (fun x => { x with qual := lost.foldl (fun m p => smSet m p.unit 3) x.qual }) s
    let s := if failed.isEmpty ∨ o.contained then s else modSb sb (fun b => { b with st := .retiring, closedT := now s }) (withdraw sb s)
    let s := failed.foldl (fun s j => dieFail sb j s) (closeFull sb s)
    let s := if (sbOf s sb).st = .retiring ∧ !(s.ftl.runs.any fun r => r.sb == sb ∧ r.why = 5) then beginRun sb 5 none s else s
    settleThrough (goRuns s)

/-- PROGRAM_COMPLETE (R343, R345): the next wordline of a superblock is programmed, and its units are committed. -/
def execProgramComplete (sb : Nat) (o : ProgOut) (s : State) : Res := ok (admitWrites (wordlineDone sb o s))

/-- ERASE_COMPLETE (R343, R345 stage 5): the superblock is free again, or retired. -/
def execEraseComplete (sb : Nat) (o : EraseOut) (s : State) : Res :=
  if (sbOf s sb).st ≠ .erasing then ok s
  else
    let failed := o.failed.filter fun j => decide (j < 32)
    let n := (sbOf s sb).erases + 1
    let s := modFtl (fun x => { x with
      units := x.units.filter fun e => uSb e.1 != sb
      qual := x.qual.filter fun e => uSb e.1 != sb
      suspends := (List.range 32).foldl (fun m j => smDel m (dieOf sb j)) x.suspends }) s
    let s := countDies sb 0x810 (modSb sb (fun b => { b with st := .free, slc := false, used := 0, closedT := 0, order := 0, erases := n }) s)
    let s := failed.foldl (fun s j => dieFail sb j s) s
    let s := if (failed ≠ [] ∧ !o.contained) ∨ regFld s 0xD0 0x128 11 0 ≤ n then retireSb sb s else s
    ok (admitWrites (freeRose s))

/-! ### Draining and checkpoints (R338, R340, R348) -/

/-- Host units go to SLC while the buffer holds less than its limit (R348). -/
def hostSlc (s : State) : Bool :=
  decide ((((s.ftl.sbs.filter fun e => e.2.slc && e.2.st != .free).map fun e => e.2.used).sum) * unitBytes < slcLimit s)

/-- Insert a slot in the order of its write. -/
def insSlot (e : Nat × FUnit) : List (Nat × FUnit) → List (Nat × FUnit)
  | [] => [e]
  | x :: xs => if e.2.wseq ≤ x.2.wseq then e :: x :: xs else x :: insSlot e xs

/-- The slots that no program drains, oldest first. -/
def drainOrder (s : State) : List (Nat × FUnit) := (s.ftl.slots.filter fun e => !slotBusy s e.1).foldr insSlot []

/-- Start the program of a slot's unit. -/
def drainSlot (e : Nat × FUnit) (s : State) : State :=
  let slc := hostSlc s
  (startProg (if slc then 1 else 0) slc e.2 (entSlot e.1) 0 none s).2

/-- WRITE_BUFFER_DRAIN (R338): the programs of up to `n` slots start. -/
def execWriteBufferDrain (n : Nat) (s : State) : Res :=
  if s.pwr.flush.isSome then ok s else ok (((drainOrder s).take n).foldl (fun s e => drainSlot e s) (goRuns s))

/-- Complete every program in flight, at most `fuel` wordlines. -/
def finishProgs : Nat → State → State
  | 0, s => s
  | fuel + 1, s => match s.ftl.progs with
    | [] => s
    | p :: _ => finishProgs fuel (wordlineDone p.sb { failed := [], contained := true } s)

/-- Drain the write buffer, checkpoint every dirty segment and mark the checkpoint clean (R340, R484). -/
def drainClean (s : State) : State :=
  let s := (drainOrder s).foldl (fun s e => drainSlot e s) (goRuns s)
  let s := finishProgs s.ftl.progs.length s
  modFtl (fun x => { x with
    dirty := [], journal := x.journal.filter fun j => smGet 0 x.map j.idx / 2 ^ 34 == 3, clean := x.slots.isEmpty }) s

/-- MAP_CHECKPOINT (R340): a segment is durable; the journal keeps what the write buffer still needs. -/
def execMapCheckpoint (seg : Nat) (s : State) : Res :=
  ok (modFtl (fun x => { x with
    dirty := x.dirty.filter (· != seg)
    journal := x.journal.filter fun j => segOf j.idx != seg || smGet 0 x.map j.idx / 2 ^ 34 == 3 }) s)

/-! ### Garbage collection and folds (R345 to R349) -/

/-- BACKGROUND_GC (R346). -/
def execBackgroundGc (s : State) : Res :=
  let v := gcVictim (fun n k => decide (k * 10 < sbCap (sbOf s n).slc * 9)) s
  if s.pwr.flush.isSome ∨ s.ftl.foreground ∨ !mteIdle s ∨ (gcRun s).isSome then ok (goRuns s)
  else match v with
    | some n =>
      if regFld s 0xD0 0x120 31 16 ≤ sbFree s then ok (modFtl (fun x => { x with background := false }) s)
      else ok (goRuns (beginRun n 1 none (modFtl (fun x => { x with background := true }) s)))
    | none => ok (modFtl (fun x => { x with background := false }) s)

/-- FOREGROUND_GC (R347): it is entered below LW, with GC_FOREGROUND once, and works on until free superblocks exceed HW. -/
def execForegroundGc (s : State) : Res :=
  if s.pwr.flush.isSome ∨ (!s.ftl.foreground ∧ gcLw s ≤ sbFree s) then ok s
  else
    let s := if s.ftl.foreground then s
      else advisory 0xD0 0 0xD001 0 0 (modFtl (fun x => { x with foreground := true, background := false, credit := 0 }) s)
    let s := if (gcRun s).isSome then s
      else match gcVictim (hasInvalid s) s with
        | some n => beginRun n 1 none s
        | none => s
    ok (admitWrites (goRuns s))

/-- The oldest closed superblock in SLC mode. -/
def oldestSlc (s : State) : Option Nat :=
  ((s.ftl.sbs.filter fun e => e.2.slc && e.2.st == .closed && !(s.ftl.runs.any fun r => r.sb == e.1)).foldl
    (fun (b : Option (Nat × Nat)) e =>
      match b with
      | none => some (e.2.order, e.1)
      | some x => if e.2.order < x.1 then some (e.2.order, e.1) else b) none).map Prod.snd

/-- SLC_FOLD (R349): when idle, or whenever SLC occupancy exceeds the limit. -/
def execSlcFold (s : State) : Res :=
  if s.pwr.flush.isSome ∨ !(mteIdle s || !hostSlc s) then ok s
  else match oldestSlc s with
    | none => ok s
    | some n => ok (goRuns (beginRun n 2 none s))

/-! ### Diagnostics and dead channels (R334, R363) -/

/-- Result word of a diagnostic decode. -/
def diagWord (code step maxBits : Nat) : Nat := code + 2 ^ 16 * step + 2 ^ 18 * min maxBits 255

/-- Decode a unit through steps 1 and 2 (R363). The bits corrected are not known to the model: a free value. What a unit that holds
no codeword answers is free too (log entry 37). -/
def diagDecode (g u : Nat) (s : State) : State :=
  let put := fun w s => modFtl (fun x => { x with diag := smPut 0 x.diag g w }) s
  if chanOf (uSb u) (uSlot u) / 4 ≠ g then put (diagWord 0xC007 0 0) s
  else
    let s := cntAdd (0xC0 + g) 0x800 1 s
    let (v, s) := draw s
    let q := smGet 0 s.ftl.qual u
    if (sbOf s (uSb u)).st = .erasing ∨ q = 3 then put (diagWord 0xC002 (v % 4) (v / 4 % 256)) s
    else if dieRetired s (dieOf (uSb u) (uSlot u)) then put (diagWord 0xC001 0 0) s
    else match smFind s.ftl.units u with
      | none => put (v % 2 ^ 26) s
      | some _ =>
        if q = 0 then put (diagWord 0 1 (v % 256)) s
        else if q = 1 then put (diagWord 0 2 (v % 256)) (schedRewrite u (cntAdd (0xC0 + g) 0x830 1 s))
        else put (diagWord 0xC001 2 (v % 256)) (schedRewrite u s)

/-- A write of MTE_DIAG_CTRL. -/
def writeMteDiag (page : Nat) (w : Word) (s : State) : State :=
  if page < 0xC0 ∨ 0xCF < page ∨ !bit w.toNat 0 then s
  else diagDecode (page - 0xC0) ((regWord s page 0x124).toNat + 2 ^ 32 * regFld s page 0x128 1 0) s

/-- MTE_DIAG_GO (R363). -/
def execMteDiagGo (p : Path) (page : Nat) (w : Word) (s : State) : Res := regRow p page 0x12C (writeMteDiag page w) s

/-- CHANNEL_STOPS_RESPONDING (R334): its 16 dies are retired. -/
def execChannelStopsResponding (ch : Nat) (s : State) : Res :=
  if 64 ≤ ch ∨ s.ftl.downChannels.contains ch then ok s
  else
    let s := modFtl (fun x => { x with downChannels := x.downChannels ++ [ch] }) s
    ok (goRuns ((List.range 16).foldl (fun s i => retireDie (ch * 16 + i) s) s))

end Sys2Proof.Machine
end

