-- ==== Sys2Proof/Machine/QcuConn.lean ====
section
/-! DEFINITION. Connections: opening, ICReq, TLS, queue errors, freezes, resets and teardown (R370 to R377, R388 to R390), and the
events of power state transitions (R393). -/
namespace Sys2Proof.Machine
open Sys2Proof

/-! ### Closing -/

/-- Set the STATE of a frozen connection's entry in its controller's Queue Error Log (R390). -/
def logState (conn st : Nat) (s : State) : State :=
  modQcu (fun q => { q with ctrls := q.ctrls.map fun e =>
    (e.1, { e.2 with log := e.2.log.map fun l => if l.conn = conn ∧ l.state = 0 then { l with state := st } else l }) }) s

/-- A connection is gone with its queue: its handlings end and its timers stop (R377, R468). -/
def dropConn (conn : Nat) (s : State) : State :=
  let s := modErr (fun e => { e with handlings := e.handlings.filter fun h => h.scope != .queue conn }) s
  modNiu (fun n => { n with rto := smDel n.rto conn }) (modQcu (fun q => { q with conns := smDel q.conns conn }) s)

/-- A controller is torn down: its connections close, and it is gone (R376). What belongs to the module survives. -/
def teardown (cntlid : Nat) (s : State) : State :=
  let cs := (s.qcu.conns.filter fun e => (e.2.queue.map Prod.fst) == some cntlid).map Prod.fst
  let s := cs.foldl (fun s n => dropConn n (logState n 2 s)) s
  let s := modFtl (fun f => { f with namespaces := f.namespaces.map fun e => (e.1, { e.2 with attached := e.2.attached.filter (· != cntlid) }) }) s
  modQcu (fun q => { q with ctrls := smDel q.ctrls cntlid }) s

/-- A connection closes: its queue is reset (R377); an admin queue's closing tears its controller down. -/
def closeConn (conn st : Nat) (s : State) : State :=
  match conn? s conn with
  | none => s
  | some c =>
    let s := logState conn st s
    match c.queue with
    | some (cntlid, 0, _) => teardown cntlid (dropConn conn s)
    | _ => dropConn conn s

/-- The module ends a connection with C2HTermReq (R371, R389). -/
def terminate (conn : Nat) (s : State) : State := closeConn conn 1 (cntAdd 0x20 0x838 1 (emit (.term conn) s))

/-! ### Opening (R370, R371, R374) -/

/-- Whether CONN_REFUSED may be recorded: once per second at most. -/
def mayRecordRefused (s : State) : Bool :=
  match s.qcu.lastRefused with
  | none => true
  | some t => decide (t + 1000000000 ≤ now s)

/-- TCP_SYN (R370, R402, R482). -/
def execTcpSyn (conn port : Nat) (v6 : Bool) (s : State) : Res :=
  if !s.niu.linkUp ∨ (conn? s conn).isSome then ok s
  else if s.chip.stage ≠ .ready ∧ !s.msp.recovery then ok (emit (.rst conn) s)
  else
    let io := regFld s 0x20 0x104 15 0
    let disc := regFld s 0x20 0x104 31 16
    if port ≠ io ∧ port ≠ disc then ok (emit (.rst conn) s)
    else if 4096 ≤ s.qcu.conns.length then
      let r := mayRecordRefused s
      let s := cntAdd 0x20 0x850 1 (emit (.rst conn) s)
      if r then ok (modQcu (fun q => { q with lastRefused := some (now s) }) (advisory 0x20 1 0x200B 0 0 s)) else ok s
    else ok (modQcu (fun q => { q with conns := smSet q.conns conn (Conn.fresh (port == disc) v6) }) s)

/-- ICResp (R371): PFV 0, CPDA 0, the digests in use, MAXH2CDATA 262,144. -/
def icResp (h d : Bool) : List Byte :=
  [1, 0, 128, 0] ++ leBytes 4 128 ++ leBytes 2 0 ++ leBytes 1 0 ++ leBytes 1 (b2n h + 2 * b2n d) ++ leBytes 4 262144 ++ List.replicate 112 0

/-- ICREQ (R371, R374). -/
def execIcreq (conn pfv : Nat) (h d : Bool) (maxr2t : Nat) (s : State) : Res :=
  match conn? s conn with
  | none => ok s
  | some c =>
    let w := (regWord s 0x20 0x100).toNat
    if bit w 0 ∧ !c.tls then ok (closeConn conn 1 s)
    else if pfv ≠ 0 ∨ c.icDone then ok (terminate conn s)
    else
      let h := h || bit w 1
      let d := d || bit w 2
      ok (emit (.icresp conn (icResp h d)) (modConn conn (fun c => { c with icDone := true, hdgst := h, ddgst := d, maxr2t := maxr2t }) s))

/-- A PSK identity that the Atoll holds (R374, R453). -/
def pskKnown (s : State) (id : List Byte) : Bool :=
  s.msp.keysLoaded && (match keyStore s with | some k => k.psks.any fun p => p.1 == id | none => false)

/-- The KEY or the MSP master requests an Atoll bank: in PS4 the fabric clock runs for it (R22). -/
def touchAtoll (s : State) : State :=
  if s.qcu.ps.inForce = 4 then modChip (fun c => { c with ps4Fabric := some (now s) }) s else s

/-- CLIENT_HELLO (R374): a TLS 1.3 PSK handshake completes, or is answered with a handshake_failure alert. -/
def execClientHello (conn : Nat) (o : Hello) (s : State) : Res :=
  match conn? s conn with
  | none => ok s
  | some c =>
    if c.tls ∨ c.icDone then ok s
    else
    let s := touchAtoll s
    if o.suite && o.pskKe && o.binderOk && pskKnown s o.pskId then
      ok (emit (.tls conn true) (modConn conn (fun c => { c with tls := true }) s))
    else ok (closeConn conn 1 (advisory 0x20 2 0x200C 0 0 (cntAdd 0x20 0x858 1 (emit (.tls conn false) s))))

/-- KEY_UPDATE (R374): accepted and answered. -/
def execKeyUpdate (conn : Nat) (s : State) : Res :=
  match conn? s conn with
  | none => ok s
  | some c => if c.tls then ok (emit (.keyUpdate conn) (touchAtoll s)) else ok s

/-! ### Queue errors (R388 to R390) -/

/-- A queue error freezes the queue: QUEUE_FROZEN, the log entry, the event; a lost stream ends the connection at once. On a
connection that is no queue yet, the module ends the connection (DEDUCED from R371). -/
def queueErr (conn cause cid : Nat) (lost : Bool) (pdu : PduCheck) (s : State) : State :=
  match conn? s conn with
  | none => s
  | some c => match c.queue with
    | none => terminate conn s
    | some (cntlid, qid, _) =>
      if c.frozen.isSome then (if lost then terminate conn s else s)
      else
        let s := recordErr { code := 0x2004, page := 0x20, bit := some 0, cls := .queue, scope := .queue conn, d0 := cntlid + 65536 * qid, d1 := cause,
                             injected := false } s
        let s := modErr (fun e => { e with handlings := e.handlings ++ [⟨.queue, .queue conn, 0x2004, none⟩] }) s
        let l : QErr :=
          { time := now s, cntlid := cntlid, qid := qid, cause := cause, cid := cid, inFlight := c.outst.length, discarded := 0, state := 0,
            conn := conn, streamOff := pdu.streamOff, pdu := if cause = 0x200A then List.replicate 64 0 else slice pdu.head 0 64 }
        let s := modQcu (fun q => { q with ctrls := smMod q.ctrls cntlid fun k => { k with log := (l :: k.log).take 64, logTotal := k.logTotal + 1 } }) s
        let s := modConn conn (fun c => { c with frozen := some (now s) }) (cntAdd 0x20 0x830 1 s)
        let s := postTo cntlid 7 0 0xC0 s
        if lost then terminate conn s else s

/-- A capsule that arrives on a frozen queue is discarded and counted in the log entry (R389). -/
def discardCapsule (conn : Nat) (s : State) : State :=
  let s := modConn conn (fun c => { c with discarded := c.discarded + 1 }) s
  modQcu (fun q => { q with ctrls := q.ctrls.map fun e =>
    (e.1, { e.2 with log := e.2.log.map fun l => if l.conn = conn ∧ l.state = 0 then { l with discarded := l.discarded + 1 } else l }) }) s

/-- FREEZE_TIMEOUT (R389). -/
def execFreezeTimeout (conn : Nat) (s : State) : Res :=
  match (conn? s conn).bind (·.frozen) with
  | none => ok s
  | some t => ok (terminate conn (advanceMaster (t + regFld s 0x20 0x110 15 0 * 1000000) s))

/-- QUEUE_RESET (R377): the connection of a queue closes. -/
def execQueueReset (conn : Nat) (s : State) : Res := ok (closeConn conn 2 s)

/-- CONNECTION_CLOSE (R377): the host closes the connection or sends RST. -/
def execConnectionClose (conn : Nat) (s : State) : Res := ok (closeConn conn 2 s)

/-- KATO_EXPIRED (R376). -/
def execKatoExpired (cntlid : Nat) (s : State) : Res :=
  match smFind s.qcu.ctrls cntlid with
  | none => ok s
  | some c =>
    let s := advanceMaster (c.kaStart + c.kato * 1000000000) s
    ok (teardown cntlid (advisory 0x20 3 0x200D 0 0 (cntAdd 0x20 0x848 1 s)))

/-! ### Power states (R393) -/

/-- PS4_EXIT (R393). -/
def execPs4Exit (s : State) : Res := ok (psExit s)

/-- POWER_STATE_ENTRY_COMPLETE (R393). -/
def execPowerStateEntryComplete (s : State) : Res := ok (psComplete s)

/-- POWER_STATE_REVERSAL (R393). -/
def execPowerStateReversal (s : State) : Res := ok (psReverse s)

end Sys2Proof.Machine
end

