-- ==== Sys2Proof/Machine/Niu.lean ====
section
/-! DEFINITION. The Ethernet port: link, FEC, crossing queues, flow control, address resolution and TCP timers (R398 to R410,
R432, R433). -/
namespace Sys2Proof.Machine
open Sys2Proof

/-! ### Link (R399 to R401) -/

/-- NIU_CTRL.LINK_EN. -/
def linkEn (s : State) : Bool := bit (regWord s 0x10 0x100).toNat 0

/-- Frames that the transmit queues hold. -/
def txHeld (s : State) : Nat := (s.niu.txq.map fun e => e.2.length).sum

/-- The link goes down (R399, R401): queued frames are discarded and counted; with SOURCE = PTP the reference is lost. -/
def goDown (s : State) : State :=
  let n := txHeld s
  let s := cntAdd 0x10 0x878 1 (cntAdd 0x10 0x860 n s)
  let s := modNiu (fun x => { x with linkUp := false, laneLock := 0, txq := [], anSince := if linkEn s then some (now s) else none }) s
  let s := advisory 0x10 0 0x1001 0 0 (modChip (fun c => { c with pll := c.pll % 16 }) s)
  if regFld s 0x11 0x100 1 0 = 0 ∧ s.sext.haveRef then refLost s else s

/-- NIU_CTRL is written: LINK_EN set starts bring-up, cleared takes the link down (R399). -/
def writeNiuCtrl (w : Word) (s : State) : State :=
  let was := linkEn s
  let s := storeRw 0x10 0x100 w s
  if linkEn s then (if was ∨ s.niu.linkUp then s else modNiu (fun x => { x with anSince := some (now s) }) s)
  else if s.niu.linkUp then goDown s else modNiu (fun x => { x with anSince := none }) s

/-- LINK_EN_WRITE (R399). -/
def execLinkEnWrite (p : Path) (w : Word) (s : State) : Res := regRow p 0x10 0x100 (writeNiuCtrl w) s

/-- AUTO_NEGOTIATION_TIMEOUT (R399): no link within 1 s restarts auto-negotiation. -/
def execAutoNegotiationTimeout (s : State) : Res :=
  match s.niu.anSince with
  | none => ok s
  | some t =>
    let s := advanceMaster (t + 1000000000) s
    ok (modNiu (fun x => { x with anSince := some (now s) }) s)

/-- LINK_UP (R399): four lanes have block lock and FEC alignment. -/
def execLinkUp (s : State) : Res :=
  if linkEn s ∧ !s.niu.linkUp ∧ s.niu.anSince.isSome then
    ok (modChip (fun c => { c with pll := c.pll % 16 + 16 }) (modNiu (fun x => { x with linkUp := true, laneLock := 15, anSince := none }) s))
  else ok s

/-- LINK_DOWN (R399, R401): a lane has lost lock. -/
def execLinkDown (s : State) : Res := if s.niu.linkUp then ok (goDown s) else ok s

/-- FEC_WINDOW (R400): a 1 s window ends with `fixed` codewords corrected and `errs` uncorrectable. -/
def execFecWindow (fixed errs : Nat) (s : State) : Res :=
  if !s.niu.linkUp then ok s
  else
    let s := cntAdd 0x10 0x830 errs (cntAdd 0x10 0x828 fixed s)
    if regFld s 0x10 0x17C 15 0 ≤ errs then
      let was := s.niu.fecDegraded
      let s := modNiu (fun x => { x with fecDegraded := true }) s
      if was then ok s else ok (advisory 0x10 1 0x1002 0 0 s)
    else ok (modNiu (fun x => { x with fecDegraded := false }) s)

/-! ### Receive queues (R405 to R407) -/

/-- Entries of 64 bytes that a frame takes. -/
def entriesOf (f : Frame) : Nat := cdiv f.len 64
/-- Free entries of a receive queue. -/
def rxFree (s : State) (p : Nat) : Nat := 8192 - ((smGet [] s.niu.rxq p).map entriesOf).sum

/-- The six bytes of the module's MAC address. -/
def macBytes : List Byte := beBytes 6 Config.macAddr

/-- A PFC frame for one priority (IEEE 802.1Qbb). -/
def pfcBytes (p quanta : Nat) : List Byte :=
  padTo 60 ([0x01, 0x80, 0xC2, 0x00, 0x00, 0x01] ++ macBytes ++ [0x88, 0x08, 0x01, 0x01] ++ beBytes 2 (2 ^ p)
    ++ (List.range 8).flatMap fun i => beBytes 2 (if i = p then quanta else 0))

/-- Send a PFC frame (R407). A pause by the partner does not hold it: it is no frame of a priority. -/
def sendPfc (p quanta : Nat) (s : State) : State :=
  if !s.niu.linkUp then s
  else cntAdd 0x10 0x838 1 (cntAdd 0x10 0x818 64 (cntAdd 0x10 0x808 1 (emit (.frame (pfcBytes p quanta)) s)))

/-- A frame with a good FCS is counted (R433). -/
def rxCount (n : Nat) (s : State) : State := cntAdd 0x10 0x810 n (cntAdd 0x10 0x800 1 s)

/-- The module pauses a priority whose free entries have fallen below 2,048 (R407). -/
def maybePause (p : Nat) (s : State) : State :=
  if rxFree s p < 2048 ∧ bit (regWord s 0x10 0x160).toNat p ∧ !s.niu.xoff.contains p then
    sendPfc p 0xFFFF (modNiu (fun x => { x with xoff := x.xoff ++ [p] }) s)
  else s

/-- FRAME_RECEIVE (R398, R405, R407). -/
def execFrameReceive (f : Frame) (s : State) : Res :=
  if !s.niu.linkUp ∨ 8 ≤ f.prio then ok s
  else if f.len < 64 ∨ 9216 < f.len ∨ !f.fcsOk then ok (cntAdd 0x10 0x820 1 s)
  else
    let s := rxCount f.len s
    if !f.toUs then ok s
    else if rxFree s f.prio < entriesOf f then ok (advisory 0x10 2 0x1003 0 0 (cntAdd 0x10 0x850 1 s))
    else ok (maybePause f.prio (modNiu (fun x => { x with rxq := smSet x.rxq f.prio (smGet [] x.rxq f.prio ++ [f]) }) s))

/-- PFC_REPEAT (R407). -/
def execPfcRepeat (p : Nat) (s : State) : Res :=
  if !s.niu.xoff.contains p then ok s
  else if 4096 ≤ rxFree s p then ok (sendPfc p 0 (modNiu (fun x => { x with xoff := x.xoff.filter (· != p) }) s))
  else ok (sendPfc p 0xFFFF s)

/-! ### Transmit pauses (R398, R406, R408) -/

/-- A pause of a priority ends: its transmit queue drains. -/
def endPause (p : Nat) (s : State) : State := drainTx p (modNiu (fun x => { x with paused := smDel x.paused p }) s)

/-- PFC_FRAME (R408): quanta of 0.64 ns. -/
def execPfcFrame (p quanta : Nat) (s : State) : Res :=
  if !s.niu.linkUp ∨ 8 ≤ p then ok s
  else
    let s := cntAdd 0x10 0x840 1 (rxCount 64 s)
    if quanta = 0 then ok (endPause p s)
    else ok (modNiu (fun x => { x with paused := smSet x.paused p (now s + cdiv (quanta * 64) 100) }) s)

/-- PFC_PAUSE_EXPIRY (R408). -/
def execPfcPauseExpiry (p : Nat) (s : State) : Res :=
  match smFind s.niu.paused p with
  | none => ok s
  | some t => ok (endPause p (advanceMaster t s))

/-- PAUSE_FRAME (R398): counted and ignored. -/
def execPauseFrame (s : State) : Res := if s.niu.linkUp then ok (cntAdd 0x10 0x848 1 (rxCount 64 s)) else ok s

/-- TX_UNDERRUN (R406): the MAC ends a cut-through frame with an inverted FCS. -/
def execTxUnderrun (s : State) : Res :=
  if s.niu.linkUp then ok (advisory 0x10 3 0x1004 0 0 (cntAdd 0x10 0x858 1 s)) else ok s

/-- XQ_PTR_FAULT (R410): every frame of the queue is discarded and its pointers are reset; the fourth fault on one queue within
1 s is FATAL. The recovery of at most 2 µs ends within the command. -/
def execXqPtrFault (rx : Bool) (p : Nat) (s : State) : Res :=
  if 8 ≤ p then ok s
  else
    let k := if rx then p else 8 + p
    let old := (smGet [] s.niu.ptrFaults k).filter fun t => now s < t + 1000000000
    let s := modNiu (fun x => { x with
      rxq := if rx then smDel x.rxq p else x.rxq, txq := if rx then x.txq else smDel x.txq p, ptrFaults := smSet x.ptrFaults k (old ++ [now s]) }) s
    let s := advisory 0x10 4 0x1005 0 0 (cntAdd 0x10 0x868 1 s)
    if 3 ≤ old.length then ok (raiseFatal 0x1006 0x10 (some 5) 0 0 s) else ok s

/-! ### Addresses and packets (R402, R403) -/

/-- The IPv6 link-local address: modified EUI-64 of the MAC address (R402). -/
def linkLocal : Nat :=
  let m := Config.macAddr
  0xFE80 * 2 ^ 112 + ((bits m 47 24 ^^^ 0x020000) * 2 ^ 40 + 0xFFFE * 2 ^ 24 + bits m 23 0)

/-- An IPv6 address of the module. -/
def ourV6 (s : State) (a : Nat) : Bool := a == linkLocal || (a != 0 && a == regWords4 s 0x10 0x130)
/-- The IPv4 address of the module; 0 = IPv4 off. -/
def ourV4 (s : State) (a : Nat) : Bool := a != 0 && a == (regWord s 0x10 0x11C).toNat

/-- Sum of 16-bit words in network order. -/
def sum16 : List Byte → Nat
  | [] => 0
  | [a] => a.toNat * 256
  | a :: b :: r => a.toNat * 256 + b.toNat + sum16 r

/-- Ones' complement checksum. -/
def inetSum (b : List Byte) : Nat :=
  let x := sum16 b
  let x := x % 65536 + x / 65536
  let x := x % 65536 + x / 65536
  0xFFFF - x

/-- An Ethernet header to the sender of a frame. -/
def ethReply (f : List Byte) (type : Nat) : List Byte := slice f 6 6 ++ macBytes ++ beBytes 2 type

/-- An IPv6 packet from one of the module's addresses with an ICMPv6 message. -/
def icmp6 (src dst hop : Nat) (m : List Byte) : List Byte :=
  let pseudo := beBytes 16 src ++ beBytes 16 dst ++ beBytes 4 m.length ++ [0, 0, 0, 58]
  let c := inetSum (pseudo ++ overwrite m 2 [0, 0])
  [0x60, 0, 0, 0] ++ beBytes 2 m.length ++ [58, BitVec.ofNat 8 hop] ++ beBytes 16 src ++ beBytes 16 dst ++ overwrite m 2 (beBytes 2 c)

/-- The answer to an ARP request (RFC 826) or a neighbour solicitation (RFC 4861) for an address of the module. -/
def arpAnswer (s : State) (f : List Byte) : Option (List Byte) :=
  if fldBE f 12 2 = 0x0806 ∧ fldBE f 20 2 = 1 ∧ ourV4 s (fldBE f 38 4) then
    some (ethReply f 0x0806 ++ slice f 14 6 ++ beBytes 2 2 ++ macBytes ++ slice f 38 4 ++ slice f 22 10)
  else if fldBE f 12 2 = 0x86DD ∧ fldBE f 20 1 = 58 ∧ fldBE f 54 1 = 135 ∧ ourV6 s (fldBE f 62 16) then
    let a := fldBE f 62 16
    some (ethReply f 0x86DD ++ icmp6 a (fldBE f 22 16) 255 ([136, 0, 0, 0, 0x60, 0, 0, 0] ++ beBytes 16 a ++ [2, 1] ++ macBytes))
  else none

/-- Send a frame of the control protocols; they use the queue of untagged traffic (log entry 25). -/
def sendFrame (b : List Byte) (s : State) : State := sendOn (regFld s 0x10 0x114 11 9) (.frame b) (max 64 (b.length + 4)) s

/-- A frame arrives that a protocol engine takes: it must have a good FCS and a length that R398 allows. -/
def takeFrame (f : Frame) (k : State → State) (s : State) : State :=
  if !s.niu.linkUp then s
  else if f.len < 64 ∨ 9216 < f.len ∨ !f.fcsOk then cntAdd 0x10 0x820 1 s
  else
    let s := rxCount f.len s
    if f.toUs then k s else s

/-- ARP_REQUEST (R403). -/
def execArpRequest (f : Frame) (s : State) : Res :=
  ok (takeFrame f (fun s => match arpAnswer s f.data with
    | some b => sendFrame b s
    | none => s) s)

/-- The echo reply to a request addressed to the module (R402). -/
def echoAnswer (s : State) (f : List Byte) : Option (List Byte) :=
  if fldBE f 12 2 = 0x0800 ∧ fldBE f 23 1 = 1 then
    let ihl := 4 * (fldBE f 14 1 % 16)
    let len := fldBE f 16 2
    let m := slice f (14 + ihl) (len - ihl)
    if ourV4 s (fldBE f 30 4) ∧ fldBE m 0 1 = 8 ∧ fldBE f 20 2 % 0x4000 = 0 then
      let h := [0x45, slice f 15 1 |>.headD 0] ++ beBytes 2 (20 + m.length) ++ [0, 0, 0x40, 0, 64, 1, 0, 0] ++ slice f 30 4 ++ slice f 26 4
      let m := overwrite m 0 [0, 0, 0, 0]
      some (ethReply f 0x0800 ++ overwrite h 10 (beBytes 2 (inetSum h)) ++ overwrite m 2 (beBytes 2 (inetSum m)))
    else none
  else if fldBE f 12 2 = 0x86DD ∧ fldBE f 20 1 = 58 ∧ fldBE f 54 1 = 128 ∧ ourV6 s (fldBE f 38 16) then
    let m := slice f 54 (fldBE f 18 2)
    some (ethReply f 0x86DD ++ icmp6 (fldBE f 38 16) (fldBE f 22 16) 64 (overwrite m 0 [129]))
  else none

/-- ICMP_ECHO (R402): answered; a packet that is no echo request to the module is discarded and counted. -/
def execIcmpEcho (f : Frame) (s : State) : Res :=
  ok (takeFrame f (fun s => match echoAnswer s f.data with
    | some b => sendFrame b s
    | none => cntAdd 0x10 0x870 1 s) s)

/-- The gateway is configured. -/
def hasGateway (s : State) : Bool := (regWord s 0x10 0x124) != 0 || regWords4 s 0x10 0x150 != 0

/-- An ARP request for the IPv4 gateway, or a neighbour solicitation for the IPv6 gateway (its solicited-node group). -/
def gatewayAsk (s : State) : List Byte :=
  if (regWord s 0x10 0x124) != 0 then
    List.replicate 6 0xFF ++ macBytes ++ beBytes 2 0x0806 ++ [0, 1, 8, 0, 6, 4, 0, 1] ++ macBytes ++ beBytes 4 (regWord s 0x10 0x11C).toNat
      ++ List.replicate 6 0 ++ beBytes 4 (regWord s 0x10 0x124).toNat
  else
    let g := regWords4 s 0x10 0x150
    let src := if regWords4 s 0x10 0x130 = 0 then linkLocal else regWords4 s 0x10 0x130
    beBytes 3 0x3333FF ++ beBytes 3 (g % 2 ^ 24) ++ macBytes ++ beBytes 2 0x86DD
      ++ icmp6 src (0xFF0200000000000000000001FF000000 + g % 2 ^ 24) 255 ([135, 0, 0, 0, 0, 0, 0, 0] ++ beBytes 16 g ++ [1, 1] ++ macBytes)

/-- The bytes of a message as the port counts them. -/
def outLen : OutMsg → Nat
  | .strait _ _ b => b.length
  | .frame b => b.length
  | _ => 0

/-- GATEWAY_REFRESH (R403): the gateway's link address is resolved; packets that waited for it are sent. -/
def execGatewayRefresh (s : State) : Res :=
  if !s.niu.linkUp ∨ !hasGateway s then ok s
  else
    let s := sendFrame (gatewayAsk s) s
    let l := s.niu.unresolved
    let s := modNiu (fun x => { x with gateway := some (now s), unresolved := [] }) s
    ok (l.foldl (fun s e => sendOn (pcpStrait s) e.2 (outLen e.2) s) s)

/-- UNRESOLVED_TIMEOUT (R403): the packet that waits longest is discarded after 1 s. -/
def execUnresolvedTimeout (s : State) : Res :=
  match s.niu.unresolved with
  | [] => ok s
  | (t, _) :: l =>
    let s := advanceMaster (t + 1000000000) s
    ok (cntAdd 0x10 0x870 1 (modNiu (fun x => { x with unresolved := l }) s))

/-- TCP_RETRANSMIT_TIMEOUT (R404): the timeout doubles, up to 64 ms. -/
def execTcpRetransmitTimeout (conn : Nat) (s : State) : Res :=
  if (conn? s conn).isNone then ok s
  else ok (modNiu (fun x => { x with rto := smSet x.rto conn (min 64000 (2 * smGet 1000 x.rto conn)) }) s)

/-- An address register of the NIU is written (R403): connections bound to an address that changes are reset, and a changed
gateway is resolved anew. -/
def writeIp (off : Nat) (w : Word) (s : State) : State :=
  let was := regWord s 0x10 off
  let s := storeRw 0x10 off w s
  if regWord s 0x10 off = was then s
  else
    let v6 := decide (0x130 ≤ off)
    let addr := off = 0x11C ∨ (0x130 ≤ off ∧ off ≤ 0x13C)
    let gw := off = 0x124 ∨ 0x150 ≤ off
    if addr then
      ((s.qcu.conns.filter fun e => e.2.v6 == v6).map Prod.fst).foldl (fun s n => closeConn n 1 (emit (.rst n) s)) s
    else if gw then modNiu (fun x => { x with gateway := none }) s else s

/-- Offsets of the NIU's address registers. -/
def ipOffs : List Nat := [0x11C, 0x120, 0x124, 0x130, 0x134, 0x138, 0x13C, 0x140, 0x150, 0x154, 0x158, 0x15C]

/-- IP_ADDRESS_WRITE (R403); an offset that names no address register takes no effect. -/
def execIpAddressWrite (p : Path) (off : Nat) (w : Word) (s : State) : Res :=
  if ipOffs.contains off then regRow p 0x10 off (writeIp off w) s else ok s

end Sys2Proof.Machine
end

