-- ==== Sys2Proof/Machine/Sextant.lean ====
section
/-! DEFINITION. The Sextant: PTP messages, the best-master comparison, offsets, slews and steps, PPS and the seconds it marks (R411
to R419, R434, R435). -/
namespace Sys2Proof.Machine
open Sys2Proof

/-- SEXTANT_CTRL.SOURCE: 0 PTP, 1 PPS_IN, 2 none. -/
def sxSource (s : State) : Nat := regFld s 0x11 0x100 1 0

/-! ### Offsets (R415) -/

/-- Fabric time is stepped by −o (R415): recorded and counted; the replica follows (R23, R80). Instants that the Sextant counts
from move with the step. -/
def stepTime (o : Int) (s : State) : State :=
  let sh (t : Nat) : Nat := (((t : Int) - o) % (2 ^ 64 : Nat)).toNat
  let s := modSext (fun x => { x with lossT := x.lossT.map sh, ppsRise := if x.ppsOut then sh x.ppsRise else x.ppsRise, t1t2 := none, sync := none, t3 := none }) s
  let s := setTime { s.time with master := sh s.time.master } s
  let s := advisory 0x11 0 0x1101 0 0 (cntAdd 0x11 0x818 1 s)
  if chartPs s = 4 then s else stepReplica s.time.master s

/-- Fabric time is slewed toward the reference: how the oscillator is steered within ±100 ppm is a free value (R415; log entry 17). -/
def slewTime (o : Int) (s : State) : State :=
  let v := Config.slew s.fresh o
  setFresh (s.fresh + 1) (modSext (fun x => { x with freqPpb := max (-100000) (min 100000 v) }) s)

/-- SEXTANT_STEP_NS. -/
def stepNs (s : State) : Nat := regFld s 0x11 0x118 23 0

/-- One offset measurement is applied (R414, R415). -/
def measure (o : Int) (s : State) : State :=
  let s := modSext (fun x => { x with offset := o }) s
  let small := decide (o.natAbs < stepNs s)
  match s.sext.st with
  | .coast => if small then slewTime o (sextTo .locked s) else stepTime o (sextTo .acquiring s)
  | .holdover => if small then slewTime o (sextTo .locked s) else stepTime o (sextTo .acquiring s)
  | .acquiring =>
    if !small then stepTime o (modSext (fun x => { x with good := 0 }) s)
    else
      let s := slewTime o (modSext (fun x => { x with good := if o.natAbs ≤ 100 then x.good + 1 else 0 }) s)
      if 16 ≤ s.sext.good then sextTo .locked s else s
  | .locked =>
    if small then slewTime o (modSext (fun x => { x with big := 0 }) s)
    else if 2 ≤ s.sext.big then stepTime o (sextTo .acquiring s)
    else modSext (fun x => { x with big := x.big + 1 }) s
  | _ => s

/-- A reference is present: in FREERUN and LOST it takes the Sextant to ACQUIRING (R414). Before the module is ready the Sextant
stays in FREERUN (R482). -/
def refPresent (s : State) : State :=
  let s := modSext (fun x => { x with haveRef := true }) s
  if s.chip.stage ≠ .ready then s
  else match s.sext.st with
    | .freerun => sextTo .acquiring s
    | .lost => sextTo .acquiring s
    | _ => s

/-! ### PTP (R411 to R413) -/

/-- NIU_PTP_LAT.TX_NS and RX_NS, and NIU_PTP_ASYM. -/
def latTx : Int := (Config.ptpLat % 65536 : Nat)
/-- Receive latency. -/
def latRx : Int := (Config.ptpLat / 65536 % 65536 : Nat)
/-- Delay asymmetry. -/
def ptpAsym (s : State) : Int := signed 32 (regWord s 0x10 0x170).toNat

/-- A PTP message is taken: SOURCE is PTP, the link is up, the domain is the module's; another domain's message is discarded and
counted (R411). -/
def ptpTake (m : PtpMsg) (f : State → State) (s : State) : Res :=
  if !s.niu.linkUp ∨ sxSource s ≠ 0 then ok s
  else if m.domain ≠ regFld s 0x10 0x174 7 0 then ok (cntAdd 0x11 0x810 1 s)
  else ok (f s)

/-- A Sync is complete: with a measured path delay it gives an offset. -/
def syncDone (t1 t2 : Int) (s : State) : State :=
  let s := cntAdd 0x11 0x800 1 (modSext (fun x => { x with t1t2 := some (t1, t2), sync := none }) s)
  if s.sext.haveRef then measure (t2 - t1 - s.sext.pathDelay - ptpAsym s) (refPresent s) else s

/-- A Sync of the chosen grandmaster. -/
def takeSync (m : PtpMsg) (s : State) : State :=
  if m.interval < -7 ∨ 1 < m.interval then cntAdd 0x11 0x810 1 s
  else if m.gm ≠ s.sext.gm then s
  else
    let t2 : Int := (m.local_ : Int) - latRx
    let s := modSext (fun x => { x with syncInterval := m.interval }) s
    if m.twoStep then modSext (fun x => { x with sync := some (m.seqId, t2 - m.corr) }) s
    else syncDone ((m.stamp : Int) + m.corr) t2 s

/-- PTP_SYNC (R411, R412). -/
def execPtpSync (m : PtpMsg) (s : State) : Res := ptpTake m (takeSync m) s

/-- A Follow_Up of the Sync that waits for it. -/
def takeFollowUp (m : PtpMsg) (s : State) : State :=
  match s.sext.sync with
  | none => s
  | some (n, t2) => if n = m.seqId ∧ m.gm = s.sext.gm then syncDone ((m.stamp : Int) + m.corr) t2 s else s

/-- PTP_FOLLOW_UP (R411). -/
def execPtpFollowUp (m : PtpMsg) (s : State) : Res := ptpTake m (takeFollowUp m) s

/-- A Delay_Resp to the Delay_Req outstanding: the mean path delay, and an offset with the last Sync. -/
def takeDelayResp (m : PtpMsg) (s : State) : State :=
  match s.sext.t3, s.sext.t1t2 with
  | some t3, some (t1, t2) =>
    if m.seqId ≠ s.sext.delaySeq ∨ m.gm ≠ s.sext.gm then s
    else
      let t4 : Int := (m.stamp : Int) - m.corr
      let d := ((t2 - t1) + (t4 - (t3 : Int))) / 2
      let first := !s.sext.haveRef
      let s := refPresent (modSext (fun x => { x with pathDelay := d, t3 := none, delayInterval := m.interval }) s)
      if first then measure (t2 - t1 - d - ptpAsym s) s else s
  | _, _ => s

/-- PTP_DELAY_RESP (R411). -/
def execPtpDelayResp (m : PtpMsg) (s : State) : Res := ptpTake m (takeDelayResp m) s

/-- Lexicographic order of dataset ranks, lower is better. -/
def rankLt : List Nat → List Nat → Bool
  | [], [] => false
  | [], _ => true
  | _, [] => false
  | a :: as, b :: bs => a < b || (a == b && rankLt as bs)

/-- The best of the foreign masters; ties go to the lower identity. -/
def bestMaster : List Foreign → Option Foreign
  | [] => none
  | f :: fs => match bestMaster fs with
    | none => some f
    | some g => if rankLt g.rank f.rank || (g.rank == f.rank && g.gm < f.gm) then some g else some f

/-- An Announce: the comparison over at most 8 foreign masters (R411), and a change of grandmaster (R413). -/
def takeAnnounce (m : PtpMsg) (s : State) : State :=
  let l := s.sext.foreign
  let f : Foreign := { gm := m.gm, rank := m.rank }
  let l := if l.any fun x => x.gm == m.gm then l.map fun x => if x.gm = m.gm then f else x
    else if l.length < 8 then l ++ [f] else l
  let s := modSext (fun x => { x with foreign := l }) s
  match bestMaster l with
  | none => s
  | some b =>
    if b.gm = s.sext.gm then s
    else advisory 0x11 4 0x1105 0 0 (modSext (fun x => { x with gm := b.gm, sync := none, t1t2 := none, t3 := none }) s)

/-- PTP_ANNOUNCE (R413). -/
def execPtpAnnounce (m : PtpMsg) (s : State) : Res := ptpTake m (takeAnnounce m) s

/-- The clockIdentity of the module: EUI-64 of its MAC address. -/
def clockId : Nat := (Config.macAddr / 2 ^ 24) % 2 ^ 24 * 2 ^ 40 + 0xFFFE * 2 ^ 24 + Config.macAddr % 2 ^ 24

/-- A Delay_Req message (IEEE 1588-2019), without the headers of its transport (log entry 25). -/
def delayReq (domain seq : Nat) : List Byte :=
  [0x01, 0x02, 0, 44, BitVec.ofNat 8 domain, 0, 0, 0] ++ List.replicate 12 0 ++ beBytes 8 clockId ++ beBytes 2 1 ++ beBytes 2 seq ++ [1, 0x7F]
  ++ List.replicate 10 0

/-- DELAY_REQ_SEND (R411): sent with a hardware transmit timestamp. -/
def execDelayReqSend (s : State) : Res :=
  if !s.niu.linkUp ∨ sxSource s ≠ 0 ∨ s.sext.gm = 0 then ok s
  else
    let n := (s.sext.delaySeq + 1) % 65536
    let t3 := ((now s : Int) + latTx).toNat
    let s := modSext (fun x => { x with delaySeq := n, t3 := some t3 }) s
    ok (cntAdd 0x11 0x808 1 (sendOn (pcpPtp s) (.frame (delayReq (regFld s 0x10 0x174 7 0) n)) 90 s))

/-! ### Loss of the reference (R414) -/

/-- REFERENCE_LOST (R414). -/
def execReferenceLost (s : State) : Res :=
  if s.sext.haveRef ∨ s.sext.st = .acquiring then ok (refLost s) else ok s

/-- HOLDOVER (R414): 60 s after the loss. -/
def execHoldover (s : State) : Res :=
  match s.sext.st, s.sext.lossT with
  | .coast, some t => ok (advisory 0x11 1 0x1102 0 0 (sextTo .holdover (advanceMaster (t + 60000000000) s)))
  | _, _ => ok s

/-- LOST (R414): 600 s after the loss. -/
def execLost (s : State) : Res :=
  match s.sext.st, s.sext.lossT with
  | .holdover, some t => ok (advisory 0x11 2 0x1103 0 0 (sextTo .lost (cntAdd 0x11 0x838 1 (advanceMaster (t + 600000000000) s))))
  | _, _ => ok s

/-! ### PPS (R417, R418) -/

/-- One second in ns. -/
def secNs : Nat := 1000000000

/-- The second that an edge at fabric time `t` marks (R417): the one written since the last edge; while LOCKED the whole second nearest
to the edge, from which its distance is measured; else the previous second plus 1, or 0 at the first edge. -/
def edgeSecond (t : Nat) (s : State) : Nat :=
  if s.sext.todArmed then (regWord s 0x11 0x11C).toNat + 2 ^ 32 * regFld s 0x11 0x120 15 0
  else if s.sext.st = .locked then (t + secNs / 2) / secNs
  else if s.sext.ppsLast.isNone then 0 else s.sext.todSec + 1

/-- An accepted edge. -/
def edgeAccepted (t sec : Nat) (s : State) : State :=
  let s := modSext (fun x => { x with ppsLast := some t, ppsRej := 0, todSec := sec, todArmed := false }) s
  measure ((t : Int) - (sec * secNs : Nat)) (refPresent (cntAdd 0x11 0x820 1 s))

/-- PPS_IN_EDGE (R417). -/
def execPpsInEdge (t : Nat) (s : State) : Res :=
  if sxSource s ≠ 1 then ok s
  else
    let s := advanceMaster t s
    let sec := edgeSecond t s
    let o : Int := (t : Int) - (sec * secNs : Nat)
    if s.sext.st = .locked ∧ 1000 < o.natAbs then
      let s := advisory 0x11 3 0x1104 0 0 (cntAdd 0x11 0x828 1 (modSext (fun x => { x with ppsRej := x.ppsRej + 1 }) s))
      if s.sext.ppsRej < 3 then ok s
      else ok (measure o (measure o (measure o (modSext (fun x => { x with ppsRej := 0, big := 0 }) s))))
    else ok (edgeAccepted t sec s)

/-- PPS_OUT may pulse (R418). -/
def ppsOutOn (s : State) : Bool :=
  let w := (regWord s 0x11 0x100).toNat
  bit w 2 && (!bit w 3 || !(s.sext.st == .freerun || s.sext.st == .acquiring || s.sext.st == .lost))

/-- PPS_OUT_PULSE (R418): the next whole second of master fabric time. -/
def execPpsOutPulse (s : State) : Res :=
  if s.sext.ppsOut then ok s
  else
    let t0 := cdiv (now s) secNs * secNs
    let t := if t0 = s.sext.ppsRise ∧ t0 ≠ 0 then t0 + secNs else t0
    let s := advanceMaster t s
    if ppsOutOn s then ok (emit (.pps true) (modSext (fun x => { x with ppsOut := true, ppsRise := t }) s)) else ok s

/-- PPS_OUT_PULSE_END (R418). -/
def execPpsOutPulseEnd (s : State) : Res :=
  if s.sext.ppsOut then
    let s := advanceMaster (s.sext.ppsRise + regFld s 0x11 0x124 18 0 * 1000) s
    ok (emit (.pps false) (modSext (fun x => { x with ppsOut := false }) s))
  else ok s

/-! ### Register commands (R417, R419) -/

/-- SEXTANT_CTRL is written (R419): another source takes effect at once. -/
def writeSource (w : Word) (s : State) : State :=
  let old := sxSource s
  let s := storeRw 0x11 0x100 w s
  if sxSource s = old then s
  else
    let s := modSext (fun x => { x with
      haveRef := false, sync := none, t1t2 := none, t3 := none, good := 0, big := 0, ppsRej := 0, ppsLast := none }) s
    if sxSource s = 2 then sextTo .freerun s else if s.chip.stage = .ready then sextTo .acquiring s else s

/-- SOURCE_WRITE (R419). -/
def execSourceWrite (p : Path) (w : Word) (s : State) : Res := regRow p 0x11 0x100 (writeSource w) s

/-- SEXTANT_TOD_SEC_HI is written: the second is armed for the next edge (R417). -/
def writeTod (w : Word) (s : State) : State :=
  modSext (fun x => { x with todArmed := true, todSet := true }) (storeRw 0x11 0x120 w s)

/-- TOD_SEC_WRITE (R417). -/
def execTodSecWrite (p : Path) (w : Word) (s : State) : Res := regRow p 0x11 0x120 (writeTod w) s

end Sys2Proof.Machine
end

