-- ==== Sys2Proof/Machine/MspOps.lean ====
section
/-! DEFINITION. The management core's operations: the firmware image and its check (R440, R443, R444), management resets and the
recovery agent (R438, R439, R450), Atoll wipes (R243), lifecycle transitions (R461 to R463) and tamper events (R465). -/
namespace Sys2Proof.Machine
open Sys2Proof

/-! ### The NOR and its image (R440, R442, R443) -/

/-- Bytes of a sector of the NOR. -/
def sectorBytes : Nat := 65536

/-- A sector of the image region: unlisted sectors are erased, all ones. -/
def norSector (s : State) (i : Nat) : List Byte :=
  let d := smGet [] s.msp.nor i
  d ++ List.replicate (sectorBytes - d.length) 0xFF

/-- The first `n` bytes of the image region. -/
def norRead (s : State) (n : Nat) : List Byte := ((List.range (cdiv n sectorBytes)).flatMap (norSector s)).take n

/-- Program bytes at an offset of the image region. -/
def norProgram (off : Nat) (d : List Byte) (s : State) : State :=
  let i := off / sectorBytes
  let x := off % sectorBytes
  let k := sectorBytes - x
  let put (i x : Nat) (b : List Byte) (s : State) : State :=
    if b.isEmpty then s else modMsp (fun m => { m with nor := smSet m.nor i (overwrite (norSector s i) x b) }) s
  -- a range of at most 128 KiB at a 4 KiB boundary spans at most three sectors
  put (i + 2) 0 ((d.drop (k + sectorBytes)).take sectorBytes) (put (i + 1) 0 ((d.drop k).take sectorBytes) (put i x (d.take k) s))

/-- Bytes of SIGNATURE in an image. -/
def sigOff : Nat := 2656
/-- Length of SIGNATURE. -/
def sigLen : Nat := 4627

/-- The image digest D: SHA3-512 with SIGNATURE set to zeros (R444). -/
def imageDigest (b : List Byte) : List Byte := sha3_512 (overwrite b sigOff (List.replicate sigLen 0))

/-- The header layout (R443, check 1 of R444). -/
def imageHeaderOk (h : List Byte) : Bool :=
  let n := fld h 4 4
  fld h 0 1 == 2 && fld h 1 1 == 1 && fld h 2 2 == 8192 && decide (16384 ≤ n ∧ n ≤ 16777216 ∧ n % 4096 = 0) && decide (fld h 12 1 ≤ 63)
  && decide (fld h 13 1 ≤ 3) && decide (fld h 14 1 ≤ 1) && zeroRange h 15 16 && zeroRange h 28 64 && zeroRange h 7283 8192

/-- A firmware key is revoked. -/
def keyRevoked (s : State) (k : Nat) : Bool := bit s.msp.fuses.keyRevoked k

/-- The checks of R444 over an image's bytes: the running image's facts, or the number of the check that fails. -/
def imageCheck (s : State) (b : List Byte) : Except Nat FwInfo :=
  let k := fld b 13 1
  if b.length < 8192 ∨ !imageHeaderOk (b.take 8192) ∨ b.length < fld b 4 4 then .error 1
  else
    let b := b.take (fld b 4 4)
    if keyRevoked s k ∨ sha3_512 (slice b 64 2592) ≠ Config.fwKeyHash k then .error 2
    else if fld b 12 1 < s.msp.fuses.svnFloor then .error 3
    else if Config.romVersion < fld b 20 4 then .error 4
    else if !Config.mldsaVerify (slice b 64 2592) (imageDigest b) (slice b sigOff sigLen) then .error 5
    else .ok { version := fldBE b 8 4, svn := fld b 12 1, key := k, digest := imageDigest b, raise := bit (fld b 14 1) 0 }

/-- The check of the image in the NOR. The image programmed at manufacture stands by its facts: its key and SVN are checked, the
rest of it passed when it was made (log entry 9). -/
def romCheck (s : State) : Except Nat FwInfo :=
  if s.msp.factory then
    let f := Config.factoryImage
    if keyRevoked s f.2.2.1 then .error 2
    else if f.2.1 < s.msp.fuses.svnFloor then .error 3
    else .ok { version := f.1, svn := f.2.1, key := f.2.2.1, digest := f.2.2.2, raise := false }
  else
    let n := fld (norRead s 8192) 4 4
    imageCheck s (norRead s (min n 16777216))

/-! ### Running the image or the recovery agent (R438, R439, R445, R450) -/

/-- The firmware reaches ready: floor fuses are blown up to its SVN where RAISE_FLOOR is set (R444). -/
def raiseFloor (s : State) : State :=
  match s.msp.fw with
  | none => s
  | some f =>
    if f.raise then
      modMsp (fun m => { m with fuses := { m.fuses with svnFloor := max m.fuses.svnFloor f.svn }, fw := some { f with raise := false } }) s
    else s

/-- A valid image runs: counted, and FW_VERIFY_FAIL's handling ends (R473, R530). -/
def runImage (f : FwInfo) (s : State) : State :=
  let s := modMsp (fun m => { m with fw := some f, imageValid := true, recovery := false, busy := false }) s
  let s := endFatal 0x0301 (cntAdd 0x03 0x800 1 s)
  if s.chip.stage = .ready then raiseFloor s else s

/-- The recovery agent runs. -/
def runAgent (s : State) : State :=
  cntAdd 0x03 0x818 1 (modMsp (fun m => { m with fw := none, imageValid := false, recovery := true, recErased := [] }) s)

/-- A management reset (R438, R439): the core restarts at the ROM, which checks the image and runs it, or the recovery agent; the
session closes and SPDM negotiation starts anew. The data path goes on. -/
def mgmtReset (s : State) : State :=
  let s := modMsp (fun m => { m with session := none, spdm := SpdmSt.reset }) s
  match romCheck s with
  | .ok f => runImage f s
  | .error _ => runAgent (modMsp (fun m => { m with busy := true }) s)

/-- A firmware update ends without its image (R447, R449): counted; its command completes with Internal Error. -/
def dropUpdate (s : State) : State :=
  match s.msp.update with
  | none => s
  | some u => complete .admin u.tag stInternalError 0 0 [] (cntAdd 0x03 0x810 1 (modMsp (fun m => { m with update := none }) s))

/-! ### The Atoll (R243, R453) -/

/-- Every TLS connection stops: its traffic keys are gone with the Atoll (R453, R465). -/
def stopTls (s : State) : State :=
  ((s.qcu.conns.filter fun e => e.2.tls).map Prod.fst).foldl (fun s n => closeConn n 1 (emit (.rst n) s)) s

/-- Wipe the Atoll: its banks are zeroed and every valid bit of R453 clears. In PS4 the fabric clock has restarted for it (R22). -/
def wipeAtoll (s : State) : State :=
  let n := s.ocm.atoll
  let s := ocmZero none ((64 - n) * 0x100000) (n * 0x100000) s
  stopTls (modMsp (fun m => { m with keysLoaded := false }) (cntAdd 0x80 0xB48 1 s))

/-! ### Lifecycle (R461 to R463) -/

/-- LC_EXHAUSTED. -/
def cLC_EXHAUSTED : Code := 0x030B
/-- MGMT_BUSY. -/
def cMGMT_BUSY : Code := 0x030C

/-- One LC_COUNT fuse is blown, of 63. -/
def blowLc (s : State) : State := modMsp (fun m => { m with fuses := { m.fuses with lcCount := min 63 (m.fuses.lcCount + 1) } }) s

/-- A transition to a state (R461): one LC_COUNT fuse, both key store copies, the Atoll, LIFECYCLE_CHANGE; the session closes (R458).
The configuration copies are written anew with the new LC_COUNT, without which no start-up would find one. DEDUCED (log entry
28). -/
def lcMove (life : Life) (f : KeyStore → KeyStore) (s : State) : State :=
  let k := (keyStore s).getD KeyStore.blank
  let c := (config s).getD []
  let s := putConfig c (putConfig c (putKeyStores { f k with life := life } (blowLc s)))
  let s := wipeAtoll (modMsp (fun m => { m with session := none, events := m.events ++ [(life.code, now s)] }) s)
  advisory 0x03 4 0x0305 0 0 s

/-- Outside OPERATIONAL the Chart holds its reset state (R462); a swap that waits is refused with LIFECYCLE. -/
def stopChart (s : State) : State := modChart (fun c => { c with enable := false }) (clearBanks (refuseSwap cLIFECYCLE s))

/-- A waiting host write is answered as a command of a module that is not OPERATIONAL (R462). -/
def failWaiting (s : State) : State :=
  s.ftl.waiting.foldl (fun s w => if 0x80 ≤ w.op then refuse w.tag cLIFECYCLE 0 s else complete .nvm w.tag stNotReadyDnr 0 0 [] s) (modFtl (fun x => { x with waiting := [] }) s)

/-- Every index is gone, with its frames and its quota; its pending commands are answered with a code. -/
def dropIndexes (code : Code) (s : State) : State :=
  let s := s.sre.idx.foldl (fun s e =>
    let tags := (e.2.compact.bind Prod.snd).toList ++ (e.2.drop.getD none).toList
    let s := tags.foldl (fun s t => refuse t code 0 s) s
    freeQuota (5000 + e.1) (freeFrames (3000 + e.1) s)) s
  modSre (fun x => { x with idx := [] }) s

/-- Every superblock that is not free is erased, and nothing is mapped any more. -/
def eraseMedia (s : State) : State :=
  modFtl (fun x => { x with
    units := [], qual := [], map := [], slots := [], journal := [], dirty := [], streams := [], progs := [], runs := [], suspends := [], rewrites := [],
    namespaces := [], quotas := [], credit := 0, diag := [],
    sbs := x.sbs.map fun e => if e.2.st = .free ∨ e.2.st = .retired then e else (e.1, { Sb.fresh with erases := e.2.erases + 1 }) }) s

/-- What RETURN and DECOMMISSION destroy (R461): every namespace, index, context and PSK with their keys, the media key, the owner
key hash and slot 1; the MTE erases every superblock. Jobs end as on an unload. -/
def destroyData (s : State) : State :=
  let s := (s.sre.ingests.map Prod.fst).foldl (fun s j => abortIngest j cLIFECYCLE s) s
  let s := (s.sre.queries.map Prod.fst).foldl (fun s j => endQuery j cLIFECYCLE s) s
  let s := (s.ctxs.map Prod.fst).foldl (fun s n => unloadNow n s) s
  let s := stopChart (failWaiting (dropIndexes cLIFECYCLE s))
  modMsp (fun m => { m with cert1 := [] }) (eraseMedia s)

/-- A key store without the owner's part. -/
def KeyStore.noOwner (k : KeyStore) : KeyStore := { k with media := none, psks := [], ownerHash := none }

/-! ### Tamper (R464, R465) -/

/-- A tamper event of a source takes its actions. From DECOMMISSIONED no transition leads to TAMPERED (R461). -/
def tamper (src : Nat) (s : State) : State :=
  let old := lifecycle s
  let s := modMsp (fun m => { m with tamperStatus := 2 ^ src, kdeLocked := true, erasePending := true }) (cntAdd 0x03 0x838 1 s)
  let s := dropUpdate (wipeAtoll s)
  let s := modMsp (fun m => { m with session := none }) s
  let s := if old = .decommissioned then s
    else
      let s := modMsp (fun m => { m with fuses := { m.fuses with tampers := min 15 (m.fuses.tampers + 1) } }) s
      if old = .tampered then s else advisory 0x03 4 0x0305 0 0 (blowLc s)
  let s := raiseFatal 0x0308 0x03 (some 7) 0 0 s
  stopChart (failWaiting (abortJobs 0x0309 stVendor s))

end Sys2Proof.Machine
end

