-- ==== Sys2Proof/Machine/ResetOps.lean ====
section
/-! DEFINITION. What the reset domains restore (R14 to R18, R42, R244, R263, R317, R460, R479 to R483), the power-loss flush (R350 to
R353, R485) and the start-up stages (R441, R445, R453, R455, R482). -/
namespace Sys2Proof.Machine
open Sys2Proof

/-! ### Registers, counters and latches by reset domain (R16, R18, R42) -/

/-- Width of a reset domain: the domains widen in the order island, device, module, power-on. -/
def Dom.rank : Dom → Nat
  | .i => 1
  | .d => 2
  | .m => 3
  | .p => 4
  | .stored => 9
  | .fixed => 9

/-- Counters whose Reset column is not D: (page, offset, rank of the domain). -/
def cntDoms : List (Nat × Nat × Nat) :=
  [(0x00, 0x800, 4), (0x00, 0x808, 4), (0x00, 0x810, 4), (0x01, 0x800, 4), (0x01, 0x808, 3),
   (0xE0, 0x800, 3), (0xE0, 0x808, 3), (0xE0, 0x810, 3), (0xE0, 0x818, 3), (0xE0, 0x820, 3), (0xE0, 0x828, 3), (0xE0, 0x830, 3),
   (0x80, 0xB48, 4), (0x10, 0x878, 4), (0x11, 0x830, 4), (0x11, 0x838, 4)]
  ++ [(0xD0, 0x800, 4), (0xD0, 0x808, 4), (0xD0, 0x810, 4), (0xD0, 0x818, 4), (0xD0, 0x820, 4), (0xD0, 0x828, 4), (0xD0, 0x830, 4),
      (0xD0, 0x838, 4), (0x03, 0x800, 4), (0x03, 0x808, 4), (0x03, 0x810, 4), (0x03, 0x818, 4), (0x03, 0x838, 4), (0x02, 0x800, 4),
      (0x02, 0x838, 4)]

/-- Rank of a counter's reset domain. -/
def cntRank (page off : Nat) : Nat := ((cntDoms.find? fun e => e.1 == page && e.2.1 == off).map fun e => e.2.2).getD 2

/-- Rank of the domain whose reset clears the latch of a low half (R16). -/
def latchRank (a : Nat) : Nat :=
  if 0x800 ≤ a % 4096 then cntRank (a / 4096) (a % 4096) else (((wordRows (a / 4096) (a % 4096)).head?).map fun r => r.dom.rank).getD 2

/-- A stored word after a reset of a rank: its fields of that domain or a narrower one at their reset values. -/
def wordReset (rank a : Nat) (w : Word) : Word :=
  BitVec.ofNat 32 ((wordRows (a / 4096) (a % 4096)).foldl (fun v r =>
    if r.dom.rank ≤ rank then v - bits v (r.lo + r.width - 1) r.lo * 2 ^ r.lo + r.val * 2 ^ r.lo else v) w.toNat)

/-- Mask of the fields of a word that are stored in the configuration (R460). -/
def storedMask (a : Nat) : Nat :=
  (wordRows (a / 4096) (a % 4096)).foldl (fun m r => if r.dom == .stored && r.acc == .rw then m ||| ((2 ^ r.width - 1) * 2 ^ r.lo) else m) 0

/-- Reset registers, counters, latches and page headers. -/
def resetRegs (rank : Nat) (s : State) : State :=
  let s := setRegs (s.regs.foldl (fun m e => smPut (resetWord (e.1 / 4096) (e.1 % 4096)) m e.1 (wordReset rank e.1 e.2)) s.regs) s
  let s := setCnt (s.cnt.filter fun e => rank < cntRank (e.1 / 4096) (e.1 % 4096)) s
  let s := setLatch (s.latch.filter fun e => rank < latchRank (e.1 % 2 ^ 20)) s
  if rank < 3 then setHdr (s.hdr.foldl (fun m e => smPut PageHdr.zero m e.1 { e.2 with freeze := false }) s.hdr) s else setHdr [] s

/-- Stored fields take the values of the valid configuration copy, or their reset values (R460, R441). -/
def restoreStored (s : State) : State :=
  let base := s.regs.foldl (fun m e =>
    let d := (resetWord (e.1 / 4096) (e.1 % 4096)).toNat
    let k := storedMask e.1
    smPut (resetWord (e.1 / 4096) (e.1 % 4096)) m e.1 (BitVec.ofNat 32 ((e.2.toNat - (e.2.toNat &&& k)) + (d &&& k)))) s.regs
  ((config s).getD []).foldl (fun s e =>
    let k := storedMask e.1
    let v := (regWord s (e.1 / 4096) (e.1 % 4096)).toNat
    setRegWord (e.1 / 4096) (e.1 % 4096) (BitVec.ofNat 32 ((v - (v &&& k)) + (e.2.toNat &&& k))) s) (setRegs base s)

/-! ### Device reset (R244, R263, R317, R479, R483) -/

/-- FATAL codes whose handling a device reset does not end (R473). -/
def keepsFatal (code : Nat) : Bool := code ∈ [0x0101, 0xE004, 0x8003, 0x9003, 0x0301, 0x0307, 0x0308, 0x0207, 0x0204]

/-- A new STRAIT_SESSION from the DRBG (R424). -/
def newSessionId (s : State) : State :=
  let (v, s) := draw s
  modStrait (fun x => { x with session := v % 2 ^ 32 }) s

/-- Indexes begin loading (R317): LOADING for at most graph and codebook bytes over 150 GB/s, their external memory allocated. -/
def loadIndexes (s : State) : State :=
  s.sre.idx.foldl (fun s e =>
    let i := e.2
    let graph := i.cfg.maxVec * (i.cfg.m + 4 * i.cfg.degree) + 512 * i.cfg.dim
    let (v, s) := draw s
    let s := (takeFrames (cdiv i.cfg.xmBytes frameBytes) (3000 + e.1) s).2
    modIdx e.1 (fun x => if x.st = .damaged then x else { x with st := .loading (now s + min v (cdiv graph 150)) }) s) s

/-- Queries, ingests and compactions are discarded, and pending drops with them (R317). -/
def dropSearch (s : State) : State :=
  modSre (fun x => { x with queries := [], ingests := [], idx := x.idx.map fun e =>
    (e.1, { e.2 with compact := none, drop := none, st := if e.2.st = .damaged then .damaged else .ready, lastT := 0, lastPrev := e.2.last }) }) s

/-- Connections and controllers are gone; the power state is PS0 (R479). -/
def dropHosts (rst : Bool) (s : State) : State :=
  let s := if rst then s.qcu.conns.foldl (fun s e => emit (.rst e.1) s) s else s
  let s := modNiu (fun n => { n with rto := [] }) s
  modFtl (fun f => { f with waiting := [], through := [], namespaces := f.namespaces.map fun e => (e.1, { e.2 with attached := [] }) })
    (setQcu { QcuSt.reset with lastRefused := s.qcu.lastRefused, actLed := s.qcu.actLed } s)

/-- A device reset with the cause bit of CLKRST_RST_CAUSE. The work of at most 50 ms is done within the command. -/
def deviceReset (cause : Nat) (s : State) : State :=
  let atoll := 64 - s.ocm.atoll
  let s := dropHosts true (dropSearch s)
  let s := setIslands [] (setCores [] (setCtxs [] (setChart ChartSt.reset s)))
  let s := modOcm (fun o => { o with
    spad := smClear o.spad 0 (atoll * 0x100000), spadErr := smClear o.spadErr 0 (atoll * 0x20000), loc := [], locErr := [], diag := false,
    flipArm := false, bgtSpad := ⟨0, 0⟩, bgtLoc := [], lastEcc := 0, lastTest := 0, locConf := [], initBusy := false }) s
  let s := modXmc (fun x => { x with
    chans := x.chans.map fun e => (e.1, { e.2 with selfRefresh := false, flipArm := false, lastAddr := 0, lastUncorr := false, lastSym := 0 })
    scrub := XmcSt.reset.scrub }) s
  let s := setSfu SfuSt.reset (setCompass CompassSt.reset s)
  let quotas := (s.ftl.quotas.filter fun e => e.1 < 5000).map Prod.fst
  let s := quotas.foldl (fun s o => freeQuota o s) s
  let s := modFtl (fun f => { f with diag := [], filterRefusal := (0, 0), idleSince := now s, credit := 0 }) s
  let s := modNiu (fun n => { n with rxq := [], txq := [], xoff := [], paused := [], flushing := 0, ptrFaults := [] }) s
  let s := newSessionId (setStrait StraitSt.reset s)
  let s := modMsp (fun m => { m with staged := [] }) s
  let s := modErr (fun e => { e with handlings := e.handlings.filter fun h => h.cls == .fatal && keepsFatal h.code }) s
  let s := modChip (fun c => { c with level1 := false, locked := false, cause := cause, devResetDue := none, fmeas := none, fmeasKhz := 0,
                                      ps4Fabric := none }) s
  let s := resetRegs 2 s
  loadIndexes (cntAdd 0x00 0x810 1 s)

/-! ### Power-loss flush (R350 to R353, R485) -/

/-- Programs in flight are abandoned: their units are undefined and their superblocks are closed (R328, R351, R352). -/
def abandonProgs (s : State) : State :=
  let ps := s.ftl.progs
  let s := modFtl (fun f => { f with progs := [], suspends := [], qual := ps.foldl (fun m p => smSet m p.unit 3) f.qual }) s
  ps.foldl (fun s p => modSb p.sb (fun b => if b.st = .opened then { b with st := .closed, closedT := now s } else b) s) s

/-- The map entry of a unit before any of its writes that stand in the write buffer alone. -/
def beforeSlots : List JEnt → Nat → Nat → Nat
  | [], _, e => e
  | j :: js, i, e => if e / 2 ^ 34 ≠ 3 then e else if j.idx = i ∧ j.new = e then beforeSlots js i j.old else beforeSlots js i e

/-- A flush area without its closing record (R353): units whose writes were acknowledged and not flushed read their previous
contents. -/
def loseSlots (s : State) : State :=
  let js := s.ftl.journal.reverse
  modFtl (fun f => { f with
    slots := [], map := f.slots.foldl (fun m e =>
      let i := e.2.idx
      if smGet 0 m i = entSlot e.1 then smPut 0 m i (beforeSlots js i (entSlot e.1)) else m) f.map }) s

/-- The flush ends, with or without its closing record. -/
def flushDone (complete : Bool) (cause : FlushCause) (s : State) : State :=
  let s := abandonProgs s
  let s := modFtl (fun f => { f with flushing := false, flushClosed := complete, flushBad := if complete then false else f.flushBad }) s
  let s := modPwr (fun p => { p with flush := none, lastFlush := cause, lastComplete := complete }) s
  if complete then cntAdd 0xD0 0x838 1 s else s

/-! ### Module and power-on resets (R244, R263, R441, R479, R530) -/

/-- A reset of every domain but what survives it: pins, fuses and the NOR, the flash media, the indexes' committed state; on a module
reset also ERR_FATAL_LAST, the P counters and registers, and time since power good. -/
def wideReset (pon : Bool) (cause : Nat) (s : State) : State :=
  let s := dropSearch s
  let s := setCtxs [] (setIslands [] (setCores [] (setChart ChartSt.reset s)))
  let s := dropUpdate (dropHosts false s)
  let s := setTime { master := 0, replica := 0, uptime := if pon then 0 else s.time.uptime } s
  let s := setErr { ring := [], head := 0, wraps := 0, tail := 0, overflow := false, fatalLast := if pon then none else s.err.fatalLast,
                    handlings := [], tripHold := !pon && s.err.tripHold } s
  let s := setNiu NiuSt.reset (setSext SextSt.reset (newSessionId (setStrait StraitSt.reset s)))
  let s := setQcu QcuSt.reset (setCompass CompassSt.reset (setXmc XmcSt.reset (setOcm OcmSt.reset (setSfu SfuSt.reset s))))
  let quotas := (s.ftl.quotas.filter fun e => e.1 < 5000).map Prod.fst
  let s := quotas.foldl (fun s o => freeQuota o s) (abandonProgs s)
  let s := modFtl (fun f => { f with rebuilding := true, foreground := false, background := false, idleSince := 0, credit := 0, diag := [],
                                     filterRefusal := (0, 0) }) s
  let s := modMsp (fun m => { m with
    fw := none, imageValid := false, recovery := false, recErased := [], progress := (0, 0), staged := [], busy := false, session := none,
    spdm := MspSt.reset.spdm, idKey := none, keysLoaded := false, loopSince := none, loopRaised := false,
    kdeLocked := !pon && m.kdeLocked, tamperStatus := if pon then 0 else m.tamperStatus }) s
  let s := modPwr (fun p => { p with
    brake := !p.brakeN, toggleHold := false, brakeT := none, brakeHeld := false, dipCap := false, ride := false, lastMw := 0, lastMv := 0,
    energyNj := if pon then 0 else p.energyNj, peak := [], peakGrant := false, peakLimited := false, limitW := 0, temps := [], throttle := false,
    holdupMj := 0, holdupUf := 0, holdupLow := false, writeThrough := false, flush := none }) s
  let s := modChip (fun c => { c with
    stage := .powerGood, stopped := false, level1 := false, locked := false, cause := cause, pll := 0, devResetDue := none, modReset := none,
    fmeas := none, fmeasKhz := 0, replays := 0, ps4Fabric := none }) s
  let s := restoreStored (resetRegs (if pon then 4 else 3) s)
  let s := cntAdd 0x80 0xB48 1 (if pon then s else cntAdd 0x00 0x808 1 s)
  if lifecycle s = .tampered then
    -- FAULT_N and ALERT_N are low again at power good, with no record (R530)
    modErr (fun e => { e with handlings := [⟨.fatal, .chip, 0x0308, none⟩] }) s
  else s

/-- The main converters are off: nothing but the AUX domain runs (R492, R493). -/
def powerOff (s : State) : State := modChip (fun c => { c with powered := false }) (wideReset false s.chip.cause s)

/-! ### Start-up (R482) -/

/-- Every page that the page map lists. -/
def allPages : List Nat :=
  [0x00, 0x01, 0x02, 0x03, 0x10, 0x11, 0x12, 0x20, 0x30] ++ (List.range 48).map (0x40 + ·) ++ [0x70, 0x80] ++ (List.range 16).map (0x90 + ·)
  ++ [0xA0, 0xB0] ++ (List.range 16).map (0xC0 + ·) ++ [0xD0, 0xD8, 0xE0]

/-- Stage ROM: PLLs locked, memories zeroed (R244). -/
def bootRom (s : State) : State :=
  modOcm (fun o => { o with initBusy := false }) (modChip (fun c => { c with stage := .rom, pll := 15 }) s)

/-- Stage image verify (R445): the image runs, or FW_VERIFY_FAIL with the failing check, and the recovery agent, which brings up
the port (R450). -/
def bootVerify (s : State) : State :=
  let s := modChip (fun c => { c with stage := .verify }) s
  match romCheck s with
  | .ok f => runImage f s
  | .error n =>
    let s := runAgent (raiseFatal 0x0301 0x03 (some 0) n 0 s)
    modNiu (fun x => { x with anSince := if linkEn s then some (now s) else none }) (modChip (fun c => { c with stopped := true }) s)

/-- Stage memory training (R260). -/
def bootTrain (o : BootOut) (s : State) : State :=
  let s := modChip (fun c => { c with stage := .training, stopped := false }) s
  let s := modXmc (fun x => { x with chans := (List.range 32).foldl (fun m k =>
    smPut Chan.reset m k { smGet Chan.reset m k with trained := !o.untrained.contains k, margin := o.margins.getD k 0 }) x.chans }) s
  let bad := o.untrained.filter (· < 32)
  if bad.isEmpty then s
  else bad.foldl (fun s k => raiseFatal 0x9003 (0x90 + k / 2) (some 2) 0 0 s) (modChip (fun c => { c with stopped := true }) s)

/-- The copies of the key store and of the configuration are checked (R441): an invalid copy is rewritten from the other; with both
key store copies invalid KEYSTORE_LOST is raised. In TAMPERED they stand erased by R465, which is no loss. -/
def bootCopies (s : State) : State :=
  if lifecycle s = .tampered then s
  else
    let s := match copyValid s s.msp.cfgA, copyValid s s.msp.cfgB with
      | true, false => corrected 0x03 5 0x0306 0 0 (modMsp (fun m => { m with cfgB := { m.cfgA with seq := m.cfgA.seq } }) s)
      | false, true => corrected 0x03 5 0x0306 0 0 (modMsp (fun m => { m with cfgA := { m.cfgB with seq := m.cfgB.seq } }) s)
      | false, false => raiseFatal 0x0307 0x03 (some 6) 0 0 s
      | true, true => s
    match copyValid s s.msp.ksA, copyValid s s.msp.ksB with
    | true, false => corrected 0x03 5 0x0306 0 0 (modMsp (fun m => { m with ksB := m.ksA }) s)
    | false, true => corrected 0x03 5 0x0306 0 0 (modMsp (fun m => { m with ksA := m.ksB }) s)
    | false, false => raiseFatal 0x0307 0x03 (some 6) 0 0 (modMsp (fun m => { m with ksLost := true }) s)
    | true, true => s

/-- The UDS slot that the KDE uses: the highest blown slot not killed (R451). -/
def udsSlot (s : State) : Option Nat :=
  [3, 2, 1, 0].find? fun i => bit s.msp.fuses.udsUsed i && !bit s.msp.fuses.udsKilled i

/-- The identity public key (R451, R455). -/
def makeIdentity (s : State) : Option (List Byte) :=
  match udsSlot s, (keyStore s).bind (·.nonceId) with
  | some i, some n => some (Config.mldsaPub (Config.kmacSeed (smGet 0 s.msp.fuses.uds i) n))
  | _, _ => none

/-- The key store is unwrapped into the Atoll, of one bank (R453), and the identity is generated (R455). -/
def bootKeys (s : State) : State :=
  let locked := s.msp.kdeLocked || s.msp.fuses.kdeKilled || s.msp.ksLost || lifecycle s == .tampered
  let s := cntAdd 0x80 0xB48 1 (modOcm (fun o => { o with atoll := 1 }) s)
  modMsp (fun m => { m with keysLoaded := !locked, idKey := if locked then none else makeIdentity s }) s

/-- Map rebuild (R351 to R353): erases that were under way are reissued, and the map holds the committed entries. -/
def bootRebuild (s : State) : State :=
  let s := modChip (fun c => { c with stage := .rebuild }) s
  let again := (s.ftl.sbs.filter fun e => e.2.st == .erasing).length
  let s := cntAdd 0xD0 0x830 again s
  let s := modFtl (fun f => { f with
    runs := f.runs.filter fun r => 3 ≤ r.why
    sbs := f.sbs.map fun e => if e.2.st = .victim then (e.1, { e.2 with st := if (validUnits s e.1).isEmpty then .erasing else .closed }) else e }) s
  let s := if s.ftl.flushClosed then s
    else
      let s := raiseFatal 0xD006 0xD0 (some 5) 0 0 (loseSlots s)
      modFtl (fun f => { f with flushBad := true, flushClosed := true }) s
  modFtl (fun f => { f with rebuilding := false }) s

/-- Stage link up: auto-negotiation starts (R399), or the link comes up with the partner. -/
def bootLink (o : BootOut) (s : State) : State :=
  let s := modChip (fun c => { c with stage := .linkUp }) s
  if !linkEn s then s
  else if o.linkUp then modChip (fun c => { c with pll := 31 }) (modNiu (fun x => { x with linkUp := true, laneLock := 15, anSince := none }) s)
  else modNiu (fun x => { x with anSince := some (now s) }) s

/-- Throttle and trip temperatures of a sensor, in tenths of a degree (R510). -/
def sensorLimits (n : Nat) : Int × Int :=
  if n ≤ 19 then (1000, 1200) else if n ≤ 83 then (700, 850) else if n ≤ 115 then (950, 1100) else if n ≤ 117 then (700, 850)
  else if n = 118 then (450, 550) else (600, 750)

/-- Every sensor reads below its throttle temperature (R511). -/
def allCool (s : State) : Bool :=
  (List.range 120).all fun n => match smFind s.pwr.temps n with
    | some t => decide (t < (sensorLimits n).1)
    | none => false

/-- From memory training on: the image runs, keys are placed, the map is rebuilt, the link comes up. -/
def bootFrom (o : BootOut) (s : State) : State :=
  let s := bootTrain o s
  if s.chip.stopped then s else bootLink o (bootRebuild (bootKeys (bootCopies s)))

/-- Start-up up to the link up stage, as far as it gets. -/
def startUp (o : BootOut) (s : State) : State :=
  match s.chip.stage with
  | .powerGood =>
    if !s.chip.powered ∨ !s.pwr.modRstN ∨ (s.pwr.tripped ∧ !allCool s) then s
    else
      let s := bootVerify (bootRom (modPwr (fun p => { p with tripped := false }) s))
      if s.chip.stopped then s else bootFrom o s
  | .verify => if s.msp.imageValid ∧ !s.msp.recovery then bootFrom o s else s
  | _ => s

/-- Ready (R444, R482): READY on every page, the Sextant leaves FREERUN, indexes begin loading. -/
def becomeReady (s : State) : State :=
  if s.chip.stage ≠ .linkUp ∨ !s.niu.linkUp then s
  else
    let s := modChip (fun c => { c with stage := .ready }) s
    let s := allPages.foldl (fun s p => modHdr p (fun h => { h with ready := true }) s) s
    let s := if regFld s 0x11 0x100 1 0 = 2 then s else sextTo .acquiring s
    raiseFloor (loadIndexes (modFtl (fun f => { f with idleSince := now s }) s))

end Sys2Proof.Machine
end

