-- ==== Sys2Proof/Machine/Admin.lean ====
section
/-! DEFINITION. Fabrics and admin commands (R369, R375 to R377, R390 to R394, R446, R447, R450, R484). What the spec takes from the NVM
Express specifications without stating it (field places, statuses, the order of checks) is PRESUMED from their revision 2.0 (log
entries 12 and 41). -/
namespace Sys2Proof.Machine
open Sys2Proof

def stConnFormat : Status := ⟨1, 0x80⟩
def stInvalidQueueType : Status := ⟨1, 0x83⟩
def stInvalidFormat : Status := ⟨1, 0x0A⟩
def stNotSaveable : Status := ⟨1, 0x0D⟩
def stFwProhibited : Status := ⟨1, 0x13⟩
def stOverlapping : Status := ⟨1, 0x14⟩
def stThin : Status := ⟨1, 0x1B⟩

/-! ### Connect and Disconnect (R369, R375, R377) -/

/-- Lower-case hexadecimal digit. -/
def hexDigit (n : Nat) : Byte := BitVec.ofNat 8 (if n < 10 then 48 + n else 87 + n)

/-- The NQN of the module's subsystem (R369). -/
def subNqn : List Byte :=
  strBytes "nqn.2023-04.com.madelvar:brv-ck2:" ++ (List.range 32).map fun i => hexDigit (Config.serial / 16 ^ (31 - i) % 16)

/-- The NQN of the discovery service. -/
def discNqn : List Byte := strBytes "nqn.2014-08.org.nvmexpress.discovery"

/-- Answer a Connect on a connection that is no queue. -/
def connReply (t : Tag) (st : Status) (s : State) : State :=
  emit (.compl { tag := t, sct := st.sct, sc := st.sc, dw0 := 0, dw1 := 0, data := [] }) s

/-- A Keep Alive timeout as it is stored, from milliseconds (R376). -/
def katoSeconds (ms : Nat) : Nat := if ms = 0 then 600 else max 1 (min 600 (cdiv ms 1000))

/-- A controller just created. -/
def Ctrl.fresh (conn kato t : Nat) (disc : Bool) : Ctrl :=
  { adminConn := conn, discovery := disc, kato := kato, kaStart := t, cc := 0, shst := 0, aerCids := [], held := [], masked := [], aeCfg := 0,
    changed := [], feats := [], log := [], logTotal := 0 }

/-- I/O queues of the module (R375). -/
def ioQueues (s : State) : Nat := (s.qcu.conns.filter fun e => match e.2.queue with | some (_, q, _) => q != 0 | none => false).length

/-- A connection becomes a queue. -/
def makeQueue (t : Tag) (cntlid qid sqsize : Nat) (noFlow : Bool) (s : State) : State :=
  complete .admin t stSuccess cntlid 0 [] (modConn t.conn (fun c => { c with queue := some (cntlid, qid, sqsize), noFlow := noFlow }) s)

/-- A Connect for an admin queue: a new controller, of the lowest free number. -/
def connectAdmin (t : Tag) (c : Conn) (cntlid sqsize kato : Nat) (noFlow : Bool) (s : State) : State :=
  if cntlid ≠ 0xFFFF ∨ sqsize = 0 ∨ 31 < sqsize then connReply t stConnParams s
  else if 256 ≤ s.qcu.ctrls.length ∨ (s.chip.stage ≠ .ready ∧ s.qcu.ctrls ≠ []) then connReply t stConnBusy s
  else
    let k := ((List.range 256).find? fun k => (smFind s.qcu.ctrls k).isNone).getD 0
    makeQueue t k 0 sqsize noFlow (modQcu (fun q => { q with ctrls := smSet q.ctrls k (Ctrl.fresh t.conn kato (now s) c.disc) }) s)

/-- A Connect for an I/O queue of a controller that is enabled. -/
def connectIo (t : Tag) (cntlid qid sqsize : Nat) (noFlow : Bool) (s : State) : State :=
  match smFind s.qcu.ctrls cntlid with
  | none => connReply t stConnParams s
  | some k =>
    let dup := s.qcu.conns.any fun e => (e.2.queue.map fun q => (q.1, q.2.1)) == some (cntlid, qid)
    if k.discovery ∨ k.cc % 2 = 0 ∨ 1024 < qid ∨ dup ∨ sqsize = 0 ∨ 4095 < sqsize ∨ s.chip.stage ≠ .ready then connReply t stConnParams s
    else if 1024 ≤ ioQueues s then connReply t stConnBusy s
    else makeQueue t cntlid qid sqsize noFlow s

/-- CONNECT (R375). -/
def execConnect (t : Tag) (q : Sqe) (d : List Byte) (s : State) : Res :=
  match conn? s t.conn with
  | none => ok s
  | some c =>
    if s.chip.stage ≠ .ready ∧ !s.msp.recovery ∨ !c.icDone then ok s
    else if c.queue.isSome then ok (complete .admin t stSequenceError 0 0 [] (noteCmd t 0x7F q s))
    else if q.sgl ≠ 1024 then ok (connReply t stSglLength s)
    else if cdw q 10 % 65536 ≠ 0 then ok (connReply t stConnFormat s)
    else
      let d := padTo 1024 d
      let nqn := slice d 256 256
      let want := if c.disc then discNqn else subNqn
      let qid := cdw q 10 / 65536
      let sq := cdw q 11 % 65536
      let noFlow := bit (cdw q 11) 18
      if nqn ≠ padTo 256 want then ok (connReply t stConnParams s)
      else if qid = 0 then ok (connectAdmin t c (fld d 16 2) sq (katoSeconds (cdw q 12)) noFlow s)
      else ok (connectIo t (fld d 16 2) qid sq noFlow s)

/-- A fabrics or admin command on the queue of its connection; `admin` asks for an admin queue. -/
def fabricsRow (t : Tag) (q : Sqe) (admin : Bool) (f : Nat → Nat → State → State) (s : State) : Res :=
  match fetch t 0x7F q false true s with
  | .error s => ok s
  | .ok s => match queueOf s t.conn with
    | none => ok s
    | some (c, k) => if admin ∧ k ≠ 0 then ok (complete .admin t stInvalidField 0 0 [] s) else ok (f c k s)

/-- DISCONNECT (R377): the queue is reset and its connection closes. -/
def execDisconnect (t : Tag) (q : Sqe) (_d : List Byte) (s : State) : Res :=
  fabricsRow t q false (fun _ k s =>
    if cdw q 10 % 65536 ≠ 0 then complete .admin t stConnFormat 0 0 [] s
    else if k = 0 then complete .admin t stInvalidQueueType 0 0 [] s
    else closeConn t.conn 2 (complete .admin t stSuccess 0 0 [] s)) s

/-! ### Properties (R369, R479, R484) -/

/-- Controller capabilities: MQES 4,095, contiguous queues, NSSR supported, the NVM command set; TO and MPSMAX are open. -/
def capProp : Nat := 4095 + 2 ^ 16 + Config.capOpen % 256 * 2 ^ 24 + 2 ^ 36 + 2 ^ 37 + Config.capOpen / 256 % 16 * 2 ^ 52

/-- A property and its size in bytes. -/
def property (c : Ctrl) (off : Nat) : Option (Nat × Nat) :=
  if off = 0x00 then some (capProp, 8)
  else if off = 0x08 then some (0x00020000, 4)
  else if off = 0x14 then some (c.cc, 4)
  else if off = 0x1C then some (c.cc % 2 + 4 * c.shst, 4)
  else if off = 0x20 then some (0, 4)
  else none

/-- PROPERTY_GET (R369). -/
def execPropertyGet (t : Tag) (q : Sqe) (_d : List Byte) (s : State) : Res :=
  fabricsRow t q true (fun c _ s =>
    match (smFind s.qcu.ctrls c).bind fun k => property k (cdw q 11) with
    | none => complete .admin t stInvalidField 0 0 [] s
    | some (v, n) =>
      if n ≠ (if cdw q 10 % 8 = 1 then 8 else 4) then complete .admin t stInvalidField 0 0 [] s
      else complete .admin t stSuccess (v % 2 ^ 32) (v / 2 ^ 32) [] s) s

/-- A controller is reset by clearing CC.EN: its I/O queues are deleted, its requests and events dropped (R377, R479). -/
def disableCtrl (c : Nat) (s : State) : State :=
  let cs := (s.qcu.conns.filter fun e => match e.2.queue with | some (k, q, _) => k == c && q != 0 | none => false).map Prod.fst
  let s := cs.foldl (fun s n => closeConn n 2 s) s
  modQcu (fun q => { q with ctrls := smMod q.ctrls c fun k =>
    { k with shst := 0, aerCids := [], held := [], masked := [], aeCfg := 0, feats := [], changed := [] } }) s

/-- A shutdown notification (R484). -/
def shutdownCtrl (c : Nat) (s : State) : State :=
  modQcu (fun q => { q with ctrls := smMod q.ctrls c fun k => { k with shst := 2 } }) (admitWrites (drainClean s))

/-- Write CC. -/
def writeCc (c v : Nat) (s : State) : State :=
  match smFind s.qcu.ctrls c with
  | none => s
  | some k =>
    let s := if k.cc % 2 = 1 ∧ v % 2 = 0 then disableCtrl c s else s
    let s := modQcu (fun q => { q with ctrls := smMod q.ctrls c fun k => { k with cc := v } }) s
    if bits v 15 14 = 1 ∨ bits v 15 14 = 2 then shutdownCtrl c s else s

/-- Set a property: CC, or NSSR, which starts a device reset once the command has completed. -/
def propSet (t : Tag) (c off v : Nat) (s : State) : State :=
  if off = 0x14 then complete .admin t stSuccess 0 0 [] (writeCc c v s)
  else if off = 0x20 then
    let s := complete .admin t stSuccess 0 0 [] s
    if v = 0x4E564D65 then deviceReset 2 s else s
  else complete .admin t stInvalidField 0 0 [] s

/-- PROPERTY_SET (R369). -/
def execPropertySet (t : Tag) (q : Sqe) (_d : List Byte) (s : State) : Res :=
  fabricsRow t q true (fun c _ s => propSet t c (cdw q 11) (cdw q 12) s) s

/-- NSSR_DEVICE_RESET (R479). -/
def execNssrDeviceReset (t : Tag) (q : Sqe) (_d : List Byte) (s : State) : Res :=
  fabricsRow t q true (fun c _ s => propSet t c 0x20 0x4E564D65 s) s

/-- SHUTDOWN_NOTIFICATION (R484): CC is written with SHN as the command gives it, normal where it gives none. -/
def execShutdownNotification (t : Tag) (q : Sqe) (_d : List Byte) (s : State) : Res :=
  let v := cdw q 12
  fabricsRow t q true (fun c _ s => propSet t c 0x14 (if bits v 15 14 = 1 ∨ bits v 15 14 = 2 then v else v - bits v 15 14 * 2 ^ 14 + 2 ^ 14) s) s

/-! ### Identify (R369, R392) -/

/-- Lay stated fields over a structure whose other bytes are open. -/
def openBytes (free : Nat → Nat) (n : Nat) (fs : List (Nat × List Byte)) : List Byte :=
  fs.foldl (fun b f => overwrite b f.1 f.2) ((List.range n).map fun i => BitVec.ofNat 8 (free i))

/-- Power state descriptor (R392): MP in 0.01 W, NOPS, ENLAT, EXLAT in µs. -/
def psDesc (mp nops en ex : Nat) : List Byte := leBytes 2 mp ++ [0] ++ leBytes 1 (2 * nops) ++ leBytes 4 en ++ leBytes 4 ex

/-- Identify Controller. -/
def idCtrl (s : State) (cntlid : Nat) (disc : Bool) : List Byte :=
  openBytes (Config.identOpen 1) 4096 [
    (77, leBytes 1 10), (78, leBytes 2 cntlid), (80, leBytes 4 0x00020000), (88, leBytes 4 2000000), (111, leBytes 1 (if disc then 2 else 1)),
    (256, leBytes 2 0x0A), (259, leBytes 1 15), (260, leBytes 1 0x12), (263, leBytes 1 4), (265, leBytes 1 0), (270, leBytes 2 6000),
    (280, leBytes 16 (userUnits * unitBytes)), (296, leBytes 16 ((userUnits - allocUnits s) * unitBytes)), (319, leBytes 1 1), (320, leBytes 2 10),
    (328, leBytes 4 1), (516, leBytes 4 256), (520, leBytes 2 0x8C), (522, leBytes 2 0), (525, leBytes 1 0),
    (768, padTo 256 (if disc then discNqn else subNqn)), (1792, leBytes 4 516), (1796, leBytes 4 1), (1800, leBytes 2 0),
    (2048, psDesc 0xFFFF 0 0 0), (2080, psDesc 0xAFC8 0 50 50), (2112, psDesc 0x7530 0 50 50), (2144, psDesc 0x2EE0 0 100 20),
    (2176, psDesc 0x0FA0 1 5000 2000), (3072, leBytes 4 700000)]

/-- Identify Namespace: one format of 4,096 bytes, fully allocated, NPWG and NOWS of four blocks. -/
def idNs (s : State) (n : Ns) : List Byte :=
  let b := 4 * n.units
  openBytes (Config.identOpen 0) 4096 [
    (0, leBytes 8 b ++ leBytes 8 b ++ leBytes 8 b), (24, leBytes 1 0x10), (25, leBytes 6 0), (48, leBytes 16 (b * 4096)), (64, leBytes 2 3),
    (72, leBytes 2 3), (99, leBytes 1 (b2n s.ftl.readOnly)), (128, leBytes 4 (12 * 2 ^ 16)), (132, List.replicate 252 0)]

/-- A list of 32-bit numbers, at most 1,024. -/
def numList (n : Nat) (l : List Nat) : List Byte := padTo 4096 ((l.take (4096 / n)).flatMap fun v => leBytes n v)

/-- A controller list. -/
def ctrlList (l : List Nat) : List Byte := padTo 4096 (leBytes 2 (min l.length 2047) ++ (l.take 2047).flatMap fun v => leBytes 2 v)

/-- Namespaces that a controller sees, in ascending order from a number up. -/
def nsAbove (s : State) (lo : Nat) (f : Ns → Bool) : List Nat := (s.ftl.namespaces.filter fun e => lo < e.1 && f e.2).map Prod.fst

/-- The data of an Identify command, or its status. -/
def identify (s : State) (c cns nsid cntid : Nat) : Except Status (List Byte) :=
  let disc := ((smFind s.qcu.ctrls c).map (·.discovery)).getD false
  let zeros := List.replicate 4096 (0 : Byte)
  if cns = 0x01 then .ok (idCtrl s c disc)
  else if disc then .error stInvalidField
  else if cns = 0x00 ∨ cns = 0x11 then
    if nsid = 0 ∨ 256 < nsid then .error stInvalidNs
    else match ns? s nsid with
      | none => .ok zeros
      | some n => if cns = 0x00 ∧ !n.attached.contains c then .ok zeros else .ok (idNs s n)
  else if cns = 0x02 then .ok (numList 4 (nsAbove s nsid fun n => n.attached.contains c))
  else if cns = 0x10 then .ok (numList 4 (nsAbove s nsid fun _ => true))
  else if cns = 0x03 then
    match ns? s nsid with
    | none => .error stInvalidNs
    | some _ => .ok (openBytes (Config.identOpen (0x300 + nsid)) 4096 [])
  else if cns = 0x12 then
    match ns? s nsid with
    | none => .ok (ctrlList [])
    | some n => .ok (ctrlList (n.attached.filter (cntid ≤ ·)))
  else if cns = 0x13 then .ok (ctrlList ((s.qcu.ctrls.map Prod.fst).filter (cntid ≤ ·)))
  else .error stInvalidField

/-- IDENTIFY (R369, R392). -/
def execIdentify (t : Tag) (q : Sqe) (_d : List Byte) (s : State) : Res :=
  adminRow t 0x06 q true (fun s =>
    match queueOf s t.conn with
    | none => s
    | some (c, _) =>
      if q.sgl ≠ 4096 then complete .admin t stSglLength 0 0 [] s
      else match identify s c (cdw q 10 % 256) (cdw q 1) (cdw q 10 / 65536) with
        | .error st => complete .admin t st 0 0 [] s
        | .ok d => complete .admin t stSuccess 0 0 d s) s

/-! ### Log pages (R390, R391) -/

/-- Encoding of a class (R468). -/
def Cls.code : Cls → Nat
  | .advisory => 0
  | .corrected => 1
  | .queue => 2
  | .job => 3
  | .fatal => 4

/-- The bytes of an error record (R474). -/
def ErrRec.bytes (r : ErrRec) : List Byte :=
  leBytes 2 r.code ++ leBytes 1 r.page ++ leBytes 1 (r.cls.code + 8 * b2n r.nested + 16 * b2n r.injected + 32 * b2n r.unattached)
  ++ leBytes 4 r.time ++ leBytes 4 r.d0 ++ leBytes 4 r.d1

/-- The ring's records from TAIL to HEAD. -/
def ringRecs (s : State) : List Byte :=
  (List.range (occupancy s.err)).flatMap fun i => match smFind s.err.ring ((s.err.tail + i) % 64) with
    | some r => r.bytes
    | none => List.replicate 16 0

/-- An entry of the Queue Error Log (R390). -/
def QErr.bytes (e : QErr) : List Byte :=
  leBytes 8 e.time ++ leBytes 2 e.cntlid ++ leBytes 2 e.qid ++ leBytes 2 e.cause ++ leBytes 2 e.cid ++ leBytes 4 e.inFlight ++ leBytes 4 e.discarded
  ++ leBytes 1 e.state ++ List.replicate 7 0 ++ leBytes 8 e.streamOff ++ List.replicate 24 0 ++ padTo 64 e.pdu

/-- Log page 0xC0 of a controller. -/
def queueLog (c : Ctrl) : List Byte :=
  leBytes 4 c.log.length ++ leBytes 4 0 ++ leBytes 8 c.logTotal ++ List.replicate 48 0 ++ c.log.flatMap QErr.bytes

/-- A log page of a controller: its bytes. -/
def logPage (s : State) (c : Ctrl) (lid : Nat) : Option (List Byte) :=
  if c.discovery then (if lid = 0x70 then some (openBytes (Config.logOpen 0x70) 2048 [(8, leBytes 8 1)]) else none)
  else if lid = 0x01 then some (openBytes (Config.logOpen 1) 64 [])
  else if lid = 0x02 then some (openBytes (Config.logOpen 2) 512 [(0, leBytes 1 (smartByte s))])
  else if lid = 0x03 then some (openBytes (Config.logOpen 3) 512 [(0, leBytes 1 1)])
  else if lid = 0x04 then some (numList 4 c.changed)
  else if lid = 0x05 then some (openBytes (Config.logOpen 5) 4096 [])
  else if lid = 0x81 then some (openBytes (Config.logOpen 0x81) 512 [])
  else if lid = 0xC0 then some (queueLog c)
  else if lid = 0xC1 then some (leBytes 4 s.err.head ++ leBytes 4 s.err.tail ++ ringRecs s)
  else none

/-- GET_LOG_PAGE (R390, R391): reading a page without Retain Asynchronous Event lets its events come again. -/
def execGetLogPage (t : Tag) (q : Sqe) (_d : List Byte) (s : State) : Res :=
  adminRow t 0x02 q true (fun s =>
    match queueOf s t.conn with
    | none => s
    | some (c, _) => match smFind s.qcu.ctrls c with
      | none => s
      | some k =>
        let lid := cdw q 10 % 256
        let len := 4 * (cdw q 10 / 65536 + 65536 * (cdw q 11 % 65536) + 1)
        let off := cdw q 12 + 2 ^ 32 * cdw q 13
        match logPage s k lid with
        | none => complete .admin t stLogPage 0 0 [] s
        | some b =>
          if off % 4 ≠ 0 then complete .admin t stInvalidField 0 0 [] s
          else if q.sgl ≠ len then complete .admin t stSglLength 0 0 [] s
          else
            let s := if bit (cdw q 10) 15 then s
              else modQcu (fun x => { x with ctrls := smMod x.ctrls c fun k => { k with
                masked := k.masked.filter fun e => e.log != lid, changed := if lid = 0x04 then [] else k.changed } }) s
            complete .admin t stSuccess 0 0 (padTo len (slice b off (min len (b.length - off)))) s) s

/-! ### Features (R375, R376, R391, R393) -/

/-- SET_FEATURES_POWER_MANAGEMENT (R393). -/
def execSetFeaturesPowerManagement (t : Tag) (q : Sqe) (_d : List Byte) (s : State) : Res :=
  match fetch t 0x09 q false false s with
  | .error s => ok s
  | .ok s =>
    let ps := cdw q 11 % 32
    if !onAdmin s t then ok (complete .admin t stInvalidOpcode 0 0 [] s)
    else if fatalStop s then ok (complete .admin t stInternalError 0 0 [] s)
    else if 4 < ps then ok (complete .admin t stInvalidField 0 0 [] s)
    else if bit (cdw q 10) 31 then ok (complete .admin t stNotSaveable 0 0 [] s)
    else if s.qcu.ps.trans.isSome then ok (modQcu (fun x => { x with ps := { x.ps with waiting := x.ps.waiting ++ [(t, ps)] } }) s)
    else ok (psBegin (some t) ps s)

/-- Both queue counts, 1,023 each, zero-based as the feature gives them (R375). -/
def queueCounts : Nat := 1023 + 1023 * 65536

/-- SET_FEATURES_NUMBER_OF_QUEUES (R375). -/
def execSetFeaturesNumberOfQueues (t : Tag) (q : Sqe) (_d : List Byte) (s : State) : Res :=
  adminRow t 0x09 q false (fun s => complete .admin t stSuccess queueCounts 0 [] s) s

/-- Change the controller of a connection. -/
def modCtrlOf (t : Tag) (f : Ctrl → Ctrl) (s : State) : State :=
  match queueOf s t.conn with
  | none => s
  | some (c, _) => modQcu (fun q => { q with ctrls := smMod q.ctrls c f }) s

/-- Features that are stored as they are set. -/
def plainFeats : List Nat := [0x01, 0x04, 0x05, 0x0A]

/-- SET_FEATURES (R369, R376, R391). -/
def execSetFeatures (t : Tag) (q : Sqe) (_d : List Byte) (s : State) : Res :=
  adminRow t 0x09 q false (fun s =>
    let fid := cdw q 10 % 256
    let v := cdw q 11
    if bit (cdw q 10) 31 then complete .admin t stNotSaveable 0 0 [] s
    else if fid = 0x07 then complete .admin t stSuccess queueCounts 0 [] s
    else if fid = 0x0B then complete .admin t stSuccess 0 0 [] (modCtrlOf t (fun k => { k with aeCfg := v }) s)
    else if fid = 0x0F then
      let x := now s
      complete .admin t stSuccess 0 0 [] (modCtrlOf t (fun k => { k with kato := katoSeconds v, kaStart := x }) s)
    else if plainFeats.contains fid then complete .admin t stSuccess 0 0 [] (modCtrlOf t (fun k => { k with feats := smSet k.feats fid v }) s)
    else complete .admin t stInvalidField 0 0 [] s) s

/-- A feature's value: current, or (`dflt`) the default one. -/
def featValue (s : State) (c : Ctrl) (fid : Nat) (dflt : Bool) : Option Nat :=
  if fid = 0x02 then some (if dflt then 0 else s.qcu.ps.inForce)
  else if fid = 0x07 then some queueCounts
  else if fid = 0x0B then some (if dflt then 0 else c.aeCfg)
  else if fid = 0x0F then some (1000 * if dflt then 600 else c.kato)
  else if plainFeats.contains fid then some (if dflt then Config.featDefault fid % 2 ^ 32 else smGet (Config.featDefault fid % 2 ^ 32) c.feats fid)
  else none

/-- GET_FEATURES (R393): the power state in force. -/
def execGetFeatures (t : Tag) (q : Sqe) (_d : List Byte) (s : State) : Res :=
  adminRow t 0x0A q false (fun s =>
    let sel := bits (cdw q 10) 10 8
    match (queueOf s t.conn).bind fun c => (smFind s.qcu.ctrls c.1).bind fun k => featValue s k (cdw q 10 % 256) (sel == 1 || sel == 2) with
    | none => complete .admin t stInvalidField 0 0 [] s
    | some v =>
      if sel = 3 then complete .admin t stSuccess 4 0 [] s
      else if 3 < sel then complete .admin t stInvalidField 0 0 [] s
      else complete .admin t stSuccess v 0 [] s) s

/-! ### Asynchronous events, Keep Alive, Abort (R376, R391, R394) -/

/-- ASYNCHRONOUS_EVENT_REQUEST (R391): held, or completed at once by the event longest held. -/
def execAsynchronousEventRequest (t : Tag) (q : Sqe) (_d : List Byte) (s : State) : Res :=
  adminRow t 0x0C q true (fun s =>
    match queueOf s t.conn with
    | none => s
    | some (c, _) => match smFind s.qcu.ctrls c with
      | none => s
      | some k =>
        if k.aerCids.contains t.cid then s
        else if 16 ≤ k.aerCids.length then complete .admin t stAerLimit 0 0 [] s
        else
          let s := modQcu (fun x => { x with ctrls := smMod x.ctrls c fun k => { k with aerCids := k.aerCids ++ [t.cid], held := k.held.drop 1 } }) s
          match k.held with
          | [] => s
          | e :: _ => postTo c e.type e.info e.log s) s

/-- KEEP_ALIVE (R376). -/
def execKeepAlive (t : Tag) (q : Sqe) (_d : List Byte) (s : State) : Res :=
  adminRow t 0x18 q true (fun s => let x := now s; complete .admin t stSuccess 0 0 [] (modCtrlOf t (fun k => { k with kaStart := x }) s)) s

/-- The connection that is queue `qid` of a controller. -/
def connOf (s : State) (c qid : Nat) : Option Nat :=
  (s.qcu.conns.find? fun e => (e.2.queue.map fun q => (q.1, q.2.1)) == some (c, qid)).map Prod.fst

/-- ABORT (R394): a command whose data is still awaited has not started; an event request is aborted too. Bit 0 of DW0 tells that the
command was not aborted. -/
def execAbort (t : Tag) (q : Sqe) (_d : List Byte) (s : State) : Res :=
  adminRow t 0x08 q false (fun s =>
    let no (s : State) : State := complete .admin t stSuccess 1 0 [] s
    let cid := cdw q 10 / 65536
    match (queueOf s t.conn).bind fun c => (connOf s c.1 (cdw q 10 % 65536)).map fun n => (c.1, n) with
    | none => no s
    | some (c, n) => match (conn? s n).bind fun x => x.outst.find? fun o => o.cid == cid with
      | none => no s
      | some o =>
        let aer := cdw q 10 % 65536 = 0 ∧ ((smFind s.qcu.ctrls c).map fun k => k.aerCids.contains cid) = some true
        if o.need ≠ 0 ∨ aer then
          let s := modQcu (fun x => { x with ctrls := smMod x.ctrls c fun k => if aer then { k with aerCids := k.aerCids.filter (· != cid) } else k }) s
          complete .admin t stSuccess 0 0 [] (complete (if aer then .admin else .bcs) ⟨n, cid⟩ stAbortRequested 0 0 [] s)
        else no s) s

/-! ### Namespaces (R354, R355) -/

/-- An admin command that needs the management core: it waits while that runs only the ROM (R439). -/
def mspRow (t : Tag) (op : Nat) (q : Sqe) (f : State → State) (s : State) : Res :=
  adminRow t op q false (fun s => if s.msp.busy then s else f s) s

/-- Controllers attached to a namespace learn that it changed (R391). -/
def nsNotice (n : Nat) (l : List Nat) (s : State) : State :=
  l.foldl (fun s c => postTo c 2 0 4 (modQcu (fun q => { q with ctrls := smMod q.ctrls c fun k =>
    { k with changed := if k.changed.contains n then k.changed else k.changed ++ [n] } }) s)) s

/-- Create a namespace (R354): it holds whole units, so its size is rounded up to them (DEDUCED, log entry 41). -/
def createNs (t : Tag) (d : List Byte) (s : State) : State :=
  let nsze := fld d 0 8
  let units := cdiv nsze 4
  match (List.range 256).find? fun k => (ns? s (k + 1)).isNone with
  | none => complete .admin t stNsIdUnavailable 0 0 [] s
  | some k =>
    if nsze = 0 then complete .admin t stInvalidField 0 0 [] s
    else if fld d 8 8 ≠ nsze then complete .admin t stThin 0 0 [] s
    else if fld d 26 1 ≠ 0 ∨ fld d 29 1 ≠ 0 then complete .admin t stInvalidFormat 0 0 [] s
    else match (if userUnits < allocUnits s + units then none else freeBase (usedRanges s) 0 units) with
      | none => complete .admin t stNsCapacity 0x3007 0 [] s
      | some b => complete .admin t stSuccess (k + 1) 0 [] (modFtl (fun x => { x with
          namespaces := smSet x.namespaces (k + 1) { units := units, base := b, attached := [], key := x.nextKey }, nextKey := x.nextKey + 1 }) s)

/-- Delete a namespace: its blocks are gone and its range is free. -/
def deleteNs (n : Nat) (s : State) : State :=
  match ns? s n with
  | none => s
  | some x => nsNotice n x.attached (modFtl (fun f => { f with namespaces := smDel f.namespaces n }) (unmapRange x.base x.units s))

/-- Namespaces that a command names: one, or all. -/
def nsNamed (s : State) (nsid : Nat) : Option (List Nat) :=
  if nsid = 0xFFFFFFFF then some (s.ftl.namespaces.map Prod.fst) else if (ns? s nsid).isSome then some [nsid] else none

/-- NAMESPACE_MANAGEMENT (R354, R462); a create needs the management core (R439). -/
def execNamespaceManagement (t : Tag) (q : Sqe) (d : List Byte) (s : State) : Res :=
  adminRow t 0x0D q false (fun s =>
    let sel := cdw q 10 % 16
    if sel = 0 then
      if s.msp.busy then s
      else if q.sgl ≠ 4096 then complete .admin t stSglLength 0 0 [] s
      else if lifecycle s ≠ .operational then complete .admin t stNotReadyDnr 0 0 [] s
      else createNs t (padTo 4096 d) s
    else if sel = 1 then
      match nsNamed s (cdw q 1) with
      | none => complete .admin t stInvalidNs 0 0 [] s
      | some l => complete .admin t stSuccess 0 0 [] (l.foldl (fun s n => deleteNs n s) s)
    else complete .admin t stInvalidField 0 0 [] s) s

/-- Controllers of a controller list. -/
def listCtrls (d : List Byte) : List Nat := (List.range (min (fld d 0 2) 2047)).map fun i => fld d (2 + 2 * i) 2

/-- NAMESPACE_ATTACHMENT (R369, R391). -/
def execNamespaceAttachment (t : Tag) (q : Sqe) (d : List Byte) (s : State) : Res :=
  adminRow t 0x15 q false (fun s =>
    let l := listCtrls (padTo 4096 d)
    let nsid := cdw q 1
    if q.sgl ≠ 4096 then complete .admin t stSglLength 0 0 [] s
    else match ns? s nsid with
      | none => complete .admin t stInvalidNs 0 0 [] s
      | some n =>
        let set (a : List Nat) (s : State) : State := modFtl (fun f => { f with namespaces := smMod f.namespaces nsid fun x => { x with attached := a } }) s
        if l.isEmpty ∨ l.any fun c => (smFind s.qcu.ctrls c).isNone then complete .admin t stCtrlList 0 0 [] s
        else if cdw q 10 % 16 = 0 then
          if l.any n.attached.contains then complete .admin t stNsAttached 0 0 [] s
          else complete .admin t stSuccess 0 0 [] (nsNotice nsid l (set (n.attached ++ l.eraseDups) s))
        else if cdw q 10 % 16 = 1 then
          if l.any fun c => !n.attached.contains c then complete .admin t stNsNotAttached 0 0 [] s
          else complete .admin t stSuccess 0 0 [] (nsNotice nsid l (set (n.attached.filter fun c => !l.contains c) s))
        else complete .admin t stInvalidField 0 0 [] s) s

/-- A cryptographic erase (R355): a new key pair, and every entry unmapped. -/
def cryptoErase (n : Nat) (s : State) : State :=
  match ns? s n with
  | none => s
  | some x => nsNotice n x.attached (modFtl (fun f => { f with
      namespaces := smMod f.namespaces n fun y => { y with key := f.nextKey }, nextKey := f.nextKey + 1 }) (unmapRange x.base x.units s))

/-- FORMAT_NVM (R355, R369): with any Secure Erase Setting. -/
def execFormatNvm (t : Tag) (q : Sqe) (_d : List Byte) (s : State) : Res :=
  mspRow t 0x80 q (fun s =>
    if cdw q 10 % 16 ≠ 0 ∨ bits (cdw q 10) 8 4 ≠ 0 then complete .admin t stInvalidFormat 0 0 [] s
    else if 2 < bits (cdw q 10) 11 9 then complete .admin t stInvalidField 0 0 [] s
    else match nsNamed s (cdw q 1) with
      | none => complete .admin t stInvalidNs 0 0 [] s
      | some l => complete .admin t stSuccess 0 0 [] (l.foldl (fun s n => cryptoErase n s) s)) s

/-- SANITIZE (R355, R369): the crypto-erase action alone. -/
def execSanitize (t : Tag) (q : Sqe) (_d : List Byte) (s : State) : Res :=
  mspRow t 0x84 q (fun s =>
    if cdw q 10 % 8 ≠ 4 then complete .admin t stInvalidField 0 0 [] s
    else complete .admin t stSuccess 0 0 [] ((s.ftl.namespaces.map Prod.fst).foldl (fun s n => cryptoErase n s) s)) s

/-! ### Firmware (R446, R447, R450) -/

/-- Ranges overlap. -/
def overlaps (a n b m : Nat) : Bool := a < b + m && b < a + n

/-- The agent programs a download in the NOR, each sector erased when the first download into it arrives (R450). -/
def agentDownload (off : Nat) (d : List Byte) (s : State) : State :=
  let secs := (List.range (d.length / sectorBytes + 2)).map (off / sectorBytes + ·)
  let hit := secs.filter fun k => overlaps (k * sectorBytes) sectorBytes off d.length && !s.msp.recErased.contains k
  let s := modMsp (fun m => { m with factory := false, nor := hit.foldl (fun n k => smDel n k) m.nor, recErased := m.recErased ++ hit }) s
  (List.range (cdiv d.length sectorBytes)).foldl (fun s i => norProgram (off + i * sectorBytes) ((d.drop (i * sectorBytes)).take sectorBytes) s) s

/-- FIRMWARE_IMAGE_DOWNLOAD (R446, R450). -/
def execFirmwareImageDownload (t : Tag) (q : Sqe) (d : List Byte) (s : State) : Res :=
  adminRow t 0x11 q false (fun s =>
    let n := 4 * (cdw q 10 + 1)
    let off := 4 * cdw q 11
    if s.msp.busy ∧ !s.msp.recovery then s
    else if n % 4096 ≠ 0 ∨ off % 4096 ≠ 0 ∨ 0x1000000 < off + n then complete .admin t stInvalidField 0 0 [] s
    else if q.sgl ≠ n then complete .admin t stSglLength 0 0 [] s
    else if s.msp.staged.any fun e => overlaps off n e.1 e.2.length then complete .admin t stOverlapping 0 0 [] s
    else
      let b := padTo n (d.take n)
      if s.msp.recovery then
        complete .admin t stSuccess 0 0 [] (modMsp (fun m => { m with staged := m.staged ++ [(off, List.replicate n 0)] }) (agentDownload off b s))
      else complete .admin t stSuccess 0 0 [] (modMsp (fun m => { m with staged := m.staged ++ [(off, b)] }) s)) s

/-- Insert a staged range in ascending offset. -/
def insStage (e : Nat × List Byte) : List (Nat × List Byte) → List (Nat × List Byte)
  | [] => [e]
  | x :: xs => if e.1 ≤ x.1 then e :: x :: xs else x :: insStage e xs

/-- Staged bytes that run contiguously from offset 0. -/
def stagedRun : List (Nat × List Byte) → Nat → List Byte
  | [], _ => []
  | e :: es, off => if e.1 = off then e.2 ++ stagedRun es (off + e.2.length) else []

/-- The agent's commit (R450): the image in the NOR runs, or the image region is erased. -/
def agentCommit (t : Tag) (s : State) : State :=
  match romCheck s with
  | .error _ => complete .admin t stFwImage 0 0 [] (modMsp (fun m => { m with factory := false, nor := [], recErased := [], staged := [] }) s)
  | .ok f =>
    complete .admin t stSuccess 0 0 [] (modChip (fun c => { c with stopped := if c.stage = .verify then false else c.stopped })
      (modMsp (fun m => { m with staged := [] }) (runImage f s)))

/-- Begin an update of a checked image (R447 steps 1 and 2): the event, and sector 0 erased; sessions are closed (R448). -/
def beginUpdate (t : Tag) (img : List Byte) (s : State) : State :=
  let total := cdiv (fld img 4 4) sectorBytes
  let s := postAll 2 1 0x03 s
  modMsp (fun m => { m with
    update := some { done := 0, total := total, img := img.take (fld img 4 4), tag := t }, progress := (0, total), staged := [], factory := false
    nor := smDel m.nor 0, session := none }) s

/-- FIRMWARE_COMMIT (R447, R450). -/
def execFirmwareCommit (t : Tag) (q : Sqe) (_d : List Byte) (s : State) : Res :=
  adminRow t 0x10 q false (fun s =>
    if s.msp.busy ∧ !s.msp.recovery then s
    else if bits (cdw q 10) 5 3 ≠ 3 then complete .admin t stInvalidField 0 0 [] s
    else if 1 < bits (cdw q 10) 2 0 then complete .admin t stFwSlot 0 0 [] s
    else if s.msp.update.isSome then complete .admin t stFwProhibited 0 0 [] s
    else if s.msp.recovery then agentCommit t s
    else
      let img := stagedRun (s.msp.staged.foldr insStage []) 0
      match imageCheck s img with
      | .error _ => complete .admin t stFwImage 0 0 [] (modMsp (fun m => { m with staged := [] }) s)
      | .ok _ => beginUpdate t img s) s

/-! ### Unknown opcodes (R381) -/

/-- INVALID_COMMAND_OPCODE (R381). -/
def execInvalidCommandOpcode (t : Tag) (q : Sqe) (_d : List Byte) (s : State) : Res :=
  match fetch t 0xFF q (!onAdmin s t) true s with
  | .error s => ok s
  | .ok s =>
    if fatalStop s then ok (complete (if onAdmin s t then .admin else .bcs) t stInternalError 0 0 [] s)
    else ok (complete (if onAdmin s t then .admin else .bcs) t stInvalidOpcode 0 0 [] s)

end Sys2Proof.Machine
end

