-- ==== Sys2Proof/Machine/ContextCmd.lean ====
section
/-! DEFINITION. The BCS commands of contexts, islands, sequences and the Chart: Load Context, Unload Context, Bind Island, Write
Chart, Swap Chart, Sequence Join, Sequence Leave and Output Drain (R60 to R67, R74 to R78, R386, R387). -/
namespace Sys2Proof.Machine
open Sys2Proof

/-- A command whose SGL length is not the length it requires transfers nothing (R372). -/
def withSgl (k : CmdKind) (t : Tag) (q : Sqe) (n : Nat) (f : State → State) (s : State) : State :=
  if q.sgl ≠ n then complete k t stSglLength 0 0 [] s else f s

/-- A 64-bit field in CDW2 and CDW3. -/
def cdw23 (q : Sqe) : Nat := cdw q 2 + 2 ^ 32 * cdw q 3
/-- A 64-bit field in CDW10 and CDW11. -/
def cdw1011 (q : Sqe) : Nat := cdw q 10 + 2 ^ 32 * cdw q 11

/-! ### Load Context (R60) -/

/-- What reading a package from its logical blocks gives. -/
inductive PkgRead where
  | bytes (b : List Byte)
  /-- An unrecoverable flash error (R276). -/
  | lost
  deriving DecidableEq, Repr

/-- Read the header, and where its VERSION is supported the package as far as the namespace reaches. -/
def readPkg (n : Ns) (slba ver : Nat) (s : State) : PkgRead × State :=
  let off := slba * 4096
  let room := n.units * unitBytes - off
  match nsRead n off (min 256 room) s with
  | (.error _, s) => (.lost, s)
  | (.ok h, s) =>
    let h := padTo 256 h
    if fld h 0 1 ≠ ver then (.bytes h, s)
    else
      let len := min room (max 256 (fld h 8 8))
      match nsRead n off len s with
      | (.error _, s) => (.lost, s)
      | (.ok b, s) => (.bytes b, s)

/-- The checks of R60 in their order, with the comparison of OUTBUF_KIB after check 2 (R381) and the refusal of R226 before them; a package
that passes makes the context LOADING, and the command completes once it is READY. -/
def loadChecks (t : Tag) (nsid slba ctx island work outBytes outKib : Nat) (s : State) : State :=
  if s.ocm.diag then refuse t 0x8008 0 s
  else match ns? s nsid with
  | none => complete .bcs t stInvalidNs 0 0 [] s
  | some n =>
    if n.units * 4 ≤ slba then complete .bcs t stLbaRange 0 0 [] s
    else
      match readPkg n slba (versionByte s) s with
      | (.lost, s) => refuse t 0xA005 2 s
      | (.bytes b, s) =>
        match checkPkg (versionByte s) nsid slba work b with
        | .refused code k => refuse t code k s
        | .good p l =>
          if p.scratchKib < outKib then refuse t cCMD_PARAM 15 s
          else match admitCtx s ctx island p l with
            | some (code, k) => refuse t code k s
            | none => loadCtx t ctx island work outBytes outKib p l (b.take p.pkgBytes) s

/-- LOAD_CONTEXT (R60, R381). -/
def execLoadContext (t : Tag) (q : Sqe) (_d : List Byte) (s : State) : Res :=
  bcsRow t 0x80 q
    (badCdw q [(1, 32), (2, 32), (3, 32), (10, 32), (11, 32), (12, 16), (14, 17), (15, 16)] fun n =>
      if n = 12 then decide (bits (cdw q 12) 15 10 < 48)
      else if n = 14 then decide (cdw q 14 ≤ 65536)
      else if n = 15 then decide (8 ≤ cdw q 15) else true)
    (withSgl .bcs t q 0
      (loadChecks t (cdw q 1) (cdw1011 q) (bits (cdw q 12) 9 0) (bits (cdw q 12) 15 10) (cdw23 q) (cdw q 14) (cdw q 15))) s

/-! ### Unload Context (R62) -/

/-- Unload a resident context: one that runs a step, or is being unloaded, keeps the command waiting (R32, R62). -/
def unloadCtx (t : Tag) (n : Nat) (s : State) : State :=
  match ctx? s n with
  | none => refuse t 0x2003 0 s
  | some c =>
    let busy := c.st = .unloading ∨ (c.step.isSome && c.save.isEmpty) = true
    let s := putCtx n { c with st := .unloading, unloadTags := c.unloadTags ++ [t] } s
    if busy then s else startDue (unloadNow n s)

/-- UNLOAD_CONTEXT (R62, R381). -/
def execUnloadContext (t : Tag) (q : Sqe) (_d : List Byte) (s : State) : Res :=
  bcsRow t 0x84 q (badCdw q [(12, 10)] fun _ => true) (withSgl .bcs t q 0 (unloadCtx t (cdw q 12))) s

/-! ### Bind Island (R63, R64) -/

/-- What refuses a bitmap for an island, in the order of R63. -/
def bindRefusal (s : State) (i m : Nat) : Option Code :=
  let old := islandMap s i
  let added := (setBits m 48).filter fun k => !bit old k
  let res := islandCtxs s i
  let save := ((saveBytes s + res.length * (popc m 48) * 98304) - res.length * (popc old 48) * 98304)
  if s.islands.any fun e => e.1 != i && (e.2 &&& m) != 0 then some 0x3008
  else if islandBusy s i then some 0x3009
  else if m = 0 ∧ !res.isEmpty then some 0x300A
  else if res.any fun e => popc m 48 < e.2.pkg.minCores then some 0x3006
  else if !added.isEmpty ∧ generalFrames < s.compass.frames.length + saveFrames save then some 0x3007
  else none

/-- A core that joins an island: its OFF banks come on (R231) and the partitions of the resident contexts are zeroed (R245). -/
def joinCore (i k : Nat) (s : State) : State :=
  let s := (List.range 16).foldl (fun s b =>
    if bankPwr s (.loc k b) = 2 then
      setPhys (.loc k b) .on (modOcm (fun o => { o with locPwr := smPut 0 o.locPwr (k * 16 + b) 0 }) s)
    else s) s
  (islandCtxs s i).foldl (fun s e => e.2.localEx.foldl (fun s x => ocmZero (some k) (x.1 * 1024) (x.2 * 1024) s) s) s

/-- Bind an island to a bitmap. -/
def bindIsland (t : Tag) (i m : Nat) (s : State) : State :=
  match bindRefusal s i m with
  | some c => refuse t c 0 s
  | none =>
    let added := (setBits m 48).filter fun k => !bit (islandMap s i) k
    succeed t 0 0 [] (added.foldl (fun s k => joinCore i k s) (setIslands (smPut 0 s.islands i m) s))

/-- BIND_ISLAND (R63, R381). -/
def execBindIsland (t : Tag) (q : Sqe) (_d : List Byte) (s : State) : Res :=
  bcsRow t 0x88 q (badCdw q [(12, 6), (13, 32), (14, 16)] fun n => if n = 12 then decide (cdw q 12 < 48) else true)
    (withSgl .bcs t q 0 (bindIsland t (cdw q 12) (cdw q 13 + 2 ^ 32 * cdw q 14))) s

/-! ### Write Chart (R74 to R76) -/

/-- The header fields of a slot table lie in their ranges (R74). -/
def chartHdrOk (d : List Byte) : Bool :=
  fld d 1 1 == 0 && fld d 2 2 ≤ 256 && 250 ≤ fld d 4 4 && fld d 4 4 ≤ 16000 && fld d 8 4 < fld d 4 4 * 1000 && fld d 12 4 == 0

/-- Slots of a table. -/
def chartSlots (d : List Byte) : List Slot :=
  (List.range (fld d 2 2)).map fun i =>
    let b := 16 + 16 * i
    { w0 := BitVec.ofNat 32 (fld d b 4), w1 := BitVec.ofNat 32 (fld d (b + 4) 4), w2 := BitVec.ofNat 32 (fld d (b + 8) 4), w3 := BitVec.ofNat 32 (fld d (b + 12) 4) }

/-- The fields of a slot keep the encodings of R75 and R76. -/
def slotFieldsOk (period : Nat) (x : Slot) : Bool :=
  let w1 := x.w1.toNat
  1 ≤ x.dur && x.dur ≤ period && x.kind ≤ 4 && bits w1 31 22 == 0 && bits x.w2.toNat 31 16 == 0 && x.w3 == 0 && x.island < 48
  && (if x.kind == 0 then w1 == 0 && x.w2 == 0 && x.w3 == 0
      else if x.isStep then x.cls == 0 || x.cls == 2
      else x.island == 0 && x.ctx == 0 && !x.preempt && (if x.kind == 3 then x.cls == 0 || x.cls == 2 else x.cls != 0))

/-- Slots stand in ascending START_US and end within the period. -/
def slotsInRange (period : Nat) : List Slot → Nat → Bool
  | [], _ => true
  | x :: xs, lo => lo ≤ x.start && x.start + x.dur ≤ period && slotsInRange period xs x.start

/-- Two slots overlap in time. -/
def overlapT (a b : Slot) : Bool := a.start < b.start + b.dur && b.start < a.start + a.dur

/-- Two slots may not overlap: step slots of one island, or two SEARCH_BATCH slots (R76). -/
def slotsClash (a b : Slot) : Bool :=
  overlapT a b && ((a.isStep && b.isStep && a.island == b.island) || (a.kind == 3 && b.kind == 3))

/-- Some two slots of a table clash. -/
def anyClash : List Slot → Bool
  | [] => false
  | x :: xs => xs.any (slotsClash x) || anyClash xs

/-- Write a slot table to a bank, or refuse the whole of it (R76). -/
def writeChart (t : Tag) (q : Sqe) (d : List Byte) (b : Bool) (s : State) : State :=
  let sgl (s : State) := complete .bcs t stSglLength 0 0 [] s
  let xs := chartSlots d
  let period := fld d 4 4
  if q.sgl < 16 then sgl s
  else if s.chart.active = some b then refuse t 0x3011 0 s
  else if (s.chart.swap.map (·.bankB)) = some b then refuse t 0x3012 0 s
  else if fld d 0 1 ≠ versionByte s then refuse t 0x0001 0 s
  else if !chartHdrOk d then refuse t 0x3013 0 s
  else if q.sgl ≠ 16 + 16 * fld d 2 2 then sgl s
  else if !xs.all (slotFieldsOk period) then refuse t 0x3013 0 s
  else if !slotsInRange period xs 0 then refuse t 0x3014 0 s
  else if anyClash xs then refuse t 0x3015 0 s
  else if xs.any (slotCtxBad s) then refuse t 0x3016 0 s
  else if xs.any (slotKindBad s) then refuse t 0x3017 0 s
  else
    let bk : Bank := { written := true, period := period, phase := fld d 8 4, slots := xs }
    succeed t 0 0 [] (modChart (fun c => if b then { c with bankB := bk, last := some b } else { c with bankA := bk, last := some b }) s)

/-- WRITE_CHART (R76, R381). -/
def execWriteChart (t : Tag) (q : Sqe) (d : List Byte) (s : State) : Res :=
  bcsRow t 0x81 q (chartFields q) (writeChart t q d (cdw q 12 == 1)) s

/-- SWAP_CHART (R77, R78, R381). -/
def execSwapChart (t : Tag) (q : Sqe) (_d : List Byte) (s : State) : Res :=
  bcsRow t 0x8C q (badCdw q [] fun _ => true) (withSgl .bcs t q 0 (swapRequest (some t))) s

/-! ### Sequences (R66, R67) -/

/-- Prompt tokens: 32-bit little-endian. -/
def tokens (d : List Byte) (n : Nat) : List Nat := (List.range n).map fun i => fld d (4 * i) 4

/-- Join a sequence: the checks of R66 in their order. -/
def joinSeq (t : Tag) (ctx sq maxLen seed : Nat) (prompt : List Nat) (s : State) : State :=
  match ctx? s ctx with
  | none => refuse t 0x2003 0 s
  | some c =>
    if c.pkg.maxSeqs ≤ sq then refuse t cCMD_PARAM 13 s
    else if (smFind c.seqs sq).isSome then refuse t 0x300B 0 s
    else if c.pkg.maxSeqLen < maxLen ∨ maxLen < prompt.length then refuse t 0x3004 0 s
    else if c.pkg.flashBytes < c.committed + c.pkg.backing maxLen then refuse t 0x300C 0 s
    else
      let e : Seq := { st := .pending, pos := 0, maxLen := maxLen, seed := seed, prompt := prompt, order := c.joinOrder, leave := false, ingest := none, pages := [] }
      succeed t 0 0 [] (putCtx ctx { c with seqs := smSet c.seqs sq e, joinOrder := c.joinOrder + 1 } s)

/-- SEQUENCE_JOIN (R66, R381). -/
def execSequenceJoin (t : Tag) (q : Sqe) (d : List Byte) (s : State) : Res :=
  bcsRow t 0x85 q (joinFields q)
    (withSgl .bcs t q (4 * cdw q 15) (joinSeq t (cdw q 12) (cdw q 13) (cdw q 14) (cdw23 q) (tokens d (cdw q 15)))) s

/-- Leave a sequence (R67). -/
def leaveCmd (t : Tag) (ctx sq : Nat) (s : State) : State :=
  match ctx? s ctx with
  | none => refuse t 0x2003 0 s
  | some c =>
    if (smFind c.seqs sq).isNone then refuse t 0x300D 0 s
    else
      let (now?, s) := leaveSeq ctx sq s
      succeed t (b2n now?) 0 [] s

/-- SEQUENCE_LEAVE (R67, R381). -/
def execSequenceLeave (t : Tag) (q : Sqe) (_d : List Byte) (s : State) : Res :=
  bcsRow t 0x90 q (badCdw q [(12, 10), (13, 12)] fun _ => true) (withSgl .bcs t q 0 (leaveCmd t (cdw q 12) (cdw q 13))) s

/-! ### Output Drain (R385 to R387) -/

/-- The bytes of an output record. -/
def OutRec.bytes (outBytes : Nat) (r : OutRec) : List Byte :=
  leBytes 8 r.dseq ++ leBytes 8 r.step ++ leBytes 2 r.seq ++ leBytes 1 (b2n r.endMark) ++ leBytes 1 (b2n r.tokValid) ++ leBytes 4 r.token
  ++ leBytes 4 r.pos ++ leBytes 4 outBytes ++ padTo (roundUp outBytes 8) r.payload

/-- The bytes of a history record (R113). -/
def HistRec.bytes (h : HistRec) : List Byte :=
  h.ring.flatMap (leBytes 4) ++ leBytes 1 h.count ++ leBytes 1 h.next ++ List.replicate 6 0 ++ leBytes 8 h.satTotal ++ leBytes 8 h.reruns
  ++ leBytes 4 h.lastSat ++ List.replicate 4 0

/-- The drain header (R387). -/
def drainHdr (flags n first committed free : Nat) : List Byte :=
  leBytes 1 2 ++ leBytes 1 flags ++ [0, 0] ++ leBytes 4 n ++ leBytes 8 first ++ leBytes 8 committed ++ leBytes 8 free

/-- Return output records (R386). FIRST of a drain that returns none is a free value. -/
def drainOut (t : Tag) (ctx ack cap : Nat) (c : Ctx) (s : State) : State :=
  if c.dseq < ack then refuse t cCMD_PARAM 0 s
  else
    let acked := max c.acked ack
    let c := { c with acked := acked, out := c.out.filter fun r => acked < r.dseq }
    let s := putCtx ctx c s
    let n := min c.out.length ((cap - 32) / c.recBytes)
    let (v, s) := draw s
    let first := ((c.out.head?).map (·.dseq)).getD 0
    let first := if n = 0 then w64 v else first
    let data := drainHdr (b2n (decide (n < c.out.length))) n first c.dseq c.outFree ++ (c.out.take n).flatMap (OutRec.bytes c.outBytes)
    succeed t n 0 data s

/-- Return history records (R387, R113). -/
def drainHist (t : Tag) (first cap : Nat) (c : Ctx) (s : State) : State :=
  let total := (c.pkg.tensors.filter Tensor.noObj).length
  if total ≤ first then refuse t cCMD_PARAM 0 s
  else
    let n := min (total - first) ((cap - 32) / 96)
    let (v, s) := draw s
    let data := drainHdr (b2n (decide (first + n < total)) + 2) n (if n = 0 then w64 v else first) c.dseq c.outFree
      ++ (List.range n).flatMap fun i => (smGet HistRec.zero c.hist (first + i)).bytes
    succeed t n 0 data s

/-- OUTPUT_DRAIN (R386, R387, R381). -/
def execOutputDrain (t : Tag) (q : Sqe) (_d : List Byte) (s : State) : Res :=
  bcsRow t 0x82 q (badCdw q [(2, 32), (3, 32), (12, 10), (13, 1), (14, if cdw q 13 = 1 then 32 else 0)] fun _ => true)
    (fun s => match ctx? s (cdw q 12) with
      | none => refuse t 0x2003 0 s
      | some c =>
        if q.sgl < 32 then complete .bcs t stSglLength 0 0 [] s
        else if cdw q 13 = 1 then drainHist t (cdw q 14) q.sgl c s else drainOut t (cdw q 12) (cdw23 q) q.sgl c s) s

end Sys2Proof.Machine
end

