-- ==== Sys2Proof/Machine/Compass.lean ====
section
/-! DEFINITION. Compass at work: prefetch (R270), the staging ring (R271), demotion and fetch of cache pages (R71, R272) and
refetches (R274). -/
namespace Sys2Proof.Machine
open Sys2Proof

/-! ### The staging ring -/

/-- The half that a layer may be fetched into: the one that awaits it, else a free one. -/
def halfFor (c : Ctx) (layer : Nat) : Option Nat :=
  match c.halves.findIdx? fun h => h.layer == some layer with
  | some h => if ((c.halves[h]?).map (·.ready)).getD true then none else some h
  | none => c.halves.findIdx? fun h => h.layer.isNone

/-- Read a layer's entries from flash into a half: the entry whose flash copy is unrecoverable, if any. -/
def stageEntries (c : Ctx) (h : Nat) : List (Nat × Tensor) → State → Option Nat × State
  | [], s => (none, s)
  | (i, t) :: l, s =>
    let base := c.stageF0 * frameBytes + h * c.halfBytes + stageOff c t.layer i
    match pkgBytesAt c.pkg t.dataOff t.dataBytes s with
    | (none, s) => (some i, s)
    | (some d, s) => match pkgBytesAt c.pkg t.scaleOff t.scaleBytes s with
      | (none, s) => (some i, s)
      | (some e, s) => stageEntries c h l (storeLayout c (segFuel t.bytes) base (d ++ e) s)

/-- A layer's fetch completes (R271): its bytes stand in a half; an unrecoverable flash copy quarantines its object. -/
def stageLayer (n layer : Nat) (s : State) : State :=
  match ctx? s n with
  | none => s
  | some c => match halfFor c layer with
    | none => s
    | some h =>
      if (ringEntries c layer).isEmpty ∨ (c.step.isNone ∧ ((c.halves[h]?).map fun x => x.layer.isNone).getD true) then s
      else match stageEntries c h (ringEntries c layer) s with
        | (some i, s) => quarantine n i s
        | (none, s) =>
          let nx := ((c.halves[h]?).map (·.next)).getD false
          let s := if c.staged.contains layer ∧ !nx then ctxCnt n 0xA0 0x920 1 s else s
          cntAdd 0xA0 0x808 (layerBytes c layer) (modCtx n (fun c => { c with
            halves := c.halves.set h { layer := some layer, ready := true, next := nx, due := false }, staged := if nx then c.staged else c.staged ++ [layer] }) s)

/-- STAGE_FETCH (R271). -/
def execStageFetch (ctx layer : Nat) (s : State) : Res := ok (stageLayer ctx layer s)

/-- A matrix instruction of a context that reads a layer is in progress. -/
def layerRead (s : State) (n layer : Nat) : Bool :=
  s.cores.any fun e => match e.2.run with
    | none => false
    | some r => r.ctx == n && (match r.mat with | some m => m.layers.contains layer | none => false)

/-- A core requests a tile of a layer: the halves that hold earlier layers are released, at once or when no matrix instruction
reads them any more (R271). -/
def requestLayer (n layer : Nat) (s : State) : State :=
  modCtx n (fun c => { c with halves := c.halves.map fun h =>
    match h.layer with
    | none => h
    | some l => if l < layer ∧ h.ready ∧ !h.next then (if layerRead s n l then { h with due := true } else Half.free) else h }) s

/-- Halves whose release was due are free once no matrix instruction reads them. -/
def settleHalves (n : Nat) (s : State) : State :=
  modCtx n (fun c => { c with halves := c.halves.map fun h =>
    match h.layer with
    | none => h
    | some l => if h.due ∧ !layerRead s n l then Half.free else h }) s

/-! ### Lookahead (R270) -/

/-- Start of the next cycle that the Chart will take with a bank, a pending swap taken into account. -/
def bankStart (s : State) (b : Bool) : Option Nat :=
  match s.chart.swap, nextCycle s with
  | some w, some t =>
    if w.bankB = b then some (nextStart ((bankOf s b).period * 1000) (bankOf s b).phase t)
    else if s.chart.active = some b then none else none
  | none, some t => if s.chart.active = some b then some t else none
  | _, none => none

/-- When the next start of a slot comes: in the cycle in progress, else in the next. -/
def slotNext (s : State) (b : Bool) (i : Nat) : Option Nat :=
  match s.chart.runs.find? fun r => r.bankB == b && r.idx == i && r.phase == .waiting with
  | some r => some r.startT
  | none => (bankStart s b).bind fun t => ((bankOf s b).slots[i]?).map fun x => t + x.start * 1000

/-- Fetch the absent pages of sequences in order, into free slots, until one does not fit. -/
def prefetchPages : List Nat → Ctx → Nat → Ctx × Nat
  | [], c, n => (c, n)
  | sq :: l, c, n =>
    match smFind c.seqs sq with
    | none => prefetchPages l c n
    | some q =>
      let ab := absentOf q
      if c.freeSlots < ab.length then (c, n)
      else
        let seqs := ab.foldl (fun m k =>
          let sl := lowSlot m
          smMod m sq fun q => { q with pages := smMod q.pages k fun p => match p.at_ with
            | .absent d => { p with at_ := .fetching sl d }
            | _ => p }) c.seqs
        prefetchPages l { c with seqs := seqs } (n + ab.length)

/-- The two lowest layers with STREAM tensors (R270). -/
def lowLayers (c : Ctx) : List Nat :=
  let ls := (c.pkg.tensors.zipIdx.filter fun e => c.places[e.2]? == some .stream).map fun e => e.1.layer
  match ls.foldl min (ls.headD 0), ls with
  | _, [] => []
  | a, _ => match ls.filter (· != a) with
    | [] => [a]
    | x :: xs => [a, xs.foldl min x]

/-- Claim a free half for a layer that no half holds for the coming step. -/
def claimHalf (running : Bool) (layer : Nat) (c : Ctx) : Ctx :=
  if c.halves.any fun h => h.layer == some layer && (h.next || !running) then c
  else match c.halves.findIdx? fun h => h.layer.isNone with
    | none => c
    | some h => { c with halves := c.halves.set h { layer := some layer, ready := false, next := running, due := false } }

/-- Prefetch for a context: absent pages, then the two lowest layers; the bytes are counted (R270). -/
def prefetch (n : Nat) (s : State) : State :=
  match ctx? s n with
  | none => s
  | some c =>
    let held := (c.seqs.filter fun e => e.2.st == .held).map Prod.fst
    let run := (c.seqs.filter fun e => e.2.st == .run).map Prod.fst
    let (c1, k) := prefetchPages (held ++ run ++ joinOrder c) c 0
    let c2 := (lowLayers c1).foldl (fun c l => claimHalf c1.step.isSome l c) c1
    let fresh := (c2.halves.zip c1.halves).filter fun e => e.1.layer != e.2.layer
    let bytes := k * c.pkg.pageBytes + (fresh.map fun e => layerBytes c2 (e.1.layer.getD 0)).sum
    cntAdd 0xA0 0x800 bytes (putCtx n c2 s)

/-- LOOKAHEAD_PREFETCH (R270): at the slot's start less COMPASS_LOOKAHEAD_US. -/
def execLookaheadPrefetch (b : Bool) (i : Nat) (s : State) : Res :=
  match slotNext s b i, (bankOf s b).slots[i]? with
  | some t, some x =>
    if !x.isStep ∨ chartPs s = 4 then ok s
    else
      let s := advanceTo (t - regFld s 0xA0 0x100 13 0 * 1000) s
      match ctx? s x.ctx with
      | none => ok s
      | some c => if c.island = x.island then ok (prefetch x.ctx s) else ok s
  | _, _ => ok s

/-! ### Cache pages -/

/-- DEMOTE_COMPLETE (R272): refused while the drive is read-only (R344), and the page stays in its slot; else the page is absent and its slot free. A page with an uncorrectable burst stays lost when it comes
back (log entry 24). -/
def execDemoteComplete (ctx sq layer page : Nat) (s : State) : Res :=
  match ctx? s ctx with
  | none => ok s
  | some c => match (smFind c.seqs sq).bind fun q => smFind q.pages (pageKey layer page) with
    | none => ok s
    | some p => match p.at_ with
      | .demoting n =>
        if s.ftl.readOnly then ok (modPage ctx sq (pageKey layer page) (fun p => { p with at_ := .slot n }) s) else
        let bad := (pageBursts c n).any fun b => burstRd s b == .bad
        ok (ctxCnt ctx 0xA0 0x928 1 (cntAdd 0xA0 0x810 1
          (modPage ctx sq (pageKey layer page) (fun p => { p with at_ := .absent (pageData s c n), poisoned := p.poisoned || bad }) s)))
      | _ => ok s

/-- PAGE_FETCH_COMPLETE (R71, R272): the page is present in its slot, and a stalled core may proceed. -/
def execPageFetchComplete (ctx sq layer page : Nat) (s : State) : Res :=
  match ctx? s ctx with
  | none => ok s
  | some c => match (smFind c.seqs sq).bind fun q => smFind q.pages (pageKey layer page) with
    | none => ok s
    | some p => match p.at_ with
      | .fetching n d =>
        let s := storeLayout c (segFuel c.pkg.pageBytes) (slotOff c n) (d.take c.pkg.pageBytes) s
        let s := match p.poisoned, pageBursts c n with
          | true, b :: _ => setBurstErr b [(0, 1), (1, 1)] s
          | _, _ => s
        ok (cntAdd 0xA0 0x818 1 (modPage ctx sq (pageKey layer page) (fun p => { p with at_ := .slot n }) s))
      | _ => ok s

/-! ### Refetch (R274) -/

/-- OBJ_REFETCHED (R274): a burst of external memory, or (addresses from 2^39) of the scratchpad, is refetched. -/
def execObjRefetched (addr : Nat) (s : State) : Res :=
  if addr < 2 ^ 39 then
    let a := addr / 64 * 64
    match burstRd s (a / 64), objOfPhys s a with
    | .bad, some o => ok (refetch o (fun b => xmStore a b) s)
    | _, _ => ok s
  else
    let a := (addr - 2 ^ 39) / 64 * 64
    match objOfSpad s a with
    | some o =>
      if (List.range 8).any fun i => secded (a / 8 + i) (owErr s ⟨none, a / 8 + i⟩) == .bad then
        ok (refetch o (fun b s => ocmStore none a b (ocmClearErr none a 64 s)) s)
      else ok s
    | none => ok s

end Sys2Proof.Machine
end

