-- ==== Sys2Proof/Machine/Flags.lean ====
section
/-! DEFINITION. The part has no condition-code register. What stands in its place are the comparisons that core instructions
make on 64-bit registers (R167, R168) and the event comparison of WAITEV (R181). -/
namespace Sys2Proof.Machine
open Sys2Proof

/-- Signed less-than of two 64-bit registers (SLT, BLT, MIN, MAX). -/
def sltD (a b : DWord) : Bool := a.slt b

/-- BEQ's condition. -/
def condEq (a b : DWord) : Bool := a == b
/-- BNE's condition. -/
def condNe (a b : DWord) : Bool := a != b
/-- BLT's condition. -/
def condLt (a b : DWord) : Bool := sltD a b
/-- BGE's condition. -/
def condGe (a b : DWord) : Bool := !sltD a b

/-- WAITEV's condition: the event counter less the target, read as a signed 32-bit value, is at least 0 (R181). -/
def eventReached (ev target : Nat) : Bool := (ev + 2 ^ 32 - target % 2 ^ 32) % 2 ^ 32 < 2 ^ 31

end Sys2Proof.Machine
end

