-- ==== Sys2Proof/Machine/ChartEv.lean ====
section
/-! DEFINITION. Register commands and events of the Chart and of steps: ENABLE, SWAP and RESTART (R77, R78, R81, R89), cycle
starts, slot starts and slot ends (R24, R79, R80, R83), completion of tasks (R161), job faults (R88), corrections of the
replica (R23) and deadlock of a step (R188). -/
namespace Sys2Proof.Machine
open Sys2Proof

/-! ### Register commands -/

/-- CHART_CTRL.ENABLE is written (R81). Outside OPERATIONAL it stays 0 (R462). -/
def chartEnable (on : Bool) (s : State) : State :=
  if lifecycle s ≠ .operational then s
  else if on then
    if s.chart.enable then s
    else
      let s := modChart (fun c => { c with enable := true, cycling := false, haveCycle := false, fromT := chartNow s }) s
      match s.chart.swap with
      | some w => swapNow w.bankB w.tag (chartNow s) s
      | none => s
  else pumpQueries (modChart (fun c => { c with enable := false }) s)

/-- CHART_ENABLE (R81). -/
def execChartEnable (p : Path) (on : Bool) (s : State) : Res := regRow p 0x30 0x100 (chartEnable on) s

/-- CHART_SWAP_REQUEST (R77): CHART_CTRL.SWAP is set. -/
def execChartSwapRequest (p : Path) (s : State) : Res := regRow p 0x30 0x100 (swapRequest none) s

/-- CHART_CTX_CTRL.RESTART is set for the context that CHART_CTX_SEL names (R89). -/
def restartCtx (s : State) : State :=
  modCtx (regFld s 0x30 0x140 9 0) (fun c =>
    if c.st = .faulted ∧ c.fault ≠ 0xA005 then { c with st := .ready } else c) s

/-- CONTEXT_RESTART (R89). -/
def execContextRestart (p : Path) (s : State) : Res := regRow p 0x30 0x148 restartCtx s

/-! ### Cycles and slots -/

/-- CYCLE_START (R24, R80): fabric time reaches the next cycle start. -/
def execCycleStart (s : State) : Res :=
  if chartPs s = 4 then ok s
  else match nextCycle s with
    | none => ok s
    | some t => ok (cycleAt t (advanceTo t s))

/-- SLOT_START (R79): fabric time reaches the start of a slot of a cycle taken. -/
def execSlotStart (b : Bool) (i : Nat) (s : State) : Res :=
  match s.chart.runs.find? fun r => r.bankB == b && r.idx == i && r.phase == .waiting with
  | none => ok s
  | some r => ok (slotDue r (advanceTo r.startT s))

/-- SLOT_END (R83): fabric time reaches the end of a slot of a cycle taken. -/
def execSlotEnd (b : Bool) (i : Nat) (s : State) : Res :=
  match s.chart.runs.find? fun r => r.bankB == b && r.idx == i with
  | none => ok s
  | some r => ok (endSlot r (advanceTo r.endT s))

/-- REPLICA_CORRECTION (R23, R80): the sideband pulse brings the master's value. In PS4 the replica stands still (R82). -/
def execReplicaCorrection (s : State) : Res :=
  if chartPs s = 4 then ok s else ok (stepReplica s.time.master s)

/-! ### Tasks and steps -/

/-- Everything a task started has completed (R161). -/
def runQuiet (r : Run) : Bool :=
  r.ended && r.dma.isEmpty && r.mat.isNone && r.recv.isNone && r.g.toList.all (· == 0)

/-- A task has completed: its core is free; tasks that it made ready are issued, or the step completes. -/
def finishTask (n task k : Nat) (s : State) : State :=
  let s := modCore k (fun c => { c with run := none }) s
  let s := modCtx n (fun c => { c with step := c.step.map fun st => { st with tasks := st.tasks.set task .done } }) s
  match (ctx? s n).bind (·.step) with
  | none => s
  | some st => if st.tasks.all (· == .done) then completeStep n s else issueTasks n 48 s

/-- TASK_COMPLETE (R161). -/
def execTaskComplete (n task : Nat) (s : State) : Res :=
  match (ctx? s n).bind (·.step) with
  | none => ok s
  | some st => match st.tasks[task]? with
    | some (.running k) => match (core s k).run with
      | some r => if r.ctx = n ∧ r.task = task ∧ runQuiet r then ok (finishTask n task k s) else ok s
      | none => ok s
    | _ => ok s

/-- What a core's page keeps of a fault besides its record: a check failure is counted and written to MXC_LAST_FAIL, and a core that
reaches its limit is DEGRADED once (R143, R144); a skew leaves its tags (R153). Which comparison failed and which tags were met
are free values. -/
def coreMarks (k : Nat) (code : Code) (s : State) : State :=
  if code = 0x4001 then
    let (v, s) := draw s
    let s := cntAdd (0x40 + k) 0x840 1 s
    let fails := (core s k).fails + 1
    let limit := regFld s (0x40 + k) 0x110 7 0
    let first := decide (limit ≠ 0 ∧ limit ≤ fails) && !(core s k).degraded
    let s := modCore k (fun c => { c with
      fails := fails, degraded := c.degraded || first, lastFail := (v % 3 + 1) + bits v 15 8 * 256 + bits v 31 16 * 65536 }) s
    if first then advisory (0x40 + k) 7 0x400A 0 0 s else s
  else if code = 0x4002 then
    let (a, s) := draw s
    let (b, s) := draw s
    let (e, s) := draw s
    modCore k (fun c => { c with skewData := a % 2 ^ 32, skewScale := b % 2 ^ 32, skewExpect := e % 2 ^ 32 }) s
  else s

/-- JOB_FAULT (R88): a fault of a context's step, raised by a core where that core runs a task of it. -/
def execJobFault (n k : Nat) (code : Code) (s : State) : Res :=
  let by_ := match (core s k).run with
    | some r => if r.ctx = n then some k else none
    | none => none
  match by_ with
  | some k => ok (jobFault n (some k) code (coreMarks k code s))
  | none => ok (jobFault n none code s)

/-- Every task of a step that holds a core waits in WAITEV for an event that has not come, and nothing is outstanding (R188). -/
def deadlocked (s : State) (n : Nat) : Bool :=
  match (ctx? s n).bind (·.step) with
  | none => false
  | some st =>
    let rs := s.cores.filterMap fun e => match e.2.run with
      | some r => if r.ctx = n then some r else none
      | none => none
    !rs.isEmpty && rs.all fun r => r.recv.isNone && r.dma.isEmpty && r.g.toList.all (· == 0) && (match r.wait with
      | .waitev e t => !eventReached (st.ev.getD e 0) t
      | _ => false)

/-- SYNC_DEADLOCK (R188). -/
def execSyncDeadlock (n : Nat) (s : State) : Res :=
  if deadlocked s n then ok (jobFault n none 0x3050 s) else ok s

end Sys2Proof.Machine
end

