-- ==== Sys2Proof/Machine/Pwr.lean ====
section
/-! DEFINITION. Resets, start-up, pins, the 54 V input, the power governor, temperatures and the hold-up store (15, 16), and the
die-to-die link and its clocks (R20 to R29). -/
namespace Sys2Proof.Machine
open Sys2Proof

/-! ### The power-loss flush and what follows it (R350, R485, R493, R494, R497, R500, R511) -/

/-- A flush starts, and with it every job aborts with POWER_FAIL (R485). -/
def beginFlush (cause : FlushCause) (s : State) : State :=
  if s.pwr.flush.isSome then s else abortJobs 0x0204 stVendor (wantFlush cause s)

/-- The input has failed: the flush starts and FATAL POWER_FAIL is raised (R497, R500). -/
def powerFail (s : State) : State :=
  if s.pwr.flush.isSome then s else raiseFatal 0x0204 0x02 (some 3) 0 0 (wantFlush .input s)

/-- What follows a flush: the converters switch off, or the module reset that it was for takes effect next. -/
def afterFlush (complete : Bool) (cause : FlushCause) (s : State) : State :=
  if s.pwr.tripped then modPwr (fun p => { p with armed := false }) (powerOff s)
  else if !complete || !s.pwr.pwrEn || !s.pwr.vin || cause == .pwrEn || cause == .over then powerOff s
  else if s.chip.modReset.isSome then s
  else
    -- a POWER_FAIL flush on a recovered input: no rule names the cause bit of its module reset
    let (v, s) := draw s
    modChip (fun c => { c with modReset := some (v % 5) }) s

/-- POWER_LOSS_FLUSH (R350, R485). -/
def execPowerLossFlush (complete : Bool) (s : State) : Res :=
  match s.pwr.flush with
  | none => ok s
  | some c => ok (afterFlush complete c (flushDone complete c s))

/-! ### Resets and start-up (R479 to R483) -/

/-- POWER_ON_RESET (R479, R493, R500, R511). -/
def execPowerOnReset (s : State) : Res :=
  if s.chip.powered ∨ !s.pwr.pwrEn ∨ !s.pwr.vin ∨ !s.pwr.armed then ok s
  else ok (modChip (fun c => { c with powered := true }) (wideReset true 0 s))

/-- MODULE_RESET (R471, R494, R500): it takes effect once the flush is complete. -/
def execModuleReset (s : State) : Res :=
  match s.chip.modReset, s.pwr.flush with
  | some c, none => if s.chip.powered then ok (wideReset false c s) else ok s
  | _, _ => ok s

/-- DEVICE_RESET (R49, R481, R483): the device reset that CLKRST_DEV_RESET started. During start-up it is absorbed. -/
def execDeviceReset (s : State) : Res :=
  match s.chip.devResetDue with
  | none => ok s
  | some t =>
    let s := modChip (fun c => { c with devResetDue := none }) (advanceMaster t s)
    if s.chip.stage ≠ .ready ∨ s.chip.modReset.isSome then ok s else ok (deviceReset 3 s)

/-- START_UP (R482). -/
def execStartUp (o : BootOut) (s : State) : Res := ok (startUp o s)

/-- READY (R482). -/
def execReady (s : State) : Res := ok (becomeReady s)

/-! ### Pins (R491 to R494, R505, R506) -/

/-- PWR_EN_EDGE (R493). -/
def execPwrEnEdge (level : Bool) (s : State) : Res :=
  if level = s.pwr.pwrEn then ok s
  else
    let s := modPwr (fun p => { p with pwrEn := level, armed := p.armed || level }) s
    if level ∨ !s.chip.powered then ok s else ok (beginFlush .pwrEn s)

/-- MOD_RST_N_EDGE (R494). -/
def execModRstNEdge (level : Bool) (s : State) : Res :=
  if level = s.pwr.modRstN then ok s
  else
    let s := modPwr (fun p => { p with modRstN := level }) s
    if level ∨ !s.chip.powered then ok s
    else ok (beginFlush .modRst (modChip (fun c => { c with modReset := some (c.modReset.getD 1) }) s))

/-- AUX_3V3_CHANGE (R492). -/
def execAux3v3Change (level : Bool) (s : State) : Res :=
  ok (modPwr (fun p => { p with aux := level, i3c := if level || s.chip.powered then p.i3c else none }) s)

/-- Every array is gated (R505). -/
def gateAll (s : State) : State := (List.range 48).foldl (fun s k => modCore k (fun c => { c with gated := true }) s) s

/-- A brake request (R505, R506). -/
def brakeRequest (s : State) : State :=
  let near := match s.pwr.brakeT with | some t => decide (now s ≤ t + 100000) | none => false
  let s := gateAll (cntAdd 0x02 0x808 1 s)
  let first := near && !s.pwr.toggleHold
  let s := modPwr (fun p => { p with brake := true, brakeT := some (now s), brakeHeld := false, toggleHold := p.toggleHold || near }) s
  if first then advisory 0x02 1 0x0202 0 0 s else s

/-- BRAKE_N_EDGE (R505, R506). -/
def execBrakeNEdge (level : Bool) (s : State) : Res :=
  if level = s.pwr.brakeN then ok s
  else
    let s := modPwr (fun p => { p with brakeN := level }) s
    if !s.chip.powered then ok s
    else if level then ok (modPwr (fun p => { p with brake := p.toggleHold }) s)
    else ok (brakeRequest s)

/-- BRAKE_TOGGLE_HOLD_END (R506). -/
def execBrakeToggleHoldEnd (s : State) : Res :=
  if s.pwr.toggleHold ∧ s.pwr.brakeN then ok (modPwr (fun p => { p with toggleHold := false, brake := false }) s) else ok s

/-- BRAKE_HELD (R506). -/
def execBrakeHeld (s : State) : Res :=
  if s.pwr.brakeN ∨ s.pwr.brakeHeld ∨ !s.chip.powered then ok s
  else
    let s := match s.pwr.brakeT with | some t => advanceMaster (t + 60000000000) s | none => s
    ok (advisory 0x02 0 0x0201 0 0 (modPwr (fun p => { p with brakeHeld := true }) s))

/-- ACT_LED_TIMEOUT (R491). -/
def execActLedTimeout (s : State) : Res :=
  match s.qcu.actLed with
  | none => ok s
  | some t => ok (modQcu (fun q => { q with actLed := none }) (advanceMaster (t + 50000000) s))

/-- Brake level is in force: a brake, or the flush, which holds it (R485, R508). -/
def brakeLevel (s : State) : Bool := s.pwr.brake || s.pwr.flush.isSome

/-- ACT_LED_N is low (R491). -/
def actLedLow (s : State) : Bool := s.qcu.actLed.isSome

/-- ATTN_LED_N is low (R491). -/
def attnLedLow (s : State) : Bool := bit (regWord s 0x02 0x100).toNat 1 || faultLow s

/-! ### The 54 V input (R497 to R500) -/

/-- SUPPLY_DIP. -/
def supplyDip (s : State) : State := advisory 0x02 2 0x0203 0 0 s

/-- The input comes back: a ride-through ends, or the dip cap, or an absence. -/
def inputRestored (s : State) : State :=
  if s.pwr.ride then supplyDip (cntAdd 0x02 0x828 1 (modPwr (fun p => { p with ride := false }) s))
  else if !s.pwr.vin then modPwr (fun p => { p with vin := true, armed := true }) s
  else modPwr (fun p => { p with dipCap := false }) s

/-- The input is gone or has stayed below 44 V. -/
def inputLost (s : State) : State :=
  let s := modPwr (fun p => { p with ride := false, vin := false }) s
  if s.chip.powered then powerFail s else s

/-- INPUT_VOLTAGE_EVENT (R497, R499, R500): `dip`: 44 V to 48 V for more than 10 ms; `ride`: the input falls below 44 V; `under`: it has
stayed there for more than 2 ms; `over`: above 60 V for more than 1 ms; `absent`: P54V is removed; `restored`: it is back, for the
time the rule asks of the state it was in. -/
def execInputVoltageEvent (v : VoltEvent) (s : State) : Res :=
  match v with
  | .dip => if s.chip.powered then ok (supplyDip (modPwr (fun p => { p with dipCap := true }) s)) else ok s
  | .ride =>
    if !s.chip.powered then ok s
    else if s.pwr.holdupMj < 30000 then ok (powerFail (modPwr (fun p => { p with vin := false }) s))
    else ok (modPwr (fun p => { p with ride := true }) s)
  | .under => ok (inputLost s)
  | .absent => ok (inputLost s)
  | .over =>
    let s := modPwr (fun p => { p with vin := false }) s
    if s.chip.powered then ok (beginFlush .over s) else ok s
  | .restored => ok (inputRestored s)

/-! ### The governor (R501 to R507, R510) -/

/-- Limit of the power state in force, W (R392). -/
def psLimit (s : State) : Nat :=
  match s.qcu.ps.inForce with
  | 0 => 700
  | 1 => 450
  | 2 => 300
  | 3 => 120
  | _ => 40

/-- Thermal cap of one sensor at a temperature: the limit, falling linearly to 300 W over 10 K, in whole watts (R510). -/
def sensorCap (limit : Nat) (n : Nat) (t : Int) : Nat :=
  let th := (sensorLimits n).1
  if t < th ∨ limit ≤ 300 then limit
  else limit - min (limit - 300) (cdiv ((limit - 300) * (t - th).toNat) 100)

/-- The lowest cap of all sensors. -/
def thermalCap (s : State) : Nat := s.pwr.temps.foldl (fun m e => min m (sensorCap (psLimit s) e.1 e.2)) (psLimit s)

/-- The limit L (R501). -/
def govLimit (s : State) : Nat :=
  let l := min (psLimit s) (min (regFld s 0x02 0x108 9 0) (thermalCap s))
  if s.pwr.dipCap then min l 450 else l

/-- The interval that begins now lies in the peak plan window (R503). -/
def inPlan (s : State) : Bool :=
  if regFld s 0x02 0x100 0 0 = 0 then true
  else match activeBank s with
    | none => false
    | some b =>
      let p : Int := ((b.period * 1000 : Nat) : Int)
      let x : Int := (chartNow s : Int) - (b.phase : Int) - ((regFld s 0x02 0x118 13 0 * 1000 : Nat) : Int)
      decide (x % p < ((regFld s 0x02 0x118 29 16 * 1000 : Nat) : Int))

/-- Peak is permitted in the interval that begins now (R501, R503). -/
def peakPermitted (s : State) : Bool :=
  s.qcu.ps.inForce == 0 && thermalCap s == psLimit s && !s.pwr.dipCap && inPlan s

/-- CLASS of the step slot in progress on a core's island, if one is (R504). -/
def coreClass (s : State) (k : Nat) : Option Nat :=
  match coreIsland s k with
  | none => none
  | some i => match s.chart.runs.find? fun r => r.phase == .running && r.slot.isStep && r.slot.island == i with
    | some r => some r.slot.cls
    | none => match (islandCtxs s i).find? fun e => e.2.step.isSome && e.2.save.isEmpty with
      | some e => e.2.step.map (·.slotClass)
      | none => none

/-- The order in which arrays are gated: class 2 and idle cores, then the others; the highest number first (R504). -/
def gateOrder (s : State) : List Nat :=
  let ks := (List.range 48).reverse
  let first (k : Nat) : Bool := match coreClass s k with | none => true | some c => c == 2
  ks.filter first ++ ks.filter fun k => !first k

/-- Gate or ungate an array. -/
def setGated (g : Bool) (ks : List Nat) (s : State) : State := ks.foldl (fun s k => modCore k (fun c => { c with gated := g }) s) s

/-- The array of a core is gated: by the governor's interval, or by brake level, which gates every array (R485, R504, R505). -/
def arrayGated (s : State) (k : Nat) : Bool := (core s k).gated || brakeLevel s

/-- Arrays gated. -/
def gatedCores (s : State) : List Nat := (List.range 48).filter (arrayGated s)

/-- The gating of the next interval for a mean power and a cap, in mW: an array saves 11 W; at most 4 are ungated (R504). -/
def regate (mw cap : Nat) (s : State) : State :=
  let order := gateOrder s
  if cap < mw then setGated true ((order.filter fun k => !(core s k).gated).take (cdiv (mw - cap) 11000)) s
  else setGated false ((order.reverse.filter fun k => (core s k).gated).take (min 4 ((cap - mw) / 11000))) s

/-- Input energy of one interval, counted in joules (R513). -/
def countEnergy (mw : Nat) (s : State) : State :=
  let e := s.pwr.energyNj + 10 * mw
  modPwr (fun p => { p with energyNj := e % 1000000000 }) (cntAdd 0x02 0x800 (e / 1000000000) s)

/-- What the interval that has ended counts (R155, R502, R513). -/
def countInterval (mw mv : Nat) (s : State) : State :=
  let beyond := s.pwr.limitW * 1000 < mw && s.pwr.limitW != 0
  let peak := (if beyond then now s :: s.pwr.peak else s.pwr.peak).filter fun t => now s < t + 4000000000
  let s := countEnergy mw (modPwr (fun p => { p with peak := peak, lastMw := mw, lastMv := mv }) s)
  let s := (gatedCores s).foldl (fun s k => cntAdd (0x40 + k) 0x858 10 s) s
  let s := if brakeLevel s then cntAdd 0x02 0x810 10 s
    else if (gatedCores s).isEmpty then s else cntAdd 0x02 0x820 10 s
  if s.pwr.throttle then cntAdd 0x02 0x830 10 s else s

/-- Whether peak is granted in the next interval; PEAK_LIMIT where the account has ended a grant (R502). -/
def peakGrant (s : State) : State :=
  let full := decide (40000 ≤ s.pwr.peak.length)
  let s := if full then s else modPwr (fun p => { p with peakLimited := false }) s
  let want := peakPermitted s && !brakeLevel s
  let hit := want && full && !s.pwr.peakLimited
  let s := modPwr (fun p => { p with peakGrant := want && !full, peakLimited := p.peakLimited || hit }) s
  if hit then advisory 0x02 4 0x0205 0 0 (cntAdd 0x02 0x818 1 s) else s

/-- GOVERNOR_INTERVAL (R501 to R507): an interval of 10 µs has ended with this mean power and voltage. -/
def execGovernorInterval (mw mv : Nat) (s : State) : Res :=
  if !s.chip.powered then ok s
  else
    let s := peakGrant (countInterval mw mv s)
    let l := govLimit s
    let s := modPwr (fun p => { p with limitW := l }) s
    if brakeLevel s then ok (gateAll s)
    else if 3 ≤ s.qcu.ps.inForce then ok s
    else ok (regate mw (if s.pwr.peakGrant then 900000 else l * 1000) s)

/-- THERMAL_READ (R510, R511). -/
def execThermalRead (n : Nat) (dc : Int) (s : State) : Res :=
  if 120 ≤ n then .refused .illFormed
  else if !s.chip.powered then ok s
  else
    let s := modPwr (fun p => { p with temps := smSet p.temps n dc }) s
    let cap := decide (thermalCap s < psLimit s)
    let entry := cap && !s.pwr.throttle
    let s := modPwr (fun p => { p with throttle := cap }) s
    let s := if entry then advisory 0x02 5 0x0206 0 0 s else s
    if dc < (sensorLimits n).2 ∨ s.pwr.tripped ∨ s.chip.stage = .powerGood then ok s
    else
      let s := modErr (fun e => { e with tripHold := true }) (modPwr (fun p => { p with tripped := true }) s)
      ok (raiseFatal 0x0207 0x02 (some 6) 0 0 (wantFlush .trip s))

/-- HOLDUP_MEASUREMENT (R498): usable energy in mJ; the capacitance follows from the 80 V and 32 V between which it is usable. -/
def execHoldupMeasurement (mj : Nat) (s : State) : Res :=
  if !s.chip.powered then ok s
  else
    let s := cntAdd 0x02 0x838 1 s
    let s := modPwr (fun p => { p with holdupMj := min mj 0xFFFF, holdupUf := min (mj * 1000 / 2688) 0xFFFF }) s
    if 40000 ≤ mj then ok (modPwr (fun p => { p with holdupLow := false, writeThrough := false }) s)
    else
      let set := !s.pwr.holdupLow && !s.ftl.flushBad
      let s := modPwr (fun p => { p with holdupLow := true, writeThrough := p.writeThrough || decide (mj < 30000) }) s
      let s := advisory 0x02 7 0x0208 0 0 s
      ok (if set then smartEvent 4 s else s)

/-! ### The die-to-die link and the clocks (R20, R22, R29) -/

/-- An unattached record (R476). -/
def unattached (code : Nat) (cls : Cls) (d0 d1 : Nat) (s : State) : State :=
  recordErr { code := code, page := 0xE0, bit := none, cls := cls, scope := .source 0xE0, d0 := d0, d1 := d1, injected := false } s

/-- FLIT_GROUP_CRC_FAIL (R20): the flit group is replayed, and its replay passes or fails. -/
def execFlitGroupCrcFail (replayOk : Bool) (s : State) : Res :=
  let s := unattached 0xE003 .corrected 0 0 s
  if replayOk then ok (modChip (fun c => { c with replays := 0 }) s)
  else if s.chip.replays + 1 < 8 then ok (modChip (fun c => { c with replays := c.replays + 1 }) s)
  else ok (raiseFatal 0xE004 0xE0 none 0 0 (modChip (fun c => { c with replays := 0 }) s))

/-- CLASS_LATE (R29, R475). -/
def execClassLate (resource inst cls wait : Nat) (s : State) : Res :=
  ok (unattached 0xE002 .advisory (resource % 256 + 256 * (inst % 65536) + 2 ^ 24 * (cls % 256)) (min wait 0xFFFFFFFF) s)

/-- PS4_FABRIC_CLOCK_STOP (R22). -/
def execPs4FabricClockStop (s : State) : Res :=
  match s.chip.ps4Fabric with
  | none => ok s
  | some t => ok (modChip (fun c => { c with ps4Fabric := none }) (advanceMaster (t + 100000) s))

end Sys2Proof.Machine
end

