-- ==== Sys2Proof/Machine/Strait.lean ====
section
/-! DEFINITION. The Strait block's receiving side, its timers and its configuration (R420 to R431, R436, R437). Members are
named by their group slot and member number. -/
namespace Sys2Proof.Machine
open Sys2Proof

/-! ### Datagrams (R420, R421) -/

/-- A segment as received. -/
structure Segment where
  type : Nat
  src : Nat
  grp : Nat
  idx : Nat
  cnt : Nat
  seq : Nat
  ack : Nat
  tag : Nat
  flags : Nat
  time : Nat
  session : Nat
  pay : List Byte
  deriving DecidableEq, Repr

/-- Read a datagram's bytes: none unless its VERSION is supported, its TYPE defined, its LENGTH and SEG fields consistent, its
CRC correct. -/
def parseSeg (s : State) (b : List Byte) : Option Segment :=
  let n := fldBE b 20 2
  let ty := fldBE b 1 1
  if b.length ≠ 44 + n ∨ fldBE b 0 1 ≠ straitVersion s ∨ ty = 0 ∨ 6 < ty ∨ fldBE b 7 1 = 0 ∨ 32 < fldBE b 7 1 ∨ fldBE b 7 1 ≤ fldBE b 6 1
    ∨ crc32c (b.take (40 + n)) ≠ fldBE b (40 + n) 4 then none
  else some
    { type := ty, src := fldBE b 2 1, grp := fldBE b 4 2, idx := fldBE b 6 1, cnt := fldBE b 7 1, seq := fldBE b 8 4, ack := fldBE b 12 4,
      tag := fldBE b 16 4, flags := fldBE b 22 2, time := fldBE b 24 8, session := fldBE b 36 4, pay := slice b 40 n }

/-- The sender of a datagram is the member its SRC_MEMBER and GROUP name: the slot, if so. -/
def senderSlot (s : State) (m : StraitMsg) (g : Segment) : Option Nat :=
  match slotOfGroup s g.grp with
  | none => none
  | some n =>
    let mb := member s n g.src
    let same := if mb.ipv6 then m.addr == mb.addr else m.addr / 2 ^ 96 == mb.addr / 2 ^ 96
    if mb.valid ∧ mb.ipv6 = m.ipv6 ∧ same ∧ g.src ≠ (grpSlot s n).self then some n else none

/-! ### Sequencing (R424) -/

/-- `a` comes before `b` among 32-bit sequence numbers. -/
def seqBefore (a b : Nat) : Bool :=
  let d := (b + 2 ^ 32 - a % 2 ^ 32) % 2 ^ 32
  d != 0 && decide (d ≤ 2 ^ 31)

/-- A SESSION that differs from the last one seen restarts the sequences and discards the partial message. -/
def newSession (n m x : Nat) (s : State) : State :=
  modMember n m (fun b =>
    match b.session with
    | none => { b with session := some x }
    | some y => if x = y then b else { b with session := some x, txSeq := 1, rxSeq := 1, part := [], ackDue := 0 }) s

/-- A member acknowledges every segment before `ack`; the next in line wait a whole STRAIT_RTO again. -/
def takeAck (n m ack : Nat) (s : State) : State :=
  let old := (member s n m).unacked
  let left := old.filter fun g => !seqBefore g.seq ack
  if left.length = old.length then s
  else
    let s := modMember n m (fun b => { b with unacked := left, rto := regFld s 0x12 0x10C 15 0, retries := 0 }) s
    pumpSegs n m 64 (settleMsgs n m s)

/-! ### Receives (R87, R183, R426) -/

/-- An open receive: its core, its context, whether it is parked. -/
structure OpenRecv where
  core : Nat
  ctx : Nat
  parked : Bool
  r : Recv
  deriving DecidableEq, Repr

/-- Open receives of running and of parked steps whose slots belong to a group. -/
def openRecvs (s : State) (g : Nat) : List OpenRecv :=
  let inGrp (n : Nat) : Bool := (((ctx? s n).bind (·.step)).map fun st => st.group == g).getD false
  (s.cores.filterMap fun e => e.2.run.bind fun r => r.recv.bind fun x =>
    if inGrp r.ctx && !x.arrived && decide (chartNow s < x.deadline) then some ⟨e.1, r.ctx, false, x⟩ else none)
  ++ s.ctxs.flatMap fun c => c.2.save.filterMap fun e => e.2.run.recv.bind fun x =>
    if inGrp c.1 && e.2.parked && !x.arrived then some ⟨e.2.core, c.1, true, x⟩ else none

/-- The receive that a message from a member with a tag takes: the earliest issued. -/
def matchRecv (s : State) (g m tag : Nat) : Option OpenRecv :=
  ((openRecvs s g).filter fun o => o.r.mem == m && o.r.tag == tag).foldl (fun a o => match a with
    | none => some o
    | some b => if o.r.issued < b.r.issued then some o else a) none

/-- Give a message to a receive: PEER_LENGTH where it is longer than the capacity, discarded past the deadline of a parked one,
else written to its destination. -/
def giveRecv (o : OpenRecv) (d : List Byte) (s : State) : State :=
  if o.parked ∧ o.r.deadline ≤ chartNow s then cntAdd 0x12 0x840 1 s
  else if o.r.cap < d.length then jobFault o.ctx (some o.core) 0x304F s
  else match writeWin o.core o.ctx o.r.dst d s with
    | (some e, s) => jobFault o.ctx (some o.core) e s
    | (none, s) =>
      if o.parked then
        modCtx o.ctx (fun c => { c with save := c.save.map fun e =>
          if e.2.core = o.core then (e.1, { e.2 with run := { e.2.run with recv := e.2.run.recv.map fun x => { x with arrived := true } } }) else e }) s
      else startDue (checkFetch o.core (modCore o.core (fun c => { c with run := c.run.map (recvDone 0) }) s))

/-- A DATA message: matched to an open receive, or held (R426). -/
def takeData (g m tag : Nat) (d : List Byte) (s : State) : State :=
  match matchRecv s g m tag with
  | some o => giveRecv o d s
  | none => modStrait (fun x => { x with held := x.held ++ [{ grp := g, mem := m, tag := tag, data := d, since := now s }] }) s

/-! ### Group step synchronisation (R427, R428) -/

/-- A SYNC is answered. -/
def answerSync (n m time : Nat) (s : State) : State :=
  sendMsg n m 6 0 (syncBytes s ++ beBytes 8 time ++ beBytes 8 (now s) ++ beBytes 8 (now s)) none s

/-- A Sextant state in which no group is in step: FREERUN or LOST (R428). -/
def sxBad (x : Nat) : Bool := x == 0 || x == 5

/-- A SYNC_REPLY arrives: offset and round trip, and whether the member is in step (R427, R428). The division by 2 rounds toward
zero. DEDUCED (log entry 26). -/
def takeReply (n m : Nat) (p : List Byte) (s : State) : State :=
  let t1 : Int := fldBE p 16 8
  let t2 : Int := fldBE p 24 8
  let t3 : Int := fldBE p 32 8
  let t4 : Int := now s
  let off := ((t2 - t1) - (t4 - t3)).tdiv 2
  let rtt := (t4 - t1) - (t3 - t2)
  let chart := decide (fldBE p 0 4 ≠ chartPeriod s ∨ fldBE p 4 4 ≠ chartPhase s)
  let time := sxBad (fldBE p 8 1) || sxBad s.sext.st.code
  let far := decide (regFld s 0x12 0x110 31 16 < off.natAbs)
  let f (b : Member) : Member := { b with
    reply := some (now s), down := false, stale := false, chartDiff := chart, timeBad := time, offBad := far, offset := off, rtt := rtt }
  if chart || time || far then outOfStep n m f s else modMember n m (fun b => { f b with inStep := true }) s

/-! ### Messages -/

/-- A DATA or QUERY message that arrives in PS4 brings the module out before it is delivered (R430). -/
def straitWake (s : State) : State :=
  if chartPs s ≠ 4 then s
  else if s.qcu.ps.inForce = 4 then psExit s else psReverse s

/-- Deliver a message of a type whose segments have all arrived. -/
def deliverMsg (n : Nat) (g : Segment) (d : List Byte) (s : State) : State :=
  if g.type = 1 then takeData g.grp g.src g.tag d (straitWake s)
  else if g.type = 2 then acceptMember (queryFromWire s (d.drop 8)) g.grp g.src g.tag (fldBE d 0 8) (straitWake s)
  else if g.type = 3 then
    match smFind s.sre.queries g.tag with
    | some q =>
      if q.parm.group = g.grp ∧ ((q.merge.map fun x => x.members.contains g.src).getD false) then
        mergeGot g.tag g.src ((QResult.parse true d).bytes false q.parm.k) s
      else s
    | none => cntAdd 0xB0 0x840 1 s
  else if g.type = 5 then answerSync n g.src g.time s
  else if g.type = 6 then takeReply n g.src d s
  else s

/-- Bytes in the Strait receive buffer: held messages and messages in arrival. -/
def bufBytes (s : State) : Nat :=
  (s.strait.held.map fun h => h.data.length).sum
  + (s.strait.slots.map fun e => (e.2.members.map fun b => (b.2.part.map List.length).sum).sum).sum

/-- The buffer is full: the segment is neither accepted nor acknowledged; recorded once per second at most (R426). -/
def bufFull (s : State) : State :=
  let s := cntAdd 0x12 0x828 1 s
  let due := match s.strait.fullT with
    | none => true
    | some t => decide (t + 1000000000 ≤ now s)
  if due then advisory 0x12 3 0x1206 0 0 (modStrait (fun x => { x with fullT := some (now s) }) s) else s

/-- The next segment in order is accepted; a message whose last segment it is, is delivered; every 8 segments are acknowledged
(R423, R424). -/
def acceptSeg (n : Nat) (g : Segment) (s : State) : State :=
  let old := (member s n g.src).part
  let part := (if g.idx = 0 then [] else old) ++ [g.pay]
  let whole := decide (g.idx + 1 = g.cnt ∧ part.length = g.cnt)
  let s := cntAdd 0x12 0x808 1 (modMember n g.src (fun b => { b with
    rxSeq := (b.rxSeq + 1) % 2 ^ 32, ackDue := b.ackDue + 1, part := if whole ∨ part.length ≠ g.idx + 1 then [] else part }) s)
  let s := if whole then deliverMsg n g part.flatten s else s
  if 8 ≤ (member s n g.src).ackDue then sendAck n g.src s else s

/-- A datagram that R420 accepts. -/
def takeSeg (n : Nat) (g : Segment) (s : State) : State :=
  let s := newSession n g.src g.session s
  let s := if bit g.flags 0 then takeAck n g.src g.ack s else s
  if g.type = 4 then s
  else
    let want := (member s n g.src).rxSeq
    if g.seq = want then
      if g.type = 1 ∧ 33554432 < bufBytes s + g.pay.length then bufFull s else acceptSeg n g s
    else if seqBefore g.seq want then
      cntAdd 0x12 0x818 1 (modMember n g.src (fun b => { b with ackDue := max 1 b.ackDue }) s)
    else s

/-- A datagram arrives at the Strait block under the row of a TYPE: discarded and counted where R420 does not accept it (another
port is no port of the module, R402); of another defined TYPE it is another row's. -/
def straitRow (type : Nat) (m : StraitMsg) (s : State) : Res :=
  if !s.niu.linkUp then ok s
  else if m.port ≠ straitPort s then ok (cntAdd 0x10 0x870 1 s)
  else if !straitOn s then ok (cntAdd 0x12 0x820 1 s)
  else match parseSeg s m.data with
    | none => ok (cntAdd 0x12 0x820 1 s)
    | some g => match senderSlot s m g with
      | none => ok (cntAdd 0x12 0x820 1 s)
      | some n => if g.type = type then ok (takeSeg n g s) else ok s

/-- DATA_MESSAGE (R426). -/
def execDataMessage (m : StraitMsg) (s : State) : Res := straitRow 1 m s
/-- QUERY_MESSAGE (R311). -/
def execQueryMessage (m : StraitMsg) (s : State) : Res := straitRow 2 m s
/-- RESULT_MESSAGE (R312, R426). -/
def execResultMessage (m : StraitMsg) (s : State) : Res := straitRow 3 m s
/-- ACK_MESSAGE (R424). -/
def execAckMessage (m : StraitMsg) (s : State) : Res := straitRow 4 m s
/-- SYNC_MESSAGE (R427). -/
def execSyncMessage (m : StraitMsg) (s : State) : Res := straitRow 5 m s
/-- SYNC_REPLY_MESSAGE (R427, R428). -/
def execSyncReplyMessage (m : StraitMsg) (s : State) : Res := straitRow 6 m s

/-! ### Timers -/

/-- STRAIT_ACK_TIMER (R424): 2 µs after an unacknowledged segment. -/
def execStraitAckTimer (n m : Nat) (s : State) : Res := if (member s n m).ackDue = 0 then ok s else ok (sendAck n m s)

/-- A segment as it is resent: RETRANSMIT set, with the time, the acknowledgment and the CRC of now. -/
def resendBytes (s : State) (n m : Nat) (b : List Byte) : List Byte :=
  let h := overwrite (overwrite (overwrite (b.take (b.length - 4)) 12 (beBytes 4 (member s n m).rxSeq)) 22 (beBytes 2 3)) 24 (beBytes 8 (now s))
  h ++ beBytes 4 (crc32c h)

/-- A member is marked DOWN (R425): recorded, its messages discarded, and it is not in step (R428). -/
def markDown (n m : Nat) (s : State) : State :=
  let s := advisory 0x12 0 0x1202 0 0 (cntAdd 0x12 0x848 1 s)
  dropMsgs n m (outOfStep n m (fun b => { b with down := true }) s)

/-- STRAIT_RETRANSMIT (R424, R425): STRAIT_RTO expires for the oldest unacknowledged segment and every unacknowledged segment is
resent. With the RETRIES-th resend, 12,750 µs after the first sending at the reset values, the member is marked DOWN. DEDUCED
(log entry 27). -/
def execStraitRetransmit (n m : Nat) (s : State) : Res :=
  let mb := member s n m
  if mb.unacked.isEmpty then ok s
  else
    let s := modMember n m (fun b => { b with retries := b.retries + 1, rto := 2 * b.rto, ackDue := 0 }) s
    let s := mb.unacked.foldl (fun s g => cntAdd 0x12 0x810 1 (sendSeg mb.ipv6 mb.addr (resendBytes s n m g.bytes) s)) s
    if regFld s 0x12 0x10C 19 16 ≤ mb.retries + 1 then ok (markDown n m s) else ok s

/-- MEMBER_STALE (R428): no SYNC_REPLY for 3 × STRAIT_SYNC_MS. -/
def execMemberStale (n m : Nat) (s : State) : Res :=
  match (member s n m).reply with
  | none => ok s
  | some t => ok (outOfStep n m (fun b => { b with stale := true }) (advanceMaster (t + 3000000 * regFld s 0x12 0x110 15 0) s))

/-- SYNC_INTERVAL (R427). -/
def execSyncInterval (s : State) : Res := ok (syncAll s)

/-- HELD_MESSAGE_EXPIRY (R426): the held message of an index has waited STRAIT_HOLD_MS. -/
def execHeldMessageExpiry (k : Nat) (s : State) : Res :=
  match s.strait.held[k]? with
  | none => ok s
  | some h =>
    let s := advanceMaster (h.since + 1000000 * regFld s 0x12 0x114 15 0) s
    ok (cntAdd 0x12 0x830 1 (modStrait (fun x => { x with held := x.held.eraseIdx k }) s))

/-! ### Configuration (R431, R436) -/

/-- The group slot that STRAIT_GRP_SEL names. -/
def selGrp (s : State) : Nat := regFld s 0x12 0x120 5 0
/-- The member that STRAIT_MEM_SEL names. -/
def selMem (s : State) : Nat := regFld s 0x12 0x12C 7 0

/-- Write word `i` of a 128-bit address, word 0 the most significant. -/
def putWord4 (a i : Nat) (w : Word) : Nat :=
  let lo := 32 * (3 - i)
  a - bits a (lo + 31) lo * 2 ^ lo + w.toNat * 2 ^ lo

/-- STRAIT_MEM_CFG is written: VALID, IPV6 and the address words written apply; where they change, messages in flight to and from
the member are discarded and counted, and its sequences restart at 1. -/
def writeMemCfg (w : Word) (s : State) : State :=
  let n := selGrp s
  let m := selMem s
  let b := member s n m
  let valid := bit w.toNat 0
  let v6 := bit w.toNat 1
  if b.valid = valid ∧ b.ipv6 = v6 ∧ b.addr = b.addrNext then s
  else
    let s := if b.part.isEmpty then s else sendFailed none s
    let s := outOfStep n m id (dropMsgs n m s)
    modMember n m (fun b => { Member.reset with valid := valid, ipv6 := v6, addr := b.addrNext, addrNext := b.addrNext }) s

/-- STRAIT_MEM_CFG_WRITE (R431): offset 0x130, or an address word, which waits for the next write of 0x130. Another offset is no
register of a member. -/
def execStraitMemCfgWrite (p : Path) (off : Nat) (w : Word) (s : State) : Res :=
  if off = 0x130 then regRow p 0x12 off (writeMemCfg w) s
  else if off ∈ [0x134, 0x138, 0x13C, 0x140] then
    regRow p 0x12 off (fun s => modMember (selGrp s) (selMem s) (fun b => { b with addrNext := putWord4 b.addrNext ((off - 0x134) / 4) w }) s) s
  else ok s

/-- STRAIT_GRP_CFG is written: a GROUP that another slot uses is ignored; GROUP 0 discards the group's held messages. -/
def writeGrpCfg (w : Word) (s : State) : State :=
  let n := selGrp s
  let g := bits w.toNat 15 0
  let old := (grpSlot s n).group
  let used := g ≠ 0 ∧ s.strait.slots.any fun e => e.1 != n && e.2.group == g
  let s := modGrp n (fun x => { x with group := if used then x.group else g, self := bits w.toNat 23 16 }) s
  if g = 0 then modStrait (fun x => { x with held := x.held.filter fun h => h.grp != old }) s else s

/-- STRAIT_GRP_CFG_WRITE (R431). -/
def execStraitGrpCfgWrite (p : Path) (off : Nat) (w : Word) (s : State) : Res :=
  if off = 0x124 then regRow p 0x12 off (writeGrpCfg w) s else ok s

/-- STRAIT_PORT_WRITE (R431). -/
def execStraitPortWrite (p : Path) (off : Nat) (w : Word) (s : State) : Res :=
  if off = 0x104 then regRow p 0x12 off (storeRw 0x12 0x104 w) s else ok s

end Sys2Proof.Machine
end

