-- ==== Sys2Proof/Machine/CoreBase.lean ====
section
/-! DEFINITION. What every core instruction shares: the checks at fetch and issue (R9, R163, R165), the end of an instruction and
its loops (R168, R169), the interlock of a core (R184, R185), and accesses through the windows with the faults that a failing
read raises (R234, R254, R274, R277). -/
namespace Sys2Proof.Machine
open Sys2Proof

/-! ### Status codes (R478) -/

def cINSTR_LEVEL : Code := 0x3041
def cINSTR_INVALID : Code := 0x3042
def cBRANCH_RANGE : Code := 0x3043
def cLOOP_NEST : Code := 0x3044
def cTILE_INVALID : Code := 0x3049
def cNP_INVALID : Code := 0x304A
def cSCALE_REUSE : Code := 0x304B
def cVERDICT_DISCARD : Code := 0x304C
def cCOLSCALE_EMPTY : Code := 0x304D
def cPEER_GROUP : Code := 0x304E

/-! ### A core's run -/

/-- Replace the run of a core. -/
def putRun (k : Nat) (r : Run) (s : State) : State := modCore k (fun c => { c with run := some r }) s

/-- Change the run of a core, if it has one. -/
def modRunOf (k : Nat) (f : Run → Run) (s : State) : State := modCore k (fun c => { c with run := c.run.map f }) s

/-- A core raises a job fault of its step (R88, R189). -/
def coreFault (k : Nat) (r : Run) (code : Code) (s : State) : Res := ok (jobFault r.ctx (some k) code s)

/-- An instruction waits: the PC does not move. -/
def stay (k : Nat) (w : Wait) (s : State) : Res := ok (modRunOf k (fun r => { r with wait := w }) s)

/-- An instruction is done and the core goes on after the instruction at `pc`: a sequential fetch past CODE_BYTES raises
BRANCH_RANGE (R168). -/
def advanceFrom (k pc : Nat) (s : State) : State :=
  match (core s k).run with
  | none => s
  | some r =>
    let (r2, good) := fallThrough (codeBytes s r) pc r
    let s := putRun k r2 s
    if good then s else jobFault r.ctx (some k) cBRANCH_RANGE s

/-- An instruction is done: the core goes on to the next. -/
def advance (k : Nat) (s : State) : State :=
  match (core s k).run with
  | none => s
  | some r => advanceFrom k r.pc.toNat s

/-- A branch is taken (R168, R169): active loops whose body does not hold the target become inactive. -/
def jumpTo (k : Nat) (r : Run) (t : Nat) (s : State) : Res :=
  if t % 16 ≠ 0 ∨ codeBytes s r ≤ t then coreFault k r cBRANCH_RANGE s
  else
    let out := r.lstack.filter fun i => !(decide ((getL r i).start ≤ t) && decide (t ≤ (getL r i).stop))
    let r := out.foldl (fun r i => setL r i { getL r i with count := 0 }) r
    ok (putRun k { r with lstack := r.lstack.filter fun i => !out.contains i, pc := BitVec.ofNat 64 t, wait := .none } s)

/-- An instruction command on a core: nothing happens where the core runs no task, has ended its task or waits for a message. -/
def onCore (k : Nat) (s : State) (f : Run → Ctx → Step → Res) : Res :=
  if 48 ≤ k then .refused .illFormed
  else match (core s k).run with
    | none => ok s
    | some r =>
      if r.ended || r.recv.isSome then ok s
      else match ctx? s r.ctx with
        | none => ok s
        | some c => match c.step with
          | none => ok s
          | some st => f r c st

/-- An instruction: refused at level 1 without its mark (R57, R165), refused where `bad` says that a Rsvd bit is set, a field lies
outside its encodings or a register index is out of range (R165). -/
def insn (k : Nat) (l1 bad : Bool) (s : State) (f : Run → Ctx → Step → Res) : Res :=
  onCore k s fun r c st =>
    if s.chip.level1 && !l1 then coreFault k r cINSTR_LEVEL s
    else if bad then coreFault k r cINSTR_INVALID s
    else f r c st

/-- MOD bits outside those an operation defines are Rsvd (R164). -/
def modBad (f : IFields) (mask : Nat) : Bool := f.md.toNat &&& (63 - mask) != 0

/-- An index that names an A register is 8 or more (R165). -/
def aBad (i : BitVec 4) : Bool := 8 ≤ i.toNat

/-- A field of EXT. -/
def extF (f : IFields) (hi lo : Nat) : Nat := bits f.ext.toNat hi lo

/-! ### The interlock (R184, R185) -/

/-- Rows of bytes at window addresses: base, bytes a row, rows, stride. -/
structure Ext where
  a : Nat
  n : Nat
  rows : Nat
  str : Nat
  deriving DecidableEq, Repr

/-- One run of bytes. -/
def Ext.one (a n : Nat) : Ext := ⟨a, n, 1, 0⟩

/-- Two runs of bytes overlap. -/
def runsOverlap (a n b m : Nat) : Bool := decide (a < b + m) && decide (b < a + n)

/-- Two extents overlap. -/
def Ext.overlap (x y : Ext) : Bool :=
  (List.range x.rows).any fun i => (List.range y.rows).any fun j => runsOverlap (x.a + i * x.str) x.n (y.a + j * y.str) y.n

/-- The window of an address. -/
def windowOf (a : Nat) : Nat := bits a 63 60

/-- The LOCAL and CACHE windows are interlocked. -/
def interlocked (a : Nat) : Bool := windowOf a == 0 || windowOf a == 5

/-- Destination of a DMA operation. -/
def Dma.dstExt (d : Dma) : Ext := ⟨d.dst, d.rowBytes, d.rows, d.dstr⟩
/-- Source of a DMA operation. -/
def Dma.srcExt (d : Dma) : Ext := ⟨d.src, d.rowBytes, d.rows, d.sstr⟩

/-- Destinations of the searches a core has submitted and that have not completed. -/
def searchExts (s : State) (k : Nat) (r : Run) : List Ext :=
  s.sre.queries.filterMap fun e => match e.2.origin with
    | .core k2 c2 _ dst cap _ => if k2 = k ∧ c2 = r.ctx then some (Ext.one dst cap) else none
    | _ => none

/-- Write extents of a core's incomplete instructions. -/
def writesOf (s : State) (k : Nat) (r : Run) : List Ext :=
  (r.dma.map Dma.dstExt)
  ++ (match r.mat with
    | some m => m.rows.filterMap fun w => if w.toAcc then none else some (Ext.one w.at_ 768)
    | none => [])
  ++ searchExts s k r

/-- Read extents of a core's incomplete instructions. -/
def readsOf (r : Run) : List Ext := r.dma.filterMap fun d => if d.op = 2 then none else some d.srcExt

/-- A read of an extent waits for an earlier write. -/
def readWaits (s : State) (k : Nat) (r : Run) (x : Ext) : Bool := interlocked x.a && (writesOf s k r).any x.overlap

/-- A write of an extent waits for an earlier write or read. -/
def writeWaits (s : State) (k : Nat) (r : Run) (x : Ext) : Bool := interlocked x.a && (writesOf s k r ++ readsOf r).any x.overlap

/-- An extent holds a partial-sum row that a RERUN verdict has discarded (R173). -/
def holdsDiscarded (st : Step) (k : Nat) (x : Ext) : Bool :=
  windowOf x.a == 0 && st.discarded.any fun e =>
    e.1 / 2 ^ 40 == k && decide (64 ≤ e.1 % 2 ^ 40) && x.overlap (Ext.one (e.1 % 2 ^ 40 - 64) 768)

/-- First fault of a list of runs of bytes. -/
def firstFault (s : State) (k ctx : Nat) (wr : Bool) (x : Ext) : Option Code :=
  (List.range x.rows).findSome? fun i => checkWin s k ctx (x.a + i * x.str) x.n wr

/-- The checks of a read at issue: window and permission (R163), discarded rows (R173), the interlock. -/
def chkRd (k : Nat) (r : Run) (st : Step) (x : Ext) (s : State) : Option Res :=
  match firstFault s k r.ctx false x with
  | some e => some (coreFault k r e s)
  | none =>
    if holdsDiscarded st k x then some (coreFault k r cVERDICT_DISCARD s)
    else if readWaits s k r x then some (stay k .interlock s) else none

/-- The checks of a write at issue. -/
def chkWr (k : Nat) (r : Run) (x : Ext) (s : State) : Option Res :=
  match firstFault s k r.ctx true x with
  | some e => some (coreFault k r e s)
  | none => if writeWaits s k r x then some (stay k .interlock s) else none

/-- The first check that ends an instruction, else the rest of it. -/
def afterChecks (l : List (Option Res)) (f : Unit → Res) : Res :=
  match l.findSome? id with
  | some x => x
  | none => f ()

/-- An operand address is not a multiple of its element size: ADDR_ALIGN. -/
def chkAlign (k : Nat) (r : Run) (a n : Nat) (s : State) : Option Res :=
  if a % n ≠ 0 then some (coreFault k r cADDR_ALIGN s) else none

/-- A count lies outside its range: COUNT_RANGE. -/
def chkCount (k : Nat) (r : Run) (n lo hi : Nat) (s : State) : Option Res :=
  if n < lo ∨ hi < n then some (coreFault k r cCOUNT_RANGE s) else none

/-! ### Reads with refetch (R274) and their faults (R277) -/

/-- First uncorrectable place of an object's pieces: the physical burst, or the scratchpad word. -/
def badPlace (s : State) : List Seg → Option (Bool × Nat)
  | [] => none
  | .xm a n :: gs =>
    match (List.range ((a + n - 1) / 64 + 1 - a / 64)).find? fun i => burstRd s (a / 64 + i) == .bad with
    | some i => some (true, a / 64 + i)
    | none => badPlace s gs
  | .spad off n :: gs =>
    match (List.range ((off + n - 1) / 8 + 1 - off / 8)).find? fun i => secded (off / 8 + i) (owErr s ⟨none, off / 8 + i⟩) == .bad with
    | some i => some (false, off / 8 + i)
    | none => badPlace s gs
  | _ :: gs => badPlace s gs

/-- Refetch one uncorrectable place of an object: a burst of external memory, or a word of the scratchpad. -/
def refetchPlace (p : Bool × Nat) (s : State) : State :=
  if p.1 then match objOfPhys s (64 * p.2) with
    | none => s
    | some o => refetch o (xmStore (64 * p.2)) s
  else match objOfSpad s (8 * p.2) with
    | none => s
    | some o => cntAdd 0x80 0xB58 1 (refetch o (fun b s => ocmStore none (8 * p.2) (b.take 8) (ocmClearErr none (8 * p.2) 8 s)) s)

/-- Read through a window, each uncorrectable place of an immutable object refetched once. -/
def readServed : Nat → Nat → Nat → Nat → Nat → State → WRd × State
  | 0, k, n, a, len, s => readWin k n a len s
  | fuel + 1, k, n, a, len, s =>
    match readWin k n a len s with
    | (.stall .flash, s2) =>
      match ctx? s2 n with
      | none => (.stall .flash, s2)
      | some c => match resolve s2 k len c n a false with
        | .segs l (.object _) => match badPlace s2 l with
          | some p => readServed fuel k n a len (refetchPlace p s2)
          | none => (.stall .flash, s2)
        | _ => (.stall .flash, s2)
    | x => x

/-- A read of an uncorrectable mutable object faults the job; a lost cache page loses its sequence (R234, R277). -/
def readFault (k n : Nat) (code : Code) (o : Owner) (s : State) : State :=
  let s := jobFault n (some k) code s
  match o with
  | .cache sq => if code = 0xA001 then seqLost n sq s else s
  | _ => s

/-- A core requests bytes of a STREAM or COLD tensor: the layer is asked for (R271). -/
def askLayer (n a : Nat) (s : State) : State :=
  if windowOf a = 3 ∨ windowOf a = 4 then
    match ctx? s n with
    | none => s
    | some c =>
      let i := bits a 59 40
      match c.pkg.tensors[i]?, c.places[i]? with
      | some t, some .stream => requestLayer n t.layer s
      | some t, some .cold => requestLayer n t.layer s
      | _, _ => s
  else s

/-- Read bytes for an instruction, then go on with them; a stall leaves the instruction waiting (R273). -/
def rdThen (k n a len : Nat) (s : State) (f : List Byte → State → Res) : Res :=
  if len = 0 then f [] s
  else match readServed (len / 8 + 2) k n a len (askLayer n a s) with
    | (.data d, s) => f d s
    | (.fault e o, s) => ok (readFault k n e o s)
    | (.stall w, s) => stay k w s

/-- Write bytes for an instruction, then go on. -/
def wrThen (k n a : Nat) (d : List Byte) (s : State) (f : State → Res) : Res :=
  match writeWin k n a d s with
  | (none, s) => f s
  | (some e, s) => ok (jobFault n (some k) e s)

/-- The narrowing point of a number: the ACT entry whose HIST_INDEX is one less (R172). -/
def actEntry (p : Pkg) (np : Nat) : Option (Nat × Tensor) :=
  if np = 0 then none
  else (p.tensors.zipIdx.find? fun e => e.1.format == 7 && e.1.histIdx + 1 == np).map fun e => (e.2, e.1)

/-- RESERVED_CLASS_FETCH (R9): classes 0xC to 0xF raise RESERVED_CLASS at fetch. -/
def execReservedClassFetch (k : Nat) (cls : BitVec 4) (s : State) : Res :=
  if cls.toNat < 12 then .refused .illFormed
  else onCore k s fun r _ _ => coreFault k r 0x3040 s

end Sys2Proof.Machine
end

