-- ==== Sys2Proof/Machine/MoveOps.lean ====
section
/-! DEFINITION. MOVE instructions: DMA operations and their completion (R170), and tile descriptors (R171). -/
namespace Sys2Proof.Machine
open Sys2Proof

/-! ### DMA (R170) -/

/-- The DMA operation an instruction starts: 0 COPY, 1 ACC48, 2 ZERO. Classes are clamped under R25 by the arbiters alone. -/
def dmaOf (op : Nat) (r : Run) (f : IFields) : Dma :=
  { op := op, src := (getA r f.ra).toNat, dst := (getA r f.rb).toNat, rowBytes := f.imm.toNat, rows := extF f 15 0 + 1,
    sstr := extF f 39 16, dstr := extF f 63 40, cls := bits f.md.toNat 1 0, grp := bits f.md.toNat 4 2 }

/-- Every row of an extent lies within the LOCAL or SCRATCH window's numbers. -/
def accWindow (a : Nat) : Bool := windowOf a == 0 || windowOf a == 1

/-- Issue a DMA operation: it enters its completion group; with 32 in flight it waits. -/
def dmaIssue (k : Nat) (d : Dma) (r : Run) (st : Step) (s : State) : Res :=
  let checks := (if d.op = 2 then [] else [chkRd k r st d.srcExt s]) ++ (if d.op = 1 then [chkRd k r st d.dstExt s] else [])
    ++ [chkWr k r d.dstExt s]
  afterChecks checks fun _ =>
    if 32 ≤ r.dma.length then stay k .dmaFull s
    else
      let s := if d.op = 2 then s else askLayer r.ctx d.src s
      ok (advance k (modRunOf k (fun r => setG { r with dma := r.dma ++ [d] } d.grp (getG r d.grp + 1)) s))

/-- The fields that a DMA instruction states: MOD[5] is Rsvd, a row is 1 to 2^24 bytes. -/
def dmaBad (f : IFields) (src : Bool) : Bool :=
  modBad f 31 || f.imm.toNat = 0 || 2 ^ 24 < f.imm.toNat || (src && aBad f.ra) || aBad f.rb

/-- COPY (R170). -/
def execCopy (k : Nat) (f : IFields) (s : State) : Res :=
  insn k true (dmaBad f true) s fun r _ st => dmaIssue k (dmaOf 0 r f) r st s

/-- ACC48 (R170): LOCAL and SCRATCH destinations only; rows of whole 48-bit elements. -/
def execAcc48 (k : Nat) (f : IFields) (s : State) : Res :=
  insn k false (dmaBad f true) s fun r _ st =>
    let d := dmaOf 1 r f
    if d.rowBytes % 6 ≠ 0 then coreFault k r cADDR_ALIGN s
    else if !accWindow d.dst then coreFault k r (if 6 < windowOf d.dst then cADDR_RANGE else cADDR_PERM) s
    else dmaIssue k d r st s

/-- ZERO (R170): the source is not read. -/
def execZero (k : Nat) (f : IFields) (s : State) : Res :=
  insn k true (dmaBad f false) s fun r _ st => dmaIssue k (dmaOf 2 r f) r st s

/-- Sum of 48-bit little-endian elements, modulo 2^48. -/
def acc48Bytes : Nat → List Byte → List Byte → List Byte
  | 0, _, _ => []
  | n + 1, a, b => leBytes 6 ((fld a 0 6 + fld b 0 6) % 2 ^ 48) ++ acc48Bytes n (a.drop 6) (b.drop 6)

/-- Bytes of a copied row: those whose source byte lies in the operation's own destination are free (log entry 31). -/
def copyBytes (d : Dma) (i v : Nat) (b : List Byte) : List Byte :=
  if d.srcExt.overlap d.dstExt && !(d.src == d.dst && (d.rows == 1 || d.sstr == d.dstr && d.rowBytes ≤ d.sstr)) then
    b.zipIdx.map fun e =>
      if d.dstExt.overlap (Ext.one (d.src + i * d.sstr + e.2) 1) then BitVec.ofNat 8 (Config.dmaByte v (i * d.rowBytes + e.2)) else e.1
  else b

/-- What a DMA operation comes to: done, a fault with its owner, or a source not yet present. -/
inductive DmaEnd where
  | done
  | fault (code : Code) (o : Owner)
  | absent
  deriving DecidableEq, Repr

/-- Move the rows of a DMA operation from row `i` on. -/
def dmaRows (k n v : Nat) (d : Dma) : Nat → Nat → State → DmaEnd × State
  | 0, _, s => (.done, s)
  | fuel + 1, i, s =>
    let dst := d.dst + i * d.dstr
    let rd : WRd × State := if d.op = 2 then (.data (List.replicate d.rowBytes 0), s)
      else readServed (d.rowBytes / 8 + 2) k n (d.src + i * d.sstr) d.rowBytes s
    match rd with
    | (.stall _, s) => (.absent, s)
    | (.fault e o, s) => (.fault e o, s)
    | (.data b, s) =>
      let wr : WRd × State := if d.op = 1 then readServed 1 k n dst d.rowBytes s else (.data [], s)
      match wr with
      | (.stall _, s) => (.absent, s)
      | (.fault e o, s) => (.fault e o, s)
      | (.data old, s) =>
        let out := if d.op = 1 then acc48Bytes (d.rowBytes / 6) b old else if d.op = 2 then b else copyBytes d i v b
        match writeWin k n dst out s with
        | (some e, s) => (.fault e .mutable_, s)
        | (none, s) => dmaRows k n v d fuel (i + 1) s

/-- DMA_COMPLETE (R170): the operation at place `j` of a core's operations in flight moves its bytes and leaves its completion
group. -/
def execDmaComplete (k j : Nat) (s : State) : Res :=
  if 48 ≤ k then .refused .illFormed
  else match (core s k).run with
    | none => ok s
    | some r => match r.dma[j]? with
      | none => ok s
      | some d =>
        let (v, s1) := draw s
        match dmaRows k r.ctx v d d.rows 0 s1 with
        | (.absent, _) => ok s
        | (.fault e o, s) => ok (readFault k r.ctx e o s)
        | (.done, s) => ok (modRunOf k (fun r => setG { r with dma := r.dma.eraseIdx j } d.grp (getG r d.grp - 1)) s)

/-! ### Tile descriptors (R171) -/

/-- VERSION byte of a descriptor. -/
def tdVersion (t : BitVec 256) : Nat := bits t.toNat 7 0
/-- FORM byte. -/
def tdForm (t : BitVec 256) : Nat := bits t.toNat 15 8
/-- EXPECT_TAG. -/
def tdTag (t : BitVec 256) : Nat := bits t.toNat 63 32
/-- DATA. -/
def tdData (t : BitVec 256) : Nat := bits t.toNat 127 64
/-- SCALE. -/
def tdScale (t : BitVec 256) : Nat := bits t.toNat 191 128

/-- A descriptor with PASS and NEXT_ROW 0. -/
def mkTd (version form tag data scale : Nat) : BitVec 256 :=
  BitVec.ofNat 256 (version + form * 2 ^ 8 + tag * 2 ^ 32 + data % 2 ^ 64 * 2 ^ 64 + scale % 2 ^ 64 * 2 ^ 128)

/-- A tile descriptor that a matrix instruction in progress advances is not free (R184). -/
def tdBusy (r : Run) (i : Nat) : Bool := match r.mat with | some m => m.tds.contains i | none => false

/-- TDLOAD (R171). -/
def execTdload (k : Nat) (f : IFields) (s : State) : Res :=
  insn k true (modBad f 0 || aBad f.ra) s fun r _ st =>
    let a := (getA r f.ra).toNat
    if tdBusy r f.rd.toNat then stay k .interlock s
    else afterChecks [chkRd k r st (Ext.one a 32) s] fun _ =>
      rdThen k r.ctx a 32 s fun d s =>
        let t : BitVec 256 := BitVec.ofNat 256 (leNat d)
        let good := (tdVersion t == (versionByte s) || (tdVersion t == 0 && tdForm t == 0)) && bits t.toNat 31 24 == 0 && bits t.toNat 255 224 == 0
        if good then ok (advance k (modRunOf k (fun r => setT r f.rd.toNat t) s)) else coreFault k r cTILE_INVALID s

/-- TDSTORE (R171): the 32 bytes at A[RD] = T[RA]. -/
def execTdstore (k : Nat) (f : IFields) (s : State) : Res :=
  insn k true (modBad f 0 || aBad f.rd) s fun r _ _ =>
    let a := (getA r f.rd).toNat
    if tdBusy r f.ra.toNat then stay k .interlock s
    else afterChecks [chkWr k r (Ext.one a 32) s] fun _ =>
      wrThen k r.ctx a (leBytes 32 (getT r f.ra.toNat).toNat) s fun s => ok (advance k s)

/-- Bytes of a data tile by FORM (R171). -/
def tileBytes (form : Nat) : Nat := if form = 1 then 8256 else if form = 2 then 16448 else if form = 3 then 16384 else 32768

/-- The descriptor of tile `n` of a BW4 or BW8 entry `e` (R171). -/
def tdInit (version e n : Nat) (t : Tensor) : BitVec 256 :=
  let rb := cdiv (t.reduceLen + 1) 128
  let j := n / rb
  let i := n % rb
  let sc := j * (rb * 320 + 256) + (if 0 < i then i * 320 + 256 else 0)
  mkTd version t.format (t.layer * 2 ^ 20 + n % 2 ^ 16 * 2 ^ 4 + t.gen) (3 * 2 ^ 60 + e * 2 ^ 40 + n * tileBytes t.format)
    (4 * 2 ^ 60 + e * 2 ^ 40 + sc)

/-- TDINIT (R171): T[RD] is a descriptor for tile S[RA] of tensor table entry EXT[19:0]. -/
def execTdinit (k : Nat) (f : IFields) (s : State) : Res :=
  insn k true (modBad f 0) s fun r c _ =>
    if tdBusy r f.rd.toNat then stay k .interlock s
    else match c.pkg.tensors[extF f 19 0]? with
      | none => coreFault k r cTILE_INVALID s
      | some t =>
        let n := (getS r f.ra).toNat
        if t.format ≠ 1 ∧ t.format ≠ 2 then coreFault k r cTILE_INVALID s
        else if cdiv (t.reduceLen + 1) 128 * cdiv (t.cols + 1) 128 ≤ n then coreFault k r cCOUNT_RANGE s
        else ok (advance k (putRun k (setT r f.rd.toNat (tdInit (versionByte s) (extF f 19 0) n t)) s))

end Sys2Proof.Machine
end

