-- ==== Sys2Proof/Machine/MatrixOps.lean ====
section
/-! DEFINITION. MATRIX and CONV instructions: stationary tiles (R93 to R98, R123, R124), activation rows (R99, R127, R147, R148),
exact sums (R100, R130, R131), accumulator memory and partial-sum rows (R134 to R138), narrowing points (R173), the column-scale
latch (R179) and the injected check failure of R145. The sums are formed when the instruction issues; its rows are written when
it completes. -/
namespace Sys2Proof.Machine
open Sys2Proof

/-! ### Tiles -/

/-- Rows of 128 numbers from a tile's bytes. -/
def tileRows (f : Nat → Nat → Int) : List (List Int) := (List.range 128).map fun r => (List.range 128).map fun c => f r c

/-- Stationary values of a tile by FORM (R94, R123). -/
def tileVals (form : Nat) (d : List Byte) : List (List Int) :=
  if form = 1 then (List.range 128).map fun r =>
    ((slice d (64 + 64 * r) 64).map fun b => [signed 4 (b.toNat % 16), signed 4 (b.toNat / 16)]).flatten
  else if form = 2 then (List.range 128).map fun r => (slice d (64 + 128 * r) 128).map fun b => signed 8 b.toNat
  else if form = 3 then (List.range 128).map fun r => (slice d (128 * r) 128).map fun b => signed 8 b.toNat
  else (List.range 128).map fun r => let row := slice d (256 * r) 256
    (List.range 128).map fun c => signed 16 (fld row (2 * c) 2)

/-- A stationary value that a tile may not hold: 0x80, or an S16 element outside ±32,639 (R93, R124). -/
def tileBad (form : Nat) (w : List (List Int)) : Bool :=
  if form = 1 then false
  else if form = 4 then w.any fun r => r.any fun x => 32639 < x.natAbs
  else w.any fun r => r.any fun x => x == -128

/-- Shift codes of the four blocks of a scale record (R95); all 0 for run-time tiles (R123). -/
def tileShift (form : Nat) (sc : List Byte) : List (List Nat) :=
  if 2 < form then List.replicate 4 (List.replicate 128 0)
  else (List.range 4).map fun b => ((slice sc (64 + 64 * b) 64).map fun x => [x.toNat % 16, x.toNat / 16]).flatten

/-- Values weighted by 2^k of their block (R92, R100). -/
def weighted (w : List (List Int)) (k : List (List Nat)) : List (List Int) :=
  w.zipIdx.map fun e => List.zipWith (fun x n => x * (2 ^ n : Nat)) e.1 (k.getD (e.2 / 32) [])

/-- Planes of a form (R123). -/
def formPlanes (form : Nat) : Nat := if form = 1 then 1 else if form = 4 then 4 else 2

/-- The last 4-bit plane of a tile, which stays in the array: its top nibbles, signed, and its shift codes (R123). -/
def topPlane (form : Nat) (w : List (List Int)) (k : List (List Nat)) : Plane :=
  let sh := 4 * (formPlanes form - 1)
  { full := true, nib := w.map fun r => r.map fun x => x.fdiv (2 ^ sh : Nat), k := k.map fun r => r.map (· + sh) }

/-- A tile loaded. -/
structure Tile where
  w : List (List Int)
  plane : Plane
  scaleLen : Nat
  cols : Option (Nat × List Nat)
  deriving DecidableEq, Repr

/-- What a load comes to. -/
inductive TileRd where
  | good (t : Tile)
  | fault (code : Code) (o : Owner)
  | stall (w : Wait)
  /-- STREAM_SKEW (R98): data, scale and expected TAG. -/
  | skew (d sc e : Nat)
  deriving DecidableEq, Repr

/-- Read bytes, or what stops the load. -/
def tileRead (k n a len : Nat) (s : State) : Except TileRd (List Byte) × State :=
  match checkWin s k n a len false with
  | some e => (.error (.fault e .mutable_), s)
  | none => match readServed (len / 8 + 2) k n a len (askLayer n a s) with
    | (.data d, s) => (.ok d, s)
    | (.fault e o, s) => (.error (.fault e o), s)
    | (.stall w, s) => (.error (.stall w), s)

/-- Load a tile: the three tags are compared before it may become active (R98), then its values are checked (R93, R124). -/
def loadTile (k n : Nat) (t : BitVec 256) (s : State) : TileRd × State :=
  let form := tdForm t
  match tileRead k n (tdData t) (tileBytes form) s with
  | (.error e, s) => (e, s)
  | (.ok d, s) =>
    let w := tileVals form d
    if 2 < form then
      if tileBad form w then (.fault 0x4003 .mutable_, s)
      else (.good { w := w, plane := topPlane form w (tileShift form []), scaleLen := 0, cols := none }, s)
    else match tileRead k n (tdScale t) 320 s with
      | (.error e, s) => (e, s)
      | (.ok sc, s) =>
        let cs := bit (fld sc 4 1) 0
        let more : Except TileRd (List Byte) × State := if cs then tileRead k n (tdScale t + 320) 256 s else (.ok [], s)
        match more with
        | (.error e, s) => (e, s)
        | (.ok b, s) =>
          if fld d 0 4 ≠ tdTag t ∨ fld sc 0 4 ≠ tdTag t then (.skew (fld d 0 4) (fld sc 0 4) (tdTag t), s)
          else if tileBad form w then (.fault 0x4003 .mutable_, s)
          else
            let kk := tileShift form sc
            (.good { w := weighted w kk, plane := topPlane form w kk, scaleLen := if cs then 576 else 320,
                     cols := if cs then some (fld sc 0 4, (List.range 128).map fun c => fld b (2 * c) 2) else none }, s)

/-- A descriptor after one tile is consumed (R171). -/
def tdAdvance (t : BitVec 256) (scaleLen : Nat) : BitVec 256 :=
  let tag := tdTag t
  let seq := (bits tag 19 4 + 1) % 2 ^ 16
  mkTd (tdVersion t) (tdForm t) (bits tag 31 20 * 2 ^ 20 + seq * 2 ^ 4 + bits tag 3 0) (tdData t + tileBytes (tdForm t)) (tdScale t + scaleLen)

/-! ### Activation rows -/

/-- Convolution parameters (R148, R174). -/
structure ConvP where
  tapsX : Nat
  tapsY : Nat
  dilX : Nat
  dilY : Nat
  strX : Nat
  strY : Nat
  pbX : Nat
  paX : Nat
  pbY : Nat
  paY : Nat
  lX : Nat
  lY : Nat
  cb : Nat
  deriving DecidableEq, Repr

/-- Output length in one dimension; 0 where it is less than 1 (R148). -/
def convLen (l pb pa taps dil str : Nat) : Nat :=
  if l + pb + pa < (taps - 1) * dil + 1 then 0 else (l + pb + pa - (taps - 1) * dil - 1) / max str 1 + 1

/-- Output width. -/
def ConvP.outX (p : ConvP) : Nat := convLen p.lX p.pbX p.paX p.tapsX p.dilX p.strX
/-- Output height. -/
def ConvP.outY (p : ConvP) : Nat := convLen p.lY p.pbY p.paY p.tapsY p.dilY p.strY

/-- What a matrix instruction reads its rows from. -/
structure ActEnv where
  act16 : Bool
  cplx : Bool
  rows : Nat
  tiles : Nat
  conv : Option ConvP
  data : List Byte
  deriving DecidableEq, Repr

/-- Bytes of one activation row. -/
def ActEnv.rowBytes (e : ActEnv) : Nat := if e.act16 then 256 else 128

/-- Bytes of the real rows: the imaginary rows follow them (R172; for CONV log entry 33). -/
def ActEnv.realBytes (e : ActEnv) : Nat :=
  (match e.conv with | none => e.rows * e.tiles | some p => p.lX * p.lY * p.cb) * e.rowBytes

/-- Input position of one dimension, none outside the input (R147). -/
def inPos (o str t dil pb l : Nat) : Option Nat :=
  let p := o * str + t * dil
  if p < pb ∨ pb + l ≤ p then none else some (p - pb)

/-- Place of the row that activation row `v` pairs with tile `i`; none is a row of zeros (R147, R172). -/
def ActEnv.place (e : ActEnv) (v i : Nat) : Option Nat :=
  match e.conv with
  | none => some ((v * e.tiles + i) * e.rowBytes)
  | some p =>
    let t := i / max p.cb 1
    let ox := v % max p.outX 1
    let oy := v / max p.outX 1
    match inPos oy p.strY (t / max p.tapsX 1) p.dilY p.pbY p.lY, inPos ox p.strX (t % max p.tapsX 1) p.dilX p.pbX p.lX with
    | some y, some x => some (((y * p.lX + x) * p.cb + i % max p.cb 1) * e.rowBytes)
    | _, _ => none

/-- The 128 elements of a row. -/
def ActEnv.row (e : ActEnv) (im : Bool) (v i : Nat) : List Int :=
  match e.place v i with
  | none => List.replicate 128 0
  | some o =>
    let b := slice e.data ((if im then e.realBytes else 0) + o) e.rowBytes
    if e.act16 then (List.range 128).map fun c => signed 16 (fld b (2 * c) 2) else b.map fun x => signed 8 x.toNat

/-- An element that R99 excludes (R127). -/
def actBad (act16 : Bool) (x : Int) : Bool := if act16 then 32639 < x.natAbs else x == -128

/-- The passes of an activation element: itself, or l then h (R99). -/
def actParts (act16 : Bool) (a : List Int) : List (List Int) :=
  if act16 then
    let l := a.map fun x => signed 8 (toBits 8 x)
    [l, List.zipWith (fun x y => (x - y) / 256) a l]
  else [a]

/-- One row times a tile: the 128 column sums. -/
def rowTimes (w : List (List Int)) (a : List Int) : List Int :=
  (List.zip w a).foldl (fun acc p => if p.2 = 0 then acc else List.zipWith (fun x y => x + p.2 * y) acc p.1) (List.replicate 128 0)

/-- Sum of two rows. -/
def addRow (a b : List Int) : List Int := List.zipWith (· + ·) a b

/-- What one tile pair adds for one row, region by region in the order of R172 (R100, R131). -/
def tileSums (act16 : Bool) (wr : List (List Int)) (wi : Option (List (List Int))) (ar ai : List Int) : List (List Int) :=
  match wi with
  | none => (actParts act16 ar).map (rowTimes wr)
  | some wi =>
    let neg := ai.map fun x => -x
    List.zipWith addRow ((actParts act16 ar).map (rowTimes wr)) ((actParts act16 neg).map (rowTimes wi))
    ++ List.zipWith addRow ((actParts act16 ai).map (rowTimes wr)) ((actParts act16 ar).map (rowTimes wi))

/-! ### The passes of an instruction -/

/-- What a matrix instruction has formed so far: sums by row and region, the descriptors, the last column scales. -/
structure MatAcc where
  sums : List (List (List Int))
  tr : BitVec 256
  ti : BitVec 256
  latch : Option (Nat × List Nat)
  plane : Plane
  deriving DecidableEq, Repr

/-- What the passes come to. -/
inductive MatEnd where
  | done (m : MatAcc)
  | fault (code : Code) (o : Owner)
  | stall (w : Wait)
  | skew (d sc e : Nat)
  /-- The armed check failure strikes (R145). -/
  | inject
  deriving DecidableEq, Repr

/-- Run the tiles from tile `i` on, in order (R130); faults in the order of R127. -/
def matTiles (k n : Nat) (e : ActEnv) (inj : Bool) : Nat → Nat → MatAcc → State → MatEnd × State
  | 0, _, m, s => (.done m, s)
  | left + 1, i, m, s =>
    match loadTile k n m.tr s with
    | (.fault c o, s) => (.fault c o, s)
    | (.stall w, s) => (.stall w, s)
    | (.skew a b x, s) => (.skew a b x, s)
    | (.good tr, s) =>
      let ars := (List.range e.rows).map fun v => e.row false v i
      let ais := if e.cplx then (List.range e.rows).map fun v => e.row true v i else ars
      if (ars ++ ais).any fun r => r.any (actBad e.act16) then (.fault 0x4004 .mutable_, s)
      else if inj then (.inject, s)
      else
        let im : TileRd × State := if e.cplx then loadTile k n m.ti s else (.good tr, s)
        match im with
        | (.fault c o, s) => (.fault c o, s)
        | (.stall w, s) => (.stall w, s)
        | (.skew a b x, s) => (.skew a b x, s)
        | (.good ti, s) =>
          let wi := if e.cplx then some ti.w else none
          let add := List.zipWith (fun a b => tileSums e.act16 tr.w wi a b) ars ais
          let sums := if i = 0 then add else List.zipWith (fun x y => List.zipWith addRow x y) m.sums add
          let lt := if e.cplx then ti.cols.orElse (fun _ => tr.cols) else tr.cols
          matTiles k n e inj left (i + 1)
            { sums := sums, tr := tdAdvance m.tr tr.scaleLen, ti := if e.cplx then tdAdvance m.ti ti.scaleLen else m.ti,
              latch := lt.orElse (fun _ => m.latch), plane := ti.plane } s

/-! ### Accumulator memory (R134 to R137) -/

/-- Read one accumulator element: one bit in error is corrected, two fault (R137). -/
def accRead (k e : Nat) (s : State) : Option Nat × State :=
  let m := smGet 0 (core s k).accErr e
  let v := smGet 0 (core s k).acc e
  if m = 0 then (some v, s)
  else if popc m 55 = 1 then
    (some v, corrected (0x40 + k) 4 0x4005 0 0 (cntAdd (0x40 + k) 0x850 1 (modCore k (fun c => { c with accErr := smPut 0 c.accErr e 0 }) s)))
  else (none, s)

/-- Read `n` elements from element `e` on. -/
def accReads (k e : Nat) : Nat → State → Option (List Nat) × State
  | 0, s => (some [], s)
  | n + 1, s => match accRead k e s with
    | (none, s) => (none, s)
    | (some v, s) => match accReads k (e + 1) n s with
      | (none, s) => (none, s)
      | (some l, s) => (some (v :: l), s)

/-- Write elements from element `e` on. -/
def accWrite (k e : Nat) (vals : List Nat) (s : State) : State :=
  modCore k (fun c => { c with acc := vals.zipIdx.foldl (fun m p => smPut 0 m (e + p.2) p.1) c.acc,
                               accErr := smClear c.accErr e (e + vals.length) }) s

/-- Key of a row in a step's discarded rows. -/
def rowKey (k : Nat) (toAcc : Bool) (a : Nat) : Nat := k * 2 ^ 40 + (if toAcc then a else 64 + a)

/-- An accumulator row among `n` from `row` on has been discarded (R173). -/
def accDiscarded (st : Step) (k row n : Nat) : Bool := (List.range n).any fun i => (smFind st.discarded (rowKey k true (row + i))).isSome

/-! ### Issue -/

/-- Reduction lengths that R130 allows a form. -/
def reduceLimit (form : Nat) (cplx : Bool) : Nat := if form = 2 then (if cplx then 2 ^ 17 else 2 ^ 18) else 2 ^ 20

/-- The fields of EXT that MATRIX and CONV share and that lie outside their encodings (R172). -/
def matBad (f : IFields) : Bool :=
  modBad f 0 || extF f 31 30 != 0 || extF f 63 44 != 0 || aBad f.rb || extF f 16 15 == 3
  || (extF f 16 15 == 2 && extF f 17 17 == 0) || (extF f 17 17 == 1 && aBad f.rd)
  || (extF f 43 32 != 0 && extF f 13 13 == 1) || (extF f 14 14 == 1 && f.ra.toNat % 2 == 1)

/-- MXC_CTRL.FORCE_CHECKED of a core. -/
def forceChecked (s : State) (k : Nat) : Bool := bit (regWord s (0x40 + k) 0x100).toNat 0

/-- MXC_CHECK_INJECT is armed (R145). -/
def injectArmed (s : State) (k : Nat) : Bool := bit (regWord s (0x40 + k) 0x10C).toNat 31

/-- The injected check failure (R145): ARM clears, MXC_LAST_FAIL is written, CHECK_FAIL is raised with INJECTED. -/
def injectFail (k : Nat) (r : Run) (s : State) : State :=
  let w := (regWord s (0x40 + k) 0x10C).toNat
  let row := bits w 1 0 = 3
  let s := setRegWord (0x40 + k) 0x10C (BitVec.ofNat 32 (w % 2 ^ 31)) (cntAdd (0x40 + k) 0x848 1 s)
  let s := modCore k (fun c => { c with lastFail := (if row then 2 else 1) + 4 + (if row then bits w 8 2 * 256 else 0) }) s
  startDue (stepFaultAt (0x40 + k, 0) r.ctx (some k) 0x4001 true s)

/-- The layer of a STREAM or COLD tensor that an address lies in. -/
def layerOf (c : Ctx) (a : Nat) : List Nat :=
  if windowOf a = 3 then
    match c.pkg.tensors[bits a 59 40]?, c.places[bits a 59 40]? with
    | some t, some .stream => [t.layer]
    | some t, some .cold => [t.layer]
    | _, _ => []
  else []

/-- Rows of 128 elements of partial-sum bytes (R134). -/
def partialRow (b : List Byte) (i : Nat) : List Nat := let r := slice b (768 * i) 768
  (List.range 128).map fun c => fld r (6 * c) 6

/-- The rows an instruction will write: accumulate source plus sums, modulo 2^48, region by region (R135, R172). -/
def matRows (b dst : Nat) (toAcc : Bool) (src : List (List Nat)) (sums : List (List (List Int))) : List MatRow :=
  let regions := (sums.headD []).length
  (List.range (regions * b)).map fun j =>
    let sum := ((sums.getD (j % max b 1) []).getD (j / max b 1) [])
    { toAcc := toAcc, at_ := dst + (if toAcc then j else 768 * j),
      vals := sum.zipIdx.map fun p => toBits 48 (p.1 + (((src.getD j []).getD p.2 0 : Nat) : Int)) }

/-- The accumulate sources of an instruction's rows (R135). -/
def matSource (k n src srcRow a rows : Nat) (s : State) : Except Res (List (List Nat)) × State :=
  if src = 0 then (.ok [], s)
  else if src = 1 then match accReads k (srcRow * 128) (rows * 128) s with
    | (none, s) => (.error (ok (jobFault n (some k) 0x4006 s)), s)
    | (some l, s) => (.ok ((List.range rows).map fun i => (l.drop (128 * i)).take 128), s)
  else match readServed 1 k n a (rows * 768) s with
    | (.data b, s) => (.ok ((List.range rows).map (partialRow b)), s)
    | (.fault e o, s) => (.error (ok (readFault k n e o s)), s)
    | (.stall w, s) => (.error (stay k w s), s)

/-- Issue a matrix instruction whose activation rows and counts are known (R130 to R138, R173, R179). -/
def matRun (k : Nat) (r : Run) (c : Ctx) (st : Step) (f : IFields) (e : ActEnv) (np : Nat) (disc : Bool) (s : State) : Res :=
  let cplx := e.cplx
  let regions := (if cplx then 2 else 1) * (if e.act16 then 2 else 1)
  let src := extF f 16 15
  let dst := extF f 17 17
  let a := (getA r f.rd).toNat
  let rows := regions * e.rows
  let tr := getT r f.ra.toNat
  let ti := getT r (f.ra.toNat + 1)
  match matSource k r.ctx src (extF f 23 18) a rows s with
  | (.error x, _) => x
  | (.ok srcs, s) =>
    let checked := st.checked || forceChecked s k
    let inj := checked && injectArmed s k
    match matTiles k r.ctx e inj e.tiles 0 { sums := [], tr := tr, ti := ti, latch := none, plane := (core s k).active } s with
    | (.fault code o, s) => ok (readFault k r.ctx code o s)
    | (.stall w, s) => stay k w s
    | (.skew d x y, s) => coreFault k r 0x4002 (modCore k (fun c => { c with skewData := d, skewScale := x, skewExpect := y }) s)
    | (.inject, s) => ok (injectFail k r s)
    | (.done m, s) =>
      let out := matRows e.rows (if dst = 1 then a else extF f 29 24) (dst == 0) srcs m.sums
      let op : MatOp :=
        { rows := out, np := np, checked := checked, layers := layerOf c (tdData tr) ++ (if cplx then layerOf c (tdData ti) else []),
          tds := f.ra.toNat :: (if cplx then [f.ra.toNat + 1] else []), latches := m.latch.isSome, disc := disc }
      let loads := e.tiles * (formPlanes (tdForm tr) + if cplx then formPlanes (tdForm ti) else 0)
      let passRows := e.rows * loads * (if e.act16 then 2 else 1) * (if cplx then 2 else 1)
      let s := cntAdd (0x40 + k) 0x800 passRows (cntAdd (0x40 + k) 0x808 passRows (cntAdd (0x40 + k) 0x810 loads s))
      let s := if checked then cntAdd (0x40 + k) 0x838 passRows s else s
      let s := modCore k (fun c => { c with active := m.plane, shadow := Plane.empty }) s
      ok (advance k (modRunOf k (fun r =>
        let r := setT r f.ra.toNat m.tr
        let r := if cplx then setT r (f.ra.toNat + 1) m.ti else r
        { r with mat := some op, latch := m.latch.orElse fun _ => r.latch }) s))

/-- The activation form of an instruction and whether its rows are discarded (R172, R173): by ACT16, or by the latest narrowing of
its point in the step. -/
def matForm (c : Ctx) (st : Step) (f : IFields) : Option (Bool × Bool) :=
  let np := extF f 43 32
  if np = 0 then some (extF f 13 13 = 1, false)
  else (actEntry c.pkg np).bind fun e => (smFind st.np e.1).map fun p => (p.int16, p.verdict == .rerun)

/-- The checks of a matrix instruction at issue, once its counts are known, and its run (R132, R134, R136, R163, R172). -/
def matIssue (k : Nat) (r : Run) (c : Ctx) (st : Step) (f : IFields) (conv : Option ConvP) (rows tiles : Nat) (s : State) : Res :=
  let cplx := extF f 14 14 = 1
  let tr := getT r f.ra.toNat
  let ti := getT r (f.ra.toNat + 1)
  let forms := tdForm tr :: (if cplx then [tdForm ti] else [])
  match matForm c st f with
  | none => coreFault k r cNP_INVALID s
  | some (act16, disc) =>
    let e : ActEnv := { act16 := act16, cplx := cplx, rows := rows, tiles := tiles, conv := conv, data := [] }
    let n := (if cplx then 2 else 1) * (if act16 then 2 else 1) * rows
    let src := extF f 16 15
    let dst := extF f 17 17
    let a := (getA r f.rd).toNat
    let b := (getA r f.rb).toNat
    let actBytes := e.realBytes * (if cplx then 2 else 1)
    if forms.any fun x => x = 0 ∨ 4 < x then coreFault k r cTILE_INVALID s
    else if conv.isNone && s.chip.level1 && forms.contains 4 then coreFault k r cINSTR_LEVEL s
    else if forms.any fun x => reduceLimit x cplx < 128 * tiles then coreFault k r (if conv.isSome then 0x4009 else 0x4007) s
    else if (src = 1 ∧ 64 < extF f 23 18 + n) ∨ (dst = 0 ∧ 64 < extF f 29 24 + n) then coreFault k r 0x4008 s
    else if b % 64 ≠ 0 ∨ (dst = 1 ∧ a % 64 ≠ 0) then coreFault k r cADDR_ALIGN s
    else if dst = 1 ∧ windowOf a ≠ 0 then coreFault k r (if 6 < windowOf a then cADDR_RANGE else cADDR_PERM) s
    else if src = 1 ∧ accDiscarded st k (extF f 23 18) n then coreFault k r cVERDICT_DISCARD s
    else
      let tileExt (t : BitVec 256) : Ext := Ext.one (tdData t) (tiles * tileBytes (tdForm t))
      afterChecks
        ([chkRd k r st (Ext.one b actBytes) s, chkRd k r st (tileExt tr) s]
        ++ (if cplx then [chkRd k r st (tileExt ti) s] else [])
        ++ (if src = 2 then [chkRd k r st (Ext.one a (n * 768)) s] else [])
        ++ (if dst = 1 then [chkWr k r (Ext.one a (n * 768)) s] else []))
        fun _ => rdThen k r.ctx b actBytes s fun d s =>
          matRun k r c st f { e with data := d } (extF f 43 32) disc s

/-- The array of a core cannot take an instruction: one is in progress, or it is gated (R138, R150). -/
def arrayBusy (s : State) (k : Nat) (r : Run) : Bool := r.mat.isSome || (core s k).gated || brakeLevel s

/-- MATRIX (R172): passes over EXT[12:0] + 1 consecutive tiles for S[RC] activation rows. -/
def execMatrix (k : Nat) (f : IFields) (s : State) : Res :=
  insn k (extF f 14 14 = 0) (matBad f) s fun r c st =>
    let rows := (getS r f.rc).toNat
    if 2 ^ 20 < rows then coreFault k r cCOUNT_RANGE s
    else if arrayBusy s k r then stay k .interlock s
    else if rows = 0 then ok (advance k s)
    else matIssue k r c st f none rows (extF f 12 0 + 1) s

/-! ### CONV (R147, R148, R174) -/

/-- The parameter block. -/
def convParm (b : List Byte) : ConvP :=
  { tapsX := fld b 0 2, tapsY := fld b 2 2, dilX := fld b 4 1, dilY := fld b 5 1, strX := fld b 6 1, strY := fld b 7 1,
    pbX := fld b 8 2, paX := fld b 10 2, pbY := fld b 12 2, paY := fld b 14 2, lX := fld b 16 4, lY := fld b 20 4, cb := fld b 24 2 }

/-- A value lies in a range. -/
def within (x lo hi : Nat) : Bool := decide (lo ≤ x) && decide (x ≤ hi)

/-- The limits of a 1-D convolution, its _Y fields fixed (R148, R174). -/
def conv1Good (p : ConvP) : Bool :=
  within p.tapsX 1 64 && within p.dilX 1 64 && within p.strX 1 4 && within p.pbX 0 4095 && within p.paX 0 4095 && within p.lX 1 (2 ^ 20)
  && p.tapsY == 1 && p.lY == 1 && p.dilY == 1 && p.strY == 1 && p.pbY == 0 && p.paY == 0

/-- The limits of a 2-D convolution (R148). -/
def conv2Good (p : ConvP) : Bool :=
  within p.tapsX 1 7 && within p.tapsY 1 7 && within p.dilX 1 4 && within p.dilY 1 4 && within p.strX 1 4 && within p.strY 1 4
  && within p.pbX 0 31 && within p.paX 0 31 && within p.pbY 0 31 && within p.paY 0 31 && within p.lX 1 4096 && within p.lY 1 4096

/-- A convolution: its parameter block lies in the LOCAL window; its values are checked at issue. -/
def convIssue (k : Nat) (f : IFields) (two : Bool) (r : Run) (c : Ctx) (st : Step) (s : State) : Res :=
  let pa := (getA r f.rc).toNat
  if arrayBusy s k r then stay k .interlock s
  else if windowOf pa ≠ 0 then coreFault k r (if 6 < windowOf pa then cADDR_RANGE else cADDR_PERM) s
  else afterChecks [chkRd k r st (Ext.one pa 32) s] fun _ =>
    rdThen k r.ctx pa 32 s fun b s =>
      let p := convParm b
      if !zeroRange b 26 32 then coreFault k r cINSTR_INVALID s
      else if !(if two then conv2Good p else conv1Good p) || p.cb == 0 || p.outX == 0 || p.outY == 0 then coreFault k r 0x4009 s
      else matIssue k r c st f (some p) (p.outX * p.outY) (p.tapsX * p.tapsY * p.cb) s

/-- CONV1D (R174). -/
def execConv1d (k : Nat) (f : IFields) (s : State) : Res :=
  insn k true (matBad f || extF f 12 0 != 0 || aBad f.rc) s fun r c st => convIssue k f false r c st s
/-- CONV2D (R174): not at level 1. -/
def execConv2d (k : Nat) (f : IFields) (s : State) : Res :=
  insn k false (matBad f || extF f 12 0 != 0 || aBad f.rc) s fun r c st => convIssue k f true r c st s

/-! ### Completion -/

/-- A row of a matrix instruction is written, or discarded under a RERUN verdict; a row written under a narrowing point is valid
again (R173). -/
def writeRow (k n : Nat) (m : MatOp) (w : MatRow) (s : State) : State :=
  let key := rowKey k w.toAcc w.at_
  if m.disc then
    modCtx n (fun c => { c with step := c.step.map fun st => { st with discarded := smSet st.discarded key m.np } }) s
  else
    let s := if w.toAcc then accWrite k (w.at_ * 128) w.vals s else (writeWin k n w.at_ (w.vals.flatMap (leBytes 6)) s).2
    let valid (st : Step) : Step := if smFind st.discarded key = some m.np then { st with discarded := smDel st.discarded key } else st
    if m.np = 0 then s else modCtx n (fun c => { c with step := c.step.map valid }) s

/-- MATRIX_COMPLETE (R138): every row of a core's matrix instruction is written and its results become readable. A gated array
completes nothing (R150). -/
def execMatrixComplete (k : Nat) (s : State) : Res :=
  if 48 ≤ k then .refused .illFormed
  else match (core s k).run with
    | none => ok s
    | some r => match r.mat with
      | none => ok s
      | some m =>
        if (core s k).gated || brakeLevel s then ok s
        else
          let s := m.rows.foldl (fun s w => writeRow k r.ctx m w s) s
          ok (settleHalves r.ctx (modRunOf k (fun r => { r with mat := none }) s))

/-- A write of MXC_CHECK_INJECT (R145, R153): ARM is only set; set with TARGET 0b00 it injects nothing and clears. -/
def writeInject (k : Nat) (w : Word) (s : State) : State :=
  let arm := (bit w.toNat 31 || injectArmed s k) && bits w.toNat 1 0 != 0
  setRegWord (0x40 + k) 0x10C (BitVec.ofNat 32 (bits w.toNat 8 0 + if arm then 2 ^ 31 else 0)) s

/-- CHECK_INJECT_ARM (R145). -/
def execCheckInjectArm (p : Path) (k : Nat) (w : Word) (s : State) : Res :=
  if 48 ≤ k then .refused .illFormed else regRow p (0x40 + k) 0x10C (writeInject k w) s

end Sys2Proof.Machine
end

