-- ==== Sys2Proof/Machine/Sfu.lean ====
section
/-! DEFINITION. The special-function unit: evaluation from a table bank (R198 to R203, R207), compatibility mode (R209, R210) and
the register commands of its tables (R205, R206, R208, R219). -/
namespace Sys2Proof.Machine
open Sys2Proof

/-! ### Table words -/

/-- A word of a bank (R205, R207). -/
def sfuWord (t : SfuSt) (bank w : Nat) : Nat :=
  if bank = 0 then (smFind t.bank0 w).getD (if t.default0 then Config.sfuDefault w else 0)
  else (smFind t.bank1 w).getD (if t.default1 then Config.sfuDefault w else 0)

/-- What an evaluation takes its words from: the tables, the bank and COMPAT1 value of the job (R208). -/
structure SfuCtx where
  tbl : SfuSt
  bank : Nat
  compat : Bool
  deriving DecidableEq, Repr

/-- A coefficient of a function's block (R207). -/
def SfuCtx.coef (c : SfuCtx) (fn w : Nat) : FVal := fdec fp32 (sfuWord c.tbl c.bank (16 + 320 * (fn - 1) + w))

/-! ### The internal format (R199) -/

/-- Round to a significand of `p` bits, to nearest even. -/
def roundSig (p : Nat) : FVal → FVal
  | .fin neg m e =>
    let l := Nat.log2 m + 1
    if m = 0 ∨ l ≤ p then .fin neg m e else .fin neg (rneShift m (l - p)) (e + ((l - p : Nat) : Int))
  | v => v

/-- An exact argument: ± num ÷ den × 2^e. -/
structure RArg where
  neg : Bool
  num : Nat
  den : Nat
  e : Int
  deriving DecidableEq, Repr

/-- Product of a value and an argument, rounded once to a significand of `p` bits. -/
def mulArg (p : Nat) (v : FVal) (t : RArg) : FVal :=
  match v with
  | .fin neg m e =>
    let n := m * t.num
    let sh := p + 3 + Nat.log2 (max t.den 1)
    let q := (n <<< sh) / t.den
    roundSig p (.fin (neg != t.neg) (2 * q + b2n ((n <<< sh) % t.den != 0)) (e + t.e - (sh : Int) - 1))
  | v => if t.num = 0 then .nan else match v with | .inf neg => .inf (neg != t.neg) | v => v

/-- Horner's rule over coefficients, highest degree first. -/
def horner (t : RArg) : List FVal → FVal
  | [] => .fin false 0 0
  | c :: cs => cs.foldl (fun acc k => roundSig 40 (fvAdd (mulArg 40 acc t) k)) c

/-- Polynomial of a segment of a block: coefficients c5 to c0 (R207). -/
def segPoly (c : SfuCtx) (fn seg : Nat) (t : RArg) : FVal :=
  horner t ((List.range 6).reverse.map fun d => c.coef fn (6 * seg + d))

/-- The small form: s4 to s0 (R200, R207). -/
def smallPoly (c : SfuCtx) (fn : Nat) (t : RArg) : FVal := horner t ((List.range 5).reverse.map fun d => c.coef fn (294 + d))

/-! ### Reduced functions (R198) -/

/-- log2 e × 2^200, rounded down. -/
def log2e200 : Nat := 2318321547468254865173387471183990171487108758923299108729110

/-- x × log2 e with 40 fraction bits, as an integer: the exact product lies between two such values, and which one is free
(log entry 32). -/
def timesLog2e (neg : Bool) (m : Nat) (e : Int) : Int :=
  let p := m * log2e200
  let sh : Int := 160 - e
  let lo : Int := if 0 ≤ sh then (p >>> sh.toNat : Nat) else (p <<< (-sh).toNat : Nat)
  let fl : Int := if neg then -(lo + 1) else lo
  if m = 0 then 0
  else if Config.log2eUp (m + 2 ^ 64 * (e + 4096).toNat + 2 ^ 80 * b2n neg) then fl + 1 else fl

/-- 2^(k + n ÷ d) for 0 ≤ n < d, from the 24 equal segments of a block. -/
def exp2Parts (c : SfuCtx) (fn : Nat) (k : Int) (n d : Nat) : FVal :=
  let seg := 24 * n / d
  match segPoly c fn seg { neg := false, num := 24 * n - seg * d, den := 24 * d, e := 0 } with
  | .fin neg m e => .fin neg m (e + k)
  | v => v

/-- exp (1) or exp2 (2) of a finite argument in the internal format; arguments of magnitude 512 or more leave the FP32 range. -/
def expCore (c : SfuCtx) (fn : Nat) (neg : Bool) (m : Nat) (e : Int) : FVal :=
  if m = 0 then .fin false 1 0
  else if 9 ≤ (Nat.log2 m : Int) + e then (if neg then .fin false 0 0 else .inf false)
  else if fn = 1 then
    let p := timesLog2e neg m e
    let k := p.fdiv (2 ^ 40)
    exp2Parts c 1 k (p - k * 2 ^ 40).toNat (2 ^ 40)
  else if 0 ≤ e then exp2Parts c 2 (scaledInt neg m e 0) 0 1
  else
    let d : Nat := 2 ^ (-e).toNat
    let i : Int := if neg then -(m : Int) else m
    let k := i.fdiv d
    exp2Parts c 2 k (i - k * d).toNat d

/-- log2 of a positive argument. -/
def log2Core (c : SfuCtx) (m : Nat) (e : Int) : FVal :=
  let l := Nat.log2 m
  let n := m - 2 ^ l
  let d := 2 ^ l
  let seg := 24 * n / d
  roundSig 40 (fvAdd (fvInt (l + e)) (segPoly c 3 seg { neg := false, num := 24 * n - seg * d, den := 24 * d, e := 0 }))

/-- Reciprocal of the magnitude. -/
def recipCore (c : SfuCtx) (m : Nat) (e : Int) : FVal :=
  let l := Nat.log2 m
  let n := m - 2 ^ l
  let d := 2 ^ l
  let seg := 24 * n / d
  match segPoly c 4 seg { neg := false, num := 24 * n - seg * d, den := 24 * d, e := 0 } with
  | .fin neg m2 e2 => .fin neg m2 (e2 - (l + e))
  | v => v

/-- Reciprocal square root of a positive argument: u in [1, 4) has 24 segments of 1/8. -/
def rsqrtCore (c : SfuCtx) (m : Nat) (e : Int) : FVal :=
  let l := Nat.log2 m
  let top : Int := l + e
  let k := top.fdiv 2
  let n := m * (if top % 2 = 0 then 1 else 2) - 2 ^ l
  let d := 2 ^ l
  let seg := 8 * n / d
  match segPoly c 5 seg { neg := false, num := 8 * n - seg * d, den := 8 * d, e := 0 } with
  | .fin neg m2 e2 => .fin neg m2 (e2 - k)
  | v => v

/-! ### Segmented functions (R199, R200) -/

/-- The polynomial or tail form of the segment in which a lies, 2^−8 ≤ |a| < 2^4. -/
def segEval (c : SfuCtx) (fn : Nat) (neg : Bool) (m : Nat) (e : Int) : FVal :=
  let l := Nat.log2 m
  let top : Int := l + e
  let f := if l = 0 then 0 else b2n (bit m (l - 1))
  let seg := 2 * (top + 8).toNat + f
  let sg := seg + (if neg then 24 else 0)
  let t : RArg := match fvAdd (.fin false m e) (.fin true (2 + f) (top - 1)) with
    | .fin ng n e2 => { neg := ng, num := n, den := 1, e := e2 }
    | _ => { neg := false, num := 0, den := 1, e := 0 }
  let p := segPoly c fn sg t
  if bit (sfuWord c.tbl c.bank (16 + 320 * (fn - 1) + 288 + b2n neg)) seg then
    let a := c.coef fn (290 + 2 * b2n neg)
    let b := c.coef fn (291 + 2 * b2n neg)
    let x2 : FVal := match roundSig 40 p with
      | .fin n pm pe => let y := Config.tailExp2 n pm pe; .fin false y.1 y.2
      | v => v
    roundSig 40 (fvAdd a (fvNeg (roundSig 40 (fvMul b x2))))
  else p

/-- 1 − v in the internal format. -/
def oneMinus (v : FVal) : FVal := roundSig 40 (fvAdd (.fin false 1 0) (fvNeg (roundSig 40 v)))

/-- σ for a ≥ 16 and a ≤ −16: 1 − e^−a, and e^a × (1 − e^a). -/
def sigmoidFar (c : SfuCtx) (neg : Bool) (m : Nat) (e : Int) : FVal :=
  let x := expCore c 1 true m e
  if neg then roundSig 40 (fvMul (roundSig 40 x) (oneMinus x)) else oneMinus x

/-- A segmented function of a finite nonzero a, in the internal format; `x` is the input that GELU returns (R200). -/
def segFn (c : SfuCtx) (fn : Nat) (x : FVal) (neg : Bool) (m : Nat) (e : Int) : FVal :=
  let top : Int := (Nat.log2 m : Int) + e
  if top < -8 then smallPoly c fn { neg := neg, num := m, den := 1, e := e }
  else if top < 4 then segEval c fn neg m e
  else if fn = 6 ∨ fn = 8 then .fin neg 1 0
  else if fn = 7 ∨ fn = 11 then sigmoidFar c neg m e
  else if neg then .fin true 0 0 else x

/-! ### Evaluation -/

/-- Results for NaN, ±∞, ±0 and, of log2 and rsqrt, negative inputs (R200). `none`: by evaluation. -/
def sfuSpecial (fn w : Nat) : Option Nat :=
  match fdec fp32 w with
  | .nan => some fpNaN
  | .inf false =>
    some (if fn = 4 ∨ fn = 5 then 0 else if fn = 6 ∨ fn = 7 ∨ fn = 8 then fpOne else fpInf)
  | .inf true =>
    some (if fn = 1 ∨ fn = 2 ∨ fn = 7 then 0 else if fn = 3 ∨ fn = 5 then fpNaN else if fn = 6 ∨ fn = 8 then 0xBF800000 else fpNegZero)
  | .fin neg 0 _ =>
    some (if fn = 1 ∨ fn = 2 then fpOne else if fn = 3 then fpNegInf else if fn = 4 ∨ fn = 5 then (if neg then fpNegInf else fpInf)
      else if fn = 7 then 0x3F000000 else w)
  | .fin neg _ _ => if neg ∧ (fn = 3 ∨ fn = 5) then some fpNaN else none

/-- A FUNC of a finite nonzero input from the active words. -/
def sfuEvalFin (c : SfuCtx) (fn beta : Nat) (neg : Bool) (m : Nat) (e : Int) : FVal :=
  let x : FVal := .fin neg m e
  if fn = 1 ∨ fn = 2 then expCore c fn neg m e
  else if fn = 3 then log2Core c m e
  else if fn = 4 then (match recipCore c m e with | .fin n m2 e2 => .fin (n != neg) m2 e2 | v => v)
  else if fn = 5 then rsqrtCore c m e
  else if fn = 11 then
    match fvMul x (fdec fp32 beta) with
    | .fin an am ae => roundSig 32 (fvMul x (segFn c 11 x an am ae))
    | v => v
  else segFn c fn x neg m e

/-- f(x) for FUNC 0x00 to 0x0B: FP32 in, FP32 out (R198 to R200, R209, R210). -/
def sfuEval (c : SfuCtx) (fn beta w : Nat) : Nat :=
  if fn = 0 then (if isNaN w then (if c.compat then w else fpNaN) else w)
  else if isNaN w ∧ c.compat then w ||| 0x400000
  else match sfuSpecial fn w with
    | some y => y
    | none =>
      if c.compat then Config.compat1 fn w beta % 2 ^ 32
      else match fdec fp32 w with
        | .fin neg m e => fenc fp32 (sfuEvalFin c fn beta neg m e)
        | _ => fpNaN

/-- exp, rcp and rsqrt as REDUCE and SAMPLE use them. -/
def sfuExp (c : SfuCtx) (w : Nat) : Nat := sfuEval c 1 fpOne w
/-- Reciprocal. -/
def sfuRcp (c : SfuCtx) (w : Nat) : Nat := sfuEval c 4 fpOne w
/-- Reciprocal square root. -/
def sfuRsqrt (c : SfuCtx) (w : Nat) : Nat := sfuEval c 5 fpOne w

/-- β is a finite FP32 value from 2^−8 to 2^8 (R203). -/
def betaGood (w : Nat) : Bool := isFin w && !flt w 0x3B800000 && !flt 0x43800000 w

/-- What a step's evaluations use (R208). -/
def stepSfu (s : State) (st : Step) : SfuCtx := { tbl := s.sfu, bank := st.bank, compat := st.compat }

/-! ### Table commands (R206, R208) -/

/-- A job still holds the bank that is not active (R208, R219). -/
def oldInUse (s : State) : Bool := s.ctxs.any fun e => match e.2.step with | some st => st.bank != s.sfu.active | none => false

/-- SFU_TBL_BUSY: recorded and counted (R206, R220). -/
def sfuBusy (s : State) : State := advisory 0x70 1 0x7002 0 0 (cntAdd 0x70 0x808 1 s)

/-- A write of SFU_TBL_DATA (R206). -/
def writeTblData (w : Word) (s : State) : State :=
  if oldInUse s then sfuBusy s
  else modSfu (fun t =>
    let t := if t.active = 0 then { t with bank1 := smSet t.bank1 t.addr w.toNat } else { t with bank0 := smSet t.bank0 t.addr w.toNat }
    { t with addr := (t.addr + 1) % 4096 }) s

/-- Rsvd words of a bank: words 1 to 15 and 3,536 on, and those of each function's block (R207). -/
def rsvdWord (w : Nat) : Bool :=
  if w < 16 then 1 ≤ w
  else if 3536 ≤ w then true
  else
    let i := (w - 16) % 320
    let fn := (w - 16) / 320 + 1
    299 ≤ i || (fn ≤ 5 && 144 ≤ i)

/-- A word breaks the layout: a Rsvd bit set, or a coefficient that is NaN or infinite (R206, R207). -/
def tblWordBad (w v : Nat) : Bool :=
  if rsvdWord w then v != 0
  else if w = 0 then bits v 31 8 != 0
  else if (w - 16) % 320 = 288 ∨ (w - 16) % 320 = 289 then bits v 31 24 != 0
  else !isFin v

/-- What refuses a commit besides OLD_IN_USE (R206). -/
def tblRefusal (s : State) : Option Code :=
  let b := 1 - s.sfu.active
  if bits (sfuWord s.sfu b 0) 7 0 ≠ versionByte s then some 0x0001
  else if (List.range 4096).any fun w => tblWordBad w (sfuWord s.sfu b w) then some 0x7001 else none

/-- SFU_TBL_CTRL.COMMIT is set (R206): checked, and made active with its digest. The level-1 VERSION byte is R8's. -/
def tblCommit (s : State) : State :=
  if oldInUse s then modSfu (fun t => { t with result := 0x7002 }) (sfuBusy s)
  else match tblRefusal s with
    | some c =>
      let s := cntAdd 0x70 0x808 1 (modSfu (fun t => { t with result := c }) s)
      if c = 0x7001 then advisory 0x70 0 0x7001 0 0 s else s
    | none =>
      let b := 1 - s.sfu.active
      let d := sha3_512 ((List.range 4096).flatMap fun w => leBytes 4 (sfuWord s.sfu b w))
      cntAdd 0x70 0x800 1 (modSfu (fun t => { t with active := b, result := 0, digest := some d }) s)

/-- SFU_TBL_DATA_WRITE (R206). -/
def execSfuTblDataWrite (p : Path) (w : Word) (s : State) : Res := regRow p 0x70 0x10C (writeTblData w) s

/-- SFU_TBL_COMMIT (R206). -/
def execSfuTblCommit (p : Path) (s : State) : Res := regRow p 0x70 0x110 tblCommit s

/-- A write of SFU_CTRL.COMPAT1 (R208): RO 1 at level 1. -/
def writeCompat1 (w : Word) (s : State) : State := if s.chip.level1 then s else modSfu (fun t => { t with compat1 := bit w.toNat 0 }) s

/-- SFU_COMPAT1_WRITE (R208). -/
def execSfuCompat1Write (p : Path) (w : Word) (s : State) : Res := regRow p 0x70 0x100 (writeCompat1 w) s

/-- The word that a read of SFU_TBL_DATA returns: of READ_BANK, at ADDR (R219). -/
def tblDataWord (s : State) : Word := BitVec.ofNat 32 (sfuWord s.sfu s.sfu.readBank s.sfu.addr)

/-- A read of SFU_TBL_DATA advances the address. -/
def readTblData (s : State) : State := modSfu (fun t => { t with addr := (t.addr + 1) % 4096 }) s

/-- SFU_TBL_DATA_READ (R206, R219): the word goes out on the path, and the address advances. -/
def execSfuTblDataRead (p : Path) (s : State) : Res :=
  if !s.chip.powered then ok s
  else match regGate p 0x70 0x10C false s with
    | some c => ok (emit (.reg p c []) s)
    | none => ok (readTblData (emit (.reg p 0 [tblDataWord s]) s))

end Sys2Proof.Machine
end

