-- ==== Sys2Proof/Machine/Ocm.lean ====
section
/-! DEFINITION. Commands and events of the on-chip memories (08): test mode, bank power, flips, the Atoll's size, the background
test. -/
namespace Sys2Proof.Machine
open Sys2Proof

/-! ### Test mode (R225, R226) -/

/-- OCM_CFG_REFUSED. -/
def cfgRefused (s : State) : State := advisory 0x80 6 0x8007 0 0 s

/-- A write of OCM_CTRL (R226). -/
def writeDiag (w : Word) (s : State) : State :=
  if bit w.toNat 0 then
    if s.chart.enable ∨ !s.ctxs.isEmpty then cfgRefused s else modOcm (fun o => { o with diag := true }) s
  else modOcm (fun o => { o with diag := false }) s

/-- OCM_DIAG_WRITE (R226). -/
def execOcmDiagWrite (p : Path) (w : Word) (s : State) : Res := regRow p 0x80 0x100 (writeDiag w) s

/-! ### Accesses that only the management core makes (R235, R241) -/

/-- A refusal of a register write that depends on what is written: REG_DENIED (R235, R241). -/
def denyWord (p : Path) (page off : Nat) (w : Word) (s : State) : Option Code :=
  if p = .mgmt then none
  else if page = 0x80 ∧ off = 0x108 then some 0x0004
  else if page = 0x80 ∧ off = 0x10C ∧ !bit w.toNat 6 ∧ 64 - s.ocm.atoll ≤ bits w.toNat 5 0 then some 0x0004
  else none

/-- A write to a register word that such a refusal guards. -/
def guardRow (p : Path) (page off : Nat) (w : Word) (f : State → State) (s : State) : Res :=
  match denyWord p page off w s with
  | some c => if s.chip.powered then ok (emit (.reg p ((regGate p page off true s).getD c) []) s) else ok s
  | none => regRow p page off f s

/-- A write of OCM_FLIP_SEL (R235). -/
def writeFlipSel (w : Word) (s : State) : State :=
  let s := storeRw 0x80 0x10C w s
  if bit w.toNat 31 then modOcm (fun o => { o with flipArm := true }) s else s

/-- ECC_FLIPMASK_ARM (R235). -/
def execEccFlipmaskArm (p : Path) (w : Word) (s : State) : Res := guardRow p 0x80 0x10C w (writeFlipSel w) s

/-- An allocation lies in a scratchpad bank: the SRE's 16 MiB, or a context's share (R60, R231). -/
def spadBankUsed (s : State) (b : Nat) : Bool :=
  decide (b < 16) || (scratchUsed s).any fun e => decide (e.1 < 1024 * (b + 1) ∧ 1024 * b < e.1 + e.2)

/-- A write of OCM_ATOLL_CFG by the management core (R241, R243). -/
def writeAtoll (w : Word) (s : State) : State :=
  let n := bits w.toNat 2 0
  let old := s.ocm.atoll
  let leaving := (List.range (n - old)).map fun i => 64 - n + i
  if 4 < n ∨ leaving.any (spadBankUsed s) then cfgRefused s
  else if n = old then s
  else
    let s := modOcm (fun o => { o with
      atoll := n, spadPwr := leaving.foldl (fun m b => smDel m b) o.spadPwr, spadPhys := leaving.foldl (fun m b => smDel m b) o.spadPhys }) (wipeAtoll s)
    ocmZero none ((64 - max n old) * 0x100000) ((max n old - min n old) * 0x100000) s

/-- ATOLL_RESIZE (R241). -/
def execAtollResize (p : Path) (w : Word) (s : State) : Res := guardRow p 0x80 0x108 w (writeAtoll w) s

/-! ### Bank power (R229 to R232) -/

/-- A bank's contents are lost. -/
def loseBank (b : BankId) (s : State) : State :=
  match b with
  | .spad n => ocmZero none (n * 0x100000) 0x100000 s
  | .loc k n =>
    let mine (a : Nat) : Bool := a / 0x400000 == k && (a % 0x400000 / 128) % 16 == n
    modOcm (fun o => { o with loc := o.loc.filter fun e => !mine e.1, locErr := o.locErr.filter fun e => !mine (e.1 * 8) }) s

/-- Program a bank's power field. -/
def setBankPwr (b : BankId) (v : Nat) (s : State) : State :=
  let was := bankPwr s b
  let s := modOcm (fun o => match b with
    | .spad n => { o with spadPwr := smPut 0 o.spadPwr n v }
    | .loc k n => { o with locPwr := smPut 0 o.locPwr (k * 16 + n) v }) s
  if v = 2 then (if was = 2 then s else setPhys b .off (loseBank b s))
  else if v = 1 ∨ bankHeld s b then setPhys b .ret s
  else if v = 3 ∧ bankPhys s b == .ret then s
  else setPhys b .on s

/-- The banks that a power register names, lowest first: OCM_LOCAL_PWR, or one of OCM_SPAD_PWR_0 to _3. -/
def pwrBanks (s : State) (off : Nat) : List BankId :=
  if off = 0x134 then (List.range 16).map fun b => .loc (regFld s 0x80 0x130 5 0) b
  else (List.range 16).map fun b => .spad ((off - 0x140) / 4 * 16 + b)

/-- A power field that refuses the write (R231). -/
def bankInUse (s : State) (b : BankId) (v : Nat) : Bool :=
  match b with
  | .spad n => (v == 2 && spadBankUsed s n) || (v != 0 && decide (64 - s.ocm.atoll ≤ n))
  | .loc k _ => v == 2 && (coreIsland s k).isSome

/-- A write of a bank power register (R231). A core above 47 has no banks. -/
def writeBankPwr (off : Nat) (w : Word) (s : State) : State :=
  let bs := (pwrBanks s off).zipIdx.map fun e => (e.1, bits w.toNat (2 * e.2 + 1) (2 * e.2))
  if off = 0x134 ∧ 48 ≤ regFld s 0x80 0x130 5 0 then s
  else if bs.any fun e => bankInUse s e.1 e.2 then advisory 0x80 5 0x8006 0 0 s
  else bs.foldl (fun s e => setBankPwr e.1 e.2 s) s

/-- Offsets of the bank power registers. -/
def pwrOffs : List Nat := [0x134, 0x140, 0x144, 0x148, 0x14C]

/-- BANK_POWER_WRITE (R231); an offset that names no bank power register takes no effect. -/
def execBankPowerWrite (p : Path) (off : Nat) (w : Word) (s : State) : Res :=
  if pwrOffs.contains off then regRow p 0x80 off (writeBankPwr off w) s else ok s

/-- A bank the part has. -/
def bankOk : BankId → Bool
  | .spad b => decide (b < 64)
  | .loc k b => decide (k < 48 ∧ b < 16)

/-- AUTO_RETENTION (R229): an AUTO bank has been idle for OCM_AUTO_IDLE_US. -/
def execAutoRetention (b : BankId) (s : State) : Res :=
  if !bankOk b then .refused .illFormed
  else if bankPwr s b = 3 ∧ bankPhys s b == .on then ok (setPhys b .ret s) else ok s

/-- BANK_WAKE (R230): an access meets a bank in retention. -/
def execBankWake (b : BankId) (s : State) : Res :=
  if !bankOk b then .refused .illFormed else ok (touchBank b s)

/-! ### The background test (R236 to R240) -/

/-- Word `i` of a bank. -/
def bankWord (core : Option Nat) (b i : Nat) : OWord :=
  match core with
  | none => ⟨none, b * 131072 + i⟩
  | some k => ⟨some k, (i / 16 * 16 + b) * 16 + i % 16⟩

/-- A bank that a test engine walks. -/
def bgtBank (core : Option Nat) (b : Nat) : BankId := match core with | none => .spad b | some k => .loc k b

/-- Banks and regions of a bank that an engine walks. -/
def bgtDims (core : Option Nat) : Nat × Nat := match core with | none => (64, 512) | some _ => (16, 128)

/-- From a bank on, the first that is not OFF, around once. -/
def bgtSkip (s : State) (core : Option Nat) : Nat → Nat → Option Nat
  | 0, _ => none
  | fuel + 1, b =>
    let b := b % (bgtDims core).1
    if bankPwr s (bgtBank core b) = 2 then bgtSkip s core fuel (b + 1) else some b

/-- Position of an engine. -/
def bgtPos (s : State) (core : Option Nat) : Bgt :=
  match core with
  | none => s.ocm.bgtSpad
  | some k => smGet ⟨0, 0⟩ s.ocm.bgtLoc k

/-- Move an engine on. -/
def setBgt (core : Option Nat) (v : Bgt) (s : State) : State :=
  modOcm (fun o => match core with
    | none => { o with bgtSpad := v }
    | some k => { o with bgtLoc := smPut ⟨0, 0⟩ o.bgtLoc k v }) s

/-- Save the words of a region: corrected where they can be; the first uncorrectable one ends it (R239, R240). -/
def bgtSave (core : Option Nat) (b i : Nat) : Nat → State → Option OWord × State
  | 0, s => (none, s)
  | n + 1, s =>
    let (good, s) := owCheck (bankWord core b i) s
    if good then bgtSave core b (i + 1) n s else (some (bankWord core b i), s)

/-- OCM_TEST_FAIL with a word (R240). -/
def testFail (w : OWord) (uncorr : Bool) (s : State) : State :=
  advisory 0x80 3 0x8004 (lastEccOf w uncorr) 0 (modOcm (fun o => { o with lastTest := lastEccOf w uncorr }) s)

/-- The engine's next region is claimed, saved, marched over and restored. -/
def bgtRegion (core : Option Nat) (out : MarchOut) (s : State) : State :=
  let p := bgtPos s core
  match bgtSkip s core (bgtDims core).1 p.bank with
  | none => s
  | some b =>
    let r := if b = p.bank then p.region else 0
    let next : Bgt := if r + 1 < (bgtDims core).2 then ⟨b, r + 1⟩ else ⟨(b + 1) % (bgtDims core).1, 0⟩
    let s := setBgt core next s
    match out with
    | .abandoned => cntAdd 0x80 0xB28 1 s
    | _ => match bgtSave core b (r * 256) 256 s with
      | (some w, s) => testFail w true (cntAdd 0x80 0xB30 1 s)
      | (none, s) => match out with
        | .mismatch i => cntAdd 0x80 0xB20 1 (testFail (bankWord core b (r * 256 + i % 256)) false (cntAdd 0x80 0xB38 1 s))
        | _ => cntAdd 0x80 0xB20 1 s

/-- BGT_REGION_START (R237). An engine runs while it is enabled and its clock runs. -/
def execBgtRegionStart (core : Option Nat) (out : MarchOut) (s : State) : Res :=
  match core with
  | none => if regFld s 0x80 0x11C 1 1 = 1 ∧ chartPs s ≠ 4 then ok (bgtRegion none out s) else ok s
  | some k =>
    if 48 ≤ k then .refused .illFormed
    else if regFld s 0x80 0x11C 0 0 = 1 ∧ chartPs s < 3 then ok (bgtRegion (some k) out s) else ok s

end Sys2Proof.Machine
end

