-- ==== Sys2Proof/Machine/Xmc.lean ====
section
/-! DEFINITION. Commands and events of external memory (09): flips, scrubs, tracking. -/
namespace Sys2Proof.Machine
open Sys2Proof

/-- XMC_CH_FLIP_ARM.ARM is set (R256). -/
def armFlip (ch : Nat) (s : State) : State := modChan ch (fun c => { c with flipArm := true }) s

/-- XMC_FLIP_ARM (R256). -/
def execXmcFlipArm (p : Path) (ch : Nat) (s : State) : Res :=
  if 32 ≤ ch then .refused .illFormed else regRow p (0x90 + ch / 2) (0x10C + 0x20 * (ch % 2)) (armFlip ch) s

/-! ### The scrubber (R257 to R259) -/

/-- A write of XMC_SCRUB_CTRL. -/
def writeScrubCtrl (w : Word) (s : State) : State :=
  let s := storeRw 0x90 0x200 w s
  let s := if bit w.toNat 0 then scrubGo s else s
  if bit w.toNat 1 then scrubAbort s else s

/-- SCRUB_GO (R257). -/
def execScrubGo (p : Path) (w : Word) (s : State) : Res := regRow p 0x90 0x200 (writeScrubCtrl w) s

/-- SCRUB_ABORT (R258). -/
def execScrubAbort (p : Path) (w : Word) (s : State) : Res := regRow p 0x90 0x200 (writeScrubCtrl w) s

/-- SCRUB_DONE (R258): the range is done. -/
def execScrubDone (s : State) : Res :=
  if s.xmc.scrub.busy then ok (endScrub false (scrubRead (s.xmc.scrub.last - s.xmc.scrub.first + 1) s)) else ok s

/-! ### Tracking (R261) -/

/-- XMC_TRACKING (R261): a device's drift and refresh-rate indication are read. -/
def execXmcTracking (ch rate : Nat) (atEnd : Bool) (s : State) : Res :=
  if 32 ≤ ch ∨ 3 ≤ rate then .refused .illFormed
  else if !(chan s ch).trained ∨ (chan s ch).selfRefresh then ok s
  else
    let first := atEnd && !(chan s ch).drift
    let s := modChan ch (fun c => { c with rate := rate, drift := c.drift || atEnd }) s
    ok (if first then advisory (0x90 + ch / 2) 3 0x9004 0 0 s else s)

end Sys2Proof.Machine
end

