-- ==== Sys2Proof/Machine/RegView.lean ====
section
/-! DEFINITION. What a read of a register word returns (R14 to R17, R42 to R53 and the register tables of each page): views of the
fields that other state holds, counters and their latches, and reads with an effect of their own. -/
namespace Sys2Proof.Machine
open Sys2Proof

/-- A signed value in 32 bits, saturating (R434). -/
def sat32 (i : Int) : Nat := toBits 32 (max (-2147483648) (min 2147483647 i))

/-- A word whose bit `i` tells whether number lo + i is in a list. -/
def mapWord (lo n : Nat) (f : Nat → Bool) : Nat := (List.range n).foldl (fun w i => w + b2n (f (lo + i)) * 2 ^ i) 0

/-- 32-bit word `i` of a byte list, least significant first. -/
def wordOf (b : List Byte) (i : Nat) : Nat := fld b (4 * i) 4

/-! ### Page headers (R42, R43) -/

/-- PAGE_CAPS: the capability bits that each page's chapter gives. -/
def pageCaps (page bt : Nat) : Nat :=
  if bt = 0x40 then 0xF
  else if bt = 0x80 ∨ bt = 0xB0 then 7
  else if bt = 0x90 then (if page = 0x90 then 3 else 2)
  else if bt ∈ [0x20, 0x10, 0x11, 0x03] then 3
  else if bt = 0xC0 ∨ bt = 0x02 then 1
  else 0

/-- ERR_MASK bits of FATAL sources, which read 0 (R42). -/
def fatalBits (bt : Nat) : Nat :=
  if bt = 0x01 then 1
  else if bt = 0x02 then 2 ^ 3 + 2 ^ 6
  else if bt = 0x03 then 1 + 2 ^ 6 + 2 ^ 7
  else if bt = 0x10 then 2 ^ 5
  else if bt = 0x80 ∨ bt = 0x90 then 2 ^ 2
  else if bt = 0xD0 then 2 ^ 5
  else 0

/-- A word of a page header. -/
def viewHdr (page bt inst off : Nat) (s : State) : Nat :=
  let h := hdr s page
  if off = 0x00 then bt * 2 ^ 24 + inst * 2 ^ 16 + 0x0200
  else if off = 0x04 then pageCaps page bt
  else if off = 0x08 then b2n h.freeze
  else if off = 0x0C then b2n h.ready + 2 * b2n h.freeze
  else if off = 0x10 then h.errStatus.toNat
  else if off = 0x14 then h.errMask.toNat
  else if off = 0x18 then (if h.errStatus = 0 then 0 else b2n h.firstValid * 2 ^ 31 + h.firstBit * 2 ^ 16 + h.firstCode)
  else if off = 0x1C then h.errCount
  else 0

/-! ### Media and I/O die pages -/

/-- BOOT_STAGE (R47). -/
def Stage.code : Stage → Nat
  | .powerGood => 0
  | .rom => 1
  | .verify => 2
  | .training => 3
  | .rebuild => 4
  | .linkUp => 5
  | .ready => 6

/-- CLKRST_DOMAIN_RUN (R22, R48): a domain runs while its PLL is locked and the power state does not stop it; the port's clock and
the Sextant oscillator run from start-up on (DEDUCED, log entry 42). -/
def domainRun (s : State) : Nat :=
  let ps := s.qcu.ps.inForce
  let lock (i : Nat) : Bool := bit s.chip.pll i
  let up := s.chip.stage != .powerGood
  b2n (lock 0 && decide (ps ≤ 2)) + 2 * b2n (lock 0 && (decide (ps ≤ 3) || s.chip.ps4Fabric.isSome)) + 4 * b2n (lock 1 && decide (ps ≤ 3))
  + 8 * b2n (lock 2) + 16 * b2n (lock 2) + 32 * b2n up + 64 * b2n (lock 3) + 128 * b2n up

/-- Words of the CHIP page (R47). -/
def viewChip (off : Nat) (s : State) : Option Nat :=
  if off = 0x100 then some 6
  else if off = 0x104 then some ((if s.chip.level1 then 1 else 2) + 256 * b2n s.chip.locked)
  else if off = 0x108 then some 0x020100E6
  else if off = 0x10C then some (Config.stepping % 65536)
  else if 0x110 ≤ off ∧ off ≤ 0x11C then some (bits Config.serial (8 * (off - 0x110) + 31) (8 * (off - 0x110)))
  else if off = 0x120 then some (s.qcu.ps.inForce + 16 * (lifecycle s).code + 256 * s.chip.stage.code)
  else none

/-- Words of the CLKRST page (R48). -/
def viewClkrst (off : Nat) (s : State) : Option Nat :=
  if off = 0x100 then some s.chip.pll
  else if off = 0x104 then some (domainRun s)
  else if off = 0x108 then some (2 ^ s.chip.cause)
  else if off = 0x114 then some (regFld s 0x01 0x114 2 0 + b2n s.chip.fmeas.isSome * 2 ^ 31)
  else if off = 0x118 then some s.chip.fmeasKhz
  else none

/-- PWR_LAST_FLUSH.CAUSE (R512). -/
def FlushCause.code : FlushCause → Nat
  | .none => 0
  | .input => 1
  | .modRst => 2
  | .pwrEn => 3
  | .over => 4
  | .trip => 5
  | .fatal => 6

/-- The sensor closest to its throttle temperature, the lowest-numbered of several; 0 while none has been read. -/
def nearestSensor (s : State) : Nat :=
  let gap (e : Nat × Int) : Int := (sensorLimits e.1).1 - e.2
  match s.pwr.temps with
  | [] => 0
  | e :: l => (l.foldl (fun (m : Nat × Int) x => if gap x < gap m then x else m) e).1

/-- PWR_LIMIT.L_W (R501, R512). -/
def limitNow (s : State) : Nat := if 3 ≤ s.qcu.ps.inForce then psLimit s else s.pwr.limitW

/-- PWR_PEAK_USED.US. -/
def peakUsed (s : State) : Nat := min 400000 (10 * s.pwr.peak.length)

/-- PWR_STATUS (R512). -/
def pwrStatus (s : State) : Nat :=
  b2n (brakeLevel s) + 2 * b2n (!s.pwr.brakeN) + 4 * b2n s.pwr.toggleHold + 8 * b2n (peakUsed s == 400000) + 16 * b2n s.pwr.throttle
  + 32 * b2n (s.pwr.dipCap || s.pwr.ride) + 64 * b2n s.pwr.holdupLow + 128 * b2n s.pwr.writeThrough

/-- Words of the PWR page (R512). -/
def viewPwr (off : Nat) (s : State) : Option Nat :=
  if off = 0x104 then some (pwrStatus s)
  else if off = 0x10C then some (limitNow s + 2 ^ 16 * (if s.pwr.peakGrant then 900 else limitNow s))
  else if off = 0x110 then some (s.pwr.lastMv % 2 ^ 16 + 2 ^ 16 * (s.pwr.lastMw / 1000 % 4096))
  else if off = 0x114 then some (peakUsed s)
  else if off = 0x11C then some (gatedCores s).length
  else if off = 0x120 then some (mapWord 0 32 (arrayGated s))
  else if off = 0x124 then some (mapWord 32 16 (arrayGated s))
  else if off = 0x128 then some (s.pwr.holdupMj % 65536 + 2 ^ 16 * (s.pwr.holdupUf % 65536))
  else if off = 0x130 then some (toBits 16 (smGet 0 s.pwr.temps (regFld s 0x02 0x12C 6 0)) + 2 ^ 16 * nearestSensor s)
  else if off = 0x134 then some (s.pwr.lastFlush.code + 8 * b2n s.pwr.lastComplete)
  else none

/-- Encoding of a role (R466). -/
def Role.code : Role → Nat
  | .none => 0
  | .owner => 1
  | .madelvar => 2

/-- XTS key pairs held (R355, R452): namespaces, contexts, indexes, and the media key. -/
def xtsKeys (s : State) : Nat := s.ftl.namespaces.length + s.ftl.quotas.length + b2n ((keyStore s).bind (·.media)).isSome

/-- Words of the MSP page (R466). -/
def viewMsp (off : Nat) (s : State) : Option Nat :=
  let m := s.msp
  let fu := m.fuses
  let svn := (m.fw.map (·.svn)).getD 0
  if off = 0x100 then some (svn + 256 * b2n m.imageValid + 512 * b2n m.recovery + 1024 * b2n m.update.isSome)
  else if off = 0x104 then some ((m.fw.map (·.version)).getD 0)
  else if off = 0x108 then some (Config.romVersion % 2 ^ 32)
  else if off = 0x10C then some fu.svnFloor
  else if off = 0x110 then some fu.keyRevoked
  else if off = 0x114 then some (fu.lcCount + 2 ^ 8 * fu.tampers + 2 ^ 12 * fu.clears + 2 ^ 16 * fu.udsUsed + 2 ^ 20 * fu.udsKilled)
  else if off = 0x118 then some m.tamperStatus
  else if off = 0x11C then some (regFld s 0x03 0x11C 0 0 + 14)
  else if off = 0x120 then some (match m.session with
    | none => 0
    | some e => 1 + 2 * e.role.code + 2 ^ 16 * e.id)
  else if off = 0x124 then some (m.progress.1 + 2 ^ 16 * m.progress.2)
  else if off = 0x128 then some (xtsKeys s + 2 ^ 16 * ((keyStore s).map fun k => k.psks.length).getD 0
    + 2 ^ 25 * b2n ((keyStore s).bind (·.ownerHash)).isSome)
  else if 0x130 ≤ off ∧ off ≤ 0x16C then some (wordOf ((m.fw.map (·.digest)).getD []) ((off - 0x130) / 4))
  else if 0x170 ≤ off ∧ off ≤ 0x1AC then some (match identity s with
    | none => 0
    | some k => wordOf (sha3_512 k) ((off - 0x170) / 4))
  else none

/-- Bits of a list of priorities. -/
def prioBits (l : List Nat) : Nat := mapWord 0 8 fun p => l.contains p

/-- Words of the NIU page (R432). -/
def viewNiu (off : Nat) (s : State) : Option Nat :=
  if off = 0x104 then some (b2n s.niu.linkUp + 2 * b2n s.niu.fecDegraded + 4 * s.niu.laneLock)
  else if off = 0x108 then some (Config.macAddr % 2 ^ 32)
  else if off = 0x10C then some (Config.macAddr / 2 ^ 32 % 2 ^ 16)
  else if off = 0x168 then some (prioBits s.niu.xoff + 2 ^ 8 * prioBits (s.niu.paused.map Prod.fst) + 2 ^ 16 * (s.niu.flushing % 256))
  else if off = 0x16C then some (Config.ptpLat % 2 ^ 32)
  else none

/-- Words of the SEXTANT page (R434). -/
def viewSextant (off : Nat) (s : State) : Option Nat :=
  if off = 0x104 then some (s.sext.st.code + 8 * b2n s.sext.todSet)
  else if off = 0x110 then some (sat32 s.sext.offset)
  else if off = 0x114 then some (sat32 s.sext.freqPpb)
  else if off = 0x128 then some (lossSeconds s)
  else if off = 0x12C then some (lo32 s.sext.gm)
  else if off = 0x130 then some (hi32 s.sext.gm)
  else if off = 0x134 then some (sat32 s.sext.pathDelay)
  else none

/-- STRAIT_MEM_STATUS.STATE (R436). -/
def memState (s : State) (n m : Nat) : Nat :=
  let b := member s n m
  if b.down then 3 else if b.reply.isNone then 0 else if memberInStep s n m then 1 else 2

/-- STRAIT_GRP_STATUS (R436): the module itself is a member of a group in use. -/
def grpStatus (s : State) (n : Nat) : Nat :=
  let g := grpSlot s n
  let others := g.members.filter fun e => e.2.valid && e.1 != g.self
  (others.length + b2n (g.group != 0)) + 2 ^ 16 * (others.filter fun e => memberInStep s n e.1).length

/-- Words of the STRAIT page (R436). -/
def viewStrait (off : Nat) (s : State) : Option Nat :=
  let n := selGrp s
  let m := selMem s
  let b := member s n m
  if off = 0x118 then some s.strait.session
  else if off = 0x124 then some ((grpSlot s n).group + 2 ^ 16 * (grpSlot s n).self)
  else if off = 0x128 then some (grpStatus s n)
  else if off = 0x130 then some (b2n b.valid + 2 * b2n b.ipv6)
  else if 0x134 ≤ off ∧ off ≤ 0x140 then some (bits b.addrNext (32 * (3 - (off - 0x134) / 4) + 31) (32 * (3 - (off - 0x134) / 4)))
  else if off = 0x144 then some (memState s n m + 4 * b2n b.chartDiff + 8 * b2n b.timeBad + 16 * b2n b.offBad + 32 * b2n b.stale)
  else if off = 0x148 then some (sat32 b.offset)
  else if off = 0x14C then some (sat32 b.rtt)
  else none

/-- Words of the QCU page (R395). -/
def viewQcu (off : Nat) (s : State) : Option Nat :=
  if off = 0x108 then some (s.qcu.conns.length + 2 ^ 16 * s.qcu.ctrls.length)
  else if off = 0x10C then some (ioQueues s)
  else if off = 0x114 then some s.ftl.namespaces.length
  else if off = 0x118 then some (s.qcu.ps.selected + 8 * b2n s.qcu.ps.trans.isSome)
  else none

/-- A channel is in service once start-up has reached the map rebuild (DEDUCED, log entry 42). -/
def channelUp (s : State) (ch : Nat) : Bool := decide (4 ≤ s.chip.stage.code) && !s.ftl.downChannels.contains ch

/-- Erase counts of the superblocks in service for which `f` holds: lowest, highest, sum, number of them, out of `total`. Superblocks
not listed have never been erased. -/
def eraseStats (s : State) (total : Nat) (f : Nat → Bool) : Nat × Nat × Nat × Nat :=
  let l := s.ftl.sbs.filter fun e => f e.1
  let live := (l.filter fun e => e.2.st != .retired).map fun e => e.2.erases
  let lo := if l.length < total then 0 else live.foldl min (live.headD 0)
  (lo, live.foldl max 0, live.foldl (· + ·) 0, total - (l.length - live.length))

/-- An operation is in progress on a die: a program in flight, or the erase of its superblock. -/
def dieBusy (s : State) (d : Nat) : Bool :=
  (s.ftl.progs.any fun p => dieOf p.sb (uSlot p.unit) == d)
  || (s.ftl.sbs.any fun e => e.2.st == .erasing && e.1 % 32 == 16 * (d / 16 / 32) + d % 16)

/-- Words of an MTE page (R363). No command leaves an erase suspended. -/
def viewMte (page off : Nat) (s : State) : Option Nat :=
  let g := page - 0xC0
  let d := (4 * g + regFld s page 0x110 1 0) * 16 + regFld s page 0x110 5 2
  if 0x100 ≤ off ∧ off ≤ 0x10C then
    let ch := 4 * g + (off - 0x100) / 4
    some (b2n (channelUp s ch) + 2 * (s.ftl.retiredDies.filter fun d => d / 16 == ch).length)
  else if off = 0x114 then some (b2n (dieRetired s d) + 2 * b2n (dieBusy s d) + 8 * (smGet 0 s.ftl.suspends d % 32))
  else if off = 0x118 then
    let e := eraseStats s 2048 fun n => n % 32 == 16 * (d / 16 / 32) + d % 16
    some (if dieRetired s d then 0 else min e.1 0xFFFF + 2 ^ 16 * min e.2.1 0xFFFF)
  else if off = 0x120 then
    let lv := regFld s page 0x11C 7 4
    some (if lv = 0 then 0 else (smGet 64 s.ftl.levels ((d * 8 + regFld s page 0x11C 2 0) * 16 + lv) + 64) % 128)
  else if off = 0x12C then some 0
  else if off = 0x130 then some (smGet 0 s.ftl.diag g % 2 ^ 26)
  else none

/-- Words of the FTL page (R366). Superblocks in service are those that hold data and are not retired (log entry 42). -/
def viewFtl (off : Nat) (s : State) : Option Nat :=
  let e := eraseStats s sbReserved fun _ => true
  if off = 0x100 then some (b2n s.ftl.readOnly + 2 * b2n s.ftl.foreground + 4 * b2n s.ftl.background + 8 * b2n s.ftl.rebuilding)
  else if off = 0x104 then some 65536
  else if off = 0x108 then some (sbFree s)
  else if off = 0x10C then some (sbSpare s)
  else if off = 0x110 then some (sbRetired s)
  else if off = 0x114 then some (sbSlc s)
  else if off = 0x118 then some (slcLimit s / 1000000000)
  else if off = 0x120 then some (sbCrit + 2 ^ 16 * regFld s 0xD0 0x120 31 16)
  else if off = 0x140 then some (min e.1 0xFFFF + 2 ^ 16 * min e.2.1 0xFFFF)
  else if off = 0x144 then some (e.2.2.1 / max 1 e.2.2.2)
  else none

/-- Words of the FILTER page (R368). Every scan completes within its command. -/
def viewFilter (off : Nat) (s : State) : Option Nat :=
  if off = 0x100 ∨ off = 0x104 then some 0
  else if off = 0x108 then some (s.ftl.filterRefusal.1 + 2 ^ 16 * (s.ftl.filterRefusal.2 % 256))
  else none

/-- Pages with an unmasked bit set in ERR_STATUS: word `w` of ERR_SUMMARY. -/
def errSummary (s : State) (w : Nat) : Nat := mapWord (32 * w) 32 fun p => (hdr s p).errStatus &&& ~~~(hdr s p).errMask != 0

/-- Words of the ERR page (R51). -/
def viewErr (off : Nat) (s : State) : Option Nat :=
  if off = 0x100 then some (s.err.head + 256 * s.err.wraps)
  else if off = 0x104 then some s.err.tail
  else if off = 0x108 then some (occupancy s.err + 256 * b2n s.err.overflow)
  else if off = 0x10C then some (regFld s 0xE0 0x10C 3 0 + 16)
  else if 0x120 ≤ off ∧ off ≤ 0x13C then some (errSummary s ((off - 0x120) / 4))
  else if 0x140 ≤ off ∧ off ≤ 0x14C then some (wordOf ((s.err.fatalLast.map ErrRec.bytes).getD []) ((off - 0x140) / 4))
  else if 0x400 ≤ off ∧ off ≤ 0x7FC then
    some (wordOf (((smFind s.err.ring ((off - 0x400) / 16)).map ErrRec.bytes).getD []) ((off - 0x400) % 16 / 4))
  else none

/-! ### Compute-die pages -/

/-- CHART_STATUS (R90). -/
def chartStatus (s : State) : Nat :=
  b2n (s.chart.active == some true) + 2 * b2n s.chart.swap.isSome + 4 * b2n s.chart.cycling + 8 * b2n (s.sext.st == .lost)
  + 2 ^ 16 * (s.chart.lastSlot % 256)

/-- Encoding of a context's state (R90). -/
def CtxSt.code : CtxSt → Nat
  | .loading => 1
  | .ready => 2
  | .running => 3
  | .preempted => 4
  | .faulted => 5
  | .unloading => 6

/-- CHART_CTX_STATE (R90). -/
def ctxState (s : State) (n : Nat) : Nat :=
  match ctx? s n with
  | none => 0
  | some c => c.st.code + 8 * b2n c.parked + 16 * c.island + 2 ^ 16 * (c.active % 8192)

/-- Words of the CHART page (R90). -/
def viewChart (off : Nat) (s : State) : Option Nat :=
  let sel := regFld s 0x30 0x120 7 0
  let bk := if regFld s 0x30 0x120 8 8 = 1 then s.chart.bankB else s.chart.bankA
  let n := regFld s 0x30 0x140 9 0
  let isl := regFld s 0x30 0x150 5 0
  let slot (f : Slot → Word) : Option Nat := some ((bk.slots[sel]?.map fun x => (f x).toNat).getD 0)
  if off = 0x100 then some (b2n s.chart.enable + 2 * b2n (match s.chart.swap with | some w => w.tag.isNone | none => false))
  else if off = 0x104 then some (chartStatus s)
  else if off = 0x108 then some (((activeBank s).map (·.period)).getD 0)
  else if off = 0x10C then some (((activeBank s).map (·.phase)).getD 0)
  else if off = 0x124 then slot (·.w0)
  else if off = 0x128 then slot (·.w1)
  else if off = 0x12C then slot (·.w2)
  else if off = 0x130 then slot (·.w3)
  else if off = 0x134 then some (bk.slots.length + 2 ^ 31 * b2n bk.written)
  else if off = 0x144 then some (ctxState s n)
  else if off = 0x148 then some 0
  else if off = 0x14C then some (match ctx? s n with | some c => if c.st = .faulted then c.fault else 0 | none => 0)
  else if off = 0x154 then some (islandMap s isl % 2 ^ 32)
  else if off = 0x158 then some (islandMap s isl / 2 ^ 32 % 2 ^ 16)
  else if off = 0x15C then some (if islandMap s isl = 0 then 0 else if islandBusy s isl then 2 else 1)
  else none

/-- The step that the job on a core belongs to. -/
def coreStep (s : State) (k : Nat) : Option Step := ((core s k).run.bind fun r => ctx? s r.ctx).bind (·.step)

/-- MXC_STATUS (R153). -/
def mxcStatus (s : State) (k : Nat) : Nat :=
  let mat := (core s k).run.bind (·.mat)
  b2n mat.isSome + 2 * b2n ((mat.map (·.checked)).getD false) + 4 * b2n (arrayGated s k)
  + (match coreIsland s k with | some i => 8 + 16 * i | none => 0) + 2 ^ 10 * b2n (core s k).degraded

/-- Words of an MXC page (R153, R216). Every vector instruction completes within its command. -/
def viewMxc (k off : Nat) (s : State) : Option Nat :=
  let c := core s k
  if off = 0x104 then some (mxcStatus s k)
  else if off = 0x108 then some (Config.fuseStatus k % 2 ^ 32)
  else if off = 0x10C then some (regWord s (0x40 + k) 0x10C).toNat
  else if off = 0x114 then some c.lastFail
  else if off = 0x118 then some c.skewData
  else if off = 0x11C then some c.skewScale
  else if off = 0x120 then some c.skewExpect
  else if off = 0x400 then some (match coreStep s k with | some st => 2 * st.bank + 4 * b2n st.compat | none => 0)
  else if off = 0x404 then some c.vsuFault
  else if off = 0x408 then some c.vsuIndex
  else none

/-- The digest of the active bank (R206, R219). -/
def sfuDigest (s : State) : List Byte := s.sfu.digest.getD (sha3_512 ((List.range 4096).flatMap fun w => leBytes 4 (Config.sfuDefault w)))

/-- Words of the SFU page (R219) besides SFU_TBL_DATA. Every commit completes within its command. -/
def viewSfu (off : Nat) (s : State) : Option Nat :=
  if off = 0x100 then some (b2n (s.chip.level1 || s.sfu.compat1))
  else if off = 0x104 then some (s.sfu.active + 2 * b2n (oldInUse s))
  else if off = 0x108 then some (s.sfu.addr + 2 ^ 16 * s.sfu.readBank)
  else if off = 0x110 then some 0
  else if off = 0x114 then some s.sfu.result
  else if 0x140 ≤ off ∧ off ≤ 0x17C then some (wordOf (sfuDigest s) ((off - 0x140) / 4))
  else none

/-- Encoding of a bank's physical state (R246). -/
def Phys.code : Phys → Nat
  | .on => 0
  | .ret => 1
  | .off => 2

/-- Two bits for each of the 16 banks that a power register names. -/
def bankFields (bs : List BankId) (f : BankId → Nat) : Nat := bs.zipIdx.foldl (fun w e => w + f e.1 * 4 ^ e.2) 0

/-- Words of the OCM page (R246). Ports are in fixed mode until start-up or a device reset has ended, and in test mode (R225). -/
def viewOcm (off : Nat) (s : State) : Option Nat :=
  let noCore := decide (48 ≤ regFld s 0x80 0x130 5 0)
  if off = 0x100 then some (b2n s.ocm.diag)
  else if off = 0x104 then some (b2n (s.chip.stage != .ready || s.ocm.diag) + 2 * b2n s.ocm.initBusy + 4 * b2n s.ocm.wiping)
  else if off = 0x108 then some s.ocm.atoll
  else if off = 0x10C then some (regFld s 0x80 0x10C 12 0 + 2 ^ 31 * b2n s.ocm.flipArm)
  else if off = 0x120 then some (s.ocm.bgtSpad.bank + 64 * s.ocm.bgtSpad.region)
  else if off = 0x128 then some s.ocm.lastEcc
  else if off = 0x12C then some s.ocm.lastTest
  else if off = 0x134 ∨ (0x140 ≤ off ∧ off ≤ 0x14C) then some (if off = 0x134 ∧ noCore then 0 else bankFields (pwrBanks s off) (bankPwr s))
  else if off = 0x138 ∨ (0x150 ≤ off ∧ off ≤ 0x15C) then
    some (if off = 0x138 then (if noCore then 0 else bankFields (pwrBanks s 0x134) fun b => (bankPhys s b).code)
      else bankFields (pwrBanks s (off - 0x10)) fun b => (bankPhys s b).code)
  else none

/-- Words of an XMC page (R279). -/
def viewXmc (page off : Nat) (s : State) : Option Nat :=
  let ch := chan s (2 * (page - 0x90) + (off - 0x100) / 0x20)
  let o := (off - 0x100) % 0x20
  if 0x100 ≤ off ∧ off < 0x140 then
    if o = 0x00 then some (b2n ch.trained + 2 * b2n ch.selfRefresh + 4 * ch.rate + 16 * b2n ch.drift)
    else if o = 0x04 then some (ch.margin % 2 ^ 24)
    else if o = 0x0C then some (b2n ch.flipArm)
    else if o = 0x10 then some (lo32 ch.lastAddr / 64 * 64)
    else if o = 0x14 then some (hi32 ch.lastAddr % 128 + 128 * b2n ch.lastUncorr + 256 * ch.lastSym)
    else none
  else if page ≠ 0x90 then none
  else
    let c := s.xmc.scrub
    if off = 0x200 then some (regWord s 0x90 0x200).toNat
    else if off = 0x204 then some (b2n c.busy + 2 * b2n c.done + 4 * b2n c.aborted + 8 * b2n c.rangeErr)
    else if off = 0x218 then some (lo32 (c.firstFail.getD 0))
    else if off = 0x21C then some (hi32 (c.firstFail.getD 0) % 128 + 2 ^ 31 * b2n c.firstFail.isSome)
    else if off = 0x220 then some (lo32 c.lastFail)
    else if off = 0x224 then some (hi32 c.lastFail % 128)
    else none

/-- A page lies in a slot of the pool. -/
def PageAt.inSlot : PageAt → Bool
  | .absent _ => false
  | _ => true

/-- A page has been demoted and not brought back. -/
def PageAt.isAbsent : PageAt → Bool
  | .absent _ => true
  | .fetching _ _ => true
  | _ => false

/-- Pages of a context for which a test holds. -/
def pagesWith (c : Ctx) (f : PageAt → Bool) : Nat :=
  (c.seqs.map fun e => (e.2.pages.filter fun p => f p.2.at_).length).foldl (· + ·) 0

/-- Words of the COMPASS page (R282). -/
def viewCompass (off : Nat) (s : State) : Option Nat :=
  let c := ctx? s (regFld s 0xA0 0x120 9 0)
  if off = 0x104 then some (min 255 s.compass.quar.length)
  else if off = 0x108 then some 228864
  else if off = 0x10C then some (framesFree s)
  else if off = 0x110 then some (s.compass.frames.filter fun e => 2000 ≤ e.2 && e.2 < 3000).length
  else if off = 0x124 then some ((c.map fun c => cdiv c.pkg.xmBytes frameBytes).getD 0)
  else if off = 0x128 then some ((c.map (·.poolSlots)).getD 0)
  else if off = 0x12C then some ((c.map fun c => c.poolSlots - pagesWith c PageAt.inSlot).getD 0)
  else if off = 0x130 then some ((c.map fun c => pagesWith c PageAt.isAbsent).getD 0)
  else if off = 0x134 then some (b2n ((c.map (·.streamed)).getD false))
  else if off = 0x140 then some (match s.compass.quarInfo with | some (x, e, _, _) => x + 2 ^ 12 * e | none => 0)
  else if off = 0x144 then some (match s.compass.quarInfo with | some (_, _, n, _) => n | none => 0)
  else if off = 0x148 then some (match s.compass.quarInfo with | some (_, _, _, b) => lo32 b | none => 0)
  else if off = 0x14C then some (match s.compass.quarInfo with | some (_, _, _, b) => hi32 b | none => 0)
  else none

/-- SRE_IDX_STATE (R320). -/
def idxCode (s : State) (i : Index) : Nat :=
  match i.st with
  | .loading t => if now s < t then 1 else 2
  | .ready => 2
  | .compacting => 3
  | .switching => 4
  | .damaged => 5

/-- The index that SRE_IDX_SEL names. -/
def selIdx (s : State) : Option Index := idx? s (regFld s 0xB0 0x120 3 0)

/-- Tombstoned IDs of an index. -/
def tombs (i : Index) : Nat := (i.nodes.filter fun e => e.2.del.isSome).length

/-- Words of the SRE page (R320) besides the epochs. -/
def viewSre (off : Nat) (s : State) : Option Nat :=
  let i := selIdx s
  if off = 0x104 then
    let f := (s.sre.queries.filter fun e => e.2.opened.isSome).length
    some (f + 2 ^ 16 * (s.sre.queries.length - f))
  else if off = 0x110 then some ((s.sre.idx.map fun e => e.2.nodes.length).foldl (· + ·) 0)
  else if off = 0x124 then some ((i.map (idxCode s)).getD 0)
  else if off = 0x128 then some ((i.map fun i =>
    (i.cfg.metric - 1) + 4 * b2n i.cfg.e16 + 8 * (i.cfg.dim - 1) + 2 ^ 16 * (i.cfg.m - 1) + 2 ^ 24 * (i.cfg.degree - 1)).getD 0)
  else if off = 0x12C then some ((i.map fun i => i.cfg.shard).getD 0)
  else if off = 0x140 then some ((i.map fun i => i.nodes.length - tombs i).getD 0)
  else if off = 0x144 then some ((i.map tombs).getD 0)
  else if off = 0x148 then some ((i.map fun i => min 100 (i.deltaUsed * 100 / max 1 (deltaCap i.cfg))).getD 0)
  else if off = 0x14C then some ((i.bind (·.lostId)).getD 0xFFFFFFFF)
  else none

/-! ### Words, pairs and counters -/

/-- The view of a word of a block, if other state gives it. -/
def viewWord (page bt off : Nat) (s : State) : Option Nat :=
  if bt = 0x00 then viewChip off s
  else if bt = 0x01 then viewClkrst off s
  else if bt = 0x02 then viewPwr off s
  else if bt = 0x03 then viewMsp off s
  else if bt = 0x10 then viewNiu off s
  else if bt = 0x11 then viewSextant off s
  else if bt = 0x12 then viewStrait off s
  else if bt = 0x20 then viewQcu off s
  else if bt = 0x30 then viewChart off s
  else if bt = 0x40 then viewMxc (page - 0x40) off s
  else if bt = 0x70 then viewSfu off s
  else if bt = 0x80 then viewOcm off s
  else if bt = 0x90 then viewXmc page off s
  else if bt = 0xA0 then viewCompass off s
  else if bt = 0xB0 then viewSre off s
  else if bt = 0xC0 then viewMte page off s
  else if bt = 0xD0 then viewFtl off s
  else if bt = 0xD8 then viewFilter off s
  else if bt = 0xE0 then viewErr off s
  else none

/-- The value of a register pair that latches as counters do, by the offset of its low half (R90, R320, R366, R434). -/
def pairValue (page off : Nat) (s : State) : Option Nat :=
  if page = 0x30 ∧ off = 0x110 then some s.chart.cycleT
  else if page = 0x30 ∧ off = 0x118 then some s.chart.swapT
  else if page = 0x11 ∧ off = 0x108 then some s.time.master
  else if page = 0xB0 ∧ off = 0x130 then some (((selIdx s).map (·.last)).getD 0)
  else if page = 0xB0 ∧ off = 0x138 then some (((selIdx s).map (·.floor)).getD 0)
  else if page = 0xD0 ∧ off = 0x130 then some (allocUnits s)
  else if page = 0xD0 ∧ off = 0x138 then some (mappedUnits s)
  else none

/-- A counter as it is read: those of a context or of a core follow the selecting register (R91, R248, R284). -/
def cntView (page off : Nat) (s : State) : Nat :=
  let sel (n : Nat) : Nat := ((ctx? s n).map fun c => smGet 0 c.cnt (addr page off)).getD 0
  if page = 0x30 ∧ 0x900 ≤ off then sel (regFld s 0x30 0x140 9 0)
  else if page = 0xA0 ∧ 0x900 ≤ off then sel (regFld s 0xA0 0x120 9 0)
  else if page = 0x80 ∧ 0xA00 ≤ off ∧ off ≤ 0xA30 then smGet 0 s.ocm.locConf (regFld s 0x80 0x130 5 0 * 8 + (off - 0xA00) / 8)
  else cntGet s page off

/-- Number of an access path, for its latches (R17). -/
def pathNum : Path → Nat
  | .inband => 0
  | .sideband => 1
  | .mgmt => 2

/-- Key of a latch. -/
def latchKey (p : Path) (page off : Nat) : Nat := pathNum p * 2 ^ 20 + addr page off

/-- Read a low half: the word, and the state with the high half latched for the path (R16, R17). -/
def readLow (p : Path) (page off v : Nat) (s : State) : Word × State :=
  (BitVec.ofNat 32 v, setLatch (smPut 0 s.latch (latchKey p page off) (hi32 v)) s)

/-- A word of a page that the page map lists, without the effects of reading it. -/
def wordView (page bt inst off : Nat) (s : State) : Nat :=
  if off < 0x20 then viewHdr page bt inst off s
  else (viewWord page bt off s).getD ((regWord s page off).toNat &&& rwMask page off)

/-- Read a register word through a path (R14 to R17, R45). -/
def readWord (p : Path) (page off : Nat) (s : State) : Word × State :=
  match pageBlock page with
  | none => (0, s)
  | some (bt, inst) =>
    if 0x800 ≤ off then
      if off % 8 = 0 then readLow p page off (cntView page off s) s else (BitVec.ofNat 32 (smGet 0 s.latch (latchKey p page (off - 4))), s)
    else match pairValue page off s, pairValue page (off - 4) s with
      | some v, _ => readLow p page off v s
      | none, some _ => (BitVec.ofNat 32 (smGet 0 s.latch (latchKey p page (off - 4))), s)
      | none, none =>
        if page = 0x70 ∧ off = 0x10C then (tblDataWord s, readTblData s) else (BitVec.ofNat 32 (wordView page bt inst off s), s)

/-- Read `n` words in ascending order (R35). -/
def readWords (p : Path) (page : Nat) : Nat → Nat → State → List Word × State
  | 0, _, s => ([], s)
  | n + 1, off, s =>
    let (w, s) := readWord p page off s
    let (l, s) := readWords p page n (off + 4) s
    (w :: l, s)

/-- COUNTER_LOW_READ (R16, R17). -/
def execCounterLowRead (p : Path) (page off : Nat) (s : State) : Res :=
  if !s.chip.powered then ok s
  else if off % 4 ≠ 0 then ok (emit (.reg p 0x0002 []) s)
  else if 0xFFC < off then ok (emit (.reg p 0x0003 []) s)
  else match regGate p page off false s with
    | some c => ok (emit (.reg p c []) s)
    | none =>
      let (w, s) := readWord p page off s
      ok (emit (.reg p 0 [w]) s)

end Sys2Proof.Machine
end

