-- ==== Sys2Proof/Machine/RegWrite.lean ====
section
/-! DEFINITION. Writes of register words (R14, R15, R42, R43 and the register tables of each page), the rows of the register pages of
02, and the two host-side access paths: Register Window commands and the sideband (R33 to R40). -/
namespace Sys2Proof.Machine
open Sys2Proof

/-! ### Page headers (R42 to R44) -/

/-- PAGE_CTRL.CNT_FREEZE is written. -/
def writeFreeze (page : Nat) (on : Bool) (s : State) : State :=
  if (pageBlock page).isNone then s else modHdr page (fun h => { h with freeze := on }) s

/-- PAGE_CTRL.CNT_CLEAR is set: every counter of the page is 0, those kept for each context and each core among them. -/
def clearCounters (page : Nat) (s : State) : State :=
  let s := setCnt (s.cnt.filter fun e => e.1 / 4096 != page) s
  let s := setCtxs (s.ctxs.map fun e => (e.1, { e.2 with cnt := e.2.cnt.filter fun k => k.1 / 4096 != page })) s
  if page = 0x80 then modOcm (fun o => { o with locConf := [] }) s else s

/-- PAGE_CTRL.ERR_COUNT_CLR is set. -/
def clearErrCount (page : Nat) (s : State) : State := modHdr page (fun h => { h with errCount := 0 }) s

/-- A write of PAGE_CTRL. -/
def writePageCtrl (page : Nat) (w : Word) (s : State) : State :=
  let s := writeFreeze page (bit w.toNat 0) s
  let s := if bit w.toNat 1 then clearCounters page s else s
  if bit w.toNat 2 then clearErrCount page s else s

/-- A write of ERR_STATUS: ERR_FIRST clears when ERR_STATUS comes to read 0 (R43). -/
def clearErrStatus (page : Nat) (w : Word) (s : State) : State :=
  modHdr page (fun h =>
    let e := h.errStatus &&& ~~~w
    if e = 0 then { h with errStatus := 0, firstValid := false, firstBit := 0, firstCode := 0 } else { h with errStatus := e }) s

/-- A write of ERR_MASK: bits of FATAL sources stay 0. -/
def writeErrMask (page bt : Nat) (w : Word) (s : State) : State :=
  modHdr page (fun h => { h with errMask := w &&& ~~~BitVec.ofNat 32 (fatalBits bt) }) s

/-- CNT_FREEZE (R42). -/
def execCntFreeze (p : Path) (page : Nat) (on : Bool) (s : State) : Res := regRow p page 0x008 (writeFreeze page on) s

/-- CNT_CLEAR (R42, R44). -/
def execCntClear (p : Path) (page : Nat) (s : State) : Res := regRow p page 0x008 (clearCounters page) s

/-- ERR_COUNT_CLR (R42). -/
def execErrCountClr (p : Path) (page : Nat) (s : State) : Res := regRow p page 0x008 (clearErrCount page) s

/-- ERR_STATUS_CLEAR (R43). -/
def execErrStatusClear (p : Path) (page : Nat) (w : Word) (s : State) : Res := regRow p page 0x010 (clearErrStatus page w) s

/-! ### CHIP page (R5 to R7, R47, R56) -/

/-- Unload a context as level 1 is selected: nothing is awaited, no job fault is recorded, IFLEVEL_UNLOAD is (R56). -/
def levelUnload (n : Nat) (s : State) : State := advisory 0x00 2 0x0008 n 0 (unloadNow n s)

/-- Level 1 applies (R56): every context is unloaded, the banks are empty, a pending swap is refused with CHART_BANK_EMPTY. -/
def enterLevel1 (s : State) : State :=
  let s := (s.ctxs.map Prod.fst).foldl (fun s n => levelUnload n s) s
  modChip (fun c => { c with level1 := true }) (clearBanks (refuseSwap 0x3018 s))

/-- A write of CHIP_IFLEVEL_SEL (R6, R7, R56). -/
def selectLevel (w : Word) (s : State) : State :=
  if s.chip.locked then advisory 0x00 1 0x0007 0 0 s
  else if w = 2 then modChip (fun c => { c with locked := true }) s
  else if w = 1 then modChip (fun c => { c with locked := true }) (enterLevel1 s)
  else advisory 0x00 0 0x0006 0 0 s

/-- IFLEVEL_SELECT (R6, R7, R56). -/
def execIflevelSelect (p : Path) (w : Word) (s : State) : Res := regRow p 0x00 0x104 (selectLevel w) s

/-! ### CLKRST page (R48 to R50, R152, R479, R480) -/

/-- A write of CLKRST_DEV_RESET (R48, R49). The first of several starts the 10 µs. -/
def devResetKey (w : Word) (s : State) : State :=
  if w = 0xA5C3 then modChip (fun c => { c with devResetDue := some (c.devResetDue.getD (now s + 10000)) }) s
  else advisory 0x01 2 0x0103 0 0 s

/-- CLKRST_DEV_RESET (R49). -/
def execClkrstDevReset (p : Path) (w : Word) (s : State) : Res := regRow p 0x01 0x10C (devResetKey w) s

/-- A step that an island reset meets ends with ISLAND_RESET; its record is nested under no other error (R480). -/
def islandFault (n : Nat) (s : State) : State :=
  let hs := s.err.handlings
  let s := stepFaultAt (0x30, 4) n none 0x301C false (modErr (fun e => { e with handlings := [] }) s)
  modErr (fun e => { e with handlings := hs ++ e.handlings }) s

/-- A core under island reset: planes, shift codes, accumulator memory, tile descriptors, the instruction in flight, and the
fields of its page whose Reset column reads I (R152). -/
def resetCore (k : Nat) (s : State) : State :=
  let s := modCore k (fun c => { c with run := none, acc := [], accErr := [], active := Plane.empty, shadow := Plane.empty }) s
  setRegWord (0x40 + k) 0x10C 0 s

/-- Reset an island that has cores (R480). -/
def islandReset (i : Nat) (s : State) : State :=
  let ns := ((islandCtxs s i).filter fun e => e.2.step.isSome || e.2.parked).map Prod.fst
  let s := ns.foldl (fun s n => islandFault n s) s
  let s := (islandCores s i).foldl (fun s k => resetCore k s) s
  startDue (cntAdd 0x01 0x808 1 s)

/-- A write of CLKRST_ISLAND_RESET (R48, R50). -/
def islandGo (w : Word) (s : State) : State :=
  let s := storeRw 0x01 0x110 w s
  let i := bits w.toNat 5 0
  if !bit w.toNat 31 then s
  else if 48 ≤ i ∨ islandMap s i = 0 then advisory 0x01 3 0x0104 0 0 s
  else islandReset i s

/-- ISLAND_RESET_GO (R48, R50, R480). -/
def execIslandResetGo (p : Path) (w : Word) (s : State) : Res := regRow p 0x01 0x110 (islandGo w) s

/-- A write of CLKRST_FMEAS_SEL (R48): START measures the domain named; a measurement in progress goes on. -/
def fmeasSel (w : Word) (s : State) : State :=
  let s := storeRw 0x01 0x114 w s
  if bit w.toNat 31 ∧ s.chip.fmeas.isNone then modChip (fun c => { c with fmeas := some (bits w.toNat 2 0) }) s else s

/-- FMEAS_START (R48). -/
def execFmeasStart (p : Path) (w : Word) (s : State) : Res := regRow p 0x01 0x114 (fmeasSel w) s

/-- FMEAS_DONE (R48): the result is written; the arithmetic domain reads 3,600,000. -/
def execFmeasDone (khz : Nat) (s : State) : Res :=
  match s.chip.fmeas with
  | none => ok s
  | some d => ok (modChip (fun c => { c with fmeas := none, fmeasKhz := if d = 0 then 3600000 else khz % 2 ^ 32 }) s)

/-- PLL_UNLOCK (R48): PLL 0 to 3, or 4 the port's recovered clock. Compute, memory and media PLL are FATAL; the recovered clock is
CDR_UNLOCK. -/
def execPllUnlock (pll : Nat) (s : State) : Res :=
  if 5 ≤ pll then .refused .illFormed
  else if !bit s.chip.pll pll then ok s
  else
    let s := cntAdd 0x01 0x800 1 (modChip (fun c => { c with pll := c.pll - 2 ^ pll }) s)
    if pll ≤ 2 then ok (raiseFatal 0x0101 0x01 (some 0) 0 0 s)
    else if pll = 4 then ok (advisory 0x01 1 0x0102 0 0 s) else ok s

/-! ### ERR page (R51, R54) -/

/-- A write of ERR_RING_TAIL (R54). -/
def writeTail (w : Word) (s : State) : State :=
  let t := bits w.toNat 6 0
  if 64 < (s.err.head + 128 - t) % 128 then advisory 0xE0 0 0xE001 0 0 s else modErr (fun e => { e with tail := t }) s

/-- ERR_RING_TAIL_WRITE (R54). -/
def execErrRingTailWrite (p : Path) (w : Word) (s : State) : Res := regRow p 0xE0 0x104 (writeTail w) s

/-! ### The word dispatcher (R14, R15) -/

/-- Block words of the media and I/O die whose writes act. -/
def writeIoDie (page bt off : Nat) (w : Word) (s : State) : State :=
  if bt = 0x00 ∧ off = 0x104 then selectLevel w s
  else if bt = 0x01 ∧ off = 0x10C then devResetKey w s
  else if bt = 0x01 ∧ off = 0x110 then islandGo w s
  else if bt = 0x01 ∧ off = 0x114 then fmeasSel w s
  else if bt = 0x10 ∧ off = 0x100 then writeNiuCtrl w s
  else if bt = 0x10 ∧ ipOffs.contains off then writeIp off w s
  else if bt = 0x11 ∧ off = 0x100 then writeSource w s
  else if bt = 0x11 ∧ off = 0x120 then writeTod w s
  else if bt = 0x12 ∧ off = 0x124 then writeGrpCfg w s
  else if bt = 0x12 ∧ off = 0x130 then writeMemCfg w s
  else if bt = 0x12 ∧ 0x134 ≤ off ∧ off ≤ 0x140 then
    modMember (selGrp s) (selMem s) (fun b => { b with addrNext := putWord4 b.addrNext ((off - 0x134) / 4) w }) s
  else if bt = 0xC0 ∧ off = 0x12C then writeMteDiag page w s
  else if bt = 0xE0 ∧ off = 0x104 then writeTail w s
  else if bt = 0xE0 ∧ off = 0x108 then (if bit w.toNat 8 then modErr (fun e => { e with overflow := false }) s else s)
  else storeRw page off w s

/-- A write of CHART_CTRL. -/
def writeChartCtrl (w : Word) (s : State) : State :=
  let s := chartEnable (bit w.toNat 0) s
  if bit w.toNat 1 then swapRequest none s else s

/-- Block words of the compute die whose writes act. -/
def writeCompute (page bt off : Nat) (w : Word) (s : State) : State :=
  if bt = 0x30 ∧ off = 0x100 then writeChartCtrl w s
  else if bt = 0x30 ∧ off = 0x148 then (if bit w.toNat 0 then restartCtx s else s)
  else if bt = 0x40 ∧ off = 0x10C then writeInject (page - 0x40) w s
  else if bt = 0x70 ∧ off = 0x100 then writeCompat1 w s
  else if bt = 0x70 ∧ off = 0x108 then modSfu (fun t => { t with addr := bits w.toNat 11 0, readBank := bits w.toNat 16 16 }) s
  else if bt = 0x70 ∧ off = 0x10C then writeTblData w s
  else if bt = 0x70 ∧ off = 0x110 then (if bit w.toNat 0 then tblCommit s else s)
  else if bt = 0x80 ∧ off = 0x100 then writeDiag w s
  else if bt = 0x80 ∧ off = 0x108 then writeAtoll w s
  else if bt = 0x80 ∧ off = 0x10C then writeFlipSel w s
  else if bt = 0x80 ∧ pwrOffs.contains off then writeBankPwr off w s
  else if bt = 0x90 ∧ (off = 0x10C ∨ off = 0x12C) then (if bit w.toNat 0 then armFlip (2 * (page - 0x90) + (off - 0x10C) / 0x20) s else s)
  else if page = 0x90 ∧ off = 0x200 then writeScrubCtrl w s
  else if bt = 0xB0 ∧ off = 0x100 then pumpQueries (storeRw 0xB0 0x100 w s)
  else storeRw page off w s

/-- Write a register word that the access path does not refuse. -/
def writeWord (page off : Nat) (w : Word) (s : State) : State :=
  match pageBlock page with
  | none => s
  | some (bt, _) =>
    if off = 0x008 then writePageCtrl page w s
    else if off = 0x010 then clearErrStatus page w s
    else if off = 0x014 then writeErrMask page bt w s
    else if off < 0x100 ∨ 0x800 ≤ off then s
    else if computePage page then writeCompute page bt off w s
    else writeIoDie page bt off w s

/-- Why an access of `n` words is refused whole (R13, R35, R37 to R39, R235, R241). -/
def accessRefusal (p : Path) (page off n cap : Nat) (ws : Option (List Word)) (s : State) : Option Code :=
  if off % 4 ≠ 0 then some 0x0002
  else if n = 0 ∨ cap < n ∨ 0xFFC < off + 4 * (n - 1) then some 0x0003
  else (List.range n).findSome? fun i =>
    match regGate p page (off + 4 * i) ws.isSome s, ws with
    | some c, _ => some c
    | none, some l => denyWord p page (off + 4 * i) (l.getD i 0) s
    | none, none => none

/-- Write words in ascending order (R35). -/
def writeWords (page : Nat) : Nat → List Word → State → State
  | _, [], s => s
  | off, w :: l, s => writeWords page (off + 4) l (writeWord page off w s)

/-- The words of a byte list. -/
def wordsOf (b : List Byte) (n : Nat) : List Word := (List.range n).map fun i => BitVec.ofNat 32 (fld b (4 * i) 4)

/-- REGISTER_WRITE (R14): a write of one word. -/
def execRegisterWrite (p : Path) (page off : Nat) (w : Word) (s : State) : Res :=
  if !s.chip.powered then ok s
  else match accessRefusal p page off 1 1 (some [w]) s with
    | some c => ok (emit (.reg p c []) s)
    | none => ok (writeWord page off w s)

/-! ### Register Window commands (R33, R35, R38, R39, R381, R382) -/

/-- A Register Window command: as an I/O command a BCS command, as an admin command served in every lifecycle state within R38 (log
entry 43). It brings the module out of PS4. -/
def windowRow (t : Tag) (io adm : Nat) (q : Sqe) (f : State → State) (s : State) : Res :=
  let bad := windowFields q
  if onAdmin s t then
    match fetch t adm q true true s with
    | .error s => ok s
    | .ok s => match bad with
      | some d => ok (refuse t cCMD_PARAM d s)
      | none => ok (f s)
  else bcsRow t io q bad f s

/-- REGISTER_WINDOW_READ (R35). -/
def execRegisterWindowRead (t : Tag) (q : Sqe) (_d : List Byte) (s : State) : Res :=
  let page := cdw q 12 % 256
  let off := cdw q 13
  let n := cdw q 14
  windowRow t 0x86 0xC2 q (fun s =>
    match accessRefusal .inband page off n 64 none s with
    | some c => refuse t c 0 s
    | none =>
      if q.sgl ≠ 4 * n then complete .bcs t stSglLength 0 0 [] s
      else
        let (l, s) := readWords .inband page n off s
        succeed t 0 0 (l.flatMap fun w => leBytes 4 w.toNat) s) s

/-- REGISTER_WINDOW_WRITE (R35, R49). -/
def execRegisterWindowWrite (t : Tag) (q : Sqe) (d : List Byte) (s : State) : Res :=
  let page := cdw q 12 % 256
  let off := cdw q 13
  let n := cdw q 14
  windowRow t 0x91 0xC1 q (fun s =>
    match accessRefusal .inband page off n 64 (some (wordsOf d n)) s with
    | some c => refuse t c 0 s
    | none =>
      if q.sgl ≠ 4 * n then complete .bcs t stSglLength 0 0 [] s
      else succeed t 0 0 [] (writeWords page off (wordsOf d n) s)) s

/-! ### The sideband (R33, R34, R482, R492) -/

/-- MCTP completion code ERROR_NOT_READY (PRESUMED, log entry 44). -/
def mctpNotReady : List Byte := [0x04]

/-- The sideband answers MCTP messages with what their own rules say: power is good and start-up has reached the ROM. -/
def sidebandUp (s : State) : Bool := s.chip.powered && s.chip.stage != .powerGood

/-- Answer an MCTP message: with ERROR_NOT_READY while only the AUX domain serves it, with nothing while nothing does (R482, R492). -/
def mctpRow (f : State → State) (s : State) : Res :=
  if sidebandUp s then ok (f s)
  else if s.chip.powered || s.pwr.aux then ok (emit (.sideband mctpNotReady) s) else ok s

/-- The status and the words of a sideband request, and the state after it (R34, R35). A write that carries fewer than COUNT words is
refused as one that runs out of range (log entry 44). -/
def sidebandDo (req : List Byte) (s : State) : Nat × List Word × State :=
  let page := fld req 2 1
  let n := fld req 3 1
  let off := fld req 4 2
  if fld req 0 1 ≠ 1 then (0x0001, [], s)
  else if fld req 1 1 = 1 then
    match accessRefusal .sideband page off n 16 none s with
    | some c => (c, [], s)
    | none =>
      let (l, s) := readWords .sideband page n off s
      (0, l, s)
  else if fld req 1 1 = 2 then
    let ws := wordsOf (req.drop 8) n
    match accessRefusal .sideband page off n 16 (some ws) s with
    | some c => (c, [], s)
    | none => if req.length < 8 + 4 * n then (0x0003, [], s) else (0, [], writeWords page off ws s)
  else (0x0003, [], s)

/-- Answer a sideband request (R34). -/
def sidebandReq (req : List Byte) (s : State) : State :=
  let (st, l, s) := sidebandDo req s
  emit (.sideband (padTo 3 (req.take 3) ++ leBytes 2 st ++ l.flatMap fun w => leBytes 4 w.toNat)) s

/-- SIDEBAND_READ (R34). -/
def execSidebandRead (req : List Byte) (s : State) : Res := mctpRow (sidebandReq req) s

/-- SIDEBAND_WRITE (R34). -/
def execSidebandWrite (req : List Byte) (s : State) : Res := mctpRow (sidebandReq req) s

end Sys2Proof.Machine
end

