-- ==== Sys2Proof/Machine/Session.lean ====
section
/-! DEFINITION. Management commands and sessions (R451 to R463): what each command does, the session that carries them, and the
layouts the model gives to their messages (DESIGN CHOICE, log entry 46). -/
namespace Sys2Proof.Machine
open Sys2Proof

/-! ### Management commands (R459 to R461) -/

/-- What a management command answers: status and data, and the state after it. -/
abbrev Mgmt := Nat × List Byte × State

/-- QUOTA_EXCEEDED: no room for another PSK (log entry 46). -/
def cQUOTA : Code := 0x3007

/-- The fuses let a transition happen that leads to no final state (R461). -/
def lcFree (s : State) : Bool := decide (s.msp.fuses.lcCount < 63)

/-- A value drawn from the DRBG. -/
def drbg (n : Nat) (s : State) : Nat × State :=
  let (v, s) := draw s
  (v % 2 ^ n, s)

/-- Generate the identity, unless the KDE is locked until the next power-on (R455, R465). -/
def genIdentity (s : State) : State := modMsp (fun m => { m with idKey := if m.kdeLocked then none else makeIdentity s }) s

/-- PROVISION: a UDS into the lowest unused slot, NONCE_ID and STORE_SALT; the identity public key returns (R451). -/
def mgProvision (_a : List Byte) (s : State) : Mgmt :=
  match (List.range 4).find? fun i => !bit s.msp.fuses.udsUsed i with
  | none => (cLC_EXHAUSTED, [], s)
  | some i =>
    if !lcFree s then (cLC_EXHAUSTED, [], s)
    else
      let (u, s) := drbg 256 s
      let (n, s) := drbg 256 s
      let (x, s) := drbg 256 s
      let s := modMsp (fun m => { m with fuses := { m.fuses with uds := smSet m.fuses.uds i u, udsUsed := m.fuses.udsUsed + 2 ^ i } }) s
      let s := genIdentity (lcMove .provisioned (fun k => { k with nonceId := some n, salt := some x }) s)
      (0, s.msp.idKey.getD [], s)

/-- CERT_WRITE: slot, then the chain. -/
def mgCertWrite (a : List Byte) (s : State) : Mgmt :=
  let d := a.drop 1
  if 65536 < d.length then (cCMD_PARAM, [], s)
  else if fld a 0 1 = 0 then (0, [], modMsp (fun m => { m with cert0 := d }) s)
  else (0, [], modMsp (fun m => { m with cert1 := d }) s)

/-- A failed signature, tag or hash: the session closes with SESSION_AUTH_FAIL (R458). -/
def sessionFail (s : State) : State :=
  advisory 0x03 3 0x0304 0 0 (cntAdd 0x03 0x830 1 (modMsp (fun m => { m with session := none }) s))

/-- A new media key pair and the owner key hash (R459), the Atoll's keys placed under R453. -/
def takeOwner (h : List Byte) (s : State) : State :=
  let k := s.ftl.nextKey
  let s := modFtl (fun f => { f with nextKey := k + 1, map := [] }) s
  let s := lcMove .operational (fun x => { x with media := some k, ownerHash := some h }) s
  modMsp (fun m => { m with keysLoaded := !m.kdeLocked }) s

/-- TAKE_OWNERSHIP: service public key, its signature over serial and owner key hash, the serial, the hash. -/
def mgTakeOwnership (a : List Byte) (s : State) : Mgmt :=
  let pub := slice a 0 2592
  let sig := slice a 2592 4627
  let body := slice a 7219 80
  if !lcFree s then (cLC_EXHAUSTED, [], s)
  else if sha3_512 pub = Config.serviceKeyHash ∧ body.take 16 = leBytes 16 Config.serial ∧ Config.mldsaVerify pub (sha3_512 body) sig then
    (0, [], takeOwner (body.drop 16) s)
  else (cLIFECYCLE, [], sessionFail s)

/-- Change the PSKs of the key store, in the Atoll too (R454). -/
def setPsks (l : List (List Byte × List Byte)) (s : State) : State :=
  match keyStore s with
  | none => s
  | some k => putKeyStore { k with psks := l } (touchAtoll s)

/-- PSK_INSTALL: length of the identity, the identity, the 48-byte key. -/
def mgPskInstall (a : List Byte) (s : State) : Mgmt :=
  let n := fld a 0 1
  let id := slice a 1 n
  let old := (((keyStore s).map (·.psks)).getD []).filter fun p => p.1 != id
  if n = 0 ∨ 128 < n ∨ a.length ≠ 1 + n + 48 then (cCMD_PARAM, [], s)
  else if 256 ≤ old.length then (cQUOTA, [], s)
  else (0, [], setPsks (old ++ [(id, slice a (1 + n) 48)]) s)

/-- PSK_DELETE: the identity. -/
def mgPskDelete (a : List Byte) (s : State) : Mgmt :=
  let l := ((keyStore s).map (·.psks)).getD []
  if l.any fun p => p.1 == a then (0, [], setPsks (l.filter fun p => p.1 != a) s) else (cCMD_PARAM, [], s)

/-- Write the stored fields of a word: at once as a register write, and in the configuration as stored (R460). -/
def configWord (ad : Nat) (w : Word) (s : State) : State :=
  let page := ad / 4096
  let off := ad % 4096
  let k := storedMask ad
  let old := (regWord s page off).toNat
  let s := writeWord page off (BitVec.ofNat 32 ((old - (old &&& k)) + (w.toNat &&& k))) s
  putConfig (smSet ((config s).getD []) ad (BitVec.ofNat 32 ((regWord s page off).toNat &&& k))) s

/-- The pairs of address and word that CONFIG_WRITE carries. -/
def configPairs (a : List Byte) : List (Nat × Word) :=
  (List.range (a.length / 8)).map fun i => (fld a (8 * i) 4, BitVec.ofNat 32 (fld a (8 * i + 4) 4))

/-- CONFIG_WRITE: pairs of address and word. LOOP_EN is TAMPER_CFG's. -/
def mgConfigWrite (a : List Byte) (s : State) : Mgmt :=
  let l := configPairs a
  if a.length % 8 ≠ 0 ∨ l.any (fun e => e.1 = addr 0x03 0x11C ∨ 2 ^ 20 ≤ e.1 ∨ storedMask e.1 = 0) then (cCMD_PARAM, [], s)
  else (0, [], l.foldl (fun s e => configWord e.1 e.2 s) s)

/-- TAMPER_CFG: LOOP_EN. -/
def mgTamperCfg (a : List Byte) (s : State) : Mgmt := (0, [], configWord (addr 0x03 0x11C) (BitVec.ofNat 32 (fld a 0 1 % 2)) s)

/-- RETURN. -/
def mgReturn (_a : List Byte) (s : State) : Mgmt :=
  if lcFree s then (0, [], lcMove .retn KeyStore.noOwner (destroyData s)) else (cLC_EXHAUSTED, [], s)

/-- DECOMMISSION: as RETURN, with NONCE_ID and STORE_SALT; the kill fuse locks the KDE. -/
def mgDecommission (_a : List Byte) (s : State) : Mgmt :=
  let s := lcMove .decommissioned (fun k => { k.noOwner with nonceId := none, salt := none }) (destroyData s)
  (0, [], modMsp (fun m => { m with idKey := none, fuses := { m.fuses with kdeKilled := true } }) s)

/-- REPROVISION: nonces are drawn where none are held; KEYSTORE_LOST's handling ends (R463, R473). -/
def mgReprovision (_a : List Byte) (s : State) : Mgmt :=
  if !lcFree s then (cLC_EXHAUSTED, [], s)
  else
    let (n, s) := drbg 256 s
    let (x, s) := drbg 256 s
    let s := modMsp (fun m => { m with ksLost := false }) s
    let s := lcMove .provisioned (fun k => { k with nonceId := some (k.nonceId.getD n), salt := some (k.salt.getD x) }) s
    (0, [], endFatal 0x0307 (genIdentity s))

/-- TAMPER_CLEAR: the UDS slot in use is killed, one CLEAR_COUNT fuse is blown, key stores, certificates and media are erased. -/
def mgTamperClear (_a : List Byte) (s : State) : Mgmt :=
  if !lcFree s then (cLC_EXHAUSTED, [], s)
  else
    let kill := match udsSlot s with | some i => 2 ^ i | none => 0
    let s := modMsp (fun m => { m with
      ksLost := false, erasePending := false, cert0 := [], cert1 := [], idKey := none
      fuses := { m.fuses with udsKilled := m.fuses.udsKilled + kill, clears := min 15 (m.fuses.clears + 1) } }) s
    (0, [], endFatal 0x0308 (lcMove .blank (fun _ => KeyStore.blank) (eraseMedia s)))

/-- REVOKE_FW_KEY: the key; the running image's key cannot be revoked. -/
def mgRevoke (a : List Byte) (s : State) : Mgmt :=
  let k := fld a 0 1
  if 3 < k ∨ (s.msp.fw.map (·.key)) = some k then (cCMD_PARAM, [], s)
  else (0, [], modMsp (fun m => { m with fuses := { m.fuses with keyRevoked := m.fuses.keyRevoked ||| 2 ^ k } }) s)

/-- The command of a code (R459). -/
def mgCmd (code : Nat) (a : List Byte) (s : State) : Mgmt :=
  if code = 1 then mgProvision a s
  else if code = 2 then mgCertWrite a s
  else if code = 3 then mgTakeOwnership a s
  else if code = 4 then mgPskInstall a s
  else if code = 5 then mgPskDelete a s
  else if code = 6 then mgConfigWrite a s
  else if code = 7 then mgTamperCfg a s
  else if code = 8 then mgReturn a s
  else if code = 9 then mgDecommission a s
  else if code = 10 then mgReprovision a s
  else if code = 11 then mgTamperClear a s
  else mgRevoke a s

/-- The role and the states in which a command is accepted (R459). -/
def mgAllowed (code : Nat) (a : List Byte) (r : Role) (l : Life) : Bool :=
  if code = 1 then r == .madelvar && l == .blank
  else if code = 2 then
    if fld a 0 1 = 0 then r == .madelvar && (l == .provisioned || l == .retn) else fld a 0 1 == 1 && r == .owner && l == .operational
  else if code = 3 then r == .none && l == .provisioned
  else if 4 ≤ code ∧ code ≤ 8 then r == .owner && l == .operational
  else if code = 9 then (r == .owner || r == .madelvar) && (l == .operational || l == .retn)
  else if code = 10 then r == .madelvar && l == .retn
  else if code = 11 then r == .madelvar && l == .tampered
  else code == 12 && r == .madelvar && l != .decommissioned

/-- A management command in the session (R459, R463). -/
def mgmtDo (code : Nat) (a : List Byte) (s : State) : Mgmt :=
  match s.msp.session with
  | none => (cLIFECYCLE, [], s)
  | some e =>
    if !e.ready || !mgAllowed code a e.role (lifecycle s) then (cLIFECYCLE, [], s)
    else if s.msp.update.isSome then (cMGMT_BUSY, [], s)
    else mgCmd code a s

/-! ### Sessions (R458) -/

/-- Bytes of an OPEN: encapsulation key, nonce, role. -/
def openLen : Nat := 1568 + 32 + 1

/-- A requested role. -/
def roleOf (n : Nat) : Option Role :=
  if n = 0 then some .none else if n = 1 then some .owner else if n = 2 then some .madelvar else none

/-- Signature of a transcript hash under the identity key; zeros where none is held (R458). -/
def idSign (s : State) (h : List Byte) : List Byte :=
  match identity s, udsSlot s, (keyStore s).bind (·.nonceId) with
  | some _, some i, some n => Config.mldsaSign (Config.kmacSeed (smGet 0 s.msp.fuses.uds i) n) h
  | _, _, _ => List.replicate sigLen 0

/-- OPEN is answered with ACCEPT; with no role asked the session is ready. -/
def sessionOpen (m : List Byte) (r : Role) (s : State) : List Byte × State :=
  let (seed, s) := drbg 256 s
  let (nonce, s) := drbg 256 s
  let (id, s) := drbg 16 s
  let (ct, secret) := Config.mlkemEncaps (slice m 0 1568) seed
  let part := padTo 1568 (ct.take 1568) ++ leBytes 32 nonce ++ leBytes 2 id
  let acc := part ++ idSign s (sha3_512 (m ++ part))
  let e : Session :=
    { id := id, asked := r, role := .none, transcript := m ++ acc, secret := secret, ready := r == .none, rx := 0, tx := 0, lastT := now s }
  (acc, modMsp (fun x => { x with session := some e }) (touchAtoll s))

/-- The hash that a role's public key must have. -/
def roleHash (s : State) : Role → Option (List Byte)
  | .owner => (keyStore s).bind (·.ownerHash)
  | .madelvar => some Config.serviceKeyHash
  | .none => none

/-- AUTH: public key and signature over the hash of every message so far. -/
def authOk (s : State) (e : Session) (m : List Byte) : Bool :=
  let pub := slice m 0 2592
  m.length == 2592 + sigLen && roleHash s e.asked == some (sha3_512 pub) && Config.mldsaVerify pub (sha3_512 e.transcript) (slice m 2592 sigLen)

/-- The session has taken its role. -/
def sessionAuth (e : Session) (m : List Byte) (s : State) : State :=
  modMsp (fun x => { x with session := some { e with role := e.asked, ready := true, transcript := e.transcript ++ m, lastT := now s } }) s

/-- A RECORD: opened, its command carried out, the answer sealed; a tag that fails closes the session. The command's code is the
first byte. -/
def sessionRecord (e : Session) (m : List Byte) (s : State) : Option (List Byte) × State :=
  let h := sha3_512 e.transcript
  match Config.gcmOpen e.secret h e.rx m with
  | none => (none, sessionFail s)
  | some b =>
    let s := modMsp (fun x => { x with session := some { e with rx := e.rx + 1, tx := e.tx + 1, lastT := now s } }) (touchAtoll s)
    let (st, d, s) := mgmtDo (fld b 0 1) (b.drop 1) s
    (some (Config.gcmSeal e.secret h e.tx (leBytes 2 st ++ d)), s)

end Sys2Proof.Machine
end

