-- ==== Sys2Proof/Machine/Spdm.lean ====
section
/-! DEFINITION. The SPDM responder (R455 to R457) in the message forms of DSP0274 version 1.2, which the spec names and does not lay
out: PRESUMED (log entry 45). -/
namespace Sys2Proof.Machine
open Sys2Proof

/-- An SPDM message of version 1.2: code and the two parameters. -/
def spdmHead (code p1 p2 : Nat) : List Byte := [0x12, BitVec.ofNat 8 code, BitVec.ofNat 8 p1, BitVec.ofNat 8 p2]

/-- ERROR: InvalidRequest 1, Busy 3, UnexpectedRequest 4, UnsupportedRequest 7, LargeResponse 15, VersionMismatch 65. -/
def spdmErr (e d : Nat) : List Byte := spdmHead 0x7F e d

/-- Change the responder's state. -/
def modSpdm (f : SpdmSt → SpdmSt) (s : State) : State := modMsp (fun m => { m with spdm := f m.spdm }) s

/-- An answer, and the state after it. -/
abbrev Ans := List Byte × State

/-- GET_VERSION: negotiation starts anew; version 1.2. -/
def spdmVersion (m : List Byte) (s : State) : Ans :=
  let r : List Byte := [0x10, 0x04, 0, 0, 0, 1] ++ leBytes 2 0x1200
  (r, modSpdm (fun x => { SpdmSt.reset with stage := 1, vca := m ++ r, handle := x.handle }) s)

/-- Capability flags: CERT, CHAL, MEAS with signature, MEAS_FRESH, CHUNK. -/
def spdmFlags : Nat := 0x20036

/-- GET_CAPABILITIES. -/
def spdmCaps (m : List Byte) (s : State) : Ans :=
  if s.msp.spdm.stage ≠ 1 then (spdmErr 4 0, s)
  else
    let r := spdmHead 0x61 0 0 ++ [0, BitVec.ofNat 8 Config.ctExponent, 0, 0] ++ leBytes 4 spdmFlags ++ leBytes 4 1024 ++ leBytes 4 65536
    (r, modSpdm (fun x => { x with stage := 2, vca := x.vca ++ m ++ r, dts := max 42 (fld m 12 4) }) s)

/-- The requester offers ML-DSA-87 in the IANA registry. -/
def offersExt (m : List Byte) : Bool :=
  (List.range (min 20 (fld m 28 1))).any fun i => fld m (32 + 4 * i) 1 == 4 && fld m (32 + 4 * i + 2) 2 == 0x0087

/-- NEGOTIATE_ALGORITHMS: SHA3-512, and ML-DSA-87 as an ExtAsym entry. -/
def spdmAlgs (m : List Byte) (s : State) : Ans :=
  if s.msp.spdm.stage ≠ 2 then (spdmErr 4 0, s)
  else
    let ext : List Byte := if offersExt m then [4, 0, 0x87, 0] else []
    let r := spdmHead 0x63 0 0 ++ leBytes 2 (36 + ext.length) ++ [1, 0] ++ leBytes 4 0x40 ++ leBytes 4 0 ++ leBytes 4 (if bit (fld m 12 4) 5 then 0x20 else 0)
      ++ List.replicate 12 0 ++ leBytes 1 (ext.length / 4) ++ [0, 0, 0] ++ ext
    (r, modSpdm (fun x => { x with stage := 3, vca := x.vca ++ m ++ r }) s)

/-- The first certificate of a chain, by its DER length. -/
def firstCert (b : List Byte) : List Byte :=
  let l := fld b 1 1
  if l = 0x82 then b.take (4 + fldBE b 2 2) else if l = 0x83 then b.take (5 + fldBE b 2 3) else if l = 0x81 then b.take (3 + fld b 2 1) else b.take (2 + l)

/-- A certificate chain as SPDM carries it: length, root hash, certificates. -/
def spdmChain (c : List Byte) : List Byte := leBytes 2 (68 + c.length) ++ [0, 0] ++ sha3_512 (firstCert c) ++ c

/-- The chain in a slot. -/
def certSlot (s : State) (n : Nat) : List Byte := if n = 0 then s.msp.cert0 else if n = 1 then s.msp.cert1 else []

/-- Slots that hold a chain. -/
def slotMask (s : State) : Nat := b2n (!s.msp.cert0.isEmpty) + 2 * b2n (!s.msp.cert1.isEmpty)

/-- GET_DIGESTS. -/
def spdmDigests (m : List Byte) (s : State) : Ans :=
  if s.msp.spdm.stage ≠ 3 then (spdmErr 4 0, s)
  else
    let one (n : Nat) : List Byte := if (certSlot s n).isEmpty then [] else sha3_512 (spdmChain (certSlot s n))
    let r := spdmHead 0x01 0 (slotMask s) ++ one 0 ++ one 1
    (r, modSpdm (fun x => { x with certs := x.certs ++ m ++ r }) s)

/-- GET_CERTIFICATE: a portion of a chain. -/
def spdmCert (m : List Byte) (s : State) : Ans :=
  let n := fld m 2 1 % 16
  let c := certSlot s n
  let b := spdmChain c
  let off := fld m 4 2
  if s.msp.spdm.stage ≠ 3 then (spdmErr 4 0, s)
  else if c.isEmpty ∨ b.length ≤ off then (spdmErr 1 0, s)
  else
    let k := min (fld m 6 2) (b.length - off)
    let r := spdmHead 0x02 n 0 ++ leBytes 2 k ++ leBytes 2 (b.length - off - k) ++ slice b off k
    (r, modSpdm (fun x => { x with certs := x.certs ++ m ++ r }) s)

/-! ### Measurements (R457) -/

/-- The bytes of a configuration copy: its stored words with their addresses. -/
def configBytes (s : State) : List Byte := ((config s).getD []).flatMap fun e => leBytes 4 e.1 ++ leBytes 4 e.2.toNat

/-- The value of a measurement block, and whether it is raw. -/
def measValue (s : State) (i : Nat) : Bool × List Byte :=
  let f := s.msp.fw
  if i = 1 then (true, leBytes 4 Config.romVersion ++ Config.romDigest)
  else if i = 2 then (false, (f.map (·.digest)).getD [])
  else if i = 3 then
    (true, leBytes 4 ((f.map (·.version)).getD 0) ++ leBytes 1 ((f.map (·.svn)).getD 0) ++ leBytes 1 s.msp.fuses.svnFloor ++ leBytes 1 s.msp.fuses.keyRevoked)
  else if i = 4 then (false, sfuDigest s)
  else if i = 5 then (true, leBytes 4 (((viewChip 0x104 s).getD 0)))
  else if i = 6 then (true, leBytes 1 (lifecycle s).code ++ leBytes 1 s.msp.fuses.lcCount ++ leBytes 1 s.msp.tamperStatus)
  else (false, sha3_512 (configBytes s))

/-- Value type of a block: ROM, firmware, or firmware configuration. -/
def measType (i : Nat) : Nat := if i = 1 then 0 else if i = 2 then 1 else 3

/-- A measurement block. -/
def measBlock (s : State) (i : Nat) : List Byte :=
  let (raw, v) := measValue s i
  leBytes 1 i ++ [1] ++ leBytes 2 (3 + v.length) ++ leBytes 1 (measType i + 128 * b2n raw) ++ leBytes 2 v.length ++ v

/-- Every measurement block. -/
def measAll (s : State) : List Byte := (List.range 7).flatMap fun i => measBlock s (i + 1)

/-- GET_MEASUREMENTS: 0 asks for their number, 0xFF for all, else for one. The answer is signed where it is asked and an identity is
held. -/
def spdmMeas (m : List Byte) (s : State) : Ans :=
  let op := fld m 3 1
  let sign := bit (fld m 2 1) 0 && (identity s).isSome
  if s.msp.spdm.stage ≠ 3 then (spdmErr 4 0, s)
  else if 7 < op ∧ op ≠ 0xFF then (spdmErr 1 0, s)
  else
    let bs := if op = 0 then [] else if op = 0xFF then measAll s else measBlock s op
    let n := if op = 0 then 0 else if op = 0xFF then 7 else 1
    let (v, s) := drbg 256 s
    let r := spdmHead 0x60 (if op = 0 then 7 else 0) 0 ++ leBytes 1 n ++ leBytes 3 bs.length ++ bs ++ leBytes 32 v ++ [0, 0]
    let l := s.msp.spdm.meas ++ m ++ r
    if sign then (r ++ idSign s (sha3_512 (s.msp.spdm.vca ++ l)), modSpdm (fun x => { x with meas := [] }) s)
    else (r, modSpdm (fun x => { x with meas := l }) s)

/-- CHALLENGE: signed with the identity key, or UnsupportedRequest where none is held (R456). -/
def spdmChallenge (m : List Byte) (s : State) : Ans :=
  let n := fld m 2 1 % 16
  if s.msp.spdm.stage ≠ 3 then (spdmErr 4 0, s)
  else if (identity s).isNone then (spdmErr 7 0x83, s)
  else if (certSlot s n).isEmpty then (spdmErr 1 0, s)
  else
    let (v, s) := drbg 256 s
    let sum := if fld m 3 1 = 0 then [] else sha3_512 (measAll s)
    let r := spdmHead 0x03 n (slotMask s) ++ sha3_512 (spdmChain (certSlot s n)) ++ leBytes 32 v ++ sum ++ [0, 0]
    let h := sha3_512 (s.msp.spdm.vca ++ s.msp.spdm.certs ++ m ++ r)
    (r ++ idSign s h, modSpdm (fun x => { x with certs := [] }) s)

/-! ### Vendor-defined requests: the management session (R458) -/

/-- VENDOR_DEFINED_RESPONSE under Madelvar's enterprise number. -/
def vendorResp (b : List Byte) : List Byte := spdmHead 0x7E 0 0 ++ [4, 0, 4] ++ leBytes 4 Config.enterprise ++ leBytes 2 b.length ++ b

/-- OPEN. One session at a time: another OPEN is answered Busy while one is open (DESIGN CHOICE, log entry 46). -/
def ansOpen (m : List Byte) (s : State) : Ans :=
  match s.msp.session, roleOf (fld m 1600 1) with
  | some _, _ => (spdmErr 3 0, s)
  | none, none => (spdmErr 1 0, s)
  | none, some r =>
    if m.length ≠ openLen then (spdmErr 1 0, s)
    else
      let (b, s) := sessionOpen m r s
      (vendorResp ([2] ++ b), s)

/-- AUTH. -/
def ansAuth (m : List Byte) (s : State) : Ans :=
  match s.msp.session with
  | none => (spdmErr 4 0, s)
  | some e =>
    if e.ready then (spdmErr 4 0, s)
    else if authOk s e m then (vendorResp [3], sessionAuth e m s) else (spdmErr 1 0, sessionFail s)

/-- RECORD. -/
def ansRecord (m : List Byte) (s : State) : Ans :=
  match s.msp.session with
  | none => (spdmErr 4 0, s)
  | some e =>
    if !e.ready then (spdmErr 4 0, s)
    else match sessionRecord e m s with
      | (none, s) => (spdmErr 1 0, s)
      | (some b, s) => (vendorResp ([4] ++ b), s)

/-- The payload of a VENDOR_DEFINED_REQUEST: its first byte tells OPEN, AUTH and RECORD apart. -/
def ansVendor (m : List Byte) (s : State) : Ans :=
  let b := slice m 13 (fld m 11 2)
  if fld m 4 2 ≠ 4 ∨ fld m 6 1 ≠ 4 ∨ fld m 7 4 ≠ Config.enterprise % 2 ^ 32 then (spdmErr 7 0xFE, s)
  else if fld b 0 1 = 1 then ansOpen (b.drop 1) s
  else if fld b 0 1 = 3 then ansAuth (b.drop 1) s
  else if fld b 0 1 = 4 then ansRecord (b.drop 1) s
  else (spdmErr 1 0, s)

/-- The answer to a request that is not a chunk. -/
def spdmAnswer (m : List Byte) (s : State) : Ans :=
  let c := fld m 1 1
  if c = 0x84 then spdmVersion m s
  else if fld m 0 1 ≠ 0x12 then (spdmErr 65 0, s)
  else if c = 0xE1 then spdmCaps m s
  else if c = 0xE3 then spdmAlgs m s
  else if c = 0x81 then spdmDigests m s
  else if c = 0x82 then spdmCert m s
  else if c = 0x83 then spdmChallenge m s
  else if c = 0xE0 then spdmMeas m s
  else if c = 0xFE then ansVendor m s
  else (spdmErr 7 c, s)

/-! ### Chunks (R456) -/

/-- An answer of more bytes than the requester takes is held, and LargeResponse names it. -/
def largeAnswer (b : List Byte) (s : State) : Ans :=
  if b.length ≤ s.msp.spdm.dts then (b, s)
  else
    let h := s.msp.spdm.handle
    (spdmErr 15 0 ++ leBytes 1 h, modSpdm (fun x => { x with resp := some (h, 0, b), handle := (h + 1) % 256 }) s)

/-- CHUNK_GET: the next part of a held answer. -/
def spdmChunkGet (m : List Byte) (s : State) : Ans :=
  match s.msp.spdm.resp with
  | none => (spdmErr 4 0, s)
  | some (h, q, b) =>
    if fld m 3 1 ≠ h ∨ fld m 4 2 ≠ q then (spdmErr 1 0, modSpdm (fun x => { x with resp := none }) s)
    else
      let size := if q = 0 then leBytes 4 b.length else []
      let k := min b.length (s.msp.spdm.dts - 12 - size.length)
      let last := k = b.length
      (spdmHead 0x06 (b2n last) h ++ leBytes 2 q ++ [0, 0] ++ leBytes 4 k ++ size ++ b.take k,
       modSpdm (fun x => { x with resp := if last then none else some (h, q + 1, b.drop k) }) s)

/-- A part of a large request is acknowledged; the last one with the answer to the request. -/
def chunkTake (m : List Byte) (h q size : Nat) (b : List Byte) (s : State) : Ans :=
  let ack := spdmHead 0x05 0 h ++ leBytes 2 q
  if size < b.length then (spdmErr 1 0, modSpdm (fun x => { x with req := none }) s)
  else if bit (fld m 2 1) 0 then
    let s := modSpdm (fun x => { x with req := none }) s
    if b.length ≠ size then (spdmErr 1 0, s)
    else
      let (r, s) := spdmAnswer b s
      let (r, s) := largeAnswer r s
      (ack ++ r, s)
  else (ack, modSpdm (fun x => { x with req := some (h, q + 1, size, b) }) s)

/-- CHUNK_SEND: a part of a request of at most 65,536 bytes. -/
def spdmChunkSend (m : List Byte) (s : State) : Ans :=
  let h := fld m 3 1
  let q := fld m 4 2
  let k := fld m 8 4
  if s.msp.spdm.stage < 2 then (spdmErr 4 0, s)
  else if q = 0 then
    let size := fld m 12 4
    if 65536 < size then (spdmErr 1 0, s) else chunkTake m h 0 size (slice m 16 k) s
  else match s.msp.spdm.req with
    | none => (spdmErr 4 0, s)
    | some (h', q', size, b) =>
      if h ≠ h' ∨ q ≠ q' then (spdmErr 1 0, modSpdm (fun x => { x with req := none }) s) else chunkTake m h q size (b ++ slice m 12 k) s

/-! ### The rows -/

/-- An SPDM request: answered while the firmware runs, with Busy during an update (R448), and counted (R467). -/
def spdmRow (f : State → Ans) (s : State) : Res :=
  mctpRow (fun s =>
    if s.msp.fw.isNone then s
    else if s.msp.update.isSome then emit (.mgmt (spdmErr 3 0)) (cntAdd 0x03 0x828 1 s)
    else
      let (b, s) := f s
      let (b, s) := largeAnswer b s
      emit (.mgmt b) (cntAdd 0x03 0x828 1 s)) s

/-- GET_VERSION (R456). -/
def execGetVersion (m : List Byte) (s : State) : Res := spdmRow (spdmVersion m) s
/-- GET_CAPABILITIES (R456). -/
def execGetCapabilities (m : List Byte) (s : State) : Res := spdmRow (spdmCaps m) s
/-- NEGOTIATE_ALGORITHMS (R456). -/
def execNegotiateAlgorithms (m : List Byte) (s : State) : Res := spdmRow (spdmAlgs m) s
/-- GET_DIGESTS (R456). -/
def execGetDigests (m : List Byte) (s : State) : Res := spdmRow (spdmDigests m) s
/-- GET_CERTIFICATE (R455, R456). -/
def execGetCertificate (m : List Byte) (s : State) : Res := spdmRow (spdmCert m) s
/-- CHALLENGE (R456). -/
def execChallenge (m : List Byte) (s : State) : Res := spdmRow (spdmChallenge m) s
/-- GET_MEASUREMENTS (R457). -/
def execGetMeasurements (m : List Byte) (s : State) : Res := spdmRow (spdmMeas m) s
/-- CHUNK_SEND (R456). -/
def execChunkSend (m : List Byte) (s : State) : Res := spdmRow (spdmChunkSend m) s
/-- CHUNK_GET (R456). -/
def execChunkGet (m : List Byte) (s : State) : Res := spdmRow (spdmChunkGet m) s
/-- SESSION_OPEN (R458). -/
def execSessionOpen (m : List Byte) (s : State) : Res := spdmRow (ansOpen m) s
/-- SESSION_AUTH (R458). -/
def execSessionAuth (m : List Byte) (s : State) : Res := spdmRow (ansAuth m) s
/-- SESSION_RECORD (R458). -/
def execSessionRecord (m : List Byte) (s : State) : Res := spdmRow (ansRecord m) s

/-- SESSION_IDLE_TIMEOUT (R458): 60 s have passed without a message. -/
def execSessionIdleTimeout (s : State) : Res :=
  match s.msp.session with
  | none => ok s
  | some e => ok (modMsp (fun x => { x with session := none }) (advanceMaster (e.lastT + 60000000000) s))

/-- A management command as the record in the session carried it, once opened (R459): its answer goes out. -/
def mgmtRow (code : Nat) (a : List Byte) (s : State) : Res :=
  if !sidebandUp s || s.msp.fw.isNone then ok s
  else
    let (st, d, s) := mgmtDo code a s
    ok (emit (.mgmt (leBytes 2 st ++ d)) s)

/-- PROVISION (R451, R459, R461). -/
def execProvision (a : List Byte) (s : State) : Res := mgmtRow 1 a s
/-- CERT_WRITE (R455, R459). -/
def execCertWrite (a : List Byte) (s : State) : Res := mgmtRow 2 a s
/-- TAKE_OWNERSHIP (R459, R461). -/
def execTakeOwnership (a : List Byte) (s : State) : Res := mgmtRow 3 a s
/-- PSK_INSTALL (R454). -/
def execPskInstall (a : List Byte) (s : State) : Res := mgmtRow 4 a s
/-- PSK_DELETE (R454). -/
def execPskDelete (a : List Byte) (s : State) : Res := mgmtRow 5 a s
/-- CONFIG_WRITE (R460). -/
def execConfigWrite (a : List Byte) (s : State) : Res := mgmtRow 6 a s
/-- TAMPER_CFG (R459, R460). -/
def execTamperCfg (a : List Byte) (s : State) : Res := mgmtRow 7 a s
/-- RETURN (R461). -/
def execReturn (a : List Byte) (s : State) : Res := mgmtRow 8 a s
/-- DECOMMISSION (R461). -/
def execDecommission (a : List Byte) (s : State) : Res := mgmtRow 9 a s
/-- REPROVISION (R461, R463). -/
def execReprovision (a : List Byte) (s : State) : Res := mgmtRow 10 a s
/-- TAMPER_CLEAR (R461, R465). -/
def execTamperClear (a : List Byte) (s : State) : Res := mgmtRow 11 a s
/-- REVOKE_FW_KEY (R459). -/
def execRevokeFwKey (a : List Byte) (s : State) : Res := mgmtRow 12 a s

end Sys2Proof.Machine
end

