-- ==== Sys2Proof/Machine/Msp.lean ====
section
/-! DEFINITION. Events of the management core (R438, R439, R447, R464, R465, R491, R492, R496). -/
namespace Sys2Proof.Machine
open Sys2Proof

/-- The management core has left the ROM of this start-up: the firmware or the recovery agent runs. -/
def mgmtRuns (s : State) : Bool := s.chip.powered && (s.msp.fw.isSome || s.msp.recovery)

/-- MSP_WATCHDOG (R438): recorded, then a management reset, which ends an update in progress (log entry 47). -/
def execMspWatchdog (s : State) : Res :=
  if mgmtRuns s then ok (mgmtReset (dropUpdate (advisory 0x03 2 0x0303 0 0 s))) else ok s

/-- MANAGEMENT_RESET (R439). -/
def execManagementReset (s : State) : Res := if mgmtRuns s then ok (mgmtReset (dropUpdate s)) else ok s

/-- The update fails (R447): FW_UPDATE_FAIL, Internal Error, and a management reset into the recovery agent. -/
def updateFail (s : State) : State :=
  let s := dropUpdate (advisory 0x03 1 0x0302 0 0 s)
  runAgent (modMsp (fun m => { m with session := none, spdm := SpdmSt.reset, busy := true }) s)

/-- The last sector is programmed (R447 steps 5 and 6): the image is read back and run by a management reset. -/
def updateEnd (u : FwUpdate) (s : State) : State :=
  if imageDigest (norRead s u.img.length) ≠ imageDigest u.img then updateFail s
  else
    let s := mgmtReset (modMsp (fun m => { m with update := none }) s)
    if s.msp.fw.isSome then complete .admin u.tag stSuccess 0 0 [] (cntAdd 0x03 0x808 1 s)
    else complete .admin u.tag stInternalError 0 0 [] (cntAdd 0x03 0x810 1 s)

/-- SECTOR_PROGRAM_COMPLETE (R447): the next sector stands programmed, sectors 1 up and sector 0 last, or its third retry has failed. -/
def execSectorProgramComplete (good : Bool) (s : State) : Res :=
  match s.msp.update with
  | none => ok s
  | some u =>
    if !good then ok (updateFail s)
    else
      let i := if u.done + 1 < u.total then u.done + 1 else 0
      let s := norProgram (i * sectorBytes) ((u.img.drop (i * sectorBytes)).take sectorBytes) (modMsp (fun m => { m with nor := smDel m.nor i }) s)
      let s := modMsp (fun m => { m with update := some { u with done := u.done + 1 }, progress := (u.done + 1, u.total) }) s
      ok (if u.done + 1 < u.total then s else updateEnd u s)

/-! ### Tamper (R464, R465, R496) -/

/-- The tamper sources are monitored (R464). -/
def tamperOn (s : State) : Bool := s.pwr.vin || s.pwr.aux

/-- The loop is monitored. -/
def loopOn (s : State) : Bool := tamperOn s && regFld s 0x03 0x11C 0 0 == 1

/-- TAMPER_EVENT (R464, R465): 0 LOOP, 1 VGLITCH, 2 CGLITCH, 3 TEMP. -/
def execTamperEvent (src : Nat) (s : State) : Res :=
  if 4 ≤ src then .refused .illFormed
  else if if src = 0 then loopOn s else tamperOn s then ok (tamper src s) else ok s

/-- TAMPER_LOOP_MEASURE (R496): outside its window for 10 µs, or open at power good (R464), the loop raises its event, once. -/
def execTamperLoopMeasure (good : Bool) (s : State) : Res :=
  if !loopOn s then ok (modMsp (fun m => { m with loopSince := none, loopRaised := false }) s)
  else if good then ok (modMsp (fun m => { m with loopSince := none, loopRaised := false }) s)
  else
    let t := s.msp.loopSince.getD (now s)
    let s := modMsp (fun m => { m with loopSince := some t }) s
    let first := s.chip.powered && s.chip.stage == .powerGood
    if s.msp.loopRaised ∨ (now s < t + 10000 ∧ !first) then ok s else ok (tamper 0 (modMsp (fun m => { m with loopRaised := true }) s))

/-- KEYSTORE_ERASE (R465). -/
def execKeystoreErase (s : State) : Res :=
  if s.msp.erasePending then
    ok (modMsp (fun m => { m with
      ksA := { m.ksA with tagOk := false, val := KeyStore.blank }, ksB := { m.ksB with tagOk := false, val := KeyStore.blank }
      cert0 := [], erasePending := false }) s)
  else ok s

/-! ### Commands that wait for the management core (R439) -/

/-- A command of those that need the management core. -/
def needsMsp (o : OutCmd) : Bool := o.op ∈ [0x0D, 0x80, 0x84, 0x10, 0x11, 0x8D]

/-- COMMAND_INTERRUPTED (R439): the core has not returned within 1 s of the command. -/
def execCommandInterrupted (t : Tag) (s : State) : Res :=
  match (conn? s t.conn).bind fun c => (c.outst.find? fun o => o.cid == t.cid).map fun o => (c, o) with
  | none => ok s
  | some (c, o) =>
    let adm := match c.queue with | some (_, q, _) => q == 0 | none => false
    if !s.msp.busy ∨ !needsMsp o ∨ o.need ≠ 0 then ok s
    else if o.op = 0x8D then (if adm then ok s else ok (refuse t cMGMT_BUSY 0 s))
    else if !adm ∨ (s.msp.recovery ∧ (o.op = 0x10 ∨ o.op = 0x11)) then ok s
    else ok (complete .admin t stInterrupted 0 0 [] s)

/-! ### MCTP and I3C (R491, R492) -/

/-- MCTP_CONTROL_MESSAGE (R492): a control message, type 0, is answered with success to its own command; the data of each answer is not
laid out by the spec and is left out (log entry 44). Another message is no control message: it gets ERROR_NOT_READY where only the
AUX domain serves it. -/
def execMctpControlMessage (m : List Byte) (s : State) : Res :=
  if !s.chip.powered ∧ !s.pwr.aux then ok s
  else if fld m 0 1 % 128 = 0 then ok (emit (.sideband [0, BitVec.ofNat 8 (fld m 1 1 % 128), BitVec.ofNat 8 (fld m 2 1), 0]) s)
  else mctpRow id s

/-- ENTDAA (R491): the target takes a dynamic address if it has none. -/
def execEntdaa (a : Nat) (s : State) : Res :=
  if 128 ≤ a then .refused .illFormed
  else if (s.chip.powered ∨ s.pwr.aux) ∧ s.pwr.i3c.isNone then ok (modPwr (fun p => { p with i3c := some a }) s) else ok s

end Sys2Proof.Machine
end

