-- ==== Sys2Proof/Machine/Sre.lean ====
section
/-! DEFINITION. The commands and events of search, ingest and scan (R292 to R318, R356 to R361, R383). -/
namespace Sys2Proof.Machine
open Sys2Proof

/-! ### Search -/

/-- Submit a Search command. Its SGL must give the length of the block, its query and its program (R372, R383). -/
def searchCmd (t : Tag) (q : Sqe) (d : List Byte) (s : State) : State :=
  let d := padTo q.sgl (d.take q.sgl)
  if q.sgl < 64 then complete .bcs t stSglLength 0 0 [] s
  else if fld d 0 1 = versionByte s ∧ q.sgl ≠ 64 + fld d 32 4 + fld d 20 4 then complete .bcs t stSglLength 0 0 [] s
  else match querySubmitCheck d (cdw q 10) s with
    | (some c, s) => refuse t c 0 s
    | (none, s) => acceptQuery d (.host t) s

/-- SEARCH (R306, R383). -/
def execSearch (t : Tag) (q : Sqe) (d : List Byte) (s : State) : Res :=
  bcsRow t 0x83 q (resultFields q) (searchCmd t q d) s

/-- QUERY_COMPLETE (R293, R305): a query in flight is answered; what waited for its index goes on. -/
def execQueryComplete (job : Nat) (s : State) : Res :=
  match smFind s.sre.queries job with
  | none => ok s
  | some q => ok (pumpQueries (settleIdx q.parm.index (runQuery job s)))

/-- MERGE_DEADLINE (R312): at the deadline the merger completes with what it has. -/
def execMergeDeadline (job : Nat) (s : State) : Res :=
  match smFind s.sre.queries job with
  | none => ok s
  | some q => match q.merge with
    | none => ok s
    | some m => ok (pumpQueries (settleIdx q.parm.index (mergeDone job q m (advanceTo m.deadline s))))

/-- SRE_HOLD_WRITE (R303). -/
def execSreHoldWrite (p : Path) (w : Word) (s : State) : Res := regRow p 0xB0 0x100 (fun s => pumpQueries (storeRw 0xB0 0x100 w s)) s

/-! ### Index Mutate, compaction, damage -/

/-- Invalid Command Opcode, to which level 1 answers Ingest and Index Mutate (R57). -/
def level1Row (t : Tag) (op : Nat) (q : Sqe) (s : State) : Res := bcsRow t op q none (complete .bcs t stInvalidOpcode 0 0 []) s

/-- An Index Mutate command whose header stands: refused where the drive is read-only (R344), else applied when the write buffer has
room for its slots. -/
def mutateCmd (t : Tag) (q : Sqe) (d : List Byte) (s : State) : State :=
  let d := padTo q.sgl (d.take q.sgl)
  if q.sgl < 64 then complete .bcs t stSglLength 0 0 [] s
  else if fld d 0 1 ≠ versionByte s then refuse t 0x0001 0 s
  else if 16 ≤ fld d 1 1 ∨ fld d 2 2 = 0 ∨ !zeroRange d 4 8 ∨ !zeroRange d 16 64 then refuse t cMUTATE_FORMAT 0 s
  else
    let w : WaitWrite := { tag := t, op := 0x8D, sqe := q, data := d, since := now s, held := false }
    if s.ftl.readOnly then refuseWorn w s
    else if s.ftl.waiting.any fun x => 0x80 ≤ x.op then askWrite w s
    else match admission w s with
      | .go _ => mutate t d s
      | _ => askWrite w s

/-- INDEX_MUTATE (R295 to R300). -/
def execIndexMutate (t : Tag) (q : Sqe) (d : List Byte) (s : State) : Res :=
  if s.chip.level1 then level1Row t 0x8D q s else bcsRow t 0x8D q (badCdw q [] fun _ => true) (mutateCmd t q d) s

/-- COMPACTION_SWITCH (R300): the new snapshot is built; the switch waits for the queries in progress. -/
def execCompactionSwitch (index : Nat) (s : State) : Res :=
  match idx? s index with
  | none => ok s
  | some i => if i.compact.isNone ∨ i.st = .damaged then ok s else ok (settleIdx index (modIdx index (fun i => { i with st := .switching }) s))

/-- DELTA_REBUILD (R316): the burst is rebuilt from the delta log, or the log is unrecoverable and the index is damaged. -/
def execDeltaRebuild (index : Nat) (good : Bool) (s : State) : Res :=
  match idx? s index with
  | none => ok s
  | some i =>
    if i.st = .damaged then ok s
    else if good then ok (corrected 0xB0 3 0xB014 0 0 s)
    else
      let s := modIdx index (fun i => { i with st := .damaged, compact := none }) s
      let js := (s.sre.queries.filter fun e => e.2.opened.isSome && e.2.parm.index == index && !e.2.ownDone).map Prod.fst
      let s := js.foldl (fun s j => abortQuery j 0xB007 0 s) s
      let s := match i.compact.bind Prod.snd with
        | none => s
        | some t => refuse t 0xB007 0 s
      ok (pumpQueries (settleIdx index s))

/-! ### Ingest -/

/-- An Ingest command (R308, R309). -/
def ingestCmd (t : Tag) (q : Sqe) (d : List Byte) (s : State) : State :=
  let d := padTo q.sgl (d.take q.sgl)
  let s := mteBusy s
  if q.sgl < 64 then complete .bcs t stSglLength 0 0 [] s
  else if fld d 0 1 ≠ versionByte s then refuse t 0x0001 0 s
  else if q.sgl ≠ 64 + fld d 48 4 then complete .bcs t stSglLength 0 0 [] s
  else
    let w : WaitWrite := { tag := t, op := 0x89, sqe := q, data := d, since := now s, held := false }
    if s.ftl.readOnly then refuseWorn w s
    else match ingestRefusal d s with
      | some b => ingestRefuse t b s
      | none => askWrite w s

/-- INGEST (R308 to R310). -/
def execIngest (t : Tag) (q : Sqe) (d : List Byte) (s : State) : Res :=
  if s.chip.level1 then level1Row t 0x89 q s else bcsRow t 0x89 q (badCdw q [] fun _ => true) (ingestCmd t q d) s

/-- INGEST_INSERT (R309 stage 4): once every record is embedded, and the write buffer has room for their slots. -/
def execIngestInsert (job : Nat) (s : State) : Res :=
  match smFind s.sre.ingests job with
  | none => ok s
  | some g =>
    if (g.recs.any fun r => r.vec.isNone) ∨ 62992 < slotsUsed s + s.ftl.progs.length + g.recs.length then ok s
    else ok (mteBusy (ingestInsert job g s))

/-! ### Scan (R356 to R361) -/

/-- A scan's parameters. -/
structure ScanParm where
  mode : Nat
  nsid : Nat
  slba : Nat
  nlb : Nat
  keep : Nat
  prog : List Byte
  cap : Nat
  deriving DecidableEq, Repr

/-- Parameters of a block. -/
def scanParm (d : List Byte) (cap : Nat) : ScanParm :=
  { mode := fld d 1 1, nsid := fld d 4 4, slba := fld d 8 8, nlb := fld d 16 8, keep := fld d 24 8, prog := slice d 64 (fld d 32 4), cap := cap }

/-- The block keeps the ranges of R361. -/
def scanRanges (d : List Byte) : Bool :=
  1 ≤ fld d 1 1 && fld d 1 1 ≤ 3 && zeroRange d 2 4 && 1 ≤ fld d 16 8 && fld d 16 8 ≤ 2 ^ 32 && (fld d 1 1 == 3 || fld d 24 8 == 0) && zeroRange d 36 64

/-- A scan as it runs: the unit last read with its data, the output, the counts, and the block of the first record not output. -/
structure ScanSt where
  unit : Option (Nat × List Byte)
  out : List Byte
  seen : Nat
  passed : Nat
  errs : Nat
  next : Option Nat
  deriving DecidableEq, Repr

/-- Read bytes of a namespace through the unit last read; the failing unit where one is unrecoverable. -/
def scanRead (n : Ns) : Nat → Nat → Nat → ScanSt → State → Except Nat (List Byte) × ScanSt × State
  | 0, _, _, x, s => (.ok [], x, s)
  | fuel + 1, off, len, x, s =>
    let u := off / unitBytes
    let k := min len (unitBytes - off % unitBytes)
    if len = 0 ∨ n.units ≤ u then (.ok [], x, s)
    else
      let got : Option (List Byte) × State := match x.unit with
        | some (v, d) => if v = u then (some d, s) else unitData (n.base + u) s
        | none => unitData (n.base + u) s
      match got with
      | (none, s) => (.error u, x, s)
      | (some d, s) =>
        match scanRead n fuel (off + k) (len - k) { x with unit := some (u, d) } s with
        | (.ok r, x, s) => (.ok (slice d (off % unitBytes) k ++ r), x, s)
        | (.error e, x, s) => (.error e, x, s)

/-- The MTE page of the engine that a record's first byte reaches (R356). Data of the write buffer, or of no unit, reaches engine 0.
DEDUCED (log entry 40). -/
def engineOf (s : State) (i : Nat) : Nat :=
  let e := mapGet s i
  if e / 2 ^ 34 = 1 ∨ e / 2 ^ 34 = 2 then mtePage (e % 2 ^ 34) else 0xC0

/-- Count an evaluation on its engine's page. -/
def countEval (pg : Nat) (bytes : Nat) (v : FilterV) (s : State) : State :=
  let s := cntAdd pg 0x850 bytes s
  match v with
  | .pass => cntAdd pg 0x858 1 s
  | .fail => cntAdd pg 0x860 1 s
  | .error => advisory pg 4 0xC006 0 0 (cntAdd pg 0x868 1 s)

/-- What a passing record adds to the output. -/
def scanOut (p : ScanParm) (b : List Byte) (fs : List RField) : List Byte :=
  if p.mode = 1 then [] else if p.mode = 2 then b else keepRec p.keep fs

/-- Evaluate the records of the range in order (R357, R358, R361); a scan ends at the first record that its capacity does not hold.
DEDUCED (log entry 40). -/
def scanLoop (p : ScanParm) (n : Ns) (hi : Nat) : Nat → Nat → ScanSt → State → Except Nat Unit × ScanSt × State
  | 0, _, x, s => (.ok (), x, s)
  | fuel + 1, off, x, s =>
    if hi ≤ off then (.ok (), x, s)
    else match scanRead n 2 off 8 x s with
      | (.error u, x, s) => (.error u, x, s)
      | (.ok h, x, s) =>
        let block := (off / 4096 + 1) * 4096
        let len := fld h 0 4
        if len = 0 then scanLoop p n hi fuel block x s
        else
          let pg := engineOf s (n.base + off / unitBytes)
          let bad (x : ScanSt) (s : State) : ScanSt × State := ({ x with seen := x.seen + 1, errs := x.errs + 1 }, countEval pg h.length .error s)
          if len < 8 ∨ 2 ^ 24 < len ∨ len % 4 ≠ 0 then
            let (x, s) := bad x s
            scanLoop p n hi fuel block x s
          else match scanRead n (len / unitBytes + 2) off len x s with
            | (.error u, x, s) => (.error u, x, s)
            | (.ok b, x, s) =>
              match (if b.length < len then none else parseRec b) with
              | none =>
                let (x, s) := bad x s
                scanLoop p n hi fuel block x s
              | some (_, fs) =>
                let v := filterRec p.prog b
                let o := if v = .pass then scanOut p b fs else []
                if p.cap < 64 + x.out.length + o.length then (.ok (), { x with next := some (off / 4096) }, s)
                else
                  let x := { x with seen := x.seen + 1, passed := x.passed + b2n (v == .pass), out := x.out ++ o }
                  scanLoop p n hi fuel (off + len) x (countEval pg len v s)

/-- A scan's result (R361). -/
def scanResult (st : Nat) (x : ScanSt) : List Byte :=
  leBytes 1 2 ++ leBytes 1 (b2n x.next.isSome) ++ leBytes 2 st ++ leBytes 4 x.out.length ++ leBytes 8 x.seen ++ leBytes 8 x.passed ++ leBytes 8 x.errs
  ++ leBytes 8 (x.next.getD 0) ++ List.replicate 24 0 ++ x.out

/-- Run a scan: a job that completes with its result, whose STATUS carries an unrecoverable read (R361, R383, R529). -/
def runScan (t : Tag) (p : ScanParm) (n : Ns) (s : State) : State :=
  let x0 : ScanSt := { unit := none, out := [], seen := 0, passed := 0, errs := 0, next := none }
  match scanLoop p n ((p.slba + p.nlb) * 4096) (p.nlb * 512 + 1) (p.slba * 4096) x0 s with
  | (.ok _, x, s) =>
    let s := cntAdd 0xD8 0x810 1 s
    let s := if x.next.isSome then cntAdd 0xD8 0x818 1 s else s
    succeed t 0 0 (scanResult 0 x) s
  | (.error u, x, s) =>
    let s := jobErr 0xD8 1 0xC001 (.scan t.conn t.cid) 0xF ((max (4 * u) p.slba) % 2 ^ 32) false s
    succeed t 0xC001 0 (scanResult 0xC001 { x with out := [], next := none }) s

/-- A Scan command. -/
def scanCmd (t : Tag) (q : Sqe) (d : List Byte) (s : State) : State :=
  let d := padTo q.sgl (d.take q.sgl)
  let s := mteBusy s
  if q.sgl < 64 then complete .bcs t stSglLength 0 0 [] s
  else if fld d 0 1 ≠ versionByte s then refuse t 0x0001 0 s
  else if q.sgl ≠ 64 + fld d 32 4 then complete .bcs t stSglLength 0 0 [] s
  else if !scanRanges d then refuse t cCMD_PARAM 0 s
  else if cdw q 10 < 64 then refuse t 0x2002 0 s
  else
    let p := scanParm d (cdw q 10)
    match progBad p.prog with
    | some i => refuse t 0xD801 0 (filterRefuse i s)
    | none => match ns? s p.nsid with
      | none => complete .bcs t stInvalidNs 0 0 [] s
      | some n =>
        if 4 * n.units < p.slba + p.nlb then complete .bcs t stLbaRange 0 0 [] s
        else runScan t p n (cntAdd 0xD8 0x800 1 s)

/-- SCAN (R361, R383). -/
def execScan (t : Tag) (q : Sqe) (d : List Byte) (s : State) : Res :=
  bcsRow t 0x87 q (resultFields q) (scanCmd t q d) s

end Sys2Proof.Machine
end

