-- ==== Sys2Proof/Machine/Capsule.lean ====
section
/-! DEFINITION. Command capsules and H2CData PDUs (R372, R373, R388, R389): the checks of a PDU, the commands that opcodes name,
and the solicitation of data. -/
namespace Sys2Proof.Machine
open Sys2Proof

def cSQ_OVERFLOW : Code := 0x2005
def cCID_DUPLICATE : Code := 0x2006
def cPDU_SEQUENCE : Code := 0x2007
def cHDGST : Code := 0x2008
def cPDU_FORMAT : Code := 0x2009
def cTLS_RECORD : Code := 0x200A

/-! ### Opcodes -/

/-- A command on a connection that is no queue: only Connect (R375). -/
def loneCommand (op : Nat) (t : Tag) (q : Sqe) (d : List Byte) (s : State) : Res :=
  if op = 0x7F ∧ q.nsid.toNat % 256 = 1 then
    if d.length < q.sgl then ok (connReply t stSglLength s) else execConnect t q d s
  else ok (connReply t stSequenceError s)

/-- A fabrics command, by its FCTYPE. Values PRESUMED from the standard (log entry 41). -/
def fabricsCommand (t : Tag) (q : Sqe) (d : List Byte) (s : State) : Res :=
  match q.nsid.toNat % 256 with
  | 0x00 => execPropertySet t q d s
  | 0x01 => execConnect t q d s
  | 0x04 => execPropertyGet t q d s
  | 0x08 => execDisconnect t q d s
  | _ => execInvalidCommandOpcode t q d s

/-- A Set Features command, by its feature. -/
def setFeaturesCommand (t : Tag) (q : Sqe) (d : List Byte) (s : State) : Res :=
  match q.cdw10.toNat % 256 with
  | 0x02 => execSetFeaturesPowerManagement t q d s
  | 0x07 => execSetFeaturesNumberOfQueues t q d s
  | _ => execSetFeatures t q d s

/-- A command of an admin queue, by its opcode (R369, R381). -/
def adminCommand (op : Nat) (t : Tag) (q : Sqe) (d : List Byte) (s : State) : Res :=
  match op with
  | 0x02 => execGetLogPage t q d s
  | 0x06 => execIdentify t q d s
  | 0x08 => execAbort t q d s
  | 0x09 => setFeaturesCommand t q d s
  | 0x0A => execGetFeatures t q d s
  | 0x0C => execAsynchronousEventRequest t q d s
  | 0x0D => execNamespaceManagement t q d s
  | 0x10 => execFirmwareCommit t q d s
  | 0x11 => execFirmwareImageDownload t q d s
  | 0x15 => execNamespaceAttachment t q d s
  | 0x18 => execKeepAlive t q d s
  | 0x7F => fabricsCommand t q d s
  | 0x80 => execFormatNvm t q d s
  | 0x84 => execSanitize t q d s
  | 0xC1 => execRegisterWindowWrite t q d s
  | 0xC2 => execRegisterWindowRead t q d s
  | _ => execInvalidCommandOpcode t q d s

/-- A command of an I/O queue, by its opcode (R369, R381). -/
def ioCommand (op : Nat) (t : Tag) (q : Sqe) (d : List Byte) (s : State) : Res :=
  match op with
  | 0x00 => execFlush t q d s
  | 0x01 => execNvmWrite t q d s
  | 0x02 => execNvmRead t q d s
  | 0x08 => execWriteZeroes t q d s
  | 0x09 => execDatasetManagement t q d s
  | 0x0C => execNvmVerify t q d s
  | 0x7F => fabricsCommand t q d s
  | 0x80 => execLoadContext t q d s
  | 0x81 => execWriteChart t q d s
  | 0x82 => execOutputDrain t q d s
  | 0x83 => execSearch t q d s
  | 0x84 => execUnloadContext t q d s
  | 0x85 => execSequenceJoin t q d s
  | 0x86 => execRegisterWindowRead t q d s
  | 0x87 => execScan t q d s
  | 0x88 => execBindIsland t q d s
  | 0x89 => execIngest t q d s
  | 0x8C => execSwapChart t q d s
  | 0x8D => execIndexMutate t q d s
  | 0x90 => execSequenceLeave t q d s
  | 0x91 => execRegisterWindowWrite t q d s
  | _ => execInvalidCommandOpcode t q d s

/-- The command of a capsule on its queue. -/
def runCommand (op : Nat) (t : Tag) (q : Sqe) (d : List Byte) (s : State) : Res :=
  if onAdmin s t then adminCommand op t q d s else ioCommand op t q d s

/-- Run a fetched command at the interface level in force when it was fetched (R55). -/
def runAtLevel (l : Bool) (op : Nat) (t : Tag) (q : Sqe) (d : List Byte) (s : State) : Res :=
  if l = s.chip.level1 then runCommand op t q d s
  else
    match runCommand op t q d (modChip (fun c => { c with level1 := l }) s) with
    | .next u => .next (modChip (fun c => { c with level1 := s.chip.level1 }) u)
    | .fault e => .fault e
    | .refused e => .refused e

/-! ### Data that a command solicits (R372) -/

/-- A command that moves data to the module is accepted at decode: what its dwords alone decide, its namespace and its SGL length
do not refuse it (DEDUCED, log entry 48). -/
def accepted (op : Nat) (t : Tag) (q : Sqe) (s : State) : Bool :=
  if maxData < q.sgl ∨ fatalStop s then false
  else if onAdmin s t then
    match op with
    | 0x0D => q.cdw10.toNat % 16 == 0 && q.sgl == 4096
    | 0x11 => q.sgl == 4 * (q.cdw10.toNat + 1) && decide (q.sgl % 4096 = 0 ∧ 4 * q.cdw11.toNat % 4096 = 0 ∧ 4 * q.cdw11.toNat + q.sgl ≤ 0x1000000)
    | 0x15 => q.sgl == 4096
    | 0xC1 => (windowFields q).isNone && q.sgl == 4 * q.cdw14.toNat
    | _ => false
  else if lifecycle s ≠ .operational then false
  else
    match op with
    | 0x01 => match nvmNs t q s with
      | some n => (nvmBad n q (nlb q * 4096) true).isNone && !s.ftl.readOnly
      | none => false
    | 0x09 => (nvmNs t q s).isSome && q.sgl == 16 * (q.cdw10.toNat % 256 + 1)
    | 0x81 => (chartFields q).isNone
    | 0x83 => (resultFields q).isNone
    | 0x87 => (resultFields q).isNone
    | 0x85 => (joinFields q).isNone && q.sgl == 4 * q.cdw15.toNat
    | 0x89 => !s.chip.level1 && (badCdw q [] fun _ => true).isNone
    | 0x8D => !s.chip.level1 && (badCdw q [] fun _ => true).isNone
    | 0x91 => (windowFields q).isNone && q.sgl == 4 * q.cdw14.toNat
    | _ => false

/-- The most bytes an R2T solicits, and an H2CData PDU carries. -/
def r2tMax : Nat := 262144

/-- Solicit a command's data in ascending offset, with at most `room` more R2Ts outstanding. -/
def solicit (conn cid : Nat) : Nat → State → State
  | 0, s => s
  | room + 1, s =>
    match (conn? s conn).bind fun c => c.outst.find? fun o => o.cid == cid with
    | none => s
    | some o =>
      if o.sqe.sgl ≤ o.asked then s
      else
        let n := min r2tMax (o.sqe.sgl - o.asked)
        let s := cntAdd 0x20 0x820 1 (emit (.r2t conn cid o.asked n) s)
        solicit conn cid room (modConn conn (fun c => { c with outst := c.outst.map fun x =>
          if x.cid == cid then { x with asked := o.asked + n, r2ts := x.r2ts ++ [(o.asked, o.asked + n)] } else x }) s)

/-- A command accepted with data still to come waits for it: it stands outstanding with the data of its capsule, and R2Ts go out.
Its arrival leaves PS4, or reverses an entry, as its execution would (R393). -/
def awaitData (op : Nat) (t : Tag) (q : Sqe) (d : List Byte) (s : State) : State :=
  match fetch t op q (!onAdmin s t || op == 0xC1) true s with
  | .error s => s
  | .ok s =>
    let room := ((conn? s t.conn).map fun c => c.maxr2t + 1).getD 0
    solicit t.conn t.cid room (modConn t.conn (fun c => { c with outst := c.outst.map fun x =>
      if x.cid == t.cid then { x with data := padTo q.sgl d, need := q.sgl - d.length, asked := d.length } else x }) s)

/-! ### The two PDUs -/

/-- COMMAND_CAPSULE (R372, R373, R388, R389): a capsule whose record, header digest or format fails is a queue error that loses the
stream; one on a frozen queue is discarded; one beyond the queue's size, or with an identifier still outstanding, is a queue error;
any other is fetched and executed, once its data has arrived. -/
def execCommandCapsule (conn op cid : Nat) (q : Sqe) (d : List Byte) (pdu : PduCheck) (s : State) : Res :=
  match conn? s conn with
  | none => ok s
  | some c =>
    if c.tls ∧ !pdu.tlsOk then ok (queueErr conn cTLS_RECORD 0xFFFF true pdu s)
    else if c.hdgst ∧ !pdu.hdgstOk then ok (queueErr conn cHDGST 0xFFFF true pdu s)
    else if !pdu.formatOk ∨ !c.icDone ∨ 8192 < d.length ∨ q.sgl < d.length then ok (queueErr conn cPDU_FORMAT 0xFFFF true pdu s)
    else
      let s := cntAdd 0x20 0x800 1 s
      let t : Tag := ⟨conn, cid⟩
      match c.queue with
      | none => loneCommand op t q d s
      | some (_, _, size) =>
        if c.frozen.isSome then ok (discardCapsule conn s)
        else if size + 1 ≤ c.outst.length then ok (queueErr conn cSQ_OVERFLOW cid false pdu s)
        else if c.outst.any fun o => o.cid == cid then ok (queueErr conn cCID_DUPLICATE cid false pdu s)
        else if d.length < q.sgl ∧ accepted op t q s then ok (awaitData op t q d s)
        else runCommand op t q d s

/-- Data of a command arrives at an outstanding R2T: the R2T next expects what follows, and ends at its end. -/
def placeData (off : Nat) (d : List Byte) (o : OutCmd) : OutCmd :=
  { o with
    data := overwrite o.data off d
    need := o.need - d.length
    r2ts := (o.r2ts.map fun r => if r.1 = off then (off + d.length, r.2) else r).filter fun r => decide (r.1 < r.2) }

/-- H2C_DATA (R372, R373): data that answers an outstanding R2T; a data digest error completes its command and changes nothing the
command would have written. -/
def execH2cData (conn cid off : Nat) (d : List Byte) (pdu : PduCheck) (digestOk : Bool) (s : State) : Res :=
  match conn? s conn with
  | none => ok s
  | some c =>
    if c.tls ∧ !pdu.tlsOk then ok (queueErr conn cTLS_RECORD 0xFFFF true pdu s)
    else if c.hdgst ∧ !pdu.hdgstOk then ok (queueErr conn cHDGST 0xFFFF true pdu s)
    else if !pdu.formatOk ∨ !c.icDone ∨ r2tMax < d.length then ok (queueErr conn cPDU_FORMAT 0xFFFF true pdu s)
    else
      let t : Tag := ⟨conn, cid⟩
      match (c.outst.find? fun o => o.cid == cid).bind fun o => (o.r2ts.find? fun r => r.1 == off).map fun r => (o, r) with
      | none => ok (queueErr conn cPDU_SEQUENCE cid false pdu s)
      | some (o, r) =>
        if r.2 < off + d.length then ok (queueErr conn cPDU_SEQUENCE cid false pdu s)
        else if c.ddgst ∧ !digestOk then
          let k : CmdKind := if onAdmin s t then .admin else if o.op < 0x80 then .nvm else .bcs
          ok (complete k t stTransientTransport 0 0 [] (cntAdd 0x20 0x828 1 s))
        else
          let o := placeData off d o
          let s := modConn conn (fun c => { c with outst := c.outst.map fun x => if x.cid == cid then o else x }) s
          if o.need = 0 then runAtLevel o.level1 o.op t o.sqe o.data s
          else ok (solicit conn cid (c.maxr2t + 1 - o.r2ts.length) s)

end Sys2Proof.Machine
end

