-- ==== Sys2Proof/Machine/VectorOps.lean ====
section
/-! DEFINITION. VECTOR, SPECIAL and REDUCE instructions of the vector unit (R175 to R177, R190 to R197, R204, R531). An instruction
reads its operands whole before it writes (log entry 34). -/
namespace Sys2Proof.Machine
open Sys2Proof

/-! ### Elements -/

/-- Bytes of an element of a type field: FP32, BF16, FP16. -/
def elBytes (ty : Nat) : Nat := if ty = 0 then 4 else 2

/-- The format of a type field. -/
def elFmt (ty : Nat) : Fmt := if ty = 0 then fp32 else if ty = 1 then bf16 else fp16

/-- Elements of a type as FP32 encodings, converted exactly (R191): FP32 keeps its encoding. -/
def elems (ty n : Nat) (b : List Byte) : List Nat :=
  (List.range n).map fun i => let v := fld b (elBytes ty * i) (elBytes ty)
    if ty = 0 then v else fconv (elFmt ty) fp32 v

/-- Bytes of FP32 values converted to a type (R105). -/
def unElems (ty : Nat) (vs : List Nat) : List Byte :=
  vs.flatMap fun v => leBytes (elBytes ty) (if ty = 0 then v else fconv fp32 (elFmt ty) v)

/-- A vector instruction: at brake level the vector unit is gated and the instruction waits (R505). -/
def vsuInsn (k : Nat) (l1 bad : Bool) (s : State) (f : Run → Ctx → Step → Res) : Res :=
  insn k l1 bad s fun r c st => if brakeLevel s then stay k .interlock s else f r c st

/-- A job fault of the vector unit: VSU_LAST_FAULT and its index (R216). -/
def vsuFault (k : Nat) (r : Run) (code : Code) (i : Nat) (s : State) : Res :=
  coreFault k r code (modCore k (fun c => { c with vsuFault := code, vsuIndex := i % 2 ^ 32 }) s)

/-- Count on a core's page. -/
def vsuCnt (k off n : Nat) (s : State) : State := cntAdd (0x40 + k) off n s

/-! ### VECTOR (R175) -/

/-- Larger or smaller of two FP32 values; NaN operands and zeros of opposite sign are not stated (log entry 7). -/
def vecMaxMin (isMax : Bool) (x y : Nat) : Nat :=
  if isNaN x ∨ isNaN y then Config.maxNaN isMax x y % 2 ^ 32
  else if x % 2 ^ 31 = 0 ∧ y % 2 ^ 31 = 0 ∧ x ≠ y then (if Config.zeroFirst isMax then x else y)
  else if flt x y = isMax then y else x

/-- Canonical NaN (R105). -/
def canon (w : Nat) : Nat := if isNaN w then fpNaN else w

/-- An elementwise operation with its operand forms: `useY` reads Y unless BCAST, `useD` reads D first. -/
def vecOp (k : Nat) (f : IFields) (useY useD : Bool) (s : State) (g : Nat → Nat → Nat → Nat) : Res :=
  let tx := extF f 1 0
  let ty := extF f 3 2
  let td := extF f 5 4
  let yMem := useY && extF f 6 6 == 0
  vsuInsn k true (modBad f 0 || tx == 3 || ty == 3 || td == 3 || aBad f.rd || aBad f.ra || (yMem && aBad f.rb)) s fun r _ st =>
    let n := (getS r f.rc).toNat
    let x := (getA r f.ra).toNat
    let y := (getA r f.rb).toNat
    let d := (getA r f.rd).toNat
    afterChecks
      ([chkCount k r n 1 (2 ^ 24) s, chkAlign k r x (elBytes tx) s] ++ (if yMem then [chkAlign k r y (elBytes ty) s] else [])
      ++ [chkAlign k r d (elBytes td) s, chkRd k r st (Ext.one x (n * elBytes tx)) s]
      ++ (if yMem then [chkRd k r st (Ext.one y (n * elBytes ty)) s] else [])
      ++ (if useD then [chkRd k r st (Ext.one d (n * elBytes td)) s] else [])
      ++ [chkWr k r (Ext.one d (n * elBytes td)) s]) fun _ =>
    rdThen k r.ctx x (n * elBytes tx) s fun bx s =>
    rdThen k r.ctx y (if yMem then n * elBytes ty else 0) s fun by_ s =>
    rdThen k r.ctx d (if useD then n * elBytes td else 0) s fun bd s =>
      let xs := elems tx n bx
      let ys := if yMem then elems ty n by_ else List.replicate n f.imm.toNat
      let ds := if useD then elems td n bd else List.replicate n 0
      let out := (List.zip xs (List.zip ys ds)).map fun p => canon (g p.1 p.2.1 p.2.2)
      wrThen k r.ctx d (unElems td out) s fun s => ok (advance k (vsuCnt k 0xA00 n s))

/-- VECTOR ADD (R175). -/
def execVectorAdd (k : Nat) (f : IFields) (s : State) : Res := vecOp k f true false s fun x y _ => fadd x y
/-- VECTOR SUB (R175). -/
def execVectorSub (k : Nat) (f : IFields) (s : State) : Res := vecOp k f true false s fun x y _ => fsub x y
/-- VECTOR MUL (R175). -/
def execVectorMul (k : Nat) (f : IFields) (s : State) : Res := vecOp k f true false s fun x y _ => fmul x y
/-- VECTOR MAX (R175). -/
def execVectorMax (k : Nat) (f : IFields) (s : State) : Res := vecOp k f true false s fun x y _ => vecMaxMin true x y
/-- VECTOR MIN (R175). -/
def execVectorMin (k : Nat) (f : IFields) (s : State) : Res := vecOp k f true false s fun x y _ => vecMaxMin false x y
/-- VECTOR ABS (R175). -/
def execVectorAbs (k : Nat) (f : IFields) (s : State) : Res := vecOp k f false false s fun x _ _ => fabs x
/-- VECTOR NEG (R175). -/
def execVectorNeg (k : Nat) (f : IFields) (s : State) : Res := vecOp k f false false s fun x _ _ => fneg x
/-- VECTOR CVT (R175). -/
def execVectorCvt (k : Nat) (f : IFields) (s : State) : Res := vecOp k f false false s fun x _ _ => x
/-- VECTOR MAC (R175): one product and one sum, each rounded. -/
def execVectorMac (k : Nat) (f : IFields) (s : State) : Res := vecOp k f true true s fun x y d => fadd (fmul x y) d

/-! ### SPECIAL FN (R176, R203, R204) -/

/-- y = rne32(f(rne32(x + b)) × g). Under COMPAT1 a NaN keeps its payload through the evaluation (R209, R210; log entry 32). -/
def specialEl (c : SfuCtx) (fn beta g x b : Nat) : Nat :=
  let a := if c.compat ∧ isNaN x then x else fadd x b
  let y := sfuEval c fn beta a
  if c.compat ∧ isNaN y then y else fmul y g

/-- SPECIAL_FN (R176). -/
def execSpecialFn (k : Nat) (f : IFields) (s : State) : Res :=
  let fn := extF f 4 0
  let bias := extF f 5 5 == 1
  let tx := extF f 7 6
  let td := extF f 9 8
  let rowLen := extF f 29 10
  let beta := extF f 63 32
  vsuInsn k true (modBad f 0 || 11 < fn || tx == 3 || td == 3 || aBad f.rd || aBad f.ra || (bias && (aBad f.rb || rowLen == 0))
      || (fn == 11 && !betaGood beta)) s fun r _ st =>
    let n := (getS r f.rc).toNat
    let x := (getA r f.ra).toNat
    let y := (getA r f.rb).toNat
    let d := (getA r f.rd).toNat
    let bl := if bias then 4 * min n rowLen else 0
    afterChecks
      ([chkCount k r n 1 (2 ^ 24) s, chkAlign k r x (elBytes tx) s, chkAlign k r d (elBytes td) s]
      ++ (if bias then [chkAlign k r y 4 s] else []) ++ [chkRd k r st (Ext.one x (n * elBytes tx)) s]
      ++ (if bias then [chkRd k r st (Ext.one y bl) s] else []) ++ [chkWr k r (Ext.one d (n * elBytes td)) s]) fun _ =>
    rdThen k r.ctx x (n * elBytes tx) s fun bx s =>
    rdThen k r.ctx y bl s fun bb s =>
      let c := stepSfu s st
      let out := (elems tx n bx).zipIdx.map fun p =>
        specialEl c fn beta f.imm.toNat p.1 (if bias then fld bb (4 * (p.2 % rowLen)) 4 else 0)
      wrThen k r.ctx d (unElems td out) s fun s => ok (advance k (vsuCnt k 0xA08 n s))

/-! ### REDUCE (R177, R191 to R197) -/

/-- Maximum of a row without NaN, in the order of R531; −∞ for none. -/
def rowMax (xs : List Nat) : Nat := xs.foldl fmax fpNegInf

/-- The larger of a running maximum and a block's; statistics that hold a NaN are not stated (log entry 7). -/
def statMax (m b : Nat) : Nat := if isNaN m then Config.maxNaN true m b % 2 ^ 32 else fmax m b

/-- Statistics of a row: running maximum and sum, with the count of exponentials and of blocks that raised the maximum. -/
structure Stat where
  m : Nat
  s : Nat
  exps : Nat
  rises : Nat
  deriving DecidableEq, Repr

/-- SMSTAT over the blocks of 4,096 entries of a chunk (R192). -/
def smFold (c : SfuCtx) : Nat → List Nat → Stat → Stat
  | 0, _, t => t
  | fuel + 1, xs, t =>
    if xs.isEmpty then t
    else
      let b := xs.take 4096
      let mb := rowMax b
      let t2 : Stat :=
        if mb = fpNegInf then t
        else
          let m2 := statMax t.m mb
          let sum := tree (b.map fun x => sfuExp c (fsub x m2))
          { m := m2, s := fadd (fmul t.s (sfuExp c (fsub t.m m2))) sum, exps := t.exps + b.length + 1, rises := t.rises + b2n (m2 != t.m) }
      smFold c fuel (xs.drop 4096) t2

/-- Fold a chunk into statistics. -/
def smStat (c : SfuCtx) (xs : List Nat) (m s : Nat) : Stat := smFold c (xs.length / 4096 + 1) xs { m := m, s := s, exps := 0, rises := 0 }

/-- SMAPPLY of a row under its statistics (R193). -/
def smApply (c : SfuCtx) (m s : Nat) (xs : List Nat) : List Nat :=
  if m = fpNegInf then xs.map fun _ => 0
  else
    let r := sfuRcp c s
    xs.map fun x => canon (fmul (sfuExp c (fsub x m)) r)

/-- RMSNORM of a row (R195). -/
def rmsNorm (c : SfuCtx) (eps : Nat) (g xs : List Nat) : List Nat :=
  let q := fdiv (tree (xs.map fun x => fmul x x)) (fofInt xs.length)
  let r := sfuRsqrt c (fadd q eps)
  List.zipWith (fun x w => canon (fmul (fmul x r) w)) xs g

/-- LAYERNORM of a row (R196). -/
def layerNorm (c : SfuCtx) (eps : Nat) (g b xs : List Nat) : List Nat :=
  let n := fofInt xs.length
  let mu := fdiv (tree xs) n
  let d := xs.map fun x => fsub x mu
  let v := fdiv (tree (d.map fun x => fmul x x)) n
  let r := sfuRsqrt c (fadd v eps)
  List.zipWith (fun x w => canon (fadd (fmul (fmul x r) w.1) w.2)) d (List.zip g b)

/-- Index of a row's maximum, ties to the lowest (R177, R531). -/
def argMax (xs : List Nat) : Nat :=
  (xs.zipIdx.foldl (fun (a : Option (Nat × Nat)) p => match a with
    | none => some p
    | some q => if flt q.1 p.1 then some p else some q) none |>.map Prod.snd).getD 0

/-- First entry that is NaN or +∞ (and −∞ where `both`), over all rows (R197). -/
def nonFinite (both : Bool) (xs : List Nat) : Option Nat :=
  xs.findIdx? fun x => isNaN x || isInf x false || (both && isInf x true)

/-- Which operation of REDUCE. -/
inductive RedOp where
  | rmax
  | rsum
  | softmax
  | smstat
  | smapply
  | rmsnorm
  | layernorm
  | argmax
  deriving DecidableEq, Repr

/-- Bytes of parameters at A[RB] for rows of `n` entries. -/
def RedOp.parmBytes (o : RedOp) (rows n : Nat) : Nat :=
  match o with
  | .smstat => 8 * rows
  | .smapply => 8 * rows
  | .rmsnorm => 4 * n
  | .layernorm => 8 * n
  | _ => 0

/-- Bytes of a row's result at A[RD] for output type `td`. -/
def RedOp.outBytes (o : RedOp) (td n : Nat) : Nat :=
  match o with
  | .rmax => 4
  | .rsum => 4
  | .argmax => 4
  | .smstat => 0
  | _ => n * elBytes td

/-- Entries that fault: NaN and +∞, −∞ too in the normalisations; none in RMAX and RSUM (R197). -/
def RedOp.faulty (o : RedOp) (xs : List Nat) : Option Nat :=
  match o with
  | .rmax => none
  | .rsum => none
  | .rmsnorm => nonFinite true xs
  | .layernorm => nonFinite true xs
  | _ => nonFinite false xs

/-- What one row gives: the bytes of its result, its new statistics, exponentials and other special functions, rises. -/
structure RowOut where
  out : List Byte
  stat : List Byte
  sfu : Nat
  rises : Nat
  deriving DecidableEq, Repr

/-- One row of an operation: `pm` and `ps` are the row's statistics, `parm` the parameter bytes. -/
def RedOp.row (o : RedOp) (c : SfuCtx) (td eps : Nat) (afresh : Bool) (parm : List Byte) (i : Nat) (xs : List Nat) : RowOut :=
  let n := xs.length
  let pm := fld parm (8 * i) 4
  let ps := fld parm (8 * i + 4) 4
  match o with
  | .rmax => { out := leBytes 4 (if xs.any isNaN then fpNaN else rowMax xs), stat := [], sfu := 0, rises := 0 }
  | .rsum => { out := leBytes 4 (canon (tree xs)), stat := [], sfu := 0, rises := 0 }
  | .softmax =>
    let t := smStat c xs fpNegInf 0
    let none_ := decide (t.m = fpNegInf)
    { out := unElems td (smApply c t.m t.s xs), stat := [], sfu := t.exps + (if none_ then 0 else n + 1), rises := t.rises }
  | .smstat =>
    let t := smStat c xs (if afresh then fpNegInf else pm) (if afresh then 0 else ps)
    { out := [], stat := leBytes 4 t.m ++ leBytes 4 t.s, sfu := t.exps, rises := t.rises }
  | .smapply => { out := unElems td (smApply c pm ps xs), stat := [], sfu := if pm = fpNegInf then 0 else n + 1, rises := 0 }
  | .rmsnorm => { out := unElems td (rmsNorm c eps (elems 0 n parm) xs), stat := [], sfu := 1, rises := 0 }
  | .layernorm =>
    { out := unElems td (layerNorm c eps (elems 0 n parm) (elems 0 n (parm.drop (4 * n))) xs), stat := [], sfu := 1, rises := 0 }
  | .argmax => { out := leBytes 4 (argMax xs), stat := [], sfu := 0, rises := 0 }

/-- ε is finite and not negative (R195). -/
def epsGood (w : Nat) : Bool := isFin w && (!bit w 31 || w % 2 ^ 31 == 0)

/-- A REDUCE instruction (R177). -/
def redOp (k : Nat) (f : IFields) (o : RedOp) (s : State) : Res :=
  let rows := extF f 15 0 + 1
  let tx := extF f 17 16
  let td := extF f 19 18
  let norm := o == .rmsnorm || o == .layernorm
  let useB := o.parmBytes 1 1 != 0
  let useD := o != .smstat
  vsuInsn k true (modBad f (if o == .smstat then 1 else 0) || tx == 3 || td == 3 || aBad f.ra || (useD && aBad f.rd) || (useB && aBad f.rb)
      || (norm && !epsGood f.imm.toNat)) s fun r _ st =>
    let n := (getS r f.rc).toNat
    let x := (getA r f.ra).toNat
    let p := (getA r f.rb).toNat
    let d := (getA r f.rd).toNat
    let xl := rows * n * elBytes tx
    let pl := o.parmBytes rows n
    let ol := rows * o.outBytes td n
    let outAl := if o == .rmax || o == .rsum || o == .argmax then 4 else elBytes td
    afterChecks
      ([chkCount k r n 1 (2 ^ 20) s, chkAlign k r x (elBytes tx) s] ++ (if useB then [chkAlign k r p 4 s] else [])
      ++ (if useD then [chkAlign k r d outAl s] else []) ++ [chkRd k r st (Ext.one x xl) s]
      ++ (if useB then [chkRd k r st (Ext.one p pl) s] else [])
      ++ (if useD then [chkWr k r (Ext.one d ol) s] else [chkWr k r (Ext.one p pl) s])) fun _ =>
    rdThen k r.ctx x xl s fun bx s =>
    rdThen k r.ctx p pl s fun bp s =>
      let xs := elems tx (rows * n) bx
      match o.faulty xs with
      | some i => vsuFault k r 0x4012 i s
      | none =>
        let c := stepSfu s st
        let outs := (List.range rows).map fun i => o.row c td f.imm.toNat (f.md.toNat % 2 = 1) bp i ((xs.drop (i * n)).take n)
        let s := vsuCnt k 0xA10 rows (vsuCnt k 0xA08 (outs.map (·.sfu)).sum (vsuCnt k 0xA20 (outs.map (·.rises)).sum s))
        let (a, b) := if useD then (d, outs.flatMap (·.out)) else (p, outs.flatMap (·.stat))
        wrThen k r.ctx a b s fun s => ok (advance k s)

/-- RMAX (R177). -/
def execRmax (k : Nat) (f : IFields) (s : State) : Res := redOp k f .rmax s
/-- RSUM (R177, R191). -/
def execRsum (k : Nat) (f : IFields) (s : State) : Res := redOp k f .rsum s
/-- SOFTMAX (R193). -/
def execSoftmax (k : Nat) (f : IFields) (s : State) : Res := redOp k f .softmax s
/-- SMSTAT (R192). -/
def execSmstat (k : Nat) (f : IFields) (s : State) : Res := redOp k f .smstat s
/-- SMAPPLY (R193). -/
def execSmapply (k : Nat) (f : IFields) (s : State) : Res := redOp k f .smapply s
/-- RMSNORM (R195). -/
def execRmsnorm (k : Nat) (f : IFields) (s : State) : Res := redOp k f .rmsnorm s
/-- LAYERNORM (R196). -/
def execLayernorm (k : Nat) (f : IFields) (s : State) : Res := redOp k f .layernorm s
/-- ARGMAX (R177, R197). -/
def execArgmax (k : Nat) (f : IFields) (s : State) : Res := redOp k f .argmax s

end Sys2Proof.Machine
end

