-- ==== Sys2Proof/Machine/QuantOps.lean ====
section
/-! DEFINITION. QUANT instructions: NARROW (R106 to R112, R178), DEQ (R103, R104, R178, R179), KVSTORE (R115, R116, R178) and
EMBED8 (R118, R178). -/
namespace Sys2Proof.Machine
open Sys2Proof

/-! ### NARROW -/

/-- m × 2^e, bounded as R107 says. -/
def scaleA (m e : Nat) : Nat :=
  match fdec fp32 m with
  | .fin neg x k => boundA (fround fp32 neg x (k + (e : Int)))
  | _ => boundA m

/-- Largest of the newest min(count, n) entries of a history record (R109). -/
def histMax (h : HistRec) (n : Nat) : Nat :=
  ((List.range (min h.count n)).map fun i => h.ring.getD ((h.next + 15 - i) % 16) 0).foldl fmaxAbs 0

/-- The form and A that a plain narrowing chooses (R109). -/
def chooseForm (t : Tensor) (h : HistRec) (m : Nat) : Bool × Nat :=
  if h.count < t.warm then (true, scaleA m t.headroom) else (false, scaleA (histMax h t.depth) t.headroom)

/-- Q of a form (R107). -/
def formQ (int16 : Bool) : Nat := if int16 then 32639 else 127

/-- Narrow elements: stored values and saturations (R107). -/
def narrowAll (int16 : Bool) (a : Nat) (xs : List Nat) : List Int × Nat :=
  let inv := fdiv (fofInt (formQ int16)) a
  let r := xs.map (narrowEl (formQ int16) inv)
  (r.map Prod.fst, (r.filter Prod.snd).length)

/-- Bytes of narrowed values. -/
def narrowBytes (int16 : Bool) (vs : List Int) : List Byte :=
  vs.flatMap fun v => if int16 then leBytes 2 (toBits 16 v) else leBytes 1 (toBits 8 v)

/-- A narrowing's state in the step: the plain one, or the re-run, which keeps the plain one's maximum and saturations. -/
def narrowState (t : Tensor) (h : HistRec) (old : Option NpSt) (xs : List Nat) : NpSt × List Int × Nat :=
  match old with
  | some p =>
    let a := scaleA p.m t.headroom
    let (vs, sat) := narrowAll true a xs
    ({ p with int16 := true, a := a, s := fdiv a (fofInt 32639), rerun := true, verdict := .accept }, vs, sat)
  | none =>
    let m := xs.foldl fmaxAbs 0
    let (i16, a) := chooseForm t h m
    let (vs, sat) := narrowAll i16 a xs
    ({ int16 := i16, a := a, s := fdiv a (fofInt (formQ i16)), m := m, sat := sat, rerun := false,
       verdict := if !i16 && decide (t.satThr < sat) then .rerun else .accept }, vs, sat)

/-- The bursts of a history record in external memory (R113). -/
def histBursts (c : Ctx) (i : Nat) : List Nat :=
  match c.layoutPhys (96 * i) with
  | none => []
  | some a => (List.range ((a + 95) / 64 + 1 - a / 64)).map fun j => a / 64 + j

/-- Check a history record's bursts: an uncorrectable one sets the record to 0 and faults the job (R277). -/
def histCheck (c : Ctx) (i : Nat) (s : State) : Bool × State := match burstPartChecks (histBursts c i) s with
  | (none, s) => (true, s)
  | (some _, s) => (false, s)

/-- What a narrowing may not do: a second plain one, or a re-run while the verdict is not RERUN (R112, R178). -/
def narrowReuse (rerun : Bool) (old : Option NpSt) : Bool :=
  match old with
  | none => rerun
  | some p => !rerun || p.verdict != .rerun

/-- NARROW (R109, R178). -/
def execNarrow (k : Nat) (f : IFields) (s : State) : Res :=
  let ty := extF f 13 12
  let rerun := f.md.toNat % 2 == 1
  vsuInsn k true (modBad f 1 || ty == 3 || aBad f.rd || aBad f.ra) s fun r c st =>
    match actEntry c.pkg (extF f 11 0) with
    | none => coreFault k r cNP_INVALID s
    | some (e, t) =>
      let old := smFind st.np e
      let n := (getS r f.rc).toNat
      let x := (getA r f.ra).toNat
      let d := (getA r f.rd).toNat
      let w := if rerun || (chooseForm t (smGet HistRec.zero c.hist t.histIdx) 0).1 then 2 else 1
      if narrowReuse rerun old then coreFault k r cSCALE_REUSE s
      else afterChecks [chkAlign k r x (elBytes ty) s, chkAlign k r d w s, chkRd k r st (Ext.one x (n * elBytes ty)) s,
          chkWr k r (Ext.one d (n * w)) s] fun _ =>
        rdThen k r.ctx x (n * elBytes ty) s fun b s =>
          let xs := elems ty n b
          match xs.findIdx? fun v => !isFin v with
          | some i => vsuFault k r 0x4010 i s
          | none => match histCheck c t.histIdx s with
            | (false, s) => ok (jobFault r.ctx (some k) 0xA001 (modCtx r.ctx (fun c => { c with hist := smDel c.hist t.histIdx }) s))
            | (true, s) =>
              let (np, vs, sat) := narrowState t (smGet HistRec.zero c.hist t.histIdx) (if rerun then old else none) xs
              wrThen k r.ctx d (narrowBytes np.int16 vs) s fun s =>
                let s := modCtx r.ctx (fun c => { c with step := c.step.map fun st => { st with np := smSet st.np e np } }) s
                let s := vsuCnt k 0xA00 n (vsuCnt k 0xA28 n (vsuCnt k 0xA30 sat s))
                let s := if rerun then vsuCnt k 0xA38 1 s else s
                ok (advance k (modRunOf k (fun r => setS r f.rb (if np.int16 then 1 else 0)) s))

/-! ### DEQ -/

/-- Column scales that are NaN or infinite (R104). -/
def badScale (l : List Nat) : Option Nat := l.findIdx? fun c => !isFin (bfTo32 c)

/-- Rows of sums: R, or W = 256 × H + L (R103). -/
def deqSums (wide : Bool) (b : Nat) (rows : List (List Nat)) : List (List Int) :=
  (List.range b).map fun v =>
    let l := (rows.getD v []).map (signed 48)
    if wide then List.zipWith (fun x h => 256 * h + x) l ((rows.getD (b + v) []).map (signed 48)) else l

/-- y = rne32(rne32(R) × rne32(s × c)) (R104). -/
def deqEl (s c : Nat) (v : Int) : Nat := fmul (fofInt v) (fmul s c)

/-- The scale of a DEQ and whether its sums are wide, or how it ends: by the point's final narrowing, or by IMM32 (R178). -/
def deqScale (k : Nat) (r : Run) (c : Ctx) (st : Step) (f : IFields) (s : State) : Except Res (Nat × Bool) :=
  let np := extF f 17 6
  if np = 0 then .ok (f.imm.toNat, extF f 20 20 = 1)
  else match actEntry c.pkg np with
    | none => .error (coreFault k r cNP_INVALID s)
    | some e => match smFind st.np e.1 with
      | none => .error (coreFault k r cNP_INVALID s)
      | some p => if p.verdict = .rerun then .error (stay k (.verdict np) s) else .ok (p.s, p.int16)

/-- The column scales of a DEQ: all 1.0, or the latch's, whose TAG must carry LAYER_GEN (R178, R179). -/
def deqCols (k : Nat) (r : Run) (f : IFields) (s : State) : Except Res (List Nat) :=
  if extF f 21 21 = 0 then .ok (List.replicate 128 0x3F80)
  else match r.latch with
    | none => .error (coreFault k r cCOLSCALE_EMPTY s)
    | some (tag, cols) =>
      let want := extF f 63 52 * 2 ^ 20 + bits tag 19 4 * 2 ^ 4 + extF f 51 48
      if tag ≠ want then
        .error (coreFault k r 0x4002 (modCore k (fun c => { c with skewData := tag, skewScale := tag, skewExpect := want }) s))
      else .ok cols

/-- Source rows of a DEQ: accumulator rows, or partial-sum rows (R178). -/
def deqRows (k : Nat) (r : Run) (f : IFields) (n : Nat) (s : State) (g : List (List Nat) → State → Res) : Res :=
  if f.md.toNat % 2 = 1 then
    rdThen k r.ctx (getA r f.ra).toNat (n * 768) s fun b s => g ((List.range n).map (partialRow b)) s
  else match accReads k (extF f 5 0 * 128) (n * 128) s with
    | (none, s) => ok (jobFault r.ctx (some k) 0x4006 s)
    | (some l, s) => g ((List.range n).map fun i => (l.drop (128 * i)).take 128) s

/-- Rows that a matrix instruction in progress will write to accumulator memory: a reader of them waits (R138). -/
def accPending (r : Run) (row n : Nat) : Bool :=
  match r.mat with
  | none => false
  | some m => m.rows.any fun w => w.toAcc && decide (row ≤ w.at_) && decide (w.at_ < row + n)

/-- DEQ (R104, R178). -/
def execDeq (k : Nat) (f : IFields) (s : State) : Res :=
  let part := f.md.toNat % 2 == 1
  let td := extF f 19 18
  let cols := extF f 21 21 == 1
  vsuInsn k true (modBad f 1 || td == 3 || extF f 47 22 != 0 || (extF f 17 6 != 0 && extF f 20 20 == 1) || aBad f.rd || (part && aBad f.ra)) s
    fun r c st =>
    let b := (getS r f.rc).toNat
    let a := (getA r f.ra).toNat
    let d := (getA r f.rd).toNat
    let row := extF f 5 0
    let busyLatch := cols && (match r.mat with | some m => m.latches | none => false)
    match deqScale k r c st f s with
    | .error x => x
    | .ok (sc, wide) =>
      let n := b * (if wide then 2 else 1)
      afterChecks
        ([chkCount k r b 0 (if part then 2 ^ 20 else (64 - row) / (if wide then 2 else 1)) s, chkAlign k r d (elBytes td) s]
        ++ (if part then [chkAlign k r a 64 s, if windowOf a ≠ 0 then some (coreFault k r (if 6 < windowOf a then cADDR_RANGE else cADDR_PERM) s) else none,
              chkRd k r st (Ext.one a (n * 768)) s]
            else [if accDiscarded st k row n then some (coreFault k r cVERDICT_DISCARD s) else none,
                  if accPending r row n then some (stay k .interlock s) else none])
        ++ [chkWr k r (Ext.one d (b * 128 * elBytes td)) s, if busyLatch then some (stay k .interlock s) else none]) fun _ =>
      match deqCols k r f s with
      | .error x => x
      | .ok cs =>
        if b = 0 then ok (advance k s)
        else match badScale cs with
          | some i => vsuFault k r 0x4011 i s
          | none => deqRows k r f n s fun rows s =>
              let c32 := cs.map bfTo32
              let out := (deqSums wide b rows).flatMap fun vs => List.zipWith (fun v c => canon (deqEl sc c v)) vs c32
              wrThen k r.ctx d (unElems td out) s fun s => ok (advance k (vsuCnt k 0xA00 (b * 128) s))

/-! ### KVSTORE -/

/-- One row of a cache write: sequence, position, row number. -/
structure KvRow where
  seq : Nat
  pos : Nat
  row : Nat
  deriving DecidableEq, Repr

/-- The rows a step writes for a layer: ascending sequence number, then ascending position (R178). -/
def kvRows (batch : List BatchEnt) : List KvRow :=
  ((batch.flatMap fun b => (List.range b.n).map fun i => (b.seq, b.pos + i)).zipIdx).map fun e => ⟨e.1.1, e.1.2, e.2⟩

/-- Elements of head `g` in a row: keys, then values (R115, R178). -/
def headVals (kvh hd g : Nat) (row : List Nat) : List Nat := (row.drop (g * hd)).take hd ++ (row.drop ((kvh + g) * hd)).take hd

/-- Page scale of a head from the values of the positions that open it (R116). -/
def pageScale (ekv : Nat) (vals : List Nat) : Nat :=
  if vals.any fun v => !isFin v then Config.kvScaleFree (vals.foldl (fun h v => (h * 31 + v) % 2 ^ 64) 7) % 2 ^ 16
  else match fdec fp32 (vals.foldl fmaxAbs 0) with
    | .fin _ m e => if m = 0 then 0x0080 else bfUpQuot m (e + (ekv : Int)) 127
    | _ => 0x0080

/-- One element narrowed under a page scale (R107, R116): its byte, and whether it saturated. -/
def kvEl (scale x : Nat) : Byte × Bool :=
  if isFin x && isFin (bfTo32 scale) then
    let r := narrowEl 127 (fdiv fpOne (bfTo32 scale)) x
    (BitVec.ofNat 8 (toBits 8 r.1), r.2)
  else (BitVec.ofNat 8 (Config.e8Free x), false)

/-- The scales of each page the step writes in a layer: those it opens now, then those already set (R116). -/
def kvScales (c : Ctx) (st : Step) (layer ekv : Nat) (xs : List Nat) (rows : List KvRow) : SMap (List Nat) :=
  let kvh := c.pkg.kvHeads
  let hd := c.pkg.headDim
  let rl := 2 * kvh * hd
  rows.foldl (fun m w =>
    let key := stepPageKey w.seq layer (w.pos / 64)
    if (smFind m key).isSome then m
    else match smFind st.kvScale key with
      | some l => smSet m key l
      | none =>
        if w.pos % 64 = 0 then
          let mine := (rows.filter fun v => v.seq = w.seq ∧ v.pos / 64 = w.pos / 64).map fun v => (xs.drop (v.row * rl)).take rl
          smSet m key ((List.range kvh).map fun g => pageScale ekv (mine.flatMap (headVals kvh hd g)))
        else
          let pg := (smFind c.seqs w.seq).bind fun q => smFind q.pages (pageKey layer (w.pos / 64))
          smSet m key ((pg.map (·.scales)).getD [])) []

/-- Bytes of one row under its page's scales, in the order of R115, and its saturations. -/
def kvRowBytes (c : Ctx) (scales xs : List Nat) : List Byte × Nat :=
  let hd := max c.pkg.headDim 1
  let els := xs.zipIdx.map fun e => kvEl (scales.getD ((e.2 / hd) % max c.pkg.kvHeads 1) 0) e.1
  (els.map Prod.fst, (els.filter Prod.snd).length)

/-- Layout offset of a row in its page's slot; none while the page is not in external memory. -/
def kvPlace (c : Ctx) (layer : Nat) (w : KvRow) : Option Nat :=
  match (smFind c.seqs w.seq).bind fun q => smFind q.pages (pageKey layer (w.pos / 64)) with
  | some p => match p.at_ with
    | .slot sl => some (slotOff c sl + (w.pos % 64) * (2 * c.pkg.kvHeads * c.pkg.headDim))
    | .demoting sl => some (slotOff c sl + (w.pos % 64) * (2 * c.pkg.kvHeads * c.pkg.headDim))
    | _ => none
  | none => none

/-- Address of a row in the CACHE window. -/
def kvAddr (c : Ctx) (layer : Nat) (w : KvRow) : Nat :=
  5 * 2 ^ 60 + w.seq * 2 ^ 48 + layer * 2 ^ 36 + (w.pos / 64) * 2 ^ 22 + (w.pos % 64) * (2 * c.pkg.kvHeads * c.pkg.headDim)

/-- Stage the bytes of the rows; a burst written in part must be readable (R254). -/
def kvWrite (c : Ctx) (layer : Nat) (scales : SMap (List Nat)) (xs : List Nat) : List KvRow → SMap Byte → Nat → State →
    Except (Nat × State) (SMap Byte × Nat × State)
  | [], m, sat, s => .ok (m, sat, s)
  | w :: ws, m, sat, s =>
    let rl := 2 * c.pkg.kvHeads * c.pkg.headDim
    match kvPlace c layer w with
    | none => kvWrite c layer scales xs ws m sat s
    | some off =>
      let (d, n) := kvRowBytes c ((smFind scales (stepPageKey w.seq layer (w.pos / 64))).getD []) ((xs.drop (w.row * rl)).take rl)
      let segs := xmSegs c.layoutPhys (segFuel rl) off rl
      let parts := segs.flatMap fun g => match g with
        | .xm a l => partialBursts a l
        | _ => []
      match burstPartChecks parts s with
      | (some _, s) => .error (w.seq, s)
      | (none, s) =>
        let m2 := segs.foldl (fun (p : SMap Byte × List Byte) g => match g with
          | .xm a l => ((List.zipIdx (p.2.take l)).foldl (fun m e => smSet m (a + e.2) e.1) p.1, p.2.drop l)
          | _ => p) (m, d)
        kvWrite c layer scales xs ws m2.1 (sat + n) s

/-- KVSTORE (R116, R178). -/
def execKvstore (k : Nat) (f : IFields) (s : State) : Res :=
  let ty := extF f 13 12
  let layer := extF f 11 0
  vsuInsn k true (modBad f 0 || ty == 3 || aBad f.ra) s fun r c st =>
    let n := (getS r f.rc).toNat
    let a := (getA r f.ra).toNat
    let rl := 2 * c.pkg.kvHeads * c.pkg.headDim
    let rows := if c.pkg.kvHeads = 0 ∨ c.pkg.layers ≤ layer then [] else kvRows st.batch
    let kv := (c.pkg.tensors.find? fun t => t.format = 6).map fun t => (t.histIdx, t.headroom)
    let waits := rows.any fun w => writeWaits s k r (Ext.one (kvAddr c layer w) rl)
    afterChecks [chkCount k r n rows.length rows.length s, chkAlign k r a (elBytes ty) s, chkRd k r st (Ext.one a (n * rl * elBytes ty)) s,
        if waits then some (stay k .interlock s) else none,
        if rows.any fun w => (kvPlace c layer w).isNone then some (stay k .flash s) else none] fun _ =>
      rdThen k r.ctx a (n * rl * elBytes ty) s fun b s =>
        let xs := elems ty (n * rl) b
        let (hi, ekv) := kv.getD (0, 0)
        let scales := kvScales c st layer ekv xs rows
        match kvWrite c layer scales xs rows st.kvw 0 s with
        | .error (sq, s) => ok (readFault k r.ctx 0xA001 (.cache sq) s)
        | .ok (m, sat, s) =>
          let s := modCtx r.ctx (fun c => { c with step := c.step.map fun st => { st with
            kvw := m, kvScale := scales.foldl (fun l e => smSet l e.1 e.2) st.kvScale,
            kvSat := if rows.isEmpty then st.kvSat else smSet st.kvSat hi (smGet 0 st.kvSat hi + sat) } }) s
          ok (advance k (vsuCnt k 0xA00 (n * rl) (vsuCnt k 0xA30 sat s)))

/-! ### EMBED8 -/

/-- EMBED8 (R118, R178): vectors stored one after another, each padded to a multiple of 64 bytes (R117). -/
def execEmbed8 (k : Nat) (f : IFields) (s : State) : Res :=
  let ty := extF f 17 16
  let cnt := extF f 15 0 + 1
  vsuInsn k false (modBad f 0 || ty == 3 || aBad f.ra || aBad f.rd) s fun r _ st =>
    let d := (getS r f.rc).toNat
    let x := (getA r f.ra).toNat
    let y := (getA r f.rd).toNat
    let xl := cnt * d * elBytes ty
    afterChecks [chkCount k r d 1 4096 s, chkAlign k r x (elBytes ty) s, chkRd k r st (Ext.one x xl) s,
        chkWr k r (Ext.one y (cnt * vecBytes false d)) s] fun _ =>
      rdThen k r.ctx x xl s fun b s =>
        let xs := elems ty (cnt * d) b
        wrThen k r.ctx y ((List.range cnt).flatMap fun i => toE8 ((xs.drop (i * d)).take d)) s fun s => ok (advance k s)

end Sys2Proof.Machine
end

