-- ==== Sys2Proof/Machine/SampleOps.lean ====
section
/-! DEFINITION. SAMPLE: the generator of R211 and the four modes (R180, R212 to R215). -/
namespace Sys2Proof.Machine
open Sys2Proof

/-- mix64 (R211). -/
def mix64 (z : Nat) : Nat :=
  let z := w64 ((z ^^^ (z >>> 30)) * 0xBF58476D1CE4E5B9)
  let z := w64 ((z ^^^ (z >>> 27)) * 0x94D049BB133111EB)
  z ^^^ (z >>> 31)

/-- The key of a row: seed, context, sequence and position (R211). -/
def sampleKey (seed ctx seq pos : Nat) : Nat := mix64 (mix64 (mix64 seed ^^^ (ctx * 2 ^ 32 + seq)) ^^^ pos)

/-- draw(j). -/
def drawAt (h2 j : Nat) : Nat := mix64 (h2 ^^^ w64 (j * 0x9E3779B97F4A7C15))

/-- u1(j) as FP32: 24 bits × 2^−24. -/
def u1 (h2 j : Nat) : Nat := fround fp32 false (bits (drawAt h2 j) 63 40) (-24)
/-- u2(j). -/
def u2 (h2 j : Nat) : Nat := fround fp32 false (bits (drawAt h2 j) 39 16) (-24)

/-- Running sums, left to right, each rounded. -/
def prefixSums : Nat → List Nat → List Nat
  | _, [] => []
  | acc, x :: xs => let a := fadd acc x; a :: prefixSums a xs

/-- Cumulative sums C_j: the first is the first weight itself. -/
def cumSums : List Nat → List Nat
  | [] => []
  | x :: xs => x :: prefixSums x xs

/-- What the pass of R213 keeps: M, S, the choice so far, exponentials, rises. -/
structure Pass where
  m : Nat
  s : Nat
  c : Option Nat
  exps : Nat
  rises : Nat
  deriving DecidableEq, Repr

/-- One block of 64 entries (R213). -/
def passBlock (c : SfuCtx) (h2 b : Nat) (zs : List Nat) (p : Pass) : Pass :=
  let mb := rowMax zs
  if mb = fpNegInf then p
  else
    let rise := flt p.m mb
    let m := if rise then mb else p.m
    let s0 := if rise then fmul p.s (sfuExp c (fsub p.m mb)) else p.s
    let es := zs.map fun z => sfuExp c (fsub z m)
    let ps := cumSums es
    let bsum := ps.getLastD 0
    let s := fadd s0 bsum
    let take := p.c.isNone || flt (fmul (u1 h2 b) s) bsum
    let t := fmul (u2 h2 b) bsum
    let i := match ps.findIdx? fun x => flt t x with
      | some i => i
      | none => (es.zipIdx.foldl (fun a e => if flt 0 e.1 then e.2 else a) 0)
    { m := m, s := s, c := if take then some (64 * b + i) else p.c, exps := p.exps + zs.length + b2n rise, rises := p.rises + b2n rise }

/-- The blocks of a row from block `b` on. -/
def passRow (c : SfuCtx) (h2 : Nat) : Nat → Nat → List Nat → Pass → Pass
  | 0, _, _, p => p
  | fuel + 1, b, zs, p => if zs.isEmpty then p else passRow c h2 fuel (b + 1) (zs.drop 64) (passBlock c h2 b (zs.take 64) p)

/-- The whole pass of R213 over a row. -/
def samplePass (c : SfuCtx) (h2 : Nat) (zs : List Nat) : Pass :=
  passRow c h2 (zs.length / 64 + 1) 0 zs { m := fpNegInf, s := 0, c := none, exps := 0, rises := 0 }

/-- Insert a candidate in descending order, ties with the lower index first. -/
def insTop (e : Nat × Nat) : List (Nat × Nat) → List (Nat × Nat)
  | [] => [e]
  | x :: xs => if flt x.1 e.1 then e :: x :: xs else x :: insTop e xs

/-- The K largest finite values with their indexes (R214). -/
def topList (k : Nat) (zs : List Nat) : List (Nat × Nat) :=
  zs.zipIdx.foldl (fun l e => if isFin e.1 then (insTop e l).take k else l) []

/-- The choice among candidates (R214): `limit` is rne32(p × S) in top-p. -/
def pickTop (c : SfuCtx) (h2 : Nat) (cand : List (Nat × Nat)) (limit : Option Nat) : Nat :=
  let z0 := (cand.headD (0, 0)).1
  let cs := cumSums (cand.map fun e => sfuExp c (fsub e.1 z0))
  let kept := match limit with
    | none => cand.length
    | some x => match cs.findIdx? fun y => !flt y x with
      | some i => i + 1
      | none => cand.length
  let t := fmul (u1 h2 0) (cs.getD (kept - 1) 0)
  let i := ((cs.take kept).findIdx? fun y => flt t y).getD (kept - 1)
  (cand.getD i (0, 0)).2

/-- What a row gives: the token, exponentials, rises; or the entry that is not finite; or nothing to choose. -/
inductive RowPick where
  | token (t exps rises : Nat)
  | nonfinite (i : Nat)
  | empty
  deriving DecidableEq, Repr

/-- Sample one row (R212 to R215). -/
def sampleRow (c : SfuCtx) (mode k temp p h2 : Nat) (xs : List Nat) : RowPick :=
  match nonFinite false xs with
  | some i => .nonfinite i
  | none =>
    if mode = 0 then (if xs.all (· == fpNegInf) then .empty else .token (argMax xs) 0 0)
    else if xs.all (· == fpNegInf) then .empty
    else
      let inv := fdiv fpOne temp
      let zs := xs.map fun x => fmul x inv
      match nonFinite false zs with
      | some i => .nonfinite i
      | none =>
        if zs.all (· == fpNegInf) then .empty
        else if mode = 1 then
          let r := samplePass c h2 zs
          .token (r.c.getD 0) r.exps r.rises
        else
          let cand := topList k zs
          if mode = 2 then .token (pickTop c h2 cand none) cand.length 0
          else
            let r := samplePass c h2 zs
            .token (pickTop c h2 cand (some (fmul p r.s))) (r.exps + cand.length) r.rises

/-- A parameter lies outside its values in a mode that uses it (R212). -/
def sampleBad (mode k temp p : Nat) : Bool :=
  (mode != 0 && (!isFin temp || flt temp 0x3B800000 || flt 0x43800000 temp))
  || (2 ≤ mode && (k == 0 || 256 < k))
  || (mode == 3 && (isNaN p || !flt 0 p || flt fpOne p))

/-- Sample the rows of a step in turn: tokens, exponentials, rises, or the fault with its entry index. -/
def sampleRows (c : SfuCtx) (ctx : Ctx) (n mode k temp p len : Nat) : List (BatchEnt × Nat) → List Nat → List Nat → Nat → Nat →
    Except (Code × Nat) (List Nat × Nat × Nat)
  | [], _, toks, e, r => .ok (toks, e, r)
  | b :: bs, xs, toks, e, r =>
    let seed := ((smFind ctx.seqs b.1.seq).map (·.seed)).getD 0
    match sampleRow c mode k temp p (sampleKey seed n b.1.seq b.1.pos) (xs.take len) with
    | .nonfinite i => .error (0x4013, b.2 * len + i)
    | .empty => .error (0x4014, b.2 * len)
    | .token t x y => sampleRows c ctx n mode k temp p len bs (xs.drop len) (toks ++ [t]) (e + x) (r + y)

/-- SAMPLE (R180, R211 to R215): one token for each sequence that emits in this step, in ascending sequence number. -/
def execSample (k : Nat) (f : IFields) (s : State) : Res :=
  let mode := extF f 1 0
  let kk := extF f 10 2
  let p := extF f 63 32
  vsuInsn k true (modBad f 0 || aBad f.ra || sampleBad mode kk f.imm.toNat p) s fun r c st =>
    let n := (getS r f.rc).toNat
    let x := (getA r f.ra).toNat
    let rows := (st.batch.filter (·.emits)).zipIdx
    let len := rows.length * n * 4
    afterChecks [chkCount k r n 1 (2 ^ 20) s, chkAlign k r x 4 s, chkRd k r st (Ext.one x len) s] fun _ =>
      rdThen k r.ctx x len s fun b s =>
        match sampleRows (stepSfu s st) c r.ctx mode kk f.imm.toNat p n rows (elems 0 (rows.length * n) b) [] 0 0 with
        | .error (code, i) => vsuFault k r code i s
        | .ok (toks, e, ri) =>
          let s := modCtx r.ctx (fun c => { c with step := c.step.map fun st => { st with tokens := st.tokens ++ toks, sampled := true } }) s
          ok (advance k (vsuCnt k 0xA18 toks.length (vsuCnt k 0xA08 e (vsuCnt k 0xA20 ri s))))

end Sys2Proof.Machine
end

