-- ==== Sys2Proof/Machine/ScalarOps.lean ====
section
/-! DEFINITION. SCALAR and BRANCH instructions (R167 to R169). -/
namespace Sys2Proof.Machine
open Sys2Proof

/-! ### SCALAR (R167) -/

/-- An operation on S registers: S[RD] takes a value, and the core goes on. -/
def scalarOp (k : Nat) (f : IFields) (s : State) (v : Run → DWord) : Res :=
  insn k true (modBad f 0) s fun r _ _ => ok (advance k (putRun k (setS r f.rd (v r)) s))

/-- A binary operation on S[RA] and S[RB]. -/
def scalarBin (k : Nat) (f : IFields) (s : State) (g : DWord → DWord → DWord) : Res :=
  scalarOp k f s fun r => g (getS r f.ra) (getS r f.rb)

/-- NOP (R167). -/
def execNop (k : Nat) (f : IFields) (s : State) : Res := insn k true (modBad f 0) s fun _ _ _ => ok (advance k s)
/-- ADD (R167). -/
def execAdd (k : Nat) (f : IFields) (s : State) : Res := scalarBin k f s (· + ·)
/-- SUB (R167). -/
def execSub (k : Nat) (f : IFields) (s : State) : Res := scalarBin k f s (· - ·)
/-- MUL (R167): the low 64 bits. -/
def execMul (k : Nat) (f : IFields) (s : State) : Res := scalarBin k f s (· * ·)
/-- AND (R167). -/
def execAnd (k : Nat) (f : IFields) (s : State) : Res := scalarBin k f s (· &&& ·)
/-- OR (R167). -/
def execOr (k : Nat) (f : IFields) (s : State) : Res := scalarBin k f s (· ||| ·)
/-- XOR (R167). -/
def execXor (k : Nat) (f : IFields) (s : State) : Res := scalarBin k f s (· ^^^ ·)
/-- SHL (R167): by S[RB][5:0]. -/
def execShl (k : Nat) (f : IFields) (s : State) : Res := scalarBin k f s fun a b => a <<< (b.toNat % 64)
/-- SHR (R167): logical. -/
def execShr (k : Nat) (f : IFields) (s : State) : Res := scalarBin k f s fun a b => a >>> (b.toNat % 64)
/-- SRA (R167): arithmetic. -/
def execSra (k : Nat) (f : IFields) (s : State) : Res := scalarBin k f s fun a b => a.sshiftRight (b.toNat % 64)
/-- MIN (R167): signed. -/
def execMin (k : Nat) (f : IFields) (s : State) : Res := scalarBin k f s fun a b => if sltD a b then a else b
/-- MAX (R167): signed. -/
def execMax (k : Nat) (f : IFields) (s : State) : Res := scalarBin k f s fun a b => if sltD a b then b else a
/-- SLT (R167): signed. -/
def execSlt (k : Nat) (f : IFields) (s : State) : Res := scalarBin k f s fun a b => if sltD a b then 1 else 0
/-- ADDI (R167). -/
def execAddi (k : Nat) (f : IFields) (s : State) : Res := scalarOp k f s fun r => getS r f.ra + sext64 f.imm
/-- MOVI (R167). -/
def execMovi (k : Nat) (f : IFields) (s : State) : Res := scalarOp k f s fun _ => sext64 f.imm
/-- MOVHI (R167): bits [63:32] take IMM32. -/
def execMovhi (k : Nat) (f : IFields) (s : State) : Res :=
  scalarOp k f s fun r => BitVec.ofNat 64 (f.imm.toNat * 2 ^ 32 + (getS r f.rd).toNat % 2 ^ 32)

/-- Address of LD and ST: A[RA] + sext(IMM32). -/
def ldAddr (r : Run) (f : IFields) : Nat := (getA r f.ra + sext64 f.imm).toNat

/-- The checks that LD and ST make on their address: alignment, then the window. -/
def ldCheck (k : Nat) (r : Run) (a : Nat) (s : State) : Option Res :=
  if a % 8 ≠ 0 then some (coreFault k r cADDR_ALIGN s)
  else if 2 < windowOf a then some (coreFault k r cADDR_RANGE s) else none

/-- LD (R167). -/
def execLd (k : Nat) (f : IFields) (s : State) : Res :=
  insn k true (modBad f 0 || aBad f.ra) s fun r _ st =>
    let a := ldAddr r f
    afterChecks [ldCheck k r a s, chkRd k r st (Ext.one a 8) s] fun _ =>
      rdThen k r.ctx a 8 s fun d s => ok (advance k (modRunOf k (fun r => setS r f.rd (BitVec.ofNat 64 (leNat d))) s))

/-- ST (R167). -/
def execSt (k : Nat) (f : IFields) (s : State) : Res :=
  insn k true (modBad f 0 || aBad f.ra) s fun r _ _ =>
    let a := ldAddr r f
    afterChecks [ldCheck k r a s, chkWr k r (Ext.one a 8) s] fun _ =>
      wrThen k r.ctx a (leBytes 8 (getS r f.rb).toNat) s fun s => ok (advance k s)

/-- TOA (R167). -/
def execToa (k : Nat) (f : IFields) (s : State) : Res :=
  insn k true (modBad f 0 || aBad f.rd) s fun r _ _ => ok (advance k (putRun k (setA r f.rd (getS r f.ra)) s))
/-- TOS (R167). -/
def execTos (k : Nat) (f : IFields) (s : State) : Res :=
  insn k true (modBad f 0 || aBad f.ra) s fun r _ _ => ok (advance k (putRun k (setS r f.rd (getA r f.ra)) s))
/-- AADDI (R167). -/
def execAaddi (k : Nat) (f : IFields) (s : State) : Res :=
  insn k true (modBad f 0 || aBad f.rd || aBad f.ra) s fun r _ _ =>
    ok (advance k (putRun k (setA r f.rd (getA r f.ra + sext64 f.imm)) s))
/-- AADD (R167). -/
def execAadd (k : Nat) (f : IFields) (s : State) : Res :=
  insn k true (modBad f 0 || aBad f.rd || aBad f.ra) s fun r _ _ =>
    ok (advance k (putRun k (setA r f.rd (getA r f.ra + getS r f.rb)) s))
/-- TIME (R167): replica fabric time, or with MOD[0] the fabric time of the current slot's start. -/
def execTime (k : Nat) (f : IFields) (s : State) : Res :=
  insn k true (modBad f 1) s fun r _ st =>
    let t := if f.md.toNat % 2 = 1 then st.slotStart else chartNow s
    ok (advance k (putRun k (setS r f.rd (BitVec.ofNat 64 t)) s))

/-! ### BRANCH (R168, R169) -/

/-- Target of a branch: PC + 16 × sext(IMM32). -/
def target (r : Run) (f : IFields) : Nat := (r.pc + 16 * sext64 f.imm).toNat

/-- A conditional branch. -/
def branchIf (k : Nat) (f : IFields) (s : State) (p : DWord → DWord → Bool) : Res :=
  insn k true (modBad f 0) s fun r _ _ =>
    if p (getS r f.ra) (getS r f.rb) then jumpTo k r (target r f) s else ok (advance k s)

/-- J (R168). -/
def execJ (k : Nat) (f : IFields) (s : State) : Res := insn k true (modBad f 0) s fun r _ _ => jumpTo k r (target r f) s
/-- BEQ (R168). -/
def execBeq (k : Nat) (f : IFields) (s : State) : Res := branchIf k f s condEq
/-- BNE (R168). -/
def execBne (k : Nat) (f : IFields) (s : State) : Res := branchIf k f s condNe
/-- BLT (R168): signed. -/
def execBlt (k : Nat) (f : IFields) (s : State) : Res := branchIf k f s condLt
/-- BGE (R168): signed. -/
def execBge (k : Nat) (f : IFields) (s : State) : Res := branchIf k f s condGe
/-- JR (R168): PC = S[RA]. A value that is no multiple of 16 is no place in the code. DEDUCED (log entry 30). -/
def execJr (k : Nat) (f : IFields) (s : State) : Res :=
  insn k true (modBad f 0) s fun r _ _ => jumpTo k r (getS r f.ra).toNat s

/-- The count a LOOP starts with: IMM32, or the low 32 bits of S[RA] (log entry 30). -/
def loopCount (r : Run) (f : IFields) : Nat := if f.md.toNat % 2 = 1 then f.imm.toNat else (getS r f.ra).toNat % 2 ^ 32

/-- LOOP (R168, R169): starts loop L[RD] over the next EXT[15:0] instructions. -/
def execLoop (k : Nat) (f : IFields) (s : State) : Res :=
  insn k true (modBad f 1 || 4 ≤ f.rd.toNat || extF f 15 0 = 0) s fun r _ _ =>
    let i := f.rd.toNat
    let pc := r.pc.toNat
    let stop := pc + 16 * extF f 15 0
    if r.lstack.contains i then coreFault k r cLOOP_NEST s
    else if codeBytes s r ≤ stop
      ∨ (r.lstack.any fun j => decide ((getL r j).start ≤ pc) && decide (pc ≤ (getL r j).stop) && decide ((getL r j).stop < stop)) then
      coreFault k r cBRANCH_RANGE s
    else if loopCount r f = 0 then ok (advanceFrom k stop (putRun k (setL r i { count := 0, index := 0, start := pc + 16, stop := stop }) s))
    else
      let r2 := { setL r i { count := loopCount r f, index := 0, start := pc + 16, stop := stop } with lstack := i :: r.lstack }
      ok (putRun k { r2 with pc := BitVec.ofNat 64 (pc + 16), wait := .none } s)

/-- LIDX (R168): S[RD] = INDEX of L[RA]. -/
def execLidx (k : Nat) (f : IFields) (s : State) : Res :=
  insn k true (modBad f 0 || 4 ≤ f.ra.toNat) s fun r _ _ =>
    ok (advance k (putRun k (setS r f.rd (BitVec.ofNat 64 (getL r f.ra.toNat).index)) s))

/-- BVERD (R168, R173): waits for the verdict of a narrowing point and jumps if it is RERUN. -/
def execBverd (k : Nat) (f : IFields) (s : State) : Res :=
  insn k true (modBad f 0) s fun r c st =>
    match actEntry c.pkg (extF f 11 0) with
    | none => coreFault k r cNP_INVALID s
    | some (i, _) => match smFind st.np i with
      | none => stay k (.verdict (extF f 11 0)) s
      | some p => if p.verdict = .rerun then jumpTo k r (target r f) s else ok (advance k s)

/-- END (R161, R168): the task ends; it completes when every operation it started has completed. -/
def execEnd (k : Nat) (f : IFields) (s : State) : Res :=
  insn k true (modBad f 0) s fun r _ _ => ok (putRun k { r with ended := true, wait := .none } s)

end Sys2Proof.Machine
end

