-- ==== Sys2Proof/Machine/SyncOps.lean ====
section
/-! DEFINITION. SYNC and PEER instructions (R181 to R183, R87, R425, R426, R429). -/
namespace Sys2Proof.Machine
open Sys2Proof

/-! ### SYNC (R181, R182) -/

/-- PEER operations outstanding: what the completion groups count besides DMA operations. -/
def peerOut (r : Run) : Nat := r.g.toList.sum - r.dma.length

/-- What a FENCE waits for has come (R181). Vector-unit instructions complete within their own command. -/
def fenceDone (r : Run) (mask : Nat) : Bool :=
  ((List.range 8).all fun i => !bit mask i || getG r i == 0) && (!bit mask 8 || r.mat.isNone) && (!bit mask 10 || peerOut r == 0)

/-- FENCE (R181). -/
def execFence (k : Nat) (f : IFields) (s : State) : Res :=
  insn k true (modBad f 0) s fun r _ _ => if fenceDone r (extF f 10 0) then ok (advance k s) else stay k .fence s

/-- Every earlier instruction of a core has completed. -/
def allQuiet (r : Run) : Bool := r.dma.isEmpty && r.mat.isNone && r.g.toList.all (· == 0)

/-- SIGNAL (R181, R182). -/
def execSignal (k : Nat) (f : IFields) (s : State) : Res :=
  insn k true (modBad f 0) s fun r _ _ =>
    if !allQuiet r then stay k .fence s
    else
      let e := extF f 3 0
      let add (st : Step) : Step := { st with ev := st.ev.set e ((st.ev.getD e 0 + f.imm.toNat) % 2 ^ 32) }
      ok (advance k (modCtx r.ctx (fun c => { c with step := c.step.map add }) s))

/-- WAITEV (R181). -/
def execWaitev (k : Nat) (f : IFields) (s : State) : Res :=
  insn k true (modBad f 0) s fun r _ st =>
    let e := extF f 3 0
    let t := (getS r f.ra).toNat % 2 ^ 32
    if eventReached (st.ev.getD e 0) t then ok (advance k s) else stay k (.waitev e t) s

/-- SLOTWAIT (R181, R182): not at level 1. -/
def execSlotwait (k : Nat) (f : IFields) (s : State) : Res :=
  insn k false (modBad f 1) s fun r _ st =>
    let t := (getS r f.ra).toNat + (if f.md.toNat % 2 = 1 then 0 else st.slotStart)
    if t ≤ chartNow s then ok (advance k s) else stay k (.slotwait t) s

/-! ### PEER (R183) -/

/-- The group slot through which a step talks to a member, or the fault at issue: PEER_GROUP, or GROUP_NOT_IN_STEP (R183, R429). -/
def peerSlot (s : State) (st : Step) (m : Nat) : Except Code Nat :=
  if st.group = 0 then .error cPEER_GROUP
  else match slotOfGroup s st.group with
    | none => .error 0x1204
    | some n => if memberInStep s n m then .ok n else .error 0x1204

/-- SSEND (R183): the bytes go out as a DATA message. -/
def execSsend (k : Nat) (f : IFields) (s : State) : Res :=
  insn k true (modBad f 0 || aBad f.ra) s fun r _ st =>
    let n := (getS r f.rc).toNat
    let a := (getA r f.ra).toNat
    let m := extF f 15 0
    let g := extF f 18 16
    match peerSlot s st m with
    | .error e => coreFault k r e s
    | .ok sl => afterChecks [chkCount k r n 1 8192 s, chkRd k r st (Ext.one a n) s] fun _ =>
      rdThen k r.ctx a n s fun d s =>
        let s := modRunOf k (fun r => setG r g (getG r g + 1)) s
        ok (advance k (sendMsg sl m 1 f.imm.toNat d (some (k, r.ctx, g)) s))

/-- A held message that an SRECV takes: the earliest that has arrived (R426). -/
def heldFor (s : State) (grp m tag : Nat) : Option Nat := s.strait.held.findIdx? fun h => h.grp == grp && h.mem == m && h.tag == tag

/-- SRECV (R183, R426): the receive opens; a held message completes it at once. -/
def execSrecv (k : Nat) (f : IFields) (s : State) : Res :=
  insn k true (modBad f 0 || aBad f.rd) s fun r _ st =>
    let cap := (getS r f.rc).toNat
    let d := (getA r f.rd).toNat
    let m := extF f 47 32
    match peerSlot s st m with
    | .error e => coreFault k r e s
    | .ok _ => afterChecks [chkWr k r (Ext.one d cap) s] fun _ =>
      let x : Recv := { grp := st.group, mem := m, tag := f.imm.toNat, dst := d, cap := cap, rb := f.rb.toNat,
                        deadline := chartNow s + extF f 31 0, issued := chartNow s, arrived := false }
      let s := modRunOf k (fun r => { r with recv := some x, wait := .recv }) s
      match heldFor s st.group m f.imm.toNat with
      | none => ok s
      | some i =>
        let h := s.strait.held[i]?
        let s := modStrait (fun t => { t with held := t.held.eraseIdx i }) s
        ok (giveRecv ⟨k, r.ctx, false, x⟩ ((h.map (·.data)).getD []) s)

/-- SRECV_TIMEOUT (R183): the deadline of a core's receive has passed without a reply. -/
def execSrecvTimeout (k : Nat) (s : State) : Res :=
  if 48 ≤ k then .refused .illFormed
  else match (core s k).run with
    | none => ok s
    | some r => match r.recv with
      | none => ok s
      | some x =>
        let s := advanceTo x.deadline s
        if x.arrived ∨ chartNow s < x.deadline then ok s
        else ok (startDue (checkFetch k (modCore k (fun c => { c with run := c.run.map (recvDone cTIMEOUT) }) s)))

/-- The result of a search that is refused: its code in STATUS (R183, R307). -/
def refusedResult (b : List Byte) (code : Code) (cap : Nat) : List Byte := (((QResult.empty code).bytes false (fld b 4 2)).take cap)

/-- PEER SEARCH (R183): the parameter block at A[RA] goes to the SRE as a job of its own; a refusal goes into the result's status. -/
def execPeerSearch (k : Nat) (f : IFields) (s : State) : Res :=
  insn k false (modBad f 0 || aBad f.ra || aBad f.rd) s fun r c st =>
    let a := (getA r f.ra).toNat
    let d := (getA r f.rd).toNat
    let cap := (getS r f.rc).toNat
    let g := extF f 18 16
    afterChecks [chkRd k r st (Ext.one a 64) s, chkWr k r (Ext.one d cap) s] fun _ =>
      rdThen k r.ctx a 64 s fun hdr_ s =>
        let more := min (fld hdr_ 32 4) 16384 + min (fld hdr_ 20 4) 4096
        afterChecks [chkRd k r st (Ext.one (a + 64) more) s] fun _ =>
          rdThen k r.ctx (a + 64) more s fun rest s =>
            let b := hdr_ ++ rest
            match querySubmitCheck b cap s with
            | (some code, s) => wrThen k r.ctx d (refusedResult b code cap) s fun s => ok (advance k s)
            | (none, s) =>
              let s := modRunOf k (fun r => setG r g (getG r g + 1)) s
              ok (acceptQuery b (.core k r.ctx c.stepNo d cap g) (advance k s))

end Sys2Proof.Machine
end

