-- ==== Sys2Proof/Machine/Dispatch.lean ====
section
/-! DEFINITION. The meaning of every command, one arm per constructor of Instr. -/
namespace Sys2Proof.Machine
open Sys2Proof

/-- The effect of a command on everything but the queue. -/
def exec (i : Instr) (s : State) : Host.Outcome State Fault Refusal :=
  match i with
  -- BCS and NVMe commands (12) R381, R369
  | .loadContext t q d => Sys2Proof.Machine.execLoadContext t q d s
  | .unloadContext t q d => Sys2Proof.Machine.execUnloadContext t q d s
  | .bindIsland t q d => Sys2Proof.Machine.execBindIsland t q d s
  | .writeChart t q d => Sys2Proof.Machine.execWriteChart t q d s
  | .swapChart t q d => Sys2Proof.Machine.execSwapChart t q d s
  | .sequenceJoin t q d => Sys2Proof.Machine.execSequenceJoin t q d s
  | .sequenceLeave t q d => Sys2Proof.Machine.execSequenceLeave t q d s
  | .outputDrain t q d => Sys2Proof.Machine.execOutputDrain t q d s
  | .ingest t q d => Sys2Proof.Machine.execIngest t q d s
  | .indexMutate t q d => Sys2Proof.Machine.execIndexMutate t q d s
  | .search t q d => Sys2Proof.Machine.execSearch t q d s
  | .scan t q d => Sys2Proof.Machine.execScan t q d s
  | .registerWindowRead t q d => Sys2Proof.Machine.execRegisterWindowRead t q d s
  | .registerWindowWrite t q d => Sys2Proof.Machine.execRegisterWindowWrite t q d s
  | .nvmRead t q d => Sys2Proof.Machine.execNvmRead t q d s
  | .nvmWrite t q d => Sys2Proof.Machine.execNvmWrite t q d s
  | .flush t q d => Sys2Proof.Machine.execFlush t q d s
  | .writeZeroes t q d => Sys2Proof.Machine.execWriteZeroes t q d s
  | .datasetManagement t q d => Sys2Proof.Machine.execDatasetManagement t q d s
  | .nvmVerify t q d => Sys2Proof.Machine.execNvmVerify t q d s
  | .connect t q d => Sys2Proof.Machine.execConnect t q d s
  | .disconnect t q d => Sys2Proof.Machine.execDisconnect t q d s
  | .propertyGet t q d => Sys2Proof.Machine.execPropertyGet t q d s
  | .propertySet t q d => Sys2Proof.Machine.execPropertySet t q d s
  | .nssrDeviceReset t q d => Sys2Proof.Machine.execNssrDeviceReset t q d s
  | .shutdownNotification t q d => Sys2Proof.Machine.execShutdownNotification t q d s
  | .identify t q d => Sys2Proof.Machine.execIdentify t q d s
  | .getLogPage t q d => Sys2Proof.Machine.execGetLogPage t q d s
  | .setFeaturesPowerManagement t q d => Sys2Proof.Machine.execSetFeaturesPowerManagement t q d s
  | .setFeaturesNumberOfQueues t q d => Sys2Proof.Machine.execSetFeaturesNumberOfQueues t q d s
  | .setFeatures t q d => Sys2Proof.Machine.execSetFeatures t q d s
  | .getFeatures t q d => Sys2Proof.Machine.execGetFeatures t q d s
  | .asynchronousEventRequest t q d => Sys2Proof.Machine.execAsynchronousEventRequest t q d s
  | .keepAlive t q d => Sys2Proof.Machine.execKeepAlive t q d s
  | .abortCmd t q d => Sys2Proof.Machine.execAbort t q d s
  | .namespaceManagement t q d => Sys2Proof.Machine.execNamespaceManagement t q d s
  | .namespaceAttachment t q d => Sys2Proof.Machine.execNamespaceAttachment t q d s
  | .formatNvm t q d => Sys2Proof.Machine.execFormatNvm t q d s
  | .sanitize t q d => Sys2Proof.Machine.execSanitize t q d s
  | .firmwareImageDownload t q d => Sys2Proof.Machine.execFirmwareImageDownload t q d s
  | .firmwareCommit t q d => Sys2Proof.Machine.execFirmwareCommit t q d s
  | .invalidCommandOpcode t q d => Sys2Proof.Machine.execInvalidCommandOpcode t q d s
  -- Transport events (12) R370 to R377
  | .tcpSyn conn port v6 => Sys2Proof.Machine.execTcpSyn conn port v6 s
  | .icreq conn pfv hdgst ddgst maxr2t => Sys2Proof.Machine.execIcreq conn pfv hdgst ddgst maxr2t s
  | .commandCapsule conn op cid q d pdu => Sys2Proof.Machine.execCommandCapsule conn op cid q d pdu s
  | .h2cData conn cid off d pdu digestOk => Sys2Proof.Machine.execH2cData conn cid off d pdu digestOk s
  | .clientHello conn offer => Sys2Proof.Machine.execClientHello conn offer s
  | .keyUpdate conn => Sys2Proof.Machine.execKeyUpdate conn s
  | .freezeTimeout conn => Sys2Proof.Machine.execFreezeTimeout conn s
  | .queueReset conn => Sys2Proof.Machine.execQueueReset conn s
  | .connectionClose conn => Sys2Proof.Machine.execConnectionClose conn s
  | .katoExpired cntlid => Sys2Proof.Machine.execKatoExpired cntlid s
  | .ps4Exit => Sys2Proof.Machine.execPs4Exit s
  | .powerStateEntryComplete => Sys2Proof.Machine.execPowerStateEntryComplete s
  | .powerStateReversal => Sys2Proof.Machine.execPowerStateReversal s
  -- Register access (02)
  | .sidebandRead req => Sys2Proof.Machine.execSidebandRead req s
  | .sidebandWrite req => Sys2Proof.Machine.execSidebandWrite req s
  | .registerWrite p page off w => Sys2Proof.Machine.execRegisterWrite p page off w s
  | .counterLowRead p page off => Sys2Proof.Machine.execCounterLowRead p page off s
  | .iflevelSelect p w => Sys2Proof.Machine.execIflevelSelect p w s
  | .errRingTailWrite p w => Sys2Proof.Machine.execErrRingTailWrite p w s
  | .clkrstDevReset p w => Sys2Proof.Machine.execClkrstDevReset p w s
  | .islandResetGo p w => Sys2Proof.Machine.execIslandResetGo p w s
  | .fmeasStart p w => Sys2Proof.Machine.execFmeasStart p w s
  | .cntFreeze p page on => Sys2Proof.Machine.execCntFreeze p page on s
  | .cntClear p page => Sys2Proof.Machine.execCntClear p page s
  | .errCountClr p page => Sys2Proof.Machine.execErrCountClr p page s
  | .errStatusClear p page w => Sys2Proof.Machine.execErrStatusClear p page w s
  | .fmeasDone khz => Sys2Proof.Machine.execFmeasDone khz s
  | .pllUnlock pll => Sys2Proof.Machine.execPllUnlock pll s
  -- Chart (03)
  | .chartEnable p on => Sys2Proof.Machine.execChartEnable p on s
  | .chartSwapRequest p => Sys2Proof.Machine.execChartSwapRequest p s
  | .contextRestart p => Sys2Proof.Machine.execContextRestart p s
  | .cycleStart => Sys2Proof.Machine.execCycleStart s
  | .slotStart bankB idx => Sys2Proof.Machine.execSlotStart bankB idx s
  | .slotEnd bankB idx => Sys2Proof.Machine.execSlotEnd bankB idx s
  | .lookaheadPrefetch bankB idx => Sys2Proof.Machine.execLookaheadPrefetch bankB idx s
  | .taskComplete ctx task => Sys2Proof.Machine.execTaskComplete ctx task s
  | .jobFault ctx core code => Sys2Proof.Machine.execJobFault ctx core code s
  | .replicaCorrection => Sys2Proof.Machine.execReplicaCorrection s
  | .syncDeadlock ctx => Sys2Proof.Machine.execSyncDeadlock ctx s
  | .reservedClassFetch core cls => Sys2Proof.Machine.execReservedClassFetch core cls s
  -- Core instructions (06)
  | .nop core f => Sys2Proof.Machine.execNop core f s
  | .add core f => Sys2Proof.Machine.execAdd core f s
  | .sub core f => Sys2Proof.Machine.execSub core f s
  | .mul core f => Sys2Proof.Machine.execMul core f s
  | .andS core f => Sys2Proof.Machine.execAnd core f s
  | .orS core f => Sys2Proof.Machine.execOr core f s
  | .xor core f => Sys2Proof.Machine.execXor core f s
  | .shl core f => Sys2Proof.Machine.execShl core f s
  | .shr core f => Sys2Proof.Machine.execShr core f s
  | .sra core f => Sys2Proof.Machine.execSra core f s
  | .minS core f => Sys2Proof.Machine.execMin core f s
  | .maxS core f => Sys2Proof.Machine.execMax core f s
  | .slt core f => Sys2Proof.Machine.execSlt core f s
  | .addi core f => Sys2Proof.Machine.execAddi core f s
  | .movi core f => Sys2Proof.Machine.execMovi core f s
  | .movhi core f => Sys2Proof.Machine.execMovhi core f s
  | .ld core f => Sys2Proof.Machine.execLd core f s
  | .st core f => Sys2Proof.Machine.execSt core f s
  | .toa core f => Sys2Proof.Machine.execToa core f s
  | .tos core f => Sys2Proof.Machine.execTos core f s
  | .aaddi core f => Sys2Proof.Machine.execAaddi core f s
  | .aadd core f => Sys2Proof.Machine.execAadd core f s
  | .time core f => Sys2Proof.Machine.execTime core f s
  | .j core f => Sys2Proof.Machine.execJ core f s
  | .beq core f => Sys2Proof.Machine.execBeq core f s
  | .bne core f => Sys2Proof.Machine.execBne core f s
  | .blt core f => Sys2Proof.Machine.execBlt core f s
  | .bge core f => Sys2Proof.Machine.execBge core f s
  | .jr core f => Sys2Proof.Machine.execJr core f s
  | .loop core f => Sys2Proof.Machine.execLoop core f s
  | .lidx core f => Sys2Proof.Machine.execLidx core f s
  | .bverd core f => Sys2Proof.Machine.execBverd core f s
  | .endTask core f => Sys2Proof.Machine.execEnd core f s
  | .copy core f => Sys2Proof.Machine.execCopy core f s
  | .acc48 core f => Sys2Proof.Machine.execAcc48 core f s
  | .zero core f => Sys2Proof.Machine.execZero core f s
  | .dmaComplete core k => Sys2Proof.Machine.execDmaComplete core k s
  | .tdload core f => Sys2Proof.Machine.execTdload core f s
  | .tdstore core f => Sys2Proof.Machine.execTdstore core f s
  | .tdinit core f => Sys2Proof.Machine.execTdinit core f s
  | .matrix core f => Sys2Proof.Machine.execMatrix core f s
  | .matrixComplete core => Sys2Proof.Machine.execMatrixComplete core s
  | .conv1d core f => Sys2Proof.Machine.execConv1d core f s
  | .conv2d core f => Sys2Proof.Machine.execConv2d core f s
  | .vectorAdd core f => Sys2Proof.Machine.execVectorAdd core f s
  | .vectorSub core f => Sys2Proof.Machine.execVectorSub core f s
  | .vectorMul core f => Sys2Proof.Machine.execVectorMul core f s
  | .vectorMax core f => Sys2Proof.Machine.execVectorMax core f s
  | .vectorMin core f => Sys2Proof.Machine.execVectorMin core f s
  | .vectorAbs core f => Sys2Proof.Machine.execVectorAbs core f s
  | .vectorNeg core f => Sys2Proof.Machine.execVectorNeg core f s
  | .vectorCvt core f => Sys2Proof.Machine.execVectorCvt core f s
  | .vectorMac core f => Sys2Proof.Machine.execVectorMac core f s
  | .specialFn core f => Sys2Proof.Machine.execSpecialFn core f s
  | .rmax core f => Sys2Proof.Machine.execRmax core f s
  | .rsum core f => Sys2Proof.Machine.execRsum core f s
  | .softmax core f => Sys2Proof.Machine.execSoftmax core f s
  | .smstat core f => Sys2Proof.Machine.execSmstat core f s
  | .smapply core f => Sys2Proof.Machine.execSmapply core f s
  | .rmsnorm core f => Sys2Proof.Machine.execRmsnorm core f s
  | .layernorm core f => Sys2Proof.Machine.execLayernorm core f s
  | .argmax core f => Sys2Proof.Machine.execArgmax core f s
  | .narrow core f => Sys2Proof.Machine.execNarrow core f s
  | .deq core f => Sys2Proof.Machine.execDeq core f s
  | .kvstore core f => Sys2Proof.Machine.execKvstore core f s
  | .embed8 core f => Sys2Proof.Machine.execEmbed8 core f s
  | .sample core f => Sys2Proof.Machine.execSample core f s
  | .fence core f => Sys2Proof.Machine.execFence core f s
  | .signal core f => Sys2Proof.Machine.execSignal core f s
  | .waitev core f => Sys2Proof.Machine.execWaitev core f s
  | .slotwait core f => Sys2Proof.Machine.execSlotwait core f s
  | .ssend core f => Sys2Proof.Machine.execSsend core f s
  | .srecv core f => Sys2Proof.Machine.execSrecv core f s
  | .srecvTimeout core => Sys2Proof.Machine.execSrecvTimeout core s
  | .peerSearch core f => Sys2Proof.Machine.execPeerSearch core f s
  -- Vector unit tables and matrix checks (05, 07)
  | .sfuTblDataWrite p w => Sys2Proof.Machine.execSfuTblDataWrite p w s
  | .sfuCompat1Write p w => Sys2Proof.Machine.execSfuCompat1Write p w s
  | .sfuTblDataRead p => Sys2Proof.Machine.execSfuTblDataRead p s
  | .sfuTblCommit p => Sys2Proof.Machine.execSfuTblCommit p s
  | .checkInjectArm p core w => Sys2Proof.Machine.execCheckInjectArm p core w s
  -- On-chip memories (08)
  | .ocmDiagWrite p w => Sys2Proof.Machine.execOcmDiagWrite p w s
  | .eccFlipmaskArm p w => Sys2Proof.Machine.execEccFlipmaskArm p w s
  | .atollResize p w => Sys2Proof.Machine.execAtollResize p w s
  | .bankPowerWrite p off w => Sys2Proof.Machine.execBankPowerWrite p off w s
  | .autoRetention b => Sys2Proof.Machine.execAutoRetention b s
  | .bankWake b => Sys2Proof.Machine.execBankWake b s
  | .bgtRegionStart core out => Sys2Proof.Machine.execBgtRegionStart core out s
  -- External memory and Compass (09)
  | .xmcFlipArm p ch => Sys2Proof.Machine.execXmcFlipArm p ch s
  | .scrubGo p w => Sys2Proof.Machine.execScrubGo p w s
  | .scrubAbort p w => Sys2Proof.Machine.execScrubAbort p w s
  | .scrubDone => Sys2Proof.Machine.execScrubDone s
  | .xmcTracking ch rate atEnd => Sys2Proof.Machine.execXmcTracking ch rate atEnd s
  | .objRefetched addr => Sys2Proof.Machine.execObjRefetched addr s
  | .stageFetch ctx layer => Sys2Proof.Machine.execStageFetch ctx layer s
  | .demoteComplete ctx seq layer page => Sys2Proof.Machine.execDemoteComplete ctx seq layer page s
  | .pageFetchComplete ctx seq layer page => Sys2Proof.Machine.execPageFetchComplete ctx seq layer page s
  -- Vector search (10)
  | .queryComplete job => Sys2Proof.Machine.execQueryComplete job s
  | .compactionSwitch index => Sys2Proof.Machine.execCompactionSwitch index s
  | .ingestInsert job => Sys2Proof.Machine.execIngestInsert job s
  | .mergeDeadline job => Sys2Proof.Machine.execMergeDeadline job s
  | .deltaRebuild index ok => Sys2Proof.Machine.execDeltaRebuild index ok s
  | .sreHoldWrite p w => Sys2Proof.Machine.execSreHoldWrite p w s
  -- Flash (11)
  | .flashReadComplete u r => Sys2Proof.Machine.execFlashReadComplete u r s
  | .programComplete sb o => Sys2Proof.Machine.execProgramComplete sb o s
  | .eraseComplete sb o => Sys2Proof.Machine.execEraseComplete sb o s
  | .writeBufferDrain n => Sys2Proof.Machine.execWriteBufferDrain n s
  | .mapCheckpoint seg => Sys2Proof.Machine.execMapCheckpoint seg s
  | .backgroundGc => Sys2Proof.Machine.execBackgroundGc s
  | .foregroundGc => Sys2Proof.Machine.execForegroundGc s
  | .slcFold => Sys2Proof.Machine.execSlcFold s
  | .powerLossFlush complete => Sys2Proof.Machine.execPowerLossFlush complete s
  | .mteDiagGo p page w => Sys2Proof.Machine.execMteDiagGo p page w s
  | .channelStopsResponding ch => Sys2Proof.Machine.execChannelStopsResponding ch s
  -- Network, Sextant and Strait (13)
  | .linkEnWrite p w => Sys2Proof.Machine.execLinkEnWrite p w s
  | .autoNegotiationTimeout => Sys2Proof.Machine.execAutoNegotiationTimeout s
  | .linkUp => Sys2Proof.Machine.execLinkUp s
  | .linkDown => Sys2Proof.Machine.execLinkDown s
  | .fecWindow fixed errs => Sys2Proof.Machine.execFecWindow fixed errs s
  | .frameReceive fr => Sys2Proof.Machine.execFrameReceive fr s
  | .pfcRepeat prio => Sys2Proof.Machine.execPfcRepeat prio s
  | .pfcPauseExpiry prio => Sys2Proof.Machine.execPfcPauseExpiry prio s
  | .pfcFrame prio quanta => Sys2Proof.Machine.execPfcFrame prio quanta s
  | .pauseFrame => Sys2Proof.Machine.execPauseFrame s
  | .txUnderrun => Sys2Proof.Machine.execTxUnderrun s
  | .xqPtrFault rx prio => Sys2Proof.Machine.execXqPtrFault rx prio s
  | .arpRequest fr => Sys2Proof.Machine.execArpRequest fr s
  | .icmpEcho fr => Sys2Proof.Machine.execIcmpEcho fr s
  | .gatewayRefresh => Sys2Proof.Machine.execGatewayRefresh s
  | .unresolvedTimeout => Sys2Proof.Machine.execUnresolvedTimeout s
  | .tcpRetransmitTimeout conn => Sys2Proof.Machine.execTcpRetransmitTimeout conn s
  | .ipAddressWrite p off w => Sys2Proof.Machine.execIpAddressWrite p off w s
  | .ptpSync m => Sys2Proof.Machine.execPtpSync m s
  | .ptpFollowUp m => Sys2Proof.Machine.execPtpFollowUp m s
  | .ptpDelayResp m => Sys2Proof.Machine.execPtpDelayResp m s
  | .ptpAnnounce m => Sys2Proof.Machine.execPtpAnnounce m s
  | .delayReqSend => Sys2Proof.Machine.execDelayReqSend s
  | .referenceLost => Sys2Proof.Machine.execReferenceLost s
  | .holdover => Sys2Proof.Machine.execHoldover s
  | .lost => Sys2Proof.Machine.execLost s
  | .ppsInEdge t => Sys2Proof.Machine.execPpsInEdge t s
  | .ppsOutPulse => Sys2Proof.Machine.execPpsOutPulse s
  | .ppsOutPulseEnd => Sys2Proof.Machine.execPpsOutPulseEnd s
  | .sourceWrite p w => Sys2Proof.Machine.execSourceWrite p w s
  | .todSecWrite p w => Sys2Proof.Machine.execTodSecWrite p w s
  | .dataMessage m => Sys2Proof.Machine.execDataMessage m s
  | .queryMessage m => Sys2Proof.Machine.execQueryMessage m s
  | .resultMessage m => Sys2Proof.Machine.execResultMessage m s
  | .ackMessage m => Sys2Proof.Machine.execAckMessage m s
  | .syncMessage m => Sys2Proof.Machine.execSyncMessage m s
  | .syncReplyMessage m => Sys2Proof.Machine.execSyncReplyMessage m s
  | .straitAckTimer grp mem => Sys2Proof.Machine.execStraitAckTimer grp mem s
  | .straitRetransmit grp mem => Sys2Proof.Machine.execStraitRetransmit grp mem s
  | .memberStale grp mem => Sys2Proof.Machine.execMemberStale grp mem s
  | .syncInterval => Sys2Proof.Machine.execSyncInterval s
  | .heldMessageExpiry k => Sys2Proof.Machine.execHeldMessageExpiry k s
  | .straitMemCfgWrite p off w => Sys2Proof.Machine.execStraitMemCfgWrite p off w s
  | .straitGrpCfgWrite p off w => Sys2Proof.Machine.execStraitGrpCfgWrite p off w s
  | .straitPortWrite p off w => Sys2Proof.Machine.execStraitPortWrite p off w s
  -- Management and security (14)
  | .mspWatchdog => Sys2Proof.Machine.execMspWatchdog s
  | .managementReset => Sys2Proof.Machine.execManagementReset s
  | .sectorProgramComplete ok => Sys2Proof.Machine.execSectorProgramComplete ok s
  | .getVersion m => Sys2Proof.Machine.execGetVersion m s
  | .getCapabilities m => Sys2Proof.Machine.execGetCapabilities m s
  | .negotiateAlgorithms m => Sys2Proof.Machine.execNegotiateAlgorithms m s
  | .getDigests m => Sys2Proof.Machine.execGetDigests m s
  | .getCertificate m => Sys2Proof.Machine.execGetCertificate m s
  | .challenge m => Sys2Proof.Machine.execChallenge m s
  | .getMeasurements m => Sys2Proof.Machine.execGetMeasurements m s
  | .chunkSend m => Sys2Proof.Machine.execChunkSend m s
  | .chunkGet m => Sys2Proof.Machine.execChunkGet m s
  | .sessionOpen m => Sys2Proof.Machine.execSessionOpen m s
  | .sessionAuth m => Sys2Proof.Machine.execSessionAuth m s
  | .sessionRecord m => Sys2Proof.Machine.execSessionRecord m s
  | .sessionIdleTimeout => Sys2Proof.Machine.execSessionIdleTimeout s
  | .provision a => Sys2Proof.Machine.execProvision a s
  | .certWrite a => Sys2Proof.Machine.execCertWrite a s
  | .takeOwnership a => Sys2Proof.Machine.execTakeOwnership a s
  | .pskInstall a => Sys2Proof.Machine.execPskInstall a s
  | .pskDelete a => Sys2Proof.Machine.execPskDelete a s
  | .configWrite a => Sys2Proof.Machine.execConfigWrite a s
  | .tamperCfg a => Sys2Proof.Machine.execTamperCfg a s
  | .retire a => Sys2Proof.Machine.execReturn a s
  | .decommission a => Sys2Proof.Machine.execDecommission a s
  | .reprovision a => Sys2Proof.Machine.execReprovision a s
  | .tamperClear a => Sys2Proof.Machine.execTamperClear a s
  | .revokeFwKey a => Sys2Proof.Machine.execRevokeFwKey a s
  | .tamperEvent src => Sys2Proof.Machine.execTamperEvent src s
  | .tamperLoopMeasure ok => Sys2Proof.Machine.execTamperLoopMeasure ok s
  | .keystoreErase => Sys2Proof.Machine.execKeystoreErase s
  | .commandInterrupted t => Sys2Proof.Machine.execCommandInterrupted t s
  | .mctpControlMessage m => Sys2Proof.Machine.execMctpControlMessage m s
  | .entdaa addr => Sys2Proof.Machine.execEntdaa addr s
  -- Resets and power (15, 16)
  | .powerOnReset => Sys2Proof.Machine.execPowerOnReset s
  | .moduleReset => Sys2Proof.Machine.execModuleReset s
  | .deviceReset => Sys2Proof.Machine.execDeviceReset s
  | .startUp o => Sys2Proof.Machine.execStartUp o s
  | .ready => Sys2Proof.Machine.execReady s
  | .pwrEnEdge level => Sys2Proof.Machine.execPwrEnEdge level s
  | .modRstNEdge level => Sys2Proof.Machine.execModRstNEdge level s
  | .brakeNEdge level => Sys2Proof.Machine.execBrakeNEdge level s
  | .aux3v3Change level => Sys2Proof.Machine.execAux3v3Change level s
  | .brakeToggleHoldEnd => Sys2Proof.Machine.execBrakeToggleHoldEnd s
  | .brakeHeld => Sys2Proof.Machine.execBrakeHeld s
  | .inputVoltageEvent v => Sys2Proof.Machine.execInputVoltageEvent v s
  | .governorInterval mw mv => Sys2Proof.Machine.execGovernorInterval mw mv s
  | .thermalRead sensor dc => Sys2Proof.Machine.execThermalRead sensor dc s
  | .holdupMeasurement mj => Sys2Proof.Machine.execHoldupMeasurement mj s
  | .flitGroupCrcFail replayOk => Sys2Proof.Machine.execFlitGroupCrcFail replayOk s
  | .classLate resource inst cls wait => Sys2Proof.Machine.execClassLate resource inst cls wait s
  | .ps4FabricClockStop => Sys2Proof.Machine.execPs4FabricClockStop s
  | .actLedTimeout => Sys2Proof.Machine.execActLedTimeout s

end Sys2Proof.Machine
end

