-- ==== Sys2Proof/Machine/Tick.lean ====
section
/-! DEFINITION. The passage of one nanosecond, which is what a step on an empty queue is (log entry 1). -/
namespace Sys2Proof.Machine
open Sys2Proof

/-- The consumers of the receive queues take the first frame of each queue (R405; log entry 1). -/
def drainRx (s : State) : State :=
  if s.niu.rxq.isEmpty then s
  else modNiu (fun n => { n with rxq := (n.rxq.map fun e => (e.1, e.2.drop 1)).filter fun e => !e.2.isEmpty }) s

/-- A LOADING context's load completes: it is READY, and its Load Context completes with success (R60, R61; log entry 29). -/
def finishLoad (s : State) (n : Nat) : State :=
  match ctx? s n with
  | none => s
  | some c =>
    if c.st ≠ .loading then s
    else
      let s := putCtx n { c with st := .ready, loadTag := none } s
      match c.loadTag with
      | none => s
      | some t => succeed t 0 0 [] s

/-- The loads in progress complete. Nothing is placed with the converters off, or in PS4, where external memory is in self-refresh
(R22). -/
def finishLoads (s : State) : State :=
  if !s.chip.powered ∨ chartPs s = 4 then s else (s.ctxs.map Prod.fst).foldl finishLoad s

/-- One nanosecond passes (R23, R47), and loads complete. -/
def tick (s : State) : State := passTime 1 (finishLoads (drainRx s))

end Sys2Proof.Machine
end

