-- ==== Sys2Proof/Machine/Step.lean ====
section
/-! DEFINITION. One step of the part: the command at the front of the queue runs; with nothing waiting, one nanosecond passes
(log entry 1). -/
namespace Sys2Proof.Machine
open Sys2Proof

/-- Take the command at the front of the queue and run it on the queue's rest; on an empty queue, one tick. -/
def step (s : State) : Host.Outcome State Fault Refusal :=
  match s.pending with
  | [] => .next (tick s)
  | c :: rest => exec c (setPending rest s)

/-- `s` with the command that a table word spells at the front of its queue: no word spells one. -/
def State.withFetchWord (s : State) (nbits w : Nat) : State :=
  match decodeTableWord nbits w with
  | none => s
  | some c => setPending (c :: s.pending) s

end Sys2Proof.Machine
end

