-- ==== Sys2Proof/Safety.lean ====
section
/-! DEFINITION. What statements about the part are phrased in: the canonical form of its memories, the rule of the islands, the
relation every operation keeps, and the conditions under which a core takes an instruction, a queue takes a command and a path
reaches a register. -/
namespace Sys2Proof.Machine
open Sys2Proof

/-- The canonical form of the on-chip memories: rising addresses, no entry equal to what an unlisted address reads as. -/
def ocmWf (o : OcmSt) : Bool := smWf 0 o.spad && smWf 0 o.loc && smWf 0 o.spadErr && smWf 0 o.locErr

/-- The canonical form of external memory. -/
def xmcWf (x : XmcSt) : Bool := smWf 0 x.mem && smWf [] x.err

/-- The memories of a state keep their canonical form. -/
def Memory.wf (s : State) : Bool := ocmWf s.ocm && xmcWf s.xmc

/-- Islands 0 to 47 hold cores 0 to 47, and no core belongs to two islands (R63). -/
def islandsWf (m : SMap Nat) : Bool :=
  smWf 0 m && m.all (fun e => decide (e.1 < 48) && decide (e.2 < 2 ^ 48)) && m.all fun a => m.all fun b => a.1 == b.1 || a.2 &&& b.2 == 0

/-- What every operation keeps: the queue as it stands, the canonical form of the memories, and the islands' rule. -/
structure Keeps (s t : State) : Prop where
  pending : t.pending = s.pending
  ocm : ocmWf s.ocm = true → ocmWf t.ocm = true
  xmc : xmcWf s.xmc = true → xmcWf t.xmc = true
  islands : islandsWf s.islands = true → islandsWf t.islands = true

/-- Core `k` runs a task of a step and takes its next instruction: its run, the context and the step it belongs to. -/
structure CoreRuns (s : State) (k : Nat) (r : Run) (c : Ctx) (st : Step) : Prop where
  isCore : k < 48
  runs : (core s k).run = some r
  going : r.ended = false
  free : r.recv = none
  ctx : ctx? s r.ctx = some c
  step : c.step = some st

/-- The next sequential instruction of core `k` lies in the code and no active loop ends here. -/
def FallsThrough (s : State) (r : Run) : Prop :=
  r.lstack = [] ∧ r.pc.toNat + 16 < codeBytes s r

/-- A core may read an extent at issue: every byte lies in a window it may read, none in a discarded row, and no incomplete write
of the core overlaps it (R163, R173, R184). -/
def CanRead (s : State) (k : Nat) (r : Run) (st : Step) (x : Ext) : Prop :=
  firstFault s k r.ctx false x = none ∧ holdsDiscarded st k x = false ∧ readWaits s k r x = false

/-- A core may write an extent at issue (R163, R184). -/
def CanWrite (s : State) (k : Nat) (r : Run) (x : Ext) : Prop :=
  firstFault s k r.ctx true x = none ∧ writeWaits s k r x = false

/-- What an instruction's read of `n` bytes at window address `a` gives, an uncorrectable place of an immutable object refetched
(R274). -/
def instrRead (s : State) (k ctx a n : Nat) : WRd × State :=
  if n = 0 then (.data [], s) else readServed (n / 8 + 2) k ctx a n (askLayer ctx a s)

/-- The body of an active loop holds an address (R169). -/
def inBody (r : Run) (i t : Nat) : Bool := decide ((getL r i).start ≤ t) && decide (t ≤ (getL r i).stop)

/-- A queue that takes commands: its connection is open and is a queue, not frozen; the module is ready, no FATAL error is handled,
no power state transition is in progress and the module is not in PS4. -/
structure QueueOpen (s : State) (t : Tag) : Prop where
  queue : ∃ c n, conn? s t.conn = some c ∧ c.queue = some n ∧ c.frozen = none
  ready : s.chip.stage = .ready
  well : fatalStop s = false
  still : s.qcu.ps.trans = none
  awake : s.qcu.ps.inForce ≠ 4

/-- The module is OPERATIONAL too, and the data of the command is no longer than a command may move (R372, R462). -/
structure BcsOpen (s : State) (t : Tag) (q : Sqe) : Prop extends QueueOpen s t where
  operational : lifecycle s = .operational
  length : q.sgl ≤ 0x400000

/-- An admin queue of controller `c`, whose record is `k`, that takes commands (R369, R389). -/
structure AdminOpen (s : State) (t : Tag) (c : Nat) (k : Ctrl) : Prop extends QueueOpen s t where
  here : queueOf s t.conn = some (c, 0)
  ctrl : smFind s.qcu.ctrls c = some k

/-- A path's write reaches a register word: power is good, and no rule of access refuses it (R37 to R39). -/
structure Reaches (s : State) (p : Path) (page off : Nat) : Prop where
  powered : s.chip.powered = true
  allowed : regGate p page off true s = none

/-- The operands of a matrix instruction are good at issue. -/
structure MatReady (s : State) (k : Nat) (r : Run) (st : Step) (f : IFields) (conv : Option ConvP) (e : ActEnv) (fs : List Nat) (n : Nat) : Prop where
  forms : ∀ x ∈ fs, 1 ≤ x ∧ x ≤ 4 ∧ 128 * e.tiles ≤ reduceLimit x e.cplx
  level : s.chip.level1 = true → conv = none → 4 ∉ fs
  source : extF f 16 15 = 1 → extF f 23 18 + n ≤ 64 ∧ accDiscarded st k (extF f 23 18) n = false
  dest : extF f 17 17 = 0 → extF f 29 24 + n ≤ 64
  rows : (getA r f.rb).toNat % 64 = 0 ∧ CanRead s k r st (Ext.one (getA r f.rb).toNat (e.realBytes * if e.cplx then 2 else 1))
  tile : CanRead s k r st (Ext.one (tdData (getT r f.ra.toNat)) (e.tiles * tileBytes (tdForm (getT r f.ra.toNat))))
  imag : e.cplx = true → CanRead s k r st (Ext.one (tdData (getT r (f.ra.toNat + 1))) (e.tiles * tileBytes (tdForm (getT r (f.ra.toNat + 1)))))
  acc : extF f 16 15 = 2 → CanRead s k r st (Ext.one (getA r f.rd).toNat (n * 768))
  out : extF f 17 17 = 1 → (getA r f.rd).toNat % 64 = 0 ∧ windowOf (getA r f.rd).toNat = 0 ∧ CanWrite s k r (Ext.one (getA r f.rd).toNat (n * 768))

/-- Element `i` of an extent of FP32, FP16 or BF16 elements, as FP32 (R137). -/
def elAt (t : Nat) (b : List Byte) (i : Nat) : Nat := if t = 0 then fld b (4 * i) 4 else fconv (elFmt t) fp32 (fld b (2 * i) 2)

/-- A completion as it is sent. -/
def Done (t : Tag) (st : Status) (dw0 dw1 : Nat) (d : List Byte) : OutMsg :=
  .compl { tag := t, sct := st.sct, sc := st.sc, dw0 := dw0, dw1 := dw1, data := d }

end Sys2Proof.Machine
end

