-- ==== Sys2Proof/WellFormed.lean ====
section
/-! DEFINITION. Which commands can stand in the queue: every number a command names is one the part has (48 cores, 16 indexes,
256 pages, 4,096 offsets, 1,024 contexts, 65,536 superblocks, 64 group slots of 256 members, 120 sensors). -/
namespace Sys2Proof

/-- A bank that exists: 64 scratchpad banks, 16 banks on each of 48 cores (R221, R222). -/
def BankId.wf : BankId → Bool
  | .loc c b => decide (c < 48) && decide (b < 16)
  | .spad b => decide (b < 64)

/-- The command names only what the part has. -/
def Instr.wf : Instr → Bool
  | .loadContext t _ _ => decide (t.cid < 65536)
  | .unloadContext t _ _ => decide (t.cid < 65536)
  | .bindIsland t _ _ => decide (t.cid < 65536)
  | .writeChart t _ _ => decide (t.cid < 65536)
  | .swapChart t _ _ => decide (t.cid < 65536)
  | .sequenceJoin t _ _ => decide (t.cid < 65536)
  | .sequenceLeave t _ _ => decide (t.cid < 65536)
  | .outputDrain t _ _ => decide (t.cid < 65536)
  | .ingest t _ _ => decide (t.cid < 65536)
  | .indexMutate t _ _ => decide (t.cid < 65536)
  | .search t _ _ => decide (t.cid < 65536)
  | .scan t _ _ => decide (t.cid < 65536)
  | .registerWindowRead t _ _ => decide (t.cid < 65536)
  | .registerWindowWrite t _ _ => decide (t.cid < 65536)
  | .nvmRead t _ _ => decide (t.cid < 65536)
  | .nvmWrite t _ _ => decide (t.cid < 65536)
  | .flush t _ _ => decide (t.cid < 65536)
  | .writeZeroes t _ _ => decide (t.cid < 65536)
  | .datasetManagement t _ _ => decide (t.cid < 65536)
  | .nvmVerify t _ _ => decide (t.cid < 65536)
  | .connect t _ _ => decide (t.cid < 65536)
  | .disconnect t _ _ => decide (t.cid < 65536)
  | .propertyGet t _ _ => decide (t.cid < 65536)
  | .propertySet t _ _ => decide (t.cid < 65536)
  | .nssrDeviceReset t _ _ => decide (t.cid < 65536)
  | .shutdownNotification t _ _ => decide (t.cid < 65536)
  | .identify t _ _ => decide (t.cid < 65536)
  | .getLogPage t _ _ => decide (t.cid < 65536)
  | .setFeaturesPowerManagement t _ _ => decide (t.cid < 65536)
  | .setFeaturesNumberOfQueues t _ _ => decide (t.cid < 65536)
  | .setFeatures t _ _ => decide (t.cid < 65536)
  | .getFeatures t _ _ => decide (t.cid < 65536)
  | .asynchronousEventRequest t _ _ => decide (t.cid < 65536)
  | .keepAlive t _ _ => decide (t.cid < 65536)
  | .abortCmd t _ _ => decide (t.cid < 65536)
  | .namespaceManagement t _ _ => decide (t.cid < 65536)
  | .namespaceAttachment t _ _ => decide (t.cid < 65536)
  | .formatNvm t _ _ => decide (t.cid < 65536)
  | .sanitize t _ _ => decide (t.cid < 65536)
  | .firmwareImageDownload t _ _ => decide (t.cid < 65536)
  | .firmwareCommit t _ _ => decide (t.cid < 65536)
  | .invalidCommandOpcode t _ _ => decide (t.cid < 65536)
  | .tcpSyn _ _ _ => true
  | .icreq _ _ _ _ _ => true
  | .commandCapsule _ op cid _ _ _ => decide (op < 256) && decide (cid < 65536)
  | .h2cData _ cid _ _ _ _ => decide (cid < 65536)
  | .clientHello _ _ => true
  | .keyUpdate _ => true
  | .freezeTimeout _ => true
  | .queueReset _ => true
  | .connectionClose _ => true
  | .katoExpired _ => true
  | .ps4Exit => true
  | .powerStateEntryComplete => true
  | .powerStateReversal => true
  | .sidebandRead _ => true
  | .sidebandWrite _ => true
  | .registerWrite _ page off _ => decide (page < 256) && decide (off < 4096)
  | .counterLowRead _ page off => decide (page < 256) && decide (off < 4096)
  | .iflevelSelect _ _ => true
  | .errRingTailWrite _ _ => true
  | .clkrstDevReset _ _ => true
  | .islandResetGo _ _ => true
  | .fmeasStart _ _ => true
  | .cntFreeze _ page _ => decide (page < 256)
  | .cntClear _ page => decide (page < 256)
  | .errCountClr _ page => decide (page < 256)
  | .errStatusClear _ page _ => decide (page < 256)
  | .fmeasDone _ => true
  | .pllUnlock pll => decide (pll < 5)
  | .chartEnable _ _ => true
  | .chartSwapRequest _ => true
  | .contextRestart _ => true
  | .cycleStart => true
  | .slotStart _ idx => decide (idx < 256)
  | .slotEnd _ idx => decide (idx < 256)
  | .lookaheadPrefetch _ idx => decide (idx < 256)
  | .taskComplete ctx task => decide (ctx < 1024) && decide (task < 65536)
  | .jobFault ctx core code => decide (ctx < 1024) && decide (core < 48) && decide (code < 65536)
  | .replicaCorrection => true
  | .syncDeadlock ctx => decide (ctx < 1024)
  | .reservedClassFetch core cls => decide (core < 48) && decide (12 ≤ cls.toNat)
  | .nop core _ => decide (core < 48)
  | .add core _ => decide (core < 48)
  | .sub core _ => decide (core < 48)
  | .mul core _ => decide (core < 48)
  | .andS core _ => decide (core < 48)
  | .orS core _ => decide (core < 48)
  | .xor core _ => decide (core < 48)
  | .shl core _ => decide (core < 48)
  | .shr core _ => decide (core < 48)
  | .sra core _ => decide (core < 48)
  | .minS core _ => decide (core < 48)
  | .maxS core _ => decide (core < 48)
  | .slt core _ => decide (core < 48)
  | .addi core _ => decide (core < 48)
  | .movi core _ => decide (core < 48)
  | .movhi core _ => decide (core < 48)
  | .ld core _ => decide (core < 48)
  | .st core _ => decide (core < 48)
  | .toa core _ => decide (core < 48)
  | .tos core _ => decide (core < 48)
  | .aaddi core _ => decide (core < 48)
  | .aadd core _ => decide (core < 48)
  | .time core _ => decide (core < 48)
  | .j core _ => decide (core < 48)
  | .beq core _ => decide (core < 48)
  | .bne core _ => decide (core < 48)
  | .blt core _ => decide (core < 48)
  | .bge core _ => decide (core < 48)
  | .jr core _ => decide (core < 48)
  | .loop core _ => decide (core < 48)
  | .lidx core _ => decide (core < 48)
  | .bverd core _ => decide (core < 48)
  | .endTask core _ => decide (core < 48)
  | .copy core _ => decide (core < 48)
  | .acc48 core _ => decide (core < 48)
  | .zero core _ => decide (core < 48)
  | .dmaComplete core _ => decide (core < 48)
  | .tdload core _ => decide (core < 48)
  | .tdstore core _ => decide (core < 48)
  | .tdinit core _ => decide (core < 48)
  | .matrix core _ => decide (core < 48)
  | .matrixComplete core => decide (core < 48)
  | .conv1d core _ => decide (core < 48)
  | .conv2d core _ => decide (core < 48)
  | .vectorAdd core _ => decide (core < 48)
  | .vectorSub core _ => decide (core < 48)
  | .vectorMul core _ => decide (core < 48)
  | .vectorMax core _ => decide (core < 48)
  | .vectorMin core _ => decide (core < 48)
  | .vectorAbs core _ => decide (core < 48)
  | .vectorNeg core _ => decide (core < 48)
  | .vectorCvt core _ => decide (core < 48)
  | .vectorMac core _ => decide (core < 48)
  | .specialFn core _ => decide (core < 48)
  | .rmax core _ => decide (core < 48)
  | .rsum core _ => decide (core < 48)
  | .softmax core _ => decide (core < 48)
  | .smstat core _ => decide (core < 48)
  | .smapply core _ => decide (core < 48)
  | .rmsnorm core _ => decide (core < 48)
  | .layernorm core _ => decide (core < 48)
  | .argmax core _ => decide (core < 48)
  | .narrow core _ => decide (core < 48)
  | .deq core _ => decide (core < 48)
  | .kvstore core _ => decide (core < 48)
  | .embed8 core _ => decide (core < 48)
  | .sample core _ => decide (core < 48)
  | .fence core _ => decide (core < 48)
  | .signal core _ => decide (core < 48)
  | .waitev core _ => decide (core < 48)
  | .slotwait core _ => decide (core < 48)
  | .ssend core _ => decide (core < 48)
  | .srecv core _ => decide (core < 48)
  | .srecvTimeout core => decide (core < 48)
  | .peerSearch core _ => decide (core < 48)
  | .sfuTblDataWrite _ _ => true
  | .sfuCompat1Write _ _ => true
  | .sfuTblDataRead _ => true
  | .sfuTblCommit _ => true
  | .checkInjectArm _ core _ => decide (core < 48)
  | .ocmDiagWrite _ _ => true
  | .eccFlipmaskArm _ _ => true
  | .atollResize _ _ => true
  | .bankPowerWrite _ off _ => decide (off < 4096)
  | .autoRetention b => b.wf
  | .bankWake b => b.wf
  | .bgtRegionStart core _ => decide (core.getD 0 < 48)
  | .xmcFlipArm _ ch => decide (ch < 32)
  | .scrubGo _ _ => true
  | .scrubAbort _ _ => true
  | .scrubDone => true
  | .xmcTracking ch rate _ => decide (ch < 32) && decide (rate < 3)
  | .objRefetched _ => true
  | .stageFetch ctx layer => decide (ctx < 1024) && decide (layer < 4096)
  | .demoteComplete ctx seq layer page => decide (ctx < 1024) && decide (seq < 4096) && decide (layer < 4096) && decide (page < 16384)
  | .pageFetchComplete ctx seq layer page => decide (ctx < 1024) && decide (seq < 4096) && decide (layer < 4096) && decide (page < 16384)
  | .queryComplete _ => true
  | .compactionSwitch index => decide (index < 16)
  | .ingestInsert _ => true
  | .mergeDeadline _ => true
  | .deltaRebuild index _ => decide (index < 16)
  | .sreHoldWrite _ _ => true
  | .flashReadComplete u _ => decide (u < 17179869184)
  | .programComplete sb _ => decide (sb < 65536)
  | .eraseComplete sb _ => decide (sb < 65536)
  | .writeBufferDrain _ => true
  | .mapCheckpoint _ => true
  | .backgroundGc => true
  | .foregroundGc => true
  | .slcFold => true
  | .powerLossFlush _ => true
  | .mteDiagGo _ page _ => decide (page < 256)
  | .channelStopsResponding ch => decide (ch < 64)
  | .linkEnWrite _ _ => true
  | .autoNegotiationTimeout => true
  | .linkUp => true
  | .linkDown => true
  | .fecWindow _ _ => true
  | .frameReceive _ => true
  | .pfcRepeat prio => decide (prio < 8)
  | .pfcPauseExpiry prio => decide (prio < 8)
  | .pfcFrame prio quanta => decide (prio < 8) && decide (quanta < 65536)
  | .pauseFrame => true
  | .txUnderrun => true
  | .xqPtrFault _ prio => decide (prio < 8)
  | .arpRequest _ => true
  | .icmpEcho _ => true
  | .gatewayRefresh => true
  | .unresolvedTimeout => true
  | .tcpRetransmitTimeout _ => true
  | .ipAddressWrite _ off _ => decide (off < 4096)
  | .ptpSync _ => true
  | .ptpFollowUp _ => true
  | .ptpDelayResp _ => true
  | .ptpAnnounce _ => true
  | .delayReqSend => true
  | .referenceLost => true
  | .holdover => true
  | .lost => true
  | .ppsInEdge _ => true
  | .ppsOutPulse => true
  | .ppsOutPulseEnd => true
  | .sourceWrite _ _ => true
  | .todSecWrite _ _ => true
  | .dataMessage _ => true
  | .queryMessage _ => true
  | .resultMessage _ => true
  | .ackMessage _ => true
  | .syncMessage _ => true
  | .syncReplyMessage _ => true
  | .straitAckTimer grp mem => decide (grp < 64) && decide (mem < 256)
  | .straitRetransmit grp mem => decide (grp < 64) && decide (mem < 256)
  | .memberStale grp mem => decide (grp < 64) && decide (mem < 256)
  | .syncInterval => true
  | .heldMessageExpiry _ => true
  | .straitMemCfgWrite _ off _ => decide (off < 4096)
  | .straitGrpCfgWrite _ off _ => decide (off < 4096)
  | .straitPortWrite _ off _ => decide (off < 4096)
  | .mspWatchdog => true
  | .managementReset => true
  | .sectorProgramComplete _ => true
  | .getVersion _ => true
  | .getCapabilities _ => true
  | .negotiateAlgorithms _ => true
  | .getDigests _ => true
  | .getCertificate _ => true
  | .challenge _ => true
  | .getMeasurements _ => true
  | .chunkSend _ => true
  | .chunkGet _ => true
  | .sessionOpen _ => true
  | .sessionAuth _ => true
  | .sessionRecord _ => true
  | .sessionIdleTimeout => true
  | .provision _ => true
  | .certWrite _ => true
  | .takeOwnership _ => true
  | .pskInstall _ => true
  | .pskDelete _ => true
  | .configWrite _ => true
  | .tamperCfg _ => true
  | .retire _ => true
  | .decommission _ => true
  | .reprovision _ => true
  | .tamperClear _ => true
  | .revokeFwKey _ => true
  | .tamperEvent src => decide (src < 4)
  | .tamperLoopMeasure _ => true
  | .keystoreErase => true
  | .commandInterrupted t => decide (t.cid < 65536)
  | .mctpControlMessage _ => true
  | .entdaa addr => decide (addr < 128)
  | .powerOnReset => true
  | .moduleReset => true
  | .deviceReset => true
  | .startUp _ => true
  | .ready => true
  | .pwrEnEdge _ => true
  | .modRstNEdge _ => true
  | .brakeNEdge _ => true
  | .aux3v3Change _ => true
  | .brakeToggleHoldEnd => true
  | .brakeHeld => true
  | .inputVoltageEvent _ => true
  | .governorInterval _ _ => true
  | .thermalRead sensor _ => decide (sensor < 120)
  | .holdupMeasurement _ => true
  | .flitGroupCrcFail _ => true
  | .classLate _ _ _ _ => true
  | .ps4FabricClockStop => true
  | .actLedTimeout => true

end Sys2Proof
end

