-- ==== Sys2Proof/Certificates/Slice0/Obligations.lean ====
section
/-! DEFINITION. The statements for the provers, one per entry of OBLIGATIONS.json. A statement that joins several rules is a
conjunction in the order of its text. -/

open Sys2Proof Sys2Proof.Machine

/-- A step runs the command at the front of the queue on the queue's rest. For every state whose queue is i followed by l: step is exec of i
on the state with queue l, and a next state keeps the queue l. First in, first out is the model's own queue discipline. Rests on
95_what_each_step_holds.md. -/
def Obligations.StepRunsFront : Prop :=
  ∀ (s : State) (i : Instr) (l : List Instr), s.pending = i :: l →
    step s = exec i { s with pending := l } ∧ ∀ t, step s = .next t → t.pending = l

/-- On an empty queue a step is one nanosecond, which leaves memories, registers and flash and completes loads. The model's choice (log entry
1): with nothing waiting, step answers a next state in which master fabric time and the time since power good have advanced by 1 ns modulo
2^64, the replica too unless the power state in force for the Chart is PS4, the queue is still empty, and the on-chip memories, external
memory, cores, islands, stored registers, flash and management state are unchanged; with no context LOADING, messages and contexts are
unchanged too, and where one context is LOADING its load completes: the context is READY and its Load Context completes with success. That
a load takes until the queue is empty is the model's choice (log entry 29). Rests on 01_architecture.md. -/
def Obligations.TickOnEmptyQueue : Prop :=
  (∀ (s : State), s.pending = [] → ∃ t, step s = .next t ∧ t.pending = [] ∧ t.time.master = (s.time.master + 1) % 2 ^ 64 ∧ t.time.uptime = (s.time.uptime + 1) % 2 ^ 64 ∧
    t.time.replica = (if chartPs s = 4 then s.time.replica else (s.time.replica + 1) % 2 ^ 64) ∧
    t.ocm = s.ocm ∧ t.xmc = s.xmc ∧ t.cores = s.cores ∧ t.islands = s.islands ∧ t.regs = s.regs ∧ t.ftl = s.ftl ∧ t.msp = s.msp ∧
    ((∀ e ∈ s.ctxs, e.2.st ≠ .loading) → t.out = s.out ∧ t.ctxs = s.ctxs)) ∧
  (∀ (s : State) (n : Nat) (c : Ctx) (g : Tag), s.pending = [] → s.chip.powered = true → chartPs s ≠ 4 → ctx? s n = some c → c.st = .loading → c.loadTag = some g →
    (∀ e ∈ s.ctxs, e.2.st = .loading → e.1 = n) →
    step s = .next (passTime 1 (complete .bcs g stSuccess 0 0 [] (putCtx n { c with st := .ready, loadTag := none } (drainRx s)))))

/-- What the state after reset holds. In State.reset every stored register word is the word of its Reset column and every counter is 0; every
page header is 0; ten named fields read the table's values (MXC_CHECK_FAIL_LIMIT 4, OCM_AUTO_IDLE_US 100, XMC_SCRUB_CTRL.RATE 25,
COMPASS_LOOKAHEAD_US 250, SRE_READ_RATE 8,000, FTL_REWRITE_PCT 70, FTL_BG_IDLE_MS 50, NIU_MTU 9,000, STRAIT_RTO.US 50, STRAIT_RTO.RETRIES
8); the part is at level 2 and not locked, at stage power good, handles no FATAL error, has fabric time 0, a Chart that is disabled with
no bank active, no context, no island bound, no core running, an empty error ring, PS0 selected and in force, no connection, a free-
running Sextant, no link, no held message and an empty queue. That the reset state stands at power good with the memories and tables empty
is the model's choice (log entry 50). Rests on 00_scope.md, 02_register_pages.md, 03_serving_chart.md, 12_host_queues.md,
13_network_time.md, 15_errors_bringup.md. -/
def Obligations.ResetValues : Prop :=
  (∀ page off, regWord State.reset page off = resetWord page off ∧ cntGet State.reset page off = 0) ∧
  (∀ page, hdr State.reset page = PageHdr.zero) ∧
  regFld State.reset 0x40 0x110 7 0 = 4 ∧ regFld State.reset 0x80 0x124 15 0 = 100 ∧ regFld State.reset 0x90 0x200 14 8 = 25 ∧
  regFld State.reset 0xA0 0x100 13 0 = 250 ∧ regFld State.reset 0xB0 0x108 14 0 = 8000 ∧ regFld State.reset 0xD0 0x124 6 0 = 70 ∧
  regFld State.reset 0xD0 0x12C 15 0 = 50 ∧ regFld State.reset 0x10 0x178 13 0 = 9000 ∧ regFld State.reset 0x12 0x10C 15 0 = 50 ∧
  regFld State.reset 0x12 0x10C 19 16 = 8 ∧
  State.reset.chip.level1 = false ∧ State.reset.chip.locked = false ∧ State.reset.chip.stage = .powerGood ∧ fatalStop State.reset = false ∧
  State.reset.time.master = 0 ∧ State.reset.chart.enable = false ∧ State.reset.chart.active = none ∧ State.reset.ctxs = [] ∧ State.reset.islands = [] ∧
  (∀ k, (core State.reset k).run = none) ∧ State.reset.err.ring = [] ∧ State.reset.err.head = State.reset.err.tail ∧
  State.reset.qcu.ps.selected = 0 ∧ State.reset.qcu.ps.inForce = 0 ∧ State.reset.qcu.conns = [] ∧ State.reset.sext.st = .freerun ∧
  State.reset.niu.linkUp = false ∧ State.reset.strait.held = [] ∧ State.reset.pending = []

/-- The state after reset satisfies the invariant. The memories of State.reset are in canonical form and its island table keeps the islands'
rule. Canonical form is the model's own. Rests on 08_onchip_memory.md, 09_memory_tiers.md, 03_serving_chart.md. -/
def Obligations.ResetSatisfiesInvariant : Prop :=
  Memory.wf State.reset = true ∧ islandsWf State.reset.islands = true

/-- Every step keeps the memories canonical and no core on two islands. For every state whose on-chip and external memories (bytes and marks
of error) are sorted lists with no entry equal to the default, and whose island table names islands 0 to 47 with core masks below 2^48, no
core in two islands: if step answers a next state, the same holds of it. The canonical form is the model's own; that a core belongs to at
most one island is R63's. Rests on 03_serving_chart.md, 08_onchip_memory.md, 09_memory_tiers.md. -/
def Obligations.StepKeepsInvariant : Prop :=
  ∀ (s t : State), Memory.wf s = true → islandsWf s.islands = true → step s = .next t → Memory.wf t = true ∧ islandsWf t.islands = true

/-- Every well-formed command answers a next state and leaves the rest of the queue. For every well-formed command (core below 48, channel
below 32, PLL below 5, source below 4, address below 128, sensor below 120, bank and class in range) and every state, exec answers a next
state, never a fault or a refusal, and the waiting commands are as they were. Rests on 95_what_each_step_holds.md. -/
def Obligations.EveryCommandCompletes : Prop :=
  ∀ (i : Instr) (s : State), i.wf = true → ∃ t, exec i s = .next t ∧ t.pending = s.pending

/-- Who may write the MSP page, and what is readable when TAMPERED or DECOMMISSIONED. A write to page 0x03 through a path other than the
management core is refused: the access check answers REG_DENIED, and REGISTER_WRITE of an aligned word answers that status and changes
nothing else. The management core's writes of that page pass the check. Outside TAMPERED and DECOMMISSIONED its reads pass on every path.
In those two states the in-band and sideband paths read pages 0x00 and 0xE0 and no other, and write offsets 0x010 and 0x108 of page 0xE0
and no other; every other access is REG_DENIED. REGISTER_WRITE answers REG_ALIGN for an offset that is no multiple of 4, REG_RANGE for one
above 0xFFC, and otherwise whatever code the access check gives. Formalises R37, R38. -/
def Obligations.RegisterAccessRules : Prop :=
  (∀ (s : State) (p : Path) (off : Nat) (w : Word), p ≠ .mgmt →
    regGate p 0x03 off true s = some 0x0004 ∧
    (s.chip.powered = true → off % 4 = 0 → off ≤ 0xFFC → exec (.registerWrite p 0x03 off w) s = .next (emit (.reg p 0x0004 []) s))) ∧
  (∀ (s : State) (off : Nat), regGate .mgmt 0x03 off true s = none) ∧
  (∀ (s : State) (p : Path) (off : Nat), lifecycle s ≠ .tampered → lifecycle s ≠ .decommissioned → regGate p 0x03 off false s = none) ∧
  (∀ (s : State) (p : Path) (page off : Nat), lifecycle s = .tampered ∨ lifecycle s = .decommissioned → p ≠ .mgmt →
    (page = 0x00 ∨ page = 0xE0 → regGate p page off false s = none) ∧
    (page ≠ 0x00 → page ≠ 0xE0 → regGate p page off false s = some 0x0004) ∧
    (page = 0xE0 → off = 0x010 ∨ off = 0x108 → regGate p page off true s = none) ∧
    (page ≠ 0xE0 ∨ off ≠ 0x010 ∧ off ≠ 0x108 → regGate p page off true s = some 0x0004)) ∧
  (∀ (s : State) (p : Path) (page off : Nat) (w : Word), s.chip.powered = true →
    let refused (c : Nat) : Prop := exec (.registerWrite p page off w) s = .next (emit (.reg p c []) s)
    (off % 4 ≠ 0 → refused 0x0002) ∧
    (off % 4 = 0 → 0xFFC < off → refused 0x0003) ∧
    (∀ c, off % 4 = 0 → off ≤ 0xFFC → regGate p page off true s = some c → refused c))

/-- ERR_FIRST captures the first error while ERR_STATUS reads 0. Raising an error of a page source sets its ERR_STATUS bit and counts it in
ERR_COUNT, saturating; if ERR_STATUS read 0, ERR_FIRST becomes valid with the source bit and the code, otherwise bit and code are kept;
other pages' headers are unchanged. ERR_STATUS_CLEAR clears the bits written 1; where ERR_STATUS comes to read 0, VALID, BIT and CODE
clear to 0, otherwise they are kept. (Commands are whole: no error fires within one.) Formalises R43. -/
def Obligations.ErrFirstCapture : Prop :=
  (∀ (s : State) (r : Raise) (b : Nat), r.bit = some b → b < 32 →
    let h := hdr s r.page
    let h' := hdr (recordErr r s) r.page
    h'.errStatus = h.errStatus ||| BitVec.ofNat 32 (2 ^ b) ∧ h'.errCount = min (h.errCount + 1) 0xFFFFFFFF ∧
    (h.errStatus = 0 → h'.firstValid = true ∧ h'.firstBit = b ∧ h'.firstCode = r.code) ∧
    (h.errStatus ≠ 0 → h'.firstBit = h.firstBit ∧ h'.firstCode = h.firstCode) ∧
    (∀ q, q ≠ r.page → hdr (recordErr r s) q = hdr s q)) ∧
  (∀ (s : State) (p : Path) (page : Nat) (w : Word), Reaches s p page 0x010 →
    ∃ t, exec (.errStatusClear p page w) s = .next t ∧
      let h := hdr s page
      let h' := hdr t page
      h'.errStatus = h.errStatus &&& ~~~w ∧
      (h.errStatus &&& ~~~w = 0 → h'.firstValid = false ∧ h'.firstBit = 0 ∧ h'.firstCode = 0) ∧
      (h.errStatus &&& ~~~w ≠ 0 → h'.firstValid = h.firstValid ∧ h'.firstBit = h.firstBit ∧ h'.firstCode = h.firstCode))

/-- Header writes, plain register writes and the counter latch. CNT_FREEZE sets the freeze, and counted events then leave the counters;
CNT_CLEAR sets the page's counters to 0 and no other page's; ERR_COUNT_CLR sets ERR_COUNT to 0; ERR_STATUS_CLEAR clears the bits written 1
and, at 0, ERR_FIRST's VALID. REGISTER_WRITE to a block register of pages 0x02, 0x20, 0xA0 or 0xD0 (values inside the ranges of the table,
QCU port register apart) stores a word whose RW bits are those written. COUNTER_LOW_READ of pages 0x20, 0x90 and 0xB0 answers the low half
and latches the high half, so that the next read of the high half on that path returns it whatever else happened. Rests on 00_scope.md,
02_register_pages.md. -/
def Obligations.RegisterWriteResult : Prop :=
  (∀ (s : State) (p : Path) (page : Nat), (pageBlock page).isSome = true → Reaches s p page 0x008 →
     (∀ on, ∃ t, exec (.cntFreeze p page on) s = .next t ∧ t = modHdr page (fun h => { h with freeze := on }) s ∧ (hdr t page).freeze = on ∧
       (∀ off n, cntGet (cntAdd page off n t) page off = if on then cntGet t page off else (cntGet t page off + n) % 2 ^ 64)) ∧
     (∃ t, exec (.cntClear p page) s = .next t ∧ (∀ off < 4096, cntGet t page off = 0) ∧ (∀ q off, q ≠ page → off < 4096 → cntGet t q off = cntGet s q off) ∧
       t.hdr = s.hdr ∧ t.regs = s.regs ∧ t.out = s.out ∧ t.xmc = s.xmc) ∧
     (∃ t, exec (.errCountClr p page) s = .next t ∧ (hdr t page).errCount = 0 ∧ t = modHdr page (fun h => { h with errCount := 0 }) s) ∧
     (∀ w, regGate p page 0x010 true s = none → ∃ t, exec (.errStatusClear p page w) s = .next t ∧ (hdr t page).errStatus = (hdr s page).errStatus &&& ~~~w ∧
       ((hdr t page).errStatus = 0 → (hdr t page).firstValid = false) ∧
       ((hdr t page).errStatus ≠ 0 → (hdr t page).firstValid = (hdr s page).firstValid) ∧ (∀ q, q ≠ page → hdr t q = hdr s q) ∧ t.regs = s.regs ∧ t.cnt = s.cnt)) ∧
  ((∀ (s : State) (p : Path) (page off : Nat) (w : Word), page ∈ [0x02, 0x20, 0xA0, 0xD0] → off % 4 = 0 → 0x100 ≤ off → off < 0x800 → Reaches s p page off →
     clampWord page off ((regWord s page off).toNat - ((regWord s page off).toNat &&& rwMask page off) + (w.toNat &&& rwMask page off)) =
       (regWord s page off).toNat - ((regWord s page off).toNat &&& rwMask page off) + (w.toNat &&& rwMask page off) → ¬ (page = 0x20 ∧ off = 0x104) →
     ∃ v, exec (.registerWrite p page off w) s = .next (setRegWord page off v s) ∧ v.toNat &&& rwMask page off = w.toNat &&& rwMask page off) ∧
   (∀ (s : State) (p : Path) (page off : Nat), page ∈ [0x20, 0x90, 0xB0] → off % 8 = 0 → 0x800 ≤ off → off < 0xFF8 → s.chip.powered = true → regGate p page off false s = none →
     let v := cntGet s page off
     ∃ t, exec (.counterLowRead p page off) s = .next t ∧ t.out = s.out ++ [.reg p 0 [BitVec.ofNat 32 v]] ∧ cntGet t page off = v ∧
       (∀ u, u.latch = t.latch → (readWord p page (off + 4) u).1 = BitVec.ofNat 32 (v / 2 ^ 32))))

/-- CHIP, CLKRST and ERR page commands, and an island reset. A write of CHIP_IFLEVEL_SEL: locked, it records IFLEVEL_LOCKED only; unlocked, 2
locks level 2, 1 selects and locks level 1, any other value records IFLEVEL_INVALID without locking. ERR_RING_TAIL: stored where it leaves
at most 64 records, otherwise ERR_TAIL_INVALID. CLKRST_DEV_RESET: the key starts a device reset due in 10 µs, any other value records the
advisory. FMEAS start and result. A PLL that loses lock counts and is FATAL for PLLs 0 to 2, silent for 3, ADVISORY for 4.
CLKRST_ISLAND_RESET.GO: an unbound or unnamed island records ISLAND_UNBOUND and resets nothing; otherwise every core of the island is
reset, where no step of the island runs. A core reset leaves it without run, accumulator memory empty, both planes empty, check injection
0, and every other core, both memories and the contexts unchanged. Rests on 00_scope.md, 02_register_pages.md, 05_matrix_cores.md,
15_errors_bringup.md. -/
def Obligations.ChipControlResult : Prop :=
  ((∀ (s : State) (p : Path) (w : Word), Reaches s p 0x00 0x104 →
     (s.chip.locked = true → exec (.iflevelSelect p w) s = .next (advisory 0x00 1 0x0007 0 0 s)) ∧
     (s.chip.locked = false → w = 2 → exec (.iflevelSelect p w) s = .next (modChip (fun c => { c with locked := true }) s)) ∧
     (s.chip.locked = false → w = 1 → ∃ t, exec (.iflevelSelect p w) s = .next t ∧ t.chip.level1 = true ∧ t.chip.locked = true) ∧
     (s.chip.locked = false → w ≠ 1 → w ≠ 2 → exec (.iflevelSelect p w) s = .next (advisory 0x00 0 0x0006 0 0 s))) ∧
   (∀ (s : State) (p : Path) (w : Word), Reaches s p 0xE0 0x104 →
     let tail := w.toNat % 128
     ((s.err.head + 128 - tail) % 128 ≤ 64 → exec (.errRingTailWrite p w) s = .next (modErr (fun e => { e with tail := tail }) s)) ∧
     (64 < (s.err.head + 128 - tail) % 128 → exec (.errRingTailWrite p w) s = .next (advisory 0xE0 0 0xE001 0 0 s))) ∧
   (∀ (s : State) (p : Path) (w : Word), Reaches s p 0x01 0x10C →
     (w = 0xA5C3 → s.chip.devResetDue = none → exec (.clkrstDevReset p w) s = .next (modChip (fun c => { c with devResetDue := some (s.time.master + 10000) }) s)) ∧
     (w ≠ 0xA5C3 → exec (.clkrstDevReset p w) s = .next (advisory 0x01 2 0x0103 0 0 s))) ∧
   (∀ (s : State) (p : Path) (w : Word), Reaches s p 0x01 0x114 →
     ∃ t, exec (.fmeasStart p w) s = .next t ∧
       t.chip.fmeas = (if bit w.toNat 31 = true ∧ s.chip.fmeas = none then some (w.toNat % 8) else s.chip.fmeas) ∧ t.ocm = s.ocm ∧ t.xmc = s.xmc ∧ t.cnt = s.cnt) ∧
   (∀ (s : State) (khz d : Nat), s.chip.fmeas = some d →
     exec (.fmeasDone khz) s = .next (modChip (fun c => { c with fmeas := none, fmeasKhz := if d = 0 then 3600000 else khz % 2 ^ 32 }) s)) ∧
   (∀ (s : State) (pll : Nat), bit s.chip.pll pll = true →
     let t := cntAdd 0x01 0x800 1 (modChip (fun c => { c with pll := c.pll - 2 ^ pll }) s)
     (pll ≤ 2 → exec (.pllUnlock pll) s = .next (raiseFatal 0x0101 0x01 (some 0) 0 0 t)) ∧
     (pll = 3 → exec (.pllUnlock pll) s = .next t) ∧
     (pll = 4 → exec (.pllUnlock pll) s = .next (advisory 0x01 1 0x0102 0 0 t)))) ∧
  ((∀ (s : State) (p : Path) (w : Word), Reaches s p 0x01 0x110 → 
     let t := storeRw 0x01 0x110 w s
     let i := w.toNat % 64
     (bit w.toNat 31 = false → exec (.islandResetGo p w) s = .next t) ∧
     (bit w.toNat 31 = true → 48 ≤ i ∨ islandMap s i = 0 → exec (.islandResetGo p w) s = .next (advisory 0x01 3 0x0104 0 0 t)) ∧
     (bit w.toNat 31 = true → i < 48 → islandMap s i ≠ 0 → (∀ e ∈ islandCtxs s i, e.2.step = none ∧ e.2.parked = false) → 
       exec (.islandResetGo p w) s = .next (startDue (cntAdd 0x01 0x808 1 ((islandCores s i).foldl (fun s k => resetCore k s) t))))) ∧
   (∀ (s : State) (k : Nat), 
     let t := resetCore k s
     (core t k).run = none ∧ (core t k).acc = [] ∧ (core t k).active = Plane.empty ∧ (core t k).shadow = Plane.empty ∧ regWord t (0x40 + k) 0x10C = 0 ∧
     (∀ j, j ≠ k → core t j = core s j) ∧ t.ocm = s.ocm ∧ t.xmc = s.xmc ∧ t.ctxs = s.ctxs))

/-- The SFU table bank, its commit, compatibility mode and check injection. SFU_TBL_DATA writes the inactive bank at the address and advances
it modulo 4,096, the active bank unchanged; while an old bank is in use the write is refused, recorded and counted. A read returns the
word and advances. A commit with the level's version and no bad word makes the bank active and publishes the SHA3-512 of its words; a bad
version answers FORMAT_LEVEL and changes nothing else; with the old bank in use it is refused. SFU compatibility is stored at level 2 and
ignored at level 1. Check injection arms with ARM and a nonzero count, disarms with count 0, and otherwise stays. Rests on
05_matrix_cores.md, 07_vector_special.md. -/
def Obligations.FunctionTableResult : Prop :=
  (∀ (s : State) (p : Path) (w : Word), Reaches s p 0x70 0x10C →
    (oldInUse s = false → ∃ t, exec (.sfuTblDataWrite p w) s = .next t ∧ t.sfu.addr = (s.sfu.addr + 1) % 4096 ∧ t.sfu.active = s.sfu.active ∧
      sfuWord t.sfu (1 - s.sfu.active) s.sfu.addr = w.toNat ∧ (∀ a, a ≠ s.sfu.addr → sfuWord t.sfu (1 - s.sfu.active) a = sfuWord s.sfu (1 - s.sfu.active) a) ∧
      (∀ a, s.sfu.active ≤ 1 → sfuWord t.sfu s.sfu.active a = sfuWord s.sfu s.sfu.active a)) ∧
    (oldInUse s = true → exec (.sfuTblDataWrite p w) s = .next (advisory 0x70 1 0x7002 0 0 (cntAdd 0x70 0x808 1 s)))) ∧
  (∀ (s : State) (p : Path), s.chip.powered = true → regGate p 0x70 0x10C false s = none →
    exec (.sfuTblDataRead p) s = .next (modSfu (fun t => { t with addr := (t.addr + 1) % 4096 }) (emit (.reg p 0 [BitVec.ofNat 32 (sfuWord s.sfu s.sfu.readBank s.sfu.addr)]) s))) ∧
  (∀ (s : State) (p : Path), Reaches s p 0x70 0x110 →
    let b := 1 - s.sfu.active
    (oldInUse s = false → bits (sfuWord s.sfu b 0) 7 0 = versionByte s → (∀ a < 4096, tblWordBad a (sfuWord s.sfu b a) = false) →
      ∃ t, exec (.sfuTblCommit p) s = .next t ∧ t.sfu.active = b ∧ t.sfu.result = 0 ∧ t.sfu.bank0 = s.sfu.bank0 ∧ t.sfu.bank1 = s.sfu.bank1 ∧
        t.sfu.digest = some (sha3_512 ((List.range 4096).flatMap fun a => leBytes 4 (sfuWord s.sfu b a)))) ∧
    (oldInUse s = false → bits (sfuWord s.sfu b 0) 7 0 ≠ versionByte s →
      ∃ t, exec (.sfuTblCommit p) s = .next t ∧ t.sfu = { s.sfu with result := 0x0001 } ∧ t.err = s.err) ∧
    (oldInUse s = true → exec (.sfuTblCommit p) s = .next (modSfu (fun t => { t with result := 0x7002 }) (advisory 0x70 1 0x7002 0 0 (cntAdd 0x70 0x808 1 s))))) ∧
  (∀ (s : State) (p : Path) (w : Word), Reaches s p 0x70 0x100 →
    (s.chip.level1 = false → exec (.sfuCompat1Write p w) s = .next (modSfu (fun t => { t with compat1 := bit w.toNat 0 }) s)) ∧
    (s.chip.level1 = true → exec (.sfuCompat1Write p w) s = .next s)) ∧
  (∀ (s : State) (p : Path) (k : Nat) (w : Word), k < 48 → Reaches s p (0x40 + k) 0x10C →
    ∃ t, exec (.checkInjectArm p k w) s = .next t ∧ (bit w.toNat 31 = true → w.toNat % 4 ≠ 0 → injectArmed t k = true) ∧ (w.toNat % 4 = 0 → injectArmed t k = false) ∧
      (bit w.toNat 31 = false → w.toNat % 4 ≠ 0 → injectArmed t k = injectArmed s k) ∧ regWord t (0x40 + k) 0x10C = regWord t (0x40 + k) 0x10C &&& 0x800001FF ∧ t.sfu = s.sfu ∧ t.cores = s.cores)

/-- OCM diagnostic mode, flip mask, Atoll, bank power, retention and the background test. Diagnostic mode is entered only with the Chart
disabled and no context resident. The flip mask arms, an Atoll bank only from the management core. An Atoll resize from the management
core moves the boundary, zeroes exactly the banks between the two boundaries and keeps the bytes below both; more than 4 is refused; other
paths are denied. A bank power write takes effect unless a bank it would disable is in use; OFF zeroes the bank. AUTO banks enter
retention when on; an access wakes a bank in retention, which is counted, and it stays on unless programmed RET or held by the power
state. A background test region, where enabled: abandoned counts only as abandoned; clean counts a region; a mismatch counts a mismatch
and a region and records the failing word; each advances to the next region. Rests on 08_onchip_memory.md. -/
def Obligations.OnChipMemoryControlResult : Prop :=
  ((∀ (s : State) (p : Path) (w : Word), Reaches s p 0x80 0x100 →
     (bit w.toNat 0 = true → s.chart.enable = false → s.ctxs = [] → exec (.ocmDiagWrite p w) s = .next (modOcm (fun o => { o with diag := true }) s)) ∧
     (bit w.toNat 0 = true → s.chart.enable = true ∨ s.ctxs ≠ [] → exec (.ocmDiagWrite p w) s = .next (cfgRefused s)) ∧
     (bit w.toNat 0 = false → exec (.ocmDiagWrite p w) s = .next (modOcm (fun o => { o with diag := false }) s))) ∧
   (∀ (s : State) (p : Path) (w : Word), s.chip.powered = true → regGate p 0x80 0x10C true s = none → bit w.toNat 31 = true →
     (p = .mgmt ∨ bit w.toNat 6 = true ∨ w.toNat % 64 < 64 - s.ocm.atoll → ∃ t, exec (.eccFlipmaskArm p w) s = .next t ∧ t.ocm = { s.ocm with flipArm := true } ∧ t.xmc = s.xmc ∧ t.err = s.err) ∧
     (p ≠ .mgmt → bit w.toNat 6 = false → 64 - s.ocm.atoll ≤ w.toNat % 64 → exec (.eccFlipmaskArm p w) s = .next (emit (.reg p 0x0004 []) s))) ∧
   (∀ (s : State) (w : Word), Reaches s .mgmt 0x80 0x108 →
     let n := w.toNat % 8
     let old := s.ocm.atoll
     (n ≤ 4 → n ≠ old → (∀ b, 64 - n ≤ b → b < 64 - old → spadBankUsed s b = false) →
       ∃ t, exec (.atollResize .mgmt w) s = .next t ∧ t.ocm.atoll = n ∧ t.xmc = s.xmc ∧
         ∀ a, ((64 - max n old) * 0x100000 ≤ a → a < (64 - min n old) * 0x100000 → smGet 0 t.ocm.spad a = 0) ∧
           (a < (64 - max n old) * 0x100000 → smGet 0 t.ocm.spad a = smGet 0 s.ocm.spad a)) ∧
     (4 < n → exec (.atollResize .mgmt w) s = .next (cfgRefused s))) ∧
   (∀ (s : State) (p : Path) (w : Word), p ≠ .mgmt → s.chip.powered = true → regGate p 0x80 0x108 true s = none → exec (.atollResize p w) s = .next (emit (.reg p 0x0004 []) s)) ∧
   (∀ (s : State) (p : Path) (off : Nat) (w : Word), off ∈ [0x140, 0x144, 0x148, 0x14C] → Reaches s p 0x80 off →
     let bank (i : Nat) : BankId := .spad ((off - 0x140) / 4 * 16 + i)
     let v (i : Nat) : Nat := bits w.toNat (2 * i + 1) (2 * i)
     ((∀ i < 16, bankInUse s (bank i) (v i) = false) → exec (.bankPowerWrite p off w) s = .next ((List.range 16).foldl (fun s i => setBankPwr (bank i) (v i) s) s)) ∧
     ((∃ i < 16, bankInUse s (bank i) (v i) = true) → exec (.bankPowerWrite p off w) s = .next (advisory 0x80 5 0x8006 0 0 s))) ∧
   (∀ (s : State) (b v : Nat), v < 4 → bankPwr (setBankPwr (.spad b) v s) (.spad b) = v ∧
     (v = 2 → bankPwr s (.spad b) ≠ 2 → bankPhys (setBankPwr (.spad b) v s) (.spad b) = .off ∧ ∀ a, b * 0x100000 ≤ a → a < (b + 1) * 0x100000 → smGet 0 (setBankPwr (.spad b) v s).ocm.spad a = 0)) ∧
   (∀ (s : State) (b : BankId), bankOk b = true →
     (bankPwr s b = 3 → bankPhys s b = .on → exec (.autoRetention b) s = .next (setPhys b .ret s)) ∧
     (bankPhys s b = .ret → bankPwr s b ≠ 1 → bankHeld s b = false → exec (.bankWake b) s = .next (setPhys b .on (cntAdd 0x80 0xB10 1 s))) ∧
     (bankPhys s b = .ret → bankPwr s b = 1 → exec (.bankWake b) s = .next (cntAdd 0x80 0xB10 1 s)))) ∧
  (∀ (s : State) (core : Option Nat) (out : MarchOut) (b : Nat),
     (match core with | none => regFld s 0x80 0x11C 1 1 = 1 ∧ chartPs s ≠ 4 | some k => k < 48 ∧ regFld s 0x80 0x11C 0 0 = 1 ∧ chartPs s < 3) →
     bgtSkip s core (bgtDims core).1 (bgtPos s core).bank = some b →
     let r := if b = (bgtPos s core).bank then (bgtPos s core).region else 0
     let next : Bgt := if r + 1 < (bgtDims core).2 then ⟨b, r + 1⟩ else ⟨(b + 1) % (bgtDims core).1, 0⟩
     (out = .abandoned → exec (.bgtRegionStart core out) s = .next (cntAdd 0x80 0xB28 1 (setBgt core next s))) ∧
     (∀ t, out = .clean → bgtSave core b (r * 256) 256 (setBgt core next s) = (none, t) → exec (.bgtRegionStart core out) s = .next (cntAdd 0x80 0xB20 1 t)) ∧
     (∀ t i, out = .mismatch i → bgtSave core b (r * 256) 256 (setBgt core next s) = (none, t) →
       exec (.bgtRegionStart core out) s = .next (cntAdd 0x80 0xB20 1 (testFail (bankWord core b (r * 256 + i % 256)) false (cntAdd 0x80 0xB38 1 t)))))

/-- XMC flip mask, scrub and tracking commands. XMC_FLIP_ARM arms its channel. SCRUB_GO refuses a running scrub with an advisory, starts a
range in order with counts at 0, and marks a range out of order as RANGE_ERR. SCRUB_ABORT with none running does nothing; with one running
it ends after a free number of bursts at most the range. SCRUB_DONE ends after the whole range. Ending a scrub keeps memory and the on-
chip memories. XMC tracking stores the rate and records the drift advisory once, when tracking reaches its end. Rests on
09_memory_tiers.md. -/
def Obligations.ExternalMemoryControlResult : Prop :=
  (∀ (s : State) (p : Path) (ch : Nat), ch < 32 → Reaches s p (0x90 + ch / 2) (0x10C + 0x20 * (ch % 2)) → 
    exec (.xmcFlipArm p ch) s = .next (modChan ch (fun c => { c with flipArm := true }) s)) ∧
  (∀ (s : State) (p : Path) (w : Word), Reaches s p 0x90 0x200 → bit w.toNat 0 = true → bit w.toNat 1 = false →
    let u := storeRw 0x90 0x200 w s
    let a := scrubAddr u 0x208
    let b := scrubAddr u 0x210
    let zeroed := cntSet 0x90 0xA10 0 (cntSet 0x90 0xA08 0 (cntSet 0x90 0xA00 0 u))
    (s.xmc.scrub.busy = true → exec (.scrubGo p w) s = .next (advisory 0x90 5 0x9006 0 0 u)) ∧
    (s.xmc.scrub.busy = false → a ≤ b → b ≤ 0x7FFFFFFFC0 → exec (.scrubGo p w) s = .next (modXmc (fun x => { x with scrub :=
      { busy := true, done := false, aborted := false, rangeErr := false, first := a / 64, last := b / 64, firstFail := none, lastFail := 0 } }) zeroed)) ∧
    (s.xmc.scrub.busy = false → b < a → exec (.scrubGo p w) s = .next (modXmc (fun x => { x with scrub :=
      { x.scrub with done := true, aborted := false, rangeErr := true, firstFail := none } }) zeroed))) ∧
  (∀ (s : State) (p : Path) (w : Word), Reaches s p 0x90 0x200 → bit w.toNat 0 = false → bit w.toNat 1 = true →
    let u := storeRw 0x90 0x200 w s
    (s.xmc.scrub.busy = false → exec (.scrubAbort p w) s = .next u) ∧
    (s.xmc.scrub.busy = true → ∃ n, n ≤ s.xmc.scrub.last - s.xmc.scrub.first + 1 ∧ ∃ u2, u2 = (draw u).2 ∧ exec (.scrubAbort p w) s = .next (endScrub true (scrubRead n u2)))) ∧
  (∀ (s : State), s.xmc.scrub.busy = true → exec .scrubDone s = .next (endScrub false (scrubRead (s.xmc.scrub.last - s.xmc.scrub.first + 1) s))) ∧
  (∀ (s : State) (aborted : Bool), s.xmc.scrub.busy = true → let t := endScrub aborted s
    t.xmc.scrub = { s.xmc.scrub with busy := false, done := true, aborted := aborted } ∧ t.xmc.mem = s.xmc.mem ∧ t.ocm = s.ocm) ∧
  (∀ (s : State) (ch rate : Nat) (atEnd : Bool), ch < 32 → rate < 3 → (chan s ch).trained = true → (chan s ch).selfRefresh = false →
    let t := modChan ch (fun c => { c with rate := rate, drift := c.drift || atEnd }) s
    (atEnd = true → (chan s ch).drift = false → exec (.xmcTracking ch rate atEnd) s = .next (advisory (0x90 + ch / 2) 3 0x9004 0 0 t)) ∧
    (atEnd = false ∨ (chan s ch).drift = true → exec (.xmcTracking ch rate atEnd) s = .next t))

/-- Every SCALAR instruction has the result of its table row. On a core that runs an instruction with its Rsvd bits 0, each SCALAR instruction
answers the next state in which only its destination register has the table's value and the core goes on: NOP; ADD, SUB, MUL (low 64
bits), AND, OR, XOR; shifts by S[RB][5:0]; signed MIN, MAX, SLT; ADDI, MOVI with the sign-extended immediate; MOVHI; TOA, TOS, AADDI,
AADD; TIME (the replica, or the slot's start with MOD[0]). LD reads 8 bytes at A[RA] + sext(IMM32) and ST writes them where the address is
a multiple of 8 in the LOCAL, SCRATCH or WORK window and the access is permitted; otherwise ADDR_ALIGN, or ADDR_RANGE for any other
window. Formalises R167. -/
def Obligations.ScalarResult : Prop :=
  (∀ (s : State) (k : Nat) (f : IFields) (r : Run) (c : Ctx) (st : Step), CoreRuns s k r c st → modBad f 0 = false →
     let x := getS r f.ra
     let y := getS r f.rb
     let put (v : DWord) : Res := .next (advance k (putRun k (setS r f.rd v) s))
     exec (.nop k f) s = .next (advance k s) ∧ exec (.add k f) s = put (x + y) ∧ exec (.sub k f) s = put (x - y) ∧
     exec (.mul k f) s = put (x * y) ∧ exec (.andS k f) s = put (x &&& y) ∧ exec (.orS k f) s = put (x ||| y) ∧
     exec (.xor k f) s = put (x ^^^ y) ∧ exec (.shl k f) s = put (x <<< (y.toNat % 64)) ∧
     exec (.shr k f) s = put (x >>> (y.toNat % 64)) ∧ exec (.sra k f) s = put (x.sshiftRight (y.toNat % 64)) ∧
     exec (.minS k f) s = put (if x.toInt < y.toInt then x else y) ∧ exec (.maxS k f) s = put (if x.toInt < y.toInt then y else x) ∧
     exec (.slt k f) s = put (if x.toInt < y.toInt then 1 else 0) ∧ exec (.addi k f) s = put (x + f.imm.signExtend 64) ∧
     exec (.movi k f) s = put (f.imm.signExtend 64) ∧ exec (.movhi k f) s = put (f.imm ++ (getS r f.rd).setWidth 32)) ∧
  (∀ (s : State) (k : Nat) (f : IFields) (r : Run) (c : Ctx) (st : Step), CoreRuns s k r c st →
     let go (r2 : Run) : Res := .next (advance k (putRun k r2 s))
     (modBad f 0 = false → f.rd.toNat < 8 → exec (.toa k f) s = go (setA r f.rd (getS r f.ra))) ∧
     (modBad f 0 = false → f.ra.toNat < 8 → exec (.tos k f) s = go (setS r f.rd (getA r f.ra))) ∧
     (modBad f 0 = false → f.rd.toNat < 8 → f.ra.toNat < 8 →
       exec (.aaddi k f) s = go (setA r f.rd (getA r f.ra + f.imm.signExtend 64)) ∧
       exec (.aadd k f) s = go (setA r f.rd (getA r f.ra + getS r f.rb))) ∧
     (modBad f 1 = false → exec (.time k f) s =
       go (setS r f.rd (BitVec.ofNat 64 (if f.md.toNat % 2 = 1 then st.slotStart else s.time.replica))))) ∧
  (∀ (s : State) (k : Nat) (f : IFields) (r : Run) (c : Ctx) (st : Step), CoreRuns s k r c st → modBad f 0 = false → f.ra.toNat < 8 →
     let a := (getA r f.ra + f.imm.signExtend 64).toNat
     (a % 8 = 0 → windowOf a ≤ 2 →
       (∀ d u, CanRead s k r st (Ext.one a 8) → instrRead s k r.ctx a 8 = (.data d, u) →
         exec (.ld k f) s = .next (advance k (modRunOf k (fun x => setS x f.rd (BitVec.ofNat 64 (leNat d))) u))) ∧
       (∀ u, CanWrite s k r (Ext.one a 8) → writeWin k r.ctx a (leBytes 8 (getS r f.rb).toNat) s = (none, u) →
         exec (.st k f) s = .next (advance k u))) ∧
     (a % 8 ≠ 0 → exec (.ld k f) s = .next (jobFault r.ctx (some k) 0x3047 s) ∧ exec (.st k f) s = .next (jobFault r.ctx (some k) 0x3047 s)) ∧
     (a % 8 = 0 → 2 < windowOf a →
       exec (.ld k f) s = .next (jobFault r.ctx (some k) 0x3045 s) ∧ exec (.st k f) s = .next (jobFault r.ctx (some k) 0x3045 s)))

/-- Branches, loops, verdicts, the end of a task and what follows an instruction. J and JR jump; BEQ, BNE, BLT, BGE compare signed and jump as
J or go on; a target that is no multiple of 16 or outside the code raises BRANCH_RANGE; loops whose body does not hold the target become
inactive, scalar and address registers unchanged. LOOP starts L[RD] with COUNT from S[RA] or IMM32 and INDEX 0; a count of 0 skips the
body; an active L register raises LOOP_NEST; a body outside the code or outside an active body around it raises BRANCH_RANGE. LIDX reads
INDEX. BVERD waits without a verdict, goes on with ACCEPT and jumps as J with RERUN. END ends the task. After an instruction: with no
active body ending there the core goes on, or faults with BRANCH_RANGE past CODE_BYTES; with the most recently started body ending there,
INDEX rises and COUNT falls by 1 and the body starts again while COUNT is above 0; otherwise that loop becomes inactive and the enclosing
loop is evaluated. Formalises R168, R169. -/
def Obligations.ControlFlowResult : Prop :=
  (∀ (s : State) (k : Nat) (f : IFields) (r : Run) (c : Ctx) (st : Step), CoreRuns s k r c st → modBad f 0 = false →
     let x := getS r f.ra
     let y := getS r f.rb
     let t := (r.pc + 16 * f.imm.signExtend 64).toNat
     let jumped (t : Nat) (o : Res) : Prop :=
       (t % 16 = 0 ∧ t < codeBytes s r → ∃ r2, o = .next (putRun k r2 s) ∧ r2.pc.toNat = t % 2 ^ 64 ∧ r2.s = r.s ∧ r2.a = r.a ∧
         r2.lstack = r.lstack.filter fun i => inBody r i t) ∧
       (¬ (t % 16 = 0 ∧ t < codeBytes s r) → o = .next (jobFault r.ctx (some k) 0x3043 s))
     let branch (p : Prop) (o : Res) : Prop := (p → jumped t o) ∧ (¬ p → o = .next (advance k s))
     jumped t (exec (.j k f) s) ∧ jumped x.toNat (exec (.jr k f) s) ∧
     branch (x = y) (exec (.beq k f) s) ∧ branch (x ≠ y) (exec (.bne k f) s) ∧
     branch (x.toInt < y.toInt) (exec (.blt k f) s) ∧ branch (y.toInt ≤ x.toInt) (exec (.bge k f) s)) ∧
  (∀ (s : State) (k : Nat) (f : IFields) (r : Run) (c : Ctx) (st : Step), CoreRuns s k r c st →
     (∀ (n : Nat), modBad f 1 = false → f.rd.toNat < 4 → 1 ≤ extF f 15 0 →
       n = (if f.md.toNat % 2 = 1 then f.imm.toNat else (getS r f.ra).toNat % 2 ^ 32) →
       let i := f.rd.toNat
       let pc := r.pc.toNat
       let stop := pc + 16 * extF f 15 0
       let nested := ∀ j ∈ r.lstack, inBody r j pc = true → stop ≤ (getL r j).stop
       (i ∉ r.lstack → stop < codeBytes s r → nested → 1 ≤ n →
         exec (.loop k f) s = .next (putRun k { setL r i { count := n, index := 0, start := pc + 16, stop := stop } with
           lstack := i :: r.lstack, pc := BitVec.ofNat 64 (pc + 16), wait := .none } s)) ∧
       (i ∉ r.lstack → stop < codeBytes s r → nested → n = 0 →
         exec (.loop k f) s = .next (advanceFrom k stop (putRun k (setL r i { count := 0, index := 0, start := pc + 16, stop := stop }) s))) ∧
       (i ∈ r.lstack → exec (.loop k f) s = .next (jobFault r.ctx (some k) 0x3044 s)) ∧
       (i ∉ r.lstack → ¬ (stop < codeBytes s r ∧ nested) → exec (.loop k f) s = .next (jobFault r.ctx (some k) 0x3043 s))) ∧
     (∀ e p v, modBad f 0 = false → actEntry c.pkg (extF f 11 0) = some (e, p) → smFind st.np e = some v → v.verdict ≠ .rerun →
       exec (.bverd k f) s = .next (advance k s)) ∧
     (∀ e p v, modBad f 0 = false → actEntry c.pkg (extF f 11 0) = some (e, p) → smFind st.np e = some v → v.verdict = .rerun →
       exec (.bverd k f) s = exec (.j k f) s) ∧
     (∀ e p, modBad f 0 = false → actEntry c.pkg (extF f 11 0) = some (e, p) → smFind st.np e = none →
       exec (.bverd k f) s = .next (modRunOf k (fun x => { x with wait := .verdict (extF f 11 0) }) s)) ∧
     (modBad f 0 = false → f.ra.toNat < 4 →
       exec (.lidx k f) s = .next (advance k (putRun k (setS r f.rd (BitVec.ofNat 64 (getL r f.ra.toNat).index)) s))) ∧
     (modBad f 0 = false → exec (.endTask k f) s = .next (putRun k { r with ended := true, wait := .none } s))) ∧
  (∀ (s : State) (k : Nat) (r : Run) (c : Ctx) (st : Step), CoreRuns s k r c st →
     let pc := r.pc.toNat
     let ended (i : Nat) : LoopReg := { getL r i with count := 0, index := ((getL r i).index + 1) % 2 ^ 32 }
     let again (i : Nat) : LoopReg := { getL r i with count := (getL r i).count - 1, index := ((getL r i).index + 1) % 2 ^ 32 }
     ((∀ i ∈ r.lstack, (getL r i).stop ≠ pc) → pc + 16 < codeBytes s r →
       advance k s = putRun k { r with pc := r.pc + 16, wait := .none } s) ∧
     ((∀ i ∈ r.lstack, (getL r i).stop ≠ pc) → codeBytes s r ≤ pc + 16 →
       advance k s = jobFault r.ctx (some k) 0x3043 (putRun k { r with pc := r.pc + 16, wait := .none } s)) ∧
     (∀ i l, r.lstack = i :: l → (getL r i).stop = pc → 1 < (getL r i).count →
       advance k s = putRun k { setL r i (again i) with pc := BitVec.ofNat 64 (getL r i).start, wait := .none } s) ∧
     (∀ i l, r.lstack = i :: l → i ∉ l → (getL r i).stop = pc → (getL r i).count = 1 → (∀ j ∈ l, (getL r j).stop ≠ pc) → pc + 16 < codeBytes s r →
       advance k s = putRun k { setL r i (ended i) with lstack := l, pc := r.pc + 16, wait := .none } s) ∧
     (∀ i j l, r.lstack = i :: j :: l → i ∉ j :: l → (getL r i).stop = pc → (getL r i).count = 1 → (getL r j).stop = pc → 1 < (getL r j).count →
       advance k s = putRun k { setL (setL r i (ended i)) j (again j) with lstack := j :: l, pc := BitVec.ofNat 64 (getL r j).start, wait := .none } s))

/-- Reserved classes, level 1 and Rsvd fields fault at issue. RESERVED_CLASS_FETCH with class 12 to 15 raises the job fault RESERVED_CLASS of
the running step. At level 1 ACC48, CONV2D, EMBED8, SLOTWAIT and SEARCH raise INSTR_LEVEL. At level 2 or with the instruction's mark, ADD,
LD, J, TDINIT and FENCE with a Rsvd modifier set raise INSTR_INVALID, and so do LD, ST, TOS, COPY, TDLOAD and SSEND with an address
register index above 7. The aborting of the job is the shared job-fault operation. Formalises R9. -/
def Obligations.InstructionRefusedAtIssue : Prop :=
  ∀ (s : State) (k : Nat) (f : IFields) (r : Run) (c : Ctx) (st : Step), CoreRuns s k r c st →
    (∀ cls : BitVec 4, 12 ≤ cls.toNat → exec (.reservedClassFetch k cls) s = .next (jobFault r.ctx (some k) 0x3040 s)) ∧
    (s.chip.level1 = true →
      exec (.acc48 k f) s = .next (jobFault r.ctx (some k) 0x3041 s) ∧ exec (.conv2d k f) s = .next (jobFault r.ctx (some k) 0x3041 s) ∧
      exec (.embed8 k f) s = .next (jobFault r.ctx (some k) 0x3041 s) ∧ exec (.slotwait k f) s = .next (jobFault r.ctx (some k) 0x3041 s) ∧
      exec (.peerSearch k f) s = .next (jobFault r.ctx (some k) 0x3041 s)) ∧
    (modBad f 0 = true →
      exec (.add k f) s = .next (jobFault r.ctx (some k) 0x3042 s) ∧ exec (.ld k f) s = .next (jobFault r.ctx (some k) 0x3042 s) ∧
      exec (.j k f) s = .next (jobFault r.ctx (some k) 0x3042 s) ∧ exec (.tdinit k f) s = .next (jobFault r.ctx (some k) 0x3042 s) ∧
      exec (.fence k f) s = .next (jobFault r.ctx (some k) 0x3042 s)) ∧
    (8 ≤ f.ra.toNat →
      exec (.ld k f) s = .next (jobFault r.ctx (some k) 0x3042 s) ∧ exec (.st k f) s = .next (jobFault r.ctx (some k) 0x3042 s) ∧
      exec (.tos k f) s = .next (jobFault r.ctx (some k) 0x3042 s) ∧ exec (.copy k f) s = .next (jobFault r.ctx (some k) 0x3042 s) ∧
      exec (.tdload k f) s = .next (jobFault r.ctx (some k) 0x3042 s) ∧ exec (.ssend k f) s = .next (jobFault r.ctx (some k) 0x3042 s))

/-- A SCALAR instruction changes its destination register and the program counter, nothing else. Where a SCALAR instruction (NOP to MOVHI)
falls through to the next: the core's other scalar registers, its address, loop and tile registers, completion groups, latch, DMA queue,
matrix operation and accumulator memory are unchanged, PC is PC + 16, every other core is unchanged, and so is every other field of the
state. Rests on 06_core_programs.md. -/
def Obligations.ScalarFrame : Prop :=
  ∀ (s : State) (k : Nat) (f : IFields) (r : Run) (c : Ctx) (st : Step) (i : Instr), CoreRuns s k r c st → FallsThrough s r → modBad f 0 = false →
    i ∈ [.nop k f, .add k f, .sub k f, .mul k f, .andS k f, .orS k f, .xor k f, .shl k f, .shr k f, .sra k f, .minS k f, .maxS k f, .slt k f, .addi k f,
      .movi k f, .movhi k f] →
    ∃ t r2, exec i s = .next t ∧ (core t k).run = some r2 ∧ (∀ j, j ≠ f.rd → getS r2 j = getS r j) ∧ r2.a = r.a ∧ r2.l = r.l ∧ r2.t = r.t ∧ r2.g = r.g ∧
      r2.latch = r.latch ∧ r2.dma = r.dma ∧ r2.mat = r.mat ∧ r2.ended = r.ended ∧ r2.pc = r.pc + 16 ∧ (core t k).acc = (core s k).acc ∧
      (∀ j, j ≠ k → core t j = core s j) ∧ t = setCores t.cores s

/-- A write through a window leaves every word and burst outside its extent. Where an instruction's write of bytes d at window address a
resolves to pieces of storage l and succeeds, every byte of the scratchpad, of each core's local SRAM and of external memory that lies in
a word (8 bytes) or burst (64 bytes) no piece of l touches reads as before. Rests on 06_core_programs.md, 08_onchip_memory.md,
09_memory_tiers.md. -/
def Obligations.WindowWriteFrame : Prop :=
  ∀ (s : State) (k n a : Nat) (d : List Byte) (c : Ctx) (l : List Seg) (o : Owner) (u : State), ctx? s n = some c →
    resolve s k d.length c n a true = .segs l o → writeWin k n a d s = (none, u) →
    (∀ x, (∀ g ∈ l, ∀ off m, g = .spad off m → x / 8 < off / 8 ∨ (off + m - 1) / 8 < x / 8) → ocmByte u none x = ocmByte s none x) ∧
    (∀ j x, j < 48 → x < 0x400000 → (∀ g ∈ l, ∀ off m, g = .loc j off m → x / 8 < off / 8 ∨ (off + m - 1) / 8 < x / 8) → (∀ g ∈ l, ∀ i off m, g = .loc i off m → i < 48 ∧ off + m ≤ 0x400000) →
      ocmByte u (some j) x = ocmByte s (some j) x) ∧
    (∀ x, (∀ g ∈ l, ∀ off m, g = .xm off m → x / 64 < off / 64 ∨ (off + m - 1) / 64 < x / 64) → xmByte u x = xmByte s x)

/-- Admin commands that only answer leave the machine. Identify, Get Log Page, Get Features, Keep Alive, Asynchronous Event Request, Abort and
an invalid opcode on a queue that takes commands answer a next state with memories, contexts, cores, islands, Chart, registers, flash,
search, Compass, SFU, port, Strait, Sextant, management, power, chip state, time, error records and page headers unchanged. Rests on
12_host_queues.md. -/
def Obligations.CompletionFrame : Prop :=
  ∀ (s : State) (t : Tag) (q : Sqe) (d : List Byte) (i : Instr), QueueOpen s t →
    i ∈ [.identify t q d, .getLogPage t q d, .getFeatures t q d, .keepAlive t q d, .asynchronousEventRequest t q d, .abortCmd t q d, .invalidCommandOpcode t q d] →
    ∃ u, exec i s = .next u ∧ u.ocm = s.ocm ∧ u.xmc = s.xmc ∧ u.ctxs = s.ctxs ∧ u.cores = s.cores ∧ u.islands = s.islands ∧ u.chart = s.chart ∧ u.regs = s.regs ∧
      u.ftl = s.ftl ∧ u.sre = s.sre ∧ u.compass = s.compass ∧ u.sfu = s.sfu ∧ u.niu = s.niu ∧ u.strait = s.strait ∧ u.sext = s.sext ∧ u.msp = s.msp ∧
      u.pwr = s.pwr ∧ u.chip = s.chip ∧ u.time = s.time ∧ u.err = s.err ∧ u.hdr = s.hdr

/-- COPY, ACC48, ZERO and their completion. With the fields in range and the extents accessible, each adds its operation to the core's DMA
queue and counts it in its completion group; a 33rd waits. Completion of a one-row operation: ZERO writes zeros, COPY the source bytes
(extents apart), ACC48 the sum of the 48-bit elements modulo 2^48; the operation leaves the queue and its group counts down. Rests on
06_core_programs.md. -/
def Obligations.DmaResult : Prop :=
  (∀ (s : State) (k : Nat) (f : IFields) (r : Run) (c : Ctx) (st : Step) (op : Nat), CoreRuns s k r c st → modBad f 31 = false →
     1 ≤ f.imm.toNat → f.imm.toNat ≤ 2 ^ 24 → f.ra.toNat < 8 → f.rb.toNat < 8 →
     let d : Dma := { op := op, src := (getA r f.ra).toNat, dst := (getA r f.rb).toNat, rowBytes := f.imm.toNat, rows := extF f 15 0 + 1, sstr := extF f 39 16, dstr := extF f 63 40, cls := bits f.md.toNat 1 0, grp := bits f.md.toNat 4 2 }
     let started (s : State) : Res := .next (advance k (modRunOf k (fun x => setG { x with dma := x.dma ++ [d] } d.grp (getG x d.grp + 1)) s))
     CanWrite s k r d.dstExt →
     (r.dma.length < 32 →
       (op = 0 → CanRead s k r st d.srcExt → exec (.copy k f) s = started (askLayer r.ctx d.src s)) ∧
       (op = 1 → s.chip.level1 = false → f.imm.toNat % 6 = 0 → windowOf d.dst ≤ 1 → CanRead s k r st d.srcExt → CanRead s k r st d.dstExt →
         exec (.acc48 k f) s = started (askLayer r.ctx d.src s)) ∧
       (op = 2 → exec (.zero k f) s = started s)) ∧
     (32 ≤ r.dma.length → op = 2 → exec (.zero k f) s = .next (modRunOf k (fun x => { x with wait := .dmaFull }) s))) ∧
  (∀ (s : State) (k j : Nat) (r : Run) (d : Dma), k < 48 → (core s k).run = some r → r.dma[j]? = some d → d.rows = 1 →
     let s1 := (draw s).2
     let left (s : State) : Res := .next (modRunOf k (fun x => setG { x with dma := x.dma.eraseIdx j } d.grp (getG x d.grp - 1)) s)
     (d.op = 2 → ∀ u, writeWin k r.ctx d.dst (List.replicate d.rowBytes 0) s1 = (none, u) → exec (.dmaComplete k j) s = left u) ∧
     (d.op = 0 → d.srcExt.overlap d.dstExt = false → ∀ b t u, readServed (d.rowBytes / 8 + 2) k r.ctx d.src d.rowBytes s1 = (.data b, t) →
       writeWin k r.ctx d.dst b t = (none, u) → exec (.dmaComplete k j) s = left u) ∧
     (d.op = 1 → ∀ b t o t2 u, readServed (d.rowBytes / 8 + 2) k r.ctx d.src d.rowBytes s1 = (.data b, t) →
       readServed 1 k r.ctx d.dst d.rowBytes t = (.data o, t2) →
       writeWin k r.ctx d.dst ((List.range (d.rowBytes / 6)).flatMap fun i => leBytes 6 ((fld b (6 * i) 6 + fld o (6 * i) 6) % 2 ^ 48)) t2 = (none, u) →
       exec (.dmaComplete k j) s = left u))

/-- TDLOAD, TDSTORE and TDINIT. TDLOAD takes the 32 bytes at A[RA] where the version and the Rsvd bytes are good, otherwise TILE_INVALID with
the register unchanged. TDSTORE writes the 32 bytes of T[RA] at A[RD]. TDINIT builds the descriptor of tile S[RA] of the tensor table
entry: version, form, expected tag, DATA and SCALE addresses as R171 gives them; a tile number at or beyond the count raises COUNT_RANGE.
Rests on 06_core_programs.md. -/
def Obligations.TileDescriptorResult : Prop :=
  ∀ (s : State) (k : Nat) (f : IFields) (r : Run) (c : Ctx) (st : Step), CoreRuns s k r c st →
    (modBad f 0 = false → f.ra.toNat < 8 → tdBusy r f.rd.toNat = false →
      let a := (getA r f.ra).toNat
      CanRead s k r st (Ext.one a 32) → ∀ d u, instrRead s k r.ctx a 32 = (.data d, u) →
      let t : BitVec 256 := BitVec.ofNat 256 (leNat d)
      let valid := (tdVersion t = versionByte u ∨ tdVersion t = 0 ∧ tdForm t = 0) ∧ bits t.toNat 31 24 = 0 ∧ bits t.toNat 255 224 = 0
      (valid → exec (.tdload k f) s = .next (advance k (modRunOf k (fun x => setT x f.rd.toNat t) u))) ∧
      (¬ valid → exec (.tdload k f) s = .next (jobFault r.ctx (some k) 0x3049 u))) ∧
    (modBad f 0 = false → f.rd.toNat < 8 → tdBusy r f.ra.toNat = false →
      let a := (getA r f.rd).toNat
      CanWrite s k r (Ext.one a 32) → ∀ u, writeWin k r.ctx a (leBytes 32 (getT r f.ra.toNat).toNat) s = (none, u) →
      exec (.tdstore k f) s = .next (advance k u)) ∧
    (∀ t, modBad f 0 = false → tdBusy r f.rd.toNat = false → c.pkg.tensors[extF f 19 0]? = some t → t.format = 1 ∨ t.format = 2 →
      let e := extF f 19 0
      let n := (getS r f.ra).toNat
      let rb := (t.reduceLen + 1 + 127) / 128
      let j := n / rb
      let i := n % rb
      let len := if t.format = 1 then 8256 else 16448
      (n < rb * ((t.cols + 1 + 127) / 128) →
        exec (.tdinit k f) s = .next (advance k (putRun k (setT r f.rd.toNat (BitVec.ofNat 256 (versionByte s + t.format * 2 ^ 8 +
          (t.layer * 2 ^ 20 + n % 2 ^ 16 * 2 ^ 4 + t.gen) * 2 ^ 32 + (3 * 2 ^ 60 + e * 2 ^ 40 + n * len) % 2 ^ 64 * 2 ^ 64 +
          (4 * 2 ^ 60 + e * 2 ^ 40 + (j * (rb * 320 + 256) + if i = 0 then 0 else i * 320 + 256)) % 2 ^ 64 * 2 ^ 128))) s))) ∧
      (rb * ((t.cols + 1 + 127) / 128) ≤ n → exec (.tdinit k f) s = .next (jobFault r.ctx (some k) 0x3048 s)))

/-- A row of products is the exact sum, and INT16 activations split exactly. The products of a row of 128 activations with a 128 by 128 tile
are the exact integer sums, column by column. The two passes of an INT16 activation a within its bound are l and h with a = l + 256 h, l
in −128 to 127 and h in −127 to 127. Rests on 04_number_formats.md, 05_matrix_cores.md. -/
def Obligations.ExactSums : Prop :=
  (∀ (w : List (List Int)) (a : List Int), w.length = 128 → a.length = 128 → (∀ x ∈ w, x.length = 128) →
    rowTimes w a = (List.range 128).map fun c => ((List.range 128).map fun i => a.getD i 0 * (w.getD i []).getD c 0).sum) ∧
  (∀ (a : List Int), (∀ x ∈ a, actBad true x = false) → ∃ l h, actParts true a = [l, h] ∧ l.length = a.length ∧ h.length = a.length ∧
    ∀ i < a.length, a.getD i 0 = l.getD i 0 + 256 * h.getD i 0 ∧ -128 ≤ l.getD i 0 ∧ l.getD i 0 ≤ 127 ∧ -127 ≤ h.getD i 0 ∧ h.getD i 0 ≤ 127)

/-- MATRIX, CONV1D and CONV2D at issue. With the form known, the array free and the operands readable and in range, the instruction forms its
sums over the tiles from the rows read, holds them as the core's matrix operation (rows, destination, verdict point, layers in use,
descriptors in use), advances the descriptors and the column-scale latch, and goes on; memories and other cores are as the reads left
them. S[RC] = 0 rows completes MATRIX at once. Conv instructions take their parameters from the 32-byte block. Rests on
05_matrix_cores.md, 06_core_programs.md. -/
def Obligations.MatrixIssueResult : Prop :=
  ∀ (s : State) (k : Nat) (f : IFields) (r : Run) (c : Ctx) (st : Step) (act16 disc : Bool), CoreRuns s k r c st → matBad f = false →
    matForm c st f = some (act16, disc) → arrayBusy s k r = false →
    let cplx := decide (extF f 14 14 = 1)
    let tr := getT r f.ra.toNat
    let ti := getT r (f.ra.toNat + 1)
    let done (conv : Option ConvP) (rows tiles : Nat) (u : State) (o : Res) : Prop :=
      let e : ActEnv := { act16 := act16, cplx := cplx, rows := rows, tiles := tiles, conv := conv, data := [] }
      let n := (if cplx then 2 else 1) * (if act16 then 2 else 1) * rows
      MatReady u k r st f conv e (if cplx then [tdForm tr, tdForm ti] else [tdForm tr]) n →
      ∀ d u1 old u2 m u3, instrRead u k r.ctx (getA r f.rb).toNat (e.realBytes * if cplx then 2 else 1) = (.data d, u1) →
        matSource k r.ctx (extF f 16 15) (extF f 23 18) (getA r f.rd).toNat n u1 = (.ok old, u2) →
        matTiles k r.ctx { e with data := d } ((st.checked || forceChecked u2 k) && injectArmed u2 k) tiles 0
          { sums := [], tr := tr, ti := ti, latch := none, plane := (core u2 k).active } u2 = (.done m, u3) →
        let op : MatOp := { rows := matRows rows (if extF f 17 17 = 1 then (getA r f.rd).toNat else extF f 29 24) (extF f 17 17 == 0) old m.sums, np := extF f 43 32, checked := st.checked || forceChecked u2 k, layers := layerOf c (tdData tr) ++ (if cplx then layerOf c (tdData ti) else []), tds := f.ra.toNat :: (if cplx then [f.ra.toNat + 1] else []), latches := m.latch.isSome, disc := disc }
        ∃ u4, o = .next (advance k (modRunOf k (fun x =>
            let y := if cplx then setT (setT x f.ra.toNat m.tr) (f.ra.toNat + 1) m.ti else setT x f.ra.toNat m.tr
            { y with mat := some op, latch := m.latch.orElse fun _ => y.latch }) u4)) ∧
          u4.ocm = u3.ocm ∧ u4.xmc = u3.xmc ∧ ∀ j, (core u4 j).run = (core u3 j).run
    (∀ rows, (extF f 14 14 = 1 → s.chip.level1 = false) → rows = (getS r f.rc).toNat → 1 ≤ rows → rows ≤ 2 ^ 20 →
      done none rows (extF f 12 0 + 1) s (exec (.matrix k f) s)) ∧
    ((getS r f.rc).toNat = 0 → (extF f 14 14 = 1 → s.chip.level1 = false) → exec (.matrix k f) s = .next (advance k s)) ∧
    (∀ b u, extF f 12 0 = 0 → f.rc.toNat < 8 → windowOf (getA r f.rc).toNat = 0 → CanRead s k r st (Ext.one (getA r f.rc).toNat 32) →
      instrRead s k r.ctx (getA r f.rc).toNat 32 = (.data b, u) → zeroRange b 26 32 = true →
      let p := convParm b
      1 ≤ p.cb → 1 ≤ p.outX → 1 ≤ p.outY →
      (conv1Good p = true → done (some p) (p.outX * p.outY) (p.tapsX * p.tapsY * p.cb) u (exec (.conv1d k f) s)) ∧
      (conv2Good p = true → s.chip.level1 = false → done (some p) (p.outX * p.outY) (p.tapsX * p.tapsY * p.cb) u (exec (.conv2d k f) s)))

/-- MATRIX_COMPLETE writes the rows. Where the core is not gated, each row of the operation is written and the operation ends. A row to
accumulator memory sets its 128 elements and leaves every other element, every other core and both memories; a row to memory is a write of
768 bytes; a row of a pending point that is discarded changes only the step's record of discarded rows. Rests on 05_matrix_cores.md,
06_core_programs.md. -/
def Obligations.MatrixCompleteResult : Prop :=
  (∀ (s : State) (k : Nat) (r : Run) (m : MatOp), k < 48 → (core s k).run = some r → r.mat = some m → (core s k).gated = false → brakeLevel s = false →
    exec (.matrixComplete k) s = .next (settleHalves r.ctx (modRunOf k (fun x => { x with mat := none }) (m.rows.foldl (fun s w => writeRow k r.ctx m w s) s)))) ∧
  (∀ (s : State) (k n : Nat) (m : MatOp) (w : MatRow), m.disc = false → m.np = 0 → w.toAcc = true → w.vals.length = 128 → smWf 0 (core s k).acc = true →
    let t := writeRow k n m w s
    (∀ c < 128, smGet 0 (core t k).acc (w.at_ * 128 + c) = w.vals.getD c 0) ∧
    (∀ e, (e < w.at_ * 128 ∨ w.at_ * 128 + 128 ≤ e) → smGet 0 (core t k).acc e = smGet 0 (core s k).acc e) ∧
    (∀ j, j ≠ k → core t j = core s j) ∧ t.ocm = s.ocm ∧ t.xmc = s.xmc) ∧
  (∀ (s : State) (k n : Nat) (m : MatOp) (w : MatRow) (u : State), m.disc = false → m.np = 0 → w.toAcc = false →
    writeWin k n w.at_ (w.vals.flatMap (leBytes 6)) s = (none, u) → writeRow k n m w s = u) ∧
  (∀ (s : State) (k n : Nat) (m : MatOp) (w : MatRow) (c : Ctx) (st : Step), m.disc = true → ctx? s n = some c → c.step = some st →
    let t := writeRow k n m w s
    (∀ j, core t j = core s j) ∧ t.ocm = s.ocm ∧ t.xmc = s.xmc ∧
      ctx? t n = some { c with step := some { st with discarded := smSet st.discarded (rowKey k w.toAcc w.at_) m.np } })

/-- Every VECTOR instruction stores its table row's result. On a core whose brake is off, with 1 to 2^24 elements, types in their encodings,
operands aligned and accessible: ABS, NEG and CVT of X, and ADD, SUB, MUL, MAX, MIN and MAC of X with Y from memory or, with BCAST, the
immediate: each element is computed in FP32, rounded once (MAC: one product and one sum, each rounded) and stored in D's type, NaNs in
canonical form; elements are counted and the core goes on. MAX and MIN: where no operand is a NaN and not both are zeros (those results
are free, log entry 7). Formalises R175. -/
def Obligations.VectorResult : Prop :=
  ∀ (s : State) (k : Nat) (f : IFields) (r : Run) (c : Ctx) (st : Step) (n tx ty td x y d : Nat), CoreRuns s k r c st → brakeLevel s = false → modBad f 0 = false →
    n = (getS r f.rc).toNat → x = (getA r f.ra).toNat → y = (getA r f.rb).toNat → d = (getA r f.rd).toNat →
    tx = extF f 1 0 → ty = extF f 3 2 → td = extF f 5 4 → tx < 3 → ty < 3 → td < 3 → f.rd.toNat < 8 → f.ra.toNat < 8 →
    1 ≤ n → n ≤ 2 ^ 24 → x % elBytes tx = 0 → d % elBytes td = 0 → CanRead s k r st (Ext.one x (n * elBytes tx)) → CanWrite s k r (Ext.one d (n * elBytes td)) →
    ∀ bx s1, instrRead s k r.ctx x (n * elBytes tx) = (.data bx, s1) →
    let stored (v : Nat → Nat) (s2 : State) (o : Res) : Prop := ∀ u, writeWin k r.ctx d (unElems td ((List.range n).map fun i => canon (v i))) s2 = (none, u) →
      o = .next (advance k (cntAdd (0x40 + k) 0xA00 n u))
    let xs (i : Nat) : Nat := elAt tx bx i
    stored (fun i => fabs (xs i)) s1 (exec (.vectorAbs k f) s) ∧ stored (fun i => fneg (xs i)) s1 (exec (.vectorNeg k f) s) ∧
    stored (fun i => xs i) s1 (exec (.vectorCvt k f) s) ∧
    (∀ (ys : Nat → Nat) (s2 : State),
      (extF f 6 6 = 0 ∧ f.rb.toNat < 8 ∧ y % elBytes ty = 0 ∧ CanRead s k r st (Ext.one y (n * elBytes ty)) ∧
          ∃ b, instrRead s1 k r.ctx y (n * elBytes ty) = (.data b, s2) ∧ ∀ i < n, ys i = elAt ty b i) ∨
        (extF f 6 6 = 1 ∧ s2 = s1 ∧ ∀ i < n, ys i = f.imm.toNat) →
      stored (fun i => fadd (xs i) (ys i)) s2 (exec (.vectorAdd k f) s) ∧ stored (fun i => fsub (xs i) (ys i)) s2 (exec (.vectorSub k f) s) ∧
      stored (fun i => fmul (xs i) (ys i)) s2 (exec (.vectorMul k f) s) ∧
      ((∀ i < n, isNaN (xs i) = false ∧ isNaN (ys i) = false ∧ ¬ (xs i % 2 ^ 31 = 0 ∧ ys i % 2 ^ 31 = 0)) →
        stored (fun i => if flt (xs i) (ys i) then ys i else xs i) s2 (exec (.vectorMax k f) s) ∧
        stored (fun i => if flt (xs i) (ys i) then xs i else ys i) s2 (exec (.vectorMin k f) s)) ∧
      (∀ b s3, CanRead s k r st (Ext.one d (n * elBytes td)) → instrRead s2 k r.ctx d (n * elBytes td) = (.data b, s3) →
        stored (fun i => fadd (fmul (xs i) (ys i)) (elAt td b i)) s3 (exec (.vectorMac k f) s)))

/-- SPECIAL FN stores f(X + bias) × IMM32. On a core whose brake is off, with the fields in range: outside the compatibility mode each element
is the SFU's value of the function at X plus its bias element (0 without BIAS, otherwise element i mod ROWLEN), times IMM32, stored in D's
type; elements are counted and the core goes on. Rests on 06_core_programs.md, 07_vector_special.md. -/
def Obligations.SpecialFunctionResult : Prop :=
  ∀ (s : State) (k : Nat) (f : IFields) (r : Run) (c : Ctx) (st : Step) (fn n tx td x y d len : Nat), CoreRuns s k r c st → brakeLevel s = false → modBad f 0 = false →
    n = (getS r f.rc).toNat → x = (getA r f.ra).toNat → y = (getA r f.rb).toNat → d = (getA r f.rd).toNat →
    fn = extF f 4 0 → tx = extF f 7 6 → td = extF f 9 8 → len = extF f 29 10 → fn ≤ 11 → tx < 3 → td < 3 → f.rd.toNat < 8 → f.ra.toNat < 8 →
    (fn = 11 → betaGood (extF f 63 32) = true) → 1 ≤ n → n ≤ 2 ^ 24 → x % elBytes tx = 0 → d % elBytes td = 0 →
    CanRead s k r st (Ext.one x (n * elBytes tx)) → CanWrite s k r (Ext.one d (n * elBytes td)) →
    ∀ bx s1, instrRead s k r.ctx x (n * elBytes tx) = (.data bx, s1) →
    let stored (b : Nat → Nat) (s2 : State) : Prop := (stepSfu s2 st).compat = false →
      ∀ u, writeWin k r.ctx d (unElems td ((List.range n).map fun i => fmul (sfuEval (stepSfu s2 st) fn (extF f 63 32) (fadd (elAt tx bx i) (b i))) f.imm.toNat)) s2 = (none, u) →
        exec (.specialFn k f) s = .next (advance k (cntAdd (0x40 + k) 0xA08 n u))
    (extF f 5 5 = 0 → stored (fun _ => 0) s1) ∧
    (∀ bb s2, extF f 5 5 = 1 → f.rb.toNat < 8 → 1 ≤ len → y % 4 = 0 → CanRead s k r st (Ext.one y (4 * min n len)) → instrRead s1 k r.ctx y (4 * min n len) = (.data bb, s2) →
      stored (fun i => fld bb (4 * (i % len)) 4) s2)

/-- REDUCE instructions. On a core whose brake is off with the rows accessible: RMAX and RSUM give one FP32 per row (maximum, NaN where a row
holds one; the canonical tree sum), ARGMAX the index of the first maximum, SOFTMAX, SMSTAT, SMAPPLY, RMSNORM and LAYERNORM the row
operations of the chapter, for rows free of the values that the chapter leaves open. Rows are counted (with range reductions and
exponentials) and the core goes on. Rests on 06_core_programs.md, 07_vector_special.md. -/
def Obligations.ReduceResult : Prop :=
  ∀ (s : State) (k : Nat) (f : IFields) (r : Run) (c : Ctx) (st : Step) (rows n tx td x p d : Nat), CoreRuns s k r c st → brakeLevel s = false →
    rows = extF f 15 0 + 1 → n = (getS r f.rc).toNat → x = (getA r f.ra).toNat → p = (getA r f.rb).toNat → d = (getA r f.rd).toNat →
    tx = extF f 17 16 → td = extF f 19 18 → tx < 3 → td < 3 → f.ra.toNat < 8 →
    1 ≤ n → n ≤ 2 ^ 20 → x % elBytes tx = 0 → CanRead s k r st (Ext.one x (rows * n * elBytes tx)) →
    ∀ bx s1, instrRead s k r.ctx x (rows * n * elBytes tx) = (.data bx, s1) →
    let row (i : Nat) : List Nat := (List.range n).map fun j => elAt tx bx (i * n + j)
    let some_ (bad : Nat → Bool) : Prop := ∀ i < rows, ∀ v ∈ row i, bad v = false
    let nf (v : Nat) : Bool := isNaN v || isInf v false
    let nfs (v : Nat) : Bool := nf v || isInf v true
    let stored (a : Nat) (g : Nat → List Byte) (s2 : State) (o : Res) : Prop := ∃ e b, ∀ u,
      writeWin k r.ctx a ((List.range rows).flatMap g) (cntAdd (0x40 + k) 0xA10 rows (cntAdd (0x40 + k) 0xA08 e (cntAdd (0x40 + k) 0xA20 b s2))) = (none, u) →
        o = .next (advance k u)
    let dst (len al : Nat) : Prop := modBad f 0 = false ∧ f.rd.toNat < 8 ∧ d % al = 0 ∧ CanWrite s k r (Ext.one d (rows * len))
    let parm (len : Nat) (b : List Byte) (s2 : State) : Prop := f.rb.toNat < 8 ∧ p % 4 = 0 ∧ CanRead s k r st (Ext.one p len) ∧ instrRead s1 k r.ctx p len = (.data b, s2)
    (dst 4 4 →
      stored d (fun i => leBytes 4 (if (row i).any isNaN then fpNaN else (row i).foldl fmax fpNegInf)) s1 (exec (.rmax k f) s) ∧
      stored d (fun i => leBytes 4 (canon (tree (row i)))) s1 (exec (.rsum k f) s) ∧
      (some_ nf → stored d (fun i => leBytes 4 (argMax (row i))) s1 (exec (.argmax k f) s))) ∧
    (dst (n * elBytes td) (elBytes td) →
      (some_ nf → stored d (fun i => let t := smStat (stepSfu s1 st) (row i) fpNegInf 0; unElems td (smApply (stepSfu s1 st) t.m t.s (row i))) s1 (exec (.softmax k f) s)) ∧
      (∀ b s2, parm (8 * rows) b s2 → some_ nf →
        stored d (fun i => unElems td (smApply (stepSfu s2 st) (fld b (8 * i) 4) (fld b (8 * i + 4) 4) (row i))) s2 (exec (.smapply k f) s)) ∧
      (∀ b s2, parm (4 * n) b s2 → some_ nfs → epsGood f.imm.toNat = true →
        stored d (fun i => unElems td (rmsNorm (stepSfu s2 st) f.imm.toNat ((List.range n).map (elAt 0 b)) (row i))) s2 (exec (.rmsnorm k f) s)) ∧
      (∀ b s2, parm (8 * n) b s2 → some_ nfs → epsGood f.imm.toNat = true →
        stored d (fun i => unElems td (layerNorm (stepSfu s2 st) f.imm.toNat ((List.range n).map (elAt 0 b)) ((List.range n).map (elAt 0 (b.drop (4 * n)))) (row i))) s2
          (exec (.layernorm k f) s))) ∧
    (∀ b s2, modBad f 1 = false → parm (8 * rows) b s2 → CanWrite s k r (Ext.one p (8 * rows)) → some_ nf →
      stored p (fun i => let t := if f.md.toNat % 2 = 1 then smStat (stepSfu s2 st) (row i) fpNegInf 0 else smStat (stepSfu s2 st) (row i) (fld b (8 * i) 4) (fld b (8 * i + 4) 4)
        leBytes 4 t.m ++ leBytes 4 t.s) s2 (exec (.smstat k f) s))

/-- NARROW. First narrowing in warm-up: INT16 with A from the peak, verdict ACCEPT. First narrowing after warm-up: INT8 with A from the
history, verdict RERUN where more elements saturate than the threshold. Re-run: INT16 from the stored maximum, verdict ACCEPT. Each writes
the narrowed elements, records the point's state, counts elements, saturations and re-runs, and sets S[RB]. A second plain narrowing
raises SCALE_REUSE. Rests on 04_number_formats.md, 06_core_programs.md. -/
def Obligations.NarrowResult : Prop :=
  ∀ (s : State) (k : Nat) (f : IFields) (r : Run) (c : Ctx) (st : Step) (e : Nat) (t : Tensor) (n ty x d : Nat), CoreRuns s k r c st → brakeLevel s = false →
    actEntry c.pkg (extF f 11 0) = some (e, t) → n = (getS r f.rc).toNat → ty = extF f 13 12 → ty < 3 → x = (getA r f.ra).toNat → d = (getA r f.rd).toNat →
    f.ra.toNat < 8 → f.rd.toNat < 8 → modBad f 1 = false →
    let hist := smGet HistRec.zero c.hist t.histIdx
    let q (i16 : Bool) : Nat := if i16 then 32639 else 127
    let w (i16 : Bool) : Nat := if i16 then 2 else 1
    let ready (i16 : Bool) (b : List Byte) (s2 : State) : Prop := x % elBytes ty = 0 ∧ d % w i16 = 0 ∧ CanRead s k r st (Ext.one x (n * elBytes ty)) ∧
      CanWrite s k r (Ext.one d (n * w i16)) ∧ (∃ s1, instrRead s k r.ctx x (n * elBytes ty) = (.data b, s1) ∧ histCheck c t.histIdx s1 = (true, s2)) ∧
      ∀ i < n, isFin (elAt ty b i) = true
    let narrowed (b : List Byte) (a : Nat) (i16 : Bool) : List (Int × Bool) := (List.range n).map fun i => narrowEl (q i16) (fdiv (fofInt (q i16)) a) (elAt ty b i)
    let done (i16 : Bool) (a : Nat) (b : List Byte) (m : Nat) (sat0 : Nat → Nat) (rerun : Bool) (v : Nat → Verdict) (s2 : State) : Prop :=
      let sat := ((narrowed b a i16).filter Prod.snd).length
      ∀ u, writeWin k r.ctx d ((narrowed b a i16).flatMap fun p => leBytes (w i16) (toBits (8 * w i16) p.1)) s2 = (none, u) →
        let np : NpSt := { int16 := i16, a := a, s := fdiv a (fofInt (q i16)), m := m, sat := sat0 sat, rerun := rerun, verdict := v sat }
        let u := modCtx r.ctx (fun c => { c with step := c.step.map fun st => { st with np := smSet st.np e np } }) u
        let u := cntAdd (0x40 + k) 0xA00 n (cntAdd (0x40 + k) 0xA28 n (cntAdd (0x40 + k) 0xA30 sat u))
        exec (.narrow k f) s = .next (advance k (modRunOf k (fun x => setS x f.rb (if i16 then 1 else 0)) (if rerun then cntAdd (0x40 + k) 0xA38 1 u else u)))
    let peak (b : List Byte) : Nat := ((List.range n).map (elAt ty b)).foldl fmaxAbs 0
    (f.md.toNat % 2 = 0 → smFind st.np e = none → hist.count < t.warm → ∀ b s2, ready true b s2 →
      done true (scaleA (peak b) t.headroom) b (peak b) id false (fun _ => .accept) s2) ∧
    (f.md.toNat % 2 = 0 → smFind st.np e = none → t.warm ≤ hist.count → ∀ b s2, ready false b s2 →
      done false (scaleA (histMax hist t.depth) t.headroom) b (peak b) id false (fun sat => if t.satThr < sat then .rerun else .accept) s2) ∧
    (∀ p, f.md.toNat % 2 = 1 → smFind st.np e = some p → p.verdict = .rerun → ∀ b s2, ready true b s2 →
      done true (scaleA p.m t.headroom) b p.m (fun _ => p.sat) true (fun _ => .accept) s2) ∧
    (f.md.toNat % 2 = 0 → smFind st.np e ≠ none → exec (.narrow k f) s = .next (jobFault r.ctx (some k) 0x304B s))

/-- DEQ stores rne32(rne32(R) × rne32(s × c)). On a core whose brake is off, with s the immediate or the point's accepted scale, W = 256 × H +
L for the wide form, column scales all 1.0 or the latch's with the tag that LAYER_GEN names: from partial-sum rows or from accumulator
rows, each element is rne32(rne32(sum) × rne32(s × c_j)), stored in D's type. A column scale that is NaN or infinite raises SCALE_INVALID.
Formalises R104. -/
def Obligations.DequantiseResult : Prop :=
  ∀ (s : State) (k : Nat) (f : IFields) (r : Run) (c : Ctx) (st : Step) (n td d row : Nat) (sc : Nat) (wide : Bool) (cs : Nat → Nat), CoreRuns s k r c st → brakeLevel s = false →
    n = (getS r f.rc).toNat → td = extF f 19 18 → td < 3 → d = (getA r f.rd).toNat → row = extF f 5 0 → f.rd.toNat < 8 → modBad f 1 = false → extF f 47 22 = 0 →
    (extF f 17 6 = 0 ∧ sc = f.imm.toNat ∧ wide = decide (extF f 20 20 = 1) ∨
      (∃ e t p, extF f 20 20 = 0 ∧ actEntry c.pkg (extF f 17 6) = some (e, t) ∧ extF f 17 6 ≠ 0 ∧ smFind st.np e = some p ∧ p.verdict = .accept ∧ sc = p.s ∧ wide = p.int16)) →
    (extF f 21 21 = 0 ∧ (∀ j, cs j = 0x3F80) ∨
      (∃ tag l, extF f 21 21 = 1 ∧ r.latch = some (tag, l) ∧ tag = extF f 63 52 * 2 ^ 20 + bits tag 19 4 * 2 ^ 4 + extF f 51 48 ∧ l.length = 128 ∧ (∀ j, cs j = l.getD j 0) ∧ r.mat = none)) →
    1 ≤ n → d % elBytes td = 0 → CanWrite s k r (Ext.one d (n * 128 * elBytes td)) →
    let rows := n * if wide then 2 else 1
    let stored (sum : Nat → Nat → Int) (s2 : State) : Prop := (∀ j < 128, isFin (bfTo32 (cs j)) = true) → ∀ u,
      writeWin k r.ctx d (unElems td ((List.range n).flatMap fun v => (List.range 128).map fun j => canon (fmul (fofInt (sum v j)) (fmul sc (bfTo32 (cs j)))))) s2 = (none, u) →
        exec (.deq k f) s = .next (advance k (cntAdd (0x40 + k) 0xA00 (n * 128) u))
    let invalid : Prop := ∀ j < 128, isFin (bfTo32 (cs j)) = false → (∀ i < j, isFin (bfTo32 (cs i)) = true) →
      exec (.deq k f) s = .next (jobFault r.ctx (some k) 0x4011 (modCore k (fun c => { c with vsuFault := 0x4011, vsuIndex := j % 2 ^ 32 }) s))
    (∀ b s2, f.md.toNat % 2 = 1 → f.ra.toNat < 8 → n ≤ 2 ^ 20 → (getA r f.ra).toNat % 64 = 0 → windowOf (getA r f.ra).toNat = 0 →
      CanRead s k r st (Ext.one (getA r f.ra).toNat (rows * 768)) → invalid ∧
      (instrRead s k r.ctx (getA r f.ra).toNat (rows * 768) = (.data b, s2) →
      let at_ (v j : Nat) : Int := signed 48 (fld b (768 * v + 6 * j) 6)
      stored (fun v j => if wide then 256 * at_ (n + v) j + at_ v j else at_ v j) s2)) ∧
    (∀ l s2, f.md.toNat % 2 = 0 → row + rows ≤ 64 → accDiscarded st k row rows = false → accPending r row rows = false → invalid ∧
      (accReads k (row * 128) (rows * 128) s = (some l, s2) →
      let at_ (v j : Nat) : Int := signed 48 (l.getD (v * 128 + j) 0)
      stored (fun v j => if wide then 256 * at_ (n + v) j + at_ v j else at_ v j) s2))

/-- EMBED8, KVSTORE and SAMPLE. EMBED8 stores each vector in E8 form. KVSTORE stages the rows of keys and values of the step's positions with
their scales and counts saturations. SAMPLE appends one token per emitting sequence to the step's tokens. Each then goes on. Rests on
04_number_formats.md, 06_core_programs.md, 07_vector_special.md. -/
def Obligations.EmbedCacheSampleResult : Prop :=
  ∀ (s : State) (k : Nat) (f : IFields) (r : Run) (c : Ctx) (st : Step) (n : Nat), CoreRuns s k r c st → brakeLevel s = false → modBad f 0 = false → f.ra.toNat < 8 →
    n = (getS r f.rc).toNat →
    (∀ cnt ty x y b s2 u, s.chip.level1 = false → cnt = extF f 15 0 + 1 → ty = extF f 17 16 → ty < 3 → f.rd.toNat < 8 → x = (getA r f.ra).toNat → y = (getA r f.rd).toNat →
      1 ≤ n → n ≤ 4096 → x % elBytes ty = 0 → CanRead s k r st (Ext.one x (cnt * n * elBytes ty)) → CanWrite s k r (Ext.one y (cnt * vecBytes false n)) →
      instrRead s k r.ctx x (cnt * n * elBytes ty) = (.data b, s2) →
      writeWin k r.ctx y ((List.range cnt).flatMap fun i => toE8 ((List.range n).map fun j => elAt ty b (i * n + j))) s2 = (none, u) →
      exec (.embed8 k f) s = .next (advance k u)) ∧
    (∀ ty layer x rl b s2 m sat u, ty = extF f 13 12 → ty < 3 → layer = extF f 11 0 → x = (getA r f.ra).toNat → rl = 2 * c.pkg.kvHeads * c.pkg.headDim →
      c.pkg.kvHeads ≠ 0 → layer < c.pkg.layers → n = (kvRows st.batch).length → x % elBytes ty = 0 → CanRead s k r st (Ext.one x (n * rl * elBytes ty)) →
      (∀ w ∈ kvRows st.batch, writeWaits s k r (Ext.one (kvAddr c layer w) rl) = false ∧ (kvPlace c layer w).isSome = true) →
      instrRead s k r.ctx x (n * rl * elBytes ty) = (.data b, s2) →
      let hb := ((c.pkg.tensors.find? fun t => t.format = 6).map fun t => (t.histIdx, t.headroom)).getD (0, 0)
      let xs := (List.range (n * rl)).map (elAt ty b)
      let scales := kvScales c st layer hb.2 xs (kvRows st.batch)
      kvWrite c layer scales xs (kvRows st.batch) st.kvw 0 s2 = .ok (m, sat, u) → kvRows st.batch ≠ [] →
      exec (.kvstore k f) s = .next (advance k (cntAdd (0x40 + k) 0xA00 (n * rl) (cntAdd (0x40 + k) 0xA30 sat (modCtx r.ctx (fun c => { c with step := c.step.map fun st => { st with
        kvw := m, kvScale := scales.foldl (fun l e => smSet l e.1 e.2) st.kvScale, kvSat := smSet st.kvSat hb.1 (smGet 0 st.kvSat hb.1 + sat) } }) u))))) ∧
    (∀ mode kk p x b s2 toks e ri, mode = extF f 1 0 → kk = extF f 10 2 → p = extF f 63 32 → sampleBad mode kk f.imm.toNat p = false → x = (getA r f.ra).toNat →
      1 ≤ n → n ≤ 2 ^ 20 → x % 4 = 0 →
      let rows := (st.batch.filter (·.emits)).zipIdx
      CanRead s k r st (Ext.one x (rows.length * n * 4)) → instrRead s k r.ctx x (rows.length * n * 4) = (.data b, s2) →
      sampleRows (stepSfu s2 st) c r.ctx mode kk f.imm.toNat p n rows ((List.range (rows.length * n)).map (elAt 0 b)) [] 0 0 = .ok (toks, e, ri) →
      exec (.sample k f) s = .next (advance k (cntAdd (0x40 + k) 0xA18 toks.length (cntAdd (0x40 + k) 0xA08 e (cntAdd (0x40 + k) 0xA20 ri
        (modCtx r.ctx (fun c => { c with step := c.step.map fun st => { st with tokens := st.tokens ++ toks, sampled := true } }) s2))))))

/-- FENCE, SIGNAL, WAITEV and SLOTWAIT. FENCE goes on where every named completion group is empty, no matrix operation is in progress (EXT[8])
and no PEER operation is outstanding (EXT[10]), and otherwise waits; vector-unit instructions are complete when they issue. SIGNAL with
nothing outstanding adds IMM32 to the event modulo 2^32, and otherwise waits. WAITEV goes on where the event less S[RA][31:0], as a signed
32-bit value, is at least 0, and otherwise waits. SLOTWAIT goes on where replica time has reached its target, and otherwise waits.
Formalises R181. -/
def Obligations.SyncResult : Prop :=
  ∀ (s : State) (k : Nat) (f : IFields) (r : Run) (c : Ctx) (st : Step), CoreRuns s k r c st →
    (modBad f 0 = false →
      let done := (∀ i < 8, bit (extF f 10 0) i = true → getG r i = 0) ∧ (bit (extF f 10 0) 8 = true → r.mat = none) ∧ (bit (extF f 10 0) 10 = true → r.g.toList.sum ≤ r.dma.length)
      (done → exec (.fence k f) s = .next (advance k s)) ∧ (¬ done → exec (.fence k f) s = .next (modRunOf k (fun x => { x with wait := .fence }) s))) ∧
    (modBad f 0 = false →
      let e := extF f 3 0
      let quiet := r.dma = [] ∧ r.mat = none ∧ ∀ i ∈ r.g.toList, i = 0
      (quiet → exec (.signal k f) s = .next (advance k (putCtx r.ctx { c with step := some { st with ev := st.ev.set e ((st.ev.getD e 0 + f.imm.toNat) % 2 ^ 32) } } s))) ∧
      (¬ quiet → exec (.signal k f) s = .next (modRunOf k (fun x => { x with wait := .fence }) s))) ∧
    (modBad f 0 = false →
      let e := extF f 3 0
      let t := (getS r f.ra).toNat % 2 ^ 32
      ((st.ev.getD e 0 + 2 ^ 32 - t) % 2 ^ 32 < 2 ^ 31 → exec (.waitev k f) s = .next (advance k s)) ∧
      (2 ^ 31 ≤ (st.ev.getD e 0 + 2 ^ 32 - t) % 2 ^ 32 → exec (.waitev k f) s = .next (modRunOf k (fun x => { x with wait := .waitev e t }) s))) ∧
    (modBad f 1 = false → s.chip.level1 = false →
      let t := (getS r f.ra).toNat + if f.md.toNat % 2 = 1 then 0 else st.slotStart
      (t ≤ s.time.replica → exec (.slotwait k f) s = .next (advance k s)) ∧
      (s.time.replica < t → exec (.slotwait k f) s = .next (modRunOf k (fun x => { x with wait := .slotwait t }) s)))

/-- SSEND, SRECV, SEARCH and the receive deadline. SSEND sends the bytes to the member and counts its group. SRECV with no matching message
held opens the receive with its deadline. SEARCH submits the block, or writes a refused result. With no group, SSEND and SRECV raise
PEER_GROUP. At the deadline S[RB] takes the encoding of TIMEOUT and the receive ends. Rests on 06_core_programs.md, 13_network_time.md. -/
def Obligations.PeerResult : Prop :=
  (∀ (s : State) (k : Nat) (f : IFields) (r : Run) (c : Ctx) (st : Step), CoreRuns s k r c st → modBad f 0 = false →
     let n := (getS r f.rc).toNat
     let a := (getA r f.ra).toNat
     let d := (getA r f.rd).toNat
     let member (m sl : Nat) : Prop := st.group ≠ 0 ∧ slotOfGroup s st.group = some sl ∧ memberInStep s sl m = true
     let g := extF f 18 16
     (∀ sl b u, f.ra.toNat < 8 → member (extF f 15 0) sl → 1 ≤ n → n ≤ 8192 → CanRead s k r st (Ext.one a n) → instrRead s k r.ctx a n = (.data b, u) →
       exec (.ssend k f) s = .next (advance k (sendMsg sl (extF f 15 0) 1 f.imm.toNat b (some (k, r.ctx, g)) (modRunOf k (fun x => setG x g (getG x g + 1)) u)))) ∧
     (∀ sl, f.rd.toNat < 8 → member (extF f 47 32) sl → CanWrite s k r (Ext.one d n) →
       (∀ h ∈ s.strait.held, ¬ (h.grp = st.group ∧ h.mem = extF f 47 32 ∧ h.tag = f.imm.toNat)) →
       exec (.srecv k f) s = .next (modRunOf k (fun x => { x with wait := .recv, recv := some { grp := st.group, mem := extF f 47 32, tag := f.imm.toNat, dst := d, cap := n, rb := f.rb.toNat, deadline := s.time.replica + extF f 31 0, issued := s.time.replica, arrived := false } }) s)) ∧
     (∀ b u rest v, f.ra.toNat < 8 → f.rd.toNat < 8 → s.chip.level1 = false → CanRead s k r st (Ext.one a 64) → CanWrite s k r (Ext.one d n) → instrRead s k r.ctx a 64 = (.data b, u) →
       let more := min (fld b 32 4) 16384 + min (fld b 20 4) 4096
       CanRead u k r st (Ext.one (a + 64) more) → instrRead u k r.ctx (a + 64) more = (.data rest, v) →
       (∀ w, querySubmitCheck (b ++ rest) n v = (none, w) →
         exec (.peerSearch k f) s = .next (acceptQuery (b ++ rest) (.core k r.ctx c.stepNo d n g) (advance k (modRunOf k (fun x => setG x g (getG x g + 1)) w)))) ∧
       (∀ code w u2, querySubmitCheck (b ++ rest) n v = (some code, w) → writeWin k r.ctx d (refusedResult (b ++ rest) code n) w = (none, u2) →
         exec (.peerSearch k f) s = .next (advance k u2))) ∧
     (st.group = 0 → f.ra.toNat < 8 → exec (.ssend k f) s = .next (jobFault r.ctx (some k) 0x304E s)) ∧
     (st.group = 0 → f.rd.toNat < 8 → exec (.srecv k f) s = .next (jobFault r.ctx (some k) 0x304E s))) ∧
  (∀ (s : State) (k : Nat) (r : Run) (x : Recv), k < 48 → (core s k).run = some r → r.recv = some x → x.arrived = false →
     (x.deadline ≤ s.time.replica → exec (.srecvTimeout k) s = .next (startDue (checkFetch k (putRun k (recvDone 0x1201 r) s)))) ∧
     (getS (recvDone 0x1201 r) (BitVec.ofNat 4 x.rb) = 0x1201 ∧ (recvDone 0x1201 r).recv = none))

/-- ENABLE, SWAP and RESTART. ENABLE set starts cycles from now and lets a waiting swap take effect; cleared, the Chart is disabled and queued
queries may start. SWAP to a written bank with good slots waits for a cycle where the Chart runs and takes effect at once otherwise; a
second request, or none to swap to, is an advisory. RESTART makes a FAULTED context READY except for TENSOR_LOST. Rests on
03_serving_chart.md. -/
def Obligations.ChartControlResult : Prop :=
  (∀ (s : State) (p : Path), Reaches s p 0x30 0x100 → lifecycle s = .operational →
    (s.chart.enable = false → s.chart.swap = none →
      exec (.chartEnable p true) s = .next (modChart (fun c => { c with enable := true, cycling := false, haveCycle := false, fromT := s.time.replica }) s)) ∧
    (∀ w, s.chart.enable = false → s.chart.swap = some w →
      exec (.chartEnable p true) s = .next (swapNow w.bankB w.tag s.time.replica (modChart (fun c => { c with enable := true, cycling := false, haveCycle := false, fromT := s.time.replica }) s))) ∧
    exec (.chartEnable p false) s = .next (pumpQueries (modChart (fun c => { c with enable := false }) s))) ∧
  (∀ (s : State) (p : Path) (b : Bool), Reaches s p 0x30 0x100 → s.chart.swap = none → swapTarget s = some b →
    (∀ x ∈ (bankOf s b).slots, slotCtxBad s x = false ∧ slotKindBad s x = false) →
    (s.chart.active.isSome = true → s.chart.enable = true → exec (.chartSwapRequest p) s = .next (modChart (fun c => { c with swap := some { bankB := b, tag := none, at_ := s.time.replica } }) s)) ∧
    (s.chart.active = none ∨ s.chart.enable = false → exec (.chartSwapRequest p) s = .next (swapNow b none s.time.replica s))) ∧
  (∀ (s : State) (p : Path), Reaches s p 0x30 0x100 → s.chart.swap.isSome = true → exec (.chartSwapRequest p) s = .next (advisory 0x30 5 0x3012 0 0 s)) ∧
  (∀ (s : State) (p : Path), Reaches s p 0x30 0x100 → s.chart.swap = none → swapTarget s = none → exec (.chartSwapRequest p) s = .next (advisory 0x30 5 0x3018 0 0 s)) ∧
  (∀ (s : State) (p : Path) (c : Ctx), Reaches s p 0x30 0x148 → ctx? s (regFld s 0x30 0x140 9 0) = some c → 
    (c.st = .faulted → c.fault ≠ 0xA005 → exec (.contextRestart p) s = .next (putCtx (regFld s 0x30 0x140 9 0) { c with st := .ready } s)) ∧
    (c.st = .faulted → c.fault = 0xA005 → ∃ t, exec (.contextRestart p) s = .next t ∧ ctx? t (regFld s 0x30 0x140 9 0) = some c))

/-- Cycle starts, slot starts and slot ends. The next cycle start lies at the phase modulo the period, at or after the earliest time; a cycle
start lists one run per slot that is not empty, at its start and end. A slot start past its end is a SLOT_SKIPPED advisory and count; with
its island busy it is due; otherwise it begins: a READY context starts a step, a PREEMPTED one resumes, one that is loading, faulted or
unloading only counts. A slot end: not begun counts as skipped; ended is removed; running overruns: recorded, counted, and preempted where
the slot says so. Rests on 01_architecture.md, 03_serving_chart.md. -/
def Obligations.ChartTimeResult : Prop :=
  (∀ (s : State) (b : Bool), s.chart.active = some b → s.chart.enable = true → s.chart.swap = none → s.qcu.ps.inForce ≠ 4 → chartPs s ≠ 4 → 0 < (bankOf s b).period →
    ∃ t, nextCycle s = some t ∧ t % ((bankOf s b).period * 1000) = (bankOf s b).phase % ((bankOf s b).period * 1000) ∧ s.chart.fromT ≤ t ∧
      exec .cycleStart s = .next (startCycle t (advanceTo t s))) ∧
  (∀ (s : State) (t : Nat) (b : Bool), s.chart.active = some b → (∀ r ∈ s.chart.runs, r.phase = .running ∨ r.phase = .ended) →
    let u := startCycle t s
    u.chart.cycleT = t ∧ u.chart.runs = s.chart.runs ++ ((bankOf s b).slots.zipIdx.filter fun e => e.1.kind != 0).map fun e =>
      ({ bankB := b, idx := e.2, startT := t + e.1.start * 1000, endT := t + (e.1.start + e.1.dur) * 1000, slot := e.1, phase := .waiting } : SlotRun)) ∧
  (∀ (s : State) (b : Bool) (i : Nat) (r : SlotRun), s.chart.runs.find? (fun r => r.bankB == b && r.idx == i && r.phase == .waiting) = some r →
    let u := advanceTo r.startT s
    (r.endT ≤ u.time.replica → exec (.slotStart b i) s = .next (advisory 0x30 1 0x301A 0 0 (cntAdd 0x30 0x820 1 (delRun r.bankB r.idx r.startT u)))) ∧
    (u.time.replica < r.endT → r.slot.isStep = true → islandFree u r = false → exec (.slotStart b i) s = .next (modRun r.bankB r.idx r.startT (fun x => { x with phase := .due }) u)) ∧
    (u.time.replica < r.endT → (r.slot.isStep = true → islandFree u r = true) → exec (.slotStart b i) s = .next (beginSlot r u))) ∧
  (∀ (s : State) (r : SlotRun) (c : Ctx), r.slot.isStep = true → chartPs s < 3 → ctx? s r.slot.ctx = some c → prefetchLate c = false → c.island = r.slot.island →
    let u := modRun r.bankB r.idx r.startT (fun x => { x with phase := .running }) (modChart (fun c => { c with lastSlot := r.idx }) s)
    (c.st = .ready → beginSlot r s = startStep r.slot.ctx r u) ∧
    (c.st = .preempted → ∀ st, c.step = some st → beginSlot r s = resume r.slot.ctx (putCtx r.slot.ctx { c with step := some { st with slotStart := r.startT, slotClass := r.slot.cls, group := r.slot.group } } u)) ∧
    (c.st = .loading ∨ c.st = .faulted ∨ c.st = .unloading → beginSlot r s = cntAdd 0x30 0x830 1 u)) ∧
  (∀ (s : State) (b : Bool) (i : Nat) (r : SlotRun), s.chart.runs.find? (fun r => r.bankB == b && r.idx == i) = some r →
    let u := advanceTo r.endT s
    let v := delRun r.bankB r.idx r.startT u
    (r.phase = .waiting ∨ r.phase = .due → exec (.slotEnd b i) s = .next (advisory 0x30 1 0x301A 0 0 (cntAdd 0x30 0x820 1 v))) ∧
    (r.phase = .ended → exec (.slotEnd b i) s = .next v) ∧
    (r.phase = .running → r.slot.isStep = false → exec (.slotEnd b i) s = .next (startDue v)) ∧
    (∀ c, r.phase = .running → r.slot.isStep = true → ctx? v r.slot.ctx = some c → c.step.isSome = true → c.save = [] → c.island = r.slot.island →
      let w := advisory 0x30 0 0x3019 0 0 (ctxCnt r.slot.ctx 0x30 0x908 1 (cntAdd 0x30 0x818 1 v))
      exec (.slotEnd b i) s = .next (startDue (if r.slot.preempt then settleUnload r.slot.ctx (preempt r.slot.ctx 1 w) else w))))

/-- Task completion, job faults, deadlock, replica correction and prefetch. A finished task with nothing outstanding is done, and the last one
completes the step. JOB_FAULT raises the fault of the step. REPLICA_CORRECTION sets the replica to master time unless PS4. SYNC_DEADLOCK
where every task that holds a core waits in WAITEV for an event that has not come with nothing outstanding raises the job fault
SYNC_DEADLOCK, and otherwise has no effect. A reserved class raises RESERVED_CLASS. LOOKAHEAD_PREFETCH moves time to the lookahead before
the slot and starts the context's prefetch. Formalises R188. -/
def Obligations.StepEventResult : Prop :=
  (∀ (s : State) (n task k : Nat) (c : Ctx) (st : Step) (r : Run), ctx? s n = some c → c.step = some st → st.tasks[task]? = some (.running k) → (core s k).run = some r →
    r.ctx = n → r.task = task → r.ended = true → r.dma = [] → r.mat = none → r.recv = none → (∀ g ∈ r.g.toList, g = 0) →
    let u := putCtx n { c with step := some { st with tasks := st.tasks.set task .done } } (modCore k (fun x => { x with run := none }) s)
    ((∀ t ∈ st.tasks.set task .done, t = .done) → exec (.taskComplete n task) s = .next (completeStep n u)) ∧
    ((∃ t ∈ st.tasks.set task .done, t ≠ .done) → exec (.taskComplete n task) s = .next (issueTasks n 48 u))) ∧
  (∀ (s : State) (n k : Nat) (code : Code), (∀ r, (core s k).run = some r → r.ctx ≠ n) → exec (.jobFault n k code) s = .next (jobFault n none code s)) ∧
  (∀ (s : State) (n k : Nat) (r : Run) (code : Code), (core s k).run = some r → r.ctx = n → code ≠ 0x4001 → code ≠ 0x4002 → exec (.jobFault n k code) s = .next (jobFault n (some k) code s)) ∧
  (∀ (s : State), chartPs s ≠ 4 → s.time.master ≤ s.time.replica → exec .replicaCorrection s = .next (setTime { s.time with replica := s.time.master } s)) ∧
  (∀ (s : State), chartPs s = 4 → exec .replicaCorrection s = .next s) ∧
  (∀ (s : State) (n : Nat) (c : Ctx) (st : Step), ctx? s n = some c → c.step = some st →
    let waits (r : Run) : Prop := r.dma = [] ∧ r.recv = none ∧ (∀ g ∈ r.g.toList, g = 0) ∧ ∃ e v, r.wait = .waitev e v ∧ (BitVec.ofNat 32 (st.ev.getD e 0) - BitVec.ofNat 32 v).toInt < 0
    ((∃ e ∈ s.cores, ∃ r, e.2.run = some r ∧ r.ctx = n) → (∀ e ∈ s.cores, ∀ r, e.2.run = some r → r.ctx = n → waits r) →
      exec (.syncDeadlock n) s = .next (jobFault n none 0x3050 s)) ∧
    ((∃ e ∈ s.cores, ∃ r, e.2.run = some r ∧ r.ctx = n ∧ ¬ waits r) → exec (.syncDeadlock n) s = .next s)) ∧
  (∀ (s : State) (k : Nat) (cls : BitVec 4) (r : Run) (c : Ctx) (st : Step), 12 ≤ cls.toNat → CoreRuns s k r c st → exec (.reservedClassFetch k cls) s = .next (jobFault r.ctx (some k) 0x3040 s)) ∧
  (∀ (s : State) (b : Bool) (i t : Nat) (x : Slot) (c : Ctx), slotNext s b i = some t → (bankOf s b).slots[i]? = some x → x.isStep = true → chartPs s ≠ 4 →
    let u := advanceTo (t - regFld s 0xA0 0x100 13 0 * 1000) s
    ctx? u x.ctx = some c → c.island = x.island → exec (.lookaheadPrefetch b i) s = .next (prefetch x.ctx u))

/-- Load, Unload, Bind Island, Sequence Join and Leave. Load Context with a good package that fits allocates its share and makes it LOADING.
Unload of a context at rest unloads it at once, one in a step waits, an unknown one is refused. Bind Island with no refusal sets the
island's mask and joins the new cores; a core of another island is refused. Join adds a pending sequence in the limits, or is refused;
Leave frees a sequence at rest or marks one in a step, or is refused. Rests on 03_serving_chart.md, 12_host_queues.md. -/
def Obligations.ContextCommandResult : Prop :=
  (∀ (s : State) (t : Tag) (q : Sqe) (d : List Byte), BcsOpen s t q → q.sgl = 0 →
     (∀ (n : Ns) (b : List Byte) (v : State) (p : Pkg) (l : Layout),
       q.cdw13 = 0 → q.cdw12.toNat / 1024 < 48 → q.cdw12.toNat < 65536 → q.cdw14.toNat ≤ 65536 → 8 ≤ q.cdw15.toNat → q.cdw15.toNat < 65536 →
       let u := noteCmd t 0x80 q s
       let slba := q.cdw10.toNat + 2 ^ 32 * q.cdw11.toNat
       let work := q.cdw2.toNat + 2 ^ 32 * q.cdw3.toNat
       let ctx := q.cdw12.toNat % 1024
       let island := q.cdw12.toNat / 1024
       s.ocm.diag = false → ns? u q.nsid.toNat = some n → slba < n.units * 4 → readPkg n slba (versionByte u) u = (.bytes b, v) →
       checkPkg (versionByte v) q.nsid.toNat slba work b = .good p l → q.cdw15.toNat ≤ p.scratchKib → admitCtx v ctx island p l = none →
       exec (.loadContext t q d) s = .next (loadCtx t ctx island work q.cdw14.toNat q.cdw15.toNat p l (b.take p.pkgBytes) v)) ∧
     (q.nsid = 0 → q.cdw2 = 0 → q.cdw3 = 0 → q.cdw10 = 0 → q.cdw11 = 0 → q.cdw13 = 0 → q.cdw14 = 0 → q.cdw15 = 0 → q.cdw12.toNat < 1024 →
       let n := q.cdw12.toNat
       let u := noteCmd t 0x84 q s
       (ctx? s n = none → exec (.unloadContext t q d) s = .next (complete .bcs t ⟨7, 0x01⟩ 0x2003 0 [] u)) ∧
       (∀ c, ctx? s n = some c → c.st ≠ .unloading → c.step = none ∨ c.save ≠ [] →
         exec (.unloadContext t q d) s = .next (startDue (unloadNow n (putCtx n { c with st := .unloading, unloadTags := c.unloadTags ++ [t] } u)))) ∧
       (∀ c, ctx? s n = some c → c.step.isSome = true → c.save = [] →
         exec (.unloadContext t q d) s = .next (putCtx n { c with st := .unloading, unloadTags := c.unloadTags ++ [t] } u))) ∧
     (q.nsid = 0 → q.cdw2 = 0 → q.cdw3 = 0 → q.cdw10 = 0 → q.cdw11 = 0 → q.cdw15 = 0 → q.cdw12.toNat < 48 → q.cdw14.toNat < 65536 →
       let i := q.cdw12.toNat
       let m := q.cdw13.toNat + 2 ^ 32 * q.cdw14.toNat
       let u := noteCmd t 0x88 q s
       (bindRefusal u i m = none →
         exec (.bindIsland t q d) s = .next (complete .bcs t stSuccess 0 0 [] (((setBits m 48).filter fun k => !bit (islandMap u i) k).foldl (fun s k => joinCore i k s) (setIslands (smPut 0 s.islands i m) u)))) ∧
       ((∃ e ∈ s.islands, e.1 ≠ i ∧ e.2 &&& m ≠ 0) → exec (.bindIsland t q d) s = .next (complete .bcs t ⟨7, 0x01⟩ 0x3008 0 [] u)))) ∧
  (∀ (s : State) (t : Tag) (q : Sqe) (d : List Byte), BcsOpen s t q → q.nsid = 0 → q.cdw10 = 0 → q.cdw11 = 0 →
     (∀ c, q.cdw12.toNat < 1024 → q.cdw13.toNat < 4096 → q.cdw15.toNat ≤ 1048576 → q.sgl = 4 * q.cdw15.toNat → ctx? s q.cdw12.toNat = some c →
       let n := q.cdw12.toNat
       let sq := q.cdw13.toNat
       let len := q.cdw15.toNat
       let u := noteCmd t 0x85 q s
       (sq < c.pkg.maxSeqs → smFind c.seqs sq = none → q.cdw14.toNat ≤ c.pkg.maxSeqLen → len ≤ q.cdw14.toNat → c.committed + c.pkg.backing q.cdw14.toNat ≤ c.pkg.flashBytes →
         let e : Seq := { st := .pending, pos := 0, maxLen := q.cdw14.toNat, seed := q.cdw2.toNat + 2 ^ 32 * q.cdw3.toNat, prompt := (List.range len).map fun i => fld d (4 * i) 4, order := c.joinOrder, leave := false, ingest := none, pages := [] }
         exec (.sequenceJoin t q d) s = .next (complete .bcs t stSuccess 0 0 [] (putCtx n { c with seqs := smSet c.seqs sq e, joinOrder := c.joinOrder + 1 } u))) ∧
       (sq < c.pkg.maxSeqs → (smFind c.seqs sq).isSome = true → exec (.sequenceJoin t q d) s = .next (complete .bcs t ⟨7, 0x01⟩ 0x300B 0 [] u))) ∧
     (∀ c, q.cdw2 = 0 → q.cdw3 = 0 → q.cdw14 = 0 → q.cdw15 = 0 → q.sgl = 0 → q.cdw12.toNat < 1024 → q.cdw13.toNat < 4096 → ctx? s q.cdw12.toNat = some c →
       let n := q.cdw12.toNat
       let sq := q.cdw13.toNat
       let u := noteCmd t 0x90 q s
       (∀ e, smFind c.seqs sq = some e → e.st = .pending ∨ c.step = none → exec (.sequenceLeave t q d) s = .next (complete .bcs t stSuccess 1 0 [] (freeSeq n sq u))) ∧
       (∀ e st, smFind c.seqs sq = some e → e.st ≠ .pending → c.step = some st →
         exec (.sequenceLeave t q d) s = .next (complete .bcs t stSuccess 0 0 [] (putCtx n { c with seqs := smMod c.seqs sq fun q => { q with leave := true } } u))) ∧
       (smFind c.seqs sq = none → exec (.sequenceLeave t q d) s = .next (complete .bcs t ⟨7, 0x01⟩ 0x300D 0 [] u))))

/-- Write Chart, Swap Chart and Output Drain. Write Chart with a good header and slots writes the inactive bank and completes. Swap Chart
waits for the cycle where the Chart runs, and otherwise swaps at once. Output Drain frees what ACK acknowledges and returns header and
records to its capacity, refuses an ACK beyond DSEQ, and with HIST returns history records or refuses a first record beyond the count.
Rests on 03_serving_chart.md, 12_host_queues.md. -/
def Obligations.ChartAndDrainCommandResult : Prop :=
  ∀ (s : State) (t : Tag) (q : Sqe) (d : List Byte), BcsOpen s t q → q.nsid = 0 → q.cdw10 = 0 → q.cdw11 = 0 → q.cdw15 = 0 →
    (q.cdw2 = 0 → q.cdw3 = 0 → q.cdw13 = 0 → q.cdw14 = 0 → q.cdw12.toNat < 2 →
      let b := q.cdw12 == 1
      let period := fld d 4 4
      let count := fld d 2 2
      let slot (i : Nat) : Slot := { w0 := BitVec.ofNat 32 (fld d (16 + 16 * i) 4), w1 := BitVec.ofNat 32 (fld d (20 + 16 * i) 4), w2 := BitVec.ofNat 32 (fld d (24 + 16 * i) 4), w3 := BitVec.ofNat 32 (fld d (28 + 16 * i) 4) }
      let xs := (List.range count).map slot
      let u := noteCmd t 0x81 q s
      16 ≤ q.sgl → s.chart.active ≠ some b → (∀ w, s.chart.swap = some w → w.bankB ≠ b) → fld d 0 1 = versionByte u →
      fld d 1 1 = 0 → count ≤ 256 → 250 ≤ period → period ≤ 16000 → fld d 8 4 < period * 1000 → fld d 12 4 = 0 → q.sgl = 16 + 16 * count →
      (∀ x ∈ xs, slotFieldsOk period x = true) → slotsInRange period xs 0 = true → anyClash xs = false → (∀ x ∈ xs, slotCtxBad u x = false ∧ slotKindBad u x = false) →
      let bank : Bank := { written := true, period := period, phase := fld d 8 4, slots := xs }
      exec (.writeChart t q d) s = .next (complete .bcs t stSuccess 0 0 [] (modChart (fun c => if b then { c with bankB := bank, last := some b } else { c with bankA := bank, last := some b }) u))) ∧
    (q.cdw2 = 0 → q.cdw3 = 0 → q.cdw12 = 0 → q.cdw13 = 0 → q.cdw14 = 0 → q.sgl = 0 →
      let u := noteCmd t 0x8C q s
      ∀ b, s.chart.swap = none → swapTarget u = some b → (∀ x ∈ (bankOf u b).slots, slotCtxBad u x = false ∧ slotKindBad u x = false) →
        (s.chart.active.isSome = true → s.chart.enable = true →
          exec (.swapChart t q d) s = .next (modChart (fun c => { c with swap := some { bankB := b, tag := some t, at_ := s.time.replica } }) u)) ∧
        (s.chart.active = none ∨ s.chart.enable = false → exec (.swapChart t q d) s = .next (swapNow b (some t) s.time.replica u))) ∧
    (∀ c, q.cdw12.toNat < 1024 → q.cdw13 = 0 → q.cdw14 = 0 → 32 ≤ q.sgl → ctx? s q.cdw12.toNat = some c →
      let ack := q.cdw2.toNat + 2 ^ 32 * q.cdw3.toNat
      let u := noteCmd t 0x82 q s
      let held := c.out.filter fun r => max c.acked ack < r.dseq
      let n := min held.length ((q.sgl - 32) / (32 + roundUp c.outBytes 8))
      (ack ≤ c.dseq → ∃ first, (∀ r ∈ held.head?, 0 < n → first = r.dseq) ∧
        exec (.outputDrain t q d) s = .next (complete .bcs t stSuccess n 0
          (leBytes 1 2 ++ leBytes 1 (b2n (decide (n < held.length))) ++ [0, 0] ++ leBytes 4 n ++ leBytes 8 first ++ leBytes 8 c.dseq ++
            leBytes 8 (c.outbufKib * 1024 - held.length * (32 + roundUp c.outBytes 8)) ++ (held.take n).flatMap (OutRec.bytes c.outBytes))
          (draw (putCtx q.cdw12.toNat { c with acked := max c.acked ack, out := held } u)).2)) ∧
      (c.dseq < ack → exec (.outputDrain t q d) s = .next (complete .bcs t ⟨7, 0x01⟩ 0x2001 0 [] u))) ∧
    (∀ c, q.cdw12.toNat < 1024 → q.cdw13 = 1 → 32 ≤ q.sgl → ctx? s q.cdw12.toNat = some c →
      let total := (c.pkg.tensors.filter Tensor.noObj).length
      let first := q.cdw14.toNat
      let n := min (total - first) ((q.sgl - 32) / 96)
      let u := noteCmd t 0x82 q s
      (first < total → 0 < n → exec (.outputDrain t q d) s = .next (complete .bcs t stSuccess n 0
        (leBytes 1 2 ++ leBytes 1 (b2n (decide (first + n < total)) + 2) ++ [0, 0] ++ leBytes 4 n ++ leBytes 8 first ++ leBytes 8 c.dseq ++ leBytes 8 c.outFree ++
          (List.range n).flatMap fun i => (smGet HistRec.zero c.hist (first + i)).bytes) (draw u).2)) ∧
      (total ≤ first → exec (.outputDrain t q d) s = .next (complete .bcs t ⟨7, 0x01⟩ 0x2001 0 [] u)))

/-- Search, Scan, Ingest and Index Mutate. Search is accepted as a job or refused with the check's code. Scan runs the filter over the range
and completes with its result. Ingest waits for credit or is refused with its block; Index Mutate with credit carries out the mutation. At
level 1 Ingest and Index Mutate complete with Invalid Command Opcode. Rests on 10_vector_search.md, 11_flash_media.md, 12_host_queues.md. -/
def Obligations.SearchCommandResult : Prop :=
  ∀ (s : State) (t : Tag) (q : Sqe) (d : List Byte), BcsOpen s t q → q.nsid = 0 → q.cdw2 = 0 → q.cdw3 = 0 → q.cdw11 = 0 → q.cdw12 = 0 → q.cdw13 = 0 → q.cdw14 = 0 → q.cdw15 = 0 →
    d.length = q.sgl → 64 ≤ q.sgl → fld d 0 1 = versionByte s →
    (q.sgl = 64 + fld d 32 4 + fld d 20 4 →
      let u := noteCmd t 0x83 q s
      (∀ v, querySubmitCheck d q.cdw10.toNat u = (none, v) → exec (.search t q d) s = .next (acceptQuery d (.host t) v)) ∧
      (∀ c v, querySubmitCheck d q.cdw10.toNat u = (some c, v) → exec (.search t q d) s = .next (complete .bcs t ⟨7, 0x01⟩ c 0 [] v))) ∧
    (∀ n, q.sgl = 64 + fld d 32 4 → 1 ≤ fld d 1 1 → fld d 1 1 ≤ 3 → zeroRange d 2 4 = true → zeroRange d 36 64 = true → 1 ≤ fld d 16 8 → fld d 16 8 ≤ 2 ^ 32 →
      (fld d 1 1 = 3 ∨ fld d 24 8 = 0) → 64 ≤ q.cdw10.toNat →
      let u := mteBusy (noteCmd t 0x87 q s)
      let p : ScanParm := { mode := fld d 1 1, nsid := fld d 4 4, slba := fld d 8 8, nlb := fld d 16 8, keep := fld d 24 8, prog := slice d 64 (fld d 32 4), cap := q.cdw10.toNat }
      progBad p.prog = none → ns? u p.nsid = some n → p.slba + p.nlb ≤ 4 * n.units →
      (∀ x v, scanLoop p n ((p.slba + p.nlb) * 4096) (p.nlb * 512 + 1) (p.slba * 4096) { unit := none, out := [], seen := 0, passed := 0, errs := 0, next := none } (cntAdd 0xD8 0x800 1 u) = (.ok (), x, v) →
        exec (.scan t q d) s = .next (complete .bcs t stSuccess 0 0 (scanResult 0 x) (if x.next.isSome then cntAdd 0xD8 0x818 1 (cntAdd 0xD8 0x810 1 v) else cntAdd 0xD8 0x810 1 v)))) ∧
    (q.cdw10 = 0 → q.sgl = 64 + fld d 48 4 → s.chip.level1 = false →
      let u := mteBusy (noteCmd t 0x89 q s)
      u.ftl.readOnly = false → 
      (ingestRefusal d u = none → exec (.ingest t q d) s = .next (askWrite { tag := t, op := 0x89, sqe := q, data := d, since := now u, held := false } u)) ∧
      (∀ b, ingestRefusal d u = some b → exec (.ingest t q d) s = .next (ingestRefuse t b u))) ∧
    (q.cdw10 = 0 → s.chip.level1 = false → fld d 1 1 < 16 → 1 ≤ fld d 2 2 → zeroRange d 4 8 = true → zeroRange d 16 64 = true → s.ftl.readOnly = false → (∀ x ∈ s.ftl.waiting, x.op < 0x80) →
      let u := noteCmd t 0x8D q s
      ∀ n, admission { tag := t, op := 0x8D, sqe := q, data := d, since := now u, held := false } u = .go n → exec (.indexMutate t q d) s = .next (mutate t d u)) ∧
    (q.cdw10 = 0 → s.chip.level1 = true → exec (.ingest t q d) s = .next (complete .bcs t ⟨0, 0x01⟩ 0 0 [] (noteCmd t 0x89 q s)) ∧
      exec (.indexMutate t q d) s = .next (complete .bcs t ⟨0, 0x01⟩ 0 0 [] (noteCmd t 0x8D q s)))

/-- Query, merge, compaction, delta, ingest and hold events. QUERY_COMPLETE runs the query and lets the next start; MERGE_DEADLINE ends the
merge at its deadline; COMPACTION_SWITCH starts the switch; DELTA_REBUILD that succeeds is CORRECTED, one that fails leaves the index
DAMAGED; INGEST_INSERT inserts where slots allow; the hold register is stored and queued queries may start. Rests on 10_vector_search.md. -/
def Obligations.SearchEventResult : Prop :=
  (∀ (s : State) (job : Nat) (q : Query), smFind s.sre.queries job = some q → exec (.queryComplete job) s = .next (pumpQueries (settleIdx q.parm.index (runQuery job s)))) ∧
  (∀ (s : State) (job : Nat) (q : Query) (m : Merge), smFind s.sre.queries job = some q → q.merge = some m →
    exec (.mergeDeadline job) s = .next (pumpQueries (settleIdx q.parm.index (mergeDone job q m (advanceTo m.deadline s))))) ∧
  (∀ (s : State) (n : Nat) (i : Index), idx? s n = some i → i.compact.isSome = true → i.st ≠ .damaged →
    exec (.compactionSwitch n) s = .next (settleIdx n (modIdx n (fun i => { i with st := .switching }) s))) ∧
  (∀ (s : State) (n : Nat) (i : Index), idx? s n = some i → i.st ≠ .damaged →
    exec (.deltaRebuild n true) s = .next (corrected 0xB0 3 0xB014 0 0 s) ∧
    (i.compact = none → s.sre.queries = [] → exec (.deltaRebuild n false) s = .next (pumpQueries (settleIdx n (modIdx n (fun i => { i with st := .damaged, compact := none }) s))))) ∧
  (∀ (s : State) (job : Nat) (g : Ingest), smFind s.sre.ingests job = some g → (∀ r ∈ g.recs, r.vec.isSome = true) → slotsUsed s + s.ftl.progs.length + g.recs.length ≤ 62992 →
    exec (.ingestInsert job) s = .next (mteBusy (ingestInsert job g s))) ∧
  (∀ (s : State) (p : Path) (w : Word), Reaches s p 0xB0 0x100 → exec (.sreHoldWrite p w) s = .next (pumpQueries (storeRw 0xB0 0x100 w s)))

/-- Register Window commands and sideband reads and writes. A Register Window Read or Write of allowed words answers the words or writes them
in ascending order; a misaligned offset is REG_ALIGN and a count out of range REG_RANGE. The sideband forms answer or write likewise, with
their own status byte. Rests on 02_register_pages.md. -/
def Obligations.RegisterWindowResult : Prop :=
  (∀ (s : State) (t : Tag) (q : Sqe) (d : List Byte), BcsOpen s t q → onAdmin s t = false → q.nsid = 0 → q.cdw2 = 0 → q.cdw3 = 0 → q.cdw10 = 0 → q.cdw11 = 0 → q.cdw15 = 0 →
    q.cdw12.toNat < 256 → q.cdw13.toNat < 4096 → q.cdw14.toNat < 128 →
    let page := q.cdw12.toNat
    let off := q.cdw13.toNat
    let n := q.cdw14.toNat
    (∀ l v, accessRefusal .inband page off n 64 none (noteCmd t 0x86 q s) = none → q.sgl = 4 * n → readWords .inband page n off (noteCmd t 0x86 q s) = (l, v) →
      exec (.registerWindowRead t q d) s = .next (complete .bcs t stSuccess 0 0 (l.flatMap fun w => leBytes 4 w.toNat) v)) ∧
    (∀ ws, ws = wordsOf d n → accessRefusal .inband page off n 64 (some ws) (noteCmd t 0x91 q s) = none → q.sgl = 4 * n →
      exec (.registerWindowWrite t q d) s = .next (complete .bcs t stSuccess 0 0 [] (writeWords page off ws (noteCmd t 0x91 q s)))) ∧
    (off % 4 ≠ 0 → exec (.registerWindowRead t q d) s = .next (complete .bcs t ⟨7, 0x01⟩ 0x0002 0 [] (noteCmd t 0x86 q s)) ∧
      exec (.registerWindowWrite t q d) s = .next (complete .bcs t ⟨7, 0x01⟩ 0x0002 0 [] (noteCmd t 0x91 q s))) ∧
    (off % 4 = 0 → n = 0 ∨ 64 < n ∨ 0xFFC < off + 4 * (n - 1) → exec (.registerWindowRead t q d) s = .next (complete .bcs t ⟨7, 0x01⟩ 0x0003 0 [] (noteCmd t 0x86 q s)))) ∧
  (∀ (s : State) (req : List Byte), s.chip.powered = true → s.chip.stage ≠ .powerGood → 8 ≤ req.length → fld req 0 1 = 1 →
    let page := fld req 2 1
    let n := fld req 3 1
    let off := fld req 4 2
    (∀ l v, fld req 1 1 = 1 → accessRefusal .sideband page off n 16 none s = none → readWords .sideband page n off s = (l, v) →
      exec (.sidebandRead req) s = .next (emit (.sideband (req.take 3 ++ [0, 0] ++ l.flatMap fun w => leBytes 4 w.toNat)) v)) ∧
    (∀ ws, ws = wordsOf (req.drop 8) n → fld req 1 1 = 2 → accessRefusal .sideband page off n 16 (some ws) s = none → req.length = 8 + 4 * n →
      exec (.sidebandWrite req) s = .next (emit (.sideband (req.take 3 ++ [0, 0])) (writeWords page off ws s))) ∧
    (fld req 1 1 = 1 → off % 4 ≠ 0 → exec (.sidebandRead req) s = .next (emit (.sideband (req.take 3 ++ [2, 0])) s)))

/-- Read, Write, Verify, Write Zeroes, Dataset Management and Flush. In range, Read answers the bytes or Unrecovered Read Error; Verify reads
without data; Write, Write Zeroes and a deallocating Dataset Management are carried out where credit is given and refused on read-only
media; Flush completes. Rests on 11_flash_media.md, 12_host_queues.md. -/
def Obligations.NvmCommandResult : Prop :=
  ∀ (s : State) (t : Tag) (q : Sqe) (d : List Byte) (n : Ns), QueueOpen s t → lifecycle s = .operational → nvmNs t q s = some n →
    let off := (q.cdw10.toNat + 2 ^ 32 * q.cdw11.toNat) * 4096
    let blocks := q.cdw12.toNat % 65536 + 1
    let inRange := q.cdw10.toNat + 2 ^ 32 * q.cdw11.toNat + blocks ≤ 4 * n.units
    let busy (op : Nat) : State := mteBusy (noteCmd t op q s)
    let wrote (op : Nat) (b : List Byte) (o : Res) : Prop :=
      let w : WaitWrite := { tag := t, op := op, sqe := q, data := b, since := now (busy op), held := false }
      (∀ c v, s.ftl.waiting = [] → s.ftl.readOnly = false → admission w (busy op) = .go c →
        applyWrite n w (modFtl (fun x => { x with waiting := [], credit := x.credit - c }) (busy op)) = (none, v) → v.pwr.writeThrough = false → o = .next (complete .nvm t stSuccess 0 0 [] v)) ∧
      (s.ftl.readOnly = true → o = .next (complete .nvm t ⟨0, 0x20⟩ 0xD003 0 [] (busy op)))
    (blocks ≤ 1024 → inRange → q.sgl = blocks * 4096 →
      (∀ b v, nsRead n off (blocks * 4096) (busy 0x02) = (.ok b, v) → exec (.nvmRead t q d) s = .next (complete .nvm t stSuccess 0 0 b v)) ∧
      (∀ e v, nsRead n off (blocks * 4096) (busy 0x02) = (.error e, v) → exec (.nvmRead t q d) s = .next (complete .nvm t ⟨2, 0x81⟩ 0 0 [] v)) ∧
      wrote 0x01 d (exec (.nvmWrite t q d) s)) ∧
    (inRange → q.sgl = 0 →
      (∀ b v, nsRead n off (blocks * 4096) (busy 0x0C) = (.ok b, v) → exec (.nvmVerify t q d) s = .next (complete .nvm t stSuccess 0 0 [] v)) ∧
      wrote 0x08 [] (exec (.writeZeroes t q d) s)) ∧
    (q.sgl = 16 * (q.cdw10.toNat % 256 + 1) → (∀ r ∈ dsmRanges q d, r.1 + r.2 ≤ 4 * n.units) →
      (bit q.cdw11.toNat 2 = true → wrote 0x09 d (exec (.datasetManagement t q d) s)) ∧
      (bit q.cdw11.toNat 2 = false → exec (.datasetManagement t q d) s = .next (complete .nvm t stSuccess 0 0 [] (noteCmd t 0x09 q s)))) ∧
    (exec (.flush t q d) s = .next (complete .nvm t stSuccess 0 0 [] (noteCmd t 0x00 q s)))

/-- Connect, Disconnect, Property Get and Set, NSSR and shutdown. Connect of an admin queue takes the lowest free controller number and of an
I/O queue joins its controller; Disconnect closes an I/O queue; properties are read; CC is written with its effects; the NSSR key starts a
device reset and any other value does nothing; a shutdown notification completes the shutdown. Byte positions are those of NVMe (log
entries 12 and 41). Rests on 12_host_queues.md, 15_errors_bringup.md. -/
def Obligations.FabricsCommandResult : Prop :=
  (∀ (s : State) (t : Tag) (q : Sqe) (d : List Byte) (x : Conn), conn? s t.conn = some x → s.chip.stage = .ready → x.icDone = true → x.queue = none →
    q.sgl = 1024 → q.cdw10.toNat % 65536 = 0 → slice (padTo 1024 d) 256 256 = padTo 256 (if x.disc then discNqn else subNqn) →
    let qid := q.cdw10.toNat / 65536
    let size := q.cdw11.toNat % 65536
    let cn := fld (padTo 1024 d) 16 2
    let queue (c : Nat) (y : Conn) : Conn := { y with queue := some (c, qid, size), noFlow := bit q.cdw11.toNat 18 }
    (qid = 0 → cn = 0xFFFF → 1 ≤ size → size ≤ 31 → ∀ k, s.qcu.ctrls.length < 256 → k < 256 → smFind s.qcu.ctrls k = none → (∀ j < k, smFind s.qcu.ctrls j ≠ none) →
      let kato := if q.cdw12.toNat = 0 then 600 else max 1 (min 600 ((q.cdw12.toNat + 999) / 1000))
      exec (.connect t q d) s = .next (complete .admin t stSuccess k 0 [] (modConn t.conn (queue k)
        (modQcu (fun y => { y with ctrls := smSet y.ctrls k (Ctrl.fresh t.conn kato (now s) x.disc) }) s)))) ∧
    (∀ k, 1 ≤ qid → qid ≤ 1024 → smFind s.qcu.ctrls cn = some k → k.discovery = false → k.cc % 2 = 1 → 1 ≤ size → size ≤ 4095 → ioQueues s < 1024 →
      (∀ e ∈ s.qcu.conns, ∀ n, e.2.queue ≠ some (cn, qid, n)) →
      exec (.connect t q d) s = .next (complete .admin t stSuccess cn 0 [] (modConn t.conn (queue cn) s)))) ∧
  (∀ (s : State) (t : Tag) (q : Sqe) (d : List Byte) (c n : Nat), QueueOpen s t → queueOf s t.conn = some (c, n) → n ≠ 0 → q.cdw10.toNat % 65536 = 0 →
    exec (.disconnect t q d) s = .next (closeConn t.conn 2 (complete .admin t stSuccess 0 0 [] (noteCmd t 0x7F q s)))) ∧
  (∀ (s : State) (t : Tag) (q : Sqe) (d : List Byte) (c : Nat) (k : Ctrl), AdminOpen s t c k →
    let u := noteCmd t 0x7F q s
    (∀ v n, property k q.cdw11.toNat = some (v, n) → n = (if q.cdw10.toNat % 8 = 1 then 8 else 4) →
      exec (.propertyGet t q d) s = .next (complete .admin t stSuccess (v % 2 ^ 32) (v / 2 ^ 32) [] u)) ∧
    (q.cdw11 = 0x14 → exec (.propertySet t q d) s = .next (complete .admin t stSuccess 0 0 [] (writeCc c q.cdw12.toNat u))) ∧
    (q.cdw11 = 0x20 → q.cdw12 = 0x4E564D65 → exec (.propertySet t q d) s = .next (deviceReset 2 (complete .admin t stSuccess 0 0 [] u))) ∧
    (q.cdw11 = 0x20 → q.cdw12 ≠ 0x4E564D65 → exec (.propertySet t q d) s = .next (complete .admin t stSuccess 0 0 [] u)) ∧
    exec (.nssrDeviceReset t q d) s = .next (deviceReset 2 (complete .admin t stSuccess 0 0 [] u)) ∧
    (∀ w, let a := if k.cc % 2 = 1 ∧ w % 2 = 0 then disableCtrl c u else u
      let b := modQcu (fun y => { y with ctrls := smMod y.ctrls c fun k => { k with cc := w } }) a
      writeCc c w u = if bits w 15 14 = 1 ∨ bits w 15 14 = 2 then modQcu (fun y => { y with ctrls := smMod y.ctrls c fun k => { k with shst := 2 } }) (admitWrites (drainClean b)) else b) ∧
    (bits q.cdw12.toNat 15 14 = 1 ∨ bits q.cdw12.toNat 15 14 = 2 →
      exec (.shutdownNotification t q d) s = .next (complete .admin t stSuccess 0 0 [] (writeCc c q.cdw12.toNat u))))

/-- Identify, logs, features, events, Keep Alive, Abort and unknown opcodes. Each answers its data or values; Get Log Page without Retain lets
events come again; Set Features Power Management begins the transition; an event request is held or answered by the event longest held,
the 17th refused; Keep Alive restarts the timer; Abort completes a command that awaits data as aborted; an unknown opcode is Invalid
Command Opcode. Rests on 12_host_queues.md. -/
def Obligations.AdminCommandResult : Prop :=
  ∀ (s : State) (t : Tag) (q : Sqe) (d : List Byte) (c : Nat) (k : Ctrl), AdminOpen s t c k → q.sgl ≤ 0x400000 →
    let u (op : Nat) : State := noteCmd t op q s
    let fid := q.cdw10.toNat % 256
    (∀ b, q.sgl = 4096 → identify (u 0x06) c (q.cdw10.toNat % 256) q.nsid.toNat (q.cdw10.toNat / 65536) = .ok b →
      exec (.identify t q d) s = .next (complete .admin t stSuccess 0 0 b (u 0x06))) ∧
    (∀ b, let len := 4 * (q.cdw10.toNat / 65536 + 65536 * (q.cdw11.toNat % 65536) + 1)
      let off := q.cdw12.toNat + 2 ^ 32 * q.cdw13.toNat
      logPage (u 0x02) k fid = some b → off % 4 = 0 → q.sgl = len →
      let keep := bit q.cdw10.toNat 15
      exec (.getLogPage t q d) s = .next (complete .admin t stSuccess 0 0 (padTo len (slice b off (min len (b.length - off))))
        (if keep then u 0x02 else modQcu (fun x => { x with ctrls := smMod x.ctrls c fun k => { k with masked := k.masked.filter fun e => e.log != fid, changed := if fid = 0x04 then [] else k.changed } }) (u 0x02)))) ∧
    (q.cdw11.toNat % 32 ≤ 4 → bit q.cdw10.toNat 31 = false →
      exec (.setFeaturesPowerManagement t q d) s = .next (psBegin (some t) (q.cdw11.toNat % 32) (u 0x09))) ∧
    exec (.setFeaturesNumberOfQueues t q d) s = .next (complete .admin t stSuccess (1023 + 1023 * 65536) 0 [] (u 0x09)) ∧
    (bit q.cdw10.toNat 31 = false → fid ∈ [0x01, 0x04, 0x05, 0x0A] →
      exec (.setFeatures t q d) s = .next (complete .admin t stSuccess 0 0 [] (modCtrlOf t (fun k => { k with feats := smSet k.feats fid q.cdw11.toNat }) (u 0x09)))) ∧
    (∀ v, bits q.cdw10.toNat 10 8 < 3 → featValue (u 0x0A) k fid (bits q.cdw10.toNat 10 8 == 1 || bits q.cdw10.toNat 10 8 == 2) = some v →
      exec (.getFeatures t q d) s = .next (complete .admin t stSuccess v 0 [] (u 0x0A))) ∧
    (k.aerCids.contains t.cid = false → k.aerCids.length < 16 →
      let v := modQcu (fun x => { x with ctrls := smMod x.ctrls c fun k => { k with aerCids := k.aerCids ++ [t.cid], held := k.held.drop 1 } }) (u 0x0C)
      (k.held = [] → exec (.asynchronousEventRequest t q d) s = .next v) ∧
      (∀ e l, k.held = e :: l → exec (.asynchronousEventRequest t q d) s = .next (postTo c e.type e.info e.log v))) ∧
    (k.aerCids.contains t.cid = false → 16 ≤ k.aerCids.length → exec (.asynchronousEventRequest t q d) s = .next (complete .admin t ⟨1, 5⟩ 0 0 [] (u 0x0C))) ∧
    exec (.keepAlive t q d) s = .next (complete .admin t stSuccess 0 0 [] (modCtrlOf t (fun k => { k with kaStart := now s }) (u 0x18))) ∧
    ((∀ n, connOf (u 0x08) c (q.cdw10.toNat % 65536) ≠ some n) → exec (.abortCmd t q d) s = .next (complete .admin t stSuccess 1 0 [] (u 0x08))) ∧
    (∀ n x o, q.cdw10.toNat % 65536 ≠ 0 → connOf (u 0x08) c (q.cdw10.toNat % 65536) = some n → conn? (u 0x08) n = some x →
      x.outst.find? (fun o => o.cid == q.cdw10.toNat / 65536) = some o → o.need ≠ 0 →
      exec (.abortCmd t q d) s = .next (complete .admin t stSuccess 0 0 [] (complete .bcs ⟨n, q.cdw10.toNat / 65536⟩ ⟨0, 7⟩ 0 0 [] (u 0x08)))) ∧
    exec (.invalidCommandOpcode t q d) s = .next (complete .admin t ⟨0, 1⟩ 0 0 [] (u 0xFF))

/-- Namespace management, attachment, Format, Sanitize and firmware update commands. Create takes the lowest free number with its units or is
refused for capacity or number; delete unmaps; attach and detach change the list and notify; Format and Sanitize unmap and change the
media key. Firmware Image Download stages aligned ranges that do not overlap; Commit starts the update of a good image and refuses a bad
one. Rests on 11_flash_media.md, 12_host_queues.md, 14_management_security.md. -/
def Obligations.NamespaceFirmwareResult : Prop :=
  (∀ (s : State) (t : Tag) (q : Sqe) (d : List Byte) (c : Nat) (k : Ctrl), AdminOpen s t c k → q.sgl ≤ 0x400000 →
     let u (op : Nat) : State := noteCmd t op q s
     let done (op : Nat) (v : State) : Res := .next (complete .admin t stSuccess 0 0 [] v)
     let nsid := q.nsid.toNat
     let erase (n : Nat) (x : Ns) (v : State) : State := nsNotice n x.attached (modFtl (fun f => { f with namespaces := smMod f.namespaces n fun y => { y with key := f.nextKey }, nextKey := f.nextKey + 1 }) (unmapRange x.base x.units v))
     (q.cdw10.toNat % 16 = 0 → q.sgl = 4096 → s.msp.busy = false → lifecycle s = .operational → ∀ n, n < 256 → ns? s (n + 1) = none → (∀ j < n, ns? s (j + 1) ≠ none) →
       let h := padTo 4096 d
       let units := (fld h 0 8 + 3) / 4
       0 < fld h 0 8 → fld h 8 8 = fld h 0 8 → fld h 26 1 = 0 → fld h 29 1 = 0 →
       (∀ b, allocUnits (u 0x0D) + units ≤ userUnits → freeBase (usedRanges (u 0x0D)) 0 units = some b →
         exec (.namespaceManagement t q d) s = .next (complete .admin t stSuccess (n + 1) 0 [] (modFtl (fun x => { x with
           namespaces := smSet x.namespaces (n + 1) { units := units, base := b, attached := [], key := x.nextKey }, nextKey := x.nextKey + 1 }) (u 0x0D)))) ∧
       (userUnits < allocUnits (u 0x0D) + units → exec (.namespaceManagement t q d) s = .next (complete .admin t ⟨1, 0x15⟩ 0x3007 0 [] (u 0x0D)))) ∧
     (q.cdw10.toNat % 16 = 0 → q.sgl = 4096 → s.msp.busy = false → lifecycle s = .operational → (∀ n < 256, ns? s (n + 1) ≠ none) →
       exec (.namespaceManagement t q d) s = .next (complete .admin t ⟨1, 0x16⟩ 0 0 [] (u 0x0D))) ∧
     (∀ x, q.cdw10.toNat % 16 = 1 → nsid ≠ 0xFFFFFFFF → ns? s nsid = some x →
       exec (.namespaceManagement t q d) s = done 0x0D (nsNotice nsid x.attached (modFtl (fun f => { f with namespaces := smDel f.namespaces nsid }) (unmapRange x.base x.units (u 0x0D))))) ∧
     (∀ n, q.sgl = 4096 → ns? s nsid = some n →
       let l := listCtrls (padTo 4096 d)
       let set (a : List Nat) : State := modFtl (fun f => { f with namespaces := smMod f.namespaces nsid fun x => { x with attached := a } }) (u 0x15)
       l ≠ [] → (∀ c ∈ l, smFind s.qcu.ctrls c ≠ none) →
       (q.cdw10.toNat % 16 = 0 → (∀ c ∈ l, c ∉ n.attached) → exec (.namespaceAttachment t q d) s = done 0x15 (nsNotice nsid l (set (n.attached ++ l.eraseDups)))) ∧
       (q.cdw10.toNat % 16 = 1 → (∀ c ∈ l, c ∈ n.attached) → exec (.namespaceAttachment t q d) s = done 0x15 (nsNotice nsid l (set (n.attached.filter fun c => !l.contains c))))) ∧
     (∀ x, s.msp.busy = false → q.cdw10.toNat % 16 = 0 → bits q.cdw10.toNat 8 4 = 0 → bits q.cdw10.toNat 11 9 ≤ 2 → nsid ≠ 0xFFFFFFFF → ns? s nsid = some x →
       exec (.formatNvm t q d) s = done 0x80 (erase nsid x (u 0x80))) ∧
     (s.msp.busy = false → q.cdw10.toNat % 8 = 4 → exec (.sanitize t q d) s = done 0x84 ((s.ftl.namespaces.map Prod.fst).foldl (fun v n => match ns? v n with | none => v | some x => erase n x v) (u 0x84)))) ∧
  (∀ (s : State) (t : Tag) (q : Sqe) (d : List Byte) (c : Nat) (k : Ctrl), AdminOpen s t c k → q.sgl ≤ 0x400000 → s.msp.busy = false → s.msp.recovery = false →
     let u (op : Nat) : State := noteCmd t op q s
     let n := 4 * (q.cdw10.toNat + 1)
     let off := 4 * q.cdw11.toNat
     let img := stagedRun (s.msp.staged.foldr insStage []) 0
     (n % 4096 = 0 → off % 4096 = 0 → off + n ≤ 0x1000000 → q.sgl = n →
       ((∀ e ∈ s.msp.staged, off + n ≤ e.1 ∨ e.1 + e.2.length ≤ off) →
         exec (.firmwareImageDownload t q d) s = .next (complete .admin t stSuccess 0 0 [] (modMsp (fun m => { m with staged := m.staged ++ [(off, padTo n (d.take n))] }) (u 0x11)))) ∧
       ((∃ e ∈ s.msp.staged, off < e.1 + e.2.length ∧ e.1 < off + n) → exec (.firmwareImageDownload t q d) s = .next (complete .admin t ⟨1, 0x14⟩ 0 0 [] (u 0x11)))) ∧
     (n % 4096 ≠ 0 ∨ off % 4096 ≠ 0 ∨ 0x1000000 < off + n → exec (.firmwareImageDownload t q d) s = .next (complete .admin t ⟨0, 2⟩ 0 0 [] (u 0x11))) ∧
     (bits q.cdw10.toNat 5 3 = 3 → bits q.cdw10.toNat 2 0 ≤ 1 → s.msp.update = none →
       (∀ f, imageCheck (u 0x10) img = .ok f →
         exec (.firmwareCommit t q d) s = .next (modMsp (fun m => { m with update := some { done := 0, total := (fld img 4 4 + 65535) / 65536, img := img.take (fld img 4 4), tag := t }, progress := (0, (fld img 4 4 + 65535) / 65536), staged := [], factory := false, nor := smDel m.nor 0, session := none }) (postAll 2 1 0x03 (u 0x10)))) ∧
       (∀ e, imageCheck (u 0x10) img = .error e → exec (.firmwareCommit t q d) s = .next (complete .admin t ⟨1, 7⟩ 0 0 [] (modMsp (fun m => { m with staged := [] }) (u 0x10))))))

/-- TCP, ICReq, TLS, freeze, reset and Keep Alive expiry. A SYN to a served port opens a connection, to another is reset, beyond 4,096 is
refused, counted and recorded once a second. ICReq answers or terminates. ClientHello with a known key opens TLS and otherwise closes with
an advisory. A freeze that times out terminates the connection. A closed admin queue tears its controller down. KATO expiry tears the
controller down at its time. Rests on 12_host_queues.md, 13_network_time.md. -/
def Obligations.ConnectionEventResult : Prop :=
  (∀ (s : State) (n port : Nat) (v6 : Bool), s.niu.linkUp = true → conn? s n = none →
    let io := regFld s 0x20 0x104 15 0
    let disc := regFld s 0x20 0x104 31 16
    (s.chip.stage = .ready → (port = io ∨ port = disc) → s.qcu.conns.length < 4096 →
      exec (.tcpSyn n port v6) s = .next (modQcu (fun q => { q with conns := smSet q.conns n (Conn.fresh (port == disc) v6) }) s)) ∧
    (s.chip.stage = .ready → port ≠ io → port ≠ disc → exec (.tcpSyn n port v6) s = .next (emit (.rst n) s)) ∧
    (s.chip.stage ≠ .ready → s.msp.recovery = false → exec (.tcpSyn n port v6) s = .next (emit (.rst n) s)) ∧
    (s.chip.stage = .ready → (port = io ∨ port = disc) → 4096 ≤ s.qcu.conns.length →
      let u := cntAdd 0x20 0x850 1 (emit (.rst n) s)
      ((∀ t, s.qcu.lastRefused = some t → t + 1000000000 ≤ now s) →
        exec (.tcpSyn n port v6) s = .next (modQcu (fun q => { q with lastRefused := some (now u) }) (advisory 0x20 1 0x200B 0 0 u))) ∧
      ((∃ t, s.qcu.lastRefused = some t ∧ now s < t + 1000000000) → exec (.tcpSyn n port v6) s = .next u))) ∧
  (∀ (s : State) (n pfv m : Nat) (h d : Bool) (c : Conn), conn? s n = some c →
    let w := (regWord s 0x20 0x100).toNat
    let h' := h || bit w 1
    let d' := d || bit w 2
    (bit w 0 = true → c.tls = false → exec (.icreq n pfv h d m) s = .next (closeConn n 1 s)) ∧
    (bit w 0 = false ∨ c.tls = true → pfv = 0 → c.icDone = false →
      exec (.icreq n pfv h d m) s = .next (emit (.icresp n (icResp h' d')) (modConn n (fun c => { c with icDone := true, hdgst := h', ddgst := d', maxr2t := m }) s))) ∧
    (bit w 0 = false ∨ c.tls = true → pfv ≠ 0 ∨ c.icDone = true → exec (.icreq n pfv h d m) s = .next (closeConn n 1 (cntAdd 0x20 0x838 1 (emit (.term n) s))))) ∧
  (∀ (s : State) (n : Nat) (o : Hello) (c : Conn), conn? s n = some c → c.tls = false → c.icDone = false →
    let good := o.suite && o.pskKe && o.binderOk && pskKnown (touchAtoll s) o.pskId
    (good = true → exec (.clientHello n o) s = .next (emit (.tls n true) (modConn n (fun c => { c with tls := true }) (touchAtoll s)))) ∧
    (good = false → exec (.clientHello n o) s = .next (closeConn n 1 (advisory 0x20 2 0x200C 0 0 (cntAdd 0x20 0x858 1 (emit (.tls n false) (touchAtoll s))))))) ∧
  (∀ (s : State) (n : Nat) (c : Conn), conn? s n = some c → c.tls = true → exec (.keyUpdate n) s = .next (emit (.keyUpdate n) (touchAtoll s))) ∧
  (∀ (s : State) (n : Nat) (c : Conn) (t : Nat), conn? s n = some c → c.frozen = some t →
    exec (.freezeTimeout n) s = .next (terminate n (advanceMaster (t + regFld s 0x20 0x110 15 0 * 1000000) s))) ∧
  (∀ (s : State) (n : Nat) (c : Conn), conn? s n = some c →
    let v := match c.queue with
      | some (k, 0, _) => teardown k (dropConn n (logState n 2 s))
      | _ => dropConn n (logState n 2 s)
    exec (.queueReset n) s = .next v ∧ exec (.connectionClose n) s = .next v) ∧
  (∀ (s : State) (k : Nat) (c : Ctrl), smFind s.qcu.ctrls k = some c →
    exec (.katoExpired k) s = .next (teardown k (advisory 0x20 3 0x200D 0 0 (cntAdd 0x20 0x848 1 (advanceMaster (c.kaStart + c.kato * 1000000000) s)))))

/-- Command capsules and H2C data. A capsule is counted, checked for digest, format, order and identifier, and held, discarded, solicited or
run as its command; H2C data is placed where it was asked for, asks for more, or runs the command, at the interface level in force when it
was fetched, once complete; a wrong place or a bad digest is the queue error or the completion that the chapter gives. Rests on
12_host_queues.md. -/
def Obligations.CapsuleResult : Prop :=
  (∀ (s : State) (n op cid : Nat) (q : Sqe) (d : List Byte) (p : PduCheck) (c : Conn) (k i z : Nat), conn? s n = some c → c.icDone = true → c.queue = some (k, i, z) →
    let u := cntAdd 0x20 0x800 1 s
    ((c.tls = false ∨ p.tlsOk = true) → (c.hdgst = false ∨ p.hdgstOk = true) → p.formatOk = true → d.length ≤ 8192 → d.length ≤ q.sgl →
      (c.frozen ≠ none → exec (.commandCapsule n op cid q d p) s = .next (discardCapsule n u)) ∧
      (c.frozen = none → z + 1 ≤ c.outst.length → exec (.commandCapsule n op cid q d p) s = .next (queueErr n 0x2005 cid false p u)) ∧
      (c.frozen = none → c.outst.length < z + 1 → (∃ o ∈ c.outst, o.cid = cid) → exec (.commandCapsule n op cid q d p) s = .next (queueErr n 0x2006 cid false p u)) ∧
      (c.frozen = none → c.outst.length < z + 1 → (∀ o ∈ c.outst, o.cid ≠ cid) →
        (d.length < q.sgl → accepted op ⟨n, cid⟩ q u = true → exec (.commandCapsule n op cid q d p) s = .next (awaitData op ⟨n, cid⟩ q d u)) ∧
        (d.length = q.sgl ∨ accepted op ⟨n, cid⟩ q u = false → i = 0 → exec (.commandCapsule n op cid q d p) s = adminCommand op ⟨n, cid⟩ q d u) ∧
        (d.length = q.sgl ∨ accepted op ⟨n, cid⟩ q u = false → i ≠ 0 → exec (.commandCapsule n op cid q d p) s = ioCommand op ⟨n, cid⟩ q d u))) ∧
    (c.tls = true → p.tlsOk = false → exec (.commandCapsule n op cid q d p) s = .next (queueErr n 0x200A 0xFFFF true p s)) ∧
    ((c.tls = false ∨ p.tlsOk = true) → c.hdgst = true → p.hdgstOk = false → exec (.commandCapsule n op cid q d p) s = .next (queueErr n 0x2008 0xFFFF true p s)) ∧
    ((c.tls = false ∨ p.tlsOk = true) → (c.hdgst = false ∨ p.hdgstOk = true) → p.formatOk = false ∨ 8192 < d.length ∨ q.sgl < d.length →
      exec (.commandCapsule n op cid q d p) s = .next (queueErr n 0x2009 0xFFFF true p s))) ∧
  (∀ (s : State) (n cid off : Nat) (d : List Byte) (p : PduCheck) (dig : Bool) (c : Conn), conn? s n = some c → c.icDone = true →
    (c.tls = false ∨ p.tlsOk = true) → (c.hdgst = false ∨ p.hdgstOk = true) → p.formatOk = true → d.length ≤ 262144 →
    ((∀ o, c.outst.find? (fun o => o.cid == cid) = some o → ∀ e, (off, e) ∉ o.r2ts) → exec (.h2cData n cid off d p dig) s = .next (queueErr n 0x2007 cid false p s)) ∧
    (∀ o r, c.outst.find? (fun o => o.cid == cid) = some o → o.r2ts.find? (fun r => r.1 == off) = some r →
      (r.2 < off + d.length → exec (.h2cData n cid off d p dig) s = .next (queueErr n 0x2007 cid false p s)) ∧
      (off + d.length ≤ r.2 → (c.ddgst = true ∧ dig = false) →
        exec (.h2cData n cid off d p dig) s = .next (complete (if onAdmin s ⟨n, cid⟩ then .admin else if o.op < 0x80 then .nvm else .bcs) ⟨n, cid⟩ ⟨0, 0x22⟩ 0 0 [] (cntAdd 0x20 0x828 1 s))) ∧
      (off + d.length ≤ r.2 → (c.ddgst = false ∨ dig = true) →
        let o' := placeData off d o
        let u := modConn n (fun c => { c with outst := c.outst.map fun x => if x.cid == cid then o' else x }) s
        (o'.need ≠ 0 → exec (.h2cData n cid off d p dig) s = .next (solicit n cid (c.maxr2t + 1 - o'.r2ts.length) u)) ∧
        (o'.need = 0 → o.level1 = s.chip.level1 → exec (.h2cData n cid off d p dig) s = runCommand o.op ⟨n, cid⟩ o.sqe o'.data u) ∧
        (o'.need = 0 → o.level1 ≠ s.chip.level1 → ∃ v, runCommand o.op ⟨n, cid⟩ o.sqe o'.data (modChip (fun c => { c with level1 := o.level1 }) u) = .next v ∧
          exec (.h2cData n cid off d p dig) s = .next (modChip (fun c => { c with level1 := s.chip.level1 }) v)))))

/-- Stage fetch, page demotion and fetch, object refetch. A stage fetch fills the half or quarantines; a demotion moves the page to flash, or
stays where media is read-only; a page fetch stores the page in its slot; an uncorrectable burst or word of an immutable object is
refetched. Rests on 03_serving_chart.md, 09_memory_tiers.md. -/
def Obligations.MemoryTierEventResult : Prop :=
  (∀ (s : State) (n layer h : Nat) (c : Ctx), ctx? s n = some c → halfFor c layer = some h → ringEntries c layer ≠ [] → (c.step = none → ∃ x, c.halves[h]? = some x ∧ x.layer ≠ none) →
    (∀ i u, stageEntries c h (ringEntries c layer) s = (some i, u) → exec (.stageFetch n layer) s = .next (quarantine n i u)) ∧
    (∀ u x, stageEntries c h (ringEntries c layer) s = (none, u) → c.halves[h]? = some x →
      let v := if c.staged.contains layer ∧ x.next = false then ctxCnt n 0xA0 0x920 1 u else u
      exec (.stageFetch n layer) s = .next (cntAdd 0xA0 0x808 (layerBytes c layer) (modCtx n (fun c => { c with
        halves := c.halves.set h { layer := some layer, ready := true, next := x.next, due := false }, staged := if x.next then c.staged else c.staged ++ [layer] }) v)))) ∧
  (∀ (s : State) (n sq layer page : Nat) (c : Ctx) (q : Seq) (p : CachePage), ctx? s n = some c → smFind c.seqs sq = some q → smFind q.pages (pageKey layer page) = some p →
    (∀ k, p.at_ = .demoting k → s.ftl.readOnly = false →
      exec (.demoteComplete n sq layer page) s = .next (ctxCnt n 0xA0 0x928 1 (cntAdd 0xA0 0x810 1 (modPage n sq (pageKey layer page)
        (fun p => { p with at_ := .absent (pageData s c k), poisoned := p.poisoned || (pageBursts c k).any fun b => burstRd s b == .bad }) s)))) ∧
    (∀ k, p.at_ = .demoting k → s.ftl.readOnly = true → exec (.demoteComplete n sq layer page) s = .next (modPage n sq (pageKey layer page) (fun p => { p with at_ := .slot k }) s)) ∧
    (∀ k d, p.at_ = .fetching k d → p.poisoned = false →
      exec (.pageFetchComplete n sq layer page) s = .next (cntAdd 0xA0 0x818 1 (modPage n sq (pageKey layer page) (fun p => { p with at_ := .slot k })
        (storeLayout c (segFuel c.pkg.pageBytes) (slotOff c k) (d.take c.pkg.pageBytes) s))))) ∧
  (∀ (s : State) (a : Nat) (o : ObjAt), a < 2 ^ 39 → burstRd s (a / 64) = .bad → objOfPhys s (a / 64 * 64) = some o →
    exec (.objRefetched a) s = .next (refetch o (fun b => xmStore (a / 64 * 64) b) s)) ∧
  (∀ (s : State) (a : Nat) (o : ObjAt), let b := a / 64 * 64
    objOfSpad s b = some o → (∃ i < 8, secded (b / 8 + i) (owErr s ⟨none, b / 8 + i⟩) = .bad) →
    exec (.objRefetched (2 ^ 39 + a)) s = .next (refetch o (fun d s => ocmStore none b d (ocmClearErr none b 64 s)) s))

/-- Flash reads, programs, erases, failures, drains, checkpoints and collection. A read records its quality, counts corrections and schedules
a rewrite over the limit. A program commits its units, and a commit whose entry has moved leaves the map. An erase frees or retires the
superblock. A lost channel retires its dies. Drain, checkpoint, background and foreground collection and the SLC fold do the work of their
rules where their conditions hold. Rests on 11_flash_media.md. -/
def Obligations.FlashEventResult : Prop :=
  ((∀ (s : State) (u : Nat) (r : ReadOut) (f : FUnit), smFind s.ftl.units u = some f →
     let a := if r.suspends then suspendDie (uSb u) (uSlot u) s else s
     let b := modFtl (fun x => { x with qual := smPut 0 x.qual u (if smGet 0 a.ftl.qual u = 3 then 3 else if r.hardOk then 0 else if r.softOk then 1 else 2) }) a
     let c := cntAdd (mtePage u) 0x828 r.corrected (levelReports (dieOf (uSb u) (uSlot u)) (ageClass b (uSb u)) (mtePage u) r b)
     let d := if regFld c 0xD0 0x124 6 0 * 240 < r.corrected * 100 then schedRewrite u c else c
     exec (.flashReadComplete u r) s = .next (goRuns (unitRead u d).2)) ∧
   (∀ (s : State) (sb wl : Nat), firstWl s sb = some wl →
     let mine := s.ftl.progs.filter fun p => p.sb == sb && uWl p.unit == wl
     let a := modFtl (fun x => { x with progs := x.progs.filter fun p => !(p.sb == sb && uWl p.unit == wl) }) s
     let b := countDies sb 0x808 (modSb sb (fun b => { b with used := max b.used ((wl + 1) * wlUnits b.slc) }) a)
     (sbOf (closeFull sb (mine.foldl (fun s p => commitProg p s) b)) sb).st ≠ .retiring →
     exec (.programComplete sb ⟨[], true⟩) s = .next (admitWrites (settleThrough (goRuns (closeFull sb (mine.foldl (fun s p => commitProg p s) b)))))) ∧
   (∀ (s : State) (p : Prog), mapGet s p.idx ≠ p.expect → (commitProg p s).ftl.map = s.ftl.map) ∧
   (∀ (s : State) (sb : Nat), (sbOf s sb).st = .erasing →
     let n := (sbOf s sb).erases + 1
     let a := modFtl (fun x => { x with units := x.units.filter fun e => uSb e.1 != sb, qual := x.qual.filter fun e => uSb e.1 != sb, suspends := (List.range 32).foldl (fun m j => smDel m (dieOf sb j)) x.suspends }) s
     let b := countDies sb 0x810 (modSb sb (fun b => { b with st := .free, slc := false, used := 0, closedT := 0, order := 0, erases := n }) a)
     (n < regFld b 0xD0 0x128 11 0 → exec (.eraseComplete sb ⟨[], true⟩) s = .next (admitWrites (freeRose b))) ∧
     (regFld b 0xD0 0x128 11 0 ≤ n → exec (.eraseComplete sb ⟨[], true⟩) s = .next (admitWrites (freeRose (retireSb sb b))))) ∧
   (∀ (s : State) (ch : Nat), ch < 64 → ch ∉ s.ftl.downChannels →
     exec (.channelStopsResponding ch) s = .next (goRuns ((List.range 16).foldl (fun s i => retireDie (ch * 16 + i) s) (modFtl (fun x => { x with downChannels := x.downChannels ++ [ch] }) s)))) ∧
   (∀ (s : State) (p : Path) (g : Nat) (w : Word), g < 16 → Reaches s p (0xC0 + g) 0x12C → bit w.toNat 0 = true →
     exec (.mteDiagGo p (0xC0 + g) w) s = .next (diagDecode g ((regWord s (0xC0 + g) 0x124).toNat + 2 ^ 32 * regFld s (0xC0 + g) 0x128 1 0) s))) ∧
  (∀ (s : State), s.pwr.flush = none →
     (∀ n, exec (.writeBufferDrain n) s = .next (((drainOrder s).take n).foldl (fun s e => drainSlot e s) (goRuns s))) ∧
     (∀ g, exec (.mapCheckpoint g) s = .next (modFtl (fun x => { x with dirty := x.dirty.filter (· != g), journal := x.journal.filter fun j => segOf j.idx != g || smGet 0 x.map j.idx / 2 ^ 34 == 3 }) s)) ∧
     (s.ftl.foreground = false → mteIdle s = true → gcRun s = none →
       (∀ n, gcVictim (fun n k => decide (k * 10 < sbCap (sbOf s n).slc * 9)) s = some n → sbFree s < regFld s 0xD0 0x120 31 16 →
         exec .backgroundGc s = .next (goRuns (beginRun n 1 none (modFtl (fun x => { x with background := true }) s)))) ∧
       (∀ n, gcVictim (fun n k => decide (k * 10 < sbCap (sbOf s n).slc * 9)) s = some n → regFld s 0xD0 0x120 31 16 ≤ sbFree s →
         exec .backgroundGc s = .next (modFtl (fun x => { x with background := false }) s)) ∧
       (gcVictim (fun n k => decide (k * 10 < sbCap (sbOf s n).slc * 9)) s = none → exec .backgroundGc s = .next (modFtl (fun x => { x with background := false }) s))) ∧
     (s.ftl.foreground = false → sbFree s < gcLw s →
       let a := advisory 0xD0 0 0xD001 0 0 (modFtl (fun x => { x with foreground := true, background := false, credit := 0 }) s)
       (∀ n, gcRun a = none → gcVictim (hasInvalid a) a = some n → exec .foregroundGc s = .next (admitWrites (goRuns (beginRun n 1 none a)))) ∧
       (gcRun a ≠ none → exec .foregroundGc s = .next (admitWrites (goRuns a)))) ∧
     (s.ftl.foreground = false → gcLw s ≤ sbFree s → exec .foregroundGc s = .next s) ∧
     (∀ n, mteIdle s = true ∨ hostSlc s = false → oldestSlc s = some n → exec .slcFold s = .next (goRuns (beginRun n 2 none s))))

/-- Link enable, auto-negotiation, link up and down, FEC and addresses. Each event has the effect of its rule on the link state, counters,
advisories and connections; an address that changes closes the connections of its family, and a gateway address forgets the gateway. Rests
on 13_network_time.md. -/
def Obligations.PortLinkResult : Prop :=
  (∀ (s : State) (p : Path) (w : Word), Reaches s p 0x10 0x100 →
    let u := storeRw 0x10 0x100 w s
    (linkEn s = false → s.niu.linkUp = false → linkEn u = true → exec (.linkEnWrite p w) s = .next (modNiu (fun x => { x with anSince := some (now u) }) u)) ∧
    (linkEn s = true → linkEn u = true → exec (.linkEnWrite p w) s = .next u) ∧
    (s.niu.linkUp = true → linkEn u = false → exec (.linkEnWrite p w) s = .next (goDown u)) ∧
    (s.niu.linkUp = false → linkEn u = false → exec (.linkEnWrite p w) s = .next (modNiu (fun x => { x with anSince := none }) u))) ∧
  (∀ (s : State) (t : Nat), s.niu.anSince = some t →
    let u := advanceMaster (t + 1000000000) s
    exec .autoNegotiationTimeout s = .next (modNiu (fun x => { x with anSince := some (now u) }) u) ∧
    (linkEn s = true → s.niu.linkUp = false →
      exec .linkUp s = .next (modChip (fun c => { c with pll := c.pll % 16 + 16 }) (modNiu (fun x => { x with linkUp := true, laneLock := 15, anSince := none }) s)))) ∧
  (∀ (s : State), s.niu.linkUp = true →
    let v := cntAdd 0x10 0x878 1 (cntAdd 0x10 0x860 (txHeld s) s)
    let u := advisory 0x10 0 0x1001 0 0 (modChip (fun c => { c with pll := c.pll % 16 })
      (modNiu (fun x => { x with linkUp := false, laneLock := 0, txq := [], anSince := if linkEn v then some (now v) else none }) v))
    (regFld u 0x11 0x100 1 0 = 0 → u.sext.haveRef = true → exec .linkDown s = .next (refLost u)) ∧
    (regFld u 0x11 0x100 1 0 ≠ 0 ∨ u.sext.haveRef = false → exec .linkDown s = .next u)) ∧
  (∀ (s : State) (fixed errs : Nat), s.niu.linkUp = true →
    let u := cntAdd 0x10 0x830 errs (cntAdd 0x10 0x828 fixed s)
    let lim := regFld u 0x10 0x17C 15 0
    (lim ≤ errs → s.niu.fecDegraded = false → exec (.fecWindow fixed errs) s = .next (advisory 0x10 1 0x1002 0 0 (modNiu (fun x => { x with fecDegraded := true }) u))) ∧
    (errs < lim → exec (.fecWindow fixed errs) s = .next (modNiu (fun x => { x with fecDegraded := false }) u))) ∧
  (∀ (s : State) (p : Path) (off : Nat) (w : Word), Reaches s p 0x10 off →
    let u := storeRw 0x10 off w s
    (off = 0x11C ∨ off ∈ [0x130, 0x134, 0x138, 0x13C] → regWord u 0x10 off ≠ regWord s 0x10 off →
      exec (.ipAddressWrite p off w) s = .next (((u.qcu.conns.filter fun e => e.2.v6 == decide (0x130 ≤ off)).map Prod.fst).foldl (fun s n => closeConn n 1 (emit (.rst n) s)) u)) ∧
    (off = 0x124 ∨ off ∈ [0x150, 0x154, 0x158, 0x15C] → regWord u 0x10 off ≠ regWord s 0x10 off → exec (.ipAddressWrite p off w) s = .next (modNiu (fun x => { x with gateway := none }) u)) ∧
    (off = 0x120 ∨ off = 0x140 → exec (.ipAddressWrite p off w) s = .next u) ∧
    (off ∈ ipOffs → regWord u 0x10 off = regWord s 0x10 off → exec (.ipAddressWrite p off w) s = .next u))

/-- Frames, priority flow control, pointers, ARP, ICMP and timeouts. A good frame for the module is queued or dropped by space with its
advisory, pausing its priority below the threshold; PFC and pause frames, pointer faults (the fourth within a second FATAL), ARP and echo
answers, gateway refresh, unresolved and retransmit timeouts act as their rules say. Frame layouts of ARP, ICMP and PFC are PRESUMED (log
entry 25). Rests on 13_network_time.md. -/
def Obligations.PortFrameResult : Prop :=
  (∀ (s : State) (f : Frame), s.niu.linkUp = true → f.prio < 8 →
    let u := cntAdd 0x10 0x810 f.len (cntAdd 0x10 0x800 1 s)
    let need := (f.len + 63) / 64
    let v := modNiu (fun x => { x with rxq := smSet x.rxq f.prio (smGet [] x.rxq f.prio ++ [f]) }) u
    (f.len < 64 ∨ 9216 < f.len ∨ f.fcsOk = false → exec (.frameReceive f) s = .next (cntAdd 0x10 0x820 1 s)) ∧
    (64 ≤ f.len → f.len ≤ 9216 → f.fcsOk = true →
      (f.toUs = false → exec (.frameReceive f) s = .next u) ∧
      (f.toUs = true → rxFree u f.prio < need → exec (.frameReceive f) s = .next (advisory 0x10 2 0x1003 0 0 (cntAdd 0x10 0x850 1 u))) ∧
      (f.toUs = true → need ≤ rxFree u f.prio → 2048 ≤ rxFree v f.prio → exec (.frameReceive f) s = .next v) ∧
      (f.toUs = true → need ≤ rxFree u f.prio → rxFree v f.prio < 2048 → bit (regWord v 0x10 0x160).toNat f.prio = true → f.prio ∉ v.niu.xoff →
        exec (.frameReceive f) s = .next (sendPfc f.prio 0xFFFF (modNiu (fun x => { x with xoff := x.xoff ++ [f.prio] }) v))))) ∧
  (∀ (s : State) (p : Nat), p ∈ s.niu.xoff →
    (rxFree s p < 4096 → exec (.pfcRepeat p) s = .next (sendPfc p 0xFFFF s)) ∧
    (4096 ≤ rxFree s p → exec (.pfcRepeat p) s = .next (sendPfc p 0 (modNiu (fun x => { x with xoff := x.xoff.filter (· != p) }) s)))) ∧
  (∀ (s : State) (p q : Nat), s.niu.linkUp = true → p < 8 →
    let u := cntAdd 0x10 0x840 1 (cntAdd 0x10 0x810 64 (cntAdd 0x10 0x800 1 s))
    (q ≠ 0 → exec (.pfcFrame p q) s = .next (modNiu (fun x => { x with paused := smSet x.paused p (now u + (64 * q + 99) / 100) }) u)) ∧
    (q = 0 → exec (.pfcFrame p q) s = .next (drainTx p (modNiu (fun x => { x with paused := smDel x.paused p }) u)))) ∧
  (∀ (s : State) (p t : Nat), smFind s.niu.paused p = some t →
    exec (.pfcPauseExpiry p) s = .next (drainTx p (modNiu (fun x => { x with paused := smDel x.paused p }) (advanceMaster t s)))) ∧
  (∀ (s : State), s.niu.linkUp = true →
    exec .pauseFrame s = .next (cntAdd 0x10 0x848 1 (cntAdd 0x10 0x810 64 (cntAdd 0x10 0x800 1 s))) ∧
    exec .txUnderrun s = .next (advisory 0x10 3 0x1004 0 0 (cntAdd 0x10 0x858 1 s))) ∧
  (∀ (s : State) (rx : Bool) (p : Nat), p < 8 →
    let k := if rx then p else 8 + p
    let old := (smGet [] s.niu.ptrFaults k).filter fun t => now s < t + 1000000000
    let u := advisory 0x10 4 0x1005 0 0 (cntAdd 0x10 0x868 1 (modNiu (fun x => { x with
      rxq := if rx then smDel x.rxq p else x.rxq, txq := if rx then x.txq else smDel x.txq p, ptrFaults := smSet x.ptrFaults k (old ++ [now s]) }) s))
    (old.length < 3 → exec (.xqPtrFault rx p) s = .next u) ∧
    (3 ≤ old.length → exec (.xqPtrFault rx p) s = .next (raiseFatal 0x1006 0x10 (some 5) 0 0 u))) ∧
  (∀ (s : State) (f : Frame), s.niu.linkUp = true → 64 ≤ f.len → f.len ≤ 9216 → f.fcsOk = true → f.toUs = true →
    let u := cntAdd 0x10 0x810 f.len (cntAdd 0x10 0x800 1 s)
    (∀ b, arpAnswer u f.data = some b → exec (.arpRequest f) s = .next (sendFrame b u)) ∧
    (∀ b, echoAnswer u f.data = some b → exec (.icmpEcho f) s = .next (sendFrame b u)) ∧
    (echoAnswer u f.data = none → exec (.icmpEcho f) s = .next (cntAdd 0x10 0x870 1 u))) ∧
  (∀ (s : State), s.niu.linkUp = true → hasGateway s = true →
    let u := sendFrame (gatewayAsk s) s
    exec .gatewayRefresh s = .next (u.niu.unresolved.foldl (fun s e => sendOn (pcpStrait s) e.2 (outLen e.2) s) (modNiu (fun x => { x with gateway := some (now u), unresolved := [] }) u))) ∧
  (∀ (s : State) (t : Nat) (m : OutMsg) (l : List (Nat × OutMsg)), s.niu.unresolved = (t, m) :: l →
    exec .unresolvedTimeout s = .next (cntAdd 0x10 0x870 1 (modNiu (fun x => { x with unresolved := l }) (advanceMaster (t + 1000000000) s)))) ∧
  (∀ (s : State) (n : Nat) (c : Conn), conn? s n = some c →
    exec (.tcpRetransmitTimeout n) s = .next (modNiu (fun x => { x with rto := smSet x.rto n (min 64000 (2 * smGet 1000 x.rto n)) }) s))

/-- PTP messages, loss of reference, holdover and LOST. Messages of another domain only count. Sync, Follow_Up, Delay_Resp and Announce in the
domain update the exchange, the delay, the grandmaster, and give measurements; Delay_Req is sent; loss, holdover and LOST follow at their
times. Rests on 13_network_time.md. -/
def Obligations.PtpMessageResult : Prop :=
  (∀ (s : State) (m : PtpMsg), s.niu.linkUp = true → sxSource s = 0 → m.domain ≠ regFld s 0x10 0x174 7 0 →
    let v : Res := .next (cntAdd 0x11 0x810 1 s)
    exec (.ptpSync m) s = v ∧ exec (.ptpFollowUp m) s = v ∧ exec (.ptpDelayResp m) s = v ∧ exec (.ptpAnnounce m) s = v) ∧
  (∀ (s : State) (m : PtpMsg), s.niu.linkUp = true → sxSource s = 0 → m.domain = regFld s 0x10 0x174 7 0 →
    let done (t1 t2 : Int) (s : State) : State :=
      let u := cntAdd 0x11 0x800 1 (modSext (fun x => { x with t1t2 := some (t1, t2), sync := none }) s)
      if u.sext.haveRef then measure (t2 - t1 - u.sext.pathDelay - ptpAsym u) (refPresent u) else u
    let t2 : Int := (m.local_ : Int) - latRx
    let u := modSext (fun x => { x with syncInterval := m.interval }) s
    (m.interval < -7 ∨ 1 < m.interval → exec (.ptpSync m) s = .next (cntAdd 0x11 0x810 1 s)) ∧
    (-7 ≤ m.interval → m.interval ≤ 1 → m.gm = s.sext.gm → m.twoStep = true → exec (.ptpSync m) s = .next (modSext (fun x => { x with sync := some (m.seqId, t2 - m.corr) }) u)) ∧
    (-7 ≤ m.interval → m.interval ≤ 1 → m.gm = s.sext.gm → m.twoStep = false → exec (.ptpSync m) s = .next (done ((m.stamp : Int) + m.corr) t2 u)) ∧
    (∀ t2, s.sext.sync = some (m.seqId, t2) → m.gm = s.sext.gm → exec (.ptpFollowUp m) s = .next (done ((m.stamp : Int) + m.corr) t2 s)) ∧
    (∀ (t1 t2 : Int) t3, s.sext.t3 = some t3 → s.sext.t1t2 = some (t1, t2) → m.seqId = s.sext.delaySeq → m.gm = s.sext.gm →
      let d := ((t2 - t1) + ((m.stamp : Int) - m.corr - (t3 : Int))) / 2
      let v := refPresent (modSext (fun x => { x with pathDelay := d, t3 := none, delayInterval := m.interval }) s)
      exec (.ptpDelayResp m) s = .next (if s.sext.haveRef then v else measure (t2 - t1 - d - ptpAsym v) v)) ∧
    (∀ l b, l = (if s.sext.foreign.any fun x => x.gm == m.gm then s.sext.foreign.map fun x => if x.gm = m.gm then ⟨m.gm, m.rank⟩ else x
        else if s.sext.foreign.length < 8 then s.sext.foreign ++ [⟨m.gm, m.rank⟩] else s.sext.foreign) → bestMaster l = some b →
      exec (.ptpAnnounce m) s = .next (if b.gm = s.sext.gm then modSext (fun x => { x with foreign := l }) s
        else advisory 0x11 4 0x1105 0 0 (modSext (fun x => { x with gm := b.gm, sync := none, t1t2 := none, t3 := none }) (modSext (fun x => { x with foreign := l }) s)))) ∧
    (s.sext.gm ≠ 0 →
      let n := (s.sext.delaySeq + 1) % 65536
      exec .delayReqSend s = .next (cntAdd 0x11 0x808 1 (sendOn (pcpPtp s) (.frame (delayReq m.domain n)) 90 (modSext (fun x => { x with delaySeq := n, t3 := some (((now s : Int) + latTx).toNat) }) s))))) ∧
  (∀ (s : State), s.sext.haveRef = true ∨ s.sext.st = .acquiring → exec .referenceLost s = .next (refLost s)) ∧
  (∀ (s : State) (t : Nat), s.sext.lossT = some t →
    (s.sext.st = .coast → exec .holdover s = .next (advisory 0x11 1 0x1102 0 0 (sextTo .holdover (advanceMaster (t + 60000000000) s)))) ∧
    (s.sext.st = .holdover → exec .lost s = .next (advisory 0x11 2 0x1103 0 0 (sextTo .lost (cntAdd 0x11 0x838 1 (advanceMaster (t + 600000000000) s))))))

/-- The Sextant's states, PPS input and output, time of day and source. A measured offset steps or slews by state, and locks after the good
ones the rule asks for; a PPS edge is used, rejected or after three rejections restarts acquisition; the PPS output pulse rises at the
next second and falls after its width; time of day is armed; a change of source acquires or frees the Sextant. Rests on
13_network_time.md. -/
def Obligations.SextantResult : Prop :=
  (∀ (s : State) (o : Int), 
    let u := modSext (fun x => { x with offset := o }) s
    let small : Prop := o.natAbs < stepNs u
    (s.sext.st = .coast ∨ s.sext.st = .holdover → (small → measure o s = slewTime o (sextTo .locked u)) ∧ (¬small → measure o s = stepTime o (sextTo .acquiring u))) ∧
    (s.sext.st = .locked → small → measure o s = slewTime o (modSext (fun x => { x with big := 0 }) u)) ∧
    (s.sext.st = .locked → ¬small → s.sext.big < 2 → measure o s = modSext (fun x => { x with big := x.big + 1 }) u) ∧
    (s.sext.st = .locked → ¬small → 2 ≤ s.sext.big → measure o s = stepTime o (sextTo .acquiring u)) ∧
    (s.sext.st = .acquiring → ¬small → measure o s = stepTime o (modSext (fun x => { x with good := 0 }) u)) ∧
    (s.sext.st = .acquiring → small → 100 < o.natAbs → measure o s = slewTime o (modSext (fun x => { x with good := 0 }) u)) ∧
    (s.sext.st = .acquiring → small → o.natAbs ≤ 100 → s.sext.good < 15 → measure o s = slewTime o (modSext (fun x => { x with good := x.good + 1 }) u)) ∧
    (s.sext.st = .acquiring → small → o.natAbs ≤ 100 → 15 ≤ s.sext.good → measure o s = sextTo .locked (slewTime o (modSext (fun x => { x with good := x.good + 1 }) u)))) ∧
  (∀ (s : State) (t : Nat), sxSource s = 1 →
    let u := advanceMaster t s
    let sec := edgeSecond t u
    let o : Int := (t : Int) - (sec * secNs : Nat)
    let rej := advisory 0x11 3 0x1104 0 0 (cntAdd 0x11 0x828 1 (modSext (fun x => { x with ppsRej := x.ppsRej + 1 }) u))
    (u.sext.st ≠ .locked ∨ o.natAbs ≤ 1000 →
      exec (.ppsInEdge t) s = .next (measure o (refPresent (cntAdd 0x11 0x820 1 (modSext (fun x => { x with ppsLast := some t, ppsRej := 0, todSec := sec, todArmed := false }) u))))) ∧
    (u.sext.st = .locked → 1000 < o.natAbs → rej.sext.ppsRej < 3 → exec (.ppsInEdge t) s = .next rej) ∧
    (u.sext.st = .locked → 1000 < o.natAbs → 3 ≤ rej.sext.ppsRej → exec (.ppsInEdge t) s = .next (measure o (measure o (measure o (modSext (fun x => { x with ppsRej := 0, big := 0 }) rej)))))) ∧
  (∀ (s : State), s.sext.ppsOut = false →
    let t0 := cdiv (now s) secNs * secNs
    let t := if t0 = s.sext.ppsRise ∧ t0 ≠ 0 then t0 + secNs else t0
    let u := advanceMaster t s
    (ppsOutOn u = true → exec .ppsOutPulse s = .next (emit (.pps true) (modSext (fun x => { x with ppsOut := true, ppsRise := t }) u))) ∧
    (ppsOutOn u = false → exec .ppsOutPulse s = .next u)) ∧
  (∀ (s : State), s.sext.ppsOut = true →
    exec .ppsOutPulseEnd s = .next (emit (.pps false) (modSext (fun x => { x with ppsOut := false }) (advanceMaster (s.sext.ppsRise + regFld s 0x11 0x124 18 0 * 1000) s)))) ∧
  (∀ (s : State) (p : Path) (w : Word), Reaches s p 0x11 0x120 → exec (.todSecWrite p w) s = .next (modSext (fun x => { x with todArmed := true, todSet := true }) (storeRw 0x11 0x120 w s))) ∧
  (∀ (s : State) (p : Path) (w : Word), Reaches s p 0x11 0x100 →
    let u := storeRw 0x11 0x100 w s
    let v := modSext (fun x => { x with haveRef := false, sync := none, t1t2 := none, t3 := none, good := 0, big := 0, ppsRej := 0, ppsLast := none }) u
    (sxSource u = sxSource s → exec (.sourceWrite p w) s = .next u) ∧
    (sxSource u ≠ sxSource s → sxSource v = 2 → exec (.sourceWrite p w) s = .next (sextTo .freerun v)) ∧
    (sxSource u ≠ sxSource s → sxSource v ≠ 2 → v.chip.stage = .ready → exec (.sourceWrite p w) s = .next (sextTo .acquiring v)))

/-- Strait segments, acknowledgement, resend, member and group commands. A segment to another port, with Strait off, malformed or from no
member only counts; one in order is accepted, one before is acknowledged again, one ahead is dropped, DATA over the buffer is refused. The
acknowledgement timer, resends and DOWN, staleness, SYNC, held message expiry, member, group and port registers act as their rules say.
Rests on 13_network_time.md. -/
def Obligations.StraitResult : Prop :=
  (∀ (s : State) (m : StraitMsg), s.niu.linkUp = true →
     let all (r : Res) : Prop := exec (.dataMessage m) s = r ∧ exec (.queryMessage m) s = r ∧ exec (.resultMessage m) s = r ∧
       exec (.ackMessage m) s = r ∧ exec (.syncMessage m) s = r ∧ exec (.syncReplyMessage m) s = r
     let own (k : Nat) (r : Res) : Prop := (k = 1 → exec (.dataMessage m) s = r) ∧ (k = 2 → exec (.queryMessage m) s = r) ∧
       (k = 3 → exec (.resultMessage m) s = r) ∧ (k = 4 → exec (.ackMessage m) s = r) ∧ (k = 5 → exec (.syncMessage m) s = r) ∧ (k = 6 → exec (.syncReplyMessage m) s = r)
     (m.port ≠ straitPort s → all (.next (cntAdd 0x10 0x870 1 s))) ∧
     (m.port = straitPort s → straitOn s = false → all (.next (cntAdd 0x12 0x820 1 s))) ∧
     (m.port = straitPort s → straitOn s = true → parseSeg s m.data = none → all (.next (cntAdd 0x12 0x820 1 s))) ∧
     (∀ g, m.port = straitPort s → straitOn s = true → parseSeg s m.data = some g → senderSlot s m g = none → all (.next (cntAdd 0x12 0x820 1 s))) ∧
     (∀ g n, m.port = straitPort s → straitOn s = true → parseSeg s m.data = some g → senderSlot s m g = some n →
       let u := newSession n g.src g.session s
       let v := if bit g.flags 0 then takeAck n g.src g.ack u else u
       let want := (member v n g.src).rxSeq
       (g.type = 4 → exec (.ackMessage m) s = .next v) ∧
       (g.type ≠ 4 → g.seq = want → g.type = 1 → 33554432 < bufBytes v + g.pay.length → exec (.dataMessage m) s = .next (bufFull v)) ∧
       (g.type ≠ 4 → g.seq = want → (g.type = 1 → bufBytes v + g.pay.length ≤ 33554432) → own g.type (.next (acceptSeg n g v))) ∧
       (g.type ≠ 4 → g.seq ≠ want → seqBefore g.seq want = true → own g.type (.next (cntAdd 0x12 0x818 1 (modMember n g.src (fun b => { b with ackDue := max 1 b.ackDue }) v)))) ∧
       (g.type ≠ 4 → g.seq ≠ want → seqBefore g.seq want = false → own g.type (.next v)))) ∧
  ((∀ (s : State) (n m : Nat), (member s n m).ackDue ≠ 0 → exec (.straitAckTimer n m) s = .next (sendAck n m s)) ∧
   (∀ (s : State) (n m : Nat), (member s n m).unacked ≠ [] →
     let mb := member s n m
     let u := mb.unacked.foldl (fun s g => cntAdd 0x12 0x810 1 (sendSeg mb.ipv6 mb.addr (resendBytes s n m g.bytes) s)) (modMember n m (fun b => { b with retries := b.retries + 1, rto := 2 * b.rto, ackDue := 0 }) s)
     (mb.retries + 1 < regFld u 0x12 0x10C 19 16 → exec (.straitRetransmit n m) s = .next u) ∧
     (regFld u 0x12 0x10C 19 16 ≤ mb.retries + 1 →
       exec (.straitRetransmit n m) s = .next (dropMsgs n m (outOfStep n m (fun b => { b with down := true }) (advisory 0x12 0 0x1202 0 0 (cntAdd 0x12 0x848 1 u)))))) ∧
   (∀ (s : State) (n m t : Nat), (member s n m).reply = some t →
     exec (.memberStale n m) s = .next (outOfStep n m (fun b => { b with stale := true }) (advanceMaster (t + 3000000 * regFld s 0x12 0x110 15 0) s))) ∧
   (∀ s : State, exec .syncInterval s = .next (syncAll s)) ∧
   (∀ (s : State) (k : Nat) (h : HeldMsg), s.strait.held[k]? = some h →
     exec (.heldMessageExpiry k) s = .next (cntAdd 0x12 0x830 1 (modStrait (fun x => { x with held := x.held.eraseIdx k }) (advanceMaster (h.since + 1000000 * regFld s 0x12 0x114 15 0) s)))) ∧
   (∀ (s : State) (p : Path) (w : Word), Reaches s p 0x12 0x130 →
     let n := selGrp s
     let m := selMem s
     let b := member s n m
     (b.valid = bit w.toNat 0 → b.ipv6 = bit w.toNat 1 → b.addr = b.addrNext → exec (.straitMemCfgWrite p 0x130 w) s = .next s) ∧
     (b.valid ≠ bit w.toNat 0 ∨ b.ipv6 ≠ bit w.toNat 1 ∨ b.addr ≠ b.addrNext →
       exec (.straitMemCfgWrite p 0x130 w) s = .next (modMember n m (fun b => { Member.reset with valid := bit w.toNat 0, ipv6 := bit w.toNat 1, addr := b.addrNext, addrNext := b.addrNext })
         (outOfStep n m id (dropMsgs n m (if b.part.isEmpty then s else sendFailed none s)))))) ∧
   (∀ (s : State) (p : Path) (i : Nat) (w : Word), i < 4 → Reaches s p 0x12 (0x134 + 4 * i) →
     exec (.straitMemCfgWrite p (0x134 + 4 * i) w) s = .next (modMember (selGrp s) (selMem s) (fun b => { b with addrNext := putWord4 b.addrNext i w }) s)) ∧
   (∀ (s : State) (p : Path) (w : Word), Reaches s p 0x12 0x124 →
     let n := selGrp s
     let g := bits w.toNat 15 0
     let old := (grpSlot s n).group
     (g ≠ 0 → (∀ e ∈ s.strait.slots, e.1 ≠ n → e.2.group ≠ g) → exec (.straitGrpCfgWrite p 0x124 w) s = .next (modGrp n (fun x => { x with group := g, self := bits w.toNat 23 16 }) s)) ∧
     (g ≠ 0 → (∃ e ∈ s.strait.slots, e.1 ≠ n ∧ e.2.group = g) → exec (.straitGrpCfgWrite p 0x124 w) s = .next (modGrp n (fun x => { x with self := bits w.toNat 23 16 }) s)) ∧
     (g = 0 → exec (.straitGrpCfgWrite p 0x124 w) s = .next (modStrait (fun x => { x with held := x.held.filter fun h => h.grp != old }) (modGrp n (fun x => { x with group := 0, self := bits w.toNat 23 16 }) s)))) ∧
   (∀ (s : State) (p : Path) (w : Word), Reaches s p 0x12 0x104 → exec (.straitPortWrite p 0x104 w) s = .next (storeRw 0x12 0x104 w s)))

/-- Strait messages delivered. A whole segment in order advances the sequence and is delivered, with an acknowledgement after the eighth. DATA
meets the earliest matching receive or is held; SYNC is answered with the three times; SYNC_REPLY gives offset, round trip and whether the
member is in step. The offset's rounding is the model's choice (log entry 26). Rests on 13_network_time.md. -/
def Obligations.StraitMessageResult : Prop :=
  ∀ (s : State) (n : Nat) (g : Segment), 
    (g.cnt = 1 → g.idx = 0 →
      let a := cntAdd 0x12 0x808 1 (modMember n g.src (fun b => { b with rxSeq := (b.rxSeq + 1) % 2 ^ 32, ackDue := b.ackDue + 1, part := [] }) s)
      let b := deliverMsg n g g.pay a
      acceptSeg n g s = if 8 ≤ (member b n g.src).ackDue then sendAck n g.src b else b) ∧
    (∀ d, g.type = 1 → matchRecv (straitWake s) g.grp g.src g.tag = none →
      deliverMsg n g d s = modStrait (fun y => { y with held := y.held ++ [{ grp := g.grp, mem := g.src, tag := g.tag, data := d, since := now (straitWake s) }] }) (straitWake s)) ∧
    (∀ d o, g.type = 1 → matchRecv (straitWake s) g.grp g.src g.tag = some o → deliverMsg n g d s = giveRecv o d (straitWake s)) ∧
    (∀ d, g.type = 5 → deliverMsg n g d s = sendMsg n g.src 6 0 (syncBytes s ++ beBytes 8 g.time ++ beBytes 8 (now s) ++ beBytes 8 (now s)) none s) ∧
    (∀ d, g.type = 6 →
      let t1 : Int := fldBE d 16 8
      let t2 : Int := fldBE d 24 8
      let t3 : Int := fldBE d 32 8
      let off := ((t2 - t1) - ((now s : Int) - t3)).tdiv 2
      let chart := decide (fldBE d 0 4 ≠ chartPeriod s ∨ fldBE d 4 4 ≠ chartPhase s)
      let time := sxBad (fldBE d 8 1) || sxBad s.sext.st.code
      let far := decide (regFld s 0x12 0x110 31 16 < off.natAbs)
      let f (b : Member) : Member := { b with reply := some (now s), down := false, stale := false, chartDiff := chart, timeBad := time, offBad := far, offset := off, rtt := ((now s : Int) - t1) - (t3 - t2) }
      deliverMsg n g d s = if chart || time || far then outOfStep n g.src f s else modMember n g.src (fun b => { f b with inStep := true }) s)

/-- SPDM requests and management session commands. While the firmware runs and the sideband is up, an SPDM request answers its response
(chunked where long) and counts; during an update it answers Busy; otherwise not-ready. A session command permitted to the role and
lifecycle answers its status and data with its effect; during an update FW_BUSY, without right SESSION_DENIED. Byte forms are PRESUMED or
the model's (log entries 45 and 46). Rests on 14_management_security.md. -/
def Obligations.ManagementCommandResult : Prop :=
  (∀ (s : State) (m : List Byte),
     let rows : List (Instr × (State → Ans)) := [(.getVersion m, spdmVersion m), (.getCapabilities m, spdmCaps m), (.negotiateAlgorithms m, spdmAlgs m), (.getDigests m, spdmDigests m), (.getCertificate m, spdmCert m), (.challenge m, spdmChallenge m), (.getMeasurements m, spdmMeas m), (.chunkSend m, spdmChunkSend m), (.chunkGet m, spdmChunkGet m), (.sessionOpen m, ansOpen m), (.sessionAuth m, ansAuth m), (.sessionRecord m, ansRecord m)]
     (sidebandUp s = true → s.msp.fw ≠ none → s.msp.update = none → ∀ e ∈ rows,
       let a := e.2 s
       let b := largeAnswer a.1 a.2
       exec e.1 s = .next (emit (.mgmt b.1) (cntAdd 0x03 0x828 1 b.2))) ∧
     (sidebandUp s = true → s.msp.fw ≠ none → s.msp.update ≠ none → ∀ e ∈ rows, exec e.1 s = .next (emit (.mgmt [0x12, 0x7F, 3, 0]) (cntAdd 0x03 0x828 1 s))) ∧
     (sidebandUp s = false → s.chip.powered = true ∨ s.pwr.aux = true → ∀ e ∈ rows, exec e.1 s = .next (emit (.sideband mctpNotReady) s))) ∧
  (∀ (s : State) (a : List Byte), sidebandUp s = true → s.msp.fw ≠ none →
     let rows : List (Instr × Nat × Mgmt) := [(.provision a, 1, mgProvision a s), (.certWrite a, 2, mgCertWrite a s), (.takeOwnership a, 3, mgTakeOwnership a s), (.pskInstall a, 4, mgPskInstall a s), (.pskDelete a, 5, mgPskDelete a s), (.configWrite a, 6, mgConfigWrite a s), (.tamperCfg a, 7, mgTamperCfg a s), (.retire a, 8, mgReturn a s), (.decommission a, 9, mgDecommission a s), (.reprovision a, 10, mgReprovision a s), (.tamperClear a, 11, mgTamperClear a s), (.revokeFwKey a, 12, mgRevoke a s)]
     ∀ e ∈ rows,
       (∀ x, s.msp.session = some x → x.ready = true → mgAllowed e.2.1 a x.role (lifecycle s) = true → s.msp.update = none →
         exec e.1 s = .next (emit (.mgmt (leBytes 2 e.2.2.1 ++ e.2.2.2.1)) e.2.2.2.2)) ∧
       (∀ x, s.msp.session = some x → x.ready = true → mgAllowed e.2.1 a x.role (lifecycle s) = true → s.msp.update ≠ none → exec e.1 s = .next (emit (.mgmt (leBytes 2 0x030C)) s)) ∧
       ((∀ x, s.msp.session = some x → x.ready = false ∨ mgAllowed e.2.1 a x.role (lifecycle s) = false) → exec e.1 s = .next (emit (.mgmt (leBytes 2 0x030A)) s)))

/-- Watchdog, update progress, session timeout, tamper and sideband events. A watchdog or management reset restarts the core and drops an
update; a sector programmed advances the update, its last compares the digest and completes the commit; a failed one leaves the agent; an
idle session closes; tamper sources act where armed; the key store is erased when pending; waiting commands are interrupted; MCTP control
and ENTDAA answer. Rests on 14_management_security.md, 16_module_power.md. -/
def Obligations.ManagementEventResult : Prop :=
  (∀ (s : State), mgmtRuns s = true → exec .mspWatchdog s = .next (mgmtReset (dropUpdate (advisory 0x03 2 0x0303 0 0 s))) ∧ exec .managementReset s = .next (mgmtReset (dropUpdate s))) ∧
  (∀ (s : State) (u : FwUpdate), s.msp.update = some u →
    let i := if u.done + 1 < u.total then u.done + 1 else 0
    let v := modMsp (fun m => { m with update := some { u with done := u.done + 1 }, progress := (u.done + 1, u.total) })
      (norProgram (i * sectorBytes) ((u.img.drop (i * sectorBytes)).take sectorBytes) (modMsp (fun m => { m with nor := smDel m.nor i }) s))
    (u.done + 1 < u.total → exec (.sectorProgramComplete true) s = .next v) ∧
    (u.total ≤ u.done + 1 → imageDigest (norRead v u.img.length) = imageDigest u.img →
      let w := mgmtReset (modMsp (fun m => { m with update := none }) v)
      exec (.sectorProgramComplete true) s = .next (if w.msp.fw.isSome then complete .admin u.tag stSuccess 0 0 [] (cntAdd 0x03 0x808 1 w) else complete .admin u.tag ⟨0, 6⟩ 0 0 [] (cntAdd 0x03 0x810 1 w))) ∧
    exec (.sectorProgramComplete false) s = .next (runAgent (modMsp (fun m => { m with session := none, spdm := SpdmSt.reset, busy := true }) (dropUpdate (advisory 0x03 1 0x0302 0 0 s))))) ∧
  (∀ (s : State) (x : Session), s.msp.session = some x → exec .sessionIdleTimeout s = .next (modMsp (fun m => { m with session := none }) (advanceMaster (x.lastT + 60000000000) s))) ∧
  (∀ (s : State) (src : Nat), src < 4 → tamperOn s = true → (src = 0 → loopOn s = true) → exec (.tamperEvent src) s = .next (tamper src s)) ∧
  (∀ (s : State), loopOn s = true →
    exec (.tamperLoopMeasure true) s = .next (modMsp (fun m => { m with loopSince := none, loopRaised := false }) s) ∧
    (∀ t, s.msp.loopSince = some t → s.msp.loopRaised = false → t + 10000 ≤ now s → exec (.tamperLoopMeasure false) s = .next (tamper 0 (modMsp (fun m => { m with loopRaised := true }) (modMsp (fun m => { m with loopSince := some t }) s)))) ∧
    (s.msp.loopSince = none → s.chip.stage ≠ .powerGood → exec (.tamperLoopMeasure false) s = .next (modMsp (fun m => { m with loopSince := some (now s) }) s))) ∧
  (∀ (s : State), s.msp.erasePending = true → exec .keystoreErase s = .next (modMsp (fun m => { m with
    ksA := { m.ksA with tagOk := false, val := KeyStore.blank }, ksB := { m.ksB with tagOk := false, val := KeyStore.blank }, cert0 := [], erasePending := false }) s)) ∧
  (∀ (s : State) (t : Tag) (c : Conn) (o : OutCmd) (k i z : Nat), conn? s t.conn = some c → c.outst.find? (fun o => o.cid == t.cid) = some o → c.queue = some (k, i, z) → s.msp.busy = true → o.need = 0 →
    (i ≠ 0 → o.op = 0x8D → exec (.commandInterrupted t) s = .next (complete .bcs t ⟨7, 1⟩ 0x030C 0 [] s)) ∧
    (i = 0 → o.op ∈ [0x0D, 0x80, 0x84] → exec (.commandInterrupted t) s = .next (complete .admin t ⟨0, 0x21⟩ 0 0 [] s)) ∧
    (i = 0 → s.msp.recovery = false → o.op ∈ [0x10, 0x11] → exec (.commandInterrupted t) s = .next (complete .admin t ⟨0, 0x21⟩ 0 0 [] s))) ∧
  (∀ (s : State) (m : List Byte), s.chip.powered = true ∨ s.pwr.aux = true → fld m 0 1 % 128 = 0 →
    exec (.mctpControlMessage m) s = .next (emit (.sideband [0, BitVec.ofNat 8 (fld m 1 1 % 128), BitVec.ofNat 8 (fld m 2 1), 0]) s)) ∧
  (∀ (s : State) (a : Nat), a < 128 → s.chip.powered = true ∨ s.pwr.aux = true → s.pwr.i3c = none → exec (.entdaa a) s = .next (modPwr (fun p => { p with i3c := some a }) s))

/-- Resets, start-up, readiness, the power-loss flush and power state transitions. Power-on, module and device resets act where their
conditions hold; start-up runs from power good; READY follows link up; the flush ends in power off or in the module reset. A power state
entry, exit or reversal ends as its rule says. Rests on 12_host_queues.md, 14_management_security.md, 15_errors_bringup.md,
16_module_power.md. -/
def Obligations.ResetEventResult : Prop :=
  ((∀ (s : State), s.chip.powered = false → s.pwr.pwrEn = true → s.pwr.vin = true → s.pwr.armed = true →
     exec .powerOnReset s = .next (modChip (fun c => { c with powered := true }) (wideReset true 0 s))) ∧
   (∀ (s : State) (c : Nat), s.chip.modReset = some c → s.pwr.flush = none → s.chip.powered = true → exec .moduleReset s = .next (wideReset false c s)) ∧
   (∀ (s : State) (t : Nat), s.chip.devResetDue = some t →
     let u := modChip (fun c => { c with devResetDue := none }) (advanceMaster t s)
     (u.chip.stage = .ready → u.chip.modReset = none → exec .deviceReset s = .next (deviceReset 3 u)) ∧
     (u.chip.stage ≠ .ready ∨ u.chip.modReset ≠ none → exec .deviceReset s = .next u)) ∧
   (∀ (s : State) (o : BootOut), s.chip.stage = .powerGood → s.chip.powered = true → s.pwr.modRstN = true → (s.pwr.tripped = true → allCool s = true) →
     let u := bootVerify (bootRom (modPwr (fun p => { p with tripped := false }) s))
     (u.chip.stopped = false → exec (.startUp o) s = .next (bootFrom o u)) ∧ (u.chip.stopped = true → exec (.startUp o) s = .next u)) ∧
   (∀ (s : State), s.chip.stage = .linkUp → s.niu.linkUp = true →
     let u := allPages.foldl (fun s p => modHdr p (fun h => { h with ready := true }) s) (modChip (fun c => { c with stage := .ready }) s)
     let v := if regFld u 0x11 0x100 1 0 = 2 then u else sextTo .acquiring u
     exec .ready s = .next (raiseFloor (loadIndexes (modFtl (fun f => { f with idleSince := now v }) v)))) ∧
   (∀ (s : State) (b : Bool) (c : FlushCause), s.pwr.flush = some c →
     let u := flushDone b c s
     (u.pwr.tripped = true → exec (.powerLossFlush b) s = .next (modPwr (fun p => { p with armed := false }) (powerOff u))) ∧
     (u.pwr.tripped = false → b = false ∨ u.pwr.pwrEn = false ∨ u.pwr.vin = false ∨ c = .pwrEn ∨ c = .over → exec (.powerLossFlush b) s = .next (powerOff u)) ∧
     (u.pwr.tripped = false → b = true → u.pwr.pwrEn = true → u.pwr.vin = true → c ≠ .pwrEn → c ≠ .over → u.chip.modReset ≠ none → exec (.powerLossFlush b) s = .next u) ∧
     (u.pwr.tripped = false → b = true → u.pwr.pwrEn = true → u.pwr.vin = true → c ≠ .pwrEn → c ≠ .over → u.chip.modReset = none →
       exec (.powerLossFlush b) s = .next (modChip (fun x => { x with modReset := some ((draw u).1 % 5) }) (draw u).2)))) ∧
  ((∀ (s : State), s.qcu.ps.trans = none → s.qcu.ps.inForce = 4 →
     exec .ps4Exit s = .next (psEnd { target := s.qcu.ps.lastOp, src := 4, tag := none } s.qcu.ps.lastOp false s)) ∧
   ∀ (s : State) (x : Trans), s.qcu.ps.trans = some x →
     exec .powerStateEntryComplete s = .next (psEnd x x.target false s) ∧
     (x.src < x.target → 3 ≤ x.target → exec .powerStateReversal s = .next (psEnd x x.src true (cntAdd 0x20 0x860 1 s))) ∧
     (s.qcu.ps.inForce = 4 → exec .ps4Exit s = .next (psEnd x x.target false s)))

/-- Edges of PWR_EN, MOD_RST_N and BRAKE_N and input voltage events. Each edge starts a flush, brakes or releases as its rule says; the
auxiliary supply, the held brake, the LED timeout and the input voltage events act as theirs. Rests on 16_module_power.md. -/
def Obligations.PinEventResult : Prop :=
  (∀ (s : State) (l : Bool), s.pwr.pwrEn ≠ l →
    let u := modPwr (fun p => { p with pwrEn := l, armed := p.armed || l }) s
    (l = true ∨ s.chip.powered = false → exec (.pwrEnEdge l) s = .next u) ∧ (l = false → s.chip.powered = true → exec (.pwrEnEdge l) s = .next (beginFlush .pwrEn u))) ∧
  (∀ (s : State) (l : Bool), s.pwr.modRstN ≠ l →
    let u := modPwr (fun p => { p with modRstN := l }) s
    (l = true ∨ s.chip.powered = false → exec (.modRstNEdge l) s = .next u) ∧
    (l = false → s.chip.powered = true → exec (.modRstNEdge l) s = .next (beginFlush .modRst (modChip (fun c => { c with modReset := some (c.modReset.getD 1) }) u)))) ∧
  (∀ (s : State) (l : Bool), s.pwr.brakeN ≠ l → s.chip.powered = true →
    let u := modPwr (fun p => { p with brakeN := l }) s
    (l = true → exec (.brakeNEdge l) s = .next (modPwr (fun p => { p with brake := p.toggleHold }) u)) ∧
    (l = false → 
      let a := gateAll (cntAdd 0x02 0x808 1 u)
      (s.pwr.brakeT = none ∨ (∃ t, s.pwr.brakeT = some t ∧ t + 100000 < now u) →
        exec (.brakeNEdge l) s = .next (modPwr (fun p => { p with brake := true, brakeT := some (now a), brakeHeld := false, toggleHold := p.toggleHold }) a)) ∧
      (∀ t, s.pwr.brakeT = some t → now u ≤ t + 100000 → s.pwr.toggleHold = false →
        exec (.brakeNEdge l) s = .next (advisory 0x02 1 0x0202 0 0 (modPwr (fun p => { p with brake := true, brakeT := some (now a), brakeHeld := false, toggleHold := true }) a))))) ∧
  (∀ (s : State) (l : Bool), exec (.aux3v3Change l) s = .next (modPwr (fun p => { p with aux := l, i3c := if l || s.chip.powered then p.i3c else none }) s)) ∧
  (∀ (s : State), s.pwr.toggleHold = true → s.pwr.brakeN = true → exec .brakeToggleHoldEnd s = .next (modPwr (fun p => { p with toggleHold := false, brake := false }) s)) ∧
  (∀ (s : State) (t : Nat), s.pwr.brakeN = false → s.pwr.brakeHeld = false → s.chip.powered = true → s.pwr.brakeT = some t →
    exec .brakeHeld s = .next (advisory 0x02 0 0x0201 0 0 (modPwr (fun p => { p with brakeHeld := true }) (advanceMaster (t + 60000000000) s)))) ∧
  (∀ (s : State) (t : Nat), s.qcu.actLed = some t → exec .actLedTimeout s = .next (modQcu (fun q => { q with actLed := none }) (advanceMaster (t + 50000000) s))) ∧
  (∀ (s : State), s.chip.powered = true →
    exec (.inputVoltageEvent .dip) s = .next (advisory 0x02 2 0x0203 0 0 (modPwr (fun p => { p with dipCap := true }) s)) ∧
    (30000 ≤ s.pwr.holdupMj → exec (.inputVoltageEvent .ride) s = .next (modPwr (fun p => { p with ride := true }) s)) ∧
    (s.pwr.holdupMj < 30000 → exec (.inputVoltageEvent .ride) s = .next (powerFail (modPwr (fun p => { p with vin := false }) s))) ∧
    exec (.inputVoltageEvent .under) s = .next (powerFail (modPwr (fun p => { p with ride := false, vin := false }) s)) ∧
    exec (.inputVoltageEvent .absent) s = .next (powerFail (modPwr (fun p => { p with ride := false, vin := false }) s)) ∧
    exec (.inputVoltageEvent .over) s = .next (beginFlush .over (modPwr (fun p => { p with vin := false }) s))) ∧
  (∀ (s : State),
    (s.pwr.ride = true → exec (.inputVoltageEvent .restored) s = .next (advisory 0x02 2 0x0203 0 0 (cntAdd 0x02 0x828 1 (modPwr (fun p => { p with ride := false }) s)))) ∧
    (s.pwr.ride = false → s.pwr.vin = false → exec (.inputVoltageEvent .restored) s = .next (modPwr (fun p => { p with vin := true, armed := true }) s)) ∧
    (s.pwr.ride = false → s.pwr.vin = true → exec (.inputVoltageEvent .restored) s = .next (modPwr (fun p => { p with dipCap := false }) s)))

/-- The governor, temperatures, hold-up, link replays and late classes. A governor interval counts, limits and gates arrays above the cap or
ungates below it; a temperature at its trip raises THERMAL_TRIP and one that caps records it once; hold-up energy sets low and write-
through; a flit error counts replays to FATAL at the eighth; a late class is recorded. Gating amounts are DEDUCED (log entry 60). Rests on
01_architecture.md, 16_module_power.md. -/
def Obligations.GovernorResult : Prop :=
  (∀ (s : State) (mw mv : Nat), s.chip.powered = true →
    let u := peakGrant (countInterval mw mv s)
    let v := modPwr (fun p => { p with limitW := govLimit u }) u
    let cap := if v.pwr.peakGrant then 900000 else govLimit u * 1000
    (brakeLevel v = true → exec (.governorInterval mw mv) s = .next (gateAll v)) ∧
    (brakeLevel v = false → 3 ≤ v.qcu.ps.inForce → exec (.governorInterval mw mv) s = .next v) ∧
    (brakeLevel v = false → v.qcu.ps.inForce < 3 → cap < mw →
      exec (.governorInterval mw mv) s = .next (setGated true (((gateOrder v).filter fun k => !(core v k).gated).take ((mw - cap + 10999) / 11000)) v)) ∧
    (brakeLevel v = false → v.qcu.ps.inForce < 3 → mw ≤ cap →
      exec (.governorInterval mw mv) s = .next (setGated false (((gateOrder v).reverse.filter fun k => (core v k).gated).take (min 4 ((cap - mw) / 11000))) v))) ∧
  (∀ (s : State) (n : Nat) (t : Int), n < 120 → s.chip.powered = true → s.chip.stage ≠ .powerGood → s.pwr.tripped = false →
    let a := modPwr (fun p => { p with temps := smSet p.temps n t }) s
    let cap := decide (thermalCap a < psLimit a)
    let b := modPwr (fun p => { p with throttle := cap }) a
    let c := if cap && !s.pwr.throttle then advisory 0x02 5 0x0206 0 0 b else b
    (t < (sensorLimits n).2 → exec (.thermalRead n t) s = .next c) ∧
    ((sensorLimits n).2 ≤ t → c.pwr.tripped = false → c.chip.stage ≠ .powerGood →
      exec (.thermalRead n t) s = .next (raiseFatal 0x0207 0x02 (some 6) 0 0 (wantFlush .trip (modErr (fun e => { e with tripHold := true }) (modPwr (fun p => { p with tripped := true }) c)))))) ∧
  (∀ (s : State) (mj : Nat), s.chip.powered = true →
    let u := modPwr (fun p => { p with holdupMj := min mj 0xFFFF, holdupUf := min (mj * 1000 / 2688) 0xFFFF }) (cntAdd 0x02 0x838 1 s)
    (40000 ≤ mj → exec (.holdupMeasurement mj) s = .next (modPwr (fun p => { p with holdupLow := false, writeThrough := false }) u)) ∧
    (mj < 40000 →
      let v := advisory 0x02 7 0x0208 0 0 (modPwr (fun p => { p with holdupLow := true, writeThrough := p.writeThrough || decide (mj < 30000) }) u)
      exec (.holdupMeasurement mj) s = .next (if u.pwr.holdupLow || u.ftl.flushBad then v else smartEvent 4 v))) ∧
  (∀ (s : State),
    let u := recordErr { code := 0xE003, page := 0xE0, bit := none, cls := .corrected, scope := .source 0xE0, d0 := 0, d1 := 0, injected := false } s
    exec (.flitGroupCrcFail true) s = .next (modChip (fun c => { c with replays := 0 }) u) ∧
    (u.chip.replays < 7 → exec (.flitGroupCrcFail false) s = .next (modChip (fun c => { c with replays := c.replays + 1 }) u)) ∧
    (7 ≤ u.chip.replays → exec (.flitGroupCrcFail false) s = .next (raiseFatal 0xE004 0xE0 none 0 0 (modChip (fun c => { c with replays := 0 }) u)))) ∧
  (∀ (s : State) (r i c w : Nat), exec (.classLate r i c w) s = .next (recordErr { code := 0xE002, page := 0xE0, bit := none, cls := .advisory, scope := .source 0xE0, d0 := r % 256 + 256 * (i % 65536) + 2 ^ 24 * (c % 256), d1 := min w 0xFFFFFFFF, injected := false } s)) ∧
  (∀ (s : State) (t : Nat), s.chip.ps4Fabric = some t → exec .ps4FabricClockStop s = .next (modChip (fun c => { c with ps4Fabric := none }) (advanceMaster (t + 100000) s)))
end

