-- ==== Sys2Proof/Laws/SMap.lean ====
section
/-! SUPPORT. Sparse maps: an update keeps the canonical form, reads at the key what was written and leaves every other key alone. -/
namespace Sys2Proof.Machine

/-- Every listed key lies above `b`. -/
def smAbove {α : Type} (b : Nat) (m : SMap α) : Prop := ∀ e ∈ m, b < e.1

theorem smSorted_cons {α : Type} (a : Nat × α) (m : SMap α) : smSorted (a :: m) = true ↔ smAbove a.1 m ∧ smSorted m = true := by
  induction m generalizing a with
  | nil => simp [smSorted, smAbove]
  | cons b m ih =>
    simp only [smSorted, Bool.and_eq_true, decide_eq_true_eq]
    rw [ih b]
    constructor
    · rintro ⟨h, h1, h2⟩
      refine ⟨?_, h1, h2⟩
      intro e he
      rcases List.mem_cons.mp he with rfl | he
      · exact h
      · exact Nat.lt_trans h (h1 e he)
    · rintro ⟨h, h1, h2⟩
      exact ⟨h b (List.mem_cons_self ..), h1, h2⟩

theorem smSorted_filter {α : Type} (p : Nat × α → Bool) (m : SMap α) (h : smSorted m = true) : smSorted (m.filter p) = true := by
  induction m with
  | nil => simp [smSorted]
  | cons a m ih =>
    rw [smSorted_cons] at h
    by_cases hp : p a
    · rw [List.filter_cons_of_pos hp, smSorted_cons]
      exact ⟨fun e he => h.1 e (List.mem_filter.mp he).1, ih h.2⟩
    · rw [List.filter_cons_of_neg hp]; exact ih h.2

theorem smSet_mem {α : Type} (m : SMap α) (k : Nat) (v : α) (e : Nat × α) (h : e ∈ smSet m k v) : e = (k, v) ∨ e ∈ m := by
  induction m with
  | nil => simpa [smSet] using h
  | cons a m ih =>
    obtain ⟨ka, va⟩ := a
    simp only [smSet] at h
    split at h
    · simpa using h
    · split at h
      · rcases List.mem_cons.mp h with h | h
        · exact .inl h
        · exact .inr (List.mem_cons_of_mem _ h)
      · rcases List.mem_cons.mp h with h | h
        · exact .inr (h ▸ List.mem_cons_self ..)
        · rcases ih h with h | h
          · exact .inl h
          · exact .inr (List.mem_cons_of_mem _ h)

theorem smSorted_set {α : Type} (m : SMap α) (k : Nat) (v : α) (h : smSorted m = true) : smSorted (smSet m k v) = true := by
  induction m with
  | nil => simp [smSet, smSorted]
  | cons a m ih =>
    obtain ⟨ka, va⟩ := a
    have h' := (smSorted_cons _ _).mp h
    simp only [smSet]
    split
    · rw [smSorted_cons]
      refine ⟨?_, h⟩
      intro e he
      rcases List.mem_cons.mp he with rfl | he
      · assumption
      · exact Nat.lt_trans ‹_› (h'.1 e he)
    · split
      · subst_vars; rw [smSorted_cons]; exact h'
      · rw [smSorted_cons]
        refine ⟨?_, ih h'.2⟩
        intro e he
        rcases smSet_mem _ _ _ _ he with rfl | he
        · simp only; omega
        · exact h'.1 e he

theorem smWf_iff {α : Type} [DecidableEq α] (d : α) (m : SMap α) : smWf d m = true ↔ smSorted m = true ∧ ∀ e ∈ m, e.2 ≠ d := by
  simp [smWf]

/-- A filtered table keeps the canonical form. -/
theorem smWf_filter {α : Type} [DecidableEq α] (d : α) (p : Nat × α → Bool) (m : SMap α) (h : smWf d m = true) : smWf d (m.filter p) = true := by
  rw [smWf_iff] at *
  exact ⟨smSorted_filter p m h.1, fun e he => h.2 e (List.mem_filter.mp he).1⟩

theorem smWf_put {α : Type} [DecidableEq α] (d : α) (m : SMap α) (k : Nat) (v : α) (h : smWf d m = true) : smWf d (smPut d m k v) = true := by
  simp only [smPut]
  split
  · exact smWf_filter d _ m h
  · rw [smWf_iff] at *
    refine ⟨smSorted_set m k v h.1, fun e he => ?_⟩
    rcases smSet_mem _ _ _ _ he with rfl | he
    · assumption
    · exact h.2 e he

theorem smWf_clear {α : Type} [DecidableEq α] (d : α) (m : SMap α) (lo hi : Nat) (h : smWf d m = true) : smWf d (smClear m lo hi) = true :=
  smWf_filter d _ m h

theorem smWf_store (b : List Byte) (m : SMap Byte) (a : Nat) (h : smWf 0 m = true) : smWf 0 (smStore m a b) = true := by
  induction b generalizing m a with
  | nil => exact h
  | cons x b ih => exact ih _ _ (smWf_put _ _ _ _ h)

theorem smWf_nil {α : Type} [DecidableEq α] (d : α) : smWf d [] = true := rfl

theorem smWf_foldPut {α : Type} [DecidableEq α] (d : α) (l : SMap α) (m : SMap α) (h : smWf d m = true) :
    smWf d (l.foldl (fun m e => smPut d m e.1 e.2) m) = true := by
  induction l generalizing m with
  | nil => exact h
  | cons e l ih => exact ih _ (smWf_put _ _ _ _ h)

/-- What a write of a table leaves: the key written reads the value, every other key reads as before. -/
theorem smFind_set {α : Type} (m : SMap α) (k : Nat) (v : α) (j : Nat) : smFind (smSet m k v) j = if j = k then some v else smFind m j := by
  induction m with
  | nil =>
    by_cases h : j = k
    · subst h; simp [smSet, smFind]
    · have : ¬ k = j := fun e => h e.symm
      simp [smSet, smFind, h, this]
  | cons a m ih =>
    obtain ⟨ka, va⟩ := a
    by_cases h : j = k
    · subst h
      simp only [smSet]
      by_cases h1 : j < ka
      · simp [h1, smFind]
      · by_cases h2 : j = ka
        · simp [h2, smFind]
        · have h3 : ¬ ka = j := fun e => h2 e.symm
          simp only [h1, h2, h3, if_false, smFind, ih, if_true]
    · have hk : ¬ k = j := fun e => h e.symm
      simp only [smSet]
      by_cases h1 : k < ka
      · simp only [h1, if_true, smFind, hk, if_false, h]
      · by_cases h2 : k = ka
        · subst h2; simp only [h1, if_false, if_true, smFind, hk, h]
        · simp only [h1, h2, if_false, smFind, ih, h]

theorem smFind_filter {α : Type} (m : SMap α) (p : Nat → Bool) (j : Nat) : smFind (m.filter fun e => p e.1) j = if p j then smFind m j else none := by
  induction m with
  | nil => simp [smFind]
  | cons a m ih =>
    obtain ⟨ka, va⟩ := a
    by_cases hp : p ka = true
    · rw [List.filter_cons_of_pos (by simpa using hp)]
      simp only [smFind, ih]
      by_cases hk : ka = j
      · subst hk; simp [hp]
      · simp [hk]
    · rw [List.filter_cons_of_neg (by simpa using hp)]
      simp only [smFind, ih]
      by_cases hk : ka = j
      · subst hk; simp [hp]
      · simp [hk]

theorem smGet_put {α : Type} [DecidableEq α] (d : α) (m : SMap α) (k : Nat) (v : α) (j : Nat) :
    smGet d (smPut d m k v) j = if j = k then v else smGet d m j := by
  simp only [smGet, smPut]
  split
  · simp only [smDel]
    rw [smFind_filter m (fun x => x != k) j]
    by_cases h : j = k <;> simp [*]
  · rw [smFind_set]; by_cases h : j = k <;> simp [h]

theorem smGet_clear {α : Type} (d : α) (m : SMap α) (lo hi j : Nat) :
    smGet d (smClear m lo hi) j = if lo ≤ j ∧ j < hi then d else smGet d m j := by
  simp only [smGet, smClear]
  rw [smFind_filter m (fun x => decide (x < lo) || decide (hi ≤ x)) j]
  by_cases h : lo ≤ j ∧ j < hi
  · have : (decide (j < lo) || decide (hi ≤ j)) = false := by simp; omega
    simp [h, this]
  · have : (decide (j < lo) || decide (hi ≤ j)) = true := by simp; omega
    simp [h, this]

theorem smGet_store (b : List Byte) (m : SMap Byte) (a j : Nat) :
    smGet 0 (smStore m a b) j = if a ≤ j ∧ j < a + b.length then b.getD (j - a) 0 else smGet 0 m j := by
  induction b generalizing m a with
  | nil => rw [if_neg (by simp only [List.length_nil]; omega)]; rfl
  | cons x b ih =>
    simp only [smStore, ih, smGet_put]
    by_cases h1 : j = a
    · subst h1
      rw [if_neg (by omega), if_pos rfl, if_pos (by simp)]
      simp
    · by_cases h2 : a + 1 ≤ j ∧ j < a + 1 + b.length
      · have : j - a = (j - (a + 1)) + 1 := by omega
        simp [h2, this]; omega
      · rw [if_neg h2, if_neg h1, if_neg]; simp; omega

end Sys2Proof.Machine
end

