-- ==== Sys2Proof/Laws/Rows.lean ====
section
/-! SUPPORT. What the shared shapes of commands do when nothing stands in their way: a core that takes an instruction, a queue
that takes a command, a register that a path reaches, and the completions that are sent. -/
namespace Sys2Proof.Machine
open Sys2Proof

/-- An instruction on a core that takes it, at a level that has it and with its fields in range, is its own meaning. -/
theorem insn_runs {s : State} {k : Nat} {r : Run} {c : Ctx} {st : Step} (h : CoreRuns s k r c st) {l1 bad : Bool} (g : Run → Ctx → Step → Res)
    (hl : (s.chip.level1 && !l1) = false) (hb : bad = false) : insn k l1 bad s g = g r c st := by
  obtain ⟨h1, h2, h3, h4, h5, h6⟩ := h
  have : ¬ 48 ≤ k := by omega
  subst hb
  simp [insn, onCore, this, h2, h3, h4, h5, h6, hl]

/-- An instruction that level 1 lacks faults there (R57, R165). -/
theorem insn_level {s : State} {k : Nat} {r : Run} {c : Ctx} {st : Step} (h : CoreRuns s k r c st) (bad : Bool) (g : Run → Ctx → Step → Res)
    (hl : s.chip.level1 = true) : insn k false bad s g = coreFault k r cINSTR_LEVEL s := by
  obtain ⟨h1, h2, h3, h4, h5, h6⟩ := h
  have : ¬ 48 ≤ k := by omega
  simp [insn, onCore, this, h2, h3, h4, h5, h6, hl]

/-- An instruction with a Rsvd bit set or a field out of its encodings faults (R165). -/
theorem insn_bad {s : State} {k : Nat} {r : Run} {c : Ctx} {st : Step} (h : CoreRuns s k r c st) (l1 : Bool) (g : Run → Ctx → Step → Res)
    (hl : (s.chip.level1 && !l1) = false) : insn k l1 true s g = coreFault k r cINSTR_INVALID s := by
  obtain ⟨h1, h2, h3, h4, h5, h6⟩ := h
  have : ¬ 48 ≤ k := by omega
  simp [insn, onCore, this, h2, h3, h4, h5, h6, hl]

/-- What an update of a core's run leaves in that core and in every other core. -/
theorem core_modCore (k j : Nat) (f : Core → Core) (s : State) : core (modCore k f s) j = if j = k then f (core s k) else core s j := by
  simp only [core, modCore, setCores]
  rw [smGet_put]

theorem chkRd_none {s : State} {k : Nat} {r : Run} {st : Step} {x : Ext} (h : CanRead s k r st x) : chkRd k r st x s = none := by
  obtain ⟨h1, h2, h3⟩ := h
  simp [chkRd, h1, h2, h3]

theorem chkWr_none {s : State} {k : Nat} {r : Run} {x : Ext} (h : CanWrite s k r x) : chkWr k r x s = none := by
  obtain ⟨h1, h2⟩ := h
  simp [chkWr, h1, h2]

theorem rdThen_data {s u : State} {k n a len : Nat} {d : List Byte} (h : instrRead s k n a len = (.data d, u)) (f : List Byte → State → Res) :
    rdThen k n a len s f = f d u := by
  unfold instrRead at h
  unfold rdThen
  split at h
  · cases h; simp [*]
  · simp [*]

theorem wrThen_done {s u : State} {k n a : Nat} {d : List Byte} (h : writeWin k n a d s = (none, u)) (f : State → Res) :
    wrThen k n a d s f = f u := by
  simp [wrThen, h]

/-- With every check passed an instruction goes on. -/
theorem afterChecks_none {l : List (Option Res)} (h : ∀ x ∈ l, x = none) (g : Unit → Res) : afterChecks l g = g () := by
  unfold afterChecks
  have : l.findSome? id = none := by simpa [List.findSome?_eq_none_iff] using h
  rw [this]

/-- A vector instruction runs where the core takes it and the brake is off. -/
theorem vsuInsn_runs {s : State} {k : Nat} {r : Run} {c : Ctx} {st : Step} (h : CoreRuns s k r c st) {l1 bad : Bool} (g : Run → Ctx → Step → Res)
    (hl : (s.chip.level1 && !l1) = false) (hb : bad = false) (hbr : brakeLevel s = false) : vsuInsn k l1 bad s g = g r c st := by
  unfold vsuInsn
  rw [insn_runs h _ hl hb, hbr]
  rfl

theorem aBad_false {i : BitVec 4} (h : i.toNat < 8) : aBad i = false := by simp [aBad]; omega

/-- A register row that its path lets through is the register's own effect (R37 to R39). -/
theorem regRow_runs {s : State} {p : Path} {page off : Nat} (h : Reaches s p page off) (f : State → State) : regRow p page off f s = .next (f s) := by
  obtain ⟨h1, h2⟩ := h
  simp [regRow, h1, h2, ok]

/-- What an update of a page header leaves in that page and in every other. -/
theorem hdr_modHdr (page q : Nat) (f : PageHdr → PageHdr) (s : State) : hdr (modHdr page f s) q = if q = page then f (hdr s page) else hdr s q := by
  simp only [hdr, modHdr, setHdr]
  rw [smGet_put]

/-- A counter after it has been counted up. -/
theorem cntGet_cntAdd (page off n : Nat) (s : State) :
    cntGet (cntAdd page off n s) page off = if (hdr s page).freeze then cntGet s page off else w64 (cntGet s page off + n) := by
  unfold cntAdd
  split
  · rfl
  · simp only [cntGet, cntSet, setCnt]
    rw [smGet_put, if_pos rfl]

/-- A stored register word after a store. -/
theorem regWord_setRegWord (page off : Nat) (w : Word) (s : State) : regWord (setRegWord page off w s) page off = w := by
  simp only [regWord, setRegWord, setRegs]
  rw [smGet_put, if_pos rfl]

end Sys2Proof.Machine
end

