-- ==== Sys2Proof/Laws/Cmds.lean ====
section
/-! SUPPORT. What noting a command leaves, and what the rows of a BCS, an NVM and an admin queue answer on a queue that takes
commands. -/
namespace Sys2Proof.Machine
open Sys2Proof

theorem noteCmd_eq (t : Tag) (op : Nat) (q : Sqe) (s : State) : ∃ m, noteCmd t op q s = setQcu { s.qcu with conns := m } s := by
  unfold noteCmd
  split
  · exact ⟨s.qcu.conns, rfl⟩
  · split
    · exact ⟨s.qcu.conns, rfl⟩
    · exact ⟨_, rfl⟩

theorem smFind_smMod {α : Type} (m : SMap α) (k j : Nat) (f : α → α) : smFind (smMod m k f) j = if j = k then (smFind m j).map f else smFind m j := by
  induction m with
  | nil => simp [smMod, smFind]
  | cons e m ih =>
    obtain ⟨a, v⟩ := e
    unfold smMod at ih ⊢
    simp only [List.map_cons]
    by_cases h1 : a = k <;> by_cases h2 : a = j <;> by_cases h3 : j = k <;> simp_all [smFind]

/-- Noting a command leaves every connection's queue. -/
theorem queueOf_noteCmd (t : Tag) (op : Nat) (q : Sqe) (s : State) (n : Nat) : queueOf (noteCmd t op q s) n = queueOf s n := by
  unfold noteCmd
  split
  · rfl
  · split
    · rfl
    · simp only [queueOf, modConn, modQcu, conn?]
      have e : ∀ x : QcuSt, (setQcu x s).qcu = x := fun _ => rfl
      simp only [e]
      rw [smFind_smMod]
      split
      · cases smFind s.qcu.conns n <;> rfl
      · rfl

theorem onAdmin_noteCmd (t : Tag) (op : Nat) (q : Sqe) (s : State) (u : Tag) : onAdmin (noteCmd t op q s) u = onAdmin s u := by
  simp only [onAdmin, queueOf_noteCmd]

theorem noteCmd_ctrls (t : Tag) (op : Nat) (q : Sqe) (s : State) : (noteCmd t op q s).qcu.ctrls = s.qcu.ctrls := by
  obtain ⟨m, hm⟩ := noteCmd_eq t op q s; rw [hm]; rfl

theorem noteCmd_ftl (t : Tag) (op : Nat) (q : Sqe) (s : State) : (noteCmd t op q s).ftl = s.ftl := by
  obtain ⟨m, hm⟩ := noteCmd_eq t op q s; rw [hm]; rfl

theorem noteCmd_msp (t : Tag) (op : Nat) (q : Sqe) (s : State) : (noteCmd t op q s).msp = s.msp := by
  obtain ⟨m, hm⟩ := noteCmd_eq t op q s; rw [hm]; rfl

theorem fetch_runs {s : State} {t : Tag} (h : QueueOpen s t) (op : Nat) (q : Sqe) (w r : Bool) : fetch t op q w r s = .ok (noteCmd t op q s) := by
  obtain ⟨⟨c, n, h1, h2, h3⟩, h4, h5, h6, h7⟩ := h
  obtain ⟨m, hm⟩ := noteCmd_eq t op q s
  have ht : (noteCmd t op q s).qcu.ps.trans = none := by rw [hm]; exact h6
  have hf : (noteCmd t op q s).qcu.ps.inForce ≠ 4 := by rw [hm]; exact h7
  have e1 : psReverse (noteCmd t op q s) = noteCmd t op q s := by simp [psReverse, ht]
  have e2 : psExit (noteCmd t op q s) = noteCmd t op q s := by simp [psExit, hf]
  unfold fetch
  simp only [h1, h2, h3, h4, h5]
  cases r <;> cases w <;> simp [e1, e2]

/-- A BCS command on an open queue, its fields in order, executes (R380, R393, R462, R472). -/
theorem bcsRow_runs {s : State} {t : Tag} {q : Sqe} (h : BcsOpen s t q) (op : Nat) (f : State → State) : bcsRow t op q none f s = .next (f (noteCmd t op q s)) := by
  obtain ⟨m, hm⟩ := noteCmd_eq t op q s
  have h1 : fatalStop (noteCmd t op q s) = false := by rw [hm]; exact h.well
  have h2 : lifecycle (noteCmd t op q s) = .operational := by rw [hm]; exact h.operational
  have h3 := h.length
  unfold bcsRow
  rw [fetch_runs h.toQueueOpen]
  have h4 : ¬ maxData < q.sgl := by unfold maxData; omega
  simp [h1, h2, h4]; rfl

theorem nvmRow_runs {s : State} {t : Tag} {q : Sqe} (h : QueueOpen s t) (hl : lifecycle s = .operational) (op : Nat) (f : State → State) :
    nvmRow t op q f s = .next (f (noteCmd t op q s)) := by
  obtain ⟨m, hm⟩ := noteCmd_eq t op q s
  have h1 : fatalStop (noteCmd t op q s) = false := by rw [hm]; exact h.well
  have h2 : lifecycle (noteCmd t op q s) = .operational := by rw [hm]; exact hl
  unfold nvmRow
  rw [fetch_runs h]
  simp [h1, h2]; rfl

theorem adminRow_runs {s : State} {t : Tag} {q : Sqe} (h : QueueOpen s t) (hq : q.sgl ≤ 0x400000) (op : Nat) (serves : Bool) (f : State → State) :
    adminRow t op q serves f s = .next (f (noteCmd t op q s)) := by
  obtain ⟨m, hm⟩ := noteCmd_eq t op q s
  have h1 : fatalStop (noteCmd t op q s) = false := by rw [hm]; exact h.well
  unfold adminRow
  rw [fetch_runs h]
  have h4 : ¬ maxData < q.sgl := by unfold maxData; omega
  simp [h1, h4]; rfl

end Sys2Proof.Machine
end

