-- ==== Sys2Proof/Laws/Frames.lean ====
section
/-! SUPPORT. What the operations that count, record and complete may change, said once for each: from these every frame of a
command that only counts, records or completes follows. -/
namespace Sys2Proof.Machine
open Sys2Proof

/-- Only counters, queues and messages differ. -/
structure Posts (s t : State) : Prop where
  of ::
  only : ∃ c q o, t = { s with cnt := c, qcu := q, out := o }

theorem Posts.refl (s : State) : Posts s s := ⟨s.cnt, s.qcu, s.out, rfl⟩
theorem Posts.trans {s t u : State} (a : Posts s t) (b : Posts t u) : Posts s u := by
  obtain ⟨c, q, o, rfl⟩ := a.only
  obtain ⟨c, q, o, rfl⟩ := b.only
  exact ⟨c, q, o, rfl⟩
theorem Posts.ite {s t u : State} {p : Prop} [Decidable p] (a : Posts s t) (b : Posts s u) : Posts s (if p then t else u) := by
  split
  · exact a
  · exact b
theorem Posts.foldl {α : Type} {f : State → α → State} (hf : ∀ s x, Posts s (f s x)) (l : List α) (s : State) : Posts s (l.foldl f s) := by
  induction l generalizing s with
  | nil => exact .refl s
  | cons x l ih => exact (hf s x).trans (ih _)

theorem modQcu_posts (f : QcuSt → QcuSt) (s : State) : Posts s (modQcu f s) := ⟨s.cnt, _, s.out, rfl⟩
theorem emit_posts (m : OutMsg) (s : State) : Posts s (emit m s) := ⟨s.cnt, s.qcu, _, rfl⟩
theorem cntAdd_posts (page off n : Nat) (s : State) : Posts s (cntAdd page off n s) := by
  unfold cntAdd
  split
  · exact .refl s
  · exact ⟨_, s.qcu, s.out, rfl⟩

/-- An event posted to a controller completes a request or is held, nothing else. -/
theorem postTo_posts (c ty info log : Nat) (s : State) : Posts s (postTo c ty info log s) := by
  unfold postTo
  split
  · exact .refl s
  · dsimp only
    split
    · exact .refl s
    · split
      · split
        · exact .refl s
        · exact modQcu_posts _ s
      · exact (modQcu_posts _ s).trans ((emit_posts _ _).trans (cntAdd_posts _ _ _ _))

theorem postAll_posts (ty info log : Nat) (s : State) : Posts s (postAll ty info log s) :=
  Posts.foldl (f := fun (s : State) (e : Nat × Ctrl) => postTo e.1 ty info log s) (fun s e => postTo_posts e.1 ty info log s) s.qcu.ctrls s

theorem countDone_posts (k : CmdKind) (st : Status) (s : State) : Posts s (countDone k st s) := by
  unfold countDone
  cases k
  · exact (cntAdd_posts _ _ _ _).trans (modQcu_posts _ _)
  · dsimp only
    refine Posts.trans ?_ (modQcu_posts _ _)
    exact .ite (cntAdd_posts _ _ _ _) (.ite (cntAdd_posts _ _ _ _) (.refl _))
  · exact .refl s

/-- A completion changes counts, queues and what is sent, nothing else. -/
theorem complete_posts (k : CmdKind) (t : Tag) (st : Status) (x y : Nat) (d : List Byte) (s : State) : Posts s (complete k t st x y d s) := by
  unfold complete
  have h := countDone_posts k st s
  dsimp only
  split
  · exact h.trans ((modQcu_posts _ _).trans (emit_posts _ _))
  · exact h

/-- Only counters, headers, error records, queues and messages differ. -/
structure Logs (s t : State) : Prop where
  of ::
  only : ∃ e h c q o, t = { s with err := e, hdr := h, cnt := c, qcu := q, out := o }

theorem Logs.refl (s : State) : Logs s s := ⟨s.err, s.hdr, s.cnt, s.qcu, s.out, rfl⟩
theorem Logs.trans {s t u : State} (a : Logs s t) (b : Logs t u) : Logs s u := by
  obtain ⟨e, h, c, q, o, rfl⟩ := a.only
  obtain ⟨e, h, c, q, o, rfl⟩ := b.only
  exact ⟨e, h, c, q, o, rfl⟩
theorem Logs.ite {s t u : State} {p : Prop} [Decidable p] (a : Logs s t) (b : Logs s u) : Logs s (if p then t else u) := by
  split
  · exact a
  · exact b
theorem Logs.foldl {α : Type} {f : State → α → State} (hf : ∀ s x, Logs s (f s x)) (l : List α) (s : State) : Logs s (l.foldl f s) := by
  induction l generalizing s with
  | nil => exact .refl s
  | cons x l ih => exact (hf s x).trans (ih _)

theorem Posts.logs {s t : State} (a : Posts s t) : Logs s t := by
  obtain ⟨c, q, o, rfl⟩ := a.only
  exact ⟨s.err, s.hdr, c, q, o, rfl⟩
theorem modErr_logs (f : ErrSt → ErrSt) (s : State) : Logs s (modErr f s) := ⟨_, s.hdr, s.cnt, s.qcu, s.out, rfl⟩
theorem modHdr_logs (p : Nat) (f : PageHdr → PageHdr) (s : State) : Logs s (modHdr p f s) := ⟨s.err, _, s.cnt, s.qcu, s.out, rfl⟩
theorem cntAdd_logs (page off n : Nat) (s : State) : Logs s (cntAdd page off n s) := (cntAdd_posts ..).logs
theorem postAll_logs (ty info log : Nat) (s : State) : Logs s (postAll ty info log s) := (postAll_posts ..).logs

theorem ringWrite_logs (r : ErrRec) (s : State) : Logs s (ringWrite r s) := by
  unfold ringWrite
  split
  · exact (modErr_logs _ s).trans (cntAdd_logs _ _ _ _)
  · exact modErr_logs _ s

/-- An error raised changes records, headers, counts and what is posted, nothing else. -/
theorem recordErr_logs (r : Raise) (s : State) : Logs s (recordErr r s) := by
  unfold recordErr
  extract_lets n m a b c d e f
  have ha : Logs s a := by
    show Logs s (match r.bit with | none => s | some b => modHdr r.page (hdrError b r.code) s)
    split
    · exact .refl s
    · exact modHdr_logs _ _ s
  have hb : Logs s b := ha.trans (cntAdd_logs _ _ _ _)
  have hc : Logs s c := .ite (hb.trans (cntAdd_logs _ _ _ _)) hb
  have he : Logs s e := .ite hc (hc.trans (ringWrite_logs _ _))
  have hf : Logs s f := .ite (he.trans (modErr_logs _ _)) he
  exact .ite hf (hf.trans (postAll_logs _ _ _ _))

theorem advisory_logs (p b c x y : Nat) (s : State) : Logs s (advisory p b c x y s) := recordErr_logs _ s
theorem corrected_logs (p b c x y : Nat) (s : State) : Logs s (corrected p b c x y s) := recordErr_logs _ s

/-- Counting leaves every header. -/
theorem hdr_cntAdd (page off n q : Nat) (s : State) : hdr (cntAdd page off n s) q = hdr s q := by unfold cntAdd; split <;> rfl

/-- Beside those, the memories and the contexts may differ. -/
structure Mems (s t : State) : Prop where
  of ::
  only : ∃ e h c q o m x k, t = { s with err := e, hdr := h, cnt := c, qcu := q, out := o, ocm := m, xmc := x, ctxs := k }

theorem Logs.mems {s t : State} (a : Logs s t) : Mems s t := by
  obtain ⟨e, h, c, q, o, rfl⟩ := a.only
  exact ⟨e, h, c, q, o, s.ocm, s.xmc, s.ctxs, rfl⟩
theorem Mems.refl (s : State) : Mems s s := (Logs.refl s).mems
theorem Mems.trans {s t u : State} (a : Mems s t) (b : Mems t u) : Mems s u := by
  obtain ⟨e, h, c, q, o, m, x, k, rfl⟩ := a.only
  obtain ⟨e, h, c, q, o, m, x, k, rfl⟩ := b.only
  exact ⟨e, h, c, q, o, m, x, k, rfl⟩
theorem Mems.ite {s t u : State} {p : Prop} [Decidable p] (a : Mems s t) (b : Mems s u) : Mems s (if p then t else u) := by
  split
  · exact a
  · exact b
theorem Mems.foldl {α : Type} {f : State → α → State} (hf : ∀ s x, Mems s (f s x)) (l : List α) (s : State) : Mems s (l.foldl f s) := by
  induction l generalizing s with
  | nil => exact .refl s
  | cons x l ih => exact (hf s x).trans (ih _)

theorem modOcm_mems (f : OcmSt → OcmSt) (s : State) : Mems s (modOcm f s) := ⟨s.err, s.hdr, s.cnt, s.qcu, s.out, _, s.xmc, s.ctxs, rfl⟩
theorem modXmc_mems (f : XmcSt → XmcSt) (s : State) : Mems s (modXmc f s) := ⟨s.err, s.hdr, s.cnt, s.qcu, s.out, s.ocm, _, s.ctxs, rfl⟩
theorem modCtx_mems (n : Nat) (f : Ctx → Ctx) (s : State) : Mems s (modCtx n f s) := by
  unfold modCtx
  split
  · exact .refl s
  · exact ⟨s.err, s.hdr, s.cnt, s.qcu, s.out, s.ocm, s.xmc, _, rfl⟩

theorem cntAdd_mems (page off n : Nat) (s : State) : Mems s (cntAdd page off n s) := (cntAdd_logs ..).mems
theorem setPhys_mems (b : BankId) (p : Phys) (s : State) : Mems s (setPhys b p s) := modOcm_mems _ s
theorem setOwErr_mems (w : OWord) (m : Nat) (s : State) : Mems s (setOwErr w m s) := modOcm_mems _ s
theorem ocmStore_mems (c : Option Nat) (off : Nat) (d : List Byte) (s : State) : Mems s (ocmStore c off d s) := modOcm_mems _ s
theorem modChan_mems (c : Nat) (f : Chan → Chan) (s : State) : Mems s (modChan c f s) := modXmc_mems _ s
theorem setBurstErr_mems (b : Nat) (e : List (Nat × Nat)) (s : State) : Mems s (setBurstErr b e s) := modXmc_mems _ s
theorem lastBurst_mems (b : Nat) (u : Bool) (y : Nat) (s : State) : Mems s (lastBurst b u y s) := modChan_mems _ _ s

theorem touchBank_mems (b : BankId) (s : State) : Mems s (touchBank b s) := by
  unfold touchBank
  split
  · exact .ite (cntAdd_mems ..) ((cntAdd_mems ..).trans (setPhys_mems ..))
  · exact .refl s

theorem keepRead_mems (w : OWord) (s : State) : Mems s (keepRead w s) := by
  unfold keepRead
  split
  · exact ocmStore_mems ..
  · exact .refl s

theorem owCheck_mems (w : OWord) (s : State) : Mems s (owCheck w s).2 := by
  unfold owCheck
  split <;> dsimp only
  · exact .refl s
  · exact (modOcm_mems _ s).trans (cntAdd_mems ..)
  · have h := (keepRead_mems w s).trans (setOwErr_mems w 0 _)
    have h := h.trans (modOcm_mems (fun o => { o with lastEcc := lastEccOf w false }) _)
    have h := h.trans (cntAdd_mems 0x80 0xB00 1 _)
    have h := h.trans (corrected_logs 0x80 0 0x8001 (lastEccOf w false) 0 _).mems
    exact h

theorem ocmChecks_mems (c : Option Nat) (n : Nat) : ∀ (w : Nat) (s : State), Mems s (ocmChecks c w n s).2 := by
  induction n with
  | zero => intro w s; exact .refl s
  | succ n ih =>
    intro w s
    unfold ocmChecks
    have h := owCheck_mems ⟨c, w⟩ s
    revert h
    generalize owCheck ⟨c, w⟩ s = r
    intro h
    dsimp only
    split
    · exact h.trans (ih _ _)
    · exact h

theorem ocmPartChecks_mems (c : Option Nat) (l : List Nat) : ∀ s : State, Mems s (ocmPartChecks c l s).2 := by
  induction l with
  | nil => intro s; exact .refl s
  | cons w l ih =>
    intro s
    unfold ocmPartChecks
    have h := owCheck_mems ⟨c, w⟩ s
    revert h
    generalize owCheck ⟨c, w⟩ s = r
    intro h
    dsimp only
    split
    · exact h.trans (ih _)
    · exact h

theorem ocmRead_mems (c : Option Nat) (off n : Nat) (s : State) : Mems s (ocmRead c off n s).2 := by
  unfold ocmRead
  split
  · exact .refl s
  · have h := Mems.foldl (f := fun s b => touchBank b s) (fun s b => touchBank_mems b s) (banksOf c off n) s
    have g := h.trans (ocmChecks_mems c ((off + n - 1) / 8 + 1 - off / 8) (off / 8) _)
    dsimp only
    split
    · rename_i e; rw [e] at g; exact g
    · rename_i e; rw [e] at g; exact g

theorem flipNow_mems (c : Option Nat) (off : Nat) (s : State) : Mems s (flipNow c off s) := by
  unfold flipNow
  exact (setOwErr_mems ..).trans ((modOcm_mems _ _).trans (cntAdd_mems ..))

theorem ocmClearErr_mems (c : Option Nat) (off n : Nat) (s : State) : Mems s (ocmClearErr c off n s) := by
  unfold ocmClearErr
  split
  · exact .refl s
  · exact modOcm_mems _ s

theorem ocmWrite_mems (c : Option Nat) (off : Nat) (d : List Byte) (s : State) : Mems s (ocmWrite c off d s).2 := by
  unfold ocmWrite
  split
  · exact .refl s
  · have h := Mems.foldl (f := fun s b => touchBank b s) (fun s b => touchBank_mems b s) (banksOf c off d.length) s
    have g := h.trans (ocmPartChecks_mems c (partialWords off d.length) _)
    dsimp only
    split
    · rename_i e; rw [e] at g; exact g
    · rename_i x e
      rw [e] at g
      have k := g.trans ((ocmClearErr_mems c off d.length x).trans (ocmStore_mems c off d _))
      split
      · exact k.trans (flipNow_mems ..)
      · exact k

theorem xmCnt_mems (c off n : Nat) (s : State) : Mems s (xmCnt c off n s) := (cntAdd_logs _ _ _ _).mems

theorem keepBurst_mems (b : Nat) (s : State) : Mems s (keepBurst b s) := by
  unfold keepBurst
  split
  · exact modXmc_mems _ s
  · exact .refl s

theorem burstCheck_mems (b : Nat) (s : State) : Mems s (burstCheck b s).2 := by
  unfold burstCheck
  have h := xmCnt_mems (xmChannel (64 * b)) 0x800 1 s
  dsimp only
  split
  · exact h
  · exact h.trans ((xmCnt_mems ..).trans ((lastBurst_mems ..).trans (advisory_logs ..).mems))
  · exact h.trans ((keepBurst_mems ..).trans ((lastBurst_mems ..).trans ((setBurstErr_mems ..).trans ((xmCnt_mems ..).trans ((xmCnt_mems ..).trans
      ((xmCnt_mems ..).trans (corrected_logs ..).mems))))))

theorem burstChecks_mems (n : Nat) : ∀ (b : Nat) (s : State), Mems s (burstChecks b n s).2 := by
  induction n with
  | zero => intro b s; exact .refl s
  | succ n ih =>
    intro b s
    unfold burstChecks
    have h := burstCheck_mems b s
    revert h
    generalize burstCheck b s = r
    intro h
    dsimp only
    split
    · exact h.trans (ih _ _)
    · exact h

theorem burstPartChecks_mems (l : List Nat) : ∀ s : State, Mems s (burstPartChecks l s).2 := by
  induction l with
  | nil => intro s; exact .refl s
  | cons b l ih =>
    intro s
    unfold burstPartChecks
    have h := burstCheck_mems b s
    revert h
    generalize burstCheck b s = r
    intro h
    dsimp only
    split
    · exact h.trans (ih _)
    · exact h

theorem xmRead_mems (a n : Nat) (s : State) : Mems s (xmRead a n s).2 := by
  unfold xmRead
  split
  · exact .refl s
  · have h := burstChecks_mems ((a + n - 1) / 64 + 1 - a / 64) (a / 64) s
    dsimp only
    split
    · rename_i e; rw [e] at h; exact h
    · rename_i e; rw [e] at h; exact h

theorem xmFlips_mems (n : Nat) : ∀ (b : Nat) (s : State), Mems s (xmFlips b n s) := by
  induction n with
  | zero => intro b s; exact .refl s
  | succ n ih =>
    intro b s
    unfold xmFlips
    dsimp only
    refine Mems.trans ?_ (ih _ _)
    exact .ite ((xmCnt_mems ..).trans ((setBurstErr_mems ..).trans ((modChan_mems ..).trans (xmCnt_mems ..)))) (xmCnt_mems ..)

theorem xmWrite_mems (a : Nat) (d : List Byte) (s : State) : Mems s (xmWrite a d s).2 := by
  unfold xmWrite
  split
  · exact .refl s
  · have h := burstPartChecks_mems (partialBursts a d.length) s
    dsimp only
    split
    · rename_i e; rw [e] at h; exact h
    · rename_i x e
      rw [e] at h
      exact h.trans ((modXmc_mems _ x).trans (xmFlips_mems ..))

theorem readSegs_mems (m : SMap Byte) (o : Owner) (l : List Seg) : ∀ s : State, Mems s (readSegs m o l s).2 := by
  induction l with
  | nil => intro s; exact .refl s
  | cons g l ih =>
    intro s
    unfold readSegs
    dsimp only
    have go : ∀ r : WRd × State, Mems s r.2 → Mems s (match r with
        | (.data d, s) => match readSegs m o l s with
          | (.data d2, s) => (WRd.data (d ++ d2), s)
          | x => x
        | x => x).2 := by
      intro r hr
      obtain ⟨a, u⟩ := r
      cases a with
      | data d =>
        have k := hr.trans (ih u)
        dsimp only
        revert k
        generalize readSegs m o l u = z
        intro k
        obtain ⟨a, v⟩ := z
        cases a <;> exact k
      | fault c o => exact hr
      | stall w => exact hr
    refine go _ ?_
    cases g with
    | spad off n =>
      have h := ocmRead_mems none off n s
      dsimp only
      revert h; generalize ocmRead none off n s = z; intro h
      obtain ⟨a, v⟩ := z
      cases a
      · cases o <;> exact h
      · exact h
    | loc k off n =>
      have h := ocmRead_mems (some k) off n s
      dsimp only
      revert h; generalize ocmRead (some k) off n s = z; intro h
      obtain ⟨a, v⟩ := z
      cases a <;> exact h
    | xm a n =>
      have h := xmRead_mems a n s
      dsimp only
      revert h; generalize xmRead a n s = z; intro h
      obtain ⟨a, v⟩ := z
      cases a
      · cases o <;> exact h
      · exact h
    | out off n => exact .refl s

/-- A read through a window changes marks of errors, counts and records, and the memories only where a word is corrected. -/
theorem readWin_mems (k c a n : Nat) (s : State) : Mems s (readWin k c a n s).2 := by
  unfold readWin
  split
  · exact .refl s
  · split
    · exact .refl s
    · exact .refl s
    · exact readSegs_mems ..

theorem writeSegs_mems (n : Nat) (l : List Seg) : ∀ (d : List Byte) (s : State), Mems s (writeSegs n l d s).2 := by
  induction l with
  | nil => intro d s; exact .refl s
  | cons g l ih =>
    intro d s
    unfold writeSegs
    dsimp only
    have go : ∀ r : Nat × (Option Code × State), Mems s r.2.2 → Mems s (match r with
        | (n', r) => match r with
          | (some e, s) => (some e, s)
          | (none, s) => writeSegs n l (d.drop n') s).2 := by
      intro r hr
      obtain ⟨a, b, u⟩ := r
      cases b with
      | some e => exact hr
      | none => exact Mems.trans hr (ih _ _)
    refine go _ ?_
    cases g with
    | spad off k =>
      have h := ocmWrite_mems none off (d.take k) s
      dsimp only
      revert h; generalize ocmWrite none off (d.take k) s = z; intro h
      obtain ⟨a, v⟩ := z
      cases a <;> exact h
    | loc j off k =>
      have h := ocmWrite_mems (some j) off (d.take k) s
      dsimp only
      revert h; generalize ocmWrite (some j) off (d.take k) s = z; intro h
      obtain ⟨a, v⟩ := z
      cases a <;> exact h
    | xm a k =>
      have h := xmWrite_mems a (d.take k) s
      dsimp only
      revert h; generalize xmWrite a (d.take k) s = z; intro h
      obtain ⟨a, v⟩ := z
      cases a <;> exact h
    | out off k => exact modCtx_mems n _ s

/-- A write through a window changes the memories, the step's output, counts and records, nothing else. -/
theorem writeWin_mems (k c a : Nat) (d : List Byte) (s : State) : Mems s (writeWin k c a d s).2 := by
  unfold writeWin
  split
  · exact .refl s
  · split
    · exact .refl s
    · exact .refl s
    · exact writeSegs_mems ..

end Sys2Proof.Machine
end

