-- ==== Sys2Proof/Laws/Goes.lean ====
section
/-! SUPPORT. Every meaning answers a next state: one lemma for each operation that answers an outcome and for each command. A
core command asks that the core be one of the 48. -/
namespace Sys2Proof.Machine
open Sys2Proof
/-- An outcome that is a next state. -/
def Goes (r : Res) : Prop := ∃ t, r = .next t
/-- An outcome that is absent or a next state. -/
structure OptGoes (o : Option Res) : Prop where
  of ::
  goes : ∀ r, o = some r → Goes r
theorem OptGoes.none : OptGoes Option.none := ⟨fun _ h => by cases h⟩
theorem OptGoes.some {r : Res} (h : Goes r) : OptGoes (Option.some r) := ⟨fun u hu => by injection hu with hu; subst hu; exact h⟩
/-- Each check of a list is absent or a next state. -/
inductive AllGoes : List (Option Res) → Prop where
  | nil : AllGoes []
  | cons {o : Option Res} {l : List (Option Res)} : OptGoes o → AllGoes l → AllGoes (o :: l)
theorem AllGoes.append {l m : List (Option Res)} (hl : AllGoes l) (hm : AllGoes m) : AllGoes (l ++ m) := by
  induction hl with
  | nil => exact hm
  | cons h _ ih => exact .cons h ih
theorem afterChecks_goes (l : List (Option Res)) (f : Unit → Res) (hl : AllGoes l) (hf : ∀ u, Goes (f u)) : Goes (afterChecks l f) := by
  unfold afterChecks
  induction hl with
  | nil => exact hf ()
  | @cons o l ho _ ih =>
    cases o with
    | none => simpa using ih
    | some r => simpa using ho.goes r rfl
theorem matSource_goes {k n src srcRow a rows : Nat} {s u : State} {x : Res} (h : matSource k n src srcRow a rows s = (.error x, u)) : Goes x := by
  unfold matSource at h
  repeat' split at h
  all_goals first
    | (injection h with h1 h2; cases h1; done)
    | (injection h with h1 h2; injection h1 with h1; subst h1; exact ⟨_, rfl⟩)
theorem deqScale_goes {k : Nat} {r : Run} {c : Ctx} {st : Step} {f : IFields} {s : State} {x : Res} (h : deqScale k r c st f s = .error x) : Goes x := by
  simp only [deqScale] at h
  repeat' split at h
  all_goals first
    | (cases h; done)
    | (injection h with h; subst h; exact ⟨_, rfl⟩)
theorem deqCols_goes {k : Nat} {r : Run} {f : IFields} {s : State} {x : Res} (h : deqCols k r f s = .error x) : Goes x := by
  simp only [deqCols] at h
  repeat' split at h
  all_goals first
    | (cases h; done)
    | (injection h with h; subst h; exact ⟨_, rfl⟩)
theorem ok_goes (s0 : State) : Goes (ok s0) := by
  unfold ok
  all_goals repeat' (first
    | (exact ⟨_, rfl⟩))

theorem mgmtRow_goes (code : Nat) (a : List Byte) (s0 : State) : Goes (mgmtRow code a s0) := by
  unfold mgmtRow
  all_goals repeat' (first
    | (with_reducible refine ok_goes _)
    | split)

theorem execTamperCfg_goes (a : List Byte) (s0 : State) : Goes (execTamperCfg a s0) := by
  unfold execTamperCfg
  all_goals repeat' (first
    | (with_reducible refine mgmtRow_goes _ _ _))

theorem onCore_goes (k : Nat) (s0 : State) (f : Run → Ctx → Step → Res) (hf : ∀ b0 b1 b2, Goes (f b0 b1 b2)) (hk : k < 48) : Goes (onCore k s0 f) := by
  unfold onCore
  all_goals repeat' (first
    | (with_reducible apply hf)
    | (with_reducible refine ok_goes _)
    | (exfalso; omega)
    | split)

theorem coreFault_goes (k : Nat) (r : Run) (code : Code) (s0 : State) : Goes (coreFault k r code s0) := by
  unfold coreFault
  all_goals repeat' (first
    | (with_reducible refine ok_goes _))

theorem insn_goes (k : Nat) (l1 : Bool) (bad : Bool) (s0 : State) (f : Run → Ctx → Step → Res) (hf : ∀ b0 b1 b2, Goes (f b0 b1 b2)) (hk : k < 48) : Goes (insn k l1 bad s0 f) := by
  unfold insn
  all_goals repeat' (first
    | (with_reducible apply hf)
    | (with_reducible refine onCore_goes _ _ _ ?_ (by assumption))
    | (with_reducible refine coreFault_goes _ _ _ _)
    | intro _
    | split)

theorem stay_goes (k : Nat) (w : Wait) (s0 : State) : Goes (stay k w s0) := by
  unfold stay
  all_goals repeat' (first
    | (with_reducible refine ok_goes _))

theorem vsuInsn_goes (k : Nat) (l1 : Bool) (bad : Bool) (s0 : State) (f : Run → Ctx → Step → Res) (hf : ∀ b0 b1 b2, Goes (f b0 b1 b2)) (hk : k < 48) : Goes (vsuInsn k l1 bad s0 f) := by
  unfold vsuInsn
  all_goals repeat' (first
    | (with_reducible apply hf)
    | (with_reducible refine insn_goes _ _ _ _ _ ?_ (by assumption))
    | (with_reducible refine stay_goes _ _ _)
    | intro _
    | split)

theorem chkCount_goes (k : Nat) (r : Run) (n : Nat) (lo : Nat) (hi : Nat) (s0 : State) : OptGoes (chkCount k r n lo hi s0) := by
  unfold chkCount
  all_goals repeat' (first
    | exact OptGoes.none
    | (with_reducible apply OptGoes.some)
    | (with_reducible refine coreFault_goes _ _ _ _)
    | split)

theorem chkAlign_goes (k : Nat) (r : Run) (a : Nat) (n : Nat) (s0 : State) : OptGoes (chkAlign k r a n s0) := by
  unfold chkAlign
  all_goals repeat' (first
    | exact OptGoes.none
    | (with_reducible apply OptGoes.some)
    | (with_reducible refine coreFault_goes _ _ _ _)
    | split)

theorem chkRd_goes (k : Nat) (r : Run) (st : Step) (x : Ext) (s0 : State) : OptGoes (chkRd k r st x s0) := by
  unfold chkRd
  all_goals repeat' (first
    | exact OptGoes.none
    | (with_reducible apply OptGoes.some)
    | (with_reducible refine coreFault_goes _ _ _ _)
    | (with_reducible refine stay_goes _ _ _)
    | split)

theorem chkWr_goes (k : Nat) (r : Run) (x : Ext) (s0 : State) : OptGoes (chkWr k r x s0) := by
  unfold chkWr
  all_goals repeat' (first
    | exact OptGoes.none
    | (with_reducible apply OptGoes.some)
    | (with_reducible refine coreFault_goes _ _ _ _)
    | (with_reducible refine stay_goes _ _ _)
    | split)

theorem rdThen_goes (k : Nat) (n : Nat) (a : Nat) (len : Nat) (s0 : State) (f : List Byte → State → Res) (hf : ∀ b0 b1, Goes (f b0 b1)) : Goes (rdThen k n a len s0 f) := by
  unfold rdThen
  all_goals repeat' (first
    | (with_reducible apply hf)
    | (with_reducible refine ok_goes _)
    | (with_reducible refine stay_goes _ _ _)
    | split)

theorem wrThen_goes (k : Nat) (n : Nat) (a : Nat) (d : List Byte) (s0 : State) (f : State → Res) (hf : ∀ b0, Goes (f b0)) : Goes (wrThen k n a d s0 f) := by
  unfold wrThen
  all_goals repeat' (first
    | (with_reducible apply hf)
    | (with_reducible refine ok_goes _)
    | split)

theorem vecOp_goes (k : Nat) (f : IFields) (useY : Bool) (useD : Bool) (s0 : State) (g : Nat → Nat → Nat → Nat) (hk : k < 48) : Goes (vecOp k f useY useD s0 g) := by
  unfold vecOp
  all_goals repeat' (first
    | (with_reducible refine vsuInsn_goes _ _ _ _ _ ?_ (by assumption))
    | (with_reducible refine chkCount_goes _ _ _ _ _ _)
    | (with_reducible refine chkAlign_goes _ _ _ _ _)
    | (with_reducible refine chkRd_goes _ _ _ _ _)
    | (with_reducible refine chkWr_goes _ _ _ _)
    | (with_reducible refine rdThen_goes _ _ _ _ _ _ ?_)
    | (with_reducible refine wrThen_goes _ _ _ _ _ _ ?_)
    | (with_reducible refine ok_goes _)
    | (with_reducible apply afterChecks_goes)
    | exact AllGoes.nil
    | (with_reducible apply AllGoes.cons)
    | (with_reducible apply AllGoes.append)
    | intro _
    | split)

theorem execVectorAbs_goes (k : Nat) (f : IFields) (s0 : State) (hk : k < 48) : Goes (execVectorAbs k f s0) := by
  unfold execVectorAbs
  all_goals repeat' (first
    | (with_reducible refine vecOp_goes _ _ _ _ _ _ (by assumption)))

theorem execFlitGroupCrcFail_goes (replayOk : Bool) (s0 : State) : Goes (execFlitGroupCrcFail replayOk s0) := by
  unfold execFlitGroupCrcFail
  all_goals repeat' (first
    | (with_reducible refine ok_goes _)
    | (extract_lets x)
    | split)

theorem execObjRefetched_goes (addr : Nat) (s0 : State) : Goes (execObjRefetched addr s0) := by
  unfold execObjRefetched
  all_goals repeat' (first
    | (with_reducible refine ok_goes _)
    | (extract_lets x)
    | split)

theorem matRun_goes (k : Nat) (r : Run) (c : Ctx) (st : Step) (f : IFields) (e : ActEnv) (np : Nat) (disc : Bool) (s0 : State) : Goes (matRun k r c st f e np disc s0) := by
  unfold matRun
  all_goals repeat' (first
    | (with_reducible refine ok_goes _)
    | (with_reducible refine stay_goes _ _ _)
    | (with_reducible refine coreFault_goes _ _ _ _)
    | exact matSource_goes (by assumption)
    | (extract_lets x)
    | split)

theorem adminRow_goes (t : Tag) (op : Nat) (q : Sqe) (serves : Bool) (f : State → State) (s0 : State) : Goes (adminRow t op q serves f s0) := by
  unfold adminRow
  all_goals repeat' (first
    | (with_reducible refine ok_goes _)
    | split)

theorem execGetFeatures_goes (t : Tag) (q : Sqe) (_d : List Byte) (s0 : State) : Goes (execGetFeatures t q _d s0) := by
  unfold execGetFeatures
  all_goals repeat' (first
    | (with_reducible refine adminRow_goes _ _ _ _ _ _))

theorem execWaitev_goes (k : Nat) (f : IFields) (s0 : State) (hk : k < 48) : Goes (execWaitev k f s0) := by
  unfold execWaitev
  all_goals repeat' (first
    | (with_reducible refine insn_goes _ _ _ _ _ ?_ (by assumption))
    | (with_reducible refine ok_goes _)
    | (with_reducible refine stay_goes _ _ _)
    | (extract_lets x)
    | intro _
    | split)

theorem execCertWrite_goes (a : List Byte) (s0 : State) : Goes (execCertWrite a s0) := by
  unfold execCertWrite
  all_goals repeat' (first
    | (with_reducible refine mgmtRow_goes _ _ _))

theorem regRow_goes (p : Path) (page : Nat) (off : Nat) (f : State → State) (s0 : State) : Goes (regRow p page off f s0) := by
  unfold regRow
  all_goals repeat' (first
    | (with_reducible refine ok_goes _)
    | split)

theorem execCheckInjectArm_goes (p : Path) (k : Nat) (w : Word) (s0 : State) (hk : k < 48) : Goes (execCheckInjectArm p k w s0) := by
  unfold execCheckInjectArm
  all_goals repeat' (first
    | (with_reducible refine regRow_goes _ _ _ _ _)
    | (exfalso; omega)
    | split)

theorem execTakeOwnership_goes (a : List Byte) (s0 : State) : Goes (execTakeOwnership a s0) := by
  unfold execTakeOwnership
  all_goals repeat' (first
    | (with_reducible refine mgmtRow_goes _ _ _))

theorem mctpRow_goes (f : State → State) (s0 : State) : Goes (mctpRow f s0) := by
  unfold mctpRow
  all_goals repeat' (first
    | (with_reducible refine ok_goes _)
    | split)

theorem spdmRow_goes (f : State → Ans) (s0 : State) : Goes (spdmRow f s0) := by
  unfold spdmRow
  all_goals repeat' (first
    | (with_reducible refine mctpRow_goes _ _))

theorem execChunkGet_goes (m : List Byte) (s0 : State) : Goes (execChunkGet m s0) := by
  unfold execChunkGet
  all_goals repeat' (first
    | (with_reducible refine spdmRow_goes _ _))

theorem scalarOp_goes (k : Nat) (f : IFields) (s0 : State) (v : Run → DWord) (hk : k < 48) : Goes (scalarOp k f s0 v) := by
  unfold scalarOp
  all_goals repeat' (first
    | (with_reducible refine insn_goes _ _ _ _ _ ?_ (by assumption))
    | (with_reducible refine ok_goes _)
    | intro _)

theorem scalarBin_goes (k : Nat) (f : IFields) (s0 : State) (g : DWord → DWord → DWord) (hk : k < 48) : Goes (scalarBin k f s0 g) := by
  unfold scalarBin
  all_goals repeat' (first
    | (with_reducible refine scalarOp_goes _ _ _ _ (by assumption)))

theorem jumpTo_goes (k : Nat) (r : Run) (t : Nat) (s0 : State) : Goes (jumpTo k r t s0) := by
  unfold jumpTo
  all_goals repeat' (first
    | (with_reducible refine coreFault_goes _ _ _ _)
    | (with_reducible refine ok_goes _)
    | split)

theorem branchIf_goes (k : Nat) (f : IFields) (s0 : State) (p : DWord → DWord → Bool) (hk : k < 48) : Goes (branchIf k f s0 p) := by
  unfold branchIf
  all_goals repeat' (first
    | (with_reducible refine insn_goes _ _ _ _ _ ?_ (by assumption))
    | (with_reducible refine jumpTo_goes _ _ _ _)
    | (with_reducible refine ok_goes _)
    | intro _
    | split)

theorem execVectorMul_goes (k : Nat) (f : IFields) (s0 : State) (hk : k < 48) : Goes (execVectorMul k f s0) := by
  unfold execVectorMul
  all_goals repeat' (first
    | (with_reducible refine vecOp_goes _ _ _ _ _ _ (by assumption)))

theorem execPpsInEdge_goes (t : Nat) (s0 : State) : Goes (execPpsInEdge t s0) := by
  unfold execPpsInEdge
  all_goals repeat' (first
    | (with_reducible refine ok_goes _)
    | (extract_lets x)
    | split)

theorem matIssue_goes (k : Nat) (r : Run) (c : Ctx) (st : Step) (f : IFields) (conv : Option ConvP) (rows : Nat) (tiles : Nat) (s0 : State) : Goes (matIssue k r c st f conv rows tiles s0) := by
  unfold matIssue
  all_goals repeat' (first
    | (with_reducible refine coreFault_goes _ _ _ _)
    | (with_reducible refine chkRd_goes _ _ _ _ _)
    | (with_reducible refine chkWr_goes _ _ _ _)
    | (with_reducible refine rdThen_goes _ _ _ _ _ _ ?_)
    | (with_reducible refine matRun_goes _ _ _ _ _ _ _ _ _)
    | (with_reducible apply afterChecks_goes)
    | exact AllGoes.nil
    | (with_reducible apply AllGoes.cons)
    | (with_reducible apply AllGoes.append)
    | (extract_lets x)
    | intro _
    | split)

theorem convIssue_goes (k : Nat) (f : IFields) (two : Bool) (r : Run) (c : Ctx) (st : Step) (s0 : State) : Goes (convIssue k f two r c st s0) := by
  unfold convIssue
  all_goals repeat' (first
    | (with_reducible refine stay_goes _ _ _)
    | (with_reducible refine coreFault_goes _ _ _ _)
    | (with_reducible refine chkRd_goes _ _ _ _ _)
    | (with_reducible refine rdThen_goes _ _ _ _ _ _ ?_)
    | (with_reducible refine matIssue_goes _ _ _ _ _ _ _ _ _)
    | (with_reducible apply afterChecks_goes)
    | exact AllGoes.nil
    | (with_reducible apply AllGoes.cons)
    | (extract_lets x)
    | intro _
    | split)

theorem execConv1d_goes (k : Nat) (f : IFields) (s0 : State) (hk : k < 48) : Goes (execConv1d k f s0) := by
  unfold execConv1d
  all_goals repeat' (first
    | (with_reducible refine insn_goes _ _ _ _ _ ?_ (by assumption))
    | (with_reducible refine convIssue_goes _ _ _ _ _ _ _)
    | intro _)

theorem execTdstore_goes (k : Nat) (f : IFields) (s0 : State) (hk : k < 48) : Goes (execTdstore k f s0) := by
  unfold execTdstore
  all_goals repeat' (first
    | (with_reducible refine insn_goes _ _ _ _ _ ?_ (by assumption))
    | (with_reducible refine stay_goes _ _ _)
    | (with_reducible refine chkWr_goes _ _ _ _)
    | (with_reducible refine wrThen_goes _ _ _ _ _ _ ?_)
    | (with_reducible refine ok_goes _)
    | (with_reducible apply afterChecks_goes)
    | exact AllGoes.nil
    | (with_reducible apply AllGoes.cons)
    | intro _
    | split)

theorem ptpTake_goes (m : PtpMsg) (f : State → State) (s0 : State) : Goes (ptpTake m f s0) := by
  unfold ptpTake
  all_goals repeat' (first
    | (with_reducible refine ok_goes _)
    | split)

theorem execPtpDelayResp_goes (m : PtpMsg) (s0 : State) : Goes (execPtpDelayResp m s0) := by
  unfold execPtpDelayResp
  all_goals repeat' (first
    | (with_reducible refine ptpTake_goes _ _ _))

theorem nvmRow_goes (t : Tag) (op : Nat) (q : Sqe) (f : State → State) (s0 : State) : Goes (nvmRow t op q f s0) := by
  unfold nvmRow
  all_goals repeat' (first
    | (with_reducible refine ok_goes _)
    | split)

theorem execNvmRead_goes (t : Tag) (q : Sqe) (_d : List Byte) (s0 : State) : Goes (execNvmRead t q _d s0) := by
  unfold execNvmRead
  all_goals repeat' (first
    | (with_reducible refine nvmRow_goes _ _ _ _ _))

theorem execWriteZeroes_goes (t : Tag) (q : Sqe) (_d : List Byte) (s0 : State) : Goes (execWriteZeroes t q _d s0) := by
  unfold execWriteZeroes
  all_goals repeat' (first
    | (with_reducible refine nvmRow_goes _ _ _ _ _))

theorem execSessionRecord_goes (m : List Byte) (s0 : State) : Goes (execSessionRecord m s0) := by
  unfold execSessionRecord
  all_goals repeat' (first
    | (with_reducible refine spdmRow_goes _ _))

theorem execSyncInterval_goes (s0 : State) : Goes (execSyncInterval s0) := by
  unfold execSyncInterval
  all_goals repeat' (first
    | (with_reducible refine ok_goes _))

theorem execLinkDown_goes (s0 : State) : Goes (execLinkDown s0) := by
  unfold execLinkDown
  all_goals repeat' (first
    | (with_reducible refine ok_goes _)
    | split)

theorem execStraitMemCfgWrite_goes (p : Path) (off : Nat) (w : Word) (s0 : State) : Goes (execStraitMemCfgWrite p off w s0) := by
  unfold execStraitMemCfgWrite
  all_goals repeat' (first
    | (with_reducible refine regRow_goes _ _ _ _ _)
    | (with_reducible refine ok_goes _)
    | split)

theorem bcsRow_goes (t : Tag) (op : Nat) (q : Sqe) (bad : Option Nat) (f : State → State) (s0 : State) : Goes (bcsRow t op q bad f s0) := by
  unfold bcsRow
  all_goals repeat' (first
    | (with_reducible refine ok_goes _)
    | split)

theorem execSequenceJoin_goes (t : Tag) (q : Sqe) (d : List Byte) (s0 : State) : Goes (execSequenceJoin t q d s0) := by
  unfold execSequenceJoin
  all_goals repeat' (first
    | (with_reducible refine bcsRow_goes _ _ _ _ _ _))

theorem execVectorMin_goes (k : Nat) (f : IFields) (s0 : State) (hk : k < 48) : Goes (execVectorMin k f s0) := by
  unfold execVectorMin
  all_goals repeat' (first
    | (with_reducible refine vecOp_goes _ _ _ _ _ _ (by assumption)))

theorem execNamespaceAttachment_goes (t : Tag) (q : Sqe) (d : List Byte) (s0 : State) : Goes (execNamespaceAttachment t q d s0) := by
  unfold execNamespaceAttachment
  all_goals repeat' (first
    | (with_reducible refine adminRow_goes _ _ _ _ _ _))

theorem straitRow_goes (type : Nat) (m : StraitMsg) (s0 : State) : Goes (straitRow type m s0) := by
  unfold straitRow
  all_goals repeat' (first
    | (with_reducible refine ok_goes _)
    | split)

theorem execPs4Exit_goes (s0 : State) : Goes (execPs4Exit s0) := by
  unfold execPs4Exit
  all_goals repeat' (first
    | (with_reducible refine ok_goes _))

theorem execAadd_goes (k : Nat) (f : IFields) (s0 : State) (hk : k < 48) : Goes (execAadd k f s0) := by
  unfold execAadd
  all_goals repeat' (first
    | (with_reducible refine insn_goes _ _ _ _ _ ?_ (by assumption))
    | (with_reducible refine ok_goes _)
    | intro _)

theorem execBankWake_goes (b : BankId) (s0 : State) (hc : bankOk b = true) : Goes (execBankWake b s0) := by
  unfold execBankWake
  all_goals repeat' (first
    | (with_reducible refine ok_goes _)
    | (exfalso; simp_all; done)
    | split)

theorem execFlush_goes (t : Tag) (q : Sqe) (_d : List Byte) (s0 : State) : Goes (execFlush t q _d s0) := by
  unfold execFlush
  all_goals repeat' (first
    | (with_reducible refine nvmRow_goes _ _ _ _ _))

theorem execAbort_goes (t : Tag) (q : Sqe) (_d : List Byte) (s0 : State) : Goes (execAbort t q _d s0) := by
  unfold execAbort
  all_goals repeat' (first
    | (with_reducible refine adminRow_goes _ _ _ _ _ _))

theorem execSub_goes (k : Nat) (f : IFields) (s0 : State) (hk : k < 48) : Goes (execSub k f s0) := by
  unfold execSub
  all_goals repeat' (first
    | (with_reducible refine scalarBin_goes _ _ _ _ (by assumption)))

theorem execChannelStopsResponding_goes (ch : Nat) (s0 : State) : Goes (execChannelStopsResponding ch s0) := by
  unfold execChannelStopsResponding
  all_goals repeat' (first
    | (with_reducible refine ok_goes _)
    | split)

theorem execSidebandRead_goes (req : List Byte) (s0 : State) : Goes (execSidebandRead req s0) := by
  unfold execSidebandRead
  all_goals repeat' (first
    | (with_reducible refine mctpRow_goes _ _))

theorem execSourceWrite_goes (p : Path) (w : Word) (s0 : State) : Goes (execSourceWrite p w s0) := by
  unfold execSourceWrite
  all_goals repeat' (first
    | (with_reducible refine regRow_goes _ _ _ _ _))

theorem execModuleReset_goes (s0 : State) : Goes (execModuleReset s0) := by
  unfold execModuleReset
  all_goals repeat' (first
    | (with_reducible refine ok_goes _)
    | split)

theorem execScrubAbort_goes (p : Path) (w : Word) (s0 : State) : Goes (execScrubAbort p w s0) := by
  unfold execScrubAbort
  all_goals repeat' (first
    | (with_reducible refine regRow_goes _ _ _ _ _))

theorem execFirmwareCommit_goes (t : Tag) (q : Sqe) (_d : List Byte) (s0 : State) : Goes (execFirmwareCommit t q _d s0) := by
  unfold execFirmwareCommit
  all_goals repeat' (first
    | (with_reducible refine adminRow_goes _ _ _ _ _ _))

theorem execPfcRepeat_goes (p : Nat) (s0 : State) : Goes (execPfcRepeat p s0) := by
  unfold execPfcRepeat
  all_goals repeat' (first
    | (with_reducible refine ok_goes _)
    | split)

theorem execConnect_goes (t : Tag) (q : Sqe) (d : List Byte) (s0 : State) : Goes (execConnect t q d s0) := by
  unfold execConnect
  all_goals repeat' (first
    | (with_reducible refine ok_goes _)
    | (extract_lets x)
    | split)

theorem loneCommand_goes (op : Nat) (t : Tag) (q : Sqe) (d : List Byte) (s0 : State) : Goes (loneCommand op t q d s0) := by
  unfold loneCommand
  all_goals repeat' (first
    | (with_reducible refine ok_goes _)
    | (with_reducible refine execConnect_goes _ _ _ _)
    | split)

theorem execGetLogPage_goes (t : Tag) (q : Sqe) (_d : List Byte) (s0 : State) : Goes (execGetLogPage t q _d s0) := by
  unfold execGetLogPage
  all_goals repeat' (first
    | (with_reducible refine adminRow_goes _ _ _ _ _ _))

theorem execIdentify_goes (t : Tag) (q : Sqe) (_d : List Byte) (s0 : State) : Goes (execIdentify t q _d s0) := by
  unfold execIdentify
  all_goals repeat' (first
    | (with_reducible refine adminRow_goes _ _ _ _ _ _))

theorem execSetFeaturesPowerManagement_goes (t : Tag) (q : Sqe) (_d : List Byte) (s0 : State) : Goes (execSetFeaturesPowerManagement t q _d s0) := by
  unfold execSetFeaturesPowerManagement
  all_goals repeat' (first
    | (with_reducible refine ok_goes _)
    | (extract_lets x)
    | split)

theorem execSetFeaturesNumberOfQueues_goes (t : Tag) (q : Sqe) (_d : List Byte) (s0 : State) : Goes (execSetFeaturesNumberOfQueues t q _d s0) := by
  unfold execSetFeaturesNumberOfQueues
  all_goals repeat' (first
    | (with_reducible refine adminRow_goes _ _ _ _ _ _))

theorem execSetFeatures_goes (t : Tag) (q : Sqe) (_d : List Byte) (s0 : State) : Goes (execSetFeatures t q _d s0) := by
  unfold execSetFeatures
  all_goals repeat' (first
    | (with_reducible refine adminRow_goes _ _ _ _ _ _))

theorem setFeaturesCommand_goes (t : Tag) (q : Sqe) (d : List Byte) (s0 : State) : Goes (setFeaturesCommand t q d s0) := by
  unfold setFeaturesCommand
  all_goals repeat' (first
    | (with_reducible refine execSetFeaturesPowerManagement_goes _ _ _ _)
    | (with_reducible refine execSetFeaturesNumberOfQueues_goes _ _ _ _)
    | (with_reducible refine execSetFeatures_goes _ _ _ _)
    | split)

theorem execAsynchronousEventRequest_goes (t : Tag) (q : Sqe) (_d : List Byte) (s0 : State) : Goes (execAsynchronousEventRequest t q _d s0) := by
  unfold execAsynchronousEventRequest
  all_goals repeat' (first
    | (with_reducible refine adminRow_goes _ _ _ _ _ _))

theorem execNamespaceManagement_goes (t : Tag) (q : Sqe) (d : List Byte) (s0 : State) : Goes (execNamespaceManagement t q d s0) := by
  unfold execNamespaceManagement
  all_goals repeat' (first
    | (with_reducible refine adminRow_goes _ _ _ _ _ _))

theorem execFirmwareImageDownload_goes (t : Tag) (q : Sqe) (d : List Byte) (s0 : State) : Goes (execFirmwareImageDownload t q d s0) := by
  unfold execFirmwareImageDownload
  all_goals repeat' (first
    | (with_reducible refine adminRow_goes _ _ _ _ _ _))

theorem execKeepAlive_goes (t : Tag) (q : Sqe) (_d : List Byte) (s0 : State) : Goes (execKeepAlive t q _d s0) := by
  unfold execKeepAlive
  all_goals repeat' (first
    | (with_reducible refine adminRow_goes _ _ _ _ _ _))

theorem fabricsRow_goes (t : Tag) (q : Sqe) (admin : Bool) (f : Nat → Nat → State → State) (s0 : State) : Goes (fabricsRow t q admin f s0) := by
  unfold fabricsRow
  all_goals repeat' (first
    | (with_reducible refine ok_goes _)
    | split)

theorem execPropertySet_goes (t : Tag) (q : Sqe) (_d : List Byte) (s0 : State) : Goes (execPropertySet t q _d s0) := by
  unfold execPropertySet
  all_goals repeat' (first
    | (with_reducible refine fabricsRow_goes _ _ _ _ _))

theorem execPropertyGet_goes (t : Tag) (q : Sqe) (_d : List Byte) (s0 : State) : Goes (execPropertyGet t q _d s0) := by
  unfold execPropertyGet
  all_goals repeat' (first
    | (with_reducible refine fabricsRow_goes _ _ _ _ _))

theorem execDisconnect_goes (t : Tag) (q : Sqe) (_d : List Byte) (s0 : State) : Goes (execDisconnect t q _d s0) := by
  unfold execDisconnect
  all_goals repeat' (first
    | (with_reducible refine fabricsRow_goes _ _ _ _ _))

theorem execInvalidCommandOpcode_goes (t : Tag) (q : Sqe) (_d : List Byte) (s0 : State) : Goes (execInvalidCommandOpcode t q _d s0) := by
  unfold execInvalidCommandOpcode
  all_goals repeat' (first
    | (with_reducible refine ok_goes _)
    | split)

theorem fabricsCommand_goes (t : Tag) (q : Sqe) (d : List Byte) (s0 : State) : Goes (fabricsCommand t q d s0) := by
  unfold fabricsCommand
  all_goals repeat' (first
    | (with_reducible refine execPropertySet_goes _ _ _ _)
    | (with_reducible refine execConnect_goes _ _ _ _)
    | (with_reducible refine execPropertyGet_goes _ _ _ _)
    | (with_reducible refine execDisconnect_goes _ _ _ _)
    | (with_reducible refine execInvalidCommandOpcode_goes _ _ _ _)
    | split)

theorem mspRow_goes (t : Tag) (op : Nat) (q : Sqe) (f : State → State) (s0 : State) : Goes (mspRow t op q f s0) := by
  unfold mspRow
  all_goals repeat' (first
    | (with_reducible refine adminRow_goes _ _ _ _ _ _))

theorem execFormatNvm_goes (t : Tag) (q : Sqe) (_d : List Byte) (s0 : State) : Goes (execFormatNvm t q _d s0) := by
  unfold execFormatNvm
  all_goals repeat' (first
    | (with_reducible refine mspRow_goes _ _ _ _ _))

theorem execSanitize_goes (t : Tag) (q : Sqe) (_d : List Byte) (s0 : State) : Goes (execSanitize t q _d s0) := by
  unfold execSanitize
  all_goals repeat' (first
    | (with_reducible refine mspRow_goes _ _ _ _ _))

theorem windowRow_goes (t : Tag) (io : Nat) (adm : Nat) (q : Sqe) (f : State → State) (s0 : State) : Goes (windowRow t io adm q f s0) := by
  unfold windowRow
  all_goals repeat' (first
    | (with_reducible refine ok_goes _)
    | (with_reducible refine bcsRow_goes _ _ _ _ _ _)
    | (extract_lets x)
    | split
    | (clear_value x; split))

theorem execRegisterWindowWrite_goes (t : Tag) (q : Sqe) (d : List Byte) (s0 : State) : Goes (execRegisterWindowWrite t q d s0) := by
  unfold execRegisterWindowWrite
  all_goals repeat' (first
    | (with_reducible refine windowRow_goes _ _ _ _ _ _))

theorem execRegisterWindowRead_goes (t : Tag) (q : Sqe) (_d : List Byte) (s0 : State) : Goes (execRegisterWindowRead t q _d s0) := by
  unfold execRegisterWindowRead
  all_goals repeat' (first
    | (with_reducible refine windowRow_goes _ _ _ _ _ _))

theorem adminCommand_goes (op : Nat) (t : Tag) (q : Sqe) (d : List Byte) (s0 : State) : Goes (adminCommand op t q d s0) := by
  unfold adminCommand
  all_goals repeat' (first
    | (with_reducible refine execGetLogPage_goes _ _ _ _)
    | (with_reducible refine execIdentify_goes _ _ _ _)
    | (with_reducible refine execAbort_goes _ _ _ _)
    | (with_reducible refine setFeaturesCommand_goes _ _ _ _)
    | (with_reducible refine execGetFeatures_goes _ _ _ _)
    | (with_reducible refine execAsynchronousEventRequest_goes _ _ _ _)
    | (with_reducible refine execNamespaceManagement_goes _ _ _ _)
    | (with_reducible refine execFirmwareCommit_goes _ _ _ _)
    | (with_reducible refine execFirmwareImageDownload_goes _ _ _ _)
    | (with_reducible refine execNamespaceAttachment_goes _ _ _ _)
    | (with_reducible refine execKeepAlive_goes _ _ _ _)
    | (with_reducible refine fabricsCommand_goes _ _ _ _)
    | (with_reducible refine execFormatNvm_goes _ _ _ _)
    | (with_reducible refine execSanitize_goes _ _ _ _)
    | (with_reducible refine execRegisterWindowWrite_goes _ _ _ _)
    | (with_reducible refine execRegisterWindowRead_goes _ _ _ _)
    | (with_reducible refine execInvalidCommandOpcode_goes _ _ _ _)
    | split)

theorem execNvmWrite_goes (t : Tag) (q : Sqe) (d : List Byte) (s0 : State) : Goes (execNvmWrite t q d s0) := by
  unfold execNvmWrite
  all_goals repeat' (first
    | (with_reducible refine nvmRow_goes _ _ _ _ _))

theorem execDatasetManagement_goes (t : Tag) (q : Sqe) (d : List Byte) (s0 : State) : Goes (execDatasetManagement t q d s0) := by
  unfold execDatasetManagement
  all_goals repeat' (first
    | (with_reducible refine nvmRow_goes _ _ _ _ _))

theorem execNvmVerify_goes (t : Tag) (q : Sqe) (_d : List Byte) (s0 : State) : Goes (execNvmVerify t q _d s0) := by
  unfold execNvmVerify
  all_goals repeat' (first
    | (with_reducible refine nvmRow_goes _ _ _ _ _))

theorem execLoadContext_goes (t : Tag) (q : Sqe) (_d : List Byte) (s0 : State) : Goes (execLoadContext t q _d s0) := by
  unfold execLoadContext
  all_goals repeat' (first
    | (with_reducible refine bcsRow_goes _ _ _ _ _ _))

theorem execWriteChart_goes (t : Tag) (q : Sqe) (d : List Byte) (s0 : State) : Goes (execWriteChart t q d s0) := by
  unfold execWriteChart
  all_goals repeat' (first
    | (with_reducible refine bcsRow_goes _ _ _ _ _ _))

theorem execOutputDrain_goes (t : Tag) (q : Sqe) (_d : List Byte) (s0 : State) : Goes (execOutputDrain t q _d s0) := by
  unfold execOutputDrain
  all_goals repeat' (first
    | (with_reducible refine bcsRow_goes _ _ _ _ _ _))

theorem execSearch_goes (t : Tag) (q : Sqe) (d : List Byte) (s0 : State) : Goes (execSearch t q d s0) := by
  unfold execSearch
  all_goals repeat' (first
    | (with_reducible refine bcsRow_goes _ _ _ _ _ _))

theorem execUnloadContext_goes (t : Tag) (q : Sqe) (_d : List Byte) (s0 : State) : Goes (execUnloadContext t q _d s0) := by
  unfold execUnloadContext
  all_goals repeat' (first
    | (with_reducible refine bcsRow_goes _ _ _ _ _ _))

theorem execScan_goes (t : Tag) (q : Sqe) (d : List Byte) (s0 : State) : Goes (execScan t q d s0) := by
  unfold execScan
  all_goals repeat' (first
    | (with_reducible refine bcsRow_goes _ _ _ _ _ _))

theorem execBindIsland_goes (t : Tag) (q : Sqe) (_d : List Byte) (s0 : State) : Goes (execBindIsland t q _d s0) := by
  unfold execBindIsland
  all_goals repeat' (first
    | (with_reducible refine bcsRow_goes _ _ _ _ _ _))

theorem level1Row_goes (t : Tag) (op : Nat) (q : Sqe) (s0 : State) : Goes (level1Row t op q s0) := by
  unfold level1Row
  all_goals repeat' (first
    | (with_reducible refine bcsRow_goes _ _ _ _ _ _))

theorem execIngest_goes (t : Tag) (q : Sqe) (d : List Byte) (s0 : State) : Goes (execIngest t q d s0) := by
  unfold execIngest
  all_goals repeat' (first
    | (with_reducible refine level1Row_goes _ _ _ _)
    | (with_reducible refine bcsRow_goes _ _ _ _ _ _)
    | split)

theorem execSwapChart_goes (t : Tag) (q : Sqe) (_d : List Byte) (s0 : State) : Goes (execSwapChart t q _d s0) := by
  unfold execSwapChart
  all_goals repeat' (first
    | (with_reducible refine bcsRow_goes _ _ _ _ _ _))

theorem execIndexMutate_goes (t : Tag) (q : Sqe) (d : List Byte) (s0 : State) : Goes (execIndexMutate t q d s0) := by
  unfold execIndexMutate
  all_goals repeat' (first
    | (with_reducible refine level1Row_goes _ _ _ _)
    | (with_reducible refine bcsRow_goes _ _ _ _ _ _)
    | split)

theorem execSequenceLeave_goes (t : Tag) (q : Sqe) (_d : List Byte) (s0 : State) : Goes (execSequenceLeave t q _d s0) := by
  unfold execSequenceLeave
  all_goals repeat' (first
    | (with_reducible refine bcsRow_goes _ _ _ _ _ _))

theorem ioCommand_goes (op : Nat) (t : Tag) (q : Sqe) (d : List Byte) (s0 : State) : Goes (ioCommand op t q d s0) := by
  unfold ioCommand
  all_goals repeat' (first
    | (with_reducible refine execFlush_goes _ _ _ _)
    | (with_reducible refine execNvmWrite_goes _ _ _ _)
    | (with_reducible refine execNvmRead_goes _ _ _ _)
    | (with_reducible refine execWriteZeroes_goes _ _ _ _)
    | (with_reducible refine execDatasetManagement_goes _ _ _ _)
    | (with_reducible refine execNvmVerify_goes _ _ _ _)
    | (with_reducible refine fabricsCommand_goes _ _ _ _)
    | (with_reducible refine execLoadContext_goes _ _ _ _)
    | (with_reducible refine execWriteChart_goes _ _ _ _)
    | (with_reducible refine execOutputDrain_goes _ _ _ _)
    | (with_reducible refine execSearch_goes _ _ _ _)
    | (with_reducible refine execUnloadContext_goes _ _ _ _)
    | (with_reducible refine execSequenceJoin_goes _ _ _ _)
    | (with_reducible refine execRegisterWindowRead_goes _ _ _ _)
    | (with_reducible refine execScan_goes _ _ _ _)
    | (with_reducible refine execBindIsland_goes _ _ _ _)
    | (with_reducible refine execIngest_goes _ _ _ _)
    | (with_reducible refine execSwapChart_goes _ _ _ _)
    | (with_reducible refine execIndexMutate_goes _ _ _ _)
    | (with_reducible refine execSequenceLeave_goes _ _ _ _)
    | (with_reducible refine execRegisterWindowWrite_goes _ _ _ _)
    | (with_reducible refine execInvalidCommandOpcode_goes _ _ _ _)
    | split)

theorem runCommand_goes (op : Nat) (t : Tag) (q : Sqe) (d : List Byte) (s0 : State) : Goes (runCommand op t q d s0) := by
  unfold runCommand
  all_goals repeat' (first
    | (with_reducible refine adminCommand_goes _ _ _ _ _)
    | (with_reducible refine ioCommand_goes _ _ _ _ _)
    | split)

theorem execCommandCapsule_goes (conn : Nat) (op : Nat) (cid : Nat) (q : Sqe) (d : List Byte) (pdu : PduCheck) (s0 : State) : Goes (execCommandCapsule conn op cid q d pdu s0) := by
  unfold execCommandCapsule
  all_goals repeat' (first
    | (with_reducible refine ok_goes _)
    | (with_reducible refine loneCommand_goes _ _ _ _ _)
    | (with_reducible refine runCommand_goes _ _ _ _ _)
    | (extract_lets x)
    | split)

theorem execFmeasStart_goes (p : Path) (w : Word) (s0 : State) : Goes (execFmeasStart p w s0) := by
  unfold execFmeasStart
  all_goals repeat' (first
    | (with_reducible refine regRow_goes _ _ _ _ _))

theorem execMemberStale_goes (n : Nat) (m : Nat) (s0 : State) : Goes (execMemberStale n m s0) := by
  unfold execMemberStale
  all_goals repeat' (first
    | (with_reducible refine ok_goes _)
    | split)

theorem execPowerStateEntryComplete_goes (s0 : State) : Goes (execPowerStateEntryComplete s0) := by
  unfold execPowerStateEntryComplete
  all_goals repeat' (first
    | (with_reducible refine ok_goes _))

theorem execSpecialFn_goes (k : Nat) (f : IFields) (s0 : State) (hk : k < 48) : Goes (execSpecialFn k f s0) := by
  unfold execSpecialFn
  all_goals repeat' (first
    | (with_reducible refine vsuInsn_goes _ _ _ _ _ ?_ (by assumption))
    | (with_reducible refine chkCount_goes _ _ _ _ _ _)
    | (with_reducible refine chkAlign_goes _ _ _ _ _)
    | (with_reducible refine chkRd_goes _ _ _ _ _)
    | (with_reducible refine chkWr_goes _ _ _ _)
    | (with_reducible refine rdThen_goes _ _ _ _ _ _ ?_)
    | (with_reducible refine wrThen_goes _ _ _ _ _ _ ?_)
    | (with_reducible refine ok_goes _)
    | (with_reducible apply afterChecks_goes)
    | exact AllGoes.nil
    | (with_reducible apply AllGoes.cons)
    | (with_reducible apply AllGoes.append)
    | intro _
    | split)

theorem execConv2d_goes (k : Nat) (f : IFields) (s0 : State) (hk : k < 48) : Goes (execConv2d k f s0) := by
  unfold execConv2d
  all_goals repeat' (first
    | (with_reducible refine insn_goes _ _ _ _ _ ?_ (by assumption))
    | (with_reducible refine convIssue_goes _ _ _ _ _ _ _)
    | intro _)

theorem execReturn_goes (a : List Byte) (s0 : State) : Goes (execReturn a s0) := by
  unfold execReturn
  all_goals repeat' (first
    | (with_reducible refine mgmtRow_goes _ _ _))

theorem execReprovision_goes (a : List Byte) (s0 : State) : Goes (execReprovision a s0) := by
  unfold execReprovision
  all_goals repeat' (first
    | (with_reducible refine mgmtRow_goes _ _ _))

theorem execEntdaa_goes (a : Nat) (s0 : State) (hc : a < 128) : Goes (execEntdaa a s0) := by
  unfold execEntdaa
  all_goals repeat' (first
    | (with_reducible refine ok_goes _)
    | (exfalso; omega)
    | split)

theorem execProgramComplete_goes (sb : Nat) (o : ProgOut) (s0 : State) : Goes (execProgramComplete sb o s0) := by
  unfold execProgramComplete
  all_goals repeat' (first
    | (with_reducible refine ok_goes _))

theorem execSignal_goes (k : Nat) (f : IFields) (s0 : State) (hk : k < 48) : Goes (execSignal k f s0) := by
  unfold execSignal
  all_goals repeat' (first
    | (with_reducible refine insn_goes _ _ _ _ _ ?_ (by assumption))
    | (with_reducible refine stay_goes _ _ _)
    | (with_reducible refine ok_goes _)
    | intro _
    | split)

theorem execVectorAdd_goes (k : Nat) (f : IFields) (s0 : State) (hk : k < 48) : Goes (execVectorAdd k f s0) := by
  unfold execVectorAdd
  all_goals repeat' (first
    | (with_reducible refine vecOp_goes _ _ _ _ _ _ (by assumption)))

theorem execSlotEnd_goes (b : Bool) (i : Nat) (s0 : State) : Goes (execSlotEnd b i s0) := by
  unfold execSlotEnd
  all_goals repeat' (first
    | (with_reducible refine ok_goes _)
    | split)

theorem vsuFault_goes (k : Nat) (r : Run) (code : Code) (i : Nat) (s0 : State) : Goes (vsuFault k r code i s0) := by
  unfold vsuFault
  all_goals repeat' (first
    | (with_reducible refine coreFault_goes _ _ _ _))

theorem redOp_goes (k : Nat) (f : IFields) (o : RedOp) (s0 : State) (hk : k < 48) : Goes (redOp k f o s0) := by
  unfold redOp
  all_goals repeat' (first
    | (with_reducible refine vsuInsn_goes _ _ _ _ _ ?_ (by assumption))
    | (with_reducible refine chkCount_goes _ _ _ _ _ _)
    | (with_reducible refine chkAlign_goes _ _ _ _ _)
    | (with_reducible refine chkRd_goes _ _ _ _ _)
    | (with_reducible refine chkWr_goes _ _ _ _)
    | (with_reducible refine rdThen_goes _ _ _ _ _ _ ?_)
    | (with_reducible refine vsuFault_goes _ _ _ _ _)
    | (with_reducible refine wrThen_goes _ _ _ _ _ _ ?_)
    | (with_reducible refine ok_goes _)
    | (with_reducible apply afterChecks_goes)
    | exact AllGoes.nil
    | (with_reducible apply AllGoes.cons)
    | (with_reducible apply AllGoes.append)
    | (extract_lets x)
    | intro _
    | split)

theorem execLookaheadPrefetch_goes (b : Bool) (i : Nat) (s0 : State) : Goes (execLookaheadPrefetch b i s0) := by
  unfold execLookaheadPrefetch
  all_goals repeat' (first
    | (with_reducible refine ok_goes _)
    | (extract_lets x)
    | split)

theorem execReservedClassFetch_goes (k : Nat) (cls : BitVec 4) (s0 : State) (hk : k < 48) (hc : 12 ≤ cls.toNat) : Goes (execReservedClassFetch k cls s0) := by
  unfold execReservedClassFetch
  all_goals repeat' (first
    | (with_reducible refine onCore_goes _ _ _ ?_ (by assumption))
    | (with_reducible refine coreFault_goes _ _ _ _)
    | (exfalso; omega)
    | intro _
    | split)

theorem execTamperLoopMeasure_goes (good : Bool) (s0 : State) : Goes (execTamperLoopMeasure good s0) := by
  unfold execTamperLoopMeasure
  all_goals repeat' (first
    | (with_reducible refine ok_goes _)
    | (extract_lets x)
    | split)

theorem execTamperEvent_goes (src : Nat) (s0 : State) (hc : src < 4) : Goes (execTamperEvent src s0) := by
  unfold execTamperEvent
  all_goals repeat' (first
    | (with_reducible refine ok_goes _)
    | (exfalso; omega)
    | split)

theorem execQueryComplete_goes (job : Nat) (s0 : State) : Goes (execQueryComplete job s0) := by
  unfold execQueryComplete
  all_goals repeat' (first
    | (with_reducible refine ok_goes _)
    | split)

theorem execTdinit_goes (k : Nat) (f : IFields) (s0 : State) (hk : k < 48) : Goes (execTdinit k f s0) := by
  unfold execTdinit
  all_goals repeat' (first
    | (with_reducible refine insn_goes _ _ _ _ _ ?_ (by assumption))
    | (with_reducible refine stay_goes _ _ _)
    | (with_reducible refine coreFault_goes _ _ _ _)
    | (with_reducible refine ok_goes _)
    | (extract_lets x)
    | intro _
    | split)

theorem execStraitPortWrite_goes (p : Path) (off : Nat) (w : Word) (s0 : State) : Goes (execStraitPortWrite p off w s0) := by
  unfold execStraitPortWrite
  all_goals repeat' (first
    | (with_reducible refine regRow_goes _ _ _ _ _)
    | (with_reducible refine ok_goes _)
    | split)

theorem execAux3v3Change_goes (level : Bool) (s0 : State) : Goes (execAux3v3Change level s0) := by
  unfold execAux3v3Change
  all_goals repeat' (first
    | (with_reducible refine ok_goes _))

theorem execBverd_goes (k : Nat) (f : IFields) (s0 : State) (hk : k < 48) : Goes (execBverd k f s0) := by
  unfold execBverd
  all_goals repeat' (first
    | (with_reducible refine insn_goes _ _ _ _ _ ?_ (by assumption))
    | (with_reducible refine coreFault_goes _ _ _ _)
    | (with_reducible refine stay_goes _ _ _)
    | (with_reducible refine jumpTo_goes _ _ _ _)
    | (with_reducible refine ok_goes _)
    | intro _
    | split)

theorem execMul_goes (k : Nat) (f : IFields) (s0 : State) (hk : k < 48) : Goes (execMul k f s0) := by
  unfold execMul
  all_goals repeat' (first
    | (with_reducible refine scalarBin_goes _ _ _ _ (by assumption)))

theorem execChartEnable_goes (p : Path) (on : Bool) (s0 : State) : Goes (execChartEnable p on s0) := by
  unfold execChartEnable
  all_goals repeat' (first
    | (with_reducible refine regRow_goes _ _ _ _ _))

theorem execChartSwapRequest_goes (p : Path) (s0 : State) : Goes (execChartSwapRequest p s0) := by
  unfold execChartSwapRequest
  all_goals repeat' (first
    | (with_reducible refine regRow_goes _ _ _ _ _))

theorem execRsum_goes (k : Nat) (f : IFields) (s0 : State) (hk : k < 48) : Goes (execRsum k f s0) := by
  unfold execRsum
  all_goals repeat' (first
    | (with_reducible refine redOp_goes _ _ _ _ (by assumption)))

theorem execAnd_goes (k : Nat) (f : IFields) (s0 : State) (hk : k < 48) : Goes (execAnd k f s0) := by
  unfold execAnd
  all_goals repeat' (first
    | (with_reducible refine scalarBin_goes _ _ _ _ (by assumption)))

theorem execStraitAckTimer_goes (n : Nat) (m : Nat) (s0 : State) : Goes (execStraitAckTimer n m s0) := by
  unfold execStraitAckTimer
  all_goals repeat' (first
    | (with_reducible refine ok_goes _)
    | split)

theorem execTodSecWrite_goes (p : Path) (w : Word) (s0 : State) : Goes (execTodSecWrite p w s0) := by
  unfold execTodSecWrite
  all_goals repeat' (first
    | (with_reducible refine regRow_goes _ _ _ _ _))

theorem execFmeasDone_goes (khz : Nat) (s0 : State) : Goes (execFmeasDone khz s0) := by
  unfold execFmeasDone
  all_goals repeat' (first
    | (with_reducible refine ok_goes _)
    | split)

theorem execKeystoreErase_goes (s0 : State) : Goes (execKeystoreErase s0) := by
  unfold execKeystoreErase
  all_goals repeat' (first
    | (with_reducible refine ok_goes _)
    | split)

theorem execPowerStateReversal_goes (s0 : State) : Goes (execPowerStateReversal s0) := by
  unfold execPowerStateReversal
  all_goals repeat' (first
    | (with_reducible refine ok_goes _))

theorem execReady_goes (s0 : State) : Goes (execReady s0) := by
  unfold execReady
  all_goals repeat' (first
    | (with_reducible refine ok_goes _))

theorem execSlcFold_goes (s0 : State) : Goes (execSlcFold s0) := by
  unfold execSlcFold
  all_goals repeat' (first
    | (with_reducible refine ok_goes _)
    | split)

theorem execLoop_goes (k : Nat) (f : IFields) (s0 : State) (hk : k < 48) : Goes (execLoop k f s0) := by
  unfold execLoop
  all_goals repeat' (first
    | (with_reducible refine insn_goes _ _ _ _ _ ?_ (by assumption))
    | (with_reducible refine coreFault_goes _ _ _ _)
    | (with_reducible refine ok_goes _)
    | (extract_lets x)
    | intro _
    | split)

theorem execHoldover_goes (s0 : State) : Goes (execHoldover s0) := by
  unfold execHoldover
  all_goals repeat' (first
    | (with_reducible refine ok_goes _)
    | split)

theorem execRmax_goes (k : Nat) (f : IFields) (s0 : State) (hk : k < 48) : Goes (execRmax k f s0) := by
  unfold execRmax
  all_goals repeat' (first
    | (with_reducible refine redOp_goes _ _ _ _ (by assumption)))

theorem execTcpSyn_goes (conn : Nat) (port : Nat) (v6 : Bool) (s0 : State) : Goes (execTcpSyn conn port v6 s0) := by
  unfold execTcpSyn
  all_goals repeat' (first
    | (with_reducible refine ok_goes _)
    | (extract_lets x)
    | split)

theorem execShr_goes (k : Nat) (f : IFields) (s0 : State) (hk : k < 48) : Goes (execShr k f s0) := by
  unfold execShr
  all_goals repeat' (first
    | (with_reducible refine scalarBin_goes _ _ _ _ (by assumption)))

theorem execArpRequest_goes (f : Frame) (s0 : State) : Goes (execArpRequest f s0) := by
  unfold execArpRequest
  all_goals repeat' (first
    | (with_reducible refine ok_goes _))

theorem execSmapply_goes (k : Nat) (f : IFields) (s0 : State) (hk : k < 48) : Goes (execSmapply k f s0) := by
  unfold execSmapply
  all_goals repeat' (first
    | (with_reducible refine redOp_goes _ _ _ _ (by assumption)))

theorem dmaIssue_goes (k : Nat) (d : Dma) (r : Run) (st : Step) (s0 : State) : Goes (dmaIssue k d r st s0) := by
  unfold dmaIssue
  all_goals repeat' (first
    | (with_reducible refine chkRd_goes _ _ _ _ _)
    | (with_reducible refine chkWr_goes _ _ _ _)
    | (with_reducible refine stay_goes _ _ _)
    | (with_reducible refine ok_goes _)
    | (with_reducible apply afterChecks_goes)
    | exact AllGoes.nil
    | (with_reducible apply AllGoes.cons)
    | (with_reducible apply AllGoes.append)
    | intro _
    | split)

theorem execAcc48_goes (k : Nat) (f : IFields) (s0 : State) (hk : k < 48) : Goes (execAcc48 k f s0) := by
  unfold execAcc48
  all_goals repeat' (first
    | (with_reducible refine insn_goes _ _ _ _ _ ?_ (by assumption))
    | (with_reducible refine coreFault_goes _ _ _ _)
    | (with_reducible refine dmaIssue_goes _ _ _ _ _)
    | (extract_lets x)
    | intro _
    | split)

theorem execAckMessage_goes (m : StraitMsg) (s0 : State) : Goes (execAckMessage m s0) := by
  unfold execAckMessage
  all_goals repeat' (first
    | (with_reducible refine straitRow_goes _ _ _))

theorem execChallenge_goes (m : List Byte) (s0 : State) : Goes (execChallenge m s0) := by
  unfold execChallenge
  all_goals repeat' (first
    | (with_reducible refine spdmRow_goes _ _))

theorem execXmcTracking_goes (ch : Nat) (rate : Nat) (atEnd : Bool) (s0 : State) (hc : ch < 32 ∧ rate < 3) : Goes (execXmcTracking ch rate atEnd s0) := by
  unfold execXmcTracking
  all_goals repeat' (first
    | (with_reducible refine ok_goes _)
    | (exfalso; omega)
    | split)

theorem execSrecvTimeout_goes (k : Nat) (s0 : State) (hk : k < 48) : Goes (execSrecvTimeout k s0) := by
  unfold execSrecvTimeout
  all_goals repeat' (first
    | (with_reducible refine ok_goes _)
    | (exfalso; omega)
    | (extract_lets x)
    | split)

theorem execBne_goes (k : Nat) (f : IFields) (s0 : State) (hk : k < 48) : Goes (execBne k f s0) := by
  unfold execBne
  all_goals repeat' (first
    | (with_reducible refine branchIf_goes _ _ _ _ (by assumption)))

theorem execXqPtrFault_goes (rx : Bool) (p : Nat) (s0 : State) : Goes (execXqPtrFault rx p s0) := by
  unfold execXqPtrFault
  all_goals repeat' (first
    | (with_reducible refine ok_goes _)
    | (extract_lets x)
    | split)

theorem execAaddi_goes (k : Nat) (f : IFields) (s0 : State) (hk : k < 48) : Goes (execAaddi k f s0) := by
  unfold execAaddi
  all_goals repeat' (first
    | (with_reducible refine insn_goes _ _ _ _ _ ?_ (by assumption))
    | (with_reducible refine ok_goes _)
    | intro _)

theorem execCompactionSwitch_goes (index : Nat) (s0 : State) : Goes (execCompactionSwitch index s0) := by
  unfold execCompactionSwitch
  all_goals repeat' (first
    | (with_reducible refine ok_goes _)
    | split)

theorem execArgmax_goes (k : Nat) (f : IFields) (s0 : State) (hk : k < 48) : Goes (execArgmax k f s0) := by
  unfold execArgmax
  all_goals repeat' (first
    | (with_reducible refine redOp_goes _ _ _ _ (by assumption)))

theorem execPageFetchComplete_goes (ctx : Nat) (sq : Nat) (layer : Nat) (page : Nat) (s0 : State) : Goes (execPageFetchComplete ctx sq layer page s0) := by
  unfold execPageFetchComplete
  all_goals repeat' (first
    | (with_reducible refine ok_goes _)
    | split)

theorem execBge_goes (k : Nat) (f : IFields) (s0 : State) (hk : k < 48) : Goes (execBge k f s0) := by
  unfold execBge
  all_goals repeat' (first
    | (with_reducible refine branchIf_goes _ _ _ _ (by assumption)))

theorem execBackgroundGc_goes (s0 : State) : Goes (execBackgroundGc s0) := by
  unfold execBackgroundGc
  all_goals repeat' (first
    | (with_reducible refine ok_goes _)
    | (extract_lets x)
    | split
    | (clear_value x; split))

theorem execPeerSearch_goes (k : Nat) (f : IFields) (s0 : State) (hk : k < 48) : Goes (execPeerSearch k f s0) := by
  unfold execPeerSearch
  all_goals repeat' (first
    | (with_reducible refine insn_goes _ _ _ _ _ ?_ (by assumption))
    | (with_reducible refine chkRd_goes _ _ _ _ _)
    | (with_reducible refine chkWr_goes _ _ _ _)
    | (with_reducible refine rdThen_goes _ _ _ _ _ _ ?_)
    | (with_reducible refine wrThen_goes _ _ _ _ _ _ ?_)
    | (with_reducible refine ok_goes _)
    | (with_reducible apply afterChecks_goes)
    | exact AllGoes.nil
    | (with_reducible apply AllGoes.cons)
    | (extract_lets x)
    | intro _
    | split)

theorem execJobFault_goes (n : Nat) (k : Nat) (code : Code) (s0 : State) : Goes (execJobFault n k code s0) := by
  unfold execJobFault
  all_goals repeat' (first
    | (with_reducible refine ok_goes _)
    | (extract_lets x)
    | (clear_value x; split))

theorem guardRow_goes (p : Path) (page : Nat) (off : Nat) (w : Word) (f : State → State) (s0 : State) : Goes (guardRow p page off w f s0) := by
  unfold guardRow
  all_goals repeat' (first
    | (with_reducible refine ok_goes _)
    | (with_reducible refine regRow_goes _ _ _ _ _)
    | split)

theorem execScrubGo_goes (p : Path) (w : Word) (s0 : State) : Goes (execScrubGo p w s0) := by
  unfold execScrubGo
  all_goals repeat' (first
    | (with_reducible refine regRow_goes _ _ _ _ _))

theorem execKvstore_goes (k : Nat) (f : IFields) (s0 : State) (hk : k < 48) : Goes (execKvstore k f s0) := by
  unfold execKvstore
  all_goals repeat' (first
    | exact OptGoes.none
    | (with_reducible apply OptGoes.some)
    | (with_reducible refine vsuInsn_goes _ _ _ _ _ ?_ (by assumption))
    | (with_reducible refine chkCount_goes _ _ _ _ _ _)
    | (with_reducible refine chkAlign_goes _ _ _ _ _)
    | (with_reducible refine chkRd_goes _ _ _ _ _)
    | (with_reducible refine stay_goes _ _ _)
    | (with_reducible refine rdThen_goes _ _ _ _ _ _ ?_)
    | (with_reducible refine ok_goes _)
    | (with_reducible apply afterChecks_goes)
    | exact AllGoes.nil
    | (with_reducible apply AllGoes.cons)
    | (extract_lets x)
    | intro _
    | split)

theorem execVectorSub_goes (k : Nat) (f : IFields) (s0 : State) (hk : k < 48) : Goes (execVectorSub k f s0) := by
  unfold execVectorSub
  all_goals repeat' (first
    | (with_reducible refine vecOp_goes _ _ _ _ _ _ (by assumption)))

theorem execEraseComplete_goes (sb : Nat) (o : EraseOut) (s0 : State) : Goes (execEraseComplete sb o s0) := by
  unfold execEraseComplete
  all_goals repeat' (first
    | (with_reducible refine ok_goes _)
    | split)

theorem execDemoteComplete_goes (ctx : Nat) (sq : Nat) (layer : Nat) (page : Nat) (s0 : State) : Goes (execDemoteComplete ctx sq layer page s0) := by
  unfold execDemoteComplete
  all_goals repeat' (first
    | (with_reducible refine ok_goes _)
    | split)

theorem execAutoNegotiationTimeout_goes (s0 : State) : Goes (execAutoNegotiationTimeout s0) := by
  unfold execAutoNegotiationTimeout
  all_goals repeat' (first
    | (with_reducible refine ok_goes _)
    | split)

theorem runAtLevel_goes (l : Bool) (op : Nat) (t : Tag) (q : Sqe) (d : List Byte) (s0 : State) : Goes (runAtLevel l op t q d s0) := by
  unfold runAtLevel
  split
  · exact runCommand_goes ..
  · obtain ⟨u, hu⟩ := runCommand_goes op t q d (modChip (fun c => { c with level1 := l }) s0)
    rw [hu]
    exact ⟨_, rfl⟩

theorem execH2cData_goes (conn : Nat) (cid : Nat) (off : Nat) (d : List Byte) (pdu : PduCheck) (digestOk : Bool) (s0 : State) : Goes (execH2cData conn cid off d pdu digestOk s0) := by
  unfold execH2cData
  all_goals repeat' (first
    | (with_reducible refine ok_goes _)
    | (with_reducible refine runAtLevel_goes _ _ _ _ _ _)
    | (extract_lets x)
    | split)

theorem execOcmDiagWrite_goes (p : Path) (w : Word) (s0 : State) : Goes (execOcmDiagWrite p w s0) := by
  unfold execOcmDiagWrite
  all_goals repeat' (first
    | (with_reducible refine regRow_goes _ _ _ _ _))

theorem execStraitGrpCfgWrite_goes (p : Path) (off : Nat) (w : Word) (s0 : State) : Goes (execStraitGrpCfgWrite p off w s0) := by
  unfold execStraitGrpCfgWrite
  all_goals repeat' (first
    | (with_reducible refine regRow_goes _ _ _ _ _)
    | (with_reducible refine ok_goes _)
    | split)

theorem execFence_goes (k : Nat) (f : IFields) (s0 : State) (hk : k < 48) : Goes (execFence k f s0) := by
  unfold execFence
  all_goals repeat' (first
    | (with_reducible refine insn_goes _ _ _ _ _ ?_ (by assumption))
    | (with_reducible refine ok_goes _)
    | (with_reducible refine stay_goes _ _ _)
    | intro _
    | split)

theorem execClkrstDevReset_goes (p : Path) (w : Word) (s0 : State) : Goes (execClkrstDevReset p w s0) := by
  unfold execClkrstDevReset
  all_goals repeat' (first
    | (with_reducible refine regRow_goes _ _ _ _ _))

theorem execDataMessage_goes (m : StraitMsg) (s0 : State) : Goes (execDataMessage m s0) := by
  unfold execDataMessage
  all_goals repeat' (first
    | (with_reducible refine straitRow_goes _ _ _))

theorem execScrubDone_goes (s0 : State) : Goes (execScrubDone s0) := by
  unfold execScrubDone
  all_goals repeat' (first
    | (with_reducible refine ok_goes _)
    | split)

theorem execSidebandWrite_goes (req : List Byte) (s0 : State) : Goes (execSidebandWrite req s0) := by
  unfold execSidebandWrite
  all_goals repeat' (first
    | (with_reducible refine mctpRow_goes _ _))

theorem execWriteBufferDrain_goes (n : Nat) (s0 : State) : Goes (execWriteBufferDrain n s0) := by
  unfold execWriteBufferDrain
  all_goals repeat' (first
    | (with_reducible refine ok_goes _)
    | split)

theorem execLost_goes (s0 : State) : Goes (execLost s0) := by
  unfold execLost
  all_goals repeat' (first
    | (with_reducible refine ok_goes _)
    | split)

theorem execSoftmax_goes (k : Nat) (f : IFields) (s0 : State) (hk : k < 48) : Goes (execSoftmax k f s0) := by
  unfold execSoftmax
  all_goals repeat' (first
    | (with_reducible refine redOp_goes _ _ _ _ (by assumption)))

theorem execEmbed8_goes (k : Nat) (f : IFields) (s0 : State) (hk : k < 48) : Goes (execEmbed8 k f s0) := by
  unfold execEmbed8
  all_goals repeat' (first
    | (with_reducible refine vsuInsn_goes _ _ _ _ _ ?_ (by assumption))
    | (with_reducible refine chkCount_goes _ _ _ _ _ _)
    | (with_reducible refine chkAlign_goes _ _ _ _ _)
    | (with_reducible refine chkRd_goes _ _ _ _ _)
    | (with_reducible refine chkWr_goes _ _ _ _)
    | (with_reducible refine rdThen_goes _ _ _ _ _ _ ?_)
    | (with_reducible refine wrThen_goes _ _ _ _ _ _ ?_)
    | (with_reducible refine ok_goes _)
    | (with_reducible apply afterChecks_goes)
    | exact AllGoes.nil
    | (with_reducible apply AllGoes.cons)
    | intro _)

theorem execSyncMessage_goes (m : StraitMsg) (s0 : State) : Goes (execSyncMessage m s0) := by
  unfold execSyncMessage
  all_goals repeat' (first
    | (with_reducible refine straitRow_goes _ _ _))

theorem execDecommission_goes (a : List Byte) (s0 : State) : Goes (execDecommission a s0) := by
  unfold execDecommission
  all_goals repeat' (first
    | (with_reducible refine mgmtRow_goes _ _ _))

theorem execNarrow_goes (k : Nat) (f : IFields) (s0 : State) (hk : k < 48) : Goes (execNarrow k f s0) := by
  unfold execNarrow
  all_goals repeat' (first
    | (with_reducible refine vsuInsn_goes _ _ _ _ _ ?_ (by assumption))
    | (with_reducible refine coreFault_goes _ _ _ _)
    | (with_reducible refine chkAlign_goes _ _ _ _ _)
    | (with_reducible refine chkRd_goes _ _ _ _ _)
    | (with_reducible refine chkWr_goes _ _ _ _)
    | (with_reducible refine rdThen_goes _ _ _ _ _ _ ?_)
    | (with_reducible refine vsuFault_goes _ _ _ _ _)
    | (with_reducible refine ok_goes _)
    | (with_reducible refine wrThen_goes _ _ _ _ _ _ ?_)
    | (with_reducible apply afterChecks_goes)
    | exact AllGoes.nil
    | (with_reducible apply AllGoes.cons)
    | (extract_lets x)
    | intro _
    | split)

theorem execPwrEnEdge_goes (level : Bool) (s0 : State) : Goes (execPwrEnEdge level s0) := by
  unfold execPwrEnEdge
  all_goals repeat' (first
    | (with_reducible refine ok_goes _)
    | (extract_lets x)
    | split)

theorem execQueueReset_goes (conn : Nat) (s0 : State) : Goes (execQueueReset conn s0) := by
  unfold execQueueReset
  all_goals repeat' (first
    | (with_reducible refine ok_goes _))

theorem execSrecv_goes (k : Nat) (f : IFields) (s0 : State) (hk : k < 48) : Goes (execSrecv k f s0) := by
  unfold execSrecv
  all_goals repeat' (first
    | (with_reducible refine insn_goes _ _ _ _ _ ?_ (by assumption))
    | (with_reducible refine coreFault_goes _ _ _ _)
    | (with_reducible refine chkWr_goes _ _ _ _)
    | (with_reducible refine ok_goes _)
    | (with_reducible apply afterChecks_goes)
    | exact AllGoes.nil
    | (with_reducible apply AllGoes.cons)
    | (extract_lets x)
    | intro _
    | split)

theorem execProvision_goes (a : List Byte) (s0 : State) : Goes (execProvision a s0) := by
  unfold execProvision
  all_goals repeat' (first
    | (with_reducible refine mgmtRow_goes _ _ _))

theorem execIslandResetGo_goes (p : Path) (w : Word) (s0 : State) : Goes (execIslandResetGo p w s0) := by
  unfold execIslandResetGo
  all_goals repeat' (first
    | (with_reducible refine regRow_goes _ _ _ _ _))

theorem execHeldMessageExpiry_goes (k : Nat) (s0 : State) : Goes (execHeldMessageExpiry k s0) := by
  unfold execHeldMessageExpiry
  all_goals repeat' (first
    | (with_reducible refine ok_goes _)
    | split)

theorem execSessionOpen_goes (m : List Byte) (s0 : State) : Goes (execSessionOpen m s0) := by
  unfold execSessionOpen
  all_goals repeat' (first
    | (with_reducible refine spdmRow_goes _ _))

theorem execErrCountClr_goes (p : Path) (page : Nat) (s0 : State) : Goes (execErrCountClr p page s0) := by
  unfold execErrCountClr
  all_goals repeat' (first
    | (with_reducible refine regRow_goes _ _ _ _ _))

theorem execSyncDeadlock_goes (n : Nat) (s0 : State) : Goes (execSyncDeadlock n s0) := by
  unfold execSyncDeadlock
  all_goals repeat' (first
    | (with_reducible refine ok_goes _)
    | split)

theorem execInputVoltageEvent_goes (v : VoltEvent) (s0 : State) : Goes (execInputVoltageEvent v s0) := by
  unfold execInputVoltageEvent
  all_goals repeat' (first
    | (with_reducible refine ok_goes _)
    | (extract_lets x)
    | split)

theorem execIngestInsert_goes (job : Nat) (s0 : State) : Goes (execIngestInsert job s0) := by
  unfold execIngestInsert
  all_goals repeat' (first
    | (with_reducible refine ok_goes _)
    | split)

theorem execTime_goes (k : Nat) (f : IFields) (s0 : State) (hk : k < 48) : Goes (execTime k f s0) := by
  unfold execTime
  all_goals repeat' (first
    | (with_reducible refine insn_goes _ _ _ _ _ ?_ (by assumption))
    | (with_reducible refine ok_goes _)
    | intro _)

theorem execForegroundGc_goes (s0 : State) : Goes (execForegroundGc s0) := by
  unfold execForegroundGc
  all_goals repeat' (first
    | (with_reducible refine ok_goes _)
    | split)

theorem execMctpControlMessage_goes (m : List Byte) (s0 : State) : Goes (execMctpControlMessage m s0) := by
  unfold execMctpControlMessage
  all_goals repeat' (first
    | (with_reducible refine ok_goes _)
    | (with_reducible refine mctpRow_goes _ _)
    | split)

theorem execVectorMax_goes (k : Nat) (f : IFields) (s0 : State) (hk : k < 48) : Goes (execVectorMax k f s0) := by
  unfold execVectorMax
  all_goals repeat' (first
    | (with_reducible refine vecOp_goes _ _ _ _ _ _ (by assumption)))

theorem execMatrixComplete_goes (k : Nat) (s0 : State) (hk : k < 48) : Goes (execMatrixComplete k s0) := by
  unfold execMatrixComplete
  all_goals repeat' (first
    | (with_reducible refine ok_goes _)
    | (exfalso; omega)
    | split)

theorem execGetDigests_goes (m : List Byte) (s0 : State) : Goes (execGetDigests m s0) := by
  unfold execGetDigests
  all_goals repeat' (first
    | (with_reducible refine spdmRow_goes _ _))

theorem execCounterLowRead_goes (p : Path) (page : Nat) (off : Nat) (s0 : State) : Goes (execCounterLowRead p page off s0) := by
  unfold execCounterLowRead
  all_goals repeat' (first
    | (with_reducible refine ok_goes _)
    | split)

theorem execBrakeHeld_goes (s0 : State) : Goes (execBrakeHeld s0) := by
  unfold execBrakeHeld
  all_goals repeat' (first
    | (with_reducible refine ok_goes _)
    | split)

theorem execLinkEnWrite_goes (p : Path) (w : Word) (s0 : State) : Goes (execLinkEnWrite p w s0) := by
  unfold execLinkEnWrite
  all_goals repeat' (first
    | (with_reducible refine regRow_goes _ _ _ _ _))

theorem execToa_goes (k : Nat) (f : IFields) (s0 : State) (hk : k < 48) : Goes (execToa k f s0) := by
  unfold execToa
  all_goals repeat' (first
    | (with_reducible refine insn_goes _ _ _ _ _ ?_ (by assumption))
    | (with_reducible refine ok_goes _)
    | intro _)

theorem execSlotwait_goes (k : Nat) (f : IFields) (s0 : State) (hk : k < 48) : Goes (execSlotwait k f s0) := by
  unfold execSlotwait
  all_goals repeat' (first
    | (with_reducible refine insn_goes _ _ _ _ _ ?_ (by assumption))
    | (with_reducible refine ok_goes _)
    | (with_reducible refine stay_goes _ _ _)
    | (extract_lets x)
    | intro _
    | split)

theorem execBrakeNEdge_goes (level : Bool) (s0 : State) : Goes (execBrakeNEdge level s0) := by
  unfold execBrakeNEdge
  all_goals repeat' (first
    | (with_reducible refine ok_goes _)
    | (extract_lets x)
    | split)

theorem execGetCertificate_goes (m : List Byte) (s0 : State) : Goes (execGetCertificate m s0) := by
  unfold execGetCertificate
  all_goals repeat' (first
    | (with_reducible refine spdmRow_goes _ _))

theorem execThermalRead_goes (n : Nat) (dc : Int) (s0 : State) (hc : n < 120) : Goes (execThermalRead n dc s0) := by
  unfold execThermalRead
  all_goals repeat' (first
    | (with_reducible refine ok_goes _)
    | (exfalso; omega)
    | (extract_lets x)
    | split)

theorem execJ_goes (k : Nat) (f : IFields) (s0 : State) (hk : k < 48) : Goes (execJ k f s0) := by
  unfold execJ
  all_goals repeat' (first
    | (with_reducible refine insn_goes _ _ _ _ _ ?_ (by assumption))
    | (with_reducible refine jumpTo_goes _ _ _ _)
    | intro _)

theorem execSreHoldWrite_goes (p : Path) (w : Word) (s0 : State) : Goes (execSreHoldWrite p w s0) := by
  unfold execSreHoldWrite
  all_goals repeat' (first
    | (with_reducible refine regRow_goes _ _ _ _ _))

theorem execNssrDeviceReset_goes (t : Tag) (q : Sqe) (_d : List Byte) (s0 : State) : Goes (execNssrDeviceReset t q _d s0) := by
  unfold execNssrDeviceReset
  all_goals repeat' (first
    | (with_reducible refine fabricsRow_goes _ _ _ _ _))

theorem execPauseFrame_goes (s0 : State) : Goes (execPauseFrame s0) := by
  unfold execPauseFrame
  all_goals repeat' (first
    | (with_reducible refine ok_goes _)
    | split)

theorem deqRows_goes (k : Nat) (r : Run) (f : IFields) (n : Nat) (s0 : State) (g : List (List Nat) → State → Res) (hg : ∀ b0 b1, Goes (g b0 b1)) : Goes (deqRows k r f n s0 g) := by
  unfold deqRows
  all_goals repeat' (first
    | (with_reducible apply hg)
    | (with_reducible refine rdThen_goes _ _ _ _ _ _ ?_)
    | (with_reducible refine ok_goes _)
    | intro _
    | split)

theorem execClientHello_goes (conn : Nat) (o : Hello) (s0 : State) : Goes (execClientHello conn o s0) := by
  unfold execClientHello
  all_goals repeat' (first
    | (with_reducible refine ok_goes _)
    | (extract_lets x)
    | split)

theorem execLayernorm_goes (k : Nat) (f : IFields) (s0 : State) (hk : k < 48) : Goes (execLayernorm k f s0) := by
  unfold execLayernorm
  all_goals repeat' (first
    | (with_reducible refine redOp_goes _ _ _ _ (by assumption)))

theorem execXmcFlipArm_goes (p : Path) (ch : Nat) (s0 : State) (hc : ch < 32) : Goes (execXmcFlipArm p ch s0) := by
  unfold execXmcFlipArm
  all_goals repeat' (first
    | (with_reducible refine regRow_goes _ _ _ _ _)
    | (exfalso; omega)
    | split)

theorem execPowerLossFlush_goes (complete : Bool) (s0 : State) : Goes (execPowerLossFlush complete s0) := by
  unfold execPowerLossFlush
  all_goals repeat' (first
    | (with_reducible refine ok_goes _)
    | split)

theorem execKatoExpired_goes (cntlid : Nat) (s0 : State) : Goes (execKatoExpired cntlid s0) := by
  unfold execKatoExpired
  all_goals repeat' (first
    | (with_reducible refine ok_goes _)
    | split)

theorem execMergeDeadline_goes (job : Nat) (s0 : State) : Goes (execMergeDeadline job s0) := by
  unfold execMergeDeadline
  all_goals repeat' (first
    | (with_reducible refine ok_goes _)
    | split)

theorem ldCheck_goes (k : Nat) (r : Run) (a : Nat) (s0 : State) : OptGoes (ldCheck k r a s0) := by
  unfold ldCheck
  all_goals repeat' (first
    | exact OptGoes.none
    | (with_reducible apply OptGoes.some)
    | (with_reducible refine coreFault_goes _ _ _ _)
    | split)

theorem execLd_goes (k : Nat) (f : IFields) (s0 : State) (hk : k < 48) : Goes (execLd k f s0) := by
  unfold execLd
  all_goals repeat' (first
    | (with_reducible refine insn_goes _ _ _ _ _ ?_ (by assumption))
    | (with_reducible refine ldCheck_goes _ _ _ _)
    | (with_reducible refine chkRd_goes _ _ _ _ _)
    | (with_reducible refine rdThen_goes _ _ _ _ _ _ ?_)
    | (with_reducible refine ok_goes _)
    | (with_reducible apply afterChecks_goes)
    | exact AllGoes.nil
    | (with_reducible apply AllGoes.cons)
    | intro _)

theorem execBlt_goes (k : Nat) (f : IFields) (s0 : State) (hk : k < 48) : Goes (execBlt k f s0) := by
  unfold execBlt
  all_goals repeat' (first
    | (with_reducible refine branchIf_goes _ _ _ _ (by assumption)))

theorem execShutdownNotification_goes (t : Tag) (q : Sqe) (_d : List Byte) (s0 : State) : Goes (execShutdownNotification t q _d s0) := by
  unfold execShutdownNotification
  all_goals repeat' (first
    | (with_reducible refine fabricsRow_goes _ _ _ _ _))

theorem execIcreq_goes (conn : Nat) (pfv : Nat) (h : Bool) (d : Bool) (maxr2t : Nat) (s0 : State) : Goes (execIcreq conn pfv h d maxr2t s0) := by
  unfold execIcreq
  all_goals repeat' (first
    | (with_reducible refine ok_goes _)
    | (extract_lets x)
    | split)

theorem execKeyUpdate_goes (conn : Nat) (s0 : State) : Goes (execKeyUpdate conn s0) := by
  unfold execKeyUpdate
  all_goals repeat' (first
    | (with_reducible refine ok_goes _)
    | split)

theorem execFreezeTimeout_goes (conn : Nat) (s0 : State) : Goes (execFreezeTimeout conn s0) := by
  unfold execFreezeTimeout
  all_goals repeat' (first
    | (with_reducible refine ok_goes _)
    | split)

theorem execConnectionClose_goes (conn : Nat) (s0 : State) : Goes (execConnectionClose conn s0) := by
  unfold execConnectionClose
  all_goals repeat' (first
    | (with_reducible refine ok_goes _))

theorem execRegisterWrite_goes (p : Path) (page : Nat) (off : Nat) (w : Word) (s0 : State) : Goes (execRegisterWrite p page off w s0) := by
  unfold execRegisterWrite
  all_goals repeat' (first
    | (with_reducible refine ok_goes _)
    | split)

theorem execIflevelSelect_goes (p : Path) (w : Word) (s0 : State) : Goes (execIflevelSelect p w s0) := by
  unfold execIflevelSelect
  all_goals repeat' (first
    | (with_reducible refine regRow_goes _ _ _ _ _))

theorem execErrRingTailWrite_goes (p : Path) (w : Word) (s0 : State) : Goes (execErrRingTailWrite p w s0) := by
  unfold execErrRingTailWrite
  all_goals repeat' (first
    | (with_reducible refine regRow_goes _ _ _ _ _))

theorem execCntFreeze_goes (p : Path) (page : Nat) (on : Bool) (s0 : State) : Goes (execCntFreeze p page on s0) := by
  unfold execCntFreeze
  all_goals repeat' (first
    | (with_reducible refine regRow_goes _ _ _ _ _))

theorem execCntClear_goes (p : Path) (page : Nat) (s0 : State) : Goes (execCntClear p page s0) := by
  unfold execCntClear
  all_goals repeat' (first
    | (with_reducible refine regRow_goes _ _ _ _ _))

theorem execErrStatusClear_goes (p : Path) (page : Nat) (w : Word) (s0 : State) : Goes (execErrStatusClear p page w s0) := by
  unfold execErrStatusClear
  all_goals repeat' (first
    | (with_reducible refine regRow_goes _ _ _ _ _))

theorem execPllUnlock_goes (pll : Nat) (s0 : State) (hc : pll < 5) : Goes (execPllUnlock pll s0) := by
  unfold execPllUnlock
  all_goals repeat' (first
    | (with_reducible refine ok_goes _)
    | (exfalso; omega)
    | split)

theorem execContextRestart_goes (p : Path) (s0 : State) : Goes (execContextRestart p s0) := by
  unfold execContextRestart
  all_goals repeat' (first
    | (with_reducible refine regRow_goes _ _ _ _ _))

theorem execCycleStart_goes (s0 : State) : Goes (execCycleStart s0) := by
  unfold execCycleStart
  all_goals repeat' (first
    | (with_reducible refine ok_goes _)
    | split)

theorem execSlotStart_goes (b : Bool) (i : Nat) (s0 : State) : Goes (execSlotStart b i s0) := by
  unfold execSlotStart
  all_goals repeat' (first
    | (with_reducible refine ok_goes _)
    | split)

theorem execTaskComplete_goes (n : Nat) (task : Nat) (s0 : State) : Goes (execTaskComplete n task s0) := by
  unfold execTaskComplete
  all_goals repeat' (first
    | (with_reducible refine ok_goes _)
    | split)

theorem execReplicaCorrection_goes (s0 : State) : Goes (execReplicaCorrection s0) := by
  unfold execReplicaCorrection
  all_goals repeat' (first
    | (with_reducible refine ok_goes _)
    | split)

theorem execNop_goes (k : Nat) (f : IFields) (s0 : State) (hk : k < 48) : Goes (execNop k f s0) := by
  unfold execNop
  all_goals repeat' (first
    | (with_reducible refine insn_goes _ _ _ _ _ ?_ (by assumption))
    | (with_reducible refine ok_goes _)
    | intro _)

theorem execAdd_goes (k : Nat) (f : IFields) (s0 : State) (hk : k < 48) : Goes (execAdd k f s0) := by
  unfold execAdd
  all_goals repeat' (first
    | (with_reducible refine scalarBin_goes _ _ _ _ (by assumption)))

theorem execOr_goes (k : Nat) (f : IFields) (s0 : State) (hk : k < 48) : Goes (execOr k f s0) := by
  unfold execOr
  all_goals repeat' (first
    | (with_reducible refine scalarBin_goes _ _ _ _ (by assumption)))

theorem execXor_goes (k : Nat) (f : IFields) (s0 : State) (hk : k < 48) : Goes (execXor k f s0) := by
  unfold execXor
  all_goals repeat' (first
    | (with_reducible refine scalarBin_goes _ _ _ _ (by assumption)))

theorem execShl_goes (k : Nat) (f : IFields) (s0 : State) (hk : k < 48) : Goes (execShl k f s0) := by
  unfold execShl
  all_goals repeat' (first
    | (with_reducible refine scalarBin_goes _ _ _ _ (by assumption)))

theorem execSra_goes (k : Nat) (f : IFields) (s0 : State) (hk : k < 48) : Goes (execSra k f s0) := by
  unfold execSra
  all_goals repeat' (first
    | (with_reducible refine scalarBin_goes _ _ _ _ (by assumption)))

theorem execMin_goes (k : Nat) (f : IFields) (s0 : State) (hk : k < 48) : Goes (execMin k f s0) := by
  unfold execMin
  all_goals repeat' (first
    | (with_reducible refine scalarBin_goes _ _ _ _ (by assumption)))

theorem execMax_goes (k : Nat) (f : IFields) (s0 : State) (hk : k < 48) : Goes (execMax k f s0) := by
  unfold execMax
  all_goals repeat' (first
    | (with_reducible refine scalarBin_goes _ _ _ _ (by assumption)))

theorem execSlt_goes (k : Nat) (f : IFields) (s0 : State) (hk : k < 48) : Goes (execSlt k f s0) := by
  unfold execSlt
  all_goals repeat' (first
    | (with_reducible refine scalarBin_goes _ _ _ _ (by assumption)))

theorem execAddi_goes (k : Nat) (f : IFields) (s0 : State) (hk : k < 48) : Goes (execAddi k f s0) := by
  unfold execAddi
  all_goals repeat' (first
    | (with_reducible refine scalarOp_goes _ _ _ _ (by assumption)))

theorem execMovi_goes (k : Nat) (f : IFields) (s0 : State) (hk : k < 48) : Goes (execMovi k f s0) := by
  unfold execMovi
  all_goals repeat' (first
    | (with_reducible refine scalarOp_goes _ _ _ _ (by assumption)))

theorem execMovhi_goes (k : Nat) (f : IFields) (s0 : State) (hk : k < 48) : Goes (execMovhi k f s0) := by
  unfold execMovhi
  all_goals repeat' (first
    | (with_reducible refine scalarOp_goes _ _ _ _ (by assumption)))

theorem execSt_goes (k : Nat) (f : IFields) (s0 : State) (hk : k < 48) : Goes (execSt k f s0) := by
  unfold execSt
  all_goals repeat' (first
    | (with_reducible refine insn_goes _ _ _ _ _ ?_ (by assumption))
    | (with_reducible refine ldCheck_goes _ _ _ _)
    | (with_reducible refine chkWr_goes _ _ _ _)
    | (with_reducible refine wrThen_goes _ _ _ _ _ _ ?_)
    | (with_reducible refine ok_goes _)
    | (with_reducible apply afterChecks_goes)
    | exact AllGoes.nil
    | (with_reducible apply AllGoes.cons)
    | intro _)

theorem execTos_goes (k : Nat) (f : IFields) (s0 : State) (hk : k < 48) : Goes (execTos k f s0) := by
  unfold execTos
  all_goals repeat' (first
    | (with_reducible refine insn_goes _ _ _ _ _ ?_ (by assumption))
    | (with_reducible refine ok_goes _)
    | intro _)

theorem execBeq_goes (k : Nat) (f : IFields) (s0 : State) (hk : k < 48) : Goes (execBeq k f s0) := by
  unfold execBeq
  all_goals repeat' (first
    | (with_reducible refine branchIf_goes _ _ _ _ (by assumption)))

theorem execJr_goes (k : Nat) (f : IFields) (s0 : State) (hk : k < 48) : Goes (execJr k f s0) := by
  unfold execJr
  all_goals repeat' (first
    | (with_reducible refine insn_goes _ _ _ _ _ ?_ (by assumption))
    | (with_reducible refine jumpTo_goes _ _ _ _)
    | intro _)

theorem execLidx_goes (k : Nat) (f : IFields) (s0 : State) (hk : k < 48) : Goes (execLidx k f s0) := by
  unfold execLidx
  all_goals repeat' (first
    | (with_reducible refine insn_goes _ _ _ _ _ ?_ (by assumption))
    | (with_reducible refine ok_goes _)
    | intro _)

theorem execEnd_goes (k : Nat) (f : IFields) (s0 : State) (hk : k < 48) : Goes (execEnd k f s0) := by
  unfold execEnd
  all_goals repeat' (first
    | (with_reducible refine insn_goes _ _ _ _ _ ?_ (by assumption))
    | (with_reducible refine ok_goes _)
    | intro _)

theorem execCopy_goes (k : Nat) (f : IFields) (s0 : State) (hk : k < 48) : Goes (execCopy k f s0) := by
  unfold execCopy
  all_goals repeat' (first
    | (with_reducible refine insn_goes _ _ _ _ _ ?_ (by assumption))
    | (with_reducible refine dmaIssue_goes _ _ _ _ _)
    | intro _)

theorem execZero_goes (k : Nat) (f : IFields) (s0 : State) (hk : k < 48) : Goes (execZero k f s0) := by
  unfold execZero
  all_goals repeat' (first
    | (with_reducible refine insn_goes _ _ _ _ _ ?_ (by assumption))
    | (with_reducible refine dmaIssue_goes _ _ _ _ _)
    | intro _)

theorem execDmaComplete_goes (k : Nat) (j : Nat) (s0 : State) (hk : k < 48) : Goes (execDmaComplete k j s0) := by
  unfold execDmaComplete
  all_goals repeat' (first
    | (with_reducible refine ok_goes _)
    | (exfalso; omega)
    | split)

theorem execTdload_goes (k : Nat) (f : IFields) (s0 : State) (hk : k < 48) : Goes (execTdload k f s0) := by
  unfold execTdload
  all_goals repeat' (first
    | (with_reducible refine insn_goes _ _ _ _ _ ?_ (by assumption))
    | (with_reducible refine stay_goes _ _ _)
    | (with_reducible refine chkRd_goes _ _ _ _ _)
    | (with_reducible refine rdThen_goes _ _ _ _ _ _ ?_)
    | (with_reducible refine ok_goes _)
    | (with_reducible refine coreFault_goes _ _ _ _)
    | (with_reducible apply afterChecks_goes)
    | exact AllGoes.nil
    | (with_reducible apply AllGoes.cons)
    | (extract_lets x)
    | intro _
    | split)

theorem execMatrix_goes (k : Nat) (f : IFields) (s0 : State) (hk : k < 48) : Goes (execMatrix k f s0) := by
  unfold execMatrix
  all_goals repeat' (first
    | (with_reducible refine insn_goes _ _ _ _ _ ?_ (by assumption))
    | (with_reducible refine coreFault_goes _ _ _ _)
    | (with_reducible refine stay_goes _ _ _)
    | (with_reducible refine ok_goes _)
    | (with_reducible refine matIssue_goes _ _ _ _ _ _ _ _ _)
    | (extract_lets x)
    | intro _
    | split)

theorem execVectorNeg_goes (k : Nat) (f : IFields) (s0 : State) (hk : k < 48) : Goes (execVectorNeg k f s0) := by
  unfold execVectorNeg
  all_goals repeat' (first
    | (with_reducible refine vecOp_goes _ _ _ _ _ _ (by assumption)))

theorem execVectorCvt_goes (k : Nat) (f : IFields) (s0 : State) (hk : k < 48) : Goes (execVectorCvt k f s0) := by
  unfold execVectorCvt
  all_goals repeat' (first
    | (with_reducible refine vecOp_goes _ _ _ _ _ _ (by assumption)))

theorem execVectorMac_goes (k : Nat) (f : IFields) (s0 : State) (hk : k < 48) : Goes (execVectorMac k f s0) := by
  unfold execVectorMac
  all_goals repeat' (first
    | (with_reducible refine vecOp_goes _ _ _ _ _ _ (by assumption)))

theorem execSmstat_goes (k : Nat) (f : IFields) (s0 : State) (hk : k < 48) : Goes (execSmstat k f s0) := by
  unfold execSmstat
  all_goals repeat' (first
    | (with_reducible refine redOp_goes _ _ _ _ (by assumption)))

theorem execRmsnorm_goes (k : Nat) (f : IFields) (s0 : State) (hk : k < 48) : Goes (execRmsnorm k f s0) := by
  unfold execRmsnorm
  all_goals repeat' (first
    | (with_reducible refine redOp_goes _ _ _ _ (by assumption)))

theorem execDeq_goes (k : Nat) (f : IFields) (s0 : State) (hk : k < 48) : Goes (execDeq k f s0) := by
  unfold execDeq
  all_goals repeat' (first
    | exact OptGoes.none
    | (with_reducible apply OptGoes.some)
    | (with_reducible refine vsuInsn_goes _ _ _ _ _ ?_ (by assumption))
    | (with_reducible refine chkCount_goes _ _ _ _ _ _)
    | (with_reducible refine chkAlign_goes _ _ _ _ _)
    | (with_reducible refine coreFault_goes _ _ _ _)
    | (with_reducible refine chkRd_goes _ _ _ _ _)
    | (with_reducible refine stay_goes _ _ _)
    | (with_reducible refine chkWr_goes _ _ _ _)
    | (with_reducible refine ok_goes _)
    | (with_reducible refine vsuFault_goes _ _ _ _ _)
    | (with_reducible refine deqRows_goes _ _ _ _ _ _ ?_)
    | (with_reducible refine wrThen_goes _ _ _ _ _ _ ?_)
    | (with_reducible apply afterChecks_goes)
    | exact AllGoes.nil
    | (with_reducible apply AllGoes.cons)
    | (with_reducible apply AllGoes.append)
    | with_reducible exact deqScale_goes ‹_›
    | with_reducible exact deqCols_goes ‹_›
    | intro _
    | split)

theorem execSample_goes (k : Nat) (f : IFields) (s0 : State) (hk : k < 48) : Goes (execSample k f s0) := by
  unfold execSample
  all_goals repeat' (first
    | (with_reducible refine vsuInsn_goes _ _ _ _ _ ?_ (by assumption))
    | (with_reducible refine chkCount_goes _ _ _ _ _ _)
    | (with_reducible refine chkAlign_goes _ _ _ _ _)
    | (with_reducible refine chkRd_goes _ _ _ _ _)
    | (with_reducible refine rdThen_goes _ _ _ _ _ _ ?_)
    | (with_reducible refine vsuFault_goes _ _ _ _ _)
    | (with_reducible refine ok_goes _)
    | (with_reducible apply afterChecks_goes)
    | exact AllGoes.nil
    | (with_reducible apply AllGoes.cons)
    | intro _
    | split)

theorem execSsend_goes (k : Nat) (f : IFields) (s0 : State) (hk : k < 48) : Goes (execSsend k f s0) := by
  unfold execSsend
  all_goals repeat' (first
    | (with_reducible refine insn_goes _ _ _ _ _ ?_ (by assumption))
    | (with_reducible refine coreFault_goes _ _ _ _)
    | (with_reducible refine chkCount_goes _ _ _ _ _ _)
    | (with_reducible refine chkRd_goes _ _ _ _ _)
    | (with_reducible refine rdThen_goes _ _ _ _ _ _ ?_)
    | (with_reducible refine ok_goes _)
    | (with_reducible apply afterChecks_goes)
    | exact AllGoes.nil
    | (with_reducible apply AllGoes.cons)
    | (extract_lets x)
    | intro _
    | split)

theorem execSfuTblDataWrite_goes (p : Path) (w : Word) (s0 : State) : Goes (execSfuTblDataWrite p w s0) := by
  unfold execSfuTblDataWrite
  all_goals repeat' (first
    | (with_reducible refine regRow_goes _ _ _ _ _))

theorem execSfuCompat1Write_goes (p : Path) (w : Word) (s0 : State) : Goes (execSfuCompat1Write p w s0) := by
  unfold execSfuCompat1Write
  all_goals repeat' (first
    | (with_reducible refine regRow_goes _ _ _ _ _))

theorem execSfuTblDataRead_goes (p : Path) (s0 : State) : Goes (execSfuTblDataRead p s0) := by
  unfold execSfuTblDataRead
  all_goals repeat' (first
    | (with_reducible refine ok_goes _)
    | split)

theorem execSfuTblCommit_goes (p : Path) (s0 : State) : Goes (execSfuTblCommit p s0) := by
  unfold execSfuTblCommit
  all_goals repeat' (first
    | (with_reducible refine regRow_goes _ _ _ _ _))

theorem execEccFlipmaskArm_goes (p : Path) (w : Word) (s0 : State) : Goes (execEccFlipmaskArm p w s0) := by
  unfold execEccFlipmaskArm
  all_goals repeat' (first
    | (with_reducible refine guardRow_goes _ _ _ _ _ _))

theorem execAtollResize_goes (p : Path) (w : Word) (s0 : State) : Goes (execAtollResize p w s0) := by
  unfold execAtollResize
  all_goals repeat' (first
    | (with_reducible refine guardRow_goes _ _ _ _ _ _))

theorem execBankPowerWrite_goes (p : Path) (off : Nat) (w : Word) (s0 : State) : Goes (execBankPowerWrite p off w s0) := by
  unfold execBankPowerWrite
  all_goals repeat' (first
    | (with_reducible refine regRow_goes _ _ _ _ _)
    | split
    | (exact ⟨_, rfl⟩))

theorem execAutoRetention_goes (b : BankId) (s0 : State) (hc : bankOk b = true) : Goes (execAutoRetention b s0) := by
  unfold execAutoRetention
  all_goals repeat' (first
    | (with_reducible refine ok_goes _)
    | (exfalso; simp_all; done)
    | split)

theorem execBgtRegionStart_goes (core : Option Nat) (out : MarchOut) (s0 : State) (hc : core.getD 0 < 48) : Goes (execBgtRegionStart core out s0) := by
  unfold execBgtRegionStart
  all_goals repeat' (first
    | (with_reducible refine ok_goes _)
    | split
    | (simp only [Option.getD_some] at hc; exfalso; omega))

theorem execStageFetch_goes (ctx : Nat) (layer : Nat) (s0 : State) : Goes (execStageFetch ctx layer s0) := by
  unfold execStageFetch
  all_goals repeat' (first
    | (with_reducible refine ok_goes _))

theorem execDeltaRebuild_goes (index : Nat) (good : Bool) (s0 : State) : Goes (execDeltaRebuild index good s0) := by
  unfold execDeltaRebuild
  all_goals repeat' (first
    | (with_reducible refine ok_goes _)
    | split)

theorem execFlashReadComplete_goes (u : Nat) (r : ReadOut) (s0 : State) : Goes (execFlashReadComplete u r s0) := by
  unfold execFlashReadComplete
  all_goals repeat' (first
    | (with_reducible refine ok_goes _)
    | split)

theorem execMapCheckpoint_goes (seg : Nat) (s0 : State) : Goes (execMapCheckpoint seg s0) := by
  unfold execMapCheckpoint
  all_goals repeat' (first
    | (with_reducible refine ok_goes _))

theorem execMteDiagGo_goes (p : Path) (page : Nat) (w : Word) (s0 : State) : Goes (execMteDiagGo p page w s0) := by
  unfold execMteDiagGo
  all_goals repeat' (first
    | (with_reducible refine regRow_goes _ _ _ _ _))

theorem execLinkUp_goes (s0 : State) : Goes (execLinkUp s0) := by
  unfold execLinkUp
  all_goals repeat' (first
    | (with_reducible refine ok_goes _)
    | split)

theorem execFecWindow_goes (fixed : Nat) (errs : Nat) (s0 : State) : Goes (execFecWindow fixed errs s0) := by
  unfold execFecWindow
  all_goals repeat' (first
    | (with_reducible refine ok_goes _)
    | (extract_lets x)
    | split)

theorem execFrameReceive_goes (f : Frame) (s0 : State) : Goes (execFrameReceive f s0) := by
  unfold execFrameReceive
  all_goals repeat' (first
    | (with_reducible refine ok_goes _)
    | (extract_lets x)
    | split)

theorem execPfcPauseExpiry_goes (p : Nat) (s0 : State) : Goes (execPfcPauseExpiry p s0) := by
  unfold execPfcPauseExpiry
  all_goals repeat' (first
    | (with_reducible refine ok_goes _)
    | split)

theorem execPfcFrame_goes (p : Nat) (quanta : Nat) (s0 : State) : Goes (execPfcFrame p quanta s0) := by
  unfold execPfcFrame
  all_goals repeat' (first
    | (with_reducible refine ok_goes _)
    | split)

theorem execTxUnderrun_goes (s0 : State) : Goes (execTxUnderrun s0) := by
  unfold execTxUnderrun
  all_goals repeat' (first
    | (with_reducible refine ok_goes _)
    | split)

theorem execIcmpEcho_goes (f : Frame) (s0 : State) : Goes (execIcmpEcho f s0) := by
  unfold execIcmpEcho
  all_goals repeat' (first
    | (with_reducible refine ok_goes _))

theorem execGatewayRefresh_goes (s0 : State) : Goes (execGatewayRefresh s0) := by
  unfold execGatewayRefresh
  all_goals repeat' (first
    | (with_reducible refine ok_goes _)
    | split)

theorem execUnresolvedTimeout_goes (s0 : State) : Goes (execUnresolvedTimeout s0) := by
  unfold execUnresolvedTimeout
  all_goals repeat' (first
    | (with_reducible refine ok_goes _)
    | split)

theorem execTcpRetransmitTimeout_goes (conn : Nat) (s0 : State) : Goes (execTcpRetransmitTimeout conn s0) := by
  unfold execTcpRetransmitTimeout
  all_goals repeat' (first
    | (with_reducible refine ok_goes _)
    | split)

theorem execIpAddressWrite_goes (p : Path) (off : Nat) (w : Word) (s0 : State) : Goes (execIpAddressWrite p off w s0) := by
  unfold execIpAddressWrite
  all_goals repeat' (first
    | (with_reducible refine regRow_goes _ _ _ _ _)
    | (with_reducible refine ok_goes _)
    | split)

theorem execPtpSync_goes (m : PtpMsg) (s0 : State) : Goes (execPtpSync m s0) := by
  unfold execPtpSync
  all_goals repeat' (first
    | (with_reducible refine ptpTake_goes _ _ _))

theorem execPtpFollowUp_goes (m : PtpMsg) (s0 : State) : Goes (execPtpFollowUp m s0) := by
  unfold execPtpFollowUp
  all_goals repeat' (first
    | (with_reducible refine ptpTake_goes _ _ _))

theorem execPtpAnnounce_goes (m : PtpMsg) (s0 : State) : Goes (execPtpAnnounce m s0) := by
  unfold execPtpAnnounce
  all_goals repeat' (first
    | (with_reducible refine ptpTake_goes _ _ _))

theorem execDelayReqSend_goes (s0 : State) : Goes (execDelayReqSend s0) := by
  unfold execDelayReqSend
  all_goals repeat' (first
    | (with_reducible refine ok_goes _)
    | split)

theorem execReferenceLost_goes (s0 : State) : Goes (execReferenceLost s0) := by
  unfold execReferenceLost
  all_goals repeat' (first
    | (with_reducible refine ok_goes _)
    | split)

theorem execPpsOutPulse_goes (s0 : State) : Goes (execPpsOutPulse s0) := by
  unfold execPpsOutPulse
  all_goals repeat' (first
    | (with_reducible refine ok_goes _)
    | (extract_lets x)
    | split)

theorem execPpsOutPulseEnd_goes (s0 : State) : Goes (execPpsOutPulseEnd s0) := by
  unfold execPpsOutPulseEnd
  all_goals repeat' (first
    | (with_reducible refine ok_goes _)
    | split)

theorem execQueryMessage_goes (m : StraitMsg) (s0 : State) : Goes (execQueryMessage m s0) := by
  unfold execQueryMessage
  all_goals repeat' (first
    | (with_reducible refine straitRow_goes _ _ _))

theorem execResultMessage_goes (m : StraitMsg) (s0 : State) : Goes (execResultMessage m s0) := by
  unfold execResultMessage
  all_goals repeat' (first
    | (with_reducible refine straitRow_goes _ _ _))

theorem execSyncReplyMessage_goes (m : StraitMsg) (s0 : State) : Goes (execSyncReplyMessage m s0) := by
  unfold execSyncReplyMessage
  all_goals repeat' (first
    | (with_reducible refine straitRow_goes _ _ _))

theorem execStraitRetransmit_goes (n : Nat) (m : Nat) (s0 : State) : Goes (execStraitRetransmit n m s0) := by
  unfold execStraitRetransmit
  all_goals repeat' (first
    | (with_reducible refine ok_goes _)
    | (extract_lets x)
    | split)

theorem execMspWatchdog_goes (s0 : State) : Goes (execMspWatchdog s0) := by
  unfold execMspWatchdog
  all_goals repeat' (first
    | (with_reducible refine ok_goes _)
    | split)

theorem execManagementReset_goes (s0 : State) : Goes (execManagementReset s0) := by
  unfold execManagementReset
  all_goals repeat' (first
    | (with_reducible refine ok_goes _)
    | split)

theorem execSectorProgramComplete_goes (good : Bool) (s0 : State) : Goes (execSectorProgramComplete good s0) := by
  unfold execSectorProgramComplete
  all_goals repeat' (first
    | (with_reducible refine ok_goes _)
    | split)

theorem execGetVersion_goes (m : List Byte) (s0 : State) : Goes (execGetVersion m s0) := by
  unfold execGetVersion
  all_goals repeat' (first
    | (with_reducible refine spdmRow_goes _ _))

theorem execGetCapabilities_goes (m : List Byte) (s0 : State) : Goes (execGetCapabilities m s0) := by
  unfold execGetCapabilities
  all_goals repeat' (first
    | (with_reducible refine spdmRow_goes _ _))

theorem execNegotiateAlgorithms_goes (m : List Byte) (s0 : State) : Goes (execNegotiateAlgorithms m s0) := by
  unfold execNegotiateAlgorithms
  all_goals repeat' (first
    | (with_reducible refine spdmRow_goes _ _))

theorem execGetMeasurements_goes (m : List Byte) (s0 : State) : Goes (execGetMeasurements m s0) := by
  unfold execGetMeasurements
  all_goals repeat' (first
    | (with_reducible refine spdmRow_goes _ _))

theorem execChunkSend_goes (m : List Byte) (s0 : State) : Goes (execChunkSend m s0) := by
  unfold execChunkSend
  all_goals repeat' (first
    | (with_reducible refine spdmRow_goes _ _))

theorem execSessionAuth_goes (m : List Byte) (s0 : State) : Goes (execSessionAuth m s0) := by
  unfold execSessionAuth
  all_goals repeat' (first
    | (with_reducible refine spdmRow_goes _ _))

theorem execSessionIdleTimeout_goes (s0 : State) : Goes (execSessionIdleTimeout s0) := by
  unfold execSessionIdleTimeout
  all_goals repeat' (first
    | (with_reducible refine ok_goes _)
    | split)

theorem execPskInstall_goes (a : List Byte) (s0 : State) : Goes (execPskInstall a s0) := by
  unfold execPskInstall
  all_goals repeat' (first
    | (with_reducible refine mgmtRow_goes _ _ _))

theorem execPskDelete_goes (a : List Byte) (s0 : State) : Goes (execPskDelete a s0) := by
  unfold execPskDelete
  all_goals repeat' (first
    | (with_reducible refine mgmtRow_goes _ _ _))

theorem execConfigWrite_goes (a : List Byte) (s0 : State) : Goes (execConfigWrite a s0) := by
  unfold execConfigWrite
  all_goals repeat' (first
    | (with_reducible refine mgmtRow_goes _ _ _))

theorem execTamperClear_goes (a : List Byte) (s0 : State) : Goes (execTamperClear a s0) := by
  unfold execTamperClear
  all_goals repeat' (first
    | (with_reducible refine mgmtRow_goes _ _ _))

theorem execRevokeFwKey_goes (a : List Byte) (s0 : State) : Goes (execRevokeFwKey a s0) := by
  unfold execRevokeFwKey
  all_goals repeat' (first
    | (with_reducible refine mgmtRow_goes _ _ _))

theorem execCommandInterrupted_goes (t : Tag) (s0 : State) : Goes (execCommandInterrupted t s0) := by
  unfold execCommandInterrupted
  all_goals repeat' (first
    | (with_reducible refine ok_goes _)
    | (extract_lets x)
    | split)

theorem execPowerOnReset_goes (s0 : State) : Goes (execPowerOnReset s0) := by
  unfold execPowerOnReset
  all_goals repeat' (first
    | (with_reducible refine ok_goes _)
    | split)

theorem execDeviceReset_goes (s0 : State) : Goes (execDeviceReset s0) := by
  unfold execDeviceReset
  all_goals repeat' (first
    | (with_reducible refine ok_goes _)
    | (extract_lets x)
    | split)

theorem execStartUp_goes (o : BootOut) (s0 : State) : Goes (execStartUp o s0) := by
  unfold execStartUp
  all_goals repeat' (first
    | (with_reducible refine ok_goes _))

theorem execModRstNEdge_goes (level : Bool) (s0 : State) : Goes (execModRstNEdge level s0) := by
  unfold execModRstNEdge
  all_goals repeat' (first
    | (with_reducible refine ok_goes _)
    | (extract_lets x)
    | split)

theorem execBrakeToggleHoldEnd_goes (s0 : State) : Goes (execBrakeToggleHoldEnd s0) := by
  unfold execBrakeToggleHoldEnd
  all_goals repeat' (first
    | (with_reducible refine ok_goes _)
    | split)

theorem execGovernorInterval_goes (mw : Nat) (mv : Nat) (s0 : State) : Goes (execGovernorInterval mw mv s0) := by
  unfold execGovernorInterval
  all_goals repeat' (first
    | (with_reducible refine ok_goes _)
    | (extract_lets x)
    | split)

theorem execHoldupMeasurement_goes (mj : Nat) (s0 : State) : Goes (execHoldupMeasurement mj s0) := by
  unfold execHoldupMeasurement
  all_goals repeat' (first
    | (with_reducible refine ok_goes _)
    | split)

theorem execClassLate_goes (resource : Nat) (inst : Nat) (cls : Nat) (wait : Nat) (s0 : State) : Goes (execClassLate resource inst cls wait s0) := by
  unfold execClassLate
  all_goals repeat' (first
    | (with_reducible refine ok_goes _))

theorem execPs4FabricClockStop_goes (s0 : State) : Goes (execPs4FabricClockStop s0) := by
  unfold execPs4FabricClockStop
  all_goals repeat' (first
    | (with_reducible refine ok_goes _)
    | split)

theorem execActLedTimeout_goes (s0 : State) : Goes (execActLedTimeout s0) := by
  unfold execActLedTimeout
  all_goals repeat' (first
    | (with_reducible refine ok_goes _)
    | split)

end Sys2Proof.Machine
end

