-- ==== Sys2Proof/Laws/KeepsOps.lean ====
section
/-! SUPPORT. Every definition of Setters, Ops, Mem, Operands, NetOps, QcuOps, SreBase that answers a state keeps the queue, the canonical form of the
memories and the islands' rule (the named operations: registers, memories, operands, connections). -/
namespace Sys2Proof.Machine
open Sys2Proof

theorem Keeps.refl (s : State) : Keeps s s := ⟨rfl, id, id, id⟩
theorem Keeps.trans {s t u : State} (a : Keeps s t) (b : Keeps t u) : Keeps s u :=
  ⟨b.pending.trans a.pending, b.ocm ∘ a.ocm, b.xmc ∘ a.xmc, b.islands ∘ a.islands⟩
theorem Keeps.cutK {s t u : State} (h : Keeps s t) (k : Keeps s t → Keeps s u) : Keeps s u := k h
theorem Keeps.snd {α : Type} {s t : State} {p : α × State} {a : α} (h : p = (a, t)) (k : Keeps s p.2) : Keeps s t := by subst h; exact k
theorem Keeps.snd2 {α β : Type} {s t : State} {p : α × β × State} {a : α} {b : β} (h : p = (a, b, t)) (k : Keeps s p.2.2) : Keeps s t := by
  subst h; exact k
theorem Keeps.foldl {α : Type} {f : State → α → State} (hf : ∀ s x, Keeps s (f s x)) (l : List α) (s : State) : Keeps s (l.foldl f s) := by
  induction l generalizing s with
  | nil => exact Keeps.refl s
  | cons x l ih => exact (hf s x).trans (ih _)
/-- An outcome keeps it: a next state does. -/
structure Ends (s : State) (r : Res) : Prop where
  of ::
  keeps : ∀ t, r = .next t → Keeps s t
theorem Ends.next {s t : State} (h : Keeps s t) : Ends s (.next t) := by
  refine ⟨fun u hu => ?_⟩; injection hu with hu; subst hu; exact h
theorem Ends.refused {s : State} (r : Refusal) : Ends s (.refused r) := ⟨fun _ hu => by cases hu⟩
theorem Ends.trans {s t : State} {r : Res} (h : Keeps s t) (k : Ends t r) : Ends s r := ⟨fun u hu => h.trans (k.keeps u hu)⟩
theorem ok_ends {s t : State} (h : Keeps s t) : Ends s (ok t) := Ends.next h
/-- An outcome that may be absent keeps it. -/
structure OptEnds (s : State) (o : Option Res) : Prop where
  of ::
  ends : ∀ r, o = some r → Ends s r
theorem OptEnds.none {s : State} : OptEnds s Option.none := ⟨fun _ h => by cases h⟩
theorem OptEnds.some {s : State} {r : Res} (h : Ends s r) : OptEnds s (Option.some r) := ⟨fun u hu => by injection hu with hu; subst hu; exact h⟩
theorem OptEnds.trans {s t : State} {o : Option Res} (h : Keeps s t) (k : OptEnds t o) : OptEnds s o := ⟨fun r hr => Ends.trans h (k.ends r hr)⟩
theorem Ends.cutK {s t : State} {r : Res} (h : Keeps s t) (k : Keeps s t → Ends s r) : Ends s r := k h
theorem Keeps.step {s t u : State} (b : Keeps t u) (a : Keeps s t) : Keeps s u := a.trans b
theorem Ends.step {s t : State} {r : Res} (b : Ends t r) (a : Keeps s t) : Ends s r := Ends.trans a b
theorem OptEnds.step {s t : State} {o : Option Res} (b : OptEnds t o) (a : Keeps s t) : OptEnds s o := OptEnds.trans a b
/-- A change of the on-chip memory keeps its canonical form. -/
structure OcmKeep (f : OcmSt → OcmSt) : Prop where
  intro ::
  keep : ∀ o, ocmWf o = true → ocmWf (f o) = true
/-- A change of external memory keeps its canonical form. -/
structure XmcKeep (f : XmcSt → XmcSt) : Prop where
  intro ::
  keep : ∀ x, xmcWf x = true → xmcWf (f x) = true
theorem Keeps.sndOf {α β : Type} {s : State} {p : α × β × State} {a : α} {r : β × State} (h : p = (a, r)) (k : Keeps s p.2.2) : Keeps s r.2 := by
  subst h; exact k
theorem Keeps.cutP {α : Type} {s u : State} {p : α × State} (h : Keeps s p.2) (k : Keeps s p.2 → Keeps s u) : Keeps s u := k h
theorem Ends.cutP {α : Type} {s : State} {p : α × State} {r : Res} (h : Keeps s p.2) (k : Keeps s p.2 → Ends s r) : Ends s r := k h
theorem Keeps.foldlP {α β : Type} {f : β × State → α → β × State} (hf : ∀ p x, Keeps p.2 (f p x).2) (l : List α) (p : β × State) :
    Keeps p.2 (l.foldl f p).2 := by
  induction l generalizing p with
  | nil => exact Keeps.refl _
  | cons x l ih => exact (hf p x).trans (ih _)
theorem Keeps.foldrP {α β : Type} {f : α → β × State → β × State} (hf : ∀ x p, Keeps p.2 (f x p).2) (l : List α) (p : β × State) :
    Keeps p.2 (l.foldr f p).2 := by
  induction l generalizing p with
  | nil => exact Keeps.refl _
  | cons x l ih => exact (ih p).trans (hf x _)
theorem OcmKeep.of {f : OcmSt → OcmSt} (h : ∀ o, (f o).spad = o.spad ∧ (f o).loc = o.loc ∧ (f o).spadErr = o.spadErr ∧ (f o).locErr = o.locErr) :
    OcmKeep f := by
  refine ⟨fun o ho => ?_⟩
  obtain ⟨h1, h2, h3, h4⟩ := h o
  simpa only [ocmWf, h1, h2, h3, h4] using ho
theorem XmcKeep.of {f : XmcSt → XmcSt} (h : ∀ x, (f x).mem = x.mem ∧ (f x).err = x.err) : XmcKeep f := by
  refine ⟨fun x hx => ?_⟩
  obtain ⟨h1, h2⟩ := h x
  simpa only [xmcWf, h1, h2] using hx
theorem Keeps.ite {s a b : State} {c : Prop} [Decidable c] (ha : Keeps s a) (hb : Keeps s b) : Keeps s (if c then a else b) := by
  split
  · exact ha
  · exact hb
theorem Ends.ite {s : State} {a b : Res} {c : Prop} [Decidable c] (ha : Ends s a) (hb : Ends s b) : Ends s (if c then a else b) := by
  split
  · exact ha
  · exact hb
inductive AllOpt (s : State) : List (Option Res) → Prop where
  | nil : AllOpt s []
  | cons {o : Option Res} {l : List (Option Res)} : OptEnds s o → AllOpt s l → AllOpt s (o :: l)
theorem AllOpt.append {s : State} {l m : List (Option Res)} (hl : AllOpt s l) (hm : AllOpt s m) : AllOpt s (l ++ m) := by
  induction hl with
  | nil => exact hm
  | cons h _ ih => exact .cons h ih

theorem setFresh_keeps (v : Nat) (s0 : State) : Keeps s0 (setFresh v s0) := ⟨rfl, id, id, id⟩

theorem setMsp_keeps (v : MspSt) (s0 : State) : Keeps s0 (setMsp v s0) := ⟨rfl, id, id, id⟩

theorem setOcm_keeps (v : OcmSt) (s0 : State) (h : ocmWf v = true) : Keeps s0 (setOcm v s0) := ⟨rfl, fun _ => h, id, id⟩

theorem setQcu_keeps (v : QcuSt) (s0 : State) : Keeps s0 (setQcu v s0) := ⟨rfl, id, id, id⟩

theorem setErr_keeps (v : ErrSt) (s0 : State) : Keeps s0 (setErr v s0) := ⟨rfl, id, id, id⟩

theorem setNiu_keeps (v : NiuSt) (s0 : State) : Keeps s0 (setNiu v s0) := ⟨rfl, id, id, id⟩

theorem setFtl_keeps (v : FtlSt) (s0 : State) : Keeps s0 (setFtl v s0) := ⟨rfl, id, id, id⟩

theorem setOut_keeps (v : List OutMsg) (s0 : State) : Keeps s0 (setOut v s0) := ⟨rfl, id, id, id⟩

theorem setCnt_keeps (v : SMap Nat) (s0 : State) : Keeps s0 (setCnt v s0) := ⟨rfl, id, id, id⟩

theorem setHdr_keeps (v : SMap PageHdr) (s0 : State) : Keeps s0 (setHdr v s0) := ⟨rfl, id, id, id⟩

theorem setChip_keeps (v : ChipSt) (s0 : State) : Keeps s0 (setChip v s0) := ⟨rfl, id, id, id⟩

theorem setCtxs_keeps (v : SMap Ctx) (s0 : State) : Keeps s0 (setCtxs v s0) := ⟨rfl, id, id, id⟩

theorem setChart_keeps (v : ChartSt) (s0 : State) : Keeps s0 (setChart v s0) := ⟨rfl, id, id, id⟩

theorem setSre_keeps (v : SreSt) (s0 : State) : Keeps s0 (setSre v s0) := ⟨rfl, id, id, id⟩

theorem setCores_keeps (v : SMap Core) (s0 : State) : Keeps s0 (setCores v s0) := ⟨rfl, id, id, id⟩

theorem setXmc_keeps (v : XmcSt) (s0 : State) (h : xmcWf v = true) : Keeps s0 (setXmc v s0) := ⟨rfl, id, fun _ => h, id⟩

theorem setStrait_keeps (v : StraitSt) (s0 : State) : Keeps s0 (setStrait v s0) := ⟨rfl, id, id, id⟩

theorem setRegs_keeps (v : SMap Word) (s0 : State) : Keeps s0 (setRegs v s0) := ⟨rfl, id, id, id⟩

theorem setSfu_keeps (v : SfuSt) (s0 : State) : Keeps s0 (setSfu v s0) := ⟨rfl, id, id, id⟩

theorem setCompass_keeps (v : CompassSt) (s0 : State) : Keeps s0 (setCompass v s0) := ⟨rfl, id, id, id⟩

theorem setSext_keeps (v : SextSt) (s0 : State) : Keeps s0 (setSext v s0) := ⟨rfl, id, id, id⟩

theorem setPwr_keeps (v : PwrSt) (s0 : State) : Keeps s0 (setPwr v s0) := ⟨rfl, id, id, id⟩

theorem setTime_keeps (v : TimeSt) (s0 : State) : Keeps s0 (setTime v s0) := ⟨rfl, id, id, id⟩

theorem setIslands_keeps (v : SMap Nat) (s0 : State) (h : islandsWf s0.islands = true → islandsWf v = true) : Keeps s0 (setIslands v s0) := ⟨rfl, id, id, h⟩

theorem setLatch_keeps (v : SMap Nat) (s0 : State) : Keeps s0 (setLatch v s0) := ⟨rfl, id, id, id⟩

theorem draw_keeps (s0 : State) : Keeps s0 (draw s0).2 := by
  unfold draw
  repeat' (first
    | with_reducible exact Keeps.refl _
    | (with_reducible apply Keeps.step (setFresh_keeps ..)))

theorem modMsp_keeps (f : MspSt → MspSt) (s0 : State) : Keeps s0 (modMsp f s0) := ⟨rfl, id, id, id⟩

theorem modOcm_keeps (f : OcmSt → OcmSt) (s0 : State) (h : OcmKeep f) : Keeps s0 (modOcm f s0) := ⟨rfl, h.1 _, id, id⟩

theorem modQcu_keeps (f : QcuSt → QcuSt) (s0 : State) : Keeps s0 (modQcu f s0) := ⟨rfl, id, id, id⟩

theorem modErr_keeps (f : ErrSt → ErrSt) (s0 : State) : Keeps s0 (modErr f s0) := ⟨rfl, id, id, id⟩

theorem modNiu_keeps (f : NiuSt → NiuSt) (s0 : State) : Keeps s0 (modNiu f s0) := ⟨rfl, id, id, id⟩

theorem modFtl_keeps (f : FtlSt → FtlSt) (s0 : State) : Keeps s0 (modFtl f s0) := ⟨rfl, id, id, id⟩

theorem emit_keeps (m : OutMsg) (s0 : State) : Keeps s0 (emit m s0) := by
  unfold emit
  repeat' (first
    | with_reducible exact Keeps.refl _
    | (with_reducible apply Keeps.step (setOut_keeps ..)))

theorem cntSet_keeps (page : Nat) (off : Nat) (v : Nat) (s0 : State) : Keeps s0 (cntSet page off v s0) := by
  unfold cntSet
  repeat' (first
    | with_reducible exact Keeps.refl _
    | (with_reducible apply Keeps.step (setCnt_keeps ..)))

theorem cntAdd_keeps (page : Nat) (off : Nat) (n : Nat) (s0 : State) : Keeps s0 (cntAdd page off n s0) := by
  unfold cntAdd
  repeat' (first
    | with_reducible exact Keeps.refl _
    | (with_reducible apply Keeps.step (cntSet_keeps ..))
    | (with_reducible apply Keeps.ite))

theorem modHdr_keeps (page : Nat) (f : PageHdr → PageHdr) (s0 : State) : Keeps s0 (modHdr page f s0) := by
  unfold modHdr
  repeat' (first
    | with_reducible exact Keeps.refl _
    | (with_reducible apply Keeps.step (setHdr_keeps ..)))

theorem ringWrite_keeps (r : ErrRec) (s0 : State) : Keeps s0 (ringWrite r s0) := by
  unfold ringWrite
  repeat' (first
    | with_reducible exact Keeps.refl _
    | (with_reducible apply Keeps.step (cntAdd_keeps ..))
    | (with_reducible apply Keeps.step (modErr_keeps ..))
    | (with_reducible apply Keeps.ite))

theorem postTo_keeps (cid : Nat) (type : Nat) (info : Nat) (log : Nat) (s0 : State) : Keeps s0 (postTo cid type info log s0) := by
  unfold postTo
  repeat' (first
    | with_reducible exact Keeps.refl _
    | (with_reducible apply Keeps.step (modQcu_keeps ..))
    | (with_reducible apply Keeps.step (cntAdd_keeps ..))
    | (with_reducible apply Keeps.step (emit_keeps ..))
    | (extract_lets +onlyGivenNames x)
    | (with_reducible apply Keeps.ite)
    | split)

theorem postAll_keeps (type : Nat) (info : Nat) (log : Nat) (s0 : State) : Keeps s0 (postAll type info log s0) := by
  unfold postAll
  repeat' (first
    | with_reducible exact Keeps.refl _
    | (with_reducible apply Keeps.step (postTo_keeps ..))
    | (with_reducible apply Keeps.step (Keeps.foldl ?_ _ _))
    | intro _)

theorem recordErr_keeps (r : Raise) (s0 : State) : Keeps s0 (recordErr r s0) := by
  unfold recordErr
  repeat' (first
    | with_reducible exact Keeps.refl _
    | with_reducible assumption
    | (with_reducible apply Keeps.step (modHdr_keeps ..))
    | (with_reducible apply Keeps.step (cntAdd_keeps ..))
    | (with_reducible apply Keeps.step (ringWrite_keeps ..))
    | (with_reducible apply Keeps.step (modErr_keeps ..))
    | (with_reducible apply Keeps.step (postAll_keeps ..))
    | (extract_lets +onlyGivenNames x; refine Keeps.cutK (t := x) ?_ ?_ <;> first | (intro _; clear_value x) | subst x)
    | (extract_lets +onlyGivenNames x)
    | (with_reducible apply Keeps.ite)
    | split)

theorem advisory_keeps (page : Nat) (b : Nat) (code : Nat) (d0 : Nat) (d1 : Nat) (s0 : State) : Keeps s0 (advisory page b code d0 d1 s0) := by
  unfold advisory
  repeat' (first
    | with_reducible exact Keeps.refl _
    | (with_reducible apply Keeps.step (recordErr_keeps ..)))

theorem modChip_keeps (f : ChipSt → ChipSt) (s0 : State) : Keeps s0 (modChip f s0) := ⟨rfl, id, id, id⟩

theorem modChart_keeps (f : ChartSt → ChartSt) (s0 : State) : Keeps s0 (modChart f s0) := ⟨rfl, id, id, id⟩

theorem modSre_keeps (f : SreSt → SreSt) (s0 : State) : Keeps s0 (modSre f s0) := ⟨rfl, id, id, id⟩

theorem modCore_keeps (k : Nat) (f : Core → Core) (s0 : State) : Keeps s0 (modCore k f s0) := by
  unfold modCore
  repeat' (first
    | with_reducible exact Keeps.refl _
    | (with_reducible apply Keeps.step (setCores_keeps ..)))

theorem putCtx_keeps (n : Nat) (c : Ctx) (s0 : State) : Keeps s0 (putCtx n c s0) := ⟨rfl, id, id, id⟩

theorem modCtx_keeps (n : Nat) (f : Ctx → Ctx) (s0 : State) : Keeps s0 (modCtx n f s0) := by
  unfold modCtx
  repeat' (first
    | with_reducible exact Keeps.refl _
    | (with_reducible apply Keeps.step (putCtx_keeps ..))
    | split)

theorem corrected_keeps (page : Nat) (b : Nat) (code : Nat) (d0 : Nat) (d1 : Nat) (s0 : State) : Keeps s0 (corrected page b code d0 d1 s0) := by
  unfold corrected
  repeat' (first
    | with_reducible exact Keeps.refl _
    | (with_reducible apply Keeps.step (recordErr_keeps ..)))

theorem modXmc_keeps (f : XmcSt → XmcSt) (s0 : State) (h : XmcKeep f) : Keeps s0 (modXmc f s0) := ⟨rfl, id, h.1 _, id⟩

theorem modStrait_keeps (f : StraitSt → StraitSt) (s0 : State) : Keeps s0 (modStrait f s0) := ⟨rfl, id, id, id⟩

theorem setRegWord_keeps (page : Nat) (off : Nat) (w : Word) (s0 : State) : Keeps s0 (setRegWord page off w s0) := by
  unfold setRegWord
  repeat' (first
    | with_reducible exact Keeps.refl _
    | (with_reducible apply Keeps.step (setRegs_keeps ..)))

theorem modSfu_keeps (f : SfuSt → SfuSt) (s0 : State) : Keeps s0 (modSfu f s0) := ⟨rfl, id, id, id⟩

theorem modCompass_keeps (f : CompassSt → CompassSt) (s0 : State) : Keeps s0 (modCompass f s0) := ⟨rfl, id, id, id⟩

theorem ctxCnt_keeps (n : Nat) (page : Nat) (off : Nat) (v : Nat) (s0 : State) : Keeps s0 (ctxCnt n page off v s0) := by
  unfold ctxCnt
  repeat' (first
    | with_reducible exact Keeps.refl _
    | (with_reducible apply Keeps.step (modCtx_keeps ..))
    | (with_reducible apply Keeps.ite))

theorem openJob_keeps (sc : Scope) (code : Nat) (s0 : State) : Keeps s0 (openJob sc code s0) := by
  unfold openJob
  repeat' (first
    | with_reducible exact Keeps.refl _
    | (with_reducible apply Keeps.step (modErr_keeps ..))
    | (with_reducible apply Keeps.step (setFresh_keeps ..)))

theorem jobErr_keeps (page : Nat) (b : Nat) (code : Nat) (sc : Scope) (d0 : Nat) (d1 : Nat) (inj : Bool) (s0 : State) : Keeps s0 (jobErr page b code sc d0 d1 inj s0) := by
  unfold jobErr
  repeat' (first
    | with_reducible exact Keeps.refl _
    | with_reducible assumption
    | (with_reducible apply Keeps.step (recordErr_keeps ..))
    | (with_reducible apply Keeps.step (openJob_keeps ..))
    | (extract_lets +onlyGivenNames x; refine Keeps.cutK (t := x) ?_ ?_ <;> first | (intro _; clear_value x) | subst x)
    | (extract_lets +onlyGivenNames x)
    | (with_reducible apply Keeps.ite))

theorem modSext_keeps (f : SextSt → SextSt) (s0 : State) : Keeps s0 (modSext f s0) := ⟨rfl, id, id, id⟩

theorem endFatal_keeps (code : Nat) (s0 : State) : Keeps s0 (endFatal code s0) := by
  unfold endFatal
  repeat' (first
    | with_reducible exact Keeps.refl _
    | (with_reducible apply Keeps.step (modErr_keeps ..)))

theorem modPwr_keeps (f : PwrSt → PwrSt) (s0 : State) : Keeps s0 (modPwr f s0) := ⟨rfl, id, id, id⟩

theorem stallTime_keeps (d : Nat) (s0 : State) : Keeps s0 (stallTime d s0) := by
  unfold stallTime
  repeat' (first
    | with_reducible exact Keeps.refl _
    | (with_reducible apply Keeps.step (ctxCnt_keeps ..))
    | (with_reducible apply Keeps.step (Keeps.foldl ?_ _ _))
    | intro _
    | split)

theorem passTime_keeps (d : Nat) (s0 : State) : Keeps s0 (passTime d s0) := by
  unfold passTime
  repeat' (first
    | with_reducible exact Keeps.refl _
    | (with_reducible apply Keeps.step (stallTime_keeps ..))
    | (with_reducible apply Keeps.step (cntAdd_keeps ..))
    | (with_reducible apply Keeps.step (setTime_keeps ..)))

theorem advanceMaster_keeps (t : Nat) (s0 : State) : Keeps s0 (advanceMaster t s0) := by
  unfold advanceMaster
  repeat' (first
    | with_reducible exact Keeps.refl _
    | (with_reducible apply Keeps.step (passTime_keeps ..))
    | (with_reducible apply Keeps.ite))

theorem advanceTo_keeps (t : Nat) (s0 : State) : Keeps s0 (advanceTo t s0) := by
  unfold advanceTo
  repeat' (first
    | with_reducible exact Keeps.refl _
    | (with_reducible apply Keeps.step (passTime_keeps ..))
    | (with_reducible apply Keeps.ite))

theorem ocmClearErr_keeps (core : Option Nat) (off n : Nat) (s0 : State) : Keeps s0 (ocmClearErr core off n s0) := by
  unfold ocmClearErr
  split
  · exact Keeps.refl _
  · refine modOcm_keeps _ _ ?_
    refine ⟨?_⟩; intro o h; simp only [ocmWf, Bool.and_eq_true] at h ⊢; obtain ⟨⟨⟨h1, h2⟩, h3⟩, h4⟩ := h
    split <;> refine ⟨⟨⟨?_, ?_⟩, ?_⟩, ?_⟩ <;> first | exact smWf_clear _ _ _ _ (by assumption) | assumption

theorem ocmZero_keeps (core : Option Nat) (off n : Nat) (s0 : State) : Keeps s0 (ocmZero core off n s0) := by
  refine Keeps.trans (ocmClearErr_keeps core off n s0) (modOcm_keeps _ _ ?_)
  refine ⟨?_⟩; intro o h; simp only [ocmWf, Bool.and_eq_true] at h ⊢; obtain ⟨⟨⟨h1, h2⟩, h3⟩, h4⟩ := h
  split <;> refine ⟨⟨⟨?_, ?_⟩, ?_⟩, ?_⟩ <;> first | exact smWf_clear _ _ _ _ (by assumption) | assumption

theorem setPhys_keeps (b : BankId) (p : Phys) (s0 : State) : Keeps s0 (setPhys b p s0) := by
  refine modOcm_keeps _ _ ⟨?_⟩
  intro o h
  split <;> exact h

theorem touchBank_keeps (b : BankId) (s0 : State) : Keeps s0 (touchBank b s0) := by
  unfold touchBank
  repeat' (first
    | with_reducible exact Keeps.refl _
    | with_reducible assumption
    | (with_reducible apply Keeps.step (cntAdd_keeps ..))
    | (with_reducible apply Keeps.step (setPhys_keeps ..))
    | (extract_lets +onlyGivenNames x; refine Keeps.cutK (t := x) ?_ ?_ <;> first | (intro _; clear_value x) | subst x)
    | (extract_lets +onlyGivenNames x)
    | (with_reducible apply Keeps.ite))

theorem setOwErr_keeps (w : OWord) (m : Nat) (s0 : State) : Keeps s0 (setOwErr w m s0) := by
  refine modOcm_keeps _ _ ?_
  refine ⟨?_⟩; intro o h; simp only [ocmWf, Bool.and_eq_true] at h ⊢; obtain ⟨⟨⟨h1, h2⟩, h3⟩, h4⟩ := h
  split <;> refine ⟨⟨⟨h1, h2⟩, ?_⟩, ?_⟩ <;> first | exact smWf_put _ _ _ _ (by assumption) | assumption

theorem ocmStore_keeps (core : Option Nat) (off : Nat) (d : List Byte) (s0 : State) : Keeps s0 (ocmStore core off d s0) := by
  refine modOcm_keeps _ _ ?_
  refine ⟨?_⟩; intro o h; simp only [ocmWf, Bool.and_eq_true] at h ⊢; obtain ⟨⟨⟨h1, h2⟩, h3⟩, h4⟩ := h
  split <;> refine ⟨⟨⟨?_, ?_⟩, ?_⟩, ?_⟩ <;> first | exact smWf_store _ _ _ (by assumption) | assumption

theorem keepRead_keeps (w : OWord) (s0 : State) : Keeps s0 (keepRead w s0) := by
  unfold keepRead
  split
  · exact ocmStore_keeps _ _ _ _
  · exact Keeps.refl _

theorem owCheck_keeps (w : OWord) (s0 : State) : Keeps s0 (owCheck w s0).2 := by
  unfold owCheck
  repeat' (first
    | with_reducible exact Keeps.refl _
    | (with_reducible apply Keeps.step (cntAdd_keeps ..))
    | (with_reducible apply Keeps.step (modOcm_keeps ..))
    | (with_reducible apply Keeps.step (corrected_keeps ..))
    | (with_reducible apply Keeps.step (setOwErr_keeps ..))
    | (with_reducible apply Keeps.step (keepRead_keeps ..))
    | exact OcmKeep.of fun _ => ⟨rfl, rfl, rfl, rfl⟩
    | split)

theorem ocmPartChecks_keeps (core : Option Nat) (l : List Nat) (s0 : State) : Keeps s0 (ocmPartChecks core l s0).2 := by
  induction l generalizing s0 with
  | nil => exact Keeps.refl _
  | cons w l ih =>
    unfold ocmPartChecks
    split
    have hk := Keeps.snd ‹_› (owCheck_keeps ⟨core, w⟩ s0)
    split
    · exact hk.trans (ih _)
    · exact hk

theorem flipNow_keeps (core : Option Nat) (off : Nat) (s0 : State) : Keeps s0 (flipNow core off s0) := by
  unfold flipNow
  repeat' (first
    | with_reducible exact Keeps.refl _
    | (with_reducible apply Keeps.step (cntAdd_keeps ..))
    | (with_reducible apply Keeps.step (modOcm_keeps ..))
    | (with_reducible apply Keeps.step (setOwErr_keeps ..))
    | exact OcmKeep.of fun _ => ⟨rfl, rfl, rfl, rfl⟩)

theorem ocmWrite_keeps (core : Option Nat) (off : Nat) (d : List Byte) (s0 : State) : Keeps s0 (ocmWrite core off d s0).2 := by
  unfold ocmWrite
  repeat' (first
    | with_reducible exact Keeps.refl _
    | with_reducible assumption
    | (with_reducible apply Keeps.step (touchBank_keeps ..))
    | (with_reducible apply Keeps.step (ocmPartChecks_keeps ..))
    | (with_reducible apply Keeps.step (ocmStore_keeps ..))
    | (with_reducible apply Keeps.step (ocmClearErr_keeps ..))
    | (with_reducible apply Keeps.step (flipNow_keeps ..))
    | (with_reducible apply Keeps.step (Keeps.foldl ?_ _ _))
    | (extract_lets +onlyGivenNames x; refine Keeps.cutK (t := x) ?_ ?_ <;> first | (intro _; clear_value x) | subst x)
    | (with_reducible refine Keeps.snd (by assumption) ?_)
    | (extract_lets +onlyGivenNames x)
    | intro _
    | (with_reducible apply Keeps.ite)
    | split)

theorem xmCnt_keeps (c : Nat) (off : Nat) (n : Nat) (s0 : State) : Keeps s0 (xmCnt c off n s0) := by
  unfold xmCnt
  repeat' (first
    | with_reducible exact Keeps.refl _
    | (with_reducible apply Keeps.step (cntAdd_keeps ..)))

theorem modChan_keeps (c : Nat) (f : Chan → Chan) (s0 : State) : Keeps s0 (modChan c f s0) := by
  unfold modChan
  repeat' (first
    | with_reducible exact Keeps.refl _
    | (with_reducible apply Keeps.step (modXmc_keeps ..))
    | exact XmcKeep.of fun _ => ⟨rfl, rfl⟩)

theorem lastBurst_keeps (b : Nat) (uncorr : Bool) (sym : Nat) (s0 : State) : Keeps s0 (lastBurst b uncorr sym s0) := by
  unfold lastBurst
  repeat' (first
    | with_reducible exact Keeps.refl _
    | (with_reducible apply Keeps.step (modChan_keeps ..)))

theorem setBurstErr_keeps (b : Nat) (e : List (Nat × Nat)) (s0 : State) : Keeps s0 (setBurstErr b e s0) := by
  refine modXmc_keeps _ _ ?_
  refine ⟨?_⟩; intro o h; simp only [xmcWf, Bool.and_eq_true] at h ⊢; obtain ⟨h1, h2⟩ := h
  exact ⟨h1, smWf_put _ _ _ _ h2⟩

theorem keepBurst_keeps (b : Nat) (s0 : State) : Keeps s0 (keepBurst b s0) := by
  unfold keepBurst
  split
  · refine modXmc_keeps _ _ ?_
    refine ⟨?_⟩; intro o h; simp only [xmcWf, Bool.and_eq_true] at h ⊢; obtain ⟨h1, h2⟩ := h
    exact ⟨smWf_store _ _ _ h1, h2⟩
  · exact Keeps.refl _

theorem burstCheck_keeps (b : Nat) (s0 : State) : Keeps s0 (burstCheck b s0).2 := by
  unfold burstCheck
  repeat' (first
    | with_reducible exact Keeps.refl _
    | with_reducible assumption
    | (with_reducible apply Keeps.step (xmCnt_keeps ..))
    | (with_reducible apply Keeps.step (lastBurst_keeps ..))
    | (with_reducible apply Keeps.step (advisory_keeps ..))
    | (with_reducible apply Keeps.step (setBurstErr_keeps ..))
    | (with_reducible apply Keeps.step (keepBurst_keeps ..))
    | (with_reducible apply Keeps.step (corrected_keeps ..))
    | (extract_lets +onlyGivenNames x; refine Keeps.cutK (t := x) ?_ ?_ <;> first | (intro _; clear_value x) | subst x)
    | (extract_lets +onlyGivenNames x)
    | split)

theorem burstPartChecks_keeps (l : List Nat) (s0 : State) : Keeps s0 (burstPartChecks l s0).2 := by
  induction l generalizing s0 with
  | nil => exact Keeps.refl _
  | cons b l ih =>
    unfold burstPartChecks
    split
    have hk := Keeps.snd ‹_› (burstCheck_keeps b s0)
    split
    · exact hk.trans (ih _)
    · exact hk

theorem xmFlips_keeps (b n : Nat) (s0 : State) : Keeps s0 (xmFlips b n s0) := by
  induction n generalizing b s0 with
  | zero => exact Keeps.refl _
  | succ n ih =>
    unfold xmFlips
    refine Keeps.trans ?_ (ih _ _)
    split
    · exact (xmCnt_keeps _ _ _ _).trans ((setBurstErr_keeps _ _ _).trans ((modChan_keeps _ _ _).trans (xmCnt_keeps _ _ _ _)))
    · exact xmCnt_keeps _ _ _ _

theorem xmWrite_keeps (a : Nat) (d : List Byte) (s0 : State) : Keeps s0 (xmWrite a d s0).2 := by
  unfold xmWrite
  split
  · exact Keeps.refl _
  · split
    · exact Keeps.snd (by assumption) (burstPartChecks_keeps _ _)
    · refine Keeps.trans (Keeps.snd (by assumption) (burstPartChecks_keeps _ _)) ?_
      refine Keeps.trans (modXmc_keeps _ _ ?_) (xmFlips_keeps _ _ _)
      refine ⟨?_⟩; intro o h; simp only [xmcWf, Bool.and_eq_true] at h ⊢; obtain ⟨h1, h2⟩ := h
      exact ⟨smWf_store _ _ _ h1, smWf_clear _ _ _ _ h2⟩

theorem ocmChecks_keeps (core : Option Nat) (w n : Nat) (s0 : State) : Keeps s0 (ocmChecks core w n s0).2 := by
  induction n generalizing w s0 with
  | zero => exact Keeps.refl _
  | succ n ih =>
    unfold ocmChecks
    split
    have hk := Keeps.snd ‹_› (owCheck_keeps ⟨core, w⟩ s0)
    split
    · exact hk.trans (ih _ _)
    · exact hk

theorem ocmRead_keeps (core : Option Nat) (off : Nat) (n : Nat) (s0 : State) : Keeps s0 (ocmRead core off n s0).2 := by
  unfold ocmRead
  repeat' (first
    | with_reducible exact Keeps.refl _
    | with_reducible assumption
    | (with_reducible apply Keeps.step (touchBank_keeps ..))
    | (with_reducible apply Keeps.step (ocmChecks_keeps ..))
    | (with_reducible apply Keeps.step (Keeps.foldl ?_ _ _))
    | (extract_lets +onlyGivenNames x; refine Keeps.cutK (t := x) ?_ ?_ <;> first | (intro _; clear_value x) | subst x)
    | (with_reducible refine Keeps.snd (by assumption) ?_)
    | (extract_lets +onlyGivenNames x)
    | intro _
    | split)

theorem burstChecks_keeps (b n : Nat) (s0 : State) : Keeps s0 (burstChecks b n s0).2 := by
  induction n generalizing b s0 with
  | zero => exact Keeps.refl _
  | succ n ih =>
    unfold burstChecks
    split
    have hk := Keeps.snd ‹_› (burstCheck_keeps b s0)
    split
    · exact hk.trans (ih _ _)
    · exact hk

theorem xmRead_keeps (a : Nat) (n : Nat) (s0 : State) : Keeps s0 (xmRead a n s0).2 := by
  unfold xmRead
  repeat' (first
    | with_reducible exact Keeps.refl _
    | (with_reducible apply Keeps.step (burstChecks_keeps ..))
    | (with_reducible refine Keeps.snd (by assumption) ?_)
    | (extract_lets +onlyGivenNames x)
    | split)

theorem xmStore_keeps (a : Nat) (d : List Byte) (s0 : State) : Keeps s0 (xmStore a d s0) := by
  unfold xmStore
  split
  · exact Keeps.refl _
  · refine modXmc_keeps _ _ ?_
    refine ⟨?_⟩; intro o h; simp only [xmcWf, Bool.and_eq_true] at h ⊢; obtain ⟨h1, h2⟩ := h
    exact ⟨smWf_store _ _ _ h1, smWf_clear _ _ _ _ h2⟩

theorem xmZero_keeps (a n : Nat) (s0 : State) : Keeps s0 (xmZero a n s0) := by
  refine modXmc_keeps _ _ ?_
  refine ⟨?_⟩; intro o h; simp only [xmcWf, Bool.and_eq_true] at h ⊢; obtain ⟨h1, h2⟩ := h
  exact ⟨smWf_clear _ _ _ _ h1, smWf_clear _ _ _ _ h2⟩

theorem writeSegs_keeps (ctxNo : Nat) (l : List Seg) (d : List Byte) (s0 : State) : Keeps s0 (writeSegs ctxNo l d s0).2 := by
  induction l generalizing d s0 with
  | nil => exact Keeps.refl _
  | cons g l ih =>
    unfold writeSegs
    split
    rename_i n r heq
    have hr : Keeps s0 r.2 := by
      refine Keeps.sndOf heq ?_
      repeat' (first | with_reducible exact Keeps.refl _ | with_reducible assumption | (with_reducible apply Keeps.step (ocmRead_keeps ..)) | (with_reducible apply Keeps.step (xmRead_keeps ..)) | (with_reducible apply Keeps.step (ocmWrite_keeps ..)) | (with_reducible apply Keeps.step (xmWrite_keeps ..)) | (with_reducible apply Keeps.step (modCtx_keeps ..)) | (with_reducible refine Keeps.snd (by assumption) ?_) | split)
    split
    · exact Keeps.snd rfl hr
    · exact (Keeps.snd rfl hr).trans (ih _ _)

theorem writeWin_keeps (k : Nat) (ctxNo : Nat) (a : Nat) (d : List Byte) (s0 : State) : Keeps s0 (writeWin k ctxNo a d s0).2 := by
  unfold writeWin
  repeat' (first
    | with_reducible exact Keeps.refl _
    | (with_reducible apply Keeps.step (writeSegs_keeps ..))
    | split)

theorem readSegs_keeps (kvw : SMap Byte) (o : Owner) (l : List Seg) (s0 : State) : Keeps s0 (readSegs kvw o l s0).2 := by
  induction l generalizing s0 with
  | nil => exact Keeps.refl _
  | cons g l ih =>
    unfold readSegs
    extract_lets r
    have hr : Keeps s0 r.2 := by
      subst r
      repeat' (first | with_reducible exact Keeps.refl _ | with_reducible assumption | (with_reducible apply Keeps.step (ocmRead_keeps ..)) | (with_reducible apply Keeps.step (xmRead_keeps ..)) | (with_reducible apply Keeps.step (ocmWrite_keeps ..)) | (with_reducible apply Keeps.step (xmWrite_keeps ..)) | (with_reducible apply Keeps.step (modCtx_keeps ..)) | (with_reducible refine Keeps.snd (by assumption) ?_) | split)
    clear_value r
    split
    · have h1 := Keeps.snd rfl hr
      split
      · exact h1.trans (Keeps.snd ‹_› (ih _))
      · exact h1.trans (ih _)
    · exact hr

theorem readWin_keeps (k : Nat) (ctxNo : Nat) (a : Nat) (n : Nat) (s0 : State) : Keeps s0 (readWin k ctxNo a n s0).2 := by
  unfold readWin
  repeat' (first
    | with_reducible exact Keeps.refl _
    | (with_reducible apply Keeps.step (readSegs_keeps ..))
    | split)

theorem completeGroup_keeps (k : Nat) (ctx : Nat) (grp : Nat) (s0 : State) : Keeps s0 (completeGroup k ctx grp s0) := by
  unfold completeGroup
  repeat' (first
    | with_reducible exact Keeps.refl _
    | (with_reducible apply Keeps.step (modCore_keeps ..))
    | (with_reducible apply Keeps.step (modCtx_keeps ..))
    | (extract_lets +onlyGivenNames x)
    | (with_reducible apply Keeps.ite)
    | split)

theorem sendFailed_keeps (c : Option (Nat × Nat × Nat)) (s0 : State) : Keeps s0 (sendFailed c s0) := by
  unfold sendFailed
  repeat' (first
    | with_reducible exact Keeps.refl _
    | with_reducible assumption
    | (with_reducible apply Keeps.step (advisory_keeps ..))
    | (with_reducible apply Keeps.step (cntAdd_keeps ..))
    | (with_reducible apply Keeps.step (completeGroup_keeps ..))
    | (extract_lets +onlyGivenNames x; refine Keeps.cutK (t := x) ?_ ?_ <;> first | (intro _; clear_value x) | subst x)
    | split)

theorem modGrp_keeps (n : Nat) (f : GrpSlot → GrpSlot) (s0 : State) : Keeps s0 (modGrp n f s0) := by
  unfold modGrp
  repeat' (first
    | with_reducible exact Keeps.refl _
    | (with_reducible apply Keeps.step (modStrait_keeps ..)))

theorem modMember_keeps (n : Nat) (m : Nat) (f : Member → Member) (s0 : State) : Keeps s0 (modMember n m f s0) := by
  unfold modMember
  repeat' (first
    | with_reducible exact Keeps.refl _
    | (with_reducible apply Keeps.step (modGrp_keeps ..)))

theorem sendOn_keeps (prio : Nat) (m : OutMsg) (len : Nat) (s0 : State) : Keeps s0 (sendOn prio m len s0) := by
  unfold sendOn
  repeat' (first
    | with_reducible exact Keeps.refl _
    | (with_reducible apply Keeps.step (cntAdd_keeps ..))
    | (with_reducible apply Keeps.step (modNiu_keeps ..))
    | (with_reducible apply Keeps.step (emit_keeps ..))
    | (with_reducible apply Keeps.ite))

theorem sendTo_keeps (prio : Nat) (v6 : Bool) (addr : Nat) (m : OutMsg) (len : Nat) (s0 : State) : Keeps s0 (sendTo prio v6 addr m len s0) := by
  unfold sendTo
  repeat' (first
    | with_reducible exact Keeps.refl _
    | (with_reducible apply Keeps.step (modNiu_keeps ..))
    | (with_reducible apply Keeps.step (sendOn_keeps ..))
    | (with_reducible apply Keeps.ite))

theorem sendSeg_keeps (v6 : Bool) (addr : Nat) (bytes : List Byte) (s0 : State) : Keeps s0 (sendSeg v6 addr bytes s0) := by
  unfold sendSeg
  repeat' (first
    | with_reducible exact Keeps.refl _
    | (with_reducible apply Keeps.step (cntAdd_keeps ..))
    | (with_reducible apply Keeps.step (sendTo_keeps ..)))

theorem pumpSegs_keeps (n : Nat) (m : Nat) (a2 : Nat) (s0 : State) : Keeps s0 (pumpSegs n m a2 s0) := by
  fun_induction pumpSegs n m a2 s0
  all_goals repeat' (first
    | with_reducible exact Keeps.refl _
    | (with_reducible refine Keeps.step (by assumption) ?_)
    | (with_reducible apply Keeps.step (modMember_keeps ..))
    | (with_reducible apply Keeps.step (sendSeg_keeps ..)))

theorem sendMsg_keeps (n : Nat) (m : Nat) (type : Nat) (tag : Nat) (pay : List Byte) (c : Option (Nat × Nat × Nat)) (s0 : State) : Keeps s0 (sendMsg n m type tag pay c s0) := by
  unfold sendMsg
  repeat' (first
    | with_reducible exact Keeps.refl _
    | with_reducible assumption
    | (with_reducible apply Keeps.step (sendFailed_keeps ..))
    | (with_reducible apply Keeps.step (modStrait_keeps ..))
    | (with_reducible apply Keeps.step (modMember_keeps ..))
    | (with_reducible apply Keeps.step (pumpSegs_keeps ..))
    | (extract_lets +onlyGivenNames x; refine Keeps.cutK (t := x) ?_ ?_ <;> first | (intro _; clear_value x) | subst x)
    | (extract_lets +onlyGivenNames x)
    | (with_reducible apply Keeps.ite))

theorem dropMsgs_keeps (n : Nat) (m : Nat) (s0 : State) : Keeps s0 (dropMsgs n m s0) := by
  unfold dropMsgs
  repeat' (first
    | with_reducible exact Keeps.refl _
    | (with_reducible apply Keeps.step (modMember_keeps ..))
    | (with_reducible apply Keeps.step (sendFailed_keeps ..))
    | (with_reducible apply Keeps.step (Keeps.foldl ?_ _ _))
    | (extract_lets +onlyGivenNames x)
    | intro _)

theorem drainTx_keeps (prio : Nat) (s0 : State) : Keeps s0 (drainTx prio s0) := by
  unfold drainTx
  repeat' (first
    | with_reducible exact Keeps.refl _
    | (with_reducible apply Keeps.step (modNiu_keeps ..))
    | (with_reducible apply Keeps.step (sendOn_keeps ..))
    | (with_reducible apply Keeps.step (Keeps.foldl ?_ _ _))
    | (extract_lets +onlyGivenNames x)
    | intro _)

theorem settleMsgs_keeps (n : Nat) (m : Nat) (s0 : State) : Keeps s0 (settleMsgs n m s0) := by
  unfold settleMsgs
  repeat' (first
    | with_reducible exact Keeps.refl _
    | (with_reducible apply Keeps.step (modMember_keeps ..))
    | (with_reducible apply Keeps.step (completeGroup_keeps ..))
    | (with_reducible apply Keeps.step (Keeps.foldl ?_ _ _))
    | (extract_lets +onlyGivenNames x)
    | intro _
    | split)

theorem sendAck_keeps (n : Nat) (m : Nat) (s0 : State) : Keeps s0 (sendAck n m s0) := by
  unfold sendAck
  repeat' (first
    | with_reducible exact Keeps.refl _
    | (with_reducible apply Keeps.step (modMember_keeps ..))
    | (with_reducible apply Keeps.step (sendSeg_keeps ..)))

theorem countDone_keeps (k : CmdKind) (st : Status) (s0 : State) : Keeps s0 (countDone k st s0) := by
  unfold countDone
  repeat' (first
    | with_reducible exact Keeps.refl _
    | with_reducible assumption
    | (with_reducible apply Keeps.step (cntAdd_keeps ..))
    | (with_reducible apply Keeps.step (modQcu_keeps ..))
    | (extract_lets +onlyGivenNames x; refine Keeps.cutK (t := x) ?_ ?_ <;> first | (intro _; clear_value x) | subst x)
    | (extract_lets +onlyGivenNames x)
    | (with_reducible apply Keeps.ite)
    | split)

theorem modConn_keeps (n : Nat) (f : Conn → Conn) (s0 : State) : Keeps s0 (modConn n f s0) := by
  unfold modConn
  repeat' (first
    | with_reducible exact Keeps.refl _
    | (with_reducible apply Keeps.step (modQcu_keeps ..)))

theorem complete_keeps (k : CmdKind) (t : Tag) (st : Status) (dw0 : Nat) (dw1 : Nat) (data : List Byte) (s0 : State) : Keeps s0 (complete k t st dw0 dw1 data s0) := by
  unfold complete
  repeat' (first
    | with_reducible exact Keeps.refl _
    | with_reducible assumption
    | (with_reducible apply Keeps.step (countDone_keeps ..))
    | (with_reducible apply Keeps.step (emit_keeps ..))
    | (with_reducible apply Keeps.step (modConn_keeps ..))
    | (extract_lets +onlyGivenNames x; refine Keeps.cutK (t := x) ?_ ?_ <;> first | (intro _; clear_value x) | subst x)
    | (with_reducible apply Keeps.ite))

theorem succeed_keeps (t : Tag) (dw0 : Nat) (dw1 : Nat) (data : List Byte) (s0 : State) : Keeps s0 (succeed t dw0 dw1 data s0) := by
  unfold succeed
  repeat' (first
    | with_reducible exact Keeps.refl _
    | (with_reducible apply Keeps.step (complete_keeps ..)))

theorem refuse_keeps (t : Tag) (code : Nat) (detail : Nat) (s0 : State) : Keeps s0 (refuse t code detail s0) := by
  unfold refuse
  repeat' (first
    | with_reducible exact Keeps.refl _
    | (with_reducible apply Keeps.step (complete_keeps ..)))

theorem delQuery_keeps (job : Nat) (s0 : State) : Keeps s0 (delQuery job s0) := by
  unfold delQuery
  repeat' (first
    | with_reducible exact Keeps.refl _
    | (with_reducible apply Keeps.step (modSre_keeps ..)))

theorem deliver_keeps (job : Nat) (q : Query) (r : QResult) (s0 : State) : Keeps s0 (deliver job q r s0) := by
  unfold deliver
  repeat' (first
    | with_reducible exact Keeps.refl _
    | with_reducible assumption
    | (with_reducible apply Keeps.step (cntAdd_keeps ..))
    | (with_reducible apply Keeps.step (delQuery_keeps ..))
    | (with_reducible apply Keeps.step (succeed_keeps ..))
    | (with_reducible apply Keeps.step (completeGroup_keeps ..))
    | (with_reducible apply Keeps.step (writeWin_keeps ..))
    | (with_reducible apply Keeps.step (sendMsg_keeps ..))
    | (extract_lets +onlyGivenNames x; refine Keeps.cutK (t := x) ?_ ?_ <;> first | (intro _; clear_value x) | subst x)
    | (with_reducible apply Keeps.ite)
    | split)

theorem mergeDone_keeps (job : Nat) (q : Query) (m : Merge) (s0 : State) : Keeps s0 (mergeDone job q m s0) := by
  unfold mergeDone
  repeat' (first
    | with_reducible exact Keeps.refl _
    | (with_reducible apply Keeps.step (deliver_keeps ..))
    | (with_reducible apply Keeps.step (advisory_keeps ..))
    | (extract_lets +onlyGivenNames x)
    | (with_reducible apply Keeps.ite))

theorem mergeGot_keeps (job : Nat) (mem : Nat) (b : List Byte) (s0 : State) : Keeps s0 (mergeGot job mem b s0) := by
  unfold mergeGot
  repeat' (first
    | with_reducible exact Keeps.refl _
    | (with_reducible apply Keeps.step (mergeDone_keeps ..))
    | (with_reducible apply Keeps.step (modSre_keeps ..))
    | (extract_lets +onlyGivenNames x)
    | (with_reducible apply Keeps.ite)
    | split)

theorem finishQuery_keeps (job : Nat) (r : QResult) (s0 : State) : Keeps s0 (finishQuery job r s0) := by
  unfold finishQuery
  repeat' (first
    | with_reducible exact Keeps.refl _
    | with_reducible assumption
    | (with_reducible apply Keeps.step (deliver_keeps ..))
    | (with_reducible apply Keeps.step (modSre_keeps ..))
    | (with_reducible apply Keeps.step (mergeGot_keeps ..))
    | (extract_lets +onlyGivenNames x; refine Keeps.cutK (t := x) ?_ ?_ <;> first | (intro _; clear_value x) | subst x)
    | split)

theorem endQuery_keeps (job : Nat) (code : Nat) (s0 : State) : Keeps s0 (endQuery job code s0) := by
  unfold endQuery
  repeat' (first
    | with_reducible exact Keeps.refl _
    | (with_reducible apply Keeps.step (deliver_keeps ..))
    | split)

theorem abortQuery_keeps (job : Nat) (code : Nat) (d1 : Nat) (s0 : State) : Keeps s0 (abortQuery job code d1 s0) := by
  unfold abortQuery
  repeat' (first
    | with_reducible exact Keeps.refl _
    | (with_reducible apply Keeps.step (jobErr_keeps ..))
    | (with_reducible apply Keeps.step (finishQuery_keeps ..))
    | (extract_lets +onlyGivenNames x)
    | split)

theorem modIdx_keeps (n : Nat) (f : Index → Index) (s0 : State) : Keeps s0 (modIdx n f s0) := by
  unfold modIdx
  repeat' (first
    | with_reducible exact Keeps.refl _
    | (with_reducible apply Keeps.step (modSre_keeps ..)))

end Sys2Proof.Machine
end

