-- ==== Sys2Proof/Laws/KeepsContext.lean ====
section
/-! SUPPORT. Every definition of FlashOps, CtxOps, Jobs, SreOps, NetSync, ChartOps, Objects, Scrub that answers a state keeps the queue, the canonical form of the
memories and the islands' rule (flash, contexts, jobs, retrieval and the Chart as operations). -/
namespace Sys2Proof.Machine
open Sys2Proof

theorem mapLook_keeps (i : Nat) (s0 : State) : Keeps s0 (mapLook i s0).2 := by
  unfold mapLook
  repeat' (first
    | with_reducible exact Keeps.refl _
    | (with_reducible apply Keeps.step (burstCheck_keeps ..))
    | (with_reducible apply Keeps.step (corrected_keeps ..))
    | (with_reducible apply Keeps.step (setBurstErr_keeps ..))
    | (with_reducible refine Keeps.snd (by assumption) ?_)
    | (extract_lets +onlyGivenNames x)
    | split)

theorem slotCheck_keeps (n : Nat) (s0 : State) : Keeps s0 (slotCheck n s0) := by
  unfold slotCheck
  repeat' (first
    | with_reducible exact Keeps.refl _
    | (with_reducible apply Keeps.step (burstCheck_keeps ..))
    | (with_reducible apply Keeps.step (corrected_keeps ..))
    | (with_reducible apply Keeps.step (setBurstErr_keeps ..))
    | (with_reducible apply Keeps.step (Keeps.foldl ?_ _ _))
    | (with_reducible refine Keeps.snd (by assumption) ?_)
    | intro _
    | split)

theorem schedRewrite_keeps (u : Nat) (s0 : State) : Keeps s0 (schedRewrite u s0) := by
  unfold schedRewrite
  repeat' (first
    | with_reducible exact Keeps.refl _
    | (with_reducible apply Keeps.step (modFtl_keeps ..))
    | (extract_lets +onlyGivenNames x)
    | (with_reducible apply Keeps.ite))

theorem unitRead_keeps (u : Nat) (s0 : State) : Keeps s0 (unitRead u s0).2 := by
  unfold unitRead
  repeat' (first
    | with_reducible exact Keeps.refl _
    | with_reducible assumption
    | (with_reducible apply Keeps.step (cntAdd_keeps ..))
    | (with_reducible apply Keeps.step (advisory_keeps ..))
    | (with_reducible apply Keeps.step (schedRewrite_keeps ..))
    | (with_reducible apply Keeps.step (corrected_keeps ..))
    | (extract_lets +onlyGivenNames x; refine Keeps.cutK (t := x) ?_ ?_ <;> first | (intro _; clear_value x) | subst x)
    | (extract_lets +onlyGivenNames x)
    | split)

theorem unitData_keeps (i : Nat) (s0 : State) : Keeps s0 (unitData i s0).2 := by
  unfold unitData
  repeat' (first
    | with_reducible exact Keeps.refl _
    | with_reducible assumption
    | (with_reducible apply Keeps.step (mapLook_keeps ..))
    | (with_reducible apply Keeps.step (slotCheck_keeps ..))
    | (with_reducible apply Keeps.step (unitRead_keeps ..))
    | (extract_lets +onlyGivenNames x; refine Keeps.cutK (t := x) ?_ ?_ <;> first | (intro _; clear_value x) | subst x)
    | (with_reducible refine Keeps.snd (by assumption) ?_)
    | (extract_lets +onlyGivenNames x)
    | split)

theorem rangeRead_keeps (b : Nat) (a1 : Nat) (a2 : Nat) (a3 : Nat) (s0 : State) : Keeps s0 (rangeRead b a1 a2 a3 s0).2 := by
  fun_induction rangeRead b a1 a2 a3 s0
  all_goals repeat' (first
    | with_reducible exact Keeps.refl _
    | (with_reducible refine Keeps.step (by assumption) ?_)
    | (with_reducible apply Keeps.step (unitData_keeps ..))
    | (with_reducible refine Keeps.snd (by assumption) ?_))

theorem nsRead_keeps (n : Ns) (off : Nat) (len : Nat) (s0 : State) : Keeps s0 (nsRead n off len s0).2 := by
  unfold nsRead
  repeat' (first
    | with_reducible exact Keeps.refl _
    | (with_reducible apply Keeps.step (rangeRead_keeps ..)))

theorem mapSet_keeps (i : Nat) (e : Nat) (s0 : State) : Keeps s0 (mapSet i e s0) := by
  unfold mapSet
  repeat' (first
    | with_reducible exact Keeps.refl _
    | (with_reducible apply Keeps.step (modFtl_keeps ..)))

theorem unmap_keeps (i : Nat) (s0 : State) : Keeps s0 (unmap i s0) := by
  unfold unmap
  repeat' (first
    | with_reducible exact Keeps.refl _
    | with_reducible assumption
    | (with_reducible apply Keeps.step (modFtl_keeps ..))
    | (with_reducible apply Keeps.step (mapSet_keeps ..))
    | (extract_lets +onlyGivenNames x; refine Keeps.cutK (t := x) ?_ ?_ <;> first | (intro _; clear_value x) | subst x)
    | (extract_lets +onlyGivenNames x)
    | (with_reducible apply Keeps.ite))

theorem unmapRange_keeps (b : Nat) (n : Nat) (s0 : State) : Keeps s0 (unmapRange b n s0) := by
  unfold unmapRange
  repeat' (first
    | with_reducible exact Keeps.refl _
    | (with_reducible apply Keeps.step (unmap_keeps ..))
    | (with_reducible apply Keeps.step (Keeps.foldl ?_ _ _))
    | intro _)

theorem freeQuota_keeps (owner : Nat) (s0 : State) : Keeps s0 (freeQuota owner s0) := by
  unfold freeQuota
  repeat' (first
    | with_reducible exact Keeps.refl _
    | (with_reducible apply Keeps.step (modFtl_keeps ..))
    | (with_reducible apply Keeps.step (unmapRange_keeps ..))
    | split)

theorem slotWrite_keeps (owner : Nat) (i : Nat) (d : List Byte) (s0 : State) : Keeps s0 (slotWrite owner i d s0) := by
  unfold slotWrite
  repeat' (first
    | with_reducible exact Keeps.refl _
    | with_reducible assumption
    | (with_reducible apply Keeps.step (cntAdd_keeps ..))
    | (with_reducible apply Keeps.step (modFtl_keeps ..))
    | (with_reducible apply Keeps.step (mapSet_keeps ..))
    | (extract_lets +onlyGivenNames x; refine Keeps.cutK (t := x) ?_ ?_ <;> first | (intro _; clear_value x) | subst x)
    | (extract_lets +onlyGivenNames x)
    | split
    | (simp +zetaDelta only []))

theorem rangeWrite_keeps (b owner n off : Nat) (d : List Byte) (s0 : State) : Keeps s0 (rangeWrite b owner n off d s0).2 := by
  induction n generalizing off d s0 with
  | zero => exact Keeps.refl _
  | succ n ih =>
    unfold rangeWrite
    split
    · exact Keeps.refl _
    · extract_lets i x k whole cur
      have hc : Keeps s0 cur.2 := by
        subst cur
        split
        · exact Keeps.refl _
        · exact unitData_keeps _ _
      clear_value cur
      split
      · exact Keeps.snd rfl hc
      · exact ((Keeps.snd rfl hc).trans (slotWrite_keeps _ _ _ _)).trans (ih _ _ _)

theorem allocQuota_keeps (owner : Nat) (n : Nat) (s0 : State) : Keeps s0 (allocQuota owner n s0) := by
  unfold allocQuota
  repeat' (first
    | with_reducible exact Keeps.refl _
    | (with_reducible apply Keeps.step (modFtl_keeps ..))
    | split)

theorem modSb_keeps (n : Nat) (f : Sb → Sb) (s0 : State) : Keeps s0 (modSb n f s0) := by
  unfold modSb
  repeat' (first
    | with_reducible exact Keeps.refl _
    | (with_reducible apply Keeps.step (modFtl_keeps ..)))

theorem closeFull_keeps (n : Nat) (s0 : State) : Keeps s0 (closeFull n s0) := by
  unfold closeFull
  repeat' (first
    | with_reducible exact Keeps.refl _
    | (with_reducible apply Keeps.step (modSb_keeps ..))
    | (with_reducible apply Keeps.ite))

theorem openSb_keeps (stream : Nat) (slc : Bool) (s0 : State) : Keeps s0 (openSb stream slc s0).2 := by
  unfold openSb
  repeat' (first
    | with_reducible exact Keeps.refl _
    | with_reducible assumption
    | (with_reducible apply Keeps.step (modSb_keeps ..))
    | (with_reducible apply Keeps.step (modFtl_keeps ..))
    | (extract_lets +onlyGivenNames x; refine Keeps.cutK (t := x) ?_ ?_ <;> first | (intro _; clear_value x) | subst x)
    | (extract_lets +onlyGivenNames x)
    | split
    | (simp +zetaDelta only []))

theorem startProg_keeps (stream : Nat) (slc : Bool) (f : FUnit) (expect : Nat) (why : Nat) (victim : Option Nat) (s0 : State) : Keeps s0 (startProg stream slc f expect why victim s0).2 := by
  unfold startProg
  repeat' (first
    | with_reducible exact Keeps.refl _
    | (with_reducible apply Keeps.step (openSb_keeps ..))
    | (with_reducible apply Keeps.step (modSb_keeps ..))
    | (with_reducible apply Keeps.step (modFtl_keeps ..))
    | (with_reducible refine Keeps.snd (by assumption) ?_)
    | split)

theorem smartEvent_keeps (b : Nat) (s0 : State) : Keeps s0 (smartEvent b s0) := by
  unfold smartEvent
  repeat' (first
    | with_reducible exact Keeps.refl _
    | (with_reducible apply Keeps.step (postTo_keeps ..))
    | (with_reducible apply Keeps.step (Keeps.foldl ?_ _ _))
    | intro _
    | (with_reducible apply Keeps.ite))

theorem freeSeq_keeps (ctx : Nat) (sq : Nat) (s0 : State) : Keeps s0 (freeSeq ctx sq s0) := by
  unfold freeSeq
  repeat' (first
    | with_reducible exact Keeps.refl _
    | (with_reducible apply Keeps.step (modCtx_keeps ..)))

theorem leaveSeq_keeps (ctx : Nat) (sq : Nat) (s0 : State) : Keeps s0 (leaveSeq ctx sq s0).2 := by
  unfold leaveSeq
  repeat' (first
    | with_reducible exact Keeps.refl _
    | (with_reducible apply Keeps.step (freeSeq_keeps ..))
    | (with_reducible apply Keeps.step (modCtx_keeps ..))
    | split)

theorem abortIngest_keeps (job : Nat) (code : Nat) (s0 : State) : Keeps s0 (abortIngest job code s0) := by
  unfold abortIngest
  repeat' (first
    | with_reducible exact Keeps.refl _
    | with_reducible assumption
    | (with_reducible apply Keeps.step (modSre_keeps ..))
    | (with_reducible apply Keeps.step (leaveSeq_keeps ..))
    | (with_reducible apply Keeps.step (jobErr_keeps ..))
    | (with_reducible apply Keeps.step (refuse_keeps ..))
    | (with_reducible apply Keeps.step (Keeps.foldl ?_ _ _))
    | (extract_lets +onlyGivenNames x; refine Keeps.cutK (t := x) ?_ ?_ <;> first | (intro _; clear_value x) | subst x)
    | (extract_lets +onlyGivenNames x)
    | intro _
    | split)

theorem freeFrames_keeps (owner : Nat) (s0 : State) : Keeps s0 (freeFrames owner s0) := by
  unfold freeFrames
  repeat' (first
    | with_reducible exact Keeps.refl _
    | (with_reducible apply Keeps.step (modCompass_keeps ..)))

theorem leaveShare_keeps (n : Nat) (s0 : State) : Keeps s0 (leaveShare n s0) := by
  unfold leaveShare
  repeat' (first
    | with_reducible exact Keeps.refl _
    | (with_reducible apply Keeps.step (freeFrames_keeps ..))
    | (with_reducible apply Keeps.step (modCompass_keeps ..))
    | (extract_lets +onlyGivenNames x)
    | (with_reducible apply Keeps.ite)
    | split)

theorem endSlotOf_keeps (ctx : Nat) (s0 : State) : Keeps s0 (endSlotOf ctx s0) := by
  unfold endSlotOf
  repeat' (first
    | with_reducible exact Keeps.refl _
    | (with_reducible apply Keeps.step (modChart_keeps ..)))

theorem freeCores_keeps (ctx : Nat) (s0 : State) : Keeps s0 (freeCores ctx s0) := by
  unfold freeCores
  repeat' (first
    | with_reducible exact Keeps.refl _
    | (with_reducible apply Keeps.step (setCores_keeps ..)))

theorem freeCtx_keeps (n : Nat) (s0 : State) : Keeps s0 (freeCtx n s0) := by
  unfold freeCtx
  repeat' (first
    | with_reducible exact Keeps.refl _
    | (with_reducible apply Keeps.step (abortIngest_keeps ..))
    | (with_reducible apply Keeps.step (freeQuota_keeps ..))
    | (with_reducible apply Keeps.step (freeFrames_keeps ..))
    | (with_reducible apply Keeps.step (leaveShare_keeps ..))
    | (with_reducible apply Keeps.step (endSlotOf_keeps ..))
    | (with_reducible apply Keeps.step (freeCores_keeps ..))
    | (with_reducible apply Keeps.step (modCompass_keeps ..))
    | (with_reducible apply Keeps.step (setCtxs_keeps ..))
    | (with_reducible apply Keeps.step (Keeps.foldl ?_ _ _))
    | (extract_lets +onlyGivenNames x)
    | intro _)

theorem finishUnload_keeps (tags : List Tag) (s0 : State) : Keeps s0 (finishUnload tags s0) := by
  unfold finishUnload
  repeat' (first
    | with_reducible exact Keeps.refl _
    | (with_reducible apply Keeps.step (succeed_keeps ..))
    | (with_reducible apply Keeps.step (Keeps.foldl ?_ _ _))
    | intro _)

theorem unloadNow_keeps (n : Nat) (s0 : State) : Keeps s0 (unloadNow n s0) := by
  unfold unloadNow
  repeat' (first
    | with_reducible exact Keeps.refl _
    | with_reducible assumption
    | (with_reducible apply Keeps.step (freeCtx_keeps ..))
    | (with_reducible apply Keeps.step (refuse_keeps ..))
    | (with_reducible apply Keeps.step (finishUnload_keeps ..))
    | (extract_lets +onlyGivenNames x; refine Keeps.cutK (t := x) ?_ ?_ <;> first | (intro _; clear_value x) | subst x)
    | (extract_lets +onlyGivenNames x)
    | split)

theorem settleUnload_keeps (n : Nat) (s0 : State) : Keeps s0 (settleUnload n s0) := by
  unfold settleUnload
  repeat' (first
    | with_reducible exact Keeps.refl _
    | (with_reducible apply Keeps.step (unloadNow_keeps ..))
    | (with_reducible apply Keeps.ite)
    | split)

theorem abortStep_keeps (n : Nat) (code : Nat) (s0 : State) : Keeps s0 (abortStep n code s0) := by
  unfold abortStep
  repeat' (first
    | with_reducible exact Keeps.refl _
    | (with_reducible apply Keeps.step (putCtx_keeps ..))
    | (with_reducible apply Keeps.step (ctxCnt_keeps ..))
    | (with_reducible apply Keeps.step (endSlotOf_keeps ..))
    | (with_reducible apply Keeps.step (freeCores_keeps ..))
    | (with_reducible apply Keeps.step (abortIngest_keeps ..))
    | (with_reducible apply Keeps.step (Keeps.foldl ?_ _ _))
    | (extract_lets +onlyGivenNames x)
    | intro _
    | split)

theorem takeFrames_keeps (n : Nat) (owner : Nat) (s0 : State) : Keeps s0 (takeFrames n owner s0).2 := by
  unfold takeFrames
  repeat' (first
    | with_reducible exact Keeps.refl _
    | (with_reducible apply Keeps.step (modCompass_keeps ..))
    | (with_reducible apply Keeps.step (xmZero_keeps ..))
    | (with_reducible apply Keeps.step (Keeps.foldl ?_ _ _))
    | (extract_lets +onlyGivenNames x)
    | intro _)

theorem makeShare_keeps (peer : Nat) (n : Nat) (s0 : State) : Keeps s0 (makeShare peer n s0) := by
  unfold makeShare
  repeat' (first
    | with_reducible exact Keeps.refl _
    | (with_reducible apply Keeps.step (modCompass_keeps ..))
    | (with_reducible apply Keeps.step (putCtx_keeps ..))
    | (extract_lets +onlyGivenNames x)
    | split)

theorem zeroSram_keeps (cores : List Nat) (c : Ctx) (s0 : State) : Keeps s0 (zeroSram cores c s0) := by
  unfold zeroSram
  repeat' (first
    | with_reducible exact Keeps.refl _
    | (with_reducible apply Keeps.step (ocmZero_keeps ..))
    | (with_reducible apply Keeps.step (Keeps.foldl ?_ _ _))
    | (extract_lets +onlyGivenNames x)
    | intro _)

theorem storeScratch_keeps (c : Ctx) (off : Nat) (d : List Byte) (s0 : State) : Keeps s0 (storeScratch c off d s0) := by
  unfold storeScratch
  repeat' (first
    | with_reducible exact Keeps.refl _
    | (with_reducible apply Keeps.step (ocmStore_keeps ..))
    | (with_reducible apply Keeps.step (Keeps.foldlP ?_ _ _))
    | intro _
    | split)

theorem storeLayout_keeps (c : Ctx) (a1 : Nat) (a2 : Nat) (a3 : List Byte) (s0 : State) : Keeps s0 (storeLayout c a1 a2 a3 s0) := by
  fun_induction storeLayout c a1 a2 a3 s0
  all_goals repeat' (first
    | with_reducible exact Keeps.refl _
    | (with_reducible refine Keeps.step (by assumption) ?_)
    | (with_reducible apply Keeps.step (xmStore_keeps ..))
    | (extract_lets +onlyGivenNames x)
    | (simp +zetaDelta only [])
    | split)

theorem placeTensors_keeps (c : Ctx) (shared : List Nat) (b : List Byte) (s0 : State) : Keeps s0 (placeTensors c shared b s0) := by
  unfold placeTensors
  repeat' (first
    | with_reducible exact Keeps.refl _
    | (with_reducible apply Keeps.step (storeScratch_keeps ..))
    | (with_reducible apply Keeps.step (storeLayout_keeps ..))
    | (with_reducible apply Keeps.step (Keeps.foldl ?_ _ _))
    | (extract_lets +onlyGivenNames x)
    | intro _
    | (with_reducible apply Keeps.ite)
    | split)

theorem loadCtx_keeps (t : Tag) (n : Nat) (island : Nat) (work : Nat) (outBytes : Nat) (outKib : Nat) (p : Pkg) (l : Layout) (b : List Byte) (s0 : State) : Keeps s0 (loadCtx t n island work outBytes outKib p l b s0) := by
  unfold loadCtx
  repeat' (first
    | with_reducible exact Keeps.refl _
    | (with_reducible apply Keeps.step (takeFrames_keeps ..))
    | (with_reducible apply Keeps.step (makeShare_keeps ..))
    | (with_reducible apply Keeps.step (zeroSram_keeps ..))
    | (with_reducible apply Keeps.step (placeTensors_keeps ..))
    | (with_reducible apply Keeps.step (allocQuota_keeps ..))
    | (with_reducible apply Keeps.step (putCtx_keeps ..))
    | (extract_lets +onlyGivenNames x)
    | split)

theorem stepFaultAt_keeps (place : Nat × Nat) (n : Nat) (k : Option Nat) (code : Nat) (inj : Bool) (s0 : State) : Keeps s0 (stepFaultAt place n k code inj s0) := by
  unfold stepFaultAt
  repeat' (first
    | with_reducible exact Keeps.refl _
    | (with_reducible apply Keeps.step (settleUnload_keeps ..))
    | (with_reducible apply Keeps.step (abortStep_keeps ..))
    | (with_reducible apply Keeps.step (jobErr_keeps ..))
    | (extract_lets +onlyGivenNames x)
    | (with_reducible apply Keeps.ite)
    | split)

theorem stepFault_keeps (n : Nat) (k : Option Nat) (code : Nat) (s0 : State) : Keeps s0 (stepFault n k code s0) := by
  unfold stepFault
  repeat' (first
    | with_reducible exact Keeps.refl _
    | (with_reducible apply Keeps.step (stepFaultAt_keeps ..)))

theorem wantFlush_keeps (cause : FlushCause) (s0 : State) : Keeps s0 (wantFlush cause s0) := by
  unfold wantFlush
  repeat' (first
    | with_reducible exact Keeps.refl _
    | (with_reducible apply Keeps.step (modPwr_keeps ..))
    | (with_reducible apply Keeps.ite))

theorem dropTags_keeps (s0 : State) : Keeps s0 (dropTags s0) := by
  unfold dropTags
  repeat' (first
    | with_reducible exact Keeps.refl _
    | (with_reducible apply Keeps.step (setCtxs_keeps ..))
    | (with_reducible apply Keeps.step (modChart_keeps ..))
    | (with_reducible apply Keeps.step (modSre_keeps ..))
    | (with_reducible apply Keeps.step (modFtl_keeps ..))
    | (with_reducible apply Keeps.step (modQcu_keeps ..))
    | (with_reducible apply Keeps.step (modMsp_keeps ..)))

theorem failCommands_keeps (s0 : State) : Keeps s0 (failCommands s0) := by
  unfold failCommands
  repeat' (first
    | with_reducible exact Keeps.refl _
    | (with_reducible apply Keeps.step (dropTags_keeps ..))
    | (with_reducible apply Keeps.step (complete_keeps ..))
    | (with_reducible apply Keeps.step (Keeps.foldl ?_ _ _))
    | intro _)

theorem dropIngest_keeps (job : Nat) (s0 : State) : Keeps s0 (dropIngest job s0) := by
  unfold dropIngest
  repeat' (first
    | with_reducible exact Keeps.refl _
    | (with_reducible apply Keeps.step (leaveSeq_keeps ..))
    | (with_reducible apply Keeps.step (modSre_keeps ..))
    | (with_reducible apply Keeps.step (Keeps.foldl ?_ _ _))
    | intro _
    | split)

theorem abortJobs_keeps (code : Nat) (st : Status) (s0 : State) : Keeps s0 (abortJobs code st s0) := by
  unfold abortJobs
  repeat' (first
    | with_reducible exact Keeps.refl _
    | (with_reducible apply Keeps.step (complete_keeps ..))
    | (with_reducible apply Keeps.step (dropIngest_keeps ..))
    | (with_reducible apply Keeps.step (jobErr_keeps ..))
    | (with_reducible apply Keeps.step (stepFault_keeps ..))
    | (with_reducible apply Keeps.step (abortQuery_keeps ..))
    | (with_reducible apply Keeps.step (Keeps.foldl ?_ _ _))
    | (extract_lets +onlyGivenNames x)
    | intro _)

theorem fatalActions_keeps (code : Nat) (s0 : State) : Keeps s0 (fatalActions code s0) := by
  unfold fatalActions
  repeat' (first
    | with_reducible exact Keeps.refl _
    | (with_reducible apply Keeps.step (failCommands_keeps ..))
    | (with_reducible apply Keeps.step (abortJobs_keeps ..))
    | (with_reducible apply Keeps.step (modChart_keeps ..)))

theorem raiseFatal_keeps (code : Nat) (page : Nat) (b : Option Nat) (d0 : Nat) (d1 : Nat) (s0 : State) : Keeps s0 (raiseFatal code page b d0 d1 s0) := by
  unfold raiseFatal
  repeat' (first
    | with_reducible exact Keeps.refl _
    | with_reducible assumption
    | (with_reducible apply Keeps.step (recordErr_keeps ..))
    | (with_reducible apply Keeps.step (wantFlush_keeps ..))
    | (with_reducible apply Keeps.step (modChip_keeps ..))
    | (with_reducible apply Keeps.step (modErr_keeps ..))
    | (with_reducible apply Keeps.step (fatalActions_keeps ..))
    | (extract_lets +onlyGivenNames x; refine Keeps.cutK (t := x) ?_ ?_ <;> first | (intro _; clear_value x) | subst x)
    | (extract_lets +onlyGivenNames x)
    | (with_reducible apply Keeps.ite))

theorem openQuery_keeps (cls : Nat) (job : Nat) (s0 : State) : Keeps s0 (openQuery cls job s0) := by
  unfold openQuery
  repeat' (first
    | with_reducible exact Keeps.refl _
    | (with_reducible apply Keeps.step (finishQuery_keeps ..))
    | (with_reducible apply Keeps.step (modSre_keeps ..))
    | (extract_lets +onlyGivenNames x)
    | (with_reducible apply Keeps.ite)
    | split)

theorem pumpQueries_keeps (s0 : State) : Keeps s0 (pumpQueries s0) := by
  unfold pumpQueries
  repeat' (first
    | with_reducible exact Keeps.refl _
    | (with_reducible apply Keeps.step (openQuery_keeps ..))
    | (with_reducible apply Keeps.step (cntAdd_keeps ..))
    | (with_reducible apply Keeps.step (Keeps.foldl ?_ _ _))
    | intro _
    | (with_reducible apply Keeps.ite))

theorem openAll_keeps (cls : Nat) (l : List (Nat × Query)) (s0 : State) : Keeps s0 (openAll cls l s0) := by
  unfold openAll
  repeat' (first
    | with_reducible exact Keeps.refl _
    | (with_reducible apply Keeps.step (openQuery_keeps ..))
    | (with_reducible apply Keeps.step (Keeps.foldl ?_ _ _))
    | intro _
    | (with_reducible apply Keeps.ite))

theorem openBatch_keeps (cls : Nat) (t : Nat) (s0 : State) : Keeps s0 (openBatch cls t s0) := by
  unfold openBatch
  repeat' (first
    | with_reducible exact Keeps.refl _
    | with_reducible assumption
    | (with_reducible apply Keeps.step (cntAdd_keeps ..))
    | (with_reducible apply Keeps.step (openAll_keeps ..))
    | (extract_lets +onlyGivenNames x; refine Keeps.cutK (t := x) ?_ ?_ <;> first | (intro _; clear_value x) | subst x)
    | (extract_lets +onlyGivenNames x)
    | (with_reducible apply Keeps.ite))

theorem queueQuery_keeps (q : Query) (s0 : State) : Keeps s0 (queueQuery q s0).2 := by
  unfold queueQuery
  repeat' (first
    | with_reducible exact Keeps.refl _
    | (with_reducible apply Keeps.step (modSre_keeps ..)))

theorem acceptMember_keeps (b : List Byte) (g : Nat) (m : Nat) (tag : Nat) (t : Nat) (s0 : State) : Keeps s0 (acceptMember b g m tag t s0) := by
  unfold acceptMember
  repeat' (first
    | with_reducible exact Keeps.refl _
    | (with_reducible apply Keeps.step (cntAdd_keeps ..))
    | (with_reducible apply Keeps.step (pumpQueries_keeps ..))
    | (with_reducible apply Keeps.step (queueQuery_keeps ..))
    | (extract_lets +onlyGivenNames x)
    | (with_reducible apply Keeps.ite))

theorem filterRefuse_keeps (i : Nat) (s0 : State) : Keeps s0 (filterRefuse i s0) := by
  unfold filterRefuse
  repeat' (first
    | with_reducible exact Keeps.refl _
    | (with_reducible apply Keeps.step (advisory_keeps ..))
    | (with_reducible apply Keeps.step (cntAdd_keeps ..))
    | (with_reducible apply Keeps.step (modFtl_keeps ..)))

theorem querySubmitCheck_keeps (b : List Byte) (cap : Nat) (s0 : State) : Keeps s0 (querySubmitCheck b cap s0).2 := by
  unfold querySubmitCheck
  repeat' (first
    | with_reducible exact Keeps.refl _
    | with_reducible assumption
    | (with_reducible apply Keeps.step (filterRefuse_keeps ..))
    | (with_reducible apply Keeps.step (cntAdd_keeps ..))
    | (with_reducible apply Keeps.step (advisory_keeps ..))
    | (extract_lets +onlyGivenNames x; refine Keeps.cutK (t := x) ?_ ?_ <;> first | (intro _; clear_value x) | subst x)
    | (extract_lets +onlyGivenNames x)
    | (with_reducible apply Keeps.ite)
    | split
    | (simp +zetaDelta only []))

theorem acceptQuery_keeps (b : List Byte) (o : Origin) (s0 : State) : Keeps s0 (acceptQuery b o s0) := by
  unfold acceptQuery
  repeat' (first
    | with_reducible exact Keeps.refl _
    | with_reducible assumption
    | (with_reducible apply Keeps.step (cntAdd_keeps ..))
    | (with_reducible apply Keeps.step (pumpQueries_keeps ..))
    | (with_reducible apply Keeps.step (queueQuery_keeps ..))
    | (with_reducible apply Keeps.step (sendMsg_keeps ..))
    | (with_reducible apply Keeps.step (Keeps.foldl ?_ _ _))
    | (extract_lets +onlyGivenNames x; refine Keeps.cutK (t := x) ?_ ?_ <;> first | (intro _; clear_value x) | subst x)
    | (extract_lets +onlyGivenNames x)
    | intro _
    | (with_reducible apply Keeps.ite)
    | split)

theorem slotRead_keeps (n : Nat) (i : Index) (slot : Nat) (s0 : State) : Keeps s0 (slotRead n i slot s0).2 := by
  unfold slotRead
  repeat' (first
    | with_reducible exact Keeps.refl _
    | (with_reducible apply Keeps.step (rangeRead_keeps ..))
    | (with_reducible refine Keeps.snd (by assumption) ?_)
    | split)

theorem readSet_keeps (n : Nat) (i : Index) (q : Query) (e : Nat) (a4 : List Nat) (a5 : List Read) (s0 : State) : Keeps s0 (readSet n i q e a4 a5 s0).2 := by
  fun_induction readSet n i q e a4 a5 s0
  all_goals repeat' (first
    | with_reducible exact Keeps.refl _
    | with_reducible assumption
    | (with_reducible refine Keeps.step (by assumption) ?_)
    | (with_reducible apply Keeps.step (slotRead_keeps ..))
    | (with_reducible apply Keeps.step (cntAdd_keeps ..))
    | (with_reducible refine Keeps.snd (by assumption) ?_)
    | (extract_lets +onlyGivenNames x)
    | (with_reducible apply Keeps.ite))

theorem rounds_keeps (n : Nat) (i : Index) (q : Query) (e : Nat) (a4 : Nat) (a5 : Nat) (a6 : Nat) (a7 : Nat) (a8 : List Read) (s0 : State) : Keeps s0 (rounds n i q e a4 a5 a6 a7 a8 s0).2 := by
  fun_induction rounds n i q e a4 a5 a6 a7 a8 s0
  all_goals repeat' (first
    | with_reducible exact Keeps.refl _
    | (with_reducible refine Keeps.step (by assumption) ?_)
    | (with_reducible apply Keeps.step (readSet_keeps ..))
    | (with_reducible apply Keeps.step (cntAdd_keeps ..))
    | (with_reducible refine Keeps.snd (by assumption) ?_)
    | (extract_lets +onlyGivenNames x)
    | (simp +zetaDelta only [])
    | split)

theorem runQuery_keeps (job : Nat) (s0 : State) : Keeps s0 (runQuery job s0) := by
  unfold runQuery
  repeat' (first
    | with_reducible exact Keeps.refl _
    | (with_reducible apply Keeps.step (rounds_keeps ..))
    | (with_reducible apply Keeps.step (finishQuery_keeps ..))
    | (with_reducible apply Keeps.step (modIdx_keeps ..))
    | (with_reducible apply Keeps.step (abortQuery_keeps ..))
    | (with_reducible apply Keeps.step (cntAdd_keeps ..))
    | (with_reducible refine Keeps.snd (by assumption) ?_)
    | (extract_lets +onlyGivenNames x)
    | (with_reducible apply Keeps.ite)
    | split)

theorem syncAll_keeps (s0 : State) : Keeps s0 (syncAll s0) := by
  unfold syncAll
  repeat' (first
    | with_reducible exact Keeps.refl _
    | (with_reducible apply Keeps.step (sendMsg_keeps ..))
    | (with_reducible apply Keeps.step (Keeps.foldl ?_ _ _))
    | intro _
    | (with_reducible apply Keeps.ite))

theorem outOfStep_keeps (n : Nat) (m : Nat) (f : Member → Member) (s0 : State) : Keeps s0 (outOfStep n m f s0) := by
  unfold outOfStep
  repeat' (first
    | with_reducible exact Keeps.refl _
    | with_reducible assumption
    | (with_reducible apply Keeps.step (modMember_keeps ..))
    | (with_reducible apply Keeps.step (advisory_keeps ..))
    | (with_reducible apply Keeps.step (cntAdd_keeps ..))
    | (extract_lets +onlyGivenNames x; refine Keeps.cutK (t := x) ?_ ?_ <;> first | (intro _; clear_value x) | subst x)
    | (extract_lets +onlyGivenNames x)
    | (with_reducible apply Keeps.ite))

theorem allOutOfStep_keeps (s0 : State) : Keeps s0 (allOutOfStep s0) := by
  unfold allOutOfStep
  repeat' (first
    | with_reducible exact Keeps.refl _
    | (with_reducible apply Keeps.step (outOfStep_keeps ..))
    | (with_reducible apply Keeps.step (Keeps.foldl ?_ _ _))
    | intro _)

theorem sextTo_keeps (st : SxState) (s0 : State) : Keeps s0 (sextTo st s0) := by
  unfold sextTo
  repeat' (first
    | with_reducible exact Keeps.refl _
    | with_reducible assumption
    | (with_reducible apply Keeps.step (modSext_keeps ..))
    | (with_reducible apply Keeps.step (allOutOfStep_keeps ..))
    | (with_reducible apply Keeps.step (syncAll_keeps ..))
    | (extract_lets +onlyGivenNames x; refine Keeps.cutK (t := x) ?_ ?_ <;> first | (intro _; clear_value x) | subst x)
    | (with_reducible apply Keeps.ite))

theorem refLost_keeps (s0 : State) : Keeps s0 (refLost s0) := by
  unfold refLost
  repeat' (first
    | with_reducible exact Keeps.refl _
    | with_reducible assumption
    | (with_reducible apply Keeps.step (modSext_keeps ..))
    | (with_reducible apply Keeps.step (cntAdd_keeps ..))
    | (with_reducible apply Keeps.step (sextTo_keeps ..))
    | (extract_lets +onlyGivenNames x; refine Keeps.cutK (t := x) ?_ ?_ <;> first | (intro _; clear_value x) | subst x)
    | (extract_lets +onlyGivenNames x)
    | (with_reducible apply Keeps.ite)
    | split)

theorem swapNow_keeps (b : Bool) (tag : Option Tag) (t : Nat) (s0 : State) : Keeps s0 (swapNow b tag t s0) := by
  unfold swapNow
  repeat' (first
    | with_reducible exact Keeps.refl _
    | (with_reducible apply Keeps.step (modChart_keeps ..))
    | (with_reducible apply Keeps.step (cntAdd_keeps ..))
    | (with_reducible apply Keeps.step (succeed_keeps ..))
    | (with_reducible apply Keeps.step (pumpQueries_keeps ..))
    | (with_reducible apply Keeps.step (syncAll_keeps ..))
    | (extract_lets +onlyGivenNames x)
    | split)

theorem swapRequest_keeps (tag : Option Tag) (s0 : State) : Keeps s0 (swapRequest tag s0) := by
  unfold swapRequest
  repeat' (first
    | with_reducible exact Keeps.refl _
    | with_reducible assumption
    | (with_reducible apply Keeps.step (swapNow_keeps ..))
    | (with_reducible apply Keeps.step (modChart_keeps ..))
    | (with_reducible apply Keeps.step (advisory_keeps ..))
    | (with_reducible apply Keeps.step (refuse_keeps ..))
    | (extract_lets +onlyGivenNames x; refine Keeps.cutK (t := x) ?_ ?_ <;> first | (intro _; clear_value x) | subst x)
    | (with_reducible apply Keeps.ite)
    | split)

theorem delRun_keeps (b : Bool) (i : Nat) (st : Nat) (s0 : State) : Keeps s0 (delRun b i st s0) := by
  unfold delRun
  repeat' (first
    | with_reducible exact Keeps.refl _
    | (with_reducible apply Keeps.step (modChart_keeps ..)))

theorem skipSlot_keeps (r : SlotRun) (s0 : State) : Keeps s0 (skipSlot r s0) := by
  unfold skipSlot
  repeat' (first
    | with_reducible exact Keeps.refl _
    | (with_reducible apply Keeps.step (advisory_keeps ..))
    | (with_reducible apply Keeps.step (cntAdd_keeps ..))
    | (with_reducible apply Keeps.step (delRun_keeps ..)))

theorem modRun_keeps (b : Bool) (i : Nat) (st : Nat) (f : SlotRun → SlotRun) (s0 : State) : Keeps s0 (modRun b i st f s0) := by
  unfold modRun
  repeat' (first
    | with_reducible exact Keeps.refl _
    | (with_reducible apply Keeps.step (modChart_keeps ..)))

theorem slotIdle_keeps (s0 : State) : Keeps s0 (slotIdle s0) := by
  unfold slotIdle
  repeat' (first
    | with_reducible exact Keeps.refl _
    | (with_reducible apply Keeps.step (cntAdd_keeps ..)))

theorem seqLost_keeps (n : Nat) (sq : Nat) (s0 : State) : Keeps s0 (seqLost n sq s0) := by
  unfold seqLost
  repeat' (first
    | with_reducible exact Keeps.refl _
    | with_reducible assumption
    | (with_reducible apply Keeps.step (freeSeq_keeps ..))
    | (with_reducible apply Keeps.step (cntAdd_keeps ..))
    | (with_reducible apply Keeps.step (advisory_keeps ..))
    | (with_reducible apply Keeps.step (abortIngest_keeps ..))
    | (extract_lets +onlyGivenNames x; refine Keeps.cutK (t := x) ?_ ?_ <;> first | (intro _; clear_value x) | subst x)
    | (extract_lets +onlyGivenNames x)
    | split
    | (simp +zetaDelta only []))

theorem losePoisoned_keeps (n : Nat) (s0 : State) : Keeps s0 (losePoisoned n s0) := by
  unfold losePoisoned
  repeat' (first
    | with_reducible exact Keeps.refl _
    | (with_reducible apply Keeps.step (seqLost_keeps ..))
    | (with_reducible apply Keeps.step (Keeps.foldl ?_ _ _))
    | intro _
    | split)

theorem issueTasks_keeps (n fuel : Nat) (s0 : State) : Keeps s0 (issueTasks n fuel s0) := by
  induction fuel generalizing s0 with
  | zero => exact Keeps.refl _
  | succ m ih =>
    unfold issueTasks
    repeat' (first
      | with_reducible exact Keeps.refl _
      | (with_reducible apply Keeps.step (ih _))
      | (with_reducible apply Keeps.step (putCtx_keeps ..))
      | (with_reducible apply Keeps.step (modCore_keeps ..))
      | (extract_lets +onlyGivenNames x; subst x)
      | split)

theorem startStep_keeps (n : Nat) (r : SlotRun) (s0 : State) : Keeps s0 (startStep n r s0) := by
  unfold startStep
  repeat' (first
    | with_reducible exact Keeps.refl _
    | with_reducible assumption
    | (with_reducible apply Keeps.step (losePoisoned_keeps ..))
    | (with_reducible apply Keeps.step (modCtx_keeps ..))
    | (with_reducible apply Keeps.step (slotIdle_keeps ..))
    | (with_reducible apply Keeps.step (ctxCnt_keeps ..))
    | (with_reducible apply Keeps.step (putCtx_keeps ..))
    | (with_reducible apply Keeps.step (advisory_keeps ..))
    | (with_reducible apply Keeps.step (issueTasks_keeps ..))
    | (extract_lets +onlyGivenNames x; refine Keeps.cutK (t := x) ?_ ?_ <;> first | (intro _; clear_value x) | subst x)
    | (extract_lets +onlyGivenNames x)
    | (with_reducible apply Keeps.ite)
    | split)

theorem checkFetch_keeps (k : Nat) (s0 : State) : Keeps s0 (checkFetch k s0) := by
  unfold checkFetch
  repeat' (first
    | with_reducible exact Keeps.refl _
    | (with_reducible apply Keeps.step (stepFault_keeps ..))
    | (with_reducible apply Keeps.ite)
    | split)

theorem resume_keeps (n : Nat) (s0 : State) : Keeps s0 (resume n s0) := by
  unfold resume
  repeat' (first
    | with_reducible exact Keeps.refl _
    | (with_reducible apply Keeps.step (modCore_keeps ..))
    | (with_reducible apply Keeps.step (checkFetch_keeps ..))
    | (with_reducible apply Keeps.step (issueTasks_keeps ..))
    | (with_reducible apply Keeps.step (putCtx_keeps ..))
    | (with_reducible apply Keeps.step (Keeps.foldl ?_ _ _))
    | (extract_lets +onlyGivenNames x)
    | intro _
    | split)

theorem beginSlot_keeps (r : SlotRun) (s0 : State) : Keeps s0 (beginSlot r s0) := by
  unfold beginSlot
  repeat' (first
    | with_reducible exact Keeps.refl _
    | with_reducible assumption
    | (with_reducible apply Keeps.step (modRun_keeps ..))
    | (with_reducible apply Keeps.step (modChart_keeps ..))
    | (with_reducible apply Keeps.step (slotIdle_keeps ..))
    | (with_reducible apply Keeps.step (ctxCnt_keeps ..))
    | (with_reducible apply Keeps.step (startStep_keeps ..))
    | (with_reducible apply Keeps.step (resume_keeps ..))
    | (with_reducible apply Keeps.step (modCtx_keeps ..))
    | (with_reducible apply Keeps.step (openBatch_keeps ..))
    | (extract_lets +onlyGivenNames x; refine Keeps.cutK (t := x) ?_ ?_ <;> first | (intro _; clear_value x) | subst x)
    | (extract_lets +onlyGivenNames x)
    | (with_reducible apply Keeps.ite)
    | split)

theorem slotDue_keeps (r : SlotRun) (s0 : State) : Keeps s0 (slotDue r s0) := by
  unfold slotDue
  repeat' (first
    | with_reducible exact Keeps.refl _
    | (with_reducible apply Keeps.step (skipSlot_keeps ..))
    | (with_reducible apply Keeps.step (modRun_keeps ..))
    | (with_reducible apply Keeps.step (beginSlot_keeps ..))
    | (with_reducible apply Keeps.ite))

theorem startDue_keeps (s0 : State) : Keeps s0 (startDue s0) := by
  unfold startDue
  repeat' (first
    | with_reducible exact Keeps.refl _
    | (with_reducible apply Keeps.step (slotDue_keeps ..))
    | (with_reducible apply Keeps.step (Keeps.foldl ?_ _ _))
    | intro _)

theorem clearBanks_keeps (s0 : State) : Keeps s0 (clearBanks s0) := by
  unfold clearBanks
  repeat' (first
    | with_reducible exact Keeps.refl _
    | (with_reducible apply Keeps.step (modChart_keeps ..)))

theorem refuseSwap_keeps (code : Code) (s0 : State) : Keeps s0 (refuseSwap code s0) := by
  unfold refuseSwap
  repeat' (first
    | with_reducible exact Keeps.refl _
    | with_reducible assumption
    | (with_reducible apply Keeps.step (advisory_keeps ..))
    | (with_reducible apply Keeps.step (modChart_keeps ..))
    | (with_reducible apply Keeps.step (refuse_keeps ..))
    | (extract_lets +onlyGivenNames x; refine Keeps.cutK (t := x) ?_ ?_ <;> first | (intro _; clear_value x) | subst x)
    | split)

theorem jobFault_keeps (n : Nat) (k : Option Nat) (code : Nat) (s0 : State) : Keeps s0 (jobFault n k code s0) := by
  unfold jobFault
  repeat' (first
    | with_reducible exact Keeps.refl _
    | (with_reducible apply Keeps.step (startDue_keeps ..))
    | (with_reducible apply Keeps.step (stepFault_keeps ..)))

theorem preempt_keeps (n : Nat) (cause : Nat) (s0 : State) : Keeps s0 (preempt n cause s0) := by
  unfold preempt
  repeat' (first
    | with_reducible exact Keeps.refl _
    | with_reducible assumption
    | (with_reducible apply Keeps.step (putCtx_keeps ..))
    | (with_reducible apply Keeps.step (ctxCnt_keeps ..))
    | (with_reducible apply Keeps.step (cntAdd_keeps ..))
    | (with_reducible apply Keeps.step (freeCores_keeps ..))
    | (extract_lets +onlyGivenNames x; refine Keeps.cutK (t := x) ?_ ?_ <;> first | (intro _; clear_value x) | subst x)
    | (extract_lets +onlyGivenNames x)
    | (with_reducible apply Keeps.ite)
    | split)

theorem ingestJoin_keeps (job : Nat) (s0 : State) : Keeps s0 (ingestJoin job s0) := by
  unfold ingestJoin
  repeat' (first
    | with_reducible exact Keeps.refl _
    | (with_reducible apply Keeps.step (modSre_keeps ..))
    | (with_reducible apply Keeps.step (putCtx_keeps ..))
    | (extract_lets +onlyGivenNames x)
    | split)

theorem endSlot_keeps (r : SlotRun) (s0 : State) : Keeps s0 (endSlot r s0) := by
  unfold endSlot
  repeat' (first
    | with_reducible exact Keeps.refl _
    | with_reducible assumption
    | (with_reducible apply Keeps.step (skipSlot_keeps ..))
    | (with_reducible apply Keeps.step (delRun_keeps ..))
    | (with_reducible apply Keeps.step (advisory_keeps ..))
    | (with_reducible apply Keeps.step (ctxCnt_keeps ..))
    | (with_reducible apply Keeps.step (cntAdd_keeps ..))
    | (with_reducible apply Keeps.step (settleUnload_keeps ..))
    | (with_reducible apply Keeps.step (preempt_keeps ..))
    | (with_reducible apply Keeps.step (startDue_keeps ..))
    | (extract_lets +onlyGivenNames x; refine Keeps.cutK (t := x) ?_ ?_ <;> first | (intro _; clear_value x) | subst x)
    | (extract_lets +onlyGivenNames x)
    | (with_reducible apply Keeps.ite)
    | split)

theorem startCycle_keeps (t : Nat) (s0 : State) : Keeps s0 (startCycle t s0) := by
  unfold startCycle
  repeat' (first
    | with_reducible exact Keeps.refl _
    | with_reducible assumption
    | (with_reducible apply Keeps.step (skipSlot_keeps ..))
    | (with_reducible apply Keeps.step (cntAdd_keeps ..))
    | (with_reducible apply Keeps.step (modChart_keeps ..))
    | (with_reducible apply Keeps.step (Keeps.foldl ?_ _ _))
    | (extract_lets +onlyGivenNames x; refine Keeps.cutK (t := x) ?_ ?_ <;> first | (intro _; clear_value x) | subst x)
    | (extract_lets +onlyGivenNames x)
    | intro _
    | split)

theorem cycleAt_keeps (t : Nat) (s0 : State) : Keeps s0 (cycleAt t s0) := by
  unfold cycleAt
  repeat' (first
    | with_reducible exact Keeps.refl _
    | with_reducible assumption
    | (with_reducible apply Keeps.step (startCycle_keeps ..))
    | (with_reducible apply Keeps.step (swapNow_keeps ..))
    | (with_reducible apply Keeps.step (advisory_keeps ..))
    | (extract_lets +onlyGivenNames x; refine Keeps.cutK (t := x) ?_ ?_ <;> first | (intro _; clear_value x) | subst x)
    | (extract_lets +onlyGivenNames x)
    | (with_reducible apply Keeps.ite)
    | split)

theorem stepReplica_keeps (t : Nat) (s0 : State) : Keeps s0 (stepReplica t s0) := by
  unfold stepReplica
  repeat' (first
    | with_reducible exact Keeps.refl _
    | with_reducible assumption
    | (with_reducible apply Keeps.step (setTime_keeps ..))
    | (with_reducible apply Keeps.step (cntAdd_keeps ..))
    | (with_reducible apply Keeps.step (endSlot_keeps ..))
    | (with_reducible apply Keeps.step (cycleAt_keeps ..))
    | (with_reducible apply Keeps.step (slotDue_keeps ..))
    | (with_reducible apply Keeps.step (Keeps.foldl ?_ _ _))
    | (extract_lets +onlyGivenNames x; refine Keeps.cutK (t := x) ?_ ?_ <;> first | (intro _; clear_value x) | subst x)
    | (extract_lets +onlyGivenNames x)
    | intro _
    | (with_reducible apply Keeps.ite))

theorem commitKv_keeps (st : Step) (s0 : State) : Keeps s0 (commitKv st s0) := by
  refine modXmc_keeps _ _ ?_
  refine ⟨?_⟩; intro o h; simp only [xmcWf, Bool.and_eq_true] at h ⊢; obtain ⟨h1, h2⟩ := h
  refine ⟨smWf_foldPut _ _ _ h1, ?_⟩
  split
  · exact h2
  · exact smWf_filter _ _ _ h2

theorem ingestTake_keeps (n : Nat) (job : Nat) (r : OutRec) (s0 : State) : Keeps s0 (ingestTake n job r s0) := by
  unfold ingestTake
  repeat' (first
    | with_reducible exact Keeps.refl _
    | (with_reducible apply Keeps.step (abortIngest_keeps ..))
    | (with_reducible apply Keeps.step (modCtx_keeps ..))
    | (with_reducible apply Keeps.step (modSre_keeps ..))
    | (extract_lets +onlyGivenNames x)
    | (with_reducible apply Keeps.ite)
    | split)

theorem completeStep_keeps (n : Nat) (s0 : State) : Keeps s0 (completeStep n s0) := by
  unfold completeStep
  repeat' (first
    | with_reducible exact Keeps.refl _
    | (with_reducible apply Keeps.step (commitKv_keeps ..))
    | (with_reducible apply Keeps.step (putCtx_keeps ..))
    | (with_reducible apply Keeps.step (ctxCnt_keeps ..))
    | (with_reducible apply Keeps.step (ingestTake_keeps ..))
    | (with_reducible apply Keeps.step (ingestJoin_keeps ..))
    | (with_reducible apply Keeps.step (startDue_keeps ..))
    | (with_reducible apply Keeps.step (settleUnload_keeps ..))
    | (with_reducible apply Keeps.step (Keeps.foldl ?_ _ _))
    | (extract_lets +onlyGivenNames x)
    | intro _
    | split)

theorem pkgBytesAt_keeps (p : Pkg) (off : Nat) (len : Nat) (s0 : State) : Keeps s0 (pkgBytesAt p off len s0).2 := by
  unfold pkgBytesAt
  repeat' (first
    | with_reducible exact Keeps.refl _
    | (with_reducible apply Keeps.step (nsRead_keeps ..))
    | (with_reducible refine Keeps.snd (by assumption) ?_)
    | split)

theorem faultCtx_keeps (n : Nat) (code : Nat) (s0 : State) : Keeps s0 (faultCtx n code s0) := by
  unfold faultCtx
  repeat' (first
    | with_reducible exact Keeps.refl _
    | with_reducible assumption
    | (with_reducible apply Keeps.step (stepFault_keeps ..))
    | (with_reducible apply Keeps.step (jobErr_keeps ..))
    | (with_reducible apply Keeps.step (modCtx_keeps ..))
    | (extract_lets +onlyGivenNames x; refine Keeps.cutK (t := x) ?_ ?_ <;> first | (intro _; clear_value x) | subst x)
    | (extract_lets +onlyGivenNames x)
    | (with_reducible apply Keeps.ite)
    | split)

theorem quarantine_keeps (n : Nat) (i : Nat) (s0 : State) : Keeps s0 (quarantine n i s0) := by
  unfold quarantine
  repeat' (first
    | with_reducible exact Keeps.refl _
    | (with_reducible apply Keeps.step (recordErr_keeps ..))
    | (with_reducible apply Keeps.step (cntAdd_keeps ..))
    | (with_reducible apply Keeps.step (modCompass_keeps ..))
    | (with_reducible apply Keeps.step (startDue_keeps ..))
    | (with_reducible apply Keeps.step (faultCtx_keeps ..))
    | (with_reducible apply Keeps.step (modCtx_keeps ..))
    | (with_reducible apply Keeps.step (Keeps.foldl ?_ _ _))
    | (extract_lets +onlyGivenNames x)
    | intro _
    | split)

theorem refetch_keeps (o : ObjAt) (st : List Byte → State → State) (s0 : State) (hst : ∀ b0 b1, Keeps b1 (st b0 b1)) : Keeps s0 (refetch o st s0) := by
  unfold refetch
  repeat' (first
    | with_reducible exact Keeps.refl _
    | (with_reducible apply Keeps.step (hst _ _))
    | (with_reducible apply Keeps.step (pkgBytesAt_keeps ..))
    | (with_reducible apply Keeps.step (quarantine_keeps ..))
    | (with_reducible apply Keeps.step (corrected_keeps ..))
    | (with_reducible apply Keeps.step (cntAdd_keeps ..))
    | (with_reducible refine Keeps.snd (by assumption) ?_)
    | split)

theorem modPage_keeps (ctx : Nat) (sq : Nat) (key : Nat) (f : CachePage → CachePage) (s0 : State) : Keeps s0 (modPage ctx sq key f s0) := by
  unfold modPage
  repeat' (first
    | with_reducible exact Keeps.refl _
    | (with_reducible apply Keeps.step (modCtx_keeps ..)))

theorem scrubGo_keeps (s0 : State) : Keeps s0 (scrubGo s0) := by
  unfold scrubGo
  repeat' (first
    | with_reducible exact Keeps.refl _
    | with_reducible assumption
    | (with_reducible apply Keeps.step (advisory_keeps ..))
    | (with_reducible apply Keeps.step (cntSet_keeps ..))
    | (with_reducible apply Keeps.step (modXmc_keeps ..))
    | exact XmcKeep.of fun _ => ⟨rfl, rfl⟩
    | (extract_lets +onlyGivenNames x; refine Keeps.cutK (t := x) ?_ ?_ <;> first | (intro _; clear_value x) | subst x)
    | (extract_lets +onlyGivenNames x)
    | (with_reducible apply Keeps.ite))

theorem endScrub_keeps (aborted : Bool) (s0 : State) : Keeps s0 (endScrub aborted s0) := by
  unfold endScrub
  repeat' (first
    | with_reducible exact Keeps.refl _
    | with_reducible assumption
    | (with_reducible apply Keeps.step (modXmc_keeps ..))
    | (with_reducible apply Keeps.step (advisory_keeps ..))
    | exact XmcKeep.of fun _ => ⟨rfl, rfl⟩
    | (extract_lets +onlyGivenNames x; refine Keeps.cutK (t := x) ?_ ?_ <;> first | (intro _; clear_value x) | subst x)
    | (extract_lets +onlyGivenNames x)
    | (with_reducible apply Keeps.ite))

theorem scrubBurst_keeps (b : Nat) (s0 : State) : Keeps s0 (scrubBurst b s0) := by
  unfold scrubBurst
  repeat' (first
    | with_reducible exact Keeps.refl _
    | with_reducible assumption
    | (with_reducible apply Keeps.step (burstCheck_keeps ..))
    | (with_reducible apply Keeps.step (modXmc_keeps ..))
    | (with_reducible apply Keeps.step (cntAdd_keeps ..))
    | (with_reducible apply Keeps.step (refetch_keeps _ _ _ ?_))
    | (with_reducible apply Keeps.step (xmStore_keeps ..))
    | (with_reducible apply Keeps.step (modPage_keeps ..))
    | exact XmcKeep.of fun _ => ⟨rfl, rfl⟩
    | (extract_lets +onlyGivenNames x; refine Keeps.cutK (t := x) ?_ ?_ <;> first | (intro _; clear_value x) | subst x)
    | (extract_lets +onlyGivenNames x)
    | intro _
    | (with_reducible apply Keeps.ite)
    | split)

theorem scrubRead_keeps (n : Nat) (s0 : State) : Keeps s0 (scrubRead n s0) := by
  unfold scrubRead
  repeat' (first
    | with_reducible exact Keeps.refl _
    | (with_reducible apply Keeps.step (cntAdd_keeps ..))
    | (with_reducible apply Keeps.step (xmCnt_keeps ..))
    | (with_reducible apply Keeps.step (scrubBurst_keeps ..))
    | (with_reducible apply Keeps.step (Keeps.foldl ?_ _ _))
    | (extract_lets +onlyGivenNames x)
    | intro _)

theorem scrubAbort_keeps (s0 : State) : Keeps s0 (scrubAbort s0) := by
  unfold scrubAbort
  repeat' (first
    | with_reducible exact Keeps.refl _
    | (with_reducible apply Keeps.step (draw_keeps ..))
    | (with_reducible apply Keeps.step (endScrub_keeps ..))
    | (with_reducible apply Keeps.step (scrubRead_keeps ..))
    | (with_reducible apply Keeps.ite))

end Sys2Proof.Machine
end

