-- ==== Sys2Proof/Laws/KeepsCommand.lean ====
section
/-! SUPPORT. Every definition of MspBase, RegOps, PsOps, MutOps, Nvm that answers a state keeps the queue, the canonical form of the
memories and the islands' rule (command rows, power states, index changes and the NVM commands). -/
namespace Sys2Proof.Machine
open Sys2Proof

theorem putConfig_keeps (c : SMap Word) (s0 : State) : Keeps s0 (putConfig c s0) := by
  unfold putConfig
  repeat' (first
    | with_reducible exact Keeps.refl _
    | (with_reducible apply Keeps.step (modMsp_keeps ..)))

theorem putKeyStore_keeps (k : KeyStore) (s0 : State) : Keeps s0 (putKeyStore k s0) := by
  unfold putKeyStore
  repeat' (first
    | with_reducible exact Keeps.refl _
    | (with_reducible apply Keeps.step (modMsp_keeps ..)))

theorem putKeyStores_keeps (k : KeyStore) (s0 : State) : Keeps s0 (putKeyStores k s0) := by
  unfold putKeyStores
  repeat' (first
    | with_reducible exact Keeps.refl _
    | (with_reducible apply Keeps.step (putKeyStore_keeps ..)))

theorem storeRw_keeps (page : Nat) (off : Nat) (w : Word) (s0 : State) : Keeps s0 (storeRw page off w s0) := by
  unfold storeRw
  repeat' (first
    | with_reducible exact Keeps.refl _
    | (with_reducible apply Keeps.step (setRegWord_keeps ..)))

theorem regRow_ends (p : Path) (page : Nat) (off : Nat) (f : State → State) (s0 : State) (hf : ∀ b0, Keeps b0 (f b0)) : Ends s0 (regRow p page off f s0) := by
  unfold regRow
  repeat' (first
    | with_reducible exact Keeps.refl _
    | (with_reducible apply Keeps.step (hf _))
    | (with_reducible apply ok_ends)
    | (with_reducible apply Keeps.step (emit_keeps ..))
    | (with_reducible apply Ends.ite)
    | split)

theorem noteCmd_keeps (t : Tag) (op : Nat) (q : Sqe) (s0 : State) : Keeps s0 (noteCmd t op q s0) := by
  unfold noteCmd
  repeat' (first
    | with_reducible exact Keeps.refl _
    | (with_reducible apply Keeps.step (modConn_keeps ..))
    | (with_reducible apply Keeps.ite)
    | split)

theorem psTell_keeps (tag : Option Tag) (rev : Bool) (s0 : State) : Keeps s0 (psTell tag rev s0) := by
  unfold psTell
  repeat' (first
    | with_reducible exact Keeps.refl _
    | (with_reducible apply Keeps.step (complete_keeps ..))
    | split)

theorem releaseBanks_keeps (l : List BankId) (s0 : State) : Keeps s0 (releaseBanks l s0) := by
  unfold releaseBanks
  repeat' (first
    | with_reducible exact Keeps.refl _
    | (with_reducible apply Keeps.step (setPhys_keeps ..))
    | (with_reducible apply Keeps.step (Keeps.foldl ?_ _ _))
    | intro _
    | (with_reducible apply Keeps.ite))

theorem leave4_keeps (s0 : State) : Keeps s0 (leave4 s0) := by
  unfold leave4
  repeat' (first
    | with_reducible exact Keeps.refl _
    | (with_reducible apply Keeps.step (cntAdd_keeps ..))
    | (with_reducible apply Keeps.step (setTime_keeps ..))
    | (with_reducible apply Keeps.step (modXmc_keeps ..))
    | (with_reducible apply Keeps.step (modChip_keeps ..))
    | (with_reducible apply Keeps.step (modChart_keeps ..))
    | exact XmcKeep.of fun _ => ⟨rfl, rfl⟩)

theorem deepLeave_keeps (src : Nat) (target : Nat) (s0 : State) : Keeps s0 (deepLeave src target s0) := by
  unfold deepLeave
  repeat' (first
    | with_reducible exact Keeps.refl _
    | with_reducible assumption
    | (with_reducible apply Keeps.step (releaseBanks_keeps ..))
    | (with_reducible apply Keeps.step (leave4_keeps ..))
    | (extract_lets +onlyGivenNames x; refine Keeps.cutK (t := x) ?_ ?_ <;> first | (intro _; clear_value x) | subst x)
    | (with_reducible apply Keeps.ite))

theorem retainBanks_keeps (l : List BankId) (s0 : State) : Keeps s0 (retainBanks l s0) := by
  unfold retainBanks
  repeat' (first
    | with_reducible exact Keeps.refl _
    | (with_reducible apply Keeps.step (setPhys_keeps ..))
    | (with_reducible apply Keeps.step (Keeps.foldl ?_ _ _))
    | intro _
    | (with_reducible apply Keeps.ite))

theorem preemptAll_keeps (s0 : State) : Keeps s0 (preemptAll s0) := by
  unfold preemptAll
  repeat' (first
    | with_reducible exact Keeps.refl _
    | (with_reducible apply Keeps.step (settleUnload_keeps ..))
    | (with_reducible apply Keeps.step (preempt_keeps ..))
    | (with_reducible apply Keeps.step (Keeps.foldl ?_ _ _))
    | intro _)

theorem deepEnter_keeps (target : Nat) (s0 : State) : Keeps s0 (deepEnter target s0) := by
  unfold deepEnter
  repeat' (first
    | with_reducible exact Keeps.refl _
    | with_reducible assumption
    | (with_reducible apply Keeps.step (retainBanks_keeps ..))
    | (with_reducible apply Keeps.step (preemptAll_keeps ..))
    | (with_reducible apply Keeps.step (modChart_keeps ..))
    | (with_reducible apply Keeps.step (scrubAbort_keeps ..))
    | (with_reducible apply Keeps.step (modXmc_keeps ..))
    | (with_reducible apply Keeps.step (startDue_keeps ..))
    | exact XmcKeep.of fun _ => ⟨rfl, rfl⟩
    | (extract_lets +onlyGivenNames x; refine Keeps.cutK (t := x) ?_ ?_ <;> first | (intro _; clear_value x) | subst x)
    | (with_reducible apply Keeps.ite))

theorem psBegin_keeps (tag : Option Tag) (target : Nat) (s0 : State) : Keeps s0 (psBegin tag target s0) := by
  unfold psBegin
  repeat' (first
    | with_reducible exact Keeps.refl _
    | with_reducible assumption
    | (with_reducible apply Keeps.step (modQcu_keeps ..))
    | (with_reducible apply Keeps.step (psTell_keeps ..))
    | (with_reducible apply Keeps.step (deepEnter_keeps ..))
    | (extract_lets +onlyGivenNames x; refine Keeps.cutK (t := x) ?_ ?_ <;> first | (intro _; clear_value x) | subst x)
    | (extract_lets +onlyGivenNames x)
    | (with_reducible apply Keeps.ite))

theorem psNext_keeps (a0 : List (Tag × Nat)) (s0 : State) : Keeps s0 (psNext a0 s0) := by
  fun_induction psNext a0 s0
  all_goals repeat' (first
    | with_reducible exact Keeps.refl _
    | (with_reducible refine Keeps.step (by assumption) ?_)
    | (with_reducible apply Keeps.step (psBegin_keeps ..))
    | (with_reducible apply Keeps.step (modQcu_keeps ..)))

theorem psEnd_keeps (t : Trans) (dst : Nat) (rev : Bool) (s0 : State) : Keeps s0 (psEnd t dst rev s0) := by
  unfold psEnd
  repeat' (first
    | with_reducible exact Keeps.refl _
    | (with_reducible apply Keeps.step (modQcu_keeps ..))
    | (with_reducible apply Keeps.step (psTell_keeps ..))
    | (with_reducible apply Keeps.step (deepLeave_keeps ..))
    | (with_reducible apply Keeps.step (pumpQueries_keeps ..))
    | (with_reducible apply Keeps.step (psNext_keeps ..)))

theorem psReverse_keeps (s0 : State) : Keeps s0 (psReverse s0) := by
  unfold psReverse
  repeat' (first
    | with_reducible exact Keeps.refl _
    | (with_reducible apply Keeps.step (psEnd_keeps ..))
    | (with_reducible apply Keeps.step (cntAdd_keeps ..))
    | (with_reducible apply Keeps.ite)
    | split)

theorem psExit_keeps (s0 : State) : Keeps s0 (psExit s0) := by
  unfold psExit
  repeat' (first
    | with_reducible exact Keeps.refl _
    | (with_reducible apply Keeps.step (psEnd_keeps ..))
    | (with_reducible apply Keeps.ite)
    | split)

theorem fetch_error {t : Tag} {op : Nat} {q : Sqe} {w r : Bool} {s0 u : State} (h : fetch t op q w r s0 = .error u) : Keeps s0 u := by
  unfold fetch at h
  split at h
  · cases h; exact Keeps.refl _
  · split at h
    · cases h; exact Keeps.refl _
    · split at h
      · cases h; exact Keeps.refl _
      · split at h
        · cases h; exact (noteCmd_keeps ..).trans (complete_keeps ..)
        · cases h

theorem fetch_ok {t : Tag} {op : Nat} {q : Sqe} {w r : Bool} {s0 u : State} (h : fetch t op q w r s0 = .ok u) : Keeps s0 u := by
  unfold fetch at h
  split at h
  · cases h
  · split at h
    · cases h
    · split at h
      · cases h
      · split at h
        · cases h
        · cases h
          repeat' (first
            | with_reducible exact Keeps.refl _
            | (with_reducible apply Keeps.step (psExit_keeps ..))
            | (with_reducible apply Keeps.step (psReverse_keeps ..))
            | (with_reducible apply Keeps.step (noteCmd_keeps ..))
            | (extract_lets +onlyGivenNames x; subst x)
            | split)

theorem adminRow_ends (t : Tag) (op : Nat) (q : Sqe) (serves : Bool) (f : State → State) (s0 : State) (hf : ∀ b0, Keeps b0 (f b0)) : Ends s0 (adminRow t op q serves f s0) := by
  unfold adminRow
  repeat' (first
    | with_reducible exact Keeps.refl _
    | (with_reducible apply Keeps.step (hf _))
    | (with_reducible refine Keeps.step (fetch_error (by assumption)) ?_)
    | (with_reducible refine Keeps.step (fetch_ok (by assumption)) ?_)
    | (with_reducible apply ok_ends)
    | (with_reducible apply Keeps.step (complete_keeps ..))
    | (with_reducible apply Ends.ite)
    | split)

theorem nvmRow_ends (t : Tag) (op : Nat) (q : Sqe) (f : State → State) (s0 : State) (hf : ∀ b0, Keeps b0 (f b0)) : Ends s0 (nvmRow t op q f s0) := by
  unfold nvmRow
  repeat' (first
    | with_reducible exact Keeps.refl _
    | (with_reducible apply Keeps.step (hf _))
    | (with_reducible refine Keeps.step (fetch_error (by assumption)) ?_)
    | (with_reducible refine Keeps.step (fetch_ok (by assumption)) ?_)
    | (with_reducible apply ok_ends)
    | (with_reducible apply Keeps.step (complete_keeps ..))
    | (with_reducible apply Ends.ite)
    | split)

theorem bcsRow_ends (t : Tag) (op : Nat) (q : Sqe) (bad : Option Nat) (f : State → State) (s0 : State)
    (hf : bad = none → ∀ s, Keeps s (f s)) : Ends s0 (bcsRow t op q bad f s0) := by
  unfold bcsRow
  split
  · exact ok_ends (fetch_error (by assumption))
  · refine Ends.trans (fetch_ok (by assumption)) ?_
    split
    · exact ok_ends (complete_keeps ..)
    · split
      · exact ok_ends (refuse_keeps ..)
      · split
        · exact ok_ends (refuse_keeps ..)
        · split
          · exact ok_ends (complete_keeps ..)
          · exact ok_ends (hf rfl _)

theorem psComplete_keeps (s0 : State) : Keeps s0 (psComplete s0) := by
  unfold psComplete
  repeat' (first
    | with_reducible exact Keeps.refl _
    | (with_reducible apply Keeps.step (psEnd_keeps ..))
    | split)

theorem ingestRefuse_keeps (t : Tag) (b : IngBad) (s0 : State) : Keeps s0 (ingestRefuse t b s0) := by
  unfold ingestRefuse
  repeat' (first
    | with_reducible exact Keeps.refl _
    | (with_reducible apply Keeps.step (refuse_keeps ..))
    | (with_reducible apply Keeps.step (complete_keeps ..))
    | split)

theorem ingestStart_keeps (t : Tag) (d : List Byte) (s0 : State) : Keeps s0 (ingestStart t d s0) := by
  unfold ingestStart
  repeat' (first
    | with_reducible exact Keeps.refl _
    | (with_reducible apply Keeps.step (ingestRefuse_keeps ..))
    | (with_reducible apply Keeps.step (rangeWrite_keeps ..))
    | (with_reducible apply Keeps.step (refuse_keeps ..))
    | (with_reducible apply Keeps.step (ingestJoin_keeps ..))
    | (with_reducible apply Keeps.step (modSre_keeps ..))
    | (with_reducible refine Keeps.snd (by assumption) ?_)
    | (extract_lets +onlyGivenNames x)
    | split)

theorem createIdx_keeps (n : Nat) (b : List Byte) (s0 : State) : Keeps s0 (createIdx n b s0) := by
  unfold createIdx
  repeat' (first
    | with_reducible exact Keeps.refl _
    | (with_reducible apply Keeps.step (allocQuota_keeps ..))
    | (with_reducible apply Keeps.step (takeFrames_keeps ..))
    | (with_reducible apply Keeps.step (modSre_keeps ..)))

theorem dropNow_keeps (n : Nat) (s0 : State) : Keeps s0 (dropNow n s0) := by
  unfold dropNow
  repeat' (first
    | with_reducible exact Keeps.refl _
    | with_reducible assumption
    | (with_reducible apply Keeps.step (freeQuota_keeps ..))
    | (with_reducible apply Keeps.step (freeFrames_keeps ..))
    | (with_reducible apply Keeps.step (modSre_keeps ..))
    | (with_reducible apply Keeps.step (refuse_keeps ..))
    | (with_reducible apply Keeps.step (succeed_keeps ..))
    | (extract_lets +onlyGivenNames x; refine Keeps.cutK (t := x) ?_ ?_ <;> first | (intro _; clear_value x) | subst x)
    | split)

theorem switchIdx_keeps (n : Nat) (s0 : State) : Keeps s0 (switchIdx n s0) := by
  unfold switchIdx
  repeat' (first
    | with_reducible exact Keeps.refl _
    | with_reducible assumption
    | (with_reducible apply Keeps.step (draw_keeps ..))
    | (with_reducible apply Keeps.step (modIdx_keeps ..))
    | (with_reducible apply Keeps.step (cntAdd_keeps ..))
    | (with_reducible apply Keeps.step (succeed_keeps ..))
    | (extract_lets +onlyGivenNames x; refine Keeps.cutK (t := x) ?_ ?_ <;> first | (intro _; clear_value x) | subst x)
    | (with_reducible refine Keeps.snd (by assumption) ?_)
    | (extract_lets +onlyGivenNames x)
    | split)

theorem settleIdx_keeps (n : Nat) (s0 : State) : Keeps s0 (settleIdx n s0) := by
  unfold settleIdx
  repeat' (first
    | with_reducible exact Keeps.refl _
    | (with_reducible apply Keeps.step (dropNow_keeps ..))
    | (with_reducible apply Keeps.step (pumpQueries_keeps ..))
    | (with_reducible apply Keeps.step (switchIdx_keeps ..))
    | (with_reducible apply Keeps.ite)
    | split)

theorem dropIdx_keeps (t : Tag) (n : Nat) (s0 : State) : Keeps s0 (dropIdx t n s0) := by
  unfold dropIdx
  repeat' (first
    | with_reducible exact Keeps.refl _
    | (with_reducible apply Keeps.step (modIdx_keeps ..))
    | (with_reducible apply Keeps.step (settleIdx_keeps ..))
    | (with_reducible apply Keeps.step (finishQuery_keeps ..))
    | (with_reducible apply Keeps.step (Keeps.foldl ?_ _ _))
    | (extract_lets +onlyGivenNames x)
    | intro _)

theorem slotBytesOf_keeps (n : Nat) (i : Index) (slot : Nat) (s0 : State) : Keeps s0 (slotBytesOf n i slot s0).2 := by
  unfold slotBytesOf
  repeat' (first
    | with_reducible exact Keeps.refl _
    | (with_reducible apply Keeps.step (rangeRead_keeps ..))
    | (with_reducible refine Keeps.snd (by assumption) ?_)
    | split)

theorem carryVec_keeps (n : Nat) (id : Nat) (w : Work) (s0 : State) : Keeps s0 (carryVec n id w s0).2 := by
  unfold carryVec
  repeat' (first
    | with_reducible exact Keeps.refl _
    | (with_reducible apply Keeps.step (slotBytesOf_keeps ..))
    | (with_reducible apply Keeps.step (draw_keeps ..))
    | (with_reducible refine Keeps.snd (by assumption) ?_)
    | (extract_lets +onlyGivenNames x)
    | split)

theorem applyOps_keeps (n : Nat) (e : Nat) (total : Nat) (a3 : List (Nat × MutOp)) (a4 : Work) (s0 : State) : Keeps s0 (applyOps n e total a3 a4 s0).2 := by
  fun_induction applyOps n e total a3 a4 s0
  all_goals repeat' (first
    | with_reducible exact Keeps.refl _
    | (with_reducible refine Keeps.step (by assumption) ?_)
    | (with_reducible apply Keeps.step (carryVec_keeps ..))
    | (with_reducible refine Keeps.snd (by assumption) ?_)
    | (extract_lets +onlyGivenNames x)
    | (simp +zetaDelta only [])
    | split)

theorem writeSlots_keeps (n : Nat) (c : IdxCfg) (l : List (Nat × List Byte)) (s0 : State) : Keeps s0 (writeSlots n c l s0) := by
  unfold writeSlots
  repeat' (first
    | with_reducible exact Keeps.refl _
    | (with_reducible apply Keeps.step (rangeWrite_keeps ..))
    | (with_reducible apply Keeps.step (Keeps.foldl ?_ _ _))
    | intro _
    | split)

theorem commitWork_keeps (n : Nat) (e : Nat) (w : Work) (s0 : State) : Keeps s0 (commitWork n e w s0) := by
  unfold commitWork
  repeat' (first
    | with_reducible exact Keeps.refl _
    | (with_reducible apply Keeps.step (writeSlots_keeps ..))
    | (with_reducible apply Keeps.step (modIdx_keeps ..))
    | (with_reducible apply Keeps.step (cntAdd_keeps ..)))

theorem mutateList_keeps (t : Tag) (n : Nat) (epoch : Nat) (ops : List MutOp) (s0 : State) : Keeps s0 (mutateList t n epoch ops s0) := by
  unfold mutateList
  repeat' (first
    | with_reducible exact Keeps.refl _
    | (with_reducible apply Keeps.step (refuse_keeps ..))
    | (with_reducible apply Keeps.step (applyOps_keeps ..))
    | (with_reducible apply Keeps.step (succeed_keeps ..))
    | (with_reducible apply Keeps.step (commitWork_keeps ..))
    | (with_reducible refine Keeps.snd (by assumption) ?_)
    | (extract_lets +onlyGivenNames x)
    | split)

theorem mutate_keeps (t : Tag) (d : List Byte) (s0 : State) : Keeps s0 (mutate t d s0) := by
  unfold mutate
  repeat' (first
    | with_reducible exact Keeps.refl _
    | (with_reducible apply Keeps.step (refuse_keeps ..))
    | (with_reducible apply Keeps.step (complete_keeps ..))
    | (with_reducible apply Keeps.step (succeed_keeps ..))
    | (with_reducible apply Keeps.step (createIdx_keeps ..))
    | (with_reducible apply Keeps.step (dropIdx_keeps ..))
    | (with_reducible apply Keeps.step (modIdx_keeps ..))
    | (with_reducible apply Keeps.step (mutateList_keeps ..))
    | (extract_lets +onlyGivenNames x)
    | (with_reducible apply Keeps.ite)
    | split)

theorem ingestInsert_keeps (job : Nat) (g : Ingest) (s0 : State) : Keeps s0 (ingestInsert job g s0) := by
  unfold ingestInsert
  repeat' (first
    | with_reducible exact Keeps.refl _
    | with_reducible assumption
    | (with_reducible apply Keeps.step (modSre_keeps ..))
    | (with_reducible apply Keeps.step (refuse_keeps ..))
    | (with_reducible apply Keeps.step (succeed_keeps ..))
    | (with_reducible apply Keeps.step (commitWork_keeps ..))
    | (extract_lets +onlyGivenNames x; refine Keeps.cutK (t := x) ?_ ?_ <;> first | (intro _; clear_value x) | subst x)
    | (extract_lets +onlyGivenNames x)
    | split
    | (simp +zetaDelta only []))

theorem zeroRun_keeps (b : Nat) (owner : Nat) (a2 : Nat) (a3 : Nat) (a4 : Nat) (s0 : State) : Keeps s0 (zeroRun b owner a2 a3 a4 s0).2 := by
  fun_induction zeroRun b owner a2 a3 a4 s0
  all_goals repeat' (first
    | with_reducible exact Keeps.refl _
    | (with_reducible refine Keeps.step (by assumption) ?_)
    | (with_reducible apply Keeps.step (rangeWrite_keeps ..))
    | (with_reducible refine Keeps.snd (by assumption) ?_))

theorem zeroPart_keeps (b : Nat) (owner : Nat) (lo : Nat) (hi : Nat) (s0 : State) : Keeps s0 (zeroPart b owner lo hi s0).2 := by
  unfold zeroPart
  repeat' (first
    | with_reducible exact Keeps.refl _
    | (with_reducible apply Keeps.step (rangeWrite_keeps ..))
    | split)

theorem deallocate_keeps (b : Nat) (owner : Nat) (r : Nat × Nat) (s0 : State) : Keeps s0 (deallocate b owner r s0).2 := by
  unfold deallocate
  repeat' (first
    | with_reducible exact Keeps.refl _
    | (with_reducible apply Keeps.step (zeroPart_keeps ..))
    | (with_reducible apply Keeps.step (unmapRange_keeps ..))
    | (with_reducible refine Keeps.snd (by assumption) ?_)
    | (extract_lets +onlyGivenNames x)
    | split)

theorem deallocs_keeps (b : Nat) (owner : Nat) (a2 : List (Nat × Nat)) (s0 : State) : Keeps s0 (deallocs b owner a2 s0).2 := by
  fun_induction deallocs b owner a2 s0
  all_goals repeat' (first
    | with_reducible exact Keeps.refl _
    | (with_reducible refine Keeps.step (by assumption) ?_)
    | (with_reducible apply Keeps.step (deallocate_keeps ..))
    | (with_reducible refine Keeps.snd (by assumption) ?_))

theorem applyWrite_keeps (n : Ns) (w : WaitWrite) (s0 : State) : Keeps s0 (applyWrite n w s0).2 := by
  unfold applyWrite
  repeat' (first
    | with_reducible exact Keeps.refl _
    | (with_reducible apply Keeps.step (rangeWrite_keeps ..))
    | (with_reducible apply Keeps.step (zeroRun_keeps ..))
    | (with_reducible apply Keeps.step (deallocs_keeps ..))
    | (extract_lets +onlyGivenNames x)
    | split)

theorem doWrite_keeps (w : WaitWrite) (s0 : State) : Keeps s0 (doWrite w s0) := by
  unfold doWrite
  repeat' (first
    | with_reducible exact Keeps.refl _
    | (with_reducible apply Keeps.step (ingestStart_keeps ..))
    | (with_reducible apply Keeps.step (mutate_keeps ..))
    | (with_reducible apply Keeps.step (complete_keeps ..))
    | (with_reducible apply Keeps.step (applyWrite_keeps ..))
    | (with_reducible apply Keeps.step (modFtl_keeps ..))
    | (with_reducible refine Keeps.snd (by assumption) ?_)
    | (extract_lets +onlyGivenNames x)
    | (with_reducible apply Keeps.ite)
    | split)

theorem copyUnit_keeps (r : CopyRun) (e : Nat × FUnit) (s0 : State) : Keeps s0 (copyUnit r e s0) := by
  unfold copyUnit
  repeat' (first
    | with_reducible exact Keeps.refl _
    | (with_reducible apply Keeps.step (unitRead_keeps ..))
    | (with_reducible apply Keeps.step (startProg_keeps ..))
    | (with_reducible apply Keeps.step (modFtl_keeps ..))
    | (with_reducible refine Keeps.snd (by assumption) ?_)
    | split)

theorem retireSb_keeps (n : Nat) (s0 : State) : Keeps s0 (retireSb n s0) := by
  unfold retireSb
  repeat' (first
    | with_reducible exact Keeps.refl _
    | with_reducible assumption
    | (with_reducible apply Keeps.step (modSb_keeps ..))
    | (with_reducible apply Keeps.step (smartEvent_keeps ..))
    | (with_reducible apply Keeps.step (advisory_keeps ..))
    | (with_reducible apply Keeps.step (modFtl_keeps ..))
    | (extract_lets +onlyGivenNames x; refine Keeps.cutK (t := x) ?_ ?_ <;> first | (intro _; clear_value x) | subst x)
    | (with_reducible apply Keeps.ite))

theorem endRun_keeps (r : CopyRun) (s0 : State) : Keeps s0 (endRun r s0) := by
  unfold endRun
  repeat' (first
    | with_reducible exact Keeps.refl _
    | with_reducible assumption
    | (with_reducible apply Keeps.step (modFtl_keeps ..))
    | (with_reducible apply Keeps.step (modSb_keeps ..))
    | (with_reducible apply Keeps.step (retireSb_keeps ..))
    | (extract_lets +onlyGivenNames x; refine Keeps.cutK (t := x) ?_ ?_ <;> first | (intro _; clear_value x) | subst x)
    | (extract_lets +onlyGivenNames x)
    | (with_reducible apply Keeps.ite))

theorem goRun_keeps (r : CopyRun) (s0 : State) : Keeps s0 (goRun r s0) := by
  unfold goRun
  repeat' (first
    | with_reducible exact Keeps.refl _
    | with_reducible assumption
    | (with_reducible apply Keeps.step (copyUnit_keeps ..))
    | (with_reducible apply Keeps.step (endRun_keeps ..))
    | (with_reducible apply Keeps.step (Keeps.foldl ?_ _ _))
    | (extract_lets +onlyGivenNames x; refine Keeps.cutK (t := x) ?_ ?_ <;> first | (intro _; clear_value x) | subst x)
    | (extract_lets +onlyGivenNames x)
    | intro _
    | (with_reducible apply Keeps.ite))

theorem beginRun_keeps (sb : Nat) (why : Nat) (slot : Option Nat) (s0 : State) : Keeps s0 (beginRun sb why slot s0) := by
  unfold beginRun
  repeat' (first
    | with_reducible exact Keeps.refl _
    | (with_reducible apply Keeps.step (modFtl_keeps ..))
    | (with_reducible apply Keeps.step (goRun_keeps ..))
    | (with_reducible apply Keeps.step (modSb_keeps ..))
    | (extract_lets +onlyGivenNames x)
    | (with_reducible apply Keeps.ite))

theorem retireDie_keeps (d : Nat) (s0 : State) : Keeps s0 (retireDie d s0) := by
  unfold retireDie
  repeat' (first
    | with_reducible exact Keeps.refl _
    | with_reducible assumption
    | (with_reducible apply Keeps.step (advisory_keeps ..))
    | (with_reducible apply Keeps.step (modFtl_keeps ..))
    | (with_reducible apply Keeps.step (beginRun_keeps ..))
    | (with_reducible apply Keeps.step (Keeps.foldl ?_ _ _))
    | (extract_lets +onlyGivenNames x; refine Keeps.cutK (t := x) ?_ ?_ <;> first | (intro _; clear_value x) | subst x)
    | (extract_lets +onlyGivenNames x)
    | intro _
    | (with_reducible apply Keeps.ite))

theorem dieFail_keeps (sb : Nat) (slot : Nat) (s0 : State) : Keeps s0 (dieFail sb slot s0) := by
  unfold dieFail
  repeat' (first
    | with_reducible exact Keeps.refl _
    | with_reducible assumption
    | (with_reducible apply Keeps.step (advisory_keeps ..))
    | (with_reducible apply Keeps.step (modFtl_keeps ..))
    | (with_reducible apply Keeps.step (retireDie_keeps ..))
    | (extract_lets +onlyGivenNames x; refine Keeps.cutK (t := x) ?_ ?_ <;> first | (intro _; clear_value x) | subst x)
    | (extract_lets +onlyGivenNames x)
    | (with_reducible apply Keeps.ite))

theorem settleThrough_keeps (s0 : State) : Keeps s0 (settleThrough s0) := by
  unfold settleThrough
  repeat' (first
    | with_reducible exact Keeps.refl _
    | (with_reducible apply Keeps.step (complete_keeps ..))
    | (with_reducible apply Keeps.step (modFtl_keeps ..))
    | (with_reducible apply Keeps.step (Keeps.foldl ?_ _ _))
    | (extract_lets +onlyGivenNames x)
    | intro _)

theorem onNs_keeps (t : Tag) (q : Sqe) (f : Ns → State → State) (s0 : State) (hf : ∀ b0 b1, Keeps b1 (f b0 b1)) : Keeps s0 (onNs t q f s0) := by
  unfold onNs
  repeat' (first
    | with_reducible exact Keeps.refl _
    | (with_reducible apply Keeps.step (hf _ _))
    | (with_reducible apply Keeps.step (complete_keeps ..))
    | split)

theorem mteBusy_keeps (s0 : State) : Keeps s0 (mteBusy s0) := by
  unfold mteBusy
  repeat' (first
    | with_reducible exact Keeps.refl _
    | (with_reducible apply Keeps.step (modFtl_keeps ..)))

theorem execNvmRead_ends (t : Tag) (q : Sqe) (_d : List Byte) (s0 : State) : Ends s0 (execNvmRead t q _d s0) := by
  unfold execNvmRead
  repeat' (first
    | with_reducible exact Keeps.refl _
    | (with_reducible apply Ends.step (nvmRow_ends _ _ _ _ _ ?_))
    | (with_reducible apply Keeps.step (onNs_keeps _ _ _ _ ?_))
    | (with_reducible apply Keeps.step (complete_keeps ..))
    | (with_reducible apply Keeps.step (nsRead_keeps ..))
    | (with_reducible apply Keeps.step (mteBusy_keeps ..))
    | (with_reducible refine Keeps.snd (by assumption) ?_)
    | intro _
    | split)

theorem refuseWorn_keeps (w : WaitWrite) (s0 : State) : Keeps s0 (refuseWorn w s0) := by
  unfold refuseWorn
  repeat' (first
    | with_reducible exact Keeps.refl _
    | (with_reducible apply Keeps.step (refuse_keeps ..))
    | (with_reducible apply Keeps.step (complete_keeps ..))
    | (with_reducible apply Keeps.ite))

theorem countHeld_keeps (w : WaitWrite) (s0 : State) : Keeps s0 (countHeld w s0) := by
  unfold countHeld
  repeat' (first
    | with_reducible exact Keeps.refl _
    | (with_reducible apply Keeps.step (cntAdd_keeps ..))
    | (with_reducible apply Keeps.ite))

theorem goWorn_keeps (s0 : State) : Keeps s0 (goWorn s0) := by
  unfold goWorn
  repeat' (first
    | with_reducible exact Keeps.refl _
    | (with_reducible apply Keeps.step (modFtl_keeps ..))
    | (with_reducible apply Keeps.step (smartEvent_keeps ..))
    | (with_reducible apply Keeps.step (advisory_keeps ..))
    | (with_reducible apply Keeps.step (refuseWorn_keeps ..))
    | (with_reducible apply Keeps.step (countHeld_keeps ..))
    | (with_reducible apply Keeps.step (Keeps.foldl ?_ _ _))
    | (extract_lets +onlyGivenNames x)
    | intro _)

theorem admitAll_keeps (a0 : Nat) (s0 : State) : Keeps s0 (admitAll a0 s0) := by
  fun_induction admitAll a0 s0
  all_goals repeat' (first
    | with_reducible exact Keeps.refl _
    | (with_reducible refine Keeps.step (by assumption) ?_)
    | (with_reducible apply Keeps.step (doWrite_keeps ..))
    | (with_reducible apply Keeps.step (modFtl_keeps ..))
    | (with_reducible apply Keeps.step (goWorn_keeps ..))
    | (with_reducible apply Keeps.step (countHeld_keeps ..)))

theorem admitWrites_keeps (s0 : State) : Keeps s0 (admitWrites s0) := by
  unfold admitWrites
  repeat' (first
    | with_reducible exact Keeps.refl _
    | (with_reducible apply Keeps.step (admitAll_keeps ..)))

theorem askWrite_keeps (w : WaitWrite) (s0 : State) : Keeps s0 (askWrite w s0) := by
  unfold askWrite
  repeat' (first
    | with_reducible exact Keeps.refl _
    | with_reducible assumption
    | (with_reducible apply Keeps.step (refuseWorn_keeps ..))
    | (with_reducible apply Keeps.step (modFtl_keeps ..))
    | (with_reducible apply Keeps.step (admitWrites_keeps ..))
    | (extract_lets +onlyGivenNames x; refine Keeps.cutK (t := x) ?_ ?_ <;> first | (intro _; clear_value x) | subst x)
    | (extract_lets +onlyGivenNames x)
    | (with_reducible apply Keeps.ite))

theorem execWriteZeroes_ends (t : Tag) (q : Sqe) (_d : List Byte) (s0 : State) : Ends s0 (execWriteZeroes t q _d s0) := by
  unfold execWriteZeroes
  repeat' (first
    | with_reducible exact Keeps.refl _
    | (with_reducible apply Ends.step (nvmRow_ends _ _ _ _ _ ?_))
    | (with_reducible apply Keeps.step (onNs_keeps _ _ _ _ ?_))
    | (with_reducible apply Keeps.step (complete_keeps ..))
    | (with_reducible apply Keeps.step (askWrite_keeps ..))
    | (with_reducible apply Keeps.step (mteBusy_keeps ..))
    | intro _
    | split)

theorem execFlush_ends (t : Tag) (q : Sqe) (_d : List Byte) (s0 : State) : Ends s0 (execFlush t q _d s0) := by
  unfold execFlush
  repeat' (first
    | with_reducible exact Keeps.refl _
    | (with_reducible apply Ends.step (nvmRow_ends _ _ _ _ _ ?_))
    | (with_reducible apply Keeps.step (complete_keeps ..))
    | (with_reducible apply Keeps.step (onNs_keeps _ _ _ _ ?_))
    | intro _
    | (with_reducible apply Keeps.ite))

theorem beginRewrites_keeps (s0 : State) : Keeps s0 (beginRewrites s0) := by
  unfold beginRewrites
  repeat' (first
    | with_reducible exact Keeps.refl _
    | (with_reducible apply Keeps.step (beginRun_keeps ..))
    | (with_reducible apply Keeps.step (modFtl_keeps ..))
    | (with_reducible apply Keeps.step (Keeps.foldl ?_ _ _))
    | (extract_lets +onlyGivenNames x)
    | intro _)

theorem goRuns_keeps (s0 : State) : Keeps s0 (goRuns s0) := by
  unfold goRuns
  repeat' (first
    | with_reducible exact Keeps.refl _
    | (with_reducible apply Keeps.step (beginRewrites_keeps ..))
    | (with_reducible apply Keeps.step (goRun_keeps ..))
    | (with_reducible apply Keeps.step (Keeps.foldl ?_ _ _))
    | intro _)

theorem countDies_keeps (sb : Nat) (off : Nat) (s0 : State) : Keeps s0 (countDies sb off s0) := by
  unfold countDies
  repeat' (first
    | with_reducible exact Keeps.refl _
    | (with_reducible apply Keeps.step (cntAdd_keeps ..))
    | (with_reducible apply Keeps.step (Keeps.foldl ?_ _ _))
    | intro _)

theorem execNvmWrite_ends (t : Tag) (q : Sqe) (d : List Byte) (s0 : State) : Ends s0 (execNvmWrite t q d s0) := by
  unfold execNvmWrite
  repeat' (first
    | with_reducible exact Keeps.refl _
    | (with_reducible apply Ends.step (nvmRow_ends _ _ _ _ _ ?_))
    | (with_reducible apply Keeps.step (onNs_keeps _ _ _ _ ?_))
    | (with_reducible apply Keeps.step (complete_keeps ..))
    | (with_reducible apply Keeps.step (askWrite_keeps ..))
    | (with_reducible apply Keeps.step (mteBusy_keeps ..))
    | intro _
    | split)

theorem execDatasetManagement_ends (t : Tag) (q : Sqe) (d : List Byte) (s0 : State) : Ends s0 (execDatasetManagement t q d s0) := by
  unfold execDatasetManagement
  repeat' (first
    | with_reducible exact Keeps.refl _
    | (with_reducible apply Ends.step (nvmRow_ends _ _ _ _ _ ?_))
    | (with_reducible apply Keeps.step (onNs_keeps _ _ _ _ ?_))
    | (with_reducible apply Keeps.step (complete_keeps ..))
    | (with_reducible apply Keeps.step (askWrite_keeps ..))
    | (with_reducible apply Keeps.step (mteBusy_keeps ..))
    | intro _
    | (with_reducible apply Keeps.ite))

theorem execNvmVerify_ends (t : Tag) (q : Sqe) (_d : List Byte) (s0 : State) : Ends s0 (execNvmVerify t q _d s0) := by
  unfold execNvmVerify
  repeat' (first
    | with_reducible exact Keeps.refl _
    | (with_reducible apply Ends.step (nvmRow_ends _ _ _ _ _ ?_))
    | (with_reducible apply Keeps.step (onNs_keeps _ _ _ _ ?_))
    | (with_reducible apply Keeps.step (complete_keeps ..))
    | (with_reducible apply Keeps.step (nsRead_keeps ..))
    | (with_reducible apply Keeps.step (mteBusy_keeps ..))
    | (with_reducible refine Keeps.snd (by assumption) ?_)
    | intro _
    | split)

theorem freeRose_keeps (s0 : State) : Keeps s0 (freeRose s0) := by
  unfold freeRose
  repeat' (first
    | with_reducible exact Keeps.refl _
    | with_reducible assumption
    | (with_reducible apply Keeps.step (modFtl_keeps ..))
    | (extract_lets +onlyGivenNames x; refine Keeps.cutK (t := x) ?_ ?_ <;> first | (intro _; clear_value x) | subst x)
    | (extract_lets +onlyGivenNames x)
    | (with_reducible apply Keeps.ite))

end Sys2Proof.Machine
end

