-- ==== Sys2Proof/Laws/KeepsPort.lean ====
section
/-! SUPPORT. Every definition of FlashEv, QcuConn, Niu, Sextant that answers a state keeps the queue, the canonical form of the
memories and the islands' rule (media events, connections, the port and the Sextant). -/
namespace Sys2Proof.Machine
open Sys2Proof

theorem diagDecode_keeps (g : Nat) (u : Nat) (s0 : State) : Keeps s0 (diagDecode g u s0) := by
  unfold diagDecode
  repeat' (first
    | with_reducible exact Keeps.refl _
    | with_reducible assumption
    | (with_reducible apply Keeps.step (modFtl_keeps ..))
    | (with_reducible apply Keeps.step (cntAdd_keeps ..))
    | (with_reducible apply Keeps.step (draw_keeps ..))
    | (with_reducible apply Keeps.step (schedRewrite_keeps ..))
    | (extract_lets +onlyGivenNames x; refine Keeps.cutK (t := x) ?_ ?_ <;> first | (intro _; clear_value x) | subst x)
    | (extract_lets +onlyGivenNames x)
    | (with_reducible apply Keeps.ite)
    | split)

theorem writeMteDiag_keeps (page : Nat) (w : Word) (s0 : State) : Keeps s0 (writeMteDiag page w s0) := by
  unfold writeMteDiag
  repeat' (first
    | with_reducible exact Keeps.refl _
    | (with_reducible apply Keeps.step (diagDecode_keeps ..))
    | (with_reducible apply Keeps.ite))

theorem execChannelStopsResponding_ends (ch : Nat) (s0 : State) : Ends s0 (execChannelStopsResponding ch s0) := by
  unfold execChannelStopsResponding
  repeat' (first
    | with_reducible exact Keeps.refl _
    | with_reducible assumption
    | (with_reducible apply ok_ends)
    | (with_reducible apply Keeps.step (modFtl_keeps ..))
    | (with_reducible apply Keeps.step (goRuns_keeps ..))
    | (with_reducible apply Keeps.step (retireDie_keeps ..))
    | (with_reducible apply Keeps.step (Keeps.foldl ?_ _ _))
    | (extract_lets +onlyGivenNames x; refine Ends.cutK (t := x) ?_ ?_ <;> first | (intro _; clear_value x) | subst x)
    | (extract_lets +onlyGivenNames x)
    | intro _
    | (with_reducible apply Ends.ite))

theorem commitProg_keeps (p : Prog) (s0 : State) : Keeps s0 (commitProg p s0) := by
  unfold commitProg
  repeat' (first
    | with_reducible exact Keeps.refl _
    | with_reducible assumption
    | (with_reducible apply Keeps.step (cntAdd_keeps ..))
    | (with_reducible apply Keeps.step (modFtl_keeps ..))
    | (with_reducible apply Keeps.step (mapSet_keeps ..))
    | (extract_lets +onlyGivenNames x; refine Keeps.cutK (t := x) ?_ ?_ <;> first | (intro _; clear_value x) | subst x)
    | (extract_lets +onlyGivenNames x)
    | (with_reducible apply Keeps.ite)
    | split)

theorem drainSlot_keeps (e : Nat × FUnit) (s0 : State) : Keeps s0 (drainSlot e s0) := by
  unfold drainSlot
  repeat' (first
    | with_reducible exact Keeps.refl _
    | (with_reducible apply Keeps.step (startProg_keeps ..)))

theorem withdraw_keeps (sb : Nat) (s0 : State) : Keeps s0 (withdraw sb s0) := by
  unfold withdraw
  repeat' (first
    | with_reducible exact Keeps.refl _
    | (with_reducible apply Keeps.step (modFtl_keeps ..)))

theorem wordlineDone_keeps (sb : Nat) (o : ProgOut) (s0 : State) : Keeps s0 (wordlineDone sb o s0) := by
  unfold wordlineDone
  repeat' (first
    | with_reducible exact Keeps.refl _
    | (with_reducible apply Keeps.step (modFtl_keeps ..))
    | (with_reducible apply Keeps.step (countDies_keeps ..))
    | (with_reducible apply Keeps.step (modSb_keeps ..))
    | (with_reducible apply Keeps.step (commitProg_keeps ..))
    | (with_reducible apply Keeps.step (withdraw_keeps ..))
    | (with_reducible apply Keeps.step (dieFail_keeps ..))
    | (with_reducible apply Keeps.step (closeFull_keeps ..))
    | (with_reducible apply Keeps.step (beginRun_keeps ..))
    | (with_reducible apply Keeps.step (settleThrough_keeps ..))
    | (with_reducible apply Keeps.step (goRuns_keeps ..))
    | (with_reducible apply Keeps.step (Keeps.foldl ?_ _ _))
    | (extract_lets +onlyGivenNames x)
    | intro _
    | (with_reducible apply Keeps.ite)
    | split)

theorem finishProgs_keeps (a0 : Nat) (s0 : State) : Keeps s0 (finishProgs a0 s0) := by
  fun_induction finishProgs a0 s0
  all_goals repeat' (first
    | with_reducible exact Keeps.refl _
    | (with_reducible refine Keeps.step (by assumption) ?_)
    | (with_reducible apply Keeps.step (wordlineDone_keeps ..)))

theorem drainClean_keeps (s0 : State) : Keeps s0 (drainClean s0) := by
  unfold drainClean
  repeat' (first
    | with_reducible exact Keeps.refl _
    | (with_reducible apply Keeps.step (drainSlot_keeps ..))
    | (with_reducible apply Keeps.step (goRuns_keeps ..))
    | (with_reducible apply Keeps.step (finishProgs_keeps ..))
    | (with_reducible apply Keeps.step (modFtl_keeps ..))
    | (with_reducible apply Keeps.step (Keeps.foldl ?_ _ _))
    | (extract_lets +onlyGivenNames x)
    | intro _)

theorem execProgramComplete_ends (sb : Nat) (o : ProgOut) (s0 : State) : Ends s0 (execProgramComplete sb o s0) := by
  unfold execProgramComplete
  repeat' (first
    | with_reducible exact Keeps.refl _
    | (with_reducible apply ok_ends)
    | (with_reducible apply Keeps.step (admitWrites_keeps ..))
    | (with_reducible apply Keeps.step (wordlineDone_keeps ..)))

theorem suspendDie_keeps (sb : Nat) (slot : Nat) (s0 : State) : Keeps s0 (suspendDie sb slot s0) := by
  unfold suspendDie
  repeat' (first
    | with_reducible exact Keeps.refl _
    | (with_reducible apply Keeps.step (cntAdd_keeps ..))
    | (with_reducible apply Keeps.step (modFtl_keeps ..))
    | (extract_lets +onlyGivenNames x)
    | (with_reducible apply Keeps.ite))

theorem execSlcFold_ends (s0 : State) : Ends s0 (execSlcFold s0) := by
  unfold execSlcFold
  repeat' (first
    | with_reducible exact Keeps.refl _
    | (with_reducible apply ok_ends)
    | (with_reducible apply Keeps.step (goRuns_keeps ..))
    | (with_reducible apply Keeps.step (beginRun_keeps ..))
    | (with_reducible apply Ends.ite)
    | split)

theorem execBackgroundGc_ends (s0 : State) : Ends s0 (execBackgroundGc s0) := by
  unfold execBackgroundGc
  repeat' (first
    | with_reducible exact Keeps.refl _
    | (with_reducible apply ok_ends)
    | (with_reducible apply Keeps.step (goRuns_keeps ..))
    | (with_reducible apply Keeps.step (modFtl_keeps ..))
    | (with_reducible apply Keeps.step (beginRun_keeps ..))
    | (extract_lets +onlyGivenNames x)
    | (with_reducible apply Ends.ite)
    | split
    | (simp +zetaDelta only []))

theorem execEraseComplete_ends (sb : Nat) (o : EraseOut) (s0 : State) : Ends s0 (execEraseComplete sb o s0) := by
  unfold execEraseComplete
  repeat' (first
    | with_reducible exact Keeps.refl _
    | with_reducible assumption
    | (with_reducible apply ok_ends)
    | (with_reducible apply Keeps.step (modFtl_keeps ..))
    | (with_reducible apply Keeps.step (countDies_keeps ..))
    | (with_reducible apply Keeps.step (modSb_keeps ..))
    | (with_reducible apply Keeps.step (dieFail_keeps ..))
    | (with_reducible apply Keeps.step (retireSb_keeps ..))
    | (with_reducible apply Keeps.step (admitWrites_keeps ..))
    | (with_reducible apply Keeps.step (freeRose_keeps ..))
    | (with_reducible apply Keeps.step (Keeps.foldl ?_ _ _))
    | (extract_lets +onlyGivenNames x; refine Ends.cutK (t := x) ?_ ?_ <;> first | (intro _; clear_value x) | subst x)
    | (extract_lets +onlyGivenNames x)
    | intro _
    | (with_reducible apply Keeps.ite)
    | (with_reducible apply Ends.ite))

theorem execWriteBufferDrain_ends (n : Nat) (s0 : State) : Ends s0 (execWriteBufferDrain n s0) := by
  unfold execWriteBufferDrain
  repeat' (first
    | with_reducible exact Keeps.refl _
    | (with_reducible apply ok_ends)
    | (with_reducible apply Keeps.step (drainSlot_keeps ..))
    | (with_reducible apply Keeps.step (goRuns_keeps ..))
    | (with_reducible apply Keeps.step (Keeps.foldl ?_ _ _))
    | intro _
    | (with_reducible apply Ends.ite))

theorem levelReport_keeps (d : Nat) (cls : Nat) (i : Nat) (up : Nat) (down : Nat) (page : Nat) (s0 : State) : Keeps s0 (levelReport d cls i up down page s0) := by
  unfold levelReport
  repeat' (first
    | with_reducible exact Keeps.refl _
    | with_reducible assumption
    | (with_reducible apply Keeps.step (modFtl_keeps ..))
    | (with_reducible apply Keeps.step (cntAdd_keeps ..))
    | (extract_lets +onlyGivenNames x; refine Keeps.cutK (t := x) ?_ ?_ <;> first | (intro _; clear_value x) | subst x)
    | (extract_lets +onlyGivenNames x)
    | (with_reducible apply Keeps.ite))

theorem levelReports_keeps (d : Nat) (cls : Nat) (page : Nat) (r : ReadOut) (s0 : State) : Keeps s0 (levelReports d cls page r s0) := by
  unfold levelReports
  repeat' (first
    | with_reducible exact Keeps.refl _
    | (with_reducible apply Keeps.step (levelReport_keeps ..))
    | (with_reducible apply Keeps.step (Keeps.foldl ?_ _ _))
    | intro _)

theorem execForegroundGc_ends (s0 : State) : Ends s0 (execForegroundGc s0) := by
  unfold execForegroundGc
  repeat' (first
    | with_reducible exact Keeps.refl _
    | with_reducible assumption
    | (with_reducible apply ok_ends)
    | (with_reducible apply Keeps.step (advisory_keeps ..))
    | (with_reducible apply Keeps.step (modFtl_keeps ..))
    | (with_reducible apply Keeps.step (beginRun_keeps ..))
    | (with_reducible apply Keeps.step (admitWrites_keeps ..))
    | (with_reducible apply Keeps.step (goRuns_keeps ..))
    | (extract_lets +onlyGivenNames x; refine Ends.cutK (t := x) ?_ ?_ <;> first | (intro _; clear_value x) | subst x)
    | (extract_lets +onlyGivenNames x)
    | (with_reducible apply Keeps.ite)
    | (with_reducible apply Ends.ite)
    | split)

theorem execFlashReadComplete_ends (u : Nat) (r : ReadOut) (s0 : State) : Ends s0 (execFlashReadComplete u r s0) := by
  unfold execFlashReadComplete
  repeat' (first
    | with_reducible exact Keeps.refl _
    | with_reducible assumption
    | (with_reducible apply ok_ends)
    | (with_reducible apply Keeps.step (suspendDie_keeps ..))
    | (with_reducible apply Keeps.step (modFtl_keeps ..))
    | (with_reducible apply Keeps.step (cntAdd_keeps ..))
    | (with_reducible apply Keeps.step (levelReports_keeps ..))
    | (with_reducible apply Keeps.step (schedRewrite_keeps ..))
    | (with_reducible apply Keeps.step (goRuns_keeps ..))
    | (with_reducible apply Keeps.step (unitRead_keeps ..))
    | (extract_lets +onlyGivenNames x; refine Ends.cutK (t := x) ?_ ?_ <;> first | (intro _; clear_value x) | subst x)
    | (extract_lets +onlyGivenNames x)
    | (with_reducible apply Keeps.ite)
    | split)

theorem execMapCheckpoint_ends (seg : Nat) (s0 : State) : Ends s0 (execMapCheckpoint seg s0) := by
  unfold execMapCheckpoint
  repeat' (first
    | with_reducible exact Keeps.refl _
    | (with_reducible apply ok_ends)
    | (with_reducible apply Keeps.step (modFtl_keeps ..)))

theorem execMteDiagGo_ends (p : Path) (page : Nat) (w : Word) (s0 : State) : Ends s0 (execMteDiagGo p page w s0) := by
  unfold execMteDiagGo
  repeat' (first
    | with_reducible exact Keeps.refl _
    | (with_reducible apply Ends.step (regRow_ends _ _ _ _ _ ?_))
    | (with_reducible apply Keeps.step (writeMteDiag_keeps ..))
    | intro _)

theorem logState_keeps (conn : Nat) (st : Nat) (s0 : State) : Keeps s0 (logState conn st s0) := by
  unfold logState
  repeat' (first
    | with_reducible exact Keeps.refl _
    | (with_reducible apply Keeps.step (modQcu_keeps ..)))

theorem dropConn_keeps (conn : Nat) (s0 : State) : Keeps s0 (dropConn conn s0) := by
  unfold dropConn
  repeat' (first
    | with_reducible exact Keeps.refl _
    | (with_reducible apply Keeps.step (modErr_keeps ..))
    | (with_reducible apply Keeps.step (modNiu_keeps ..))
    | (with_reducible apply Keeps.step (modQcu_keeps ..)))

theorem teardown_keeps (cntlid : Nat) (s0 : State) : Keeps s0 (teardown cntlid s0) := by
  unfold teardown
  repeat' (first
    | with_reducible exact Keeps.refl _
    | (with_reducible apply Keeps.step (dropConn_keeps ..))
    | (with_reducible apply Keeps.step (logState_keeps ..))
    | (with_reducible apply Keeps.step (modFtl_keeps ..))
    | (with_reducible apply Keeps.step (modQcu_keeps ..))
    | (with_reducible apply Keeps.step (Keeps.foldl ?_ _ _))
    | (extract_lets +onlyGivenNames x)
    | intro _)

theorem closeConn_keeps (conn : Nat) (st : Nat) (s0 : State) : Keeps s0 (closeConn conn st s0) := by
  unfold closeConn
  repeat' (first
    | with_reducible exact Keeps.refl _
    | with_reducible assumption
    | (with_reducible apply Keeps.step (logState_keeps ..))
    | (with_reducible apply Keeps.step (teardown_keeps ..))
    | (with_reducible apply Keeps.step (dropConn_keeps ..))
    | (extract_lets +onlyGivenNames x; refine Keeps.cutK (t := x) ?_ ?_ <;> first | (intro _; clear_value x) | subst x)
    | split)

theorem touchAtoll_keeps (s0 : State) : Keeps s0 (touchAtoll s0) := by
  unfold touchAtoll
  repeat' (first
    | with_reducible exact Keeps.refl _
    | (with_reducible apply Keeps.step (modChip_keeps ..))
    | (with_reducible apply Keeps.ite))

theorem execPs4Exit_ends (s0 : State) : Ends s0 (execPs4Exit s0) := by
  unfold execPs4Exit
  repeat' (first
    | with_reducible exact Keeps.refl _
    | (with_reducible apply ok_ends)
    | (with_reducible apply Keeps.step (psExit_keeps ..)))

theorem terminate_keeps (conn : Nat) (s0 : State) : Keeps s0 (terminate conn s0) := by
  unfold terminate
  repeat' (first
    | with_reducible exact Keeps.refl _
    | (with_reducible apply Keeps.step (closeConn_keeps ..))
    | (with_reducible apply Keeps.step (cntAdd_keeps ..))
    | (with_reducible apply Keeps.step (emit_keeps ..)))

theorem queueErr_keeps (conn : Nat) (cause : Nat) (cid : Nat) (lost : Bool) (pdu : PduCheck) (s0 : State) : Keeps s0 (queueErr conn cause cid lost pdu s0) := by
  unfold queueErr
  repeat' (first
    | with_reducible exact Keeps.refl _
    | with_reducible assumption
    | (with_reducible apply Keeps.step (terminate_keeps ..))
    | (with_reducible apply Keeps.step (recordErr_keeps ..))
    | (with_reducible apply Keeps.step (modErr_keeps ..))
    | (with_reducible apply Keeps.step (modQcu_keeps ..))
    | (with_reducible apply Keeps.step (modConn_keeps ..))
    | (with_reducible apply Keeps.step (cntAdd_keeps ..))
    | (with_reducible apply Keeps.step (postTo_keeps ..))
    | (extract_lets +onlyGivenNames x; refine Keeps.cutK (t := x) ?_ ?_ <;> first | (intro _; clear_value x) | subst x)
    | (extract_lets +onlyGivenNames x)
    | (with_reducible apply Keeps.ite)
    | split)

theorem discardCapsule_keeps (conn : Nat) (s0 : State) : Keeps s0 (discardCapsule conn s0) := by
  unfold discardCapsule
  repeat' (first
    | with_reducible exact Keeps.refl _
    | (with_reducible apply Keeps.step (modConn_keeps ..))
    | (with_reducible apply Keeps.step (modQcu_keeps ..)))

theorem execPowerStateEntryComplete_ends (s0 : State) : Ends s0 (execPowerStateEntryComplete s0) := by
  unfold execPowerStateEntryComplete
  repeat' (first
    | with_reducible exact Keeps.refl _
    | (with_reducible apply ok_ends)
    | (with_reducible apply Keeps.step (psComplete_keeps ..)))

theorem execPowerStateReversal_ends (s0 : State) : Ends s0 (execPowerStateReversal s0) := by
  unfold execPowerStateReversal
  repeat' (first
    | with_reducible exact Keeps.refl _
    | (with_reducible apply ok_ends)
    | (with_reducible apply Keeps.step (psReverse_keeps ..)))

theorem execTcpSyn_ends (conn : Nat) (port : Nat) (v6 : Bool) (s0 : State) : Ends s0 (execTcpSyn conn port v6 s0) := by
  unfold execTcpSyn
  repeat' (first
    | with_reducible exact Keeps.refl _
    | with_reducible assumption
    | (with_reducible apply ok_ends)
    | (with_reducible apply Keeps.step (emit_keeps ..))
    | (with_reducible apply Keeps.step (cntAdd_keeps ..))
    | (with_reducible apply Keeps.step (modQcu_keeps ..))
    | (with_reducible apply Keeps.step (advisory_keeps ..))
    | (extract_lets +onlyGivenNames x; refine Ends.cutK (t := x) ?_ ?_ <;> first | (intro _; clear_value x) | subst x)
    | (extract_lets +onlyGivenNames x)
    | (with_reducible apply Ends.ite))

theorem execQueueReset_ends (conn : Nat) (s0 : State) : Ends s0 (execQueueReset conn s0) := by
  unfold execQueueReset
  repeat' (first
    | with_reducible exact Keeps.refl _
    | (with_reducible apply ok_ends)
    | (with_reducible apply Keeps.step (closeConn_keeps ..)))

theorem execClientHello_ends (conn : Nat) (o : Hello) (s0 : State) : Ends s0 (execClientHello conn o s0) := by
  unfold execClientHello
  repeat' (first
    | with_reducible exact Keeps.refl _
    | with_reducible assumption
    | (with_reducible apply ok_ends)
    | (with_reducible apply Keeps.step (touchAtoll_keeps ..))
    | (with_reducible apply Keeps.step (emit_keeps ..))
    | (with_reducible apply Keeps.step (modConn_keeps ..))
    | (with_reducible apply Keeps.step (closeConn_keeps ..))
    | (with_reducible apply Keeps.step (advisory_keeps ..))
    | (with_reducible apply Keeps.step (cntAdd_keeps ..))
    | (extract_lets +onlyGivenNames x; refine Ends.cutK (t := x) ?_ ?_ <;> first | (intro _; clear_value x) | subst x)
    | (extract_lets +onlyGivenNames x)
    | (with_reducible apply Ends.ite)
    | split)

theorem execKatoExpired_ends (cntlid : Nat) (s0 : State) : Ends s0 (execKatoExpired cntlid s0) := by
  unfold execKatoExpired
  repeat' (first
    | with_reducible exact Keeps.refl _
    | (with_reducible apply ok_ends)
    | (with_reducible apply Keeps.step (advanceMaster_keeps ..))
    | (with_reducible apply Keeps.step (teardown_keeps ..))
    | (with_reducible apply Keeps.step (advisory_keeps ..))
    | (with_reducible apply Keeps.step (cntAdd_keeps ..))
    | split)

theorem execIcreq_ends (conn : Nat) (pfv : Nat) (h : Bool) (d : Bool) (maxr2t : Nat) (s0 : State) : Ends s0 (execIcreq conn pfv h d maxr2t s0) := by
  unfold execIcreq
  repeat' (first
    | with_reducible exact Keeps.refl _
    | (with_reducible apply ok_ends)
    | (with_reducible apply Keeps.step (closeConn_keeps ..))
    | (with_reducible apply Keeps.step (terminate_keeps ..))
    | (with_reducible apply Keeps.step (emit_keeps ..))
    | (with_reducible apply Keeps.step (modConn_keeps ..))
    | (extract_lets +onlyGivenNames x)
    | (with_reducible apply Ends.ite)
    | split)

theorem execKeyUpdate_ends (conn : Nat) (s0 : State) : Ends s0 (execKeyUpdate conn s0) := by
  unfold execKeyUpdate
  repeat' (first
    | with_reducible exact Keeps.refl _
    | (with_reducible apply ok_ends)
    | (with_reducible apply Keeps.step (emit_keeps ..))
    | (with_reducible apply Keeps.step (touchAtoll_keeps ..))
    | (with_reducible apply Ends.ite)
    | split)

theorem execFreezeTimeout_ends (conn : Nat) (s0 : State) : Ends s0 (execFreezeTimeout conn s0) := by
  unfold execFreezeTimeout
  repeat' (first
    | with_reducible exact Keeps.refl _
    | (with_reducible apply ok_ends)
    | (with_reducible apply Keeps.step (terminate_keeps ..))
    | (with_reducible apply Keeps.step (advanceMaster_keeps ..))
    | split)

theorem execConnectionClose_ends (conn : Nat) (s0 : State) : Ends s0 (execConnectionClose conn s0) := by
  unfold execConnectionClose
  repeat' (first
    | with_reducible exact Keeps.refl _
    | (with_reducible apply ok_ends)
    | (with_reducible apply Keeps.step (closeConn_keeps ..)))

theorem goDown_keeps (s0 : State) : Keeps s0 (goDown s0) := by
  unfold goDown
  repeat' (first
    | with_reducible exact Keeps.refl _
    | with_reducible assumption
    | (with_reducible apply Keeps.step (cntAdd_keeps ..))
    | (with_reducible apply Keeps.step (modNiu_keeps ..))
    | (with_reducible apply Keeps.step (advisory_keeps ..))
    | (with_reducible apply Keeps.step (modChip_keeps ..))
    | (with_reducible apply Keeps.step (refLost_keeps ..))
    | (extract_lets +onlyGivenNames x; refine Keeps.cutK (t := x) ?_ ?_ <;> first | (intro _; clear_value x) | subst x)
    | (extract_lets +onlyGivenNames x)
    | (with_reducible apply Keeps.ite))

theorem writeNiuCtrl_keeps (w : Word) (s0 : State) : Keeps s0 (writeNiuCtrl w s0) := by
  unfold writeNiuCtrl
  repeat' (first
    | with_reducible exact Keeps.refl _
    | with_reducible assumption
    | (with_reducible apply Keeps.step (storeRw_keeps ..))
    | (with_reducible apply Keeps.step (modNiu_keeps ..))
    | (with_reducible apply Keeps.step (goDown_keeps ..))
    | (extract_lets +onlyGivenNames x; refine Keeps.cutK (t := x) ?_ ?_ <;> first | (intro _; clear_value x) | subst x)
    | (extract_lets +onlyGivenNames x)
    | (with_reducible apply Keeps.ite))

theorem writeIp_keeps (off : Nat) (w : Word) (s0 : State) : Keeps s0 (writeIp off w s0) := by
  unfold writeIp
  repeat' (first
    | with_reducible exact Keeps.refl _
    | with_reducible assumption
    | (with_reducible apply Keeps.step (storeRw_keeps ..))
    | (with_reducible apply Keeps.step (closeConn_keeps ..))
    | (with_reducible apply Keeps.step (emit_keeps ..))
    | (with_reducible apply Keeps.step (modNiu_keeps ..))
    | (with_reducible apply Keeps.step (Keeps.foldl ?_ _ _))
    | (extract_lets +onlyGivenNames x; refine Keeps.cutK (t := x) ?_ ?_ <;> first | (intro _; clear_value x) | subst x)
    | (extract_lets +onlyGivenNames x)
    | intro _
    | (with_reducible apply Keeps.ite))

theorem execLinkDown_ends (s0 : State) : Ends s0 (execLinkDown s0) := by
  unfold execLinkDown
  repeat' (first
    | with_reducible exact Keeps.refl _
    | (with_reducible apply ok_ends)
    | (with_reducible apply Keeps.step (goDown_keeps ..))
    | (with_reducible apply Ends.ite))

theorem sendPfc_keeps (p : Nat) (quanta : Nat) (s0 : State) : Keeps s0 (sendPfc p quanta s0) := by
  unfold sendPfc
  repeat' (first
    | with_reducible exact Keeps.refl _
    | (with_reducible apply Keeps.step (cntAdd_keeps ..))
    | (with_reducible apply Keeps.step (emit_keeps ..))
    | (with_reducible apply Keeps.ite))

theorem execPfcRepeat_ends (p : Nat) (s0 : State) : Ends s0 (execPfcRepeat p s0) := by
  unfold execPfcRepeat
  repeat' (first
    | with_reducible exact Keeps.refl _
    | (with_reducible apply ok_ends)
    | (with_reducible apply Keeps.step (sendPfc_keeps ..))
    | (with_reducible apply Keeps.step (modNiu_keeps ..))
    | (with_reducible apply Ends.ite))

theorem rxCount_keeps (n : Nat) (s0 : State) : Keeps s0 (rxCount n s0) := by
  unfold rxCount
  repeat' (first
    | with_reducible exact Keeps.refl _
    | (with_reducible apply Keeps.step (cntAdd_keeps ..)))

theorem takeFrame_keeps (f : Frame) (k : State → State) (s0 : State) (hk : ∀ b0, Keeps b0 (k b0)) : Keeps s0 (takeFrame f k s0) := by
  unfold takeFrame
  repeat' (first
    | with_reducible exact Keeps.refl _
    | with_reducible assumption
    | (with_reducible apply Keeps.step (hk _))
    | (with_reducible apply Keeps.step (cntAdd_keeps ..))
    | (with_reducible apply Keeps.step (rxCount_keeps ..))
    | (extract_lets +onlyGivenNames x; refine Keeps.cutK (t := x) ?_ ?_ <;> first | (intro _; clear_value x) | subst x)
    | (extract_lets +onlyGivenNames x)
    | (with_reducible apply Keeps.ite))

theorem sendFrame_keeps (b : List Byte) (s0 : State) : Keeps s0 (sendFrame b s0) := by
  unfold sendFrame
  repeat' (first
    | with_reducible exact Keeps.refl _
    | (with_reducible apply Keeps.step (sendOn_keeps ..)))

theorem execArpRequest_ends (f : Frame) (s0 : State) : Ends s0 (execArpRequest f s0) := by
  unfold execArpRequest
  repeat' (first
    | with_reducible exact Keeps.refl _
    | (with_reducible apply ok_ends)
    | (with_reducible apply Keeps.step (takeFrame_keeps _ _ _ ?_))
    | (with_reducible apply Keeps.step (sendFrame_keeps ..))
    | intro _
    | split)

theorem execXqPtrFault_ends (rx : Bool) (p : Nat) (s0 : State) : Ends s0 (execXqPtrFault rx p s0) := by
  unfold execXqPtrFault
  repeat' (first
    | with_reducible exact Keeps.refl _
    | with_reducible assumption
    | (with_reducible apply ok_ends)
    | (with_reducible apply Keeps.step (modNiu_keeps ..))
    | (with_reducible apply Keeps.step (advisory_keeps ..))
    | (with_reducible apply Keeps.step (cntAdd_keeps ..))
    | (with_reducible apply Keeps.step (raiseFatal_keeps ..))
    | (extract_lets +onlyGivenNames x; refine Ends.cutK (t := x) ?_ ?_ <;> first | (intro _; clear_value x) | subst x)
    | (extract_lets +onlyGivenNames x)
    | (with_reducible apply Ends.ite))

theorem execAutoNegotiationTimeout_ends (s0 : State) : Ends s0 (execAutoNegotiationTimeout s0) := by
  unfold execAutoNegotiationTimeout
  repeat' (first
    | with_reducible exact Keeps.refl _
    | (with_reducible apply ok_ends)
    | (with_reducible apply Keeps.step (advanceMaster_keeps ..))
    | (with_reducible apply Keeps.step (modNiu_keeps ..))
    | split)

theorem execLinkEnWrite_ends (p : Path) (w : Word) (s0 : State) : Ends s0 (execLinkEnWrite p w s0) := by
  unfold execLinkEnWrite
  repeat' (first
    | with_reducible exact Keeps.refl _
    | (with_reducible apply Ends.step (regRow_ends _ _ _ _ _ ?_))
    | (with_reducible apply Keeps.step (writeNiuCtrl_keeps ..))
    | intro _)

theorem execPauseFrame_ends (s0 : State) : Ends s0 (execPauseFrame s0) := by
  unfold execPauseFrame
  repeat' (first
    | with_reducible exact Keeps.refl _
    | (with_reducible apply ok_ends)
    | (with_reducible apply Keeps.step (cntAdd_keeps ..))
    | (with_reducible apply Keeps.step (rxCount_keeps ..))
    | (with_reducible apply Ends.ite))

theorem execLinkUp_ends (s0 : State) : Ends s0 (execLinkUp s0) := by
  unfold execLinkUp
  repeat' (first
    | with_reducible exact Keeps.refl _
    | (with_reducible apply ok_ends)
    | (with_reducible apply Keeps.step (modChip_keeps ..))
    | (with_reducible apply Keeps.step (modNiu_keeps ..))
    | (with_reducible apply Ends.ite))

theorem execFecWindow_ends (fixed : Nat) (errs : Nat) (s0 : State) : Ends s0 (execFecWindow fixed errs s0) := by
  unfold execFecWindow
  repeat' (first
    | with_reducible exact Keeps.refl _
    | with_reducible assumption
    | (with_reducible apply ok_ends)
    | (with_reducible apply Keeps.step (cntAdd_keeps ..))
    | (with_reducible apply Keeps.step (modNiu_keeps ..))
    | (with_reducible apply Keeps.step (advisory_keeps ..))
    | (extract_lets +onlyGivenNames x; refine Ends.cutK (t := x) ?_ ?_ <;> first | (intro _; clear_value x) | subst x)
    | (extract_lets +onlyGivenNames x)
    | (with_reducible apply Ends.ite))

theorem maybePause_keeps (p : Nat) (s0 : State) : Keeps s0 (maybePause p s0) := by
  unfold maybePause
  repeat' (first
    | with_reducible exact Keeps.refl _
    | (with_reducible apply Keeps.step (sendPfc_keeps ..))
    | (with_reducible apply Keeps.step (modNiu_keeps ..))
    | (with_reducible apply Keeps.ite))

theorem execFrameReceive_ends (f : Frame) (s0 : State) : Ends s0 (execFrameReceive f s0) := by
  unfold execFrameReceive
  repeat' (first
    | with_reducible exact Keeps.refl _
    | with_reducible assumption
    | (with_reducible apply ok_ends)
    | (with_reducible apply Keeps.step (cntAdd_keeps ..))
    | (with_reducible apply Keeps.step (rxCount_keeps ..))
    | (with_reducible apply Keeps.step (advisory_keeps ..))
    | (with_reducible apply Keeps.step (maybePause_keeps ..))
    | (with_reducible apply Keeps.step (modNiu_keeps ..))
    | (extract_lets +onlyGivenNames x; refine Ends.cutK (t := x) ?_ ?_ <;> first | (intro _; clear_value x) | subst x)
    | (extract_lets +onlyGivenNames x)
    | (with_reducible apply Ends.ite))

theorem endPause_keeps (p : Nat) (s0 : State) : Keeps s0 (endPause p s0) := by
  unfold endPause
  repeat' (first
    | with_reducible exact Keeps.refl _
    | (with_reducible apply Keeps.step (drainTx_keeps ..))
    | (with_reducible apply Keeps.step (modNiu_keeps ..)))

theorem execPfcPauseExpiry_ends (p : Nat) (s0 : State) : Ends s0 (execPfcPauseExpiry p s0) := by
  unfold execPfcPauseExpiry
  repeat' (first
    | with_reducible exact Keeps.refl _
    | (with_reducible apply ok_ends)
    | (with_reducible apply Keeps.step (endPause_keeps ..))
    | (with_reducible apply Keeps.step (advanceMaster_keeps ..))
    | split)

theorem execPfcFrame_ends (p : Nat) (quanta : Nat) (s0 : State) : Ends s0 (execPfcFrame p quanta s0) := by
  unfold execPfcFrame
  repeat' (first
    | with_reducible exact Keeps.refl _
    | with_reducible assumption
    | (with_reducible apply ok_ends)
    | (with_reducible apply Keeps.step (cntAdd_keeps ..))
    | (with_reducible apply Keeps.step (rxCount_keeps ..))
    | (with_reducible apply Keeps.step (endPause_keeps ..))
    | (with_reducible apply Keeps.step (modNiu_keeps ..))
    | (extract_lets +onlyGivenNames x; refine Ends.cutK (t := x) ?_ ?_ <;> first | (intro _; clear_value x) | subst x)
    | (extract_lets +onlyGivenNames x)
    | (with_reducible apply Ends.ite))

theorem execTxUnderrun_ends (s0 : State) : Ends s0 (execTxUnderrun s0) := by
  unfold execTxUnderrun
  repeat' (first
    | with_reducible exact Keeps.refl _
    | (with_reducible apply ok_ends)
    | (with_reducible apply Keeps.step (advisory_keeps ..))
    | (with_reducible apply Keeps.step (cntAdd_keeps ..))
    | (with_reducible apply Ends.ite))

theorem execIcmpEcho_ends (f : Frame) (s0 : State) : Ends s0 (execIcmpEcho f s0) := by
  unfold execIcmpEcho
  repeat' (first
    | with_reducible exact Keeps.refl _
    | (with_reducible apply ok_ends)
    | (with_reducible apply Keeps.step (takeFrame_keeps _ _ _ ?_))
    | (with_reducible apply Keeps.step (sendFrame_keeps ..))
    | (with_reducible apply Keeps.step (cntAdd_keeps ..))
    | intro _
    | split)

theorem execGatewayRefresh_ends (s0 : State) : Ends s0 (execGatewayRefresh s0) := by
  unfold execGatewayRefresh
  repeat' (first
    | with_reducible exact Keeps.refl _
    | with_reducible assumption
    | (with_reducible apply ok_ends)
    | (with_reducible apply Keeps.step (sendFrame_keeps ..))
    | (with_reducible apply Keeps.step (modNiu_keeps ..))
    | (with_reducible apply Keeps.step (sendOn_keeps ..))
    | (with_reducible apply Keeps.step (Keeps.foldl ?_ _ _))
    | (extract_lets +onlyGivenNames x; refine Ends.cutK (t := x) ?_ ?_ <;> first | (intro _; clear_value x) | subst x)
    | (extract_lets +onlyGivenNames x)
    | intro _
    | (with_reducible apply Ends.ite))

theorem execUnresolvedTimeout_ends (s0 : State) : Ends s0 (execUnresolvedTimeout s0) := by
  unfold execUnresolvedTimeout
  repeat' (first
    | with_reducible exact Keeps.refl _
    | (with_reducible apply ok_ends)
    | (with_reducible apply Keeps.step (advanceMaster_keeps ..))
    | (with_reducible apply Keeps.step (cntAdd_keeps ..))
    | (with_reducible apply Keeps.step (modNiu_keeps ..))
    | split)

theorem execTcpRetransmitTimeout_ends (conn : Nat) (s0 : State) : Ends s0 (execTcpRetransmitTimeout conn s0) := by
  unfold execTcpRetransmitTimeout
  repeat' (first
    | with_reducible exact Keeps.refl _
    | (with_reducible apply ok_ends)
    | (with_reducible apply Keeps.step (modNiu_keeps ..))
    | (with_reducible apply Ends.ite))

theorem execIpAddressWrite_ends (p : Path) (off : Nat) (w : Word) (s0 : State) : Ends s0 (execIpAddressWrite p off w s0) := by
  unfold execIpAddressWrite
  repeat' (first
    | with_reducible exact Keeps.refl _
    | (with_reducible apply Ends.step (regRow_ends _ _ _ _ _ ?_))
    | (with_reducible apply Keeps.step (writeIp_keeps ..))
    | (with_reducible apply ok_ends)
    | intro _
    | (with_reducible apply Ends.ite))

theorem writeSource_keeps (w : Word) (s0 : State) : Keeps s0 (writeSource w s0) := by
  unfold writeSource
  repeat' (first
    | with_reducible exact Keeps.refl _
    | with_reducible assumption
    | (with_reducible apply Keeps.step (storeRw_keeps ..))
    | (with_reducible apply Keeps.step (modSext_keeps ..))
    | (with_reducible apply Keeps.step (sextTo_keeps ..))
    | (extract_lets +onlyGivenNames x; refine Keeps.cutK (t := x) ?_ ?_ <;> first | (intro _; clear_value x) | subst x)
    | (extract_lets +onlyGivenNames x)
    | (with_reducible apply Keeps.ite))

theorem writeTod_keeps (w : Word) (s0 : State) : Keeps s0 (writeTod w s0) := by
  unfold writeTod
  repeat' (first
    | with_reducible exact Keeps.refl _
    | (with_reducible apply Keeps.step (modSext_keeps ..))
    | (with_reducible apply Keeps.step (storeRw_keeps ..)))

theorem slewTime_keeps (o : Int) (s0 : State) : Keeps s0 (slewTime o s0) := by
  unfold slewTime
  repeat' (first
    | with_reducible exact Keeps.refl _
    | (with_reducible apply Keeps.step (setFresh_keeps ..))
    | (with_reducible apply Keeps.step (modSext_keeps ..)))

theorem stepTime_keeps (o : Int) (s0 : State) : Keeps s0 (stepTime o s0) := by
  unfold stepTime
  repeat' (first
    | with_reducible exact Keeps.refl _
    | with_reducible assumption
    | (with_reducible apply Keeps.step (modSext_keeps ..))
    | (with_reducible apply Keeps.step (setTime_keeps ..))
    | (with_reducible apply Keeps.step (advisory_keeps ..))
    | (with_reducible apply Keeps.step (cntAdd_keeps ..))
    | (with_reducible apply Keeps.step (stepReplica_keeps ..))
    | (extract_lets +onlyGivenNames x; refine Keeps.cutK (t := x) ?_ ?_ <;> first | (intro _; clear_value x) | subst x)
    | (extract_lets +onlyGivenNames x)
    | (with_reducible apply Keeps.ite))

theorem measure_keeps (o : Int) (s0 : State) : Keeps s0 (measure o s0) := by
  unfold measure
  repeat' (first
    | with_reducible exact Keeps.refl _
    | with_reducible assumption
    | (with_reducible apply Keeps.step (modSext_keeps ..))
    | (with_reducible apply Keeps.step (slewTime_keeps ..))
    | (with_reducible apply Keeps.step (sextTo_keeps ..))
    | (with_reducible apply Keeps.step (stepTime_keeps ..))
    | (extract_lets +onlyGivenNames x; refine Keeps.cutK (t := x) ?_ ?_ <;> first | (intro _; clear_value x) | subst x)
    | (extract_lets +onlyGivenNames x)
    | (with_reducible apply Keeps.ite)
    | split)

theorem refPresent_keeps (s0 : State) : Keeps s0 (refPresent s0) := by
  unfold refPresent
  repeat' (first
    | with_reducible exact Keeps.refl _
    | with_reducible assumption
    | (with_reducible apply Keeps.step (modSext_keeps ..))
    | (with_reducible apply Keeps.step (sextTo_keeps ..))
    | (extract_lets +onlyGivenNames x; refine Keeps.cutK (t := x) ?_ ?_ <;> first | (intro _; clear_value x) | subst x)
    | (extract_lets +onlyGivenNames x)
    | (with_reducible apply Keeps.ite)
    | split)

theorem edgeAccepted_keeps (t : Nat) (sec : Nat) (s0 : State) : Keeps s0 (edgeAccepted t sec s0) := by
  unfold edgeAccepted
  repeat' (first
    | with_reducible exact Keeps.refl _
    | (with_reducible apply Keeps.step (modSext_keeps ..))
    | (with_reducible apply Keeps.step (measure_keeps ..))
    | (with_reducible apply Keeps.step (refPresent_keeps ..))
    | (with_reducible apply Keeps.step (cntAdd_keeps ..)))

theorem execPpsInEdge_ends (t : Nat) (s0 : State) : Ends s0 (execPpsInEdge t s0) := by
  unfold execPpsInEdge
  repeat' (first
    | with_reducible exact Keeps.refl _
    | with_reducible assumption
    | (with_reducible apply ok_ends)
    | (with_reducible apply Keeps.step (advanceMaster_keeps ..))
    | (with_reducible apply Keeps.step (advisory_keeps ..))
    | (with_reducible apply Keeps.step (cntAdd_keeps ..))
    | (with_reducible apply Keeps.step (modSext_keeps ..))
    | (with_reducible apply Keeps.step (measure_keeps ..))
    | (with_reducible apply Keeps.step (edgeAccepted_keeps ..))
    | (extract_lets +onlyGivenNames x; refine Ends.cutK (t := x) ?_ ?_ <;> first | (intro _; clear_value x) | subst x)
    | (extract_lets +onlyGivenNames x)
    | (with_reducible apply Ends.ite))

theorem ptpTake_ends (m : PtpMsg) (f : State → State) (s0 : State) (hf : ∀ b0, Keeps b0 (f b0)) : Ends s0 (ptpTake m f s0) := by
  unfold ptpTake
  repeat' (first
    | with_reducible exact Keeps.refl _
    | (with_reducible apply Keeps.step (hf _))
    | (with_reducible apply ok_ends)
    | (with_reducible apply Keeps.step (cntAdd_keeps ..))
    | (with_reducible apply Ends.ite))

theorem takeDelayResp_keeps (m : PtpMsg) (s0 : State) : Keeps s0 (takeDelayResp m s0) := by
  unfold takeDelayResp
  repeat' (first
    | with_reducible exact Keeps.refl _
    | with_reducible assumption
    | (with_reducible apply Keeps.step (refPresent_keeps ..))
    | (with_reducible apply Keeps.step (modSext_keeps ..))
    | (with_reducible apply Keeps.step (measure_keeps ..))
    | (extract_lets +onlyGivenNames x; refine Keeps.cutK (t := x) ?_ ?_ <;> first | (intro _; clear_value x) | subst x)
    | (extract_lets +onlyGivenNames x)
    | (with_reducible apply Keeps.ite)
    | split)

theorem execPtpDelayResp_ends (m : PtpMsg) (s0 : State) : Ends s0 (execPtpDelayResp m s0) := by
  unfold execPtpDelayResp
  repeat' (first
    | with_reducible exact Keeps.refl _
    | (with_reducible apply Ends.step (ptpTake_ends _ _ _ ?_))
    | (with_reducible apply Keeps.step (takeDelayResp_keeps ..))
    | intro _)

theorem execSourceWrite_ends (p : Path) (w : Word) (s0 : State) : Ends s0 (execSourceWrite p w s0) := by
  unfold execSourceWrite
  repeat' (first
    | with_reducible exact Keeps.refl _
    | (with_reducible apply Ends.step (regRow_ends _ _ _ _ _ ?_))
    | (with_reducible apply Keeps.step (writeSource_keeps ..))
    | intro _)

theorem execTodSecWrite_ends (p : Path) (w : Word) (s0 : State) : Ends s0 (execTodSecWrite p w s0) := by
  unfold execTodSecWrite
  repeat' (first
    | with_reducible exact Keeps.refl _
    | (with_reducible apply Ends.step (regRow_ends _ _ _ _ _ ?_))
    | (with_reducible apply Keeps.step (writeTod_keeps ..))
    | intro _)

theorem execHoldover_ends (s0 : State) : Ends s0 (execHoldover s0) := by
  unfold execHoldover
  repeat' (first
    | with_reducible exact Keeps.refl _
    | (with_reducible apply ok_ends)
    | (with_reducible apply Keeps.step (advisory_keeps ..))
    | (with_reducible apply Keeps.step (sextTo_keeps ..))
    | (with_reducible apply Keeps.step (advanceMaster_keeps ..))
    | split)

theorem syncDone_keeps (t1 : Int) (t2 : Int) (s0 : State) : Keeps s0 (syncDone t1 t2 s0) := by
  unfold syncDone
  repeat' (first
    | with_reducible exact Keeps.refl _
    | with_reducible assumption
    | (with_reducible apply Keeps.step (cntAdd_keeps ..))
    | (with_reducible apply Keeps.step (modSext_keeps ..))
    | (with_reducible apply Keeps.step (measure_keeps ..))
    | (with_reducible apply Keeps.step (refPresent_keeps ..))
    | (extract_lets +onlyGivenNames x; refine Keeps.cutK (t := x) ?_ ?_ <;> first | (intro _; clear_value x) | subst x)
    | (with_reducible apply Keeps.ite))

theorem execLost_ends (s0 : State) : Ends s0 (execLost s0) := by
  unfold execLost
  repeat' (first
    | with_reducible exact Keeps.refl _
    | (with_reducible apply ok_ends)
    | (with_reducible apply Keeps.step (advisory_keeps ..))
    | (with_reducible apply Keeps.step (sextTo_keeps ..))
    | (with_reducible apply Keeps.step (cntAdd_keeps ..))
    | (with_reducible apply Keeps.step (advanceMaster_keeps ..))
    | split)

theorem takeAnnounce_keeps (m : PtpMsg) (s0 : State) : Keeps s0 (takeAnnounce m s0) := by
  unfold takeAnnounce
  repeat' (first
    | with_reducible exact Keeps.refl _
    | with_reducible assumption
    | (with_reducible apply Keeps.step (modSext_keeps ..))
    | (with_reducible apply Keeps.step (advisory_keeps ..))
    | (extract_lets +onlyGivenNames x; refine Keeps.cutK (t := x) ?_ ?_ <;> first | (intro _; clear_value x) | subst x)
    | (extract_lets +onlyGivenNames x)
    | (with_reducible apply Keeps.ite)
    | split)

theorem takeFollowUp_keeps (m : PtpMsg) (s0 : State) : Keeps s0 (takeFollowUp m s0) := by
  unfold takeFollowUp
  repeat' (first
    | with_reducible exact Keeps.refl _
    | (with_reducible apply Keeps.step (syncDone_keeps ..))
    | (with_reducible apply Keeps.ite)
    | split)

theorem takeSync_keeps (m : PtpMsg) (s0 : State) : Keeps s0 (takeSync m s0) := by
  unfold takeSync
  repeat' (first
    | with_reducible exact Keeps.refl _
    | with_reducible assumption
    | (with_reducible apply Keeps.step (cntAdd_keeps ..))
    | (with_reducible apply Keeps.step (modSext_keeps ..))
    | (with_reducible apply Keeps.step (syncDone_keeps ..))
    | (extract_lets +onlyGivenNames x; refine Keeps.cutK (t := x) ?_ ?_ <;> first | (intro _; clear_value x) | subst x)
    | (extract_lets +onlyGivenNames x)
    | (with_reducible apply Keeps.ite))

theorem execPtpSync_ends (m : PtpMsg) (s0 : State) : Ends s0 (execPtpSync m s0) := by
  unfold execPtpSync
  repeat' (first
    | with_reducible exact Keeps.refl _
    | (with_reducible apply Ends.step (ptpTake_ends _ _ _ ?_))
    | (with_reducible apply Keeps.step (takeSync_keeps ..))
    | intro _)

theorem execPtpFollowUp_ends (m : PtpMsg) (s0 : State) : Ends s0 (execPtpFollowUp m s0) := by
  unfold execPtpFollowUp
  repeat' (first
    | with_reducible exact Keeps.refl _
    | (with_reducible apply Ends.step (ptpTake_ends _ _ _ ?_))
    | (with_reducible apply Keeps.step (takeFollowUp_keeps ..))
    | intro _)

theorem execPtpAnnounce_ends (m : PtpMsg) (s0 : State) : Ends s0 (execPtpAnnounce m s0) := by
  unfold execPtpAnnounce
  repeat' (first
    | with_reducible exact Keeps.refl _
    | (with_reducible apply Ends.step (ptpTake_ends _ _ _ ?_))
    | (with_reducible apply Keeps.step (takeAnnounce_keeps ..))
    | intro _)

theorem execDelayReqSend_ends (s0 : State) : Ends s0 (execDelayReqSend s0) := by
  unfold execDelayReqSend
  repeat' (first
    | with_reducible exact Keeps.refl _
    | with_reducible assumption
    | (with_reducible apply ok_ends)
    | (with_reducible apply Keeps.step (modSext_keeps ..))
    | (with_reducible apply Keeps.step (cntAdd_keeps ..))
    | (with_reducible apply Keeps.step (sendOn_keeps ..))
    | (extract_lets +onlyGivenNames x; refine Ends.cutK (t := x) ?_ ?_ <;> first | (intro _; clear_value x) | subst x)
    | (extract_lets +onlyGivenNames x)
    | (with_reducible apply Ends.ite))

theorem execReferenceLost_ends (s0 : State) : Ends s0 (execReferenceLost s0) := by
  unfold execReferenceLost
  repeat' (first
    | with_reducible exact Keeps.refl _
    | (with_reducible apply ok_ends)
    | (with_reducible apply Keeps.step (refLost_keeps ..))
    | (with_reducible apply Ends.ite))

theorem execPpsOutPulse_ends (s0 : State) : Ends s0 (execPpsOutPulse s0) := by
  unfold execPpsOutPulse
  repeat' (first
    | with_reducible exact Keeps.refl _
    | with_reducible assumption
    | (with_reducible apply ok_ends)
    | (with_reducible apply Keeps.step (advanceMaster_keeps ..))
    | (with_reducible apply Keeps.step (emit_keeps ..))
    | (with_reducible apply Keeps.step (modSext_keeps ..))
    | (extract_lets +onlyGivenNames x; refine Ends.cutK (t := x) ?_ ?_ <;> first | (intro _; clear_value x) | subst x)
    | (extract_lets +onlyGivenNames x)
    | (with_reducible apply Ends.ite))

theorem execPpsOutPulseEnd_ends (s0 : State) : Ends s0 (execPpsOutPulseEnd s0) := by
  unfold execPpsOutPulseEnd
  repeat' (first
    | with_reducible exact Keeps.refl _
    | with_reducible assumption
    | (with_reducible apply Keeps.step (advanceMaster_keeps ..))
    | (with_reducible apply ok_ends)
    | (with_reducible apply Keeps.step (emit_keeps ..))
    | (with_reducible apply Keeps.step (modSext_keeps ..))
    | (extract_lets +onlyGivenNames x; refine Ends.cutK (t := x) ?_ ?_ <;> first | (intro _; clear_value x) | subst x)
    | (with_reducible apply Ends.ite))

end Sys2Proof.Machine
end

