-- ==== Sys2Proof/Laws/KeepsReset.lean ====
section
/-! SUPPORT. Every definition of MspOps, ResetOps, Admin that answers a state keeps the queue, the canonical form of the
memories and the islands' rule (the management processor, the resets and the admin commands). -/
namespace Sys2Proof.Machine
open Sys2Proof

theorem blowLc_keeps (s0 : State) : Keeps s0 (blowLc s0) := by
  unfold blowLc
  repeat' (first
    | with_reducible exact Keeps.refl _
    | (with_reducible apply Keeps.step (modMsp_keeps ..)))

theorem stopTls_keeps (s0 : State) : Keeps s0 (stopTls s0) := by
  unfold stopTls
  repeat' (first
    | with_reducible exact Keeps.refl _
    | (with_reducible apply Keeps.step (closeConn_keeps ..))
    | (with_reducible apply Keeps.step (emit_keeps ..))
    | (with_reducible apply Keeps.step (Keeps.foldl ?_ _ _))
    | intro _)

theorem wipeAtoll_keeps (s0 : State) : Keeps s0 (wipeAtoll s0) := by
  unfold wipeAtoll
  repeat' (first
    | with_reducible exact Keeps.refl _
    | (with_reducible apply Keeps.step (ocmZero_keeps ..))
    | (with_reducible apply Keeps.step (stopTls_keeps ..))
    | (with_reducible apply Keeps.step (modMsp_keeps ..))
    | (with_reducible apply Keeps.step (cntAdd_keeps ..)))

theorem lcMove_keeps (life : Life) (f : KeyStore → KeyStore) (s0 : State) : Keeps s0 (lcMove life f s0) := by
  unfold lcMove
  repeat' (first
    | with_reducible exact Keeps.refl _
    | (with_reducible apply Keeps.step (putConfig_keeps ..))
    | (with_reducible apply Keeps.step (putKeyStores_keeps ..))
    | (with_reducible apply Keeps.step (blowLc_keeps ..))
    | (with_reducible apply Keeps.step (wipeAtoll_keeps ..))
    | (with_reducible apply Keeps.step (modMsp_keeps ..))
    | (with_reducible apply Keeps.step (advisory_keeps ..)))

theorem stopChart_keeps (s0 : State) : Keeps s0 (stopChart s0) := by
  unfold stopChart
  repeat' (first
    | with_reducible exact Keeps.refl _
    | (with_reducible apply Keeps.step (modChart_keeps ..))
    | (with_reducible apply Keeps.step (clearBanks_keeps ..))
    | (with_reducible apply Keeps.step (refuseSwap_keeps ..)))

theorem failWaiting_keeps (s0 : State) : Keeps s0 (failWaiting s0) := by
  unfold failWaiting
  repeat' (first
    | with_reducible exact Keeps.refl _
    | (with_reducible apply Keeps.step (refuse_keeps ..))
    | (with_reducible apply Keeps.step (complete_keeps ..))
    | (with_reducible apply Keeps.step (modFtl_keeps ..))
    | (with_reducible apply Keeps.step (Keeps.foldl ?_ _ _))
    | intro _
    | (with_reducible apply Keeps.ite))

theorem dropIndexes_keeps (code : Code) (s0 : State) : Keeps s0 (dropIndexes code s0) := by
  unfold dropIndexes
  repeat' (first
    | with_reducible exact Keeps.refl _
    | (with_reducible apply Keeps.step (refuse_keeps ..))
    | (with_reducible apply Keeps.step (freeQuota_keeps ..))
    | (with_reducible apply Keeps.step (freeFrames_keeps ..))
    | (with_reducible apply Keeps.step (modSre_keeps ..))
    | (with_reducible apply Keeps.step (Keeps.foldl ?_ _ _))
    | (extract_lets +onlyGivenNames x)
    | intro _)

theorem eraseMedia_keeps (s0 : State) : Keeps s0 (eraseMedia s0) := by
  unfold eraseMedia
  repeat' (first
    | with_reducible exact Keeps.refl _
    | (with_reducible apply Keeps.step (modFtl_keeps ..)))

theorem destroyData_keeps (s0 : State) : Keeps s0 (destroyData s0) := by
  unfold destroyData
  repeat' (first
    | with_reducible exact Keeps.refl _
    | (with_reducible apply Keeps.step (abortIngest_keeps ..))
    | (with_reducible apply Keeps.step (endQuery_keeps ..))
    | (with_reducible apply Keeps.step (unloadNow_keeps ..))
    | (with_reducible apply Keeps.step (stopChart_keeps ..))
    | (with_reducible apply Keeps.step (failWaiting_keeps ..))
    | (with_reducible apply Keeps.step (dropIndexes_keeps ..))
    | (with_reducible apply Keeps.step (modMsp_keeps ..))
    | (with_reducible apply Keeps.step (eraseMedia_keeps ..))
    | (with_reducible apply Keeps.step (Keeps.foldl ?_ _ _))
    | (extract_lets +onlyGivenNames x)
    | intro _)

theorem dropUpdate_keeps (s0 : State) : Keeps s0 (dropUpdate s0) := by
  unfold dropUpdate
  repeat' (first
    | with_reducible exact Keeps.refl _
    | (with_reducible apply Keeps.step (complete_keeps ..))
    | (with_reducible apply Keeps.step (cntAdd_keeps ..))
    | (with_reducible apply Keeps.step (modMsp_keeps ..))
    | split)

theorem runAgent_keeps (s0 : State) : Keeps s0 (runAgent s0) := by
  unfold runAgent
  repeat' (first
    | with_reducible exact Keeps.refl _
    | (with_reducible apply Keeps.step (cntAdd_keeps ..))
    | (with_reducible apply Keeps.step (modMsp_keeps ..)))

theorem raiseFloor_keeps (s0 : State) : Keeps s0 (raiseFloor s0) := by
  unfold raiseFloor
  repeat' (first
    | with_reducible exact Keeps.refl _
    | (with_reducible apply Keeps.step (modMsp_keeps ..))
    | (with_reducible apply Keeps.ite)
    | split)

theorem runImage_keeps (f : FwInfo) (s0 : State) : Keeps s0 (runImage f s0) := by
  unfold runImage
  repeat' (first
    | with_reducible exact Keeps.refl _
    | with_reducible assumption
    | (with_reducible apply Keeps.step (modMsp_keeps ..))
    | (with_reducible apply Keeps.step (endFatal_keeps ..))
    | (with_reducible apply Keeps.step (cntAdd_keeps ..))
    | (with_reducible apply Keeps.step (raiseFloor_keeps ..))
    | (extract_lets +onlyGivenNames x; refine Keeps.cutK (t := x) ?_ ?_ <;> first | (intro _; clear_value x) | subst x)
    | (with_reducible apply Keeps.ite))

theorem mgmtReset_keeps (s0 : State) : Keeps s0 (mgmtReset s0) := by
  unfold mgmtReset
  repeat' (first
    | with_reducible exact Keeps.refl _
    | with_reducible assumption
    | (with_reducible apply Keeps.step (modMsp_keeps ..))
    | (with_reducible apply Keeps.step (runImage_keeps ..))
    | (with_reducible apply Keeps.step (runAgent_keeps ..))
    | (extract_lets +onlyGivenNames x; refine Keeps.cutK (t := x) ?_ ?_ <;> first | (intro _; clear_value x) | subst x)
    | split)

theorem norProgram_keeps (off : Nat) (d : List Byte) (s0 : State) : Keeps s0 (norProgram off d s0) := by
  unfold norProgram
  repeat' (first
    | with_reducible exact Keeps.refl _
    | (with_reducible apply Keeps.step (modMsp_keeps ..))
    | (extract_lets +onlyGivenNames x)
    | (with_reducible apply Keeps.ite))

theorem tamper_keeps (src : Nat) (s0 : State) : Keeps s0 (tamper src s0) := by
  unfold tamper
  repeat' (first
    | with_reducible exact Keeps.refl _
    | with_reducible assumption
    | (with_reducible apply Keeps.step (modMsp_keeps ..))
    | (with_reducible apply Keeps.step (cntAdd_keeps ..))
    | (with_reducible apply Keeps.step (dropUpdate_keeps ..))
    | (with_reducible apply Keeps.step (wipeAtoll_keeps ..))
    | (with_reducible apply Keeps.step (advisory_keeps ..))
    | (with_reducible apply Keeps.step (blowLc_keeps ..))
    | (with_reducible apply Keeps.step (raiseFatal_keeps ..))
    | (with_reducible apply Keeps.step (stopChart_keeps ..))
    | (with_reducible apply Keeps.step (failWaiting_keeps ..))
    | (with_reducible apply Keeps.step (abortJobs_keeps ..))
    | (extract_lets +onlyGivenNames x; refine Keeps.cutK (t := x) ?_ ?_ <;> first | (intro _; clear_value x) | subst x)
    | (extract_lets +onlyGivenNames x)
    | (with_reducible apply Keeps.ite))

theorem dropSearch_keeps (s0 : State) : Keeps s0 (dropSearch s0) := by
  unfold dropSearch
  repeat' (first
    | with_reducible exact Keeps.refl _
    | (with_reducible apply Keeps.step (modSre_keeps ..)))

theorem dropHosts_keeps (rst : Bool) (s0 : State) : Keeps s0 (dropHosts rst s0) := by
  unfold dropHosts
  repeat' (first
    | with_reducible exact Keeps.refl _
    | (with_reducible apply Keeps.step (emit_keeps ..))
    | (with_reducible apply Keeps.step (modNiu_keeps ..))
    | (with_reducible apply Keeps.step (modFtl_keeps ..))
    | (with_reducible apply Keeps.step (setQcu_keeps ..))
    | (with_reducible apply Keeps.step (Keeps.foldl ?_ _ _))
    | (extract_lets +onlyGivenNames x)
    | intro _
    | (with_reducible apply Keeps.ite))

theorem newSessionId_keeps (s0 : State) : Keeps s0 (newSessionId s0) := by
  unfold newSessionId
  repeat' (first
    | with_reducible exact Keeps.refl _
    | (with_reducible apply Keeps.step (draw_keeps ..))
    | (with_reducible apply Keeps.step (modStrait_keeps ..)))

theorem abandonProgs_keeps (s0 : State) : Keeps s0 (abandonProgs s0) := by
  unfold abandonProgs
  repeat' (first
    | with_reducible exact Keeps.refl _
    | (with_reducible apply Keeps.step (modFtl_keeps ..))
    | (with_reducible apply Keeps.step (modSb_keeps ..))
    | (with_reducible apply Keeps.step (Keeps.foldl ?_ _ _))
    | (extract_lets +onlyGivenNames x)
    | intro _)

theorem restoreStored_keeps (s0 : State) : Keeps s0 (restoreStored s0) := by
  unfold restoreStored
  repeat' (first
    | with_reducible exact Keeps.refl _
    | (with_reducible apply Keeps.step (setRegWord_keeps ..))
    | (with_reducible apply Keeps.step (setRegs_keeps ..))
    | (with_reducible apply Keeps.step (Keeps.foldl ?_ _ _))
    | (extract_lets +onlyGivenNames x)
    | intro _)

theorem resetRegs_keeps (rank : Nat) (s0 : State) : Keeps s0 (resetRegs rank s0) := by
  unfold resetRegs
  repeat' (first
    | with_reducible exact Keeps.refl _
    | with_reducible assumption
    | (with_reducible apply Keeps.step (setRegs_keeps ..))
    | (with_reducible apply Keeps.step (setCnt_keeps ..))
    | (with_reducible apply Keeps.step (setLatch_keeps ..))
    | (with_reducible apply Keeps.step (setHdr_keeps ..))
    | (extract_lets +onlyGivenNames x; refine Keeps.cutK (t := x) ?_ ?_ <;> first | (intro _; clear_value x) | subst x)
    | (with_reducible apply Keeps.ite))

theorem wideReset_keeps (pon : Bool) (cause : Nat) (s0 : State) : Keeps s0 (wideReset pon cause s0) := by
  unfold wideReset
  repeat' (first
    | with_reducible exact Keeps.refl _
    | with_reducible assumption
    | (with_reducible apply Keeps.step (dropSearch_keeps ..))
    | (with_reducible apply Keeps.step (setCtxs_keeps ..))
    | (with_reducible apply Keeps.step (setIslands_keeps _ _ (fun _ => rfl)))
    | (with_reducible apply Keeps.step (setCores_keeps ..))
    | (with_reducible apply Keeps.step (setChart_keeps ..))
    | (with_reducible apply Keeps.step (dropUpdate_keeps ..))
    | (with_reducible apply Keeps.step (dropHosts_keeps ..))
    | (with_reducible apply Keeps.step (setTime_keeps ..))
    | (with_reducible apply Keeps.step (setErr_keeps ..))
    | (with_reducible apply Keeps.step (setNiu_keeps ..))
    | (with_reducible apply Keeps.step (setSext_keeps ..))
    | (with_reducible apply Keeps.step (newSessionId_keeps ..))
    | (with_reducible apply Keeps.step (setStrait_keeps ..))
    | (with_reducible apply Keeps.step (setQcu_keeps ..))
    | (with_reducible apply Keeps.step (setCompass_keeps ..))
    | (with_reducible apply Keeps.step (setXmc_keeps _ _ (rfl : xmcWf XmcSt.reset = true)))
    | (with_reducible apply Keeps.step (setOcm_keeps _ _ (rfl : ocmWf OcmSt.reset = true)))
    | (with_reducible apply Keeps.step (setSfu_keeps ..))
    | (with_reducible apply Keeps.step (freeQuota_keeps ..))
    | (with_reducible apply Keeps.step (abandonProgs_keeps ..))
    | (with_reducible apply Keeps.step (modFtl_keeps ..))
    | (with_reducible apply Keeps.step (modMsp_keeps ..))
    | (with_reducible apply Keeps.step (modPwr_keeps ..))
    | (with_reducible apply Keeps.step (modChip_keeps ..))
    | (with_reducible apply Keeps.step (restoreStored_keeps ..))
    | (with_reducible apply Keeps.step (resetRegs_keeps ..))
    | (with_reducible apply Keeps.step (cntAdd_keeps ..))
    | (with_reducible apply Keeps.step (modErr_keeps ..))
    | (with_reducible apply Keeps.step (Keeps.foldl ?_ _ _))
    | (extract_lets +onlyGivenNames x; refine Keeps.cutK (t := x) ?_ ?_ <;> first | (intro _; clear_value x) | subst x)
    | (extract_lets +onlyGivenNames x)
    | intro _
    | (with_reducible apply Keeps.ite))

theorem powerOff_keeps (s0 : State) : Keeps s0 (powerOff s0) := by
  unfold powerOff
  repeat' (first
    | with_reducible exact Keeps.refl _
    | (with_reducible apply Keeps.step (modChip_keeps ..))
    | (with_reducible apply Keeps.step (wideReset_keeps ..)))

theorem loadIndexes_keeps (s0 : State) : Keeps s0 (loadIndexes s0) := by
  unfold loadIndexes
  repeat' (first
    | with_reducible exact Keeps.refl _
    | (with_reducible apply Keeps.step (draw_keeps ..))
    | (with_reducible apply Keeps.step (takeFrames_keeps ..))
    | (with_reducible apply Keeps.step (modIdx_keeps ..))
    | (with_reducible apply Keeps.step (Keeps.foldl ?_ _ _))
    | (extract_lets +onlyGivenNames x)
    | intro _)

theorem deviceReset_keeps (cause : Nat) (s0 : State) : Keeps s0 (deviceReset cause s0) := by
  unfold deviceReset
  repeat' (first
    | with_reducible exact Keeps.refl _
    | (with_reducible apply Keeps.step (dropHosts_keeps ..))
    | (with_reducible apply Keeps.step (dropSearch_keeps ..))
    | (with_reducible apply Keeps.step (setIslands_keeps _ _ (fun _ => rfl)))
    | (with_reducible apply Keeps.step (setCores_keeps ..))
    | (with_reducible apply Keeps.step (setCtxs_keeps ..))
    | (with_reducible apply Keeps.step (setChart_keeps ..))
    | (with_reducible apply Keeps.step (modOcm_keeps ..))
    | (with_reducible apply Keeps.step (modXmc_keeps ..))
    | (with_reducible apply Keeps.step (setSfu_keeps ..))
    | (with_reducible apply Keeps.step (setCompass_keeps ..))
    | (with_reducible apply Keeps.step (freeQuota_keeps ..))
    | (with_reducible apply Keeps.step (modFtl_keeps ..))
    | (with_reducible apply Keeps.step (modNiu_keeps ..))
    | (with_reducible apply Keeps.step (newSessionId_keeps ..))
    | (with_reducible apply Keeps.step (setStrait_keeps ..))
    | (with_reducible apply Keeps.step (modMsp_keeps ..))
    | (with_reducible apply Keeps.step (modErr_keeps ..))
    | (with_reducible apply Keeps.step (modChip_keeps ..))
    | (with_reducible apply Keeps.step (resetRegs_keeps ..))
    | (with_reducible apply Keeps.step (loadIndexes_keeps ..))
    | (with_reducible apply Keeps.step (cntAdd_keeps ..))
    | exact OcmKeep.intro fun o h => by simp only [ocmWf, Bool.and_eq_true] at h ⊢; obtain ⟨⟨⟨h1, h2⟩, h3⟩, h4⟩ := h; refine ⟨⟨⟨?_, ?_⟩, ?_⟩, ?_⟩ <;> first | assumption | rfl | exact smWf_filter _ _ _ ‹_›
    | exact XmcKeep.of fun _ => ⟨rfl, rfl⟩
    | (with_reducible apply Keeps.step (Keeps.foldl ?_ _ _))
    | (extract_lets +onlyGivenNames x)
    | intro _)

theorem bootTrain_keeps (o : BootOut) (s0 : State) : Keeps s0 (bootTrain o s0) := by
  unfold bootTrain
  repeat' (first
    | with_reducible exact Keeps.refl _
    | with_reducible assumption
    | (with_reducible apply Keeps.step (modChip_keeps ..))
    | (with_reducible apply Keeps.step (modXmc_keeps ..))
    | (with_reducible apply Keeps.step (raiseFatal_keeps ..))
    | exact XmcKeep.of fun _ => ⟨rfl, rfl⟩
    | (with_reducible apply Keeps.step (Keeps.foldl ?_ _ _))
    | (extract_lets +onlyGivenNames x; refine Keeps.cutK (t := x) ?_ ?_ <;> first | (intro _; clear_value x) | subst x)
    | (extract_lets +onlyGivenNames x)
    | intro _
    | (with_reducible apply Keeps.ite))

theorem bootLink_keeps (o : BootOut) (s0 : State) : Keeps s0 (bootLink o s0) := by
  unfold bootLink
  repeat' (first
    | with_reducible exact Keeps.refl _
    | with_reducible assumption
    | (with_reducible apply Keeps.step (modChip_keeps ..))
    | (with_reducible apply Keeps.step (modNiu_keeps ..))
    | (extract_lets +onlyGivenNames x; refine Keeps.cutK (t := x) ?_ ?_ <;> first | (intro _; clear_value x) | subst x)
    | (extract_lets +onlyGivenNames x)
    | (with_reducible apply Keeps.ite))

theorem loseSlots_keeps (s0 : State) : Keeps s0 (loseSlots s0) := by
  unfold loseSlots
  repeat' (first
    | with_reducible exact Keeps.refl _
    | (with_reducible apply Keeps.step (modFtl_keeps ..)))

theorem bootRebuild_keeps (s0 : State) : Keeps s0 (bootRebuild s0) := by
  unfold bootRebuild
  repeat' (first
    | with_reducible exact Keeps.refl _
    | with_reducible assumption
    | (with_reducible apply Keeps.step (modChip_keeps ..))
    | (with_reducible apply Keeps.step (cntAdd_keeps ..))
    | (with_reducible apply Keeps.step (modFtl_keeps ..))
    | (with_reducible apply Keeps.step (raiseFatal_keeps ..))
    | (with_reducible apply Keeps.step (loseSlots_keeps ..))
    | (extract_lets +onlyGivenNames x; refine Keeps.cutK (t := x) ?_ ?_ <;> first | (intro _; clear_value x) | subst x)
    | (with_reducible apply Keeps.ite))

theorem bootKeys_keeps (s0 : State) : Keeps s0 (bootKeys s0) := by
  unfold bootKeys
  repeat' (first
    | with_reducible exact Keeps.refl _
    | (with_reducible apply Keeps.step (cntAdd_keeps ..))
    | (with_reducible apply Keeps.step (modOcm_keeps ..))
    | (with_reducible apply Keeps.step (modMsp_keeps ..))
    | exact OcmKeep.of fun _ => ⟨rfl, rfl, rfl, rfl⟩)

theorem bootCopies_keeps (s0 : State) : Keeps s0 (bootCopies s0) := by
  unfold bootCopies
  repeat' (first
    | with_reducible exact Keeps.refl _
    | with_reducible assumption
    | (with_reducible apply Keeps.step (corrected_keeps ..))
    | (with_reducible apply Keeps.step (modMsp_keeps ..))
    | (with_reducible apply Keeps.step (raiseFatal_keeps ..))
    | (extract_lets +onlyGivenNames x; refine Keeps.cutK (t := x) ?_ ?_ <;> first | (intro _; clear_value x) | subst x)
    | (extract_lets +onlyGivenNames x)
    | (with_reducible apply Keeps.ite)
    | split)

theorem bootFrom_keeps (o : BootOut) (s0 : State) : Keeps s0 (bootFrom o s0) := by
  unfold bootFrom
  repeat' (first
    | with_reducible exact Keeps.refl _
    | with_reducible assumption
    | (with_reducible apply Keeps.step (bootTrain_keeps ..))
    | (with_reducible apply Keeps.step (bootLink_keeps ..))
    | (with_reducible apply Keeps.step (bootRebuild_keeps ..))
    | (with_reducible apply Keeps.step (bootKeys_keeps ..))
    | (with_reducible apply Keeps.step (bootCopies_keeps ..))
    | (extract_lets +onlyGivenNames x; refine Keeps.cutK (t := x) ?_ ?_ <;> first | (intro _; clear_value x) | subst x)
    | (with_reducible apply Keeps.ite))

theorem becomeReady_keeps (s0 : State) : Keeps s0 (becomeReady s0) := by
  unfold becomeReady
  repeat' (first
    | with_reducible exact Keeps.refl _
    | with_reducible assumption
    | (with_reducible apply Keeps.step (modChip_keeps ..))
    | (with_reducible apply Keeps.step (modHdr_keeps ..))
    | (with_reducible apply Keeps.step (sextTo_keeps ..))
    | (with_reducible apply Keeps.step (raiseFloor_keeps ..))
    | (with_reducible apply Keeps.step (loadIndexes_keeps ..))
    | (with_reducible apply Keeps.step (modFtl_keeps ..))
    | (with_reducible apply Keeps.step (Keeps.foldl ?_ _ _))
    | (extract_lets +onlyGivenNames x; refine Keeps.cutK (t := x) ?_ ?_ <;> first | (intro _; clear_value x) | subst x)
    | (extract_lets +onlyGivenNames x)
    | intro _
    | (with_reducible apply Keeps.ite))

theorem bootVerify_keeps (s0 : State) : Keeps s0 (bootVerify s0) := by
  unfold bootVerify
  repeat' (first
    | with_reducible exact Keeps.refl _
    | with_reducible assumption
    | (with_reducible apply Keeps.step (modChip_keeps ..))
    | (with_reducible apply Keeps.step (runImage_keeps ..))
    | (with_reducible apply Keeps.step (runAgent_keeps ..))
    | (with_reducible apply Keeps.step (raiseFatal_keeps ..))
    | (with_reducible apply Keeps.step (modNiu_keeps ..))
    | (extract_lets +onlyGivenNames x; refine Keeps.cutK (t := x) ?_ ?_ <;> first | (intro _; clear_value x) | subst x)
    | split)

theorem bootRom_keeps (s0 : State) : Keeps s0 (bootRom s0) := by
  unfold bootRom
  repeat' (first
    | with_reducible exact Keeps.refl _
    | (with_reducible apply Keeps.step (modOcm_keeps ..))
    | (with_reducible apply Keeps.step (modChip_keeps ..))
    | exact OcmKeep.of fun _ => ⟨rfl, rfl, rfl, rfl⟩)

theorem startUp_keeps (o : BootOut) (s0 : State) : Keeps s0 (startUp o s0) := by
  unfold startUp
  repeat' (first
    | with_reducible exact Keeps.refl _
    | with_reducible assumption
    | (with_reducible apply Keeps.step (bootVerify_keeps ..))
    | (with_reducible apply Keeps.step (bootRom_keeps ..))
    | (with_reducible apply Keeps.step (modPwr_keeps ..))
    | (with_reducible apply Keeps.step (bootFrom_keeps ..))
    | (extract_lets +onlyGivenNames x; refine Keeps.cutK (t := x) ?_ ?_ <;> first | (intro _; clear_value x) | subst x)
    | (extract_lets +onlyGivenNames x)
    | (with_reducible apply Keeps.ite)
    | split)

theorem flushDone_keeps (complete : Bool) (cause : FlushCause) (s0 : State) : Keeps s0 (flushDone complete cause s0) := by
  unfold flushDone
  repeat' (first
    | with_reducible exact Keeps.refl _
    | with_reducible assumption
    | (with_reducible apply Keeps.step (abandonProgs_keeps ..))
    | (with_reducible apply Keeps.step (modFtl_keeps ..))
    | (with_reducible apply Keeps.step (modPwr_keeps ..))
    | (with_reducible apply Keeps.step (cntAdd_keeps ..))
    | (extract_lets +onlyGivenNames x; refine Keeps.cutK (t := x) ?_ ?_ <;> first | (intro _; clear_value x) | subst x)
    | (with_reducible apply Keeps.ite))

theorem execGetFeatures_ends (t : Tag) (q : Sqe) (_d : List Byte) (s0 : State) : Ends s0 (execGetFeatures t q _d s0) := by
  unfold execGetFeatures
  repeat' (first
    | with_reducible exact Keeps.refl _
    | (with_reducible apply Ends.step (adminRow_ends _ _ _ _ _ _ ?_))
    | (with_reducible apply Keeps.step (complete_keeps ..))
    | (extract_lets +onlyGivenNames x)
    | intro _
    | (with_reducible apply Keeps.ite)
    | split)

theorem nsNotice_keeps (n : Nat) (l : List Nat) (s0 : State) : Keeps s0 (nsNotice n l s0) := by
  unfold nsNotice
  repeat' (first
    | with_reducible exact Keeps.refl _
    | (with_reducible apply Keeps.step (postTo_keeps ..))
    | (with_reducible apply Keeps.step (modQcu_keeps ..))
    | (with_reducible apply Keeps.step (Keeps.foldl ?_ _ _))
    | intro _)

theorem execNamespaceAttachment_ends (t : Tag) (q : Sqe) (d : List Byte) (s0 : State) : Ends s0 (execNamespaceAttachment t q d s0) := by
  unfold execNamespaceAttachment
  repeat' (first
    | with_reducible exact Keeps.refl _
    | (with_reducible apply Ends.step (adminRow_ends _ _ _ _ _ _ ?_))
    | (with_reducible apply Keeps.step (complete_keeps ..))
    | (with_reducible apply Keeps.step (modFtl_keeps ..))
    | (with_reducible apply Keeps.step (nsNotice_keeps ..))
    | (extract_lets +onlyGivenNames x)
    | intro _
    | (with_reducible apply Keeps.ite)
    | split)

theorem execAbort_ends (t : Tag) (q : Sqe) (_d : List Byte) (s0 : State) : Ends s0 (execAbort t q _d s0) := by
  unfold execAbort
  repeat' (first
    | with_reducible exact Keeps.refl _
    | with_reducible assumption
    | (with_reducible apply Ends.step (adminRow_ends _ _ _ _ _ _ ?_))
    | (with_reducible apply Keeps.step (complete_keeps ..))
    | (with_reducible apply Keeps.step (modQcu_keeps ..))
    | (extract_lets +onlyGivenNames x; refine Keeps.cutK (t := x) ?_ ?_ <;> first | (intro _; clear_value x) | subst x)
    | (extract_lets +onlyGivenNames x)
    | intro _
    | (with_reducible apply Keeps.ite)
    | split)

theorem agentDownload_keeps (off : Nat) (d : List Byte) (s0 : State) : Keeps s0 (agentDownload off d s0) := by
  unfold agentDownload
  repeat' (first
    | with_reducible exact Keeps.refl _
    | (with_reducible apply Keeps.step (modMsp_keeps ..))
    | (with_reducible apply Keeps.step (norProgram_keeps ..))
    | (with_reducible apply Keeps.step (Keeps.foldl ?_ _ _))
    | (extract_lets +onlyGivenNames x)
    | intro _)

theorem agentCommit_keeps (t : Tag) (s0 : State) : Keeps s0 (agentCommit t s0) := by
  unfold agentCommit
  repeat' (first
    | with_reducible exact Keeps.refl _
    | (with_reducible apply Keeps.step (complete_keeps ..))
    | (with_reducible apply Keeps.step (modMsp_keeps ..))
    | (with_reducible apply Keeps.step (modChip_keeps ..))
    | (with_reducible apply Keeps.step (runImage_keeps ..))
    | split)

theorem beginUpdate_keeps (t : Tag) (img : List Byte) (s0 : State) : Keeps s0 (beginUpdate t img s0) := by
  unfold beginUpdate
  repeat' (first
    | with_reducible exact Keeps.refl _
    | (with_reducible apply Keeps.step (postAll_keeps ..))
    | (with_reducible apply Keeps.step (modMsp_keeps ..)))

theorem execFirmwareCommit_ends (t : Tag) (q : Sqe) (_d : List Byte) (s0 : State) : Ends s0 (execFirmwareCommit t q _d s0) := by
  unfold execFirmwareCommit
  repeat' (first
    | with_reducible exact Keeps.refl _
    | (with_reducible apply Ends.step (adminRow_ends _ _ _ _ _ _ ?_))
    | (with_reducible apply Keeps.step (complete_keeps ..))
    | (with_reducible apply Keeps.step (agentCommit_keeps ..))
    | (with_reducible apply Keeps.step (modMsp_keeps ..))
    | (with_reducible apply Keeps.step (beginUpdate_keeps ..))
    | (extract_lets +onlyGivenNames x)
    | intro _
    | (with_reducible apply Keeps.ite)
    | split)

theorem connReply_keeps (t : Tag) (st : Status) (s0 : State) : Keeps s0 (connReply t st s0) := by
  unfold connReply
  repeat' (first
    | with_reducible exact Keeps.refl _
    | (with_reducible apply Keeps.step (emit_keeps ..)))

theorem makeQueue_keeps (t : Tag) (cntlid : Nat) (qid : Nat) (sqsize : Nat) (noFlow : Bool) (s0 : State) : Keeps s0 (makeQueue t cntlid qid sqsize noFlow s0) := by
  unfold makeQueue
  repeat' (first
    | with_reducible exact Keeps.refl _
    | (with_reducible apply Keeps.step (complete_keeps ..))
    | (with_reducible apply Keeps.step (modConn_keeps ..)))

theorem connectAdmin_keeps (t : Tag) (c : Conn) (cntlid : Nat) (sqsize : Nat) (kato : Nat) (noFlow : Bool) (s0 : State) : Keeps s0 (connectAdmin t c cntlid sqsize kato noFlow s0) := by
  unfold connectAdmin
  repeat' (first
    | with_reducible exact Keeps.refl _
    | (with_reducible apply Keeps.step (connReply_keeps ..))
    | (with_reducible apply Keeps.step (makeQueue_keeps ..))
    | (with_reducible apply Keeps.step (modQcu_keeps ..))
    | (extract_lets +onlyGivenNames x)
    | (with_reducible apply Keeps.ite))

theorem connectIo_keeps (t : Tag) (cntlid : Nat) (qid : Nat) (sqsize : Nat) (noFlow : Bool) (s0 : State) : Keeps s0 (connectIo t cntlid qid sqsize noFlow s0) := by
  unfold connectIo
  repeat' (first
    | with_reducible exact Keeps.refl _
    | (with_reducible apply Keeps.step (connReply_keeps ..))
    | (with_reducible apply Keeps.step (makeQueue_keeps ..))
    | (extract_lets +onlyGivenNames x)
    | (with_reducible apply Keeps.ite)
    | split)

theorem execConnect_ends (t : Tag) (q : Sqe) (d : List Byte) (s0 : State) : Ends s0 (execConnect t q d s0) := by
  unfold execConnect
  repeat' (first
    | with_reducible exact Keeps.refl _
    | (with_reducible apply ok_ends)
    | (with_reducible apply Keeps.step (complete_keeps ..))
    | (with_reducible apply Keeps.step (noteCmd_keeps ..))
    | (with_reducible apply Keeps.step (connReply_keeps ..))
    | (with_reducible apply Keeps.step (connectAdmin_keeps ..))
    | (with_reducible apply Keeps.step (connectIo_keeps ..))
    | (extract_lets +onlyGivenNames x)
    | (with_reducible apply Ends.ite)
    | split)

theorem execGetLogPage_ends (t : Tag) (q : Sqe) (_d : List Byte) (s0 : State) : Ends s0 (execGetLogPage t q _d s0) := by
  unfold execGetLogPage
  repeat' (first
    | with_reducible exact Keeps.refl _
    | with_reducible assumption
    | (with_reducible apply Ends.step (adminRow_ends _ _ _ _ _ _ ?_))
    | (with_reducible apply Keeps.step (complete_keeps ..))
    | (with_reducible apply Keeps.step (modQcu_keeps ..))
    | (extract_lets +onlyGivenNames x; refine Keeps.cutK (t := x) ?_ ?_ <;> first | (intro _; clear_value x) | subst x)
    | (extract_lets +onlyGivenNames x)
    | intro _
    | (with_reducible apply Keeps.ite)
    | split)

theorem execIdentify_ends (t : Tag) (q : Sqe) (_d : List Byte) (s0 : State) : Ends s0 (execIdentify t q _d s0) := by
  unfold execIdentify
  repeat' (first
    | with_reducible exact Keeps.refl _
    | (with_reducible apply Ends.step (adminRow_ends _ _ _ _ _ _ ?_))
    | (with_reducible apply Keeps.step (complete_keeps ..))
    | intro _
    | (with_reducible apply Keeps.ite)
    | split)

theorem execSetFeaturesPowerManagement_ends (t : Tag) (q : Sqe) (_d : List Byte) (s0 : State) : Ends s0 (execSetFeaturesPowerManagement t q _d s0) := by
  unfold execSetFeaturesPowerManagement
  repeat' (first
    | with_reducible exact Keeps.refl _
    | (with_reducible refine Keeps.step (fetch_error (by assumption)) ?_)
    | (with_reducible refine Keeps.step (fetch_ok (by assumption)) ?_)
    | (with_reducible apply ok_ends)
    | (with_reducible apply Keeps.step (complete_keeps ..))
    | (with_reducible apply Keeps.step (modQcu_keeps ..))
    | (with_reducible apply Keeps.step (psBegin_keeps ..))
    | (extract_lets +onlyGivenNames x)
    | (with_reducible apply Ends.ite)
    | split)

theorem execSetFeaturesNumberOfQueues_ends (t : Tag) (q : Sqe) (_d : List Byte) (s0 : State) : Ends s0 (execSetFeaturesNumberOfQueues t q _d s0) := by
  unfold execSetFeaturesNumberOfQueues
  repeat' (first
    | with_reducible exact Keeps.refl _
    | (with_reducible apply Ends.step (adminRow_ends _ _ _ _ _ _ ?_))
    | (with_reducible apply Keeps.step (complete_keeps ..))
    | intro _)

theorem modCtrlOf_keeps (t : Tag) (f : Ctrl → Ctrl) (s0 : State) : Keeps s0 (modCtrlOf t f s0) := by
  unfold modCtrlOf
  repeat' (first
    | with_reducible exact Keeps.refl _
    | (with_reducible apply Keeps.step (modQcu_keeps ..))
    | split)

theorem execSetFeatures_ends (t : Tag) (q : Sqe) (_d : List Byte) (s0 : State) : Ends s0 (execSetFeatures t q _d s0) := by
  unfold execSetFeatures
  repeat' (first
    | with_reducible exact Keeps.refl _
    | (with_reducible apply Ends.step (adminRow_ends _ _ _ _ _ _ ?_))
    | (with_reducible apply Keeps.step (complete_keeps ..))
    | (with_reducible apply Keeps.step (modCtrlOf_keeps ..))
    | (extract_lets +onlyGivenNames x)
    | intro _
    | (with_reducible apply Keeps.ite))

theorem execAsynchronousEventRequest_ends (t : Tag) (q : Sqe) (_d : List Byte) (s0 : State) : Ends s0 (execAsynchronousEventRequest t q _d s0) := by
  unfold execAsynchronousEventRequest
  repeat' (first
    | with_reducible exact Keeps.refl _
    | with_reducible assumption
    | (with_reducible apply Ends.step (adminRow_ends _ _ _ _ _ _ ?_))
    | (with_reducible apply Keeps.step (complete_keeps ..))
    | (with_reducible apply Keeps.step (modQcu_keeps ..))
    | (with_reducible apply Keeps.step (postTo_keeps ..))
    | (extract_lets +onlyGivenNames x; refine Keeps.cutK (t := x) ?_ ?_ <;> first | (intro _; clear_value x) | subst x)
    | (extract_lets +onlyGivenNames x)
    | intro _
    | (with_reducible apply Keeps.ite)
    | split)

theorem createNs_keeps (t : Tag) (d : List Byte) (s0 : State) : Keeps s0 (createNs t d s0) := by
  unfold createNs
  repeat' (first
    | with_reducible exact Keeps.refl _
    | (with_reducible apply Keeps.step (complete_keeps ..))
    | (with_reducible apply Keeps.step (modFtl_keeps ..))
    | (extract_lets +onlyGivenNames x)
    | (with_reducible apply Keeps.ite)
    | split)

theorem deleteNs_keeps (n : Nat) (s0 : State) : Keeps s0 (deleteNs n s0) := by
  unfold deleteNs
  repeat' (first
    | with_reducible exact Keeps.refl _
    | (with_reducible apply Keeps.step (nsNotice_keeps ..))
    | (with_reducible apply Keeps.step (modFtl_keeps ..))
    | (with_reducible apply Keeps.step (unmapRange_keeps ..))
    | split)

theorem execNamespaceManagement_ends (t : Tag) (q : Sqe) (d : List Byte) (s0 : State) : Ends s0 (execNamespaceManagement t q d s0) := by
  unfold execNamespaceManagement
  repeat' (first
    | with_reducible exact Keeps.refl _
    | (with_reducible apply Ends.step (adminRow_ends _ _ _ _ _ _ ?_))
    | (with_reducible apply Keeps.step (complete_keeps ..))
    | (with_reducible apply Keeps.step (createNs_keeps ..))
    | (with_reducible apply Keeps.step (deleteNs_keeps ..))
    | (with_reducible apply Keeps.step (Keeps.foldl ?_ _ _))
    | (extract_lets +onlyGivenNames x)
    | intro _
    | (with_reducible apply Keeps.ite)
    | split)

theorem execFirmwareImageDownload_ends (t : Tag) (q : Sqe) (d : List Byte) (s0 : State) : Ends s0 (execFirmwareImageDownload t q d s0) := by
  unfold execFirmwareImageDownload
  repeat' (first
    | with_reducible exact Keeps.refl _
    | (with_reducible apply Ends.step (adminRow_ends _ _ _ _ _ _ ?_))
    | (with_reducible apply Keeps.step (complete_keeps ..))
    | (with_reducible apply Keeps.step (modMsp_keeps ..))
    | (with_reducible apply Keeps.step (agentDownload_keeps ..))
    | (extract_lets +onlyGivenNames x)
    | intro _
    | (with_reducible apply Keeps.ite))

theorem execKeepAlive_ends (t : Tag) (q : Sqe) (_d : List Byte) (s0 : State) : Ends s0 (execKeepAlive t q _d s0) := by
  unfold execKeepAlive
  repeat' (first
    | with_reducible exact Keeps.refl _
    | (with_reducible apply Ends.step (adminRow_ends _ _ _ _ _ _ ?_))
    | (with_reducible apply Keeps.step (complete_keeps ..))
    | (with_reducible apply Keeps.step (modCtrlOf_keeps ..))
    | (extract_lets +onlyGivenNames x)
    | intro _)

theorem fabricsRow_ends (t : Tag) (q : Sqe) (admin : Bool) (f : Nat → Nat → State → State) (s0 : State) (hf : ∀ b0 b1 b2, Keeps b2 (f b0 b1 b2)) : Ends s0 (fabricsRow t q admin f s0) := by
  unfold fabricsRow
  repeat' (first
    | with_reducible exact Keeps.refl _
    | (with_reducible apply Keeps.step (hf _ _ _))
    | (with_reducible refine Keeps.step (fetch_error (by assumption)) ?_)
    | (with_reducible refine Keeps.step (fetch_ok (by assumption)) ?_)
    | (with_reducible apply ok_ends)
    | (with_reducible apply Keeps.step (complete_keeps ..))
    | (with_reducible apply Ends.ite)
    | split)

theorem disableCtrl_keeps (c : Nat) (s0 : State) : Keeps s0 (disableCtrl c s0) := by
  unfold disableCtrl
  repeat' (first
    | with_reducible exact Keeps.refl _
    | (with_reducible apply Keeps.step (closeConn_keeps ..))
    | (with_reducible apply Keeps.step (modQcu_keeps ..))
    | (with_reducible apply Keeps.step (Keeps.foldl ?_ _ _))
    | (extract_lets +onlyGivenNames x)
    | intro _)

theorem shutdownCtrl_keeps (c : Nat) (s0 : State) : Keeps s0 (shutdownCtrl c s0) := by
  unfold shutdownCtrl
  repeat' (first
    | with_reducible exact Keeps.refl _
    | (with_reducible apply Keeps.step (modQcu_keeps ..))
    | (with_reducible apply Keeps.step (admitWrites_keeps ..))
    | (with_reducible apply Keeps.step (drainClean_keeps ..)))

theorem writeCc_keeps (c : Nat) (v : Nat) (s0 : State) : Keeps s0 (writeCc c v s0) := by
  unfold writeCc
  repeat' (first
    | with_reducible exact Keeps.refl _
    | with_reducible assumption
    | (with_reducible apply Keeps.step (disableCtrl_keeps ..))
    | (with_reducible apply Keeps.step (modQcu_keeps ..))
    | (with_reducible apply Keeps.step (shutdownCtrl_keeps ..))
    | (extract_lets +onlyGivenNames x; refine Keeps.cutK (t := x) ?_ ?_ <;> first | (intro _; clear_value x) | subst x)
    | (with_reducible apply Keeps.ite)
    | split)

theorem propSet_keeps (t : Tag) (c : Nat) (off : Nat) (v : Nat) (s0 : State) : Keeps s0 (propSet t c off v s0) := by
  unfold propSet
  repeat' (first
    | with_reducible exact Keeps.refl _
    | with_reducible assumption
    | (with_reducible apply Keeps.step (complete_keeps ..))
    | (with_reducible apply Keeps.step (writeCc_keeps ..))
    | (with_reducible apply Keeps.step (deviceReset_keeps ..))
    | (extract_lets +onlyGivenNames x; refine Keeps.cutK (t := x) ?_ ?_ <;> first | (intro _; clear_value x) | subst x)
    | (extract_lets +onlyGivenNames x)
    | (with_reducible apply Keeps.ite))

theorem execPropertySet_ends (t : Tag) (q : Sqe) (_d : List Byte) (s0 : State) : Ends s0 (execPropertySet t q _d s0) := by
  unfold execPropertySet
  repeat' (first
    | with_reducible exact Keeps.refl _
    | (with_reducible apply Ends.step (fabricsRow_ends _ _ _ _ _ ?_))
    | (with_reducible apply Keeps.step (propSet_keeps ..))
    | intro _)

theorem execPropertyGet_ends (t : Tag) (q : Sqe) (_d : List Byte) (s0 : State) : Ends s0 (execPropertyGet t q _d s0) := by
  unfold execPropertyGet
  repeat' (first
    | with_reducible exact Keeps.refl _
    | (with_reducible apply Ends.step (fabricsRow_ends _ _ _ _ _ ?_))
    | (with_reducible apply Keeps.step (complete_keeps ..))
    | intro _
    | (with_reducible apply Keeps.ite)
    | split)

theorem execDisconnect_ends (t : Tag) (q : Sqe) (_d : List Byte) (s0 : State) : Ends s0 (execDisconnect t q _d s0) := by
  unfold execDisconnect
  repeat' (first
    | with_reducible exact Keeps.refl _
    | (with_reducible apply Ends.step (fabricsRow_ends _ _ _ _ _ ?_))
    | (with_reducible apply Keeps.step (complete_keeps ..))
    | (with_reducible apply Keeps.step (closeConn_keeps ..))
    | intro _
    | (with_reducible apply Keeps.ite))

theorem execInvalidCommandOpcode_ends (t : Tag) (q : Sqe) (_d : List Byte) (s0 : State) : Ends s0 (execInvalidCommandOpcode t q _d s0) := by
  unfold execInvalidCommandOpcode
  repeat' (first
    | with_reducible exact Keeps.refl _
    | (with_reducible refine Keeps.step (fetch_error (by assumption)) ?_)
    | (with_reducible refine Keeps.step (fetch_ok (by assumption)) ?_)
    | (with_reducible apply ok_ends)
    | (with_reducible apply Keeps.step (complete_keeps ..))
    | (with_reducible apply Ends.ite)
    | split)

theorem mspRow_ends (t : Tag) (op : Nat) (q : Sqe) (f : State → State) (s0 : State) (hf : ∀ b0, Keeps b0 (f b0)) : Ends s0 (mspRow t op q f s0) := by
  unfold mspRow
  repeat' (first
    | with_reducible exact Keeps.refl _
    | (with_reducible apply Keeps.step (hf _))
    | (with_reducible apply Ends.step (adminRow_ends _ _ _ _ _ _ ?_))
    | intro _
    | (with_reducible apply Keeps.ite))

theorem cryptoErase_keeps (n : Nat) (s0 : State) : Keeps s0 (cryptoErase n s0) := by
  unfold cryptoErase
  repeat' (first
    | with_reducible exact Keeps.refl _
    | (with_reducible apply Keeps.step (nsNotice_keeps ..))
    | (with_reducible apply Keeps.step (modFtl_keeps ..))
    | (with_reducible apply Keeps.step (unmapRange_keeps ..))
    | split)

theorem execFormatNvm_ends (t : Tag) (q : Sqe) (_d : List Byte) (s0 : State) : Ends s0 (execFormatNvm t q _d s0) := by
  unfold execFormatNvm
  repeat' (first
    | with_reducible exact Keeps.refl _
    | (with_reducible apply Ends.step (mspRow_ends _ _ _ _ _ ?_))
    | (with_reducible apply Keeps.step (complete_keeps ..))
    | (with_reducible apply Keeps.step (cryptoErase_keeps ..))
    | (with_reducible apply Keeps.step (Keeps.foldl ?_ _ _))
    | intro _
    | (with_reducible apply Keeps.ite)
    | split)

theorem execSanitize_ends (t : Tag) (q : Sqe) (_d : List Byte) (s0 : State) : Ends s0 (execSanitize t q _d s0) := by
  unfold execSanitize
  repeat' (first
    | with_reducible exact Keeps.refl _
    | (with_reducible apply Ends.step (mspRow_ends _ _ _ _ _ ?_))
    | (with_reducible apply Keeps.step (complete_keeps ..))
    | (with_reducible apply Keeps.step (cryptoErase_keeps ..))
    | (with_reducible apply Keeps.step (Keeps.foldl ?_ _ _))
    | intro _
    | (with_reducible apply Keeps.ite))

theorem execNssrDeviceReset_ends (t : Tag) (q : Sqe) (_d : List Byte) (s0 : State) : Ends s0 (execNssrDeviceReset t q _d s0) := by
  unfold execNssrDeviceReset
  repeat' (first
    | with_reducible exact Keeps.refl _
    | (with_reducible apply Ends.step (fabricsRow_ends _ _ _ _ _ ?_))
    | (with_reducible apply Keeps.step (propSet_keeps ..))
    | intro _)

theorem execShutdownNotification_ends (t : Tag) (q : Sqe) (_d : List Byte) (s0 : State) : Ends s0 (execShutdownNotification t q _d s0) := by
  unfold execShutdownNotification
  repeat' (first
    | with_reducible exact Keeps.refl _
    | (with_reducible apply Ends.step (fabricsRow_ends _ _ _ _ _ ?_))
    | (with_reducible apply Keeps.step (propSet_keeps ..))
    | (extract_lets +onlyGivenNames x)
    | intro _)

end Sys2Proof.Machine
end

