-- ==== Sys2Proof/Laws/KeepsPower.lean ====
section
/-! SUPPORT. Every definition of ContextCmd, Pwr, Compass, ChartEv, Strait that answers a state keeps the queue, the canonical form of the
memories and the islands' rule (context commands, power, pages, the Chart's events and the Strait). -/
namespace Sys2Proof.Machine
open Sys2Proof

theorem joinCore_keeps (i : Nat) (k : Nat) (s0 : State) : Keeps s0 (joinCore i k s0) := by
  unfold joinCore
  repeat' (first
    | with_reducible exact Keeps.refl _
    | (with_reducible apply Keeps.step (setPhys_keeps ..))
    | (with_reducible apply Keeps.step (modOcm_keeps ..))
    | (with_reducible apply Keeps.step (ocmZero_keeps ..))
    | exact OcmKeep.of fun _ => ⟨rfl, rfl, rfl, rfl⟩
    | (with_reducible apply Keeps.step (Keeps.foldl ?_ _ _))
    | (extract_lets +onlyGivenNames x)
    | intro _
    | (with_reducible apply Keeps.ite))

theorem islandsWf_iff (m : SMap Nat) : islandsWf m = true ↔ smWf 0 m = true ∧ (∀ e ∈ m, e.1 < 48 ∧ e.2 < 2 ^ 48) ∧
    ∀ a ∈ m, ∀ b ∈ m, a.1 = b.1 ∨ a.2 &&& b.2 = 0 := by
  simp [islandsWf, and_assoc]

theorem islandsWf_put (l : SMap Nat) (i m : Nat) (hl : islandsWf l = true) (hi : i < 48) (hm : m < 2 ^ 48)
    (hd : ∀ e ∈ l, e.1 ≠ i → e.2 &&& m = 0) : islandsWf (smPut 0 l i m) = true := by
  rw [islandsWf_iff] at hl ⊢
  obtain ⟨h1, h2, h3⟩ := hl
  refine ⟨smWf_put _ _ _ _ h1, ?_, ?_⟩
  · intro e he
    unfold smPut at he
    split at he
    · exact h2 e (List.mem_filter.mp he).1
    · rcases smSet_mem _ _ _ _ he with rfl | he
      · exact ⟨hi, hm⟩
      · exact h2 e he
  · unfold smPut
    split
    · intro a ha b hb
      exact h3 a (List.mem_filter.mp ha).1 b (List.mem_filter.mp hb).1
    · intro a ha b hb
      rcases smSet_mem _ _ _ _ ha with rfl | ha <;> rcases smSet_mem _ _ _ _ hb with rfl | hb
      · exact .inl rfl
      · by_cases hk : b.1 = i
        · exact .inl hk.symm
        · right; rw [Nat.and_comm]; exact hd b hb hk
      · by_cases hk : a.1 = i
        · exact .inl hk
        · right; exact hd a ha hk
      · exact h3 a ha b hb

theorem bindIsland_keeps (t : Tag) (i m : Nat) (s0 : State) (hi : i < 48) (hm : m < 2 ^ 48) : Keeps s0 (bindIsland t i m s0) := by
  unfold bindIsland
  split
  · exact refuse_keeps ..
  · rename_i hr
    refine Keeps.trans ?_ (succeed_keeps ..)
    refine Keeps.trans ?_ (Keeps.foldl (fun _ _ => joinCore_keeps ..) _ _)
    refine setIslands_keeps _ _ (fun hw => islandsWf_put _ _ _ hw hi hm ?_)
    unfold bindRefusal at hr
    dsimp only at hr
    split at hr
    · cases hr
    · rename_i hn
      intro e he hk
      have := mt (List.any_eq_true.mpr ⟨e, he, ·⟩) hn
      simpa [hk] using this

theorem withSgl_keeps (k : CmdKind) (t : Tag) (q : Sqe) (n : Nat) (f : State → State) (s0 : State) (hf : ∀ b0, Keeps b0 (f b0)) : Keeps s0 (withSgl k t q n f s0) := by
  unfold withSgl
  repeat' (first
    | with_reducible exact Keeps.refl _
    | (with_reducible apply Keeps.step (hf _))
    | (with_reducible apply Keeps.step (complete_keeps ..))
    | (with_reducible apply Keeps.ite))

theorem joinSeq_keeps (t : Tag) (ctx : Nat) (sq : Nat) (maxLen : Nat) (seed : Nat) (prompt : List Nat) (s0 : State) : Keeps s0 (joinSeq t ctx sq maxLen seed prompt s0) := by
  unfold joinSeq
  repeat' (first
    | with_reducible exact Keeps.refl _
    | (with_reducible apply Keeps.step (refuse_keeps ..))
    | (with_reducible apply Keeps.step (succeed_keeps ..))
    | (with_reducible apply Keeps.step (putCtx_keeps ..))
    | (extract_lets +onlyGivenNames x)
    | (with_reducible apply Keeps.ite)
    | split)

theorem execSequenceJoin_ends (t : Tag) (q : Sqe) (d : List Byte) (s0 : State) : Ends s0 (execSequenceJoin t q d s0) := by
  unfold execSequenceJoin
  repeat' (first
    | with_reducible exact Keeps.refl _
    | (with_reducible apply Ends.step (bcsRow_ends _ _ _ _ _ _ ?_))
    | (with_reducible apply Keeps.step (withSgl_keeps _ _ _ _ _ _ ?_))
    | (with_reducible apply Keeps.step (joinSeq_keeps ..))
    | intro _)

theorem readPkg_keeps (n : Ns) (slba : Nat) (ver : Nat) (s0 : State) : Keeps s0 (readPkg n slba ver s0).2 := by
  unfold readPkg
  repeat' (first
    | with_reducible exact Keeps.refl _
    | (with_reducible apply Keeps.step (nsRead_keeps ..))
    | (with_reducible refine Keeps.snd (by assumption) ?_)
    | (extract_lets +onlyGivenNames x)
    | split)

theorem loadChecks_keeps (t : Tag) (nsid : Nat) (slba : Nat) (ctx : Nat) (island : Nat) (work : Nat) (outBytes : Nat) (outKib : Nat) (s0 : State) : Keeps s0 (loadChecks t nsid slba ctx island work outBytes outKib s0) := by
  unfold loadChecks
  repeat' (first
    | with_reducible exact Keeps.refl _
    | (with_reducible apply Keeps.step (refuse_keeps ..))
    | (with_reducible apply Keeps.step (complete_keeps ..))
    | (with_reducible apply Keeps.step (readPkg_keeps ..))
    | (with_reducible apply Keeps.step (succeed_keeps ..))
    | (with_reducible apply Keeps.step (loadCtx_keeps ..))
    | (with_reducible refine Keeps.snd (by assumption) ?_)
    | (with_reducible apply Keeps.ite)
    | split)

theorem execLoadContext_ends (t : Tag) (q : Sqe) (_d : List Byte) (s0 : State) : Ends s0 (execLoadContext t q _d s0) := by
  unfold execLoadContext
  repeat' (first
    | with_reducible exact Keeps.refl _
    | (with_reducible apply Ends.step (bcsRow_ends _ _ _ _ _ _ ?_))
    | (with_reducible apply Keeps.step (withSgl_keeps _ _ _ _ _ _ ?_))
    | (with_reducible apply Keeps.step (loadChecks_keeps ..))
    | intro _)

theorem writeChart_keeps (t : Tag) (q : Sqe) (d : List Byte) (b : Bool) (s0 : State) : Keeps s0 (writeChart t q d b s0) := by
  unfold writeChart
  dsimp only
  repeat' (first
    | with_reducible exact complete_keeps ..
    | with_reducible exact refuse_keeps ..
    | with_reducible exact (modChart_keeps ..).trans (succeed_keeps ..)
    | refine Keeps.ite ?_ ?_)

theorem execWriteChart_ends (t : Tag) (q : Sqe) (d : List Byte) (s0 : State) : Ends s0 (execWriteChart t q d s0) := by
  unfold execWriteChart
  repeat' (first
    | with_reducible exact Keeps.refl _
    | (with_reducible apply Ends.step (bcsRow_ends _ _ _ _ _ _ ?_))
    | (with_reducible apply Keeps.step (writeChart_keeps ..))
    | intro _)

theorem drainHist_keeps (t : Tag) (first : Nat) (cap : Nat) (c : Ctx) (s0 : State) : Keeps s0 (drainHist t first cap c s0) := by
  unfold drainHist
  repeat' (first
    | with_reducible exact Keeps.refl _
    | (with_reducible apply Keeps.step (refuse_keeps ..))
    | (with_reducible apply Keeps.step (draw_keeps ..))
    | (with_reducible apply Keeps.step (succeed_keeps ..))
    | (extract_lets +onlyGivenNames x)
    | (with_reducible apply Keeps.ite))

theorem drainOut_keeps (t : Tag) (ctx : Nat) (ack : Nat) (cap : Nat) (c : Ctx) (s0 : State) : Keeps s0 (drainOut t ctx ack cap c s0) := by
  unfold drainOut
  repeat' (first
    | with_reducible exact Keeps.refl _
    | with_reducible assumption
    | (with_reducible apply Keeps.step (refuse_keeps ..))
    | (with_reducible apply Keeps.step (putCtx_keeps ..))
    | (with_reducible apply Keeps.step (draw_keeps ..))
    | (with_reducible apply Keeps.step (succeed_keeps ..))
    | (extract_lets +onlyGivenNames x; refine Keeps.cutK (t := x) ?_ ?_ <;> first | (intro _; clear_value x) | subst x)
    | (extract_lets +onlyGivenNames x)
    | (with_reducible apply Keeps.ite))

theorem execOutputDrain_ends (t : Tag) (q : Sqe) (_d : List Byte) (s0 : State) : Ends s0 (execOutputDrain t q _d s0) := by
  unfold execOutputDrain
  repeat' (first
    | with_reducible exact Keeps.refl _
    | (with_reducible apply Ends.step (bcsRow_ends _ _ _ _ _ _ ?_))
    | (with_reducible apply Keeps.step (refuse_keeps ..))
    | (with_reducible apply Keeps.step (complete_keeps ..))
    | (with_reducible apply Keeps.step (drainHist_keeps ..))
    | (with_reducible apply Keeps.step (drainOut_keeps ..))
    | intro _
    | (with_reducible apply Keeps.ite)
    | split)

theorem unloadCtx_keeps (t : Tag) (n : Nat) (s0 : State) : Keeps s0 (unloadCtx t n s0) := by
  unfold unloadCtx
  repeat' (first
    | with_reducible exact Keeps.refl _
    | with_reducible assumption
    | (with_reducible apply Keeps.step (refuse_keeps ..))
    | (with_reducible apply Keeps.step (putCtx_keeps ..))
    | (with_reducible apply Keeps.step (startDue_keeps ..))
    | (with_reducible apply Keeps.step (unloadNow_keeps ..))
    | (extract_lets +onlyGivenNames x; refine Keeps.cutK (t := x) ?_ ?_ <;> first | (intro _; clear_value x) | subst x)
    | (extract_lets +onlyGivenNames x)
    | (with_reducible apply Keeps.ite)
    | split)

theorem execUnloadContext_ends (t : Tag) (q : Sqe) (_d : List Byte) (s0 : State) : Ends s0 (execUnloadContext t q _d s0) := by
  unfold execUnloadContext
  repeat' (first
    | with_reducible exact Keeps.refl _
    | (with_reducible apply Ends.step (bcsRow_ends _ _ _ _ _ _ ?_))
    | (with_reducible apply Keeps.step (withSgl_keeps _ _ _ _ _ _ ?_))
    | (with_reducible apply Keeps.step (unloadCtx_keeps ..))
    | intro _)

theorem execBindIsland_ends (t : Tag) (q : Sqe) (d : List Byte) (s0 : State) : Ends s0 (execBindIsland t q d s0) := by
  unfold execBindIsland
  refine bcsRow_ends _ _ _ _ _ _ ?_
  intro hb s
  have hb := List.find?_eq_none.mp hb
  have h12 := hb 12 (by decide)
  have h13 := hb 13 (by decide)
  have h14 := hb 14 (by decide)
  simp [usedBits] at h12 h13 h14
  refine withSgl_keeps _ _ _ _ _ _ ?_
  intro u
  exact bindIsland_keeps _ _ _ _ (by omega) (by omega)

theorem execSwapChart_ends (t : Tag) (q : Sqe) (_d : List Byte) (s0 : State) : Ends s0 (execSwapChart t q _d s0) := by
  unfold execSwapChart
  repeat' (first
    | with_reducible exact Keeps.refl _
    | (with_reducible apply Ends.step (bcsRow_ends _ _ _ _ _ _ ?_))
    | (with_reducible apply Keeps.step (withSgl_keeps _ _ _ _ _ _ ?_))
    | (with_reducible apply Keeps.step (swapRequest_keeps ..))
    | intro _)

theorem leaveCmd_keeps (t : Tag) (ctx : Nat) (sq : Nat) (s0 : State) : Keeps s0 (leaveCmd t ctx sq s0) := by
  unfold leaveCmd
  repeat' (first
    | with_reducible exact Keeps.refl _
    | (with_reducible apply Keeps.step (refuse_keeps ..))
    | (with_reducible apply Keeps.step (leaveSeq_keeps ..))
    | (with_reducible apply Keeps.step (succeed_keeps ..))
    | (with_reducible apply Keeps.ite)
    | split)

theorem execSequenceLeave_ends (t : Tag) (q : Sqe) (_d : List Byte) (s0 : State) : Ends s0 (execSequenceLeave t q _d s0) := by
  unfold execSequenceLeave
  repeat' (first
    | with_reducible exact Keeps.refl _
    | (with_reducible apply Ends.step (bcsRow_ends _ _ _ _ _ _ ?_))
    | (with_reducible apply Keeps.step (withSgl_keeps _ _ _ _ _ _ ?_))
    | (with_reducible apply Keeps.step (leaveCmd_keeps ..))
    | intro _)

theorem unattached_keeps (code : Nat) (cls : Cls) (d0 : Nat) (d1 : Nat) (s0 : State) : Keeps s0 (unattached code cls d0 d1 s0) := by
  unfold unattached
  repeat' (first
    | with_reducible exact Keeps.refl _
    | (with_reducible apply Keeps.step (recordErr_keeps ..)))

theorem execFlitGroupCrcFail_ends (replayOk : Bool) (s0 : State) : Ends s0 (execFlitGroupCrcFail replayOk s0) := by
  unfold execFlitGroupCrcFail
  repeat' (first
    | with_reducible exact Keeps.refl _
    | with_reducible assumption
    | (with_reducible apply Keeps.step (unattached_keeps ..))
    | (with_reducible apply ok_ends)
    | (with_reducible apply Keeps.step (modChip_keeps ..))
    | (with_reducible apply Keeps.step (raiseFatal_keeps ..))
    | (extract_lets +onlyGivenNames x; refine Ends.cutK (t := x) ?_ ?_ <;> first | (intro _; clear_value x) | subst x)
    | (extract_lets +onlyGivenNames x)
    | (with_reducible apply Ends.ite))

theorem execModuleReset_ends (s0 : State) : Ends s0 (execModuleReset s0) := by
  unfold execModuleReset
  repeat' (first
    | with_reducible exact Keeps.refl _
    | (with_reducible apply ok_ends)
    | (with_reducible apply Keeps.step (wideReset_keeps ..))
    | (with_reducible apply Ends.ite)
    | split)

theorem powerFail_keeps (s0 : State) : Keeps s0 (powerFail s0) := by
  unfold powerFail
  repeat' (first
    | with_reducible exact Keeps.refl _
    | (with_reducible apply Keeps.step (raiseFatal_keeps ..))
    | (with_reducible apply Keeps.step (wantFlush_keeps ..))
    | (with_reducible apply Keeps.ite))

theorem inputLost_keeps (s0 : State) : Keeps s0 (inputLost s0) := by
  unfold inputLost
  repeat' (first
    | with_reducible exact Keeps.refl _
    | with_reducible assumption
    | (with_reducible apply Keeps.step (modPwr_keeps ..))
    | (with_reducible apply Keeps.step (powerFail_keeps ..))
    | (extract_lets +onlyGivenNames x; refine Keeps.cutK (t := x) ?_ ?_ <;> first | (intro _; clear_value x) | subst x)
    | (with_reducible apply Keeps.ite))

theorem execAux3v3Change_ends (level : Bool) (s0 : State) : Ends s0 (execAux3v3Change level s0) := by
  unfold execAux3v3Change
  repeat' (first
    | with_reducible exact Keeps.refl _
    | (with_reducible apply ok_ends)
    | (with_reducible apply Keeps.step (modPwr_keeps ..)))

theorem execReady_ends (s0 : State) : Ends s0 (execReady s0) := by
  unfold execReady
  repeat' (first
    | with_reducible exact Keeps.refl _
    | (with_reducible apply ok_ends)
    | (with_reducible apply Keeps.step (becomeReady_keeps ..)))

theorem countEnergy_keeps (mw : Nat) (s0 : State) : Keeps s0 (countEnergy mw s0) := by
  unfold countEnergy
  repeat' (first
    | with_reducible exact Keeps.refl _
    | (with_reducible apply Keeps.step (modPwr_keeps ..))
    | (with_reducible apply Keeps.step (cntAdd_keeps ..)))

theorem countInterval_keeps (mw : Nat) (mv : Nat) (s0 : State) : Keeps s0 (countInterval mw mv s0) := by
  unfold countInterval
  repeat' (first
    | with_reducible exact Keeps.refl _
    | with_reducible assumption
    | (with_reducible apply Keeps.step (countEnergy_keeps ..))
    | (with_reducible apply Keeps.step (modPwr_keeps ..))
    | (with_reducible apply Keeps.step (cntAdd_keeps ..))
    | (with_reducible apply Keeps.step (Keeps.foldl ?_ _ _))
    | (extract_lets +onlyGivenNames x; refine Keeps.cutK (t := x) ?_ ?_ <;> first | (intro _; clear_value x) | subst x)
    | (extract_lets +onlyGivenNames x)
    | intro _
    | (with_reducible apply Keeps.ite))

theorem gateAll_keeps (s0 : State) : Keeps s0 (gateAll s0) := by
  unfold gateAll
  repeat' (first
    | with_reducible exact Keeps.refl _
    | (with_reducible apply Keeps.step (modCore_keeps ..))
    | (with_reducible apply Keeps.step (Keeps.foldl ?_ _ _))
    | intro _)

theorem beginFlush_keeps (cause : FlushCause) (s0 : State) : Keeps s0 (beginFlush cause s0) := by
  unfold beginFlush
  repeat' (first
    | with_reducible exact Keeps.refl _
    | (with_reducible apply Keeps.step (abortJobs_keeps ..))
    | (with_reducible apply Keeps.step (wantFlush_keeps ..))
    | (with_reducible apply Keeps.ite))

theorem execPwrEnEdge_ends (level : Bool) (s0 : State) : Ends s0 (execPwrEnEdge level s0) := by
  unfold execPwrEnEdge
  repeat' (first
    | with_reducible exact Keeps.refl _
    | with_reducible assumption
    | (with_reducible apply ok_ends)
    | (with_reducible apply Keeps.step (modPwr_keeps ..))
    | (with_reducible apply Keeps.step (beginFlush_keeps ..))
    | (extract_lets +onlyGivenNames x; refine Ends.cutK (t := x) ?_ ?_ <;> first | (intro _; clear_value x) | subst x)
    | (extract_lets +onlyGivenNames x)
    | (with_reducible apply Ends.ite))

theorem supplyDip_keeps (s0 : State) : Keeps s0 (supplyDip s0) := by
  unfold supplyDip
  repeat' (first
    | with_reducible exact Keeps.refl _
    | (with_reducible apply Keeps.step (advisory_keeps ..)))

theorem inputRestored_keeps (s0 : State) : Keeps s0 (inputRestored s0) := by
  unfold inputRestored
  repeat' (first
    | with_reducible exact Keeps.refl _
    | (with_reducible apply Keeps.step (supplyDip_keeps ..))
    | (with_reducible apply Keeps.step (cntAdd_keeps ..))
    | (with_reducible apply Keeps.step (modPwr_keeps ..))
    | (with_reducible apply Keeps.ite))

theorem execInputVoltageEvent_ends (v : VoltEvent) (s0 : State) : Ends s0 (execInputVoltageEvent v s0) := by
  unfold execInputVoltageEvent
  repeat' (first
    | with_reducible exact Keeps.refl _
    | with_reducible assumption
    | (with_reducible apply ok_ends)
    | (with_reducible apply Keeps.step (supplyDip_keeps ..))
    | (with_reducible apply Keeps.step (modPwr_keeps ..))
    | (with_reducible apply Keeps.step (powerFail_keeps ..))
    | (with_reducible apply Keeps.step (inputLost_keeps ..))
    | (with_reducible apply Keeps.step (beginFlush_keeps ..))
    | (with_reducible apply Keeps.step (inputRestored_keeps ..))
    | (extract_lets +onlyGivenNames x; refine Ends.cutK (t := x) ?_ ?_ <;> first | (intro _; clear_value x) | subst x)
    | (extract_lets +onlyGivenNames x)
    | (with_reducible apply Ends.ite)
    | split)

theorem execBrakeHeld_ends (s0 : State) : Ends s0 (execBrakeHeld s0) := by
  unfold execBrakeHeld
  repeat' (first
    | with_reducible exact Keeps.refl _
    | with_reducible assumption
    | (with_reducible apply ok_ends)
    | (with_reducible apply Keeps.step (advanceMaster_keeps ..))
    | (with_reducible apply Keeps.step (advisory_keeps ..))
    | (with_reducible apply Keeps.step (modPwr_keeps ..))
    | (extract_lets +onlyGivenNames x; refine Ends.cutK (t := x) ?_ ?_ <;> first | (intro _; clear_value x) | subst x)
    | (with_reducible apply Ends.ite)
    | split)

theorem brakeRequest_keeps (s0 : State) : Keeps s0 (brakeRequest s0) := by
  unfold brakeRequest
  repeat' (first
    | with_reducible exact Keeps.refl _
    | with_reducible assumption
    | (with_reducible apply Keeps.step (gateAll_keeps ..))
    | (with_reducible apply Keeps.step (cntAdd_keeps ..))
    | (with_reducible apply Keeps.step (modPwr_keeps ..))
    | (with_reducible apply Keeps.step (advisory_keeps ..))
    | (extract_lets +onlyGivenNames x; refine Keeps.cutK (t := x) ?_ ?_ <;> first | (intro _; clear_value x) | subst x)
    | (extract_lets +onlyGivenNames x)
    | (with_reducible apply Keeps.ite))

theorem execBrakeNEdge_ends (level : Bool) (s0 : State) : Ends s0 (execBrakeNEdge level s0) := by
  unfold execBrakeNEdge
  repeat' (first
    | with_reducible exact Keeps.refl _
    | with_reducible assumption
    | (with_reducible apply ok_ends)
    | (with_reducible apply Keeps.step (modPwr_keeps ..))
    | (with_reducible apply Keeps.step (brakeRequest_keeps ..))
    | (extract_lets +onlyGivenNames x; refine Ends.cutK (t := x) ?_ ?_ <;> first | (intro _; clear_value x) | subst x)
    | (extract_lets +onlyGivenNames x)
    | (with_reducible apply Ends.ite))

theorem execThermalRead_ends (n : Nat) (dc : Int) (s0 : State) : Ends s0 (execThermalRead n dc s0) := by
  unfold execThermalRead
  repeat' (first
    | with_reducible exact Keeps.refl _
    | with_reducible assumption
    | (with_reducible apply ok_ends)
    | (with_reducible apply Keeps.step (modPwr_keeps ..))
    | (with_reducible apply Keeps.step (advisory_keeps ..))
    | (with_reducible apply Keeps.step (modErr_keeps ..))
    | (with_reducible apply Keeps.step (raiseFatal_keeps ..))
    | (with_reducible apply Keeps.step (wantFlush_keeps ..))
    | exact Ends.refused _
    | (extract_lets +onlyGivenNames x; refine Ends.cutK (t := x) ?_ ?_ <;> first | (intro _; clear_value x) | subst x)
    | (extract_lets +onlyGivenNames x)
    | (with_reducible apply Keeps.ite)
    | (with_reducible apply Ends.ite))

theorem afterFlush_keeps (complete : Bool) (cause : FlushCause) (s0 : State) : Keeps s0 (afterFlush complete cause s0) := by
  unfold afterFlush
  repeat' (first
    | with_reducible exact Keeps.refl _
    | (with_reducible apply Keeps.step (modPwr_keeps ..))
    | (with_reducible apply Keeps.step (powerOff_keeps ..))
    | (with_reducible apply Keeps.step (draw_keeps ..))
    | (with_reducible apply Keeps.step (modChip_keeps ..))
    | (extract_lets +onlyGivenNames x)
    | (with_reducible apply Keeps.ite))

theorem execPowerLossFlush_ends (complete : Bool) (s0 : State) : Ends s0 (execPowerLossFlush complete s0) := by
  unfold execPowerLossFlush
  repeat' (first
    | with_reducible exact Keeps.refl _
    | (with_reducible apply ok_ends)
    | (with_reducible apply Keeps.step (afterFlush_keeps ..))
    | (with_reducible apply Keeps.step (flushDone_keeps ..))
    | split)

theorem execPowerOnReset_ends (s0 : State) : Ends s0 (execPowerOnReset s0) := by
  unfold execPowerOnReset
  repeat' (first
    | with_reducible exact Keeps.refl _
    | (with_reducible apply ok_ends)
    | (with_reducible apply Keeps.step (modChip_keeps ..))
    | (with_reducible apply Keeps.step (wideReset_keeps ..))
    | (with_reducible apply Ends.ite))

theorem execDeviceReset_ends (s0 : State) : Ends s0 (execDeviceReset s0) := by
  unfold execDeviceReset
  repeat' (first
    | with_reducible exact Keeps.refl _
    | with_reducible assumption
    | (with_reducible apply ok_ends)
    | (with_reducible apply Keeps.step (modChip_keeps ..))
    | (with_reducible apply Keeps.step (advanceMaster_keeps ..))
    | (with_reducible apply Keeps.step (deviceReset_keeps ..))
    | (extract_lets +onlyGivenNames x; refine Ends.cutK (t := x) ?_ ?_ <;> first | (intro _; clear_value x) | subst x)
    | (with_reducible apply Ends.ite)
    | split)

theorem execStartUp_ends (o : BootOut) (s0 : State) : Ends s0 (execStartUp o s0) := by
  unfold execStartUp
  repeat' (first
    | with_reducible exact Keeps.refl _
    | (with_reducible apply ok_ends)
    | (with_reducible apply Keeps.step (startUp_keeps ..)))

theorem execModRstNEdge_ends (level : Bool) (s0 : State) : Ends s0 (execModRstNEdge level s0) := by
  unfold execModRstNEdge
  repeat' (first
    | with_reducible exact Keeps.refl _
    | with_reducible assumption
    | (with_reducible apply ok_ends)
    | (with_reducible apply Keeps.step (modPwr_keeps ..))
    | (with_reducible apply Keeps.step (beginFlush_keeps ..))
    | (with_reducible apply Keeps.step (modChip_keeps ..))
    | (extract_lets +onlyGivenNames x; refine Ends.cutK (t := x) ?_ ?_ <;> first | (intro _; clear_value x) | subst x)
    | (extract_lets +onlyGivenNames x)
    | (with_reducible apply Ends.ite))

theorem execBrakeToggleHoldEnd_ends (s0 : State) : Ends s0 (execBrakeToggleHoldEnd s0) := by
  unfold execBrakeToggleHoldEnd
  repeat' (first
    | with_reducible exact Keeps.refl _
    | (with_reducible apply ok_ends)
    | (with_reducible apply Keeps.step (modPwr_keeps ..))
    | (with_reducible apply Ends.ite))

theorem peakGrant_keeps (s0 : State) : Keeps s0 (peakGrant s0) := by
  unfold peakGrant
  repeat' (first
    | with_reducible exact Keeps.refl _
    | with_reducible assumption
    | (with_reducible apply Keeps.step (modPwr_keeps ..))
    | (with_reducible apply Keeps.step (advisory_keeps ..))
    | (with_reducible apply Keeps.step (cntAdd_keeps ..))
    | (extract_lets +onlyGivenNames x; refine Keeps.cutK (t := x) ?_ ?_ <;> first | (intro _; clear_value x) | subst x)
    | (extract_lets +onlyGivenNames x)
    | (with_reducible apply Keeps.ite))

theorem setGated_keeps (g : Bool) (ks : List Nat) (s0 : State) : Keeps s0 (setGated g ks s0) := by
  unfold setGated
  repeat' (first
    | with_reducible exact Keeps.refl _
    | (with_reducible apply Keeps.step (modCore_keeps ..))
    | (with_reducible apply Keeps.step (Keeps.foldl ?_ _ _))
    | intro _)

theorem regate_keeps (mw : Nat) (cap : Nat) (s0 : State) : Keeps s0 (regate mw cap s0) := by
  unfold regate
  repeat' (first
    | with_reducible exact Keeps.refl _
    | (with_reducible apply Keeps.step (setGated_keeps ..))
    | (extract_lets +onlyGivenNames x)
    | (with_reducible apply Keeps.ite))

theorem execGovernorInterval_ends (mw : Nat) (mv : Nat) (s0 : State) : Ends s0 (execGovernorInterval mw mv s0) := by
  unfold execGovernorInterval
  repeat' (first
    | with_reducible exact Keeps.refl _
    | with_reducible assumption
    | (with_reducible apply ok_ends)
    | (with_reducible apply Keeps.step (peakGrant_keeps ..))
    | (with_reducible apply Keeps.step (countInterval_keeps ..))
    | (with_reducible apply Keeps.step (modPwr_keeps ..))
    | (with_reducible apply Keeps.step (gateAll_keeps ..))
    | (with_reducible apply Keeps.step (regate_keeps ..))
    | (extract_lets +onlyGivenNames x; refine Ends.cutK (t := x) ?_ ?_ <;> first | (intro _; clear_value x) | subst x)
    | (extract_lets +onlyGivenNames x)
    | (with_reducible apply Ends.ite))

theorem execHoldupMeasurement_ends (mj : Nat) (s0 : State) : Ends s0 (execHoldupMeasurement mj s0) := by
  unfold execHoldupMeasurement
  repeat' (first
    | with_reducible exact Keeps.refl _
    | with_reducible assumption
    | (with_reducible apply ok_ends)
    | (with_reducible apply Keeps.step (cntAdd_keeps ..))
    | (with_reducible apply Keeps.step (modPwr_keeps ..))
    | (with_reducible apply Keeps.step (advisory_keeps ..))
    | (with_reducible apply Keeps.step (smartEvent_keeps ..))
    | (extract_lets +onlyGivenNames x; refine Ends.cutK (t := x) ?_ ?_ <;> first | (intro _; clear_value x) | subst x)
    | (extract_lets +onlyGivenNames x)
    | (with_reducible apply Keeps.ite)
    | (with_reducible apply Ends.ite))

theorem execClassLate_ends (resource : Nat) (inst : Nat) (cls : Nat) (wait : Nat) (s0 : State) : Ends s0 (execClassLate resource inst cls wait s0) := by
  unfold execClassLate
  repeat' (first
    | with_reducible exact Keeps.refl _
    | (with_reducible apply ok_ends)
    | (with_reducible apply Keeps.step (unattached_keeps ..)))

theorem execPs4FabricClockStop_ends (s0 : State) : Ends s0 (execPs4FabricClockStop s0) := by
  unfold execPs4FabricClockStop
  repeat' (first
    | with_reducible exact Keeps.refl _
    | (with_reducible apply ok_ends)
    | (with_reducible apply Keeps.step (modChip_keeps ..))
    | (with_reducible apply Keeps.step (advanceMaster_keeps ..))
    | split)

theorem execActLedTimeout_ends (s0 : State) : Ends s0 (execActLedTimeout s0) := by
  unfold execActLedTimeout
  repeat' (first
    | with_reducible exact Keeps.refl _
    | (with_reducible apply ok_ends)
    | (with_reducible apply Keeps.step (modQcu_keeps ..))
    | (with_reducible apply Keeps.step (advanceMaster_keeps ..))
    | split)

theorem requestLayer_keeps (n : Nat) (layer : Nat) (s0 : State) : Keeps s0 (requestLayer n layer s0) := by
  unfold requestLayer
  repeat' (first
    | with_reducible exact Keeps.refl _
    | (with_reducible apply Keeps.step (modCtx_keeps ..)))

theorem execObjRefetched_ends (addr : Nat) (s0 : State) : Ends s0 (execObjRefetched addr s0) := by
  unfold execObjRefetched
  extract_lets a b
  refine Ends.ite ?_ ?_
  · split
    · exact ok_ends (refetch_keeps _ _ _ (fun _ _ => xmStore_keeps ..))
    · exact ok_ends (Keeps.refl _)
  · split
    · refine Ends.ite ?_ ?_
      · exact ok_ends (refetch_keeps _ _ _ (fun _ _ => (ocmClearErr_keeps ..).trans (ocmStore_keeps ..)))
      · exact ok_ends (Keeps.refl _)
    · exact ok_ends (Keeps.refl _)

theorem settleHalves_keeps (n : Nat) (s0 : State) : Keeps s0 (settleHalves n s0) := by
  unfold settleHalves
  repeat' (first
    | with_reducible exact Keeps.refl _
    | (with_reducible apply Keeps.step (modCtx_keeps ..)))

theorem prefetch_keeps (n : Nat) (s0 : State) : Keeps s0 (prefetch n s0) := by
  unfold prefetch
  repeat' (first
    | with_reducible exact Keeps.refl _
    | (with_reducible apply Keeps.step (cntAdd_keeps ..))
    | (with_reducible apply Keeps.step (putCtx_keeps ..))
    | split)

theorem execLookaheadPrefetch_ends (b : Bool) (i : Nat) (s0 : State) : Ends s0 (execLookaheadPrefetch b i s0) := by
  unfold execLookaheadPrefetch
  repeat' (first
    | with_reducible exact Keeps.refl _
    | with_reducible assumption
    | (with_reducible apply ok_ends)
    | (with_reducible apply Keeps.step (advanceTo_keeps ..))
    | (with_reducible apply Keeps.step (prefetch_keeps ..))
    | (extract_lets +onlyGivenNames x; refine Ends.cutK (t := x) ?_ ?_ <;> first | (intro _; clear_value x) | subst x)
    | (extract_lets +onlyGivenNames x)
    | (with_reducible apply Ends.ite)
    | split)

theorem stageEntries_keeps (c : Ctx) (h : Nat) (a2 : List (Nat × Tensor)) (s0 : State) : Keeps s0 (stageEntries c h a2 s0).2 := by
  fun_induction stageEntries c h a2 s0
  all_goals repeat' (first
    | with_reducible exact Keeps.refl _
    | (with_reducible refine Keeps.step (by assumption) ?_)
    | (with_reducible apply Keeps.step (pkgBytesAt_keeps ..))
    | (with_reducible apply Keeps.step (storeLayout_keeps ..))
    | (with_reducible refine Keeps.snd (by assumption) ?_))

theorem stageLayer_keeps (n : Nat) (layer : Nat) (s0 : State) : Keeps s0 (stageLayer n layer s0) := by
  unfold stageLayer
  repeat' (first
    | with_reducible exact Keeps.refl _
    | (with_reducible apply Keeps.step (stageEntries_keeps ..))
    | (with_reducible apply Keeps.step (quarantine_keeps ..))
    | (with_reducible apply Keeps.step (ctxCnt_keeps ..))
    | (with_reducible apply Keeps.step (cntAdd_keeps ..))
    | (with_reducible apply Keeps.step (modCtx_keeps ..))
    | (with_reducible refine Keeps.snd (by assumption) ?_)
    | (extract_lets +onlyGivenNames x)
    | (with_reducible apply Keeps.ite)
    | split)

theorem execPageFetchComplete_ends (ctx : Nat) (sq : Nat) (layer : Nat) (page : Nat) (s0 : State) : Ends s0 (execPageFetchComplete ctx sq layer page s0) := by
  unfold execPageFetchComplete
  repeat' (first
    | with_reducible exact Keeps.refl _
    | (with_reducible apply ok_ends)
    | (with_reducible apply Keeps.step (storeLayout_keeps ..))
    | (with_reducible apply Keeps.step (setBurstErr_keeps ..))
    | (with_reducible apply Keeps.step (cntAdd_keeps ..))
    | (with_reducible apply Keeps.step (modPage_keeps ..))
    | (extract_lets +onlyGivenNames x)
    | split)

theorem execDemoteComplete_ends (ctx : Nat) (sq : Nat) (layer : Nat) (page : Nat) (s0 : State) : Ends s0 (execDemoteComplete ctx sq layer page s0) := by
  unfold execDemoteComplete
  repeat' (first
    | with_reducible exact Keeps.refl _
    | (with_reducible apply ok_ends)
    | (with_reducible apply Keeps.step (modPage_keeps ..))
    | (with_reducible apply Keeps.step (ctxCnt_keeps ..))
    | (with_reducible apply Keeps.step (cntAdd_keeps ..))
    | (extract_lets +onlyGivenNames x)
    | (with_reducible apply Ends.ite)
    | split)

theorem execStageFetch_ends (ctx : Nat) (layer : Nat) (s0 : State) : Ends s0 (execStageFetch ctx layer s0) := by
  unfold execStageFetch
  repeat' (first
    | with_reducible exact Keeps.refl _
    | (with_reducible apply ok_ends)
    | (with_reducible apply Keeps.step (stageLayer_keeps ..)))

theorem chartEnable_keeps (on : Bool) (s0 : State) : Keeps s0 (chartEnable on s0) := by
  unfold chartEnable
  repeat' (first
    | with_reducible exact Keeps.refl _
    | with_reducible assumption
    | (with_reducible apply Keeps.step (modChart_keeps ..))
    | (with_reducible apply Keeps.step (swapNow_keeps ..))
    | (with_reducible apply Keeps.step (pumpQueries_keeps ..))
    | (extract_lets +onlyGivenNames x; refine Keeps.cutK (t := x) ?_ ?_ <;> first | (intro _; clear_value x) | subst x)
    | (extract_lets +onlyGivenNames x)
    | (with_reducible apply Keeps.ite)
    | split)

theorem restartCtx_keeps (s0 : State) : Keeps s0 (restartCtx s0) := by
  unfold restartCtx
  repeat' (first
    | with_reducible exact Keeps.refl _
    | (with_reducible apply Keeps.step (modCtx_keeps ..)))

theorem execSlotEnd_ends (b : Bool) (i : Nat) (s0 : State) : Ends s0 (execSlotEnd b i s0) := by
  unfold execSlotEnd
  repeat' (first
    | with_reducible exact Keeps.refl _
    | (with_reducible apply ok_ends)
    | (with_reducible apply Keeps.step (endSlot_keeps ..))
    | (with_reducible apply Keeps.step (advanceTo_keeps ..))
    | split)

theorem execChartEnable_ends (p : Path) (on : Bool) (s0 : State) : Ends s0 (execChartEnable p on s0) := by
  unfold execChartEnable
  repeat' (first
    | with_reducible exact Keeps.refl _
    | (with_reducible apply Ends.step (regRow_ends _ _ _ _ _ ?_))
    | (with_reducible apply Keeps.step (chartEnable_keeps ..))
    | intro _)

theorem execChartSwapRequest_ends (p : Path) (s0 : State) : Ends s0 (execChartSwapRequest p s0) := by
  unfold execChartSwapRequest
  repeat' (first
    | with_reducible exact Keeps.refl _
    | (with_reducible apply Ends.step (regRow_ends _ _ _ _ _ ?_))
    | (with_reducible apply Keeps.step (swapRequest_keeps ..))
    | intro _)

theorem coreMarks_keeps (k : Nat) (code : Code) (s0 : State) : Keeps s0 (coreMarks k code s0) := by
  unfold coreMarks
  repeat' (first
    | with_reducible exact Keeps.refl _
    | (with_reducible apply Keeps.step (draw_keeps ..))
    | (with_reducible apply Keeps.step (cntAdd_keeps ..))
    | (with_reducible apply Keeps.step (modCore_keeps ..))
    | (with_reducible apply Keeps.step (advisory_keeps ..))
    | (extract_lets +onlyGivenNames x)
    | (with_reducible apply Keeps.ite))

theorem execJobFault_ends (n : Nat) (k : Nat) (code : Code) (s0 : State) : Ends s0 (execJobFault n k code s0) := by
  unfold execJobFault
  repeat' (first
    | with_reducible exact Keeps.refl _
    | (with_reducible apply ok_ends)
    | (with_reducible apply Keeps.step (jobFault_keeps ..))
    | (with_reducible apply Keeps.step (coreMarks_keeps ..))
    | (extract_lets +onlyGivenNames x)
    | split
    | (simp +zetaDelta only []))

theorem execSyncDeadlock_ends (n : Nat) (s0 : State) : Ends s0 (execSyncDeadlock n s0) := by
  unfold execSyncDeadlock
  repeat' (first
    | with_reducible exact Keeps.refl _
    | (with_reducible apply ok_ends)
    | (with_reducible apply Keeps.step (jobFault_keeps ..))
    | (with_reducible apply Ends.ite))

theorem execContextRestart_ends (p : Path) (s0 : State) : Ends s0 (execContextRestart p s0) := by
  unfold execContextRestart
  repeat' (first
    | with_reducible exact Keeps.refl _
    | (with_reducible apply Ends.step (regRow_ends _ _ _ _ _ ?_))
    | (with_reducible apply Keeps.step (restartCtx_keeps ..))
    | intro _)

theorem execCycleStart_ends (s0 : State) : Ends s0 (execCycleStart s0) := by
  unfold execCycleStart
  repeat' (first
    | with_reducible exact Keeps.refl _
    | (with_reducible apply ok_ends)
    | (with_reducible apply Keeps.step (cycleAt_keeps ..))
    | (with_reducible apply Keeps.step (advanceTo_keeps ..))
    | (with_reducible apply Ends.ite)
    | split)

theorem execSlotStart_ends (b : Bool) (i : Nat) (s0 : State) : Ends s0 (execSlotStart b i s0) := by
  unfold execSlotStart
  repeat' (first
    | with_reducible exact Keeps.refl _
    | (with_reducible apply ok_ends)
    | (with_reducible apply Keeps.step (slotDue_keeps ..))
    | (with_reducible apply Keeps.step (advanceTo_keeps ..))
    | split)

theorem finishTask_keeps (n : Nat) (task : Nat) (k : Nat) (s0 : State) : Keeps s0 (finishTask n task k s0) := by
  unfold finishTask
  repeat' (first
    | with_reducible exact Keeps.refl _
    | with_reducible assumption
    | (with_reducible apply Keeps.step (modCore_keeps ..))
    | (with_reducible apply Keeps.step (modCtx_keeps ..))
    | (with_reducible apply Keeps.step (completeStep_keeps ..))
    | (with_reducible apply Keeps.step (issueTasks_keeps ..))
    | (extract_lets +onlyGivenNames x; refine Keeps.cutK (t := x) ?_ ?_ <;> first | (intro _; clear_value x) | subst x)
    | (with_reducible apply Keeps.ite)
    | split)

theorem execTaskComplete_ends (n : Nat) (task : Nat) (s0 : State) : Ends s0 (execTaskComplete n task s0) := by
  unfold execTaskComplete
  repeat' (first
    | with_reducible exact Keeps.refl _
    | (with_reducible apply ok_ends)
    | (with_reducible apply Keeps.step (finishTask_keeps ..))
    | (with_reducible apply Ends.ite)
    | split)

theorem execReplicaCorrection_ends (s0 : State) : Ends s0 (execReplicaCorrection s0) := by
  unfold execReplicaCorrection
  repeat' (first
    | with_reducible exact Keeps.refl _
    | (with_reducible apply ok_ends)
    | (with_reducible apply Keeps.step (stepReplica_keeps ..))
    | (with_reducible apply Ends.ite))

theorem writeGrpCfg_keeps (w : Word) (s0 : State) : Keeps s0 (writeGrpCfg w s0) := by
  unfold writeGrpCfg
  repeat' (first
    | with_reducible exact Keeps.refl _
    | with_reducible assumption
    | (with_reducible apply Keeps.step (modGrp_keeps ..))
    | (with_reducible apply Keeps.step (modStrait_keeps ..))
    | (extract_lets +onlyGivenNames x; refine Keeps.cutK (t := x) ?_ ?_ <;> first | (intro _; clear_value x) | subst x)
    | (extract_lets +onlyGivenNames x)
    | (with_reducible apply Keeps.ite))

theorem writeMemCfg_keeps (w : Word) (s0 : State) : Keeps s0 (writeMemCfg w s0) := by
  unfold writeMemCfg
  repeat' (first
    | with_reducible exact Keeps.refl _
    | with_reducible assumption
    | (with_reducible apply Keeps.step (sendFailed_keeps ..))
    | (with_reducible apply Keeps.step (outOfStep_keeps ..))
    | (with_reducible apply Keeps.step (dropMsgs_keeps ..))
    | (with_reducible apply Keeps.step (modMember_keeps ..))
    | (extract_lets +onlyGivenNames x; refine Keeps.cutK (t := x) ?_ ?_ <;> first | (intro _; clear_value x) | subst x)
    | (extract_lets +onlyGivenNames x)
    | (with_reducible apply Keeps.ite))

theorem giveRecv_keeps (o : OpenRecv) (d : List Byte) (s0 : State) : Keeps s0 (giveRecv o d s0) := by
  unfold giveRecv
  repeat' (first
    | with_reducible exact Keeps.refl _
    | (with_reducible apply Keeps.step (cntAdd_keeps ..))
    | (with_reducible apply Keeps.step (jobFault_keeps ..))
    | (with_reducible apply Keeps.step (writeWin_keeps ..))
    | (with_reducible apply Keeps.step (modCtx_keeps ..))
    | (with_reducible apply Keeps.step (startDue_keeps ..))
    | (with_reducible apply Keeps.step (checkFetch_keeps ..))
    | (with_reducible apply Keeps.step (modCore_keeps ..))
    | (with_reducible refine Keeps.snd (by assumption) ?_)
    | (with_reducible apply Keeps.ite)
    | split)

theorem newSession_keeps (n : Nat) (m : Nat) (x : Nat) (s0 : State) : Keeps s0 (newSession n m x s0) := by
  unfold newSession
  repeat' (first
    | with_reducible exact Keeps.refl _
    | (with_reducible apply Keeps.step (modMember_keeps ..)))

theorem takeAck_keeps (n : Nat) (m : Nat) (ack : Nat) (s0 : State) : Keeps s0 (takeAck n m ack s0) := by
  unfold takeAck
  repeat' (first
    | with_reducible exact Keeps.refl _
    | with_reducible assumption
    | (with_reducible apply Keeps.step (modMember_keeps ..))
    | (with_reducible apply Keeps.step (pumpSegs_keeps ..))
    | (with_reducible apply Keeps.step (settleMsgs_keeps ..))
    | (extract_lets +onlyGivenNames x; refine Keeps.cutK (t := x) ?_ ?_ <;> first | (intro _; clear_value x) | subst x)
    | (extract_lets +onlyGivenNames x)
    | (with_reducible apply Keeps.ite))

theorem bufFull_keeps (s0 : State) : Keeps s0 (bufFull s0) := by
  unfold bufFull
  repeat' (first
    | with_reducible exact Keeps.refl _
    | with_reducible assumption
    | (with_reducible apply Keeps.step (cntAdd_keeps ..))
    | (with_reducible apply Keeps.step (advisory_keeps ..))
    | (with_reducible apply Keeps.step (modStrait_keeps ..))
    | (extract_lets +onlyGivenNames x; refine Keeps.cutK (t := x) ?_ ?_ <;> first | (intro _; clear_value x) | subst x)
    | (extract_lets +onlyGivenNames x)
    | (with_reducible apply Keeps.ite))

theorem takeData_keeps (g : Nat) (m : Nat) (tag : Nat) (d : List Byte) (s0 : State) : Keeps s0 (takeData g m tag d s0) := by
  unfold takeData
  repeat' (first
    | with_reducible exact Keeps.refl _
    | (with_reducible apply Keeps.step (giveRecv_keeps ..))
    | (with_reducible apply Keeps.step (modStrait_keeps ..))
    | split)

theorem straitWake_keeps (s0 : State) : Keeps s0 (straitWake s0) := by
  unfold straitWake
  repeat' (first
    | with_reducible exact Keeps.refl _
    | (with_reducible apply Keeps.step (psExit_keeps ..))
    | (with_reducible apply Keeps.step (psReverse_keeps ..))
    | (with_reducible apply Keeps.ite))

theorem answerSync_keeps (n : Nat) (m : Nat) (time : Nat) (s0 : State) : Keeps s0 (answerSync n m time s0) := by
  unfold answerSync
  repeat' (first
    | with_reducible exact Keeps.refl _
    | (with_reducible apply Keeps.step (sendMsg_keeps ..)))

theorem takeReply_keeps (n : Nat) (m : Nat) (p : List Byte) (s0 : State) : Keeps s0 (takeReply n m p s0) := by
  unfold takeReply
  repeat' (first
    | with_reducible exact Keeps.refl _
    | (with_reducible apply Keeps.step (outOfStep_keeps ..))
    | (with_reducible apply Keeps.step (modMember_keeps ..))
    | (extract_lets +onlyGivenNames x)
    | (with_reducible apply Keeps.ite))

theorem deliverMsg_keeps (n : Nat) (g : Segment) (d : List Byte) (s0 : State) : Keeps s0 (deliverMsg n g d s0) := by
  unfold deliverMsg
  repeat' (first
    | with_reducible exact Keeps.refl _
    | (with_reducible apply Keeps.step (takeData_keeps ..))
    | (with_reducible apply Keeps.step (straitWake_keeps ..))
    | (with_reducible apply Keeps.step (acceptMember_keeps ..))
    | (with_reducible apply Keeps.step (mergeGot_keeps ..))
    | (with_reducible apply Keeps.step (cntAdd_keeps ..))
    | (with_reducible apply Keeps.step (answerSync_keeps ..))
    | (with_reducible apply Keeps.step (takeReply_keeps ..))
    | (with_reducible apply Keeps.ite)
    | split)

theorem acceptSeg_keeps (n : Nat) (g : Segment) (s0 : State) : Keeps s0 (acceptSeg n g s0) := by
  unfold acceptSeg
  repeat' (first
    | with_reducible exact Keeps.refl _
    | with_reducible assumption
    | (with_reducible apply Keeps.step (cntAdd_keeps ..))
    | (with_reducible apply Keeps.step (modMember_keeps ..))
    | (with_reducible apply Keeps.step (deliverMsg_keeps ..))
    | (with_reducible apply Keeps.step (sendAck_keeps ..))
    | (extract_lets +onlyGivenNames x; refine Keeps.cutK (t := x) ?_ ?_ <;> first | (intro _; clear_value x) | subst x)
    | (extract_lets +onlyGivenNames x)
    | (with_reducible apply Keeps.ite))

theorem takeSeg_keeps (n : Nat) (g : Segment) (s0 : State) : Keeps s0 (takeSeg n g s0) := by
  unfold takeSeg
  repeat' (first
    | with_reducible exact Keeps.refl _
    | with_reducible assumption
    | (with_reducible apply Keeps.step (newSession_keeps ..))
    | (with_reducible apply Keeps.step (takeAck_keeps ..))
    | (with_reducible apply Keeps.step (bufFull_keeps ..))
    | (with_reducible apply Keeps.step (acceptSeg_keeps ..))
    | (with_reducible apply Keeps.step (cntAdd_keeps ..))
    | (with_reducible apply Keeps.step (modMember_keeps ..))
    | (extract_lets +onlyGivenNames x; refine Keeps.cutK (t := x) ?_ ?_ <;> first | (intro _; clear_value x) | subst x)
    | (extract_lets +onlyGivenNames x)
    | (with_reducible apply Keeps.ite))

theorem execSyncInterval_ends (s0 : State) : Ends s0 (execSyncInterval s0) := by
  unfold execSyncInterval
  repeat' (first
    | with_reducible exact Keeps.refl _
    | (with_reducible apply ok_ends)
    | (with_reducible apply Keeps.step (syncAll_keeps ..)))

theorem execStraitMemCfgWrite_ends (p : Path) (off : Nat) (w : Word) (s0 : State) : Ends s0 (execStraitMemCfgWrite p off w s0) := by
  unfold execStraitMemCfgWrite
  repeat' (first
    | with_reducible exact Keeps.refl _
    | (with_reducible apply Ends.step (regRow_ends _ _ _ _ _ ?_))
    | (with_reducible apply Keeps.step (writeMemCfg_keeps ..))
    | (with_reducible apply Keeps.step (modMember_keeps ..))
    | (with_reducible apply ok_ends)
    | intro _
    | (with_reducible apply Ends.ite))

theorem straitRow_ends (type : Nat) (m : StraitMsg) (s0 : State) : Ends s0 (straitRow type m s0) := by
  unfold straitRow
  repeat' (first
    | with_reducible exact Keeps.refl _
    | (with_reducible apply ok_ends)
    | (with_reducible apply Keeps.step (cntAdd_keeps ..))
    | (with_reducible apply Keeps.step (takeSeg_keeps ..))
    | (with_reducible apply Ends.ite)
    | split)

theorem execMemberStale_ends (n : Nat) (m : Nat) (s0 : State) : Ends s0 (execMemberStale n m s0) := by
  unfold execMemberStale
  repeat' (first
    | with_reducible exact Keeps.refl _
    | (with_reducible apply ok_ends)
    | (with_reducible apply Keeps.step (outOfStep_keeps ..))
    | (with_reducible apply Keeps.step (advanceMaster_keeps ..))
    | split)

theorem execStraitPortWrite_ends (p : Path) (off : Nat) (w : Word) (s0 : State) : Ends s0 (execStraitPortWrite p off w s0) := by
  unfold execStraitPortWrite
  repeat' (first
    | with_reducible exact Keeps.refl _
    | (with_reducible apply Ends.step (regRow_ends _ _ _ _ _ ?_))
    | (with_reducible apply Keeps.step (storeRw_keeps ..))
    | (with_reducible apply ok_ends)
    | intro _
    | (with_reducible apply Ends.ite))

theorem execStraitAckTimer_ends (n : Nat) (m : Nat) (s0 : State) : Ends s0 (execStraitAckTimer n m s0) := by
  unfold execStraitAckTimer
  repeat' (first
    | with_reducible exact Keeps.refl _
    | (with_reducible apply ok_ends)
    | (with_reducible apply Keeps.step (sendAck_keeps ..))
    | (with_reducible apply Ends.ite))

theorem execAckMessage_ends (m : StraitMsg) (s0 : State) : Ends s0 (execAckMessage m s0) := by
  unfold execAckMessage
  repeat' (first
    | with_reducible exact Keeps.refl _
    | (with_reducible apply Ends.step (straitRow_ends ..)))

theorem execStraitGrpCfgWrite_ends (p : Path) (off : Nat) (w : Word) (s0 : State) : Ends s0 (execStraitGrpCfgWrite p off w s0) := by
  unfold execStraitGrpCfgWrite
  repeat' (first
    | with_reducible exact Keeps.refl _
    | (with_reducible apply Ends.step (regRow_ends _ _ _ _ _ ?_))
    | (with_reducible apply Keeps.step (writeGrpCfg_keeps ..))
    | (with_reducible apply ok_ends)
    | intro _
    | (with_reducible apply Ends.ite))

theorem execDataMessage_ends (m : StraitMsg) (s0 : State) : Ends s0 (execDataMessage m s0) := by
  unfold execDataMessage
  repeat' (first
    | with_reducible exact Keeps.refl _
    | (with_reducible apply Ends.step (straitRow_ends ..)))

theorem execSyncMessage_ends (m : StraitMsg) (s0 : State) : Ends s0 (execSyncMessage m s0) := by
  unfold execSyncMessage
  repeat' (first
    | with_reducible exact Keeps.refl _
    | (with_reducible apply Ends.step (straitRow_ends ..)))

theorem markDown_keeps (n : Nat) (m : Nat) (s0 : State) : Keeps s0 (markDown n m s0) := by
  unfold markDown
  repeat' (first
    | with_reducible exact Keeps.refl _
    | (with_reducible apply Keeps.step (advisory_keeps ..))
    | (with_reducible apply Keeps.step (cntAdd_keeps ..))
    | (with_reducible apply Keeps.step (dropMsgs_keeps ..))
    | (with_reducible apply Keeps.step (outOfStep_keeps ..)))

theorem execHeldMessageExpiry_ends (k : Nat) (s0 : State) : Ends s0 (execHeldMessageExpiry k s0) := by
  unfold execHeldMessageExpiry
  repeat' (first
    | with_reducible exact Keeps.refl _
    | (with_reducible apply ok_ends)
    | (with_reducible apply Keeps.step (advanceMaster_keeps ..))
    | (with_reducible apply Keeps.step (cntAdd_keeps ..))
    | (with_reducible apply Keeps.step (modStrait_keeps ..))
    | split)

theorem execQueryMessage_ends (m : StraitMsg) (s0 : State) : Ends s0 (execQueryMessage m s0) := by
  unfold execQueryMessage
  repeat' (first
    | with_reducible exact Keeps.refl _
    | (with_reducible apply Ends.step (straitRow_ends ..)))

theorem execResultMessage_ends (m : StraitMsg) (s0 : State) : Ends s0 (execResultMessage m s0) := by
  unfold execResultMessage
  repeat' (first
    | with_reducible exact Keeps.refl _
    | (with_reducible apply Ends.step (straitRow_ends ..)))

theorem execSyncReplyMessage_ends (m : StraitMsg) (s0 : State) : Ends s0 (execSyncReplyMessage m s0) := by
  unfold execSyncReplyMessage
  repeat' (first
    | with_reducible exact Keeps.refl _
    | (with_reducible apply Ends.step (straitRow_ends ..)))

theorem execStraitRetransmit_ends (n : Nat) (m : Nat) (s0 : State) : Ends s0 (execStraitRetransmit n m s0) := by
  unfold execStraitRetransmit
  repeat' (first
    | with_reducible exact Keeps.refl _
    | with_reducible assumption
    | (with_reducible apply ok_ends)
    | (with_reducible apply Keeps.step (modMember_keeps ..))
    | (with_reducible apply Keeps.step (cntAdd_keeps ..))
    | (with_reducible apply Keeps.step (sendSeg_keeps ..))
    | (with_reducible apply Keeps.step (markDown_keeps ..))
    | (with_reducible apply Keeps.step (Keeps.foldl ?_ _ _))
    | (extract_lets +onlyGivenNames x; refine Ends.cutK (t := x) ?_ ?_ <;> first | (intro _; clear_value x) | subst x)
    | (extract_lets +onlyGivenNames x)
    | intro _
    | (with_reducible apply Ends.ite))

end Sys2Proof.Machine
end

