-- ==== Sys2Proof/Laws/KeepsCore.lean ====
section
/-! SUPPORT. Every definition of CoreBase, Sfu, Ocm, Xmc, RegView, MoveOps, MatrixOps that answers a state keeps the queue, the canonical form of the
memories and the islands' rule (the cores, the memory controllers and the registers as read). -/
namespace Sys2Proof.Machine
open Sys2Proof

theorem putRun_keeps (k : Nat) (r : Run) (s0 : State) : Keeps s0 (putRun k r s0) := by
  unfold putRun
  repeat' (first
    | with_reducible exact Keeps.refl _
    | (with_reducible apply Keeps.step (modCore_keeps ..)))

theorem advanceFrom_keeps (k : Nat) (pc : Nat) (s0 : State) : Keeps s0 (advanceFrom k pc s0) := by
  unfold advanceFrom
  repeat' (first
    | with_reducible exact Keeps.refl _
    | (with_reducible apply Keeps.step (putRun_keeps ..))
    | (with_reducible apply Keeps.step (jobFault_keeps ..))
    | (with_reducible apply Keeps.ite)
    | split)

theorem onCore_ends {s0 : State} (k : Nat) (s : State) (f : Run → Ctx → Step → Res) (hs : Keeps s0 s)
    (hf : ∀ r c st, Ends s0 (f r c st)) : Ends s0 (onCore k s f) := by
  unfold onCore
  repeat' (first | exact hf _ _ _ | exact Ends.refused _ | exact ok_ends hs | split)

theorem coreFault_ends (k : Nat) (r : Run) (code : Code) (s0 : State) : Ends s0 (coreFault k r code s0) := ok_ends (jobFault_keeps ..)

theorem afterChecks_ends {s0 : State} (l : List (Option Res)) (f : Unit → Res) (hl : AllOpt s0 l) (hf : ∀ u, Ends s0 (f u)) :
    Ends s0 (afterChecks l f) := by
  unfold afterChecks
  induction hl with
  | nil => exact hf ()
  | cons h _ ih =>
    rename_i o _ _
    cases o with
    | none => exact ih
    | some r => exact h.ends r rfl

theorem insn_ends {s0 : State} (k : Nat) (l1 bad : Bool) (s : State) (f : Run → Ctx → Step → Res) (hs : Keeps s0 s)
    (hf : ∀ r c st, Ends s0 (f r c st)) : Ends s0 (insn k l1 bad s f) := by
  unfold insn
  refine onCore_ends _ _ _ hs ?_
  intro r c st
  repeat' (first | exact hf _ _ _ | (with_reducible apply Ends.step (coreFault_ends ..)) | assumption | split)

theorem modRunOf_keeps (k : Nat) (f : Run → Run) (s0 : State) : Keeps s0 (modRunOf k f s0) := by
  unfold modRunOf
  repeat' (first
    | with_reducible exact Keeps.refl _
    | (with_reducible apply Keeps.step (modCore_keeps ..)))

theorem stay_ends (k : Nat) (w : Wait) (s0 : State) : Ends s0 (stay k w s0) := by
  unfold stay
  repeat' (first
    | with_reducible exact Keeps.refl _
    | (with_reducible apply ok_ends)
    | (with_reducible apply Keeps.step (modRunOf_keeps ..)))

theorem chkCount_opt (k : Nat) (r : Run) (n : Nat) (lo : Nat) (hi : Nat) (s0 : State) : OptEnds s0 (chkCount k r n lo hi s0) := by
  unfold chkCount
  repeat' (first
    | with_reducible exact Keeps.refl _
    | (with_reducible apply Ends.step (coreFault_ends ..))
    | exact OptEnds.none
    | (with_reducible apply OptEnds.some)
    | split)

theorem chkAlign_opt (k : Nat) (r : Run) (a : Nat) (n : Nat) (s0 : State) : OptEnds s0 (chkAlign k r a n s0) := by
  unfold chkAlign
  repeat' (first
    | with_reducible exact Keeps.refl _
    | (with_reducible apply Ends.step (coreFault_ends ..))
    | exact OptEnds.none
    | (with_reducible apply OptEnds.some)
    | split)

theorem chkRd_opt (k : Nat) (r : Run) (st : Step) (x : Ext) (s0 : State) : OptEnds s0 (chkRd k r st x s0) := by
  unfold chkRd
  repeat' (first
    | with_reducible exact Keeps.refl _
    | (with_reducible apply Ends.step (coreFault_ends ..))
    | (with_reducible apply Ends.step (stay_ends ..))
    | exact OptEnds.none
    | (with_reducible apply OptEnds.some)
    | split)

theorem chkWr_opt (k : Nat) (r : Run) (x : Ext) (s0 : State) : OptEnds s0 (chkWr k r x s0) := by
  unfold chkWr
  repeat' (first
    | with_reducible exact Keeps.refl _
    | (with_reducible apply Ends.step (coreFault_ends ..))
    | (with_reducible apply Ends.step (stay_ends ..))
    | exact OptEnds.none
    | (with_reducible apply OptEnds.some)
    | split)

theorem refetchPlace_keeps (p : Bool × Nat) (s0 : State) : Keeps s0 (refetchPlace p s0) := by
  unfold refetchPlace
  repeat' (first
    | with_reducible exact Keeps.refl _
    | (with_reducible apply Keeps.step (refetch_keeps _ _ _ ?_))
    | (with_reducible apply Keeps.step (xmStore_keeps ..))
    | (with_reducible apply Keeps.step (cntAdd_keeps ..))
    | (with_reducible apply Keeps.step (ocmStore_keeps ..))
    | (with_reducible apply Keeps.step (ocmClearErr_keeps ..))
    | intro _
    | (with_reducible apply Keeps.ite)
    | split)

theorem readServed_keeps (fuel k n a len : Nat) (s0 : State) : Keeps s0 (readServed fuel k n a len s0).2 := by
  induction fuel generalizing s0 with
  | zero => exact readWin_keeps ..
  | succ m ih =>
    unfold readServed
    have h1 := readWin_keeps k n a len s0
    split
    · have h2 := Keeps.snd ‹_› h1
      repeat' (first
        | with_reducible exact h2
        | exact h2.trans ((refetchPlace_keeps ..).trans (ih _))
        | split)
    · exact h1

theorem askLayer_keeps (n : Nat) (a : Nat) (s0 : State) : Keeps s0 (askLayer n a s0) := by
  unfold askLayer
  repeat' (first
    | with_reducible exact Keeps.refl _
    | (with_reducible apply Keeps.step (requestLayer_keeps ..))
    | (extract_lets +onlyGivenNames x)
    | (with_reducible apply Keeps.ite)
    | split)

theorem readFault_keeps (k : Nat) (n : Nat) (code : Code) (o : Owner) (s0 : State) : Keeps s0 (readFault k n code o s0) := by
  unfold readFault
  repeat' (first
    | with_reducible exact Keeps.refl _
    | with_reducible assumption
    | (with_reducible apply Keeps.step (jobFault_keeps ..))
    | (with_reducible apply Keeps.step (seqLost_keeps ..))
    | (extract_lets +onlyGivenNames x; refine Keeps.cutK (t := x) ?_ ?_ <;> first | (intro _; clear_value x) | subst x)
    | (with_reducible apply Keeps.ite)
    | split)

theorem rdThen_ends {s0 : State} (k n a len : Nat) (s : State) (f : List Byte → State → Res) (hs : Keeps s0 s)
    (hf : ∀ d t, Keeps s0 t → Ends s0 (f d t)) : Ends s0 (rdThen k n a len s f) := by
  unfold rdThen
  split
  · exact hf _ _ hs
  · have h1 : Keeps s0 (readServed (len / 8 + 2) k n a len (askLayer n a s)).2 :=
      hs.trans ((askLayer_keeps ..).trans (readServed_keeps ..))
    split
    · exact hf _ _ (Keeps.snd (by assumption) h1)
    · exact ok_ends ((Keeps.snd (by assumption) h1).trans (readFault_keeps ..))
    · exact Ends.trans (Keeps.snd (by assumption) h1) (stay_ends ..)

theorem wrThen_ends {s0 : State} (k n a : Nat) (d : List Byte) (s : State) (f : State → Res) (hs : Keeps s0 s)
    (hf : ∀ t, Keeps s0 t → Ends s0 (f t)) : Ends s0 (wrThen k n a d s f) := by
  unfold wrThen
  have h1 : Keeps s0 (writeWin k n a d s).2 := hs.trans (writeWin_keeps ..)
  split
  · exact hf _ (Keeps.snd (by assumption) h1)
  · exact ok_ends ((Keeps.snd (by assumption) h1).trans (jobFault_keeps ..))

theorem advance_keeps (k : Nat) (s0 : State) : Keeps s0 (advance k s0) := by
  unfold advance
  repeat' (first
    | with_reducible exact Keeps.refl _
    | (with_reducible apply Keeps.step (advanceFrom_keeps ..))
    | split)

theorem jumpTo_ends (k : Nat) (r : Run) (t : Nat) (s0 : State) : Ends s0 (jumpTo k r t s0) := by
  unfold jumpTo
  repeat' (first
    | with_reducible exact Keeps.refl _
    | (with_reducible apply Ends.step (coreFault_ends ..))
    | (with_reducible apply ok_ends)
    | (with_reducible apply Keeps.step (putRun_keeps ..))
    | (extract_lets +onlyGivenNames x)
    | (with_reducible apply Ends.ite))

theorem execReservedClassFetch_ends (k : Nat) (cls : BitVec 4) (s0 : State) : Ends s0 (execReservedClassFetch k cls s0) := by
  unfold execReservedClassFetch
  repeat' (first
    | with_reducible exact Keeps.refl _
    | (with_reducible apply onCore_ends)
    | (with_reducible apply Ends.step (coreFault_ends ..))
    | exact Ends.refused _
    | intro _
    | (with_reducible apply Ends.ite))

theorem writeCompat1_keeps (w : Word) (s0 : State) : Keeps s0 (writeCompat1 w s0) := by
  unfold writeCompat1
  repeat' (first
    | with_reducible exact Keeps.refl _
    | (with_reducible apply Keeps.step (modSfu_keeps ..))
    | (with_reducible apply Keeps.ite))

theorem sfuBusy_keeps (s0 : State) : Keeps s0 (sfuBusy s0) := by
  unfold sfuBusy
  repeat' (first
    | with_reducible exact Keeps.refl _
    | (with_reducible apply Keeps.step (advisory_keeps ..))
    | (with_reducible apply Keeps.step (cntAdd_keeps ..)))

theorem writeTblData_keeps (w : Word) (s0 : State) : Keeps s0 (writeTblData w s0) := by
  unfold writeTblData
  repeat' (first
    | with_reducible exact Keeps.refl _
    | (with_reducible apply Keeps.step (sfuBusy_keeps ..))
    | (with_reducible apply Keeps.step (modSfu_keeps ..))
    | (with_reducible apply Keeps.ite))

theorem tblCommit_keeps (s0 : State) : Keeps s0 (tblCommit s0) := by
  unfold tblCommit
  repeat' (first
    | with_reducible exact Keeps.refl _
    | with_reducible assumption
    | (with_reducible apply Keeps.step (modSfu_keeps ..))
    | (with_reducible apply Keeps.step (sfuBusy_keeps ..))
    | (with_reducible apply Keeps.step (cntAdd_keeps ..))
    | (with_reducible apply Keeps.step (advisory_keeps ..))
    | (extract_lets +onlyGivenNames x; refine Keeps.cutK (t := x) ?_ ?_ <;> first | (intro _; clear_value x) | subst x)
    | (extract_lets +onlyGivenNames x)
    | (with_reducible apply Keeps.ite)
    | split)

theorem readTblData_keeps (s0 : State) : Keeps s0 (readTblData s0) := by
  unfold readTblData
  repeat' (first
    | with_reducible exact Keeps.refl _
    | (with_reducible apply Keeps.step (modSfu_keeps ..)))

theorem execSfuTblDataWrite_ends (p : Path) (w : Word) (s0 : State) : Ends s0 (execSfuTblDataWrite p w s0) := by
  unfold execSfuTblDataWrite
  repeat' (first
    | with_reducible exact Keeps.refl _
    | (with_reducible apply Ends.step (regRow_ends _ _ _ _ _ ?_))
    | (with_reducible apply Keeps.step (writeTblData_keeps ..))
    | intro _)

theorem execSfuCompat1Write_ends (p : Path) (w : Word) (s0 : State) : Ends s0 (execSfuCompat1Write p w s0) := by
  unfold execSfuCompat1Write
  repeat' (first
    | with_reducible exact Keeps.refl _
    | (with_reducible apply Ends.step (regRow_ends _ _ _ _ _ ?_))
    | (with_reducible apply Keeps.step (writeCompat1_keeps ..))
    | intro _)

theorem execSfuTblDataRead_ends (p : Path) (s0 : State) : Ends s0 (execSfuTblDataRead p s0) := by
  unfold execSfuTblDataRead
  repeat' (first
    | with_reducible exact Keeps.refl _
    | (with_reducible apply ok_ends)
    | (with_reducible apply Keeps.step (emit_keeps ..))
    | (with_reducible apply Keeps.step (readTblData_keeps ..))
    | (with_reducible apply Ends.ite)
    | split)

theorem execSfuTblCommit_ends (p : Path) (s0 : State) : Ends s0 (execSfuTblCommit p s0) := by
  unfold execSfuTblCommit
  repeat' (first
    | with_reducible exact Keeps.refl _
    | (with_reducible apply Ends.step (regRow_ends _ _ _ _ _ ?_))
    | (with_reducible apply Keeps.step (tblCommit_keeps ..))
    | intro _)

theorem cfgRefused_keeps (s0 : State) : Keeps s0 (cfgRefused s0) := by
  unfold cfgRefused
  repeat' (first
    | with_reducible exact Keeps.refl _
    | (with_reducible apply Keeps.step (advisory_keeps ..)))

theorem writeDiag_keeps (w : Word) (s0 : State) : Keeps s0 (writeDiag w s0) := by
  unfold writeDiag
  repeat' (first
    | with_reducible exact Keeps.refl _
    | (with_reducible apply Keeps.step (cfgRefused_keeps ..))
    | (with_reducible apply Keeps.step (modOcm_keeps ..))
    | exact OcmKeep.of fun _ => ⟨rfl, rfl, rfl, rfl⟩
    | (with_reducible apply Keeps.ite))

theorem writeAtoll_keeps (w : Word) (s0 : State) : Keeps s0 (writeAtoll w s0) := by
  unfold writeAtoll
  repeat' (first
    | with_reducible exact Keeps.refl _
    | with_reducible assumption
    | (with_reducible apply Keeps.step (cfgRefused_keeps ..))
    | (with_reducible apply Keeps.step (modOcm_keeps ..))
    | (with_reducible apply Keeps.step (wipeAtoll_keeps ..))
    | (with_reducible apply Keeps.step (ocmZero_keeps ..))
    | exact OcmKeep.of fun _ => ⟨rfl, rfl, rfl, rfl⟩
    | (extract_lets +onlyGivenNames x; refine Keeps.cutK (t := x) ?_ ?_ <;> first | (intro _; clear_value x) | subst x)
    | (extract_lets +onlyGivenNames x)
    | (with_reducible apply Keeps.ite))

theorem writeFlipSel_keeps (w : Word) (s0 : State) : Keeps s0 (writeFlipSel w s0) := by
  unfold writeFlipSel
  repeat' (first
    | with_reducible exact Keeps.refl _
    | with_reducible assumption
    | (with_reducible apply Keeps.step (storeRw_keeps ..))
    | (with_reducible apply Keeps.step (modOcm_keeps ..))
    | exact OcmKeep.of fun _ => ⟨rfl, rfl, rfl, rfl⟩
    | (extract_lets +onlyGivenNames x; refine Keeps.cutK (t := x) ?_ ?_ <;> first | (intro _; clear_value x) | subst x)
    | (with_reducible apply Keeps.ite))

theorem loseBank_keeps (b : BankId) (s0 : State) : Keeps s0 (loseBank b s0) := by
  unfold loseBank
  repeat' (first
    | with_reducible exact Keeps.refl _
    | (with_reducible apply Keeps.step (ocmZero_keeps ..))
    | (with_reducible apply Keeps.step (modOcm_keeps ..))
    | exact OcmKeep.intro fun o h => by simp only [ocmWf, Bool.and_eq_true] at h ⊢; obtain ⟨⟨⟨h1, h2⟩, h3⟩, h4⟩ := h; refine ⟨⟨⟨?_, ?_⟩, ?_⟩, ?_⟩ <;> first | assumption | rfl | exact smWf_filter _ _ _ ‹_›
    | split)

theorem setBankPwr_keeps (b : BankId) (v : Nat) (s0 : State) : Keeps s0 (setBankPwr b v s0) := by
  unfold setBankPwr
  repeat' (first
    | with_reducible exact Keeps.refl _
    | with_reducible assumption
    | (with_reducible apply Keeps.step (modOcm_keeps ..))
    | (with_reducible apply Keeps.step (setPhys_keeps ..))
    | (with_reducible apply Keeps.step (loseBank_keeps ..))
    | (refine OcmKeep.of fun _ => ?_; split <;> exact ⟨rfl, rfl, rfl, rfl⟩)
    | (extract_lets +onlyGivenNames x; refine Keeps.cutK (t := x) ?_ ?_ <;> first | (intro _; clear_value x) | subst x)
    | (extract_lets +onlyGivenNames x)
    | (with_reducible apply Keeps.ite))

theorem writeBankPwr_keeps (off : Nat) (w : Word) (s0 : State) : Keeps s0 (writeBankPwr off w s0) := by
  unfold writeBankPwr
  repeat' (first
    | with_reducible exact Keeps.refl _
    | (with_reducible apply Keeps.step (advisory_keeps ..))
    | (with_reducible apply Keeps.step (setBankPwr_keeps ..))
    | (with_reducible apply Keeps.step (Keeps.foldl ?_ _ _))
    | (extract_lets +onlyGivenNames x)
    | intro _
    | (with_reducible apply Keeps.ite))

theorem bgtSave_keeps (core : Option Nat) (b : Nat) (i : Nat) (a3 : Nat) (s0 : State) : Keeps s0 (bgtSave core b i a3 s0).2 := by
  fun_induction bgtSave core b i a3 s0
  all_goals repeat' (first
    | with_reducible exact Keeps.refl _
    | (with_reducible refine Keeps.step (by assumption) ?_)
    | (with_reducible apply Keeps.step (owCheck_keeps ..))
    | (with_reducible refine Keeps.snd (by assumption) ?_))

theorem execBankWake_ends (b : BankId) (s0 : State) : Ends s0 (execBankWake b s0) := by
  unfold execBankWake
  repeat' (first
    | with_reducible exact Keeps.refl _
    | (with_reducible apply ok_ends)
    | (with_reducible apply Keeps.step (touchBank_keeps ..))
    | exact Ends.refused _
    | (with_reducible apply Ends.ite))

theorem testFail_keeps (w : OWord) (uncorr : Bool) (s0 : State) : Keeps s0 (testFail w uncorr s0) := by
  unfold testFail
  repeat' (first
    | with_reducible exact Keeps.refl _
    | (with_reducible apply Keeps.step (advisory_keeps ..))
    | (with_reducible apply Keeps.step (modOcm_keeps ..))
    | exact OcmKeep.of fun _ => ⟨rfl, rfl, rfl, rfl⟩)

theorem guardRow_ends (p : Path) (page : Nat) (off : Nat) (w : Word) (f : State → State) (s0 : State) (hf : ∀ b0, Keeps b0 (f b0)) : Ends s0 (guardRow p page off w f s0) := by
  unfold guardRow
  repeat' (first
    | with_reducible exact Keeps.refl _
    | with_reducible assumption
    | (with_reducible apply ok_ends)
    | (with_reducible apply Keeps.step (emit_keeps ..))
    | (with_reducible apply Ends.step (regRow_ends _ _ _ _ _ ?_))
    | (with_reducible apply Ends.ite)
    | split)

theorem setBgt_keeps (core : Option Nat) (v : Bgt) (s0 : State) : Keeps s0 (setBgt core v s0) := by
  unfold setBgt
  repeat' (first
    | with_reducible exact Keeps.refl _
    | (with_reducible apply Keeps.step (modOcm_keeps ..))
    | (refine OcmKeep.of fun _ => ?_; split <;> exact ⟨rfl, rfl, rfl, rfl⟩))

theorem execOcmDiagWrite_ends (p : Path) (w : Word) (s0 : State) : Ends s0 (execOcmDiagWrite p w s0) := by
  unfold execOcmDiagWrite
  repeat' (first
    | with_reducible exact Keeps.refl _
    | (with_reducible apply Ends.step (regRow_ends _ _ _ _ _ ?_))
    | (with_reducible apply Keeps.step (writeDiag_keeps ..))
    | intro _)

theorem execEccFlipmaskArm_ends (p : Path) (w : Word) (s0 : State) : Ends s0 (execEccFlipmaskArm p w s0) := by
  unfold execEccFlipmaskArm
  repeat' (first
    | with_reducible exact Keeps.refl _
    | (with_reducible apply Ends.step (guardRow_ends _ _ _ _ _ _ ?_))
    | (with_reducible apply Keeps.step (writeFlipSel_keeps ..))
    | intro _)

theorem execAtollResize_ends (p : Path) (w : Word) (s0 : State) : Ends s0 (execAtollResize p w s0) := by
  unfold execAtollResize
  repeat' (first
    | with_reducible exact Keeps.refl _
    | (with_reducible apply Ends.step (guardRow_ends _ _ _ _ _ _ ?_))
    | (with_reducible apply Keeps.step (writeAtoll_keeps ..))
    | intro _)

theorem execBankPowerWrite_ends (p : Path) (off : Nat) (w : Word) (s0 : State) : Ends s0 (execBankPowerWrite p off w s0) := by
  unfold execBankPowerWrite
  split
  · with_reducible apply Ends.step (regRow_ends _ _ _ _ _ ?_)
    · with_reducible exact Keeps.refl _
    · intro _
      with_reducible apply Keeps.step (writeBankPwr_keeps ..)
      with_reducible exact Keeps.refl _
  · exact ok_ends (Keeps.refl _)

theorem execAutoRetention_ends (b : BankId) (s0 : State) : Ends s0 (execAutoRetention b s0) := by
  unfold execAutoRetention
  repeat' (first
    | with_reducible exact Keeps.refl _
    | (with_reducible apply ok_ends)
    | (with_reducible apply Keeps.step (setPhys_keeps ..))
    | exact Ends.refused _
    | (with_reducible apply Ends.ite))

theorem bgtRegion_keeps (core : Option Nat) (out : MarchOut) (s0 : State) : Keeps s0 (bgtRegion core out s0) := by
  unfold bgtRegion
  repeat' (first
    | with_reducible exact Keeps.refl _
    | with_reducible assumption
    | (with_reducible apply Keeps.step (setBgt_keeps ..))
    | (with_reducible apply Keeps.step (cntAdd_keeps ..))
    | (with_reducible apply Keeps.step (bgtSave_keeps ..))
    | (with_reducible apply Keeps.step (testFail_keeps ..))
    | (extract_lets +onlyGivenNames x; refine Keeps.cutK (t := x) ?_ ?_ <;> first | (intro _; clear_value x) | subst x)
    | (with_reducible refine Keeps.snd (by assumption) ?_)
    | (extract_lets +onlyGivenNames x)
    | split)

theorem execBgtRegionStart_ends (core : Option Nat) (out : MarchOut) (s0 : State) : Ends s0 (execBgtRegionStart core out s0) := by
  unfold execBgtRegionStart
  repeat' (first
    | with_reducible exact Keeps.refl _
    | (with_reducible apply ok_ends)
    | (with_reducible apply Keeps.step (bgtRegion_keeps ..))
    | exact Ends.refused _
    | (with_reducible apply Ends.ite)
    | split)

theorem armFlip_keeps (ch : Nat) (s0 : State) : Keeps s0 (armFlip ch s0) := by
  unfold armFlip
  repeat' (first
    | with_reducible exact Keeps.refl _
    | (with_reducible apply Keeps.step (modChan_keeps ..)))

theorem writeScrubCtrl_keeps (w : Word) (s0 : State) : Keeps s0 (writeScrubCtrl w s0) := by
  unfold writeScrubCtrl
  repeat' (first
    | with_reducible exact Keeps.refl _
    | with_reducible assumption
    | (with_reducible apply Keeps.step (storeRw_keeps ..))
    | (with_reducible apply Keeps.step (scrubGo_keeps ..))
    | (with_reducible apply Keeps.step (scrubAbort_keeps ..))
    | (extract_lets +onlyGivenNames x; refine Keeps.cutK (t := x) ?_ ?_ <;> first | (intro _; clear_value x) | subst x)
    | (with_reducible apply Keeps.ite))

theorem execScrubAbort_ends (p : Path) (w : Word) (s0 : State) : Ends s0 (execScrubAbort p w s0) := by
  unfold execScrubAbort
  repeat' (first
    | with_reducible exact Keeps.refl _
    | (with_reducible apply Ends.step (regRow_ends _ _ _ _ _ ?_))
    | (with_reducible apply Keeps.step (writeScrubCtrl_keeps ..))
    | intro _)

theorem execXmcTracking_ends (ch : Nat) (rate : Nat) (atEnd : Bool) (s0 : State) : Ends s0 (execXmcTracking ch rate atEnd s0) := by
  unfold execXmcTracking
  repeat' (first
    | with_reducible exact Keeps.refl _
    | with_reducible assumption
    | (with_reducible apply ok_ends)
    | (with_reducible apply Keeps.step (modChan_keeps ..))
    | (with_reducible apply Keeps.step (advisory_keeps ..))
    | exact Ends.refused _
    | (extract_lets +onlyGivenNames x; refine Ends.cutK (t := x) ?_ ?_ <;> first | (intro _; clear_value x) | subst x)
    | (extract_lets +onlyGivenNames x)
    | (with_reducible apply Keeps.ite)
    | (with_reducible apply Ends.ite))

theorem execScrubGo_ends (p : Path) (w : Word) (s0 : State) : Ends s0 (execScrubGo p w s0) := by
  unfold execScrubGo
  repeat' (first
    | with_reducible exact Keeps.refl _
    | (with_reducible apply Ends.step (regRow_ends _ _ _ _ _ ?_))
    | (with_reducible apply Keeps.step (writeScrubCtrl_keeps ..))
    | intro _)

theorem execScrubDone_ends (s0 : State) : Ends s0 (execScrubDone s0) := by
  unfold execScrubDone
  repeat' (first
    | with_reducible exact Keeps.refl _
    | (with_reducible apply ok_ends)
    | (with_reducible apply Keeps.step (endScrub_keeps ..))
    | (with_reducible apply Keeps.step (scrubRead_keeps ..))
    | (with_reducible apply Ends.ite))

theorem execXmcFlipArm_ends (p : Path) (ch : Nat) (s0 : State) : Ends s0 (execXmcFlipArm p ch s0) := by
  unfold execXmcFlipArm
  repeat' (first
    | with_reducible exact Keeps.refl _
    | (with_reducible apply Ends.step (regRow_ends _ _ _ _ _ ?_))
    | (with_reducible apply Keeps.step (armFlip_keeps ..))
    | exact Ends.refused _
    | intro _
    | (with_reducible apply Ends.ite))

theorem readLow_keeps (p : Path) (page : Nat) (off : Nat) (v : Nat) (s0 : State) : Keeps s0 (readLow p page off v s0).2 := by
  unfold readLow
  repeat' (first
    | with_reducible exact Keeps.refl _
    | (with_reducible apply Keeps.step (setLatch_keeps ..)))

theorem readWord_keeps (p : Path) (page : Nat) (off : Nat) (s0 : State) : Keeps s0 (readWord p page off s0).2 := by
  unfold readWord
  repeat' (first
    | with_reducible exact Keeps.refl _
    | (with_reducible apply Keeps.step (readLow_keeps ..))
    | (with_reducible apply Keeps.step (readTblData_keeps ..))
    | split)

theorem readWords_keeps (p : Path) (page : Nat) (a2 : Nat) (a3 : Nat) (s0 : State) : Keeps s0 (readWords p page a2 a3 s0).2 := by
  fun_induction readWords p page a2 a3 s0
  all_goals repeat' (first
    | with_reducible exact Keeps.refl _
    | (with_reducible refine Keeps.step (by assumption) ?_)
    | (with_reducible apply Keeps.step (readWord_keeps ..))
    | (with_reducible refine Keeps.snd (by assumption) ?_))

theorem execCounterLowRead_ends (p : Path) (page : Nat) (off : Nat) (s0 : State) : Ends s0 (execCounterLowRead p page off s0) := by
  unfold execCounterLowRead
  repeat' (first
    | with_reducible exact Keeps.refl _
    | (with_reducible apply ok_ends)
    | (with_reducible apply Keeps.step (emit_keeps ..))
    | (with_reducible apply Keeps.step (readWord_keeps ..))
    | (extract_lets +onlyGivenNames x)
    | (with_reducible apply Ends.ite)
    | split)

theorem execTdstore_ends (k : Nat) (f : IFields) (s0 : State) : Ends s0 (execTdstore k f s0) := by
  unfold execTdstore
  repeat' (first
    | with_reducible exact Keeps.refl _
    | with_reducible assumption
    | (with_reducible apply afterChecks_ends)
    | (with_reducible apply insn_ends)
    | (with_reducible apply Ends.step (stay_ends ..))
    | (with_reducible apply OptEnds.step (chkWr_opt ..))
    | (with_reducible apply wrThen_ends)
    | (with_reducible apply ok_ends)
    | (with_reducible apply Keeps.step (advance_keeps ..))
    | exact AllOpt.nil
    | (with_reducible apply AllOpt.cons)
    | (extract_lets +onlyGivenNames x)
    | intro _
    | (with_reducible apply Ends.ite))

theorem execTdinit_ends (k : Nat) (f : IFields) (s0 : State) : Ends s0 (execTdinit k f s0) := by
  unfold execTdinit
  repeat' (first
    | with_reducible exact Keeps.refl _
    | (with_reducible apply insn_ends)
    | (with_reducible apply Ends.step (stay_ends ..))
    | (with_reducible apply Ends.step (coreFault_ends ..))
    | (with_reducible apply ok_ends)
    | (with_reducible apply Keeps.step (advance_keeps ..))
    | (with_reducible apply Keeps.step (putRun_keeps ..))
    | (extract_lets +onlyGivenNames x)
    | intro _
    | (with_reducible apply Ends.ite)
    | split)

theorem dmaRows_keeps (k : Nat) (n : Nat) (v : Nat) (d : Dma) (a4 : Nat) (a5 : Nat) (s0 : State) : Keeps s0 (dmaRows k n v d a4 a5 s0).2 := by
  fun_induction dmaRows k n v d a4 a5 s0
  all_goals repeat' (first
    | with_reducible exact Keeps.refl _
    | (with_reducible refine Keeps.step (by assumption) ?_)
    | (with_reducible apply Keeps.step (readServed_keeps ..))
    | (with_reducible apply Keeps.step (writeWin_keeps ..))
    | (with_reducible refine Keeps.snd (by assumption) ?_)
    | (extract_lets +onlyGivenNames x)
    | (simp +zetaDelta only [])
    | split)

theorem dmaIssue_ends (k : Nat) (d : Dma) (r : Run) (st : Step) (s0 : State) : Ends s0 (dmaIssue k d r st s0) := by
  unfold dmaIssue
  repeat' (first
    | with_reducible exact Keeps.refl _
    | with_reducible assumption
    | (with_reducible apply afterChecks_ends)
    | (with_reducible apply OptEnds.step (chkRd_opt ..))
    | (with_reducible apply OptEnds.step (chkWr_opt ..))
    | (with_reducible apply Ends.step (stay_ends ..))
    | (with_reducible apply Keeps.step (askLayer_keeps ..))
    | (with_reducible apply ok_ends)
    | (with_reducible apply Keeps.step (advance_keeps ..))
    | (with_reducible apply Keeps.step (modRunOf_keeps ..))
    | exact AllOpt.nil
    | (with_reducible apply AllOpt.cons)
    | (with_reducible apply AllOpt.append)
    | (extract_lets +onlyGivenNames x; refine Keeps.cutK (t := x) ?_ ?_ <;> first | (intro _; clear_value x) | subst x)
    | (extract_lets +onlyGivenNames x)
    | intro _
    | (with_reducible apply Keeps.ite)
    | (with_reducible apply Ends.ite)
    | split)

theorem execAcc48_ends (k : Nat) (f : IFields) (s0 : State) : Ends s0 (execAcc48 k f s0) := by
  unfold execAcc48
  repeat' (first
    | with_reducible exact Keeps.refl _
    | (with_reducible apply insn_ends)
    | (with_reducible apply Ends.step (coreFault_ends ..))
    | (with_reducible apply Ends.step (dmaIssue_ends ..))
    | (extract_lets +onlyGivenNames x)
    | intro _
    | (with_reducible apply Ends.ite))

theorem execCopy_ends (k : Nat) (f : IFields) (s0 : State) : Ends s0 (execCopy k f s0) := by
  unfold execCopy
  repeat' (first
    | with_reducible exact Keeps.refl _
    | (with_reducible apply insn_ends)
    | (with_reducible apply Ends.step (dmaIssue_ends ..))
    | intro _)

theorem execZero_ends (k : Nat) (f : IFields) (s0 : State) : Ends s0 (execZero k f s0) := by
  unfold execZero
  repeat' (first
    | with_reducible exact Keeps.refl _
    | (with_reducible apply insn_ends)
    | (with_reducible apply Ends.step (dmaIssue_ends ..))
    | intro _)

theorem execDmaComplete_ends (k : Nat) (j : Nat) (s0 : State) : Ends s0 (execDmaComplete k j s0) := by
  unfold execDmaComplete
  repeat' (first
    | with_reducible exact Keeps.refl _
    | (with_reducible apply ok_ends)
    | (with_reducible apply Keeps.step (draw_keeps ..))
    | (with_reducible apply Keeps.step (dmaRows_keeps ..))
    | (with_reducible apply Keeps.step (readFault_keeps ..))
    | (with_reducible apply Keeps.step (modRunOf_keeps ..))
    | exact Ends.refused _
    | (with_reducible refine Keeps.snd (by assumption) ?_)
    | (extract_lets +onlyGivenNames x)
    | (with_reducible apply Ends.ite)
    | split)

theorem execTdload_ends (k : Nat) (f : IFields) (s0 : State) : Ends s0 (execTdload k f s0) := by
  unfold execTdload
  repeat' (first
    | with_reducible exact Keeps.refl _
    | with_reducible assumption
    | (with_reducible apply afterChecks_ends)
    | (with_reducible apply insn_ends)
    | (with_reducible apply Ends.step (stay_ends ..))
    | (with_reducible apply OptEnds.step (chkRd_opt ..))
    | (with_reducible apply rdThen_ends)
    | (with_reducible apply ok_ends)
    | (with_reducible apply Keeps.step (advance_keeps ..))
    | (with_reducible apply Keeps.step (modRunOf_keeps ..))
    | (with_reducible apply Ends.step (coreFault_ends ..))
    | exact AllOpt.nil
    | (with_reducible apply AllOpt.cons)
    | (extract_lets +onlyGivenNames x)
    | intro _
    | (with_reducible apply Ends.ite))

theorem writeInject_keeps (k : Nat) (w : Word) (s0 : State) : Keeps s0 (writeInject k w s0) := by
  unfold writeInject
  repeat' (first
    | with_reducible exact Keeps.refl _
    | (with_reducible apply Keeps.step (setRegWord_keeps ..)))

theorem accRead_keeps (k : Nat) (e : Nat) (s0 : State) : Keeps s0 (accRead k e s0).2 := by
  unfold accRead
  repeat' (first
    | with_reducible exact Keeps.refl _
    | (with_reducible apply Keeps.step (corrected_keeps ..))
    | (with_reducible apply Keeps.step (cntAdd_keeps ..))
    | (with_reducible apply Keeps.step (modCore_keeps ..))
    | (extract_lets +onlyGivenNames x)
    | split)

theorem accReads_keeps (k : Nat) (e : Nat) (a2 : Nat) (s0 : State) : Keeps s0 (accReads k e a2 s0).2 := by
  fun_induction accReads k e a2 s0
  all_goals repeat' (first
    | with_reducible exact Keeps.refl _
    | (with_reducible refine Keeps.step (by assumption) ?_)
    | (with_reducible apply Keeps.step (accRead_keeps ..))
    | (with_reducible refine Keeps.snd (by assumption) ?_))

theorem matSource_keeps (k n src srcRow a rows : Nat) (s0 : State) : Keeps s0 (matSource k n src srcRow a rows s0).2 := by
  unfold matSource
  split
  · exact Keeps.refl _
  · split
    · have h1 := accReads_keeps k (srcRow * 128) (rows * 128) s0
      split <;> exact Keeps.snd (by assumption) h1
    · have h1 := readServed_keeps 1 k n a (rows * 768) s0
      split <;> exact Keeps.snd (by assumption) h1

theorem matSource_error {k n src srcRow a rows : Nat} {s0 u : State} {x : Res} (h : matSource k n src srcRow a rows s0 = (.error x, u)) :
    Ends s0 x := by
  unfold matSource at h
  split at h
  · cases h
  · split at h
    · have h1 := accReads_keeps k (srcRow * 128) (rows * 128) s0
      split at h <;> cases h
      exact ok_ends ((Keeps.snd (by assumption) h1).trans (jobFault_keeps ..))
    · have h1 := readServed_keeps 1 k n a (rows * 768) s0
      split at h <;> cases h
      · exact ok_ends ((Keeps.snd (by assumption) h1).trans (readFault_keeps ..))
      · exact Ends.trans (Keeps.snd (by assumption) h1) (stay_ends ..)

theorem tileRead_keeps (k : Nat) (n : Nat) (a : Nat) (len : Nat) (s0 : State) : Keeps s0 (tileRead k n a len s0).2 := by
  unfold tileRead
  repeat' (first
    | with_reducible exact Keeps.refl _
    | (with_reducible apply Keeps.step (readServed_keeps ..))
    | (with_reducible apply Keeps.step (askLayer_keeps ..))
    | (with_reducible refine Keeps.snd (by assumption) ?_)
    | split)

theorem loadTile_keeps (k : Nat) (n : Nat) (t : BitVec 256) (s0 : State) : Keeps s0 (loadTile k n t s0).2 := by
  unfold loadTile
  repeat' (first
    | with_reducible exact Keeps.refl _
    | with_reducible assumption
    | (with_reducible apply Keeps.step (tileRead_keeps ..))
    | (with_reducible refine Keeps.snd (by assumption) ?_)
    | (extract_lets +onlyGivenNames x; refine Keeps.cutP (p := x) ?_ ?_ <;> first | (intro _; clear_value x) | subst x)
    | (extract_lets +onlyGivenNames x)
    | split)

theorem matTiles_keeps (k : Nat) (n : Nat) (e : ActEnv) (inj : Bool) (a4 : Nat) (a5 : Nat) (a6 : MatAcc) (s0 : State) : Keeps s0 (matTiles k n e inj a4 a5 a6 s0).2 := by
  fun_induction matTiles k n e inj a4 a5 a6 s0
  all_goals repeat' (first
    | with_reducible exact Keeps.refl _
    | (with_reducible refine Keeps.step (by assumption) ?_)
    | (with_reducible apply Keeps.step (loadTile_keeps ..))
    | (with_reducible refine Keeps.snd (by assumption) ?_)
    | (extract_lets +onlyGivenNames x)
    | (simp +zetaDelta only [])
    | split)

theorem injectFail_keeps (k : Nat) (r : Run) (s0 : State) : Keeps s0 (injectFail k r s0) := by
  unfold injectFail
  repeat' (first
    | with_reducible exact Keeps.refl _
    | (with_reducible apply Keeps.step (setRegWord_keeps ..))
    | (with_reducible apply Keeps.step (cntAdd_keeps ..))
    | (with_reducible apply Keeps.step (modCore_keeps ..))
    | (with_reducible apply Keeps.step (startDue_keeps ..))
    | (with_reducible apply Keeps.step (stepFaultAt_keeps ..)))

theorem matRun_ends (k : Nat) (r : Run) (c : Ctx) (st : Step) (f : IFields) (e : ActEnv) (np : Nat) (disc : Bool) (s0 : State) : Ends s0 (matRun k r c st f e np disc s0) := by
  unfold matRun
  repeat' (first
    | with_reducible exact Keeps.refl _
    | (with_reducible apply Keeps.step (matSource_keeps ..))
    | (with_reducible refine Ends.step (matSource_error (by assumption)) ?_)
    | (with_reducible apply Keeps.step (matTiles_keeps ..))
    | (with_reducible apply ok_ends)
    | (with_reducible apply Keeps.step (readFault_keeps ..))
    | (with_reducible apply Ends.step (stay_ends ..))
    | (with_reducible apply Ends.step (coreFault_ends ..))
    | (with_reducible apply Keeps.step (modCore_keeps ..))
    | (with_reducible apply Keeps.step (injectFail_keeps ..))
    | (with_reducible apply Keeps.step (cntAdd_keeps ..))
    | (with_reducible apply Keeps.step (advance_keeps ..))
    | (with_reducible apply Keeps.step (modRunOf_keeps ..))
    | (with_reducible refine Keeps.snd (by assumption) ?_)
    | (extract_lets +onlyGivenNames x)
    | (with_reducible apply Keeps.ite)
    | split)

theorem execCheckInjectArm_ends (p : Path) (k : Nat) (w : Word) (s0 : State) : Ends s0 (execCheckInjectArm p k w s0) := by
  unfold execCheckInjectArm
  repeat' (first
    | with_reducible exact Keeps.refl _
    | (with_reducible apply Ends.step (regRow_ends _ _ _ _ _ ?_))
    | (with_reducible apply Keeps.step (writeInject_keeps ..))
    | exact Ends.refused _
    | intro _
    | (with_reducible apply Ends.ite))

theorem matIssue_ends (k : Nat) (r : Run) (c : Ctx) (st : Step) (f : IFields) (conv : Option ConvP) (rows : Nat) (tiles : Nat) (s0 : State) : Ends s0 (matIssue k r c st f conv rows tiles s0) := by
  unfold matIssue
  repeat' (first
    | with_reducible exact Keeps.refl _
    | (with_reducible apply afterChecks_ends)
    | (with_reducible apply Ends.step (coreFault_ends ..))
    | (with_reducible apply OptEnds.step (chkRd_opt ..))
    | (with_reducible apply OptEnds.step (chkWr_opt ..))
    | (with_reducible apply rdThen_ends)
    | (with_reducible apply Ends.step (matRun_ends ..))
    | exact AllOpt.nil
    | (with_reducible apply AllOpt.cons)
    | (with_reducible apply AllOpt.append)
    | (extract_lets +onlyGivenNames x)
    | intro _
    | (with_reducible apply Ends.ite)
    | split)

theorem convIssue_ends (k : Nat) (f : IFields) (two : Bool) (r : Run) (c : Ctx) (st : Step) (s0 : State) : Ends s0 (convIssue k f two r c st s0) := by
  unfold convIssue
  repeat' (first
    | with_reducible exact Keeps.refl _
    | with_reducible assumption
    | (with_reducible apply afterChecks_ends)
    | (with_reducible apply Ends.step (stay_ends ..))
    | (with_reducible apply Ends.step (coreFault_ends ..))
    | (with_reducible apply OptEnds.step (chkRd_opt ..))
    | (with_reducible apply rdThen_ends)
    | (with_reducible apply Ends.step (matIssue_ends ..))
    | exact AllOpt.nil
    | (with_reducible apply AllOpt.cons)
    | (extract_lets +onlyGivenNames x)
    | intro _
    | (with_reducible apply Ends.ite))

theorem execConv1d_ends (k : Nat) (f : IFields) (s0 : State) : Ends s0 (execConv1d k f s0) := by
  unfold execConv1d
  repeat' (first
    | with_reducible exact Keeps.refl _
    | (with_reducible apply insn_ends)
    | (with_reducible apply Ends.step (convIssue_ends ..))
    | intro _)

theorem execConv2d_ends (k : Nat) (f : IFields) (s0 : State) : Ends s0 (execConv2d k f s0) := by
  unfold execConv2d
  repeat' (first
    | with_reducible exact Keeps.refl _
    | (with_reducible apply insn_ends)
    | (with_reducible apply Ends.step (convIssue_ends ..))
    | intro _)

theorem accWrite_keeps (k : Nat) (e : Nat) (vals : List Nat) (s0 : State) : Keeps s0 (accWrite k e vals s0) := by
  unfold accWrite
  repeat' (first
    | with_reducible exact Keeps.refl _
    | (with_reducible apply Keeps.step (modCore_keeps ..)))

theorem writeRow_keeps (k : Nat) (n : Nat) (m : MatOp) (w : MatRow) (s0 : State) : Keeps s0 (writeRow k n m w s0) := by
  unfold writeRow
  repeat' (first
    | with_reducible exact Keeps.refl _
    | with_reducible assumption
    | (with_reducible apply Keeps.step (modCtx_keeps ..))
    | (with_reducible apply Keeps.step (accWrite_keeps ..))
    | (with_reducible apply Keeps.step (writeWin_keeps ..))
    | (extract_lets +onlyGivenNames x; refine Keeps.cutK (t := x) ?_ ?_ <;> first | (intro _; clear_value x) | subst x)
    | (extract_lets +onlyGivenNames x)
    | (with_reducible apply Keeps.ite))

theorem execMatrixComplete_ends (k : Nat) (s0 : State) : Ends s0 (execMatrixComplete k s0) := by
  unfold execMatrixComplete
  repeat' (first
    | with_reducible exact Keeps.refl _
    | with_reducible assumption
    | (with_reducible apply ok_ends)
    | (with_reducible apply Keeps.step (writeRow_keeps ..))
    | (with_reducible apply Keeps.step (settleHalves_keeps ..))
    | (with_reducible apply Keeps.step (modRunOf_keeps ..))
    | exact Ends.refused _
    | (with_reducible apply Keeps.step (Keeps.foldl ?_ _ _))
    | (extract_lets +onlyGivenNames x; refine Ends.cutK (t := x) ?_ ?_ <;> first | (intro _; clear_value x) | subst x)
    | (extract_lets +onlyGivenNames x)
    | intro _
    | (with_reducible apply Ends.ite)
    | split)

theorem execMatrix_ends (k : Nat) (f : IFields) (s0 : State) : Ends s0 (execMatrix k f s0) := by
  unfold execMatrix
  repeat' (first
    | with_reducible exact Keeps.refl _
    | (with_reducible apply insn_ends)
    | (with_reducible apply Ends.step (coreFault_ends ..))
    | (with_reducible apply Ends.step (stay_ends ..))
    | (with_reducible apply ok_ends)
    | (with_reducible apply Keeps.step (advance_keeps ..))
    | (with_reducible apply Ends.step (matIssue_ends ..))
    | (extract_lets +onlyGivenNames x)
    | intro _
    | (with_reducible apply Ends.ite))

end Sys2Proof.Machine
end

