-- ==== Sys2Proof/Laws/KeepsManage.lean ====
section
/-! SUPPORT. Every definition of RegWrite, Session, Spdm, Msp that answers a state keeps the queue, the canonical form of the
memories and the islands' rule (register writes and the management interfaces). -/
namespace Sys2Proof.Machine
open Sys2Proof

theorem writeFreeze_keeps (page : Nat) (on : Bool) (s0 : State) : Keeps s0 (writeFreeze page on s0) := by
  unfold writeFreeze
  repeat' (first
    | with_reducible exact Keeps.refl _
    | (with_reducible apply Keeps.step (modHdr_keeps ..))
    | (with_reducible apply Keeps.ite))

theorem clearCounters_keeps (page : Nat) (s0 : State) : Keeps s0 (clearCounters page s0) := by
  unfold clearCounters
  repeat' (first
    | with_reducible exact Keeps.refl _
    | with_reducible assumption
    | (with_reducible apply Keeps.step (setCnt_keeps ..))
    | (with_reducible apply Keeps.step (setCtxs_keeps ..))
    | (with_reducible apply Keeps.step (modOcm_keeps ..))
    | exact OcmKeep.of fun _ => ⟨rfl, rfl, rfl, rfl⟩
    | (extract_lets +onlyGivenNames x; refine Keeps.cutK (t := x) ?_ ?_ <;> first | (intro _; clear_value x) | subst x)
    | (with_reducible apply Keeps.ite))

theorem clearErrCount_keeps (page : Nat) (s0 : State) : Keeps s0 (clearErrCount page s0) := by
  unfold clearErrCount
  repeat' (first
    | with_reducible exact Keeps.refl _
    | (with_reducible apply Keeps.step (modHdr_keeps ..)))

theorem writePageCtrl_keeps (page : Nat) (w : Word) (s0 : State) : Keeps s0 (writePageCtrl page w s0) := by
  unfold writePageCtrl
  repeat' (first
    | with_reducible exact Keeps.refl _
    | with_reducible assumption
    | (with_reducible apply Keeps.step (writeFreeze_keeps ..))
    | (with_reducible apply Keeps.step (clearCounters_keeps ..))
    | (with_reducible apply Keeps.step (clearErrCount_keeps ..))
    | (extract_lets +onlyGivenNames x; refine Keeps.cutK (t := x) ?_ ?_ <;> first | (intro _; clear_value x) | subst x)
    | (with_reducible apply Keeps.ite))

theorem clearErrStatus_keeps (page : Nat) (w : Word) (s0 : State) : Keeps s0 (clearErrStatus page w s0) := by
  unfold clearErrStatus
  repeat' (first
    | with_reducible exact Keeps.refl _
    | (with_reducible apply Keeps.step (modHdr_keeps ..)))

theorem writeErrMask_keeps (page : Nat) (bt : Nat) (w : Word) (s0 : State) : Keeps s0 (writeErrMask page bt w s0) := by
  unfold writeErrMask
  repeat' (first
    | with_reducible exact Keeps.refl _
    | (with_reducible apply Keeps.step (modHdr_keeps ..)))

theorem writeChartCtrl_keeps (w : Word) (s0 : State) : Keeps s0 (writeChartCtrl w s0) := by
  unfold writeChartCtrl
  repeat' (first
    | with_reducible exact Keeps.refl _
    | with_reducible assumption
    | (with_reducible apply Keeps.step (chartEnable_keeps ..))
    | (with_reducible apply Keeps.step (swapRequest_keeps ..))
    | (extract_lets +onlyGivenNames x; refine Keeps.cutK (t := x) ?_ ?_ <;> first | (intro _; clear_value x) | subst x)
    | (with_reducible apply Keeps.ite))

theorem writeCompute_keeps (page : Nat) (bt : Nat) (off : Nat) (w : Word) (s0 : State) : Keeps s0 (writeCompute page bt off w s0) := by
  unfold writeCompute
  repeat' (first
    | with_reducible exact Keeps.refl _
    | (with_reducible apply Keeps.step (writeChartCtrl_keeps ..))
    | (with_reducible apply Keeps.step (restartCtx_keeps ..))
    | (with_reducible apply Keeps.step (writeInject_keeps ..))
    | (with_reducible apply Keeps.step (writeCompat1_keeps ..))
    | (with_reducible apply Keeps.step (modSfu_keeps ..))
    | (with_reducible apply Keeps.step (writeTblData_keeps ..))
    | (with_reducible apply Keeps.step (tblCommit_keeps ..))
    | (with_reducible apply Keeps.step (writeDiag_keeps ..))
    | (with_reducible apply Keeps.step (writeAtoll_keeps ..))
    | (with_reducible apply Keeps.step (writeFlipSel_keeps ..))
    | (with_reducible apply Keeps.step (writeBankPwr_keeps ..))
    | (with_reducible apply Keeps.step (armFlip_keeps ..))
    | (with_reducible apply Keeps.step (writeScrubCtrl_keeps ..))
    | (with_reducible apply Keeps.step (pumpQueries_keeps ..))
    | (with_reducible apply Keeps.step (storeRw_keeps ..))
    | (with_reducible apply Keeps.ite))

theorem levelUnload_keeps (n : Nat) (s0 : State) : Keeps s0 (levelUnload n s0) := by
  unfold levelUnload
  repeat' (first
    | with_reducible exact Keeps.refl _
    | (with_reducible apply Keeps.step (advisory_keeps ..))
    | (with_reducible apply Keeps.step (unloadNow_keeps ..)))

theorem enterLevel1_keeps (s0 : State) : Keeps s0 (enterLevel1 s0) := by
  unfold enterLevel1
  repeat' (first
    | with_reducible exact Keeps.refl _
    | (with_reducible apply Keeps.step (levelUnload_keeps ..))
    | (with_reducible apply Keeps.step (modChip_keeps ..))
    | (with_reducible apply Keeps.step (clearBanks_keeps ..))
    | (with_reducible apply Keeps.step (refuseSwap_keeps ..))
    | (with_reducible apply Keeps.step (Keeps.foldl ?_ _ _))
    | (extract_lets +onlyGivenNames x)
    | intro _)

theorem selectLevel_keeps (w : Word) (s0 : State) : Keeps s0 (selectLevel w s0) := by
  unfold selectLevel
  repeat' (first
    | with_reducible exact Keeps.refl _
    | (with_reducible apply Keeps.step (advisory_keeps ..))
    | (with_reducible apply Keeps.step (modChip_keeps ..))
    | (with_reducible apply Keeps.step (enterLevel1_keeps ..))
    | (with_reducible apply Keeps.ite))

theorem devResetKey_keeps (w : Word) (s0 : State) : Keeps s0 (devResetKey w s0) := by
  unfold devResetKey
  repeat' (first
    | with_reducible exact Keeps.refl _
    | (with_reducible apply Keeps.step (modChip_keeps ..))
    | (with_reducible apply Keeps.step (advisory_keeps ..))
    | (with_reducible apply Keeps.ite))

theorem islandFault_keeps (n : Nat) (s0 : State) : Keeps s0 (islandFault n s0) := by
  unfold islandFault
  repeat' (first
    | with_reducible exact Keeps.refl _
    | (with_reducible apply Keeps.step (stepFaultAt_keeps ..))
    | (with_reducible apply Keeps.step (modErr_keeps ..)))

theorem resetCore_keeps (k : Nat) (s0 : State) : Keeps s0 (resetCore k s0) := by
  unfold resetCore
  repeat' (first
    | with_reducible exact Keeps.refl _
    | (with_reducible apply Keeps.step (modCore_keeps ..))
    | (with_reducible apply Keeps.step (setRegWord_keeps ..)))

theorem islandReset_keeps (i : Nat) (s0 : State) : Keeps s0 (islandReset i s0) := by
  unfold islandReset
  repeat' (first
    | with_reducible exact Keeps.refl _
    | (with_reducible apply Keeps.step (islandFault_keeps ..))
    | (with_reducible apply Keeps.step (resetCore_keeps ..))
    | (with_reducible apply Keeps.step (startDue_keeps ..))
    | (with_reducible apply Keeps.step (cntAdd_keeps ..))
    | (with_reducible apply Keeps.step (Keeps.foldl ?_ _ _))
    | (extract_lets +onlyGivenNames x)
    | intro _)

theorem islandGo_keeps (w : Word) (s0 : State) : Keeps s0 (islandGo w s0) := by
  unfold islandGo
  repeat' (first
    | with_reducible exact Keeps.refl _
    | with_reducible assumption
    | (with_reducible apply Keeps.step (storeRw_keeps ..))
    | (with_reducible apply Keeps.step (advisory_keeps ..))
    | (with_reducible apply Keeps.step (islandReset_keeps ..))
    | (extract_lets +onlyGivenNames x; refine Keeps.cutK (t := x) ?_ ?_ <;> first | (intro _; clear_value x) | subst x)
    | (extract_lets +onlyGivenNames x)
    | (with_reducible apply Keeps.ite))

theorem fmeasSel_keeps (w : Word) (s0 : State) : Keeps s0 (fmeasSel w s0) := by
  unfold fmeasSel
  repeat' (first
    | with_reducible exact Keeps.refl _
    | with_reducible assumption
    | (with_reducible apply Keeps.step (storeRw_keeps ..))
    | (with_reducible apply Keeps.step (modChip_keeps ..))
    | (extract_lets +onlyGivenNames x; refine Keeps.cutK (t := x) ?_ ?_ <;> first | (intro _; clear_value x) | subst x)
    | (with_reducible apply Keeps.ite))

theorem writeTail_keeps (w : Word) (s0 : State) : Keeps s0 (writeTail w s0) := by
  unfold writeTail
  repeat' (first
    | with_reducible exact Keeps.refl _
    | (with_reducible apply Keeps.step (advisory_keeps ..))
    | (with_reducible apply Keeps.step (modErr_keeps ..))
    | (extract_lets +onlyGivenNames x)
    | (with_reducible apply Keeps.ite))

theorem writeIoDie_keeps (page : Nat) (bt : Nat) (off : Nat) (w : Word) (s0 : State) : Keeps s0 (writeIoDie page bt off w s0) := by
  unfold writeIoDie
  repeat' (first
    | with_reducible exact Keeps.refl _
    | (with_reducible apply Keeps.step (selectLevel_keeps ..))
    | (with_reducible apply Keeps.step (devResetKey_keeps ..))
    | (with_reducible apply Keeps.step (islandGo_keeps ..))
    | (with_reducible apply Keeps.step (fmeasSel_keeps ..))
    | (with_reducible apply Keeps.step (writeNiuCtrl_keeps ..))
    | (with_reducible apply Keeps.step (writeIp_keeps ..))
    | (with_reducible apply Keeps.step (writeSource_keeps ..))
    | (with_reducible apply Keeps.step (writeTod_keeps ..))
    | (with_reducible apply Keeps.step (writeGrpCfg_keeps ..))
    | (with_reducible apply Keeps.step (writeMemCfg_keeps ..))
    | (with_reducible apply Keeps.step (modMember_keeps ..))
    | (with_reducible apply Keeps.step (writeMteDiag_keeps ..))
    | (with_reducible apply Keeps.step (writeTail_keeps ..))
    | (with_reducible apply Keeps.step (modErr_keeps ..))
    | (with_reducible apply Keeps.step (storeRw_keeps ..))
    | (with_reducible apply Keeps.ite))

theorem writeWord_keeps (page : Nat) (off : Nat) (w : Word) (s0 : State) : Keeps s0 (writeWord page off w s0) := by
  unfold writeWord
  repeat' (first
    | with_reducible exact Keeps.refl _
    | (with_reducible apply Keeps.step (writePageCtrl_keeps ..))
    | (with_reducible apply Keeps.step (clearErrStatus_keeps ..))
    | (with_reducible apply Keeps.step (writeErrMask_keeps ..))
    | (with_reducible apply Keeps.step (writeCompute_keeps ..))
    | (with_reducible apply Keeps.step (writeIoDie_keeps ..))
    | (with_reducible apply Keeps.ite)
    | split)

theorem mctpRow_ends (f : State → State) (s0 : State) (hf : ∀ b0, Keeps b0 (f b0)) : Ends s0 (mctpRow f s0) := by
  unfold mctpRow
  repeat' (first
    | with_reducible exact Keeps.refl _
    | (with_reducible apply Keeps.step (hf _))
    | (with_reducible apply ok_ends)
    | (with_reducible apply Keeps.step (emit_keeps ..))
    | (with_reducible apply Ends.ite))

theorem writeWords_keeps (page : Nat) (a1 : Nat) (a2 : List Word) (s0 : State) : Keeps s0 (writeWords page a1 a2 s0) := by
  fun_induction writeWords page a1 a2 s0
  all_goals repeat' (first
    | with_reducible exact Keeps.refl _
    | (with_reducible refine Keeps.step (by assumption) ?_)
    | (with_reducible apply Keeps.step (writeWord_keeps ..)))

theorem sidebandDo_keeps (req : List Byte) (s0 : State) : Keeps s0 (sidebandDo req s0).2.2 := by
  unfold sidebandDo
  repeat' (first
    | with_reducible exact Keeps.refl _
    | (with_reducible apply Keeps.step (readWords_keeps ..))
    | (with_reducible apply Keeps.step (writeWords_keeps ..))
    | (extract_lets +onlyGivenNames x)
    | split)

theorem sidebandReq_keeps (req : List Byte) (s0 : State) : Keeps s0 (sidebandReq req s0) := by
  unfold sidebandReq
  repeat' (first
    | with_reducible exact Keeps.refl _
    | (with_reducible apply Keeps.step (sidebandDo_keeps ..))
    | (with_reducible apply Keeps.step (emit_keeps ..)))

theorem execSidebandRead_ends (req : List Byte) (s0 : State) : Ends s0 (execSidebandRead req s0) := by
  unfold execSidebandRead
  repeat' (first
    | with_reducible exact Keeps.refl _
    | (with_reducible apply Ends.step (mctpRow_ends _ _ ?_))
    | (with_reducible apply Keeps.step (sidebandReq_keeps ..))
    | intro _)

theorem windowRow_ends (t : Tag) (io : Nat) (adm : Nat) (q : Sqe) (f : State → State) (s0 : State) (hf : ∀ b0, Keeps b0 (f b0)) : Ends s0 (windowRow t io adm q f s0) := by
  unfold windowRow
  repeat' (first
    | with_reducible exact Keeps.refl _
    | with_reducible assumption
    | (with_reducible apply Keeps.step (hf _))
    | (with_reducible refine Keeps.step (fetch_error (by assumption)) ?_)
    | (with_reducible refine Keeps.step (fetch_ok (by assumption)) ?_)
    | (with_reducible apply ok_ends)
    | (with_reducible apply Keeps.step (refuse_keeps ..))
    | (with_reducible apply Ends.step (bcsRow_ends _ _ _ _ _ _ ?_))
    | (extract_lets +onlyGivenNames x)
    | intro _
    | (with_reducible apply Ends.ite)
    | split
    | (simp +zetaDelta only []))

theorem execRegisterWindowWrite_ends (t : Tag) (q : Sqe) (d : List Byte) (s0 : State) : Ends s0 (execRegisterWindowWrite t q d s0) := by
  unfold execRegisterWindowWrite
  repeat' (first
    | with_reducible exact Keeps.refl _
    | (with_reducible apply Ends.step (windowRow_ends _ _ _ _ _ _ ?_))
    | (with_reducible apply Keeps.step (refuse_keeps ..))
    | (with_reducible apply Keeps.step (complete_keeps ..))
    | (with_reducible apply Keeps.step (succeed_keeps ..))
    | (with_reducible apply Keeps.step (writeWords_keeps ..))
    | (extract_lets +onlyGivenNames x)
    | intro _
    | (with_reducible apply Keeps.ite)
    | split)

theorem execRegisterWindowRead_ends (t : Tag) (q : Sqe) (_d : List Byte) (s0 : State) : Ends s0 (execRegisterWindowRead t q _d s0) := by
  unfold execRegisterWindowRead
  repeat' (first
    | with_reducible exact Keeps.refl _
    | (with_reducible apply Ends.step (windowRow_ends _ _ _ _ _ _ ?_))
    | (with_reducible apply Keeps.step (refuse_keeps ..))
    | (with_reducible apply Keeps.step (complete_keeps ..))
    | (with_reducible apply Keeps.step (readWords_keeps ..))
    | (with_reducible apply Keeps.step (succeed_keeps ..))
    | (extract_lets +onlyGivenNames x)
    | intro _
    | (with_reducible apply Keeps.ite)
    | split)

theorem execFmeasStart_ends (p : Path) (w : Word) (s0 : State) : Ends s0 (execFmeasStart p w s0) := by
  unfold execFmeasStart
  repeat' (first
    | with_reducible exact Keeps.refl _
    | (with_reducible apply Ends.step (regRow_ends _ _ _ _ _ ?_))
    | (with_reducible apply Keeps.step (fmeasSel_keeps ..))
    | intro _)

theorem execFmeasDone_ends (khz : Nat) (s0 : State) : Ends s0 (execFmeasDone khz s0) := by
  unfold execFmeasDone
  repeat' (first
    | with_reducible exact Keeps.refl _
    | (with_reducible apply ok_ends)
    | (with_reducible apply Keeps.step (modChip_keeps ..))
    | split)

theorem execClkrstDevReset_ends (p : Path) (w : Word) (s0 : State) : Ends s0 (execClkrstDevReset p w s0) := by
  unfold execClkrstDevReset
  repeat' (first
    | with_reducible exact Keeps.refl _
    | (with_reducible apply Ends.step (regRow_ends _ _ _ _ _ ?_))
    | (with_reducible apply Keeps.step (devResetKey_keeps ..))
    | intro _)

theorem execSidebandWrite_ends (req : List Byte) (s0 : State) : Ends s0 (execSidebandWrite req s0) := by
  unfold execSidebandWrite
  repeat' (first
    | with_reducible exact Keeps.refl _
    | (with_reducible apply Ends.step (mctpRow_ends _ _ ?_))
    | (with_reducible apply Keeps.step (sidebandReq_keeps ..))
    | intro _)

theorem execIslandResetGo_ends (p : Path) (w : Word) (s0 : State) : Ends s0 (execIslandResetGo p w s0) := by
  unfold execIslandResetGo
  repeat' (first
    | with_reducible exact Keeps.refl _
    | (with_reducible apply Ends.step (regRow_ends _ _ _ _ _ ?_))
    | (with_reducible apply Keeps.step (islandGo_keeps ..))
    | intro _)

theorem execErrCountClr_ends (p : Path) (page : Nat) (s0 : State) : Ends s0 (execErrCountClr p page s0) := by
  unfold execErrCountClr
  repeat' (first
    | with_reducible exact Keeps.refl _
    | (with_reducible apply Ends.step (regRow_ends _ _ _ _ _ ?_))
    | (with_reducible apply Keeps.step (clearErrCount_keeps ..))
    | intro _)

theorem execRegisterWrite_ends (p : Path) (page : Nat) (off : Nat) (w : Word) (s0 : State) : Ends s0 (execRegisterWrite p page off w s0) := by
  unfold execRegisterWrite
  repeat' (first
    | with_reducible exact Keeps.refl _
    | (with_reducible apply ok_ends)
    | (with_reducible apply Keeps.step (emit_keeps ..))
    | (with_reducible apply Keeps.step (writeWord_keeps ..))
    | (with_reducible apply Ends.ite)
    | split)

theorem execIflevelSelect_ends (p : Path) (w : Word) (s0 : State) : Ends s0 (execIflevelSelect p w s0) := by
  unfold execIflevelSelect
  repeat' (first
    | with_reducible exact Keeps.refl _
    | (with_reducible apply Ends.step (regRow_ends _ _ _ _ _ ?_))
    | (with_reducible apply Keeps.step (selectLevel_keeps ..))
    | intro _)

theorem execErrRingTailWrite_ends (p : Path) (w : Word) (s0 : State) : Ends s0 (execErrRingTailWrite p w s0) := by
  unfold execErrRingTailWrite
  repeat' (first
    | with_reducible exact Keeps.refl _
    | (with_reducible apply Ends.step (regRow_ends _ _ _ _ _ ?_))
    | (with_reducible apply Keeps.step (writeTail_keeps ..))
    | intro _)

theorem execCntFreeze_ends (p : Path) (page : Nat) (on : Bool) (s0 : State) : Ends s0 (execCntFreeze p page on s0) := by
  unfold execCntFreeze
  repeat' (first
    | with_reducible exact Keeps.refl _
    | (with_reducible apply Ends.step (regRow_ends _ _ _ _ _ ?_))
    | (with_reducible apply Keeps.step (writeFreeze_keeps ..))
    | intro _)

theorem execCntClear_ends (p : Path) (page : Nat) (s0 : State) : Ends s0 (execCntClear p page s0) := by
  unfold execCntClear
  repeat' (first
    | with_reducible exact Keeps.refl _
    | (with_reducible apply Ends.step (regRow_ends _ _ _ _ _ ?_))
    | (with_reducible apply Keeps.step (clearCounters_keeps ..))
    | intro _)

theorem execErrStatusClear_ends (p : Path) (page : Nat) (w : Word) (s0 : State) : Ends s0 (execErrStatusClear p page w s0) := by
  unfold execErrStatusClear
  repeat' (first
    | with_reducible exact Keeps.refl _
    | (with_reducible apply Ends.step (regRow_ends _ _ _ _ _ ?_))
    | (with_reducible apply Keeps.step (clearErrStatus_keeps ..))
    | intro _)

theorem execPllUnlock_ends (pll : Nat) (s0 : State) : Ends s0 (execPllUnlock pll s0) := by
  unfold execPllUnlock
  repeat' (first
    | with_reducible exact Keeps.refl _
    | with_reducible assumption
    | (with_reducible apply ok_ends)
    | (with_reducible apply Keeps.step (cntAdd_keeps ..))
    | (with_reducible apply Keeps.step (modChip_keeps ..))
    | (with_reducible apply Keeps.step (raiseFatal_keeps ..))
    | (with_reducible apply Keeps.step (advisory_keeps ..))
    | exact Ends.refused _
    | (extract_lets +onlyGivenNames x; refine Ends.cutK (t := x) ?_ ?_ <;> first | (intro _; clear_value x) | subst x)
    | (extract_lets +onlyGivenNames x)
    | (with_reducible apply Ends.ite))

theorem drbg_keeps (n : Nat) (s0 : State) : Keeps s0 (drbg n s0).2 := by
  unfold drbg
  repeat' (first
    | with_reducible exact Keeps.refl _
    | (with_reducible apply Keeps.step (draw_keeps ..)))

theorem genIdentity_keeps (s0 : State) : Keeps s0 (genIdentity s0) := by
  unfold genIdentity
  repeat' (first
    | with_reducible exact Keeps.refl _
    | (with_reducible apply Keeps.step (modMsp_keeps ..)))

theorem mgProvision_keeps (_a : List Byte) (s0 : State) : Keeps s0 (mgProvision _a s0).2.2 := by
  unfold mgProvision
  repeat' (first
    | with_reducible exact Keeps.refl _
    | (with_reducible apply Keeps.step (drbg_keeps ..))
    | (with_reducible apply Keeps.step (modMsp_keeps ..))
    | (with_reducible apply Keeps.step (genIdentity_keeps ..))
    | (with_reducible apply Keeps.step (lcMove_keeps ..))
    | split)

theorem mgCertWrite_keeps (a : List Byte) (s0 : State) : Keeps s0 (mgCertWrite a s0).2.2 := by
  unfold mgCertWrite
  repeat' (first
    | with_reducible exact Keeps.refl _
    | (with_reducible apply Keeps.step (modMsp_keeps ..))
    | (extract_lets +onlyGivenNames x)
    | split)

theorem takeOwner_keeps (h : List Byte) (s0 : State) : Keeps s0 (takeOwner h s0) := by
  unfold takeOwner
  repeat' (first
    | with_reducible exact Keeps.refl _
    | (with_reducible apply Keeps.step (modFtl_keeps ..))
    | (with_reducible apply Keeps.step (lcMove_keeps ..))
    | (with_reducible apply Keeps.step (modMsp_keeps ..)))

theorem sessionFail_keeps (s0 : State) : Keeps s0 (sessionFail s0) := by
  unfold sessionFail
  repeat' (first
    | with_reducible exact Keeps.refl _
    | (with_reducible apply Keeps.step (advisory_keeps ..))
    | (with_reducible apply Keeps.step (cntAdd_keeps ..))
    | (with_reducible apply Keeps.step (modMsp_keeps ..)))

theorem mgTakeOwnership_keeps (a : List Byte) (s0 : State) : Keeps s0 (mgTakeOwnership a s0).2.2 := by
  unfold mgTakeOwnership
  repeat' (first
    | with_reducible exact Keeps.refl _
    | (with_reducible apply Keeps.step (takeOwner_keeps ..))
    | (with_reducible apply Keeps.step (sessionFail_keeps ..))
    | (extract_lets +onlyGivenNames x)
    | split)

theorem setPsks_keeps (l : List (List Byte × List Byte)) (s0 : State) : Keeps s0 (setPsks l s0) := by
  unfold setPsks
  repeat' (first
    | with_reducible exact Keeps.refl _
    | (with_reducible apply Keeps.step (putKeyStore_keeps ..))
    | (with_reducible apply Keeps.step (touchAtoll_keeps ..))
    | split)

theorem mgPskInstall_keeps (a : List Byte) (s0 : State) : Keeps s0 (mgPskInstall a s0).2.2 := by
  unfold mgPskInstall
  repeat' (first
    | with_reducible exact Keeps.refl _
    | (with_reducible apply Keeps.step (setPsks_keeps ..))
    | (extract_lets +onlyGivenNames x)
    | split)

theorem mgPskDelete_keeps (a : List Byte) (s0 : State) : Keeps s0 (mgPskDelete a s0).2.2 := by
  unfold mgPskDelete
  repeat' (first
    | with_reducible exact Keeps.refl _
    | (with_reducible apply Keeps.step (setPsks_keeps ..))
    | (extract_lets +onlyGivenNames x)
    | split)

theorem configWord_keeps (ad : Nat) (w : Word) (s0 : State) : Keeps s0 (configWord ad w s0) := by
  unfold configWord
  repeat' (first
    | with_reducible exact Keeps.refl _
    | (with_reducible apply Keeps.step (writeWord_keeps ..))
    | (with_reducible apply Keeps.step (putConfig_keeps ..)))

theorem mgConfigWrite_keeps (a : List Byte) (s0 : State) : Keeps s0 (mgConfigWrite a s0).2.2 := by
  unfold mgConfigWrite
  repeat' (first
    | with_reducible exact Keeps.refl _
    | (with_reducible apply Keeps.step (configWord_keeps ..))
    | (with_reducible apply Keeps.step (Keeps.foldl ?_ _ _))
    | (extract_lets +onlyGivenNames x)
    | intro _
    | split)

theorem mgTamperCfg_keeps (a : List Byte) (s0 : State) : Keeps s0 (mgTamperCfg a s0).2.2 := by
  unfold mgTamperCfg
  repeat' (first
    | with_reducible exact Keeps.refl _
    | (with_reducible apply Keeps.step (configWord_keeps ..)))

theorem mgReturn_keeps (_a : List Byte) (s0 : State) : Keeps s0 (mgReturn _a s0).2.2 := by
  unfold mgReturn
  repeat' (first
    | with_reducible exact Keeps.refl _
    | (with_reducible apply Keeps.step (lcMove_keeps ..))
    | (with_reducible apply Keeps.step (destroyData_keeps ..))
    | split)

theorem mgDecommission_keeps (_a : List Byte) (s0 : State) : Keeps s0 (mgDecommission _a s0).2.2 := by
  unfold mgDecommission
  repeat' (first
    | with_reducible exact Keeps.refl _
    | (with_reducible apply Keeps.step (lcMove_keeps ..))
    | (with_reducible apply Keeps.step (destroyData_keeps ..))
    | (with_reducible apply Keeps.step (modMsp_keeps ..)))

theorem mgReprovision_keeps (_a : List Byte) (s0 : State) : Keeps s0 (mgReprovision _a s0).2.2 := by
  unfold mgReprovision
  repeat' (first
    | with_reducible exact Keeps.refl _
    | (with_reducible apply Keeps.step (drbg_keeps ..))
    | (with_reducible apply Keeps.step (modMsp_keeps ..))
    | (with_reducible apply Keeps.step (lcMove_keeps ..))
    | (with_reducible apply Keeps.step (endFatal_keeps ..))
    | (with_reducible apply Keeps.step (genIdentity_keeps ..))
    | split)

theorem mgTamperClear_keeps (_a : List Byte) (s0 : State) : Keeps s0 (mgTamperClear _a s0).2.2 := by
  unfold mgTamperClear
  repeat' (first
    | with_reducible exact Keeps.refl _
    | with_reducible assumption
    | (with_reducible apply Keeps.step (modMsp_keeps ..))
    | (with_reducible apply Keeps.step (endFatal_keeps ..))
    | (with_reducible apply Keeps.step (lcMove_keeps ..))
    | (with_reducible apply Keeps.step (eraseMedia_keeps ..))
    | (extract_lets +onlyGivenNames x; refine Keeps.cutK (t := x) ?_ ?_ <;> first | (intro _; clear_value x) | subst x)
    | (extract_lets +onlyGivenNames x)
    | split)

theorem mgRevoke_keeps (a : List Byte) (s0 : State) : Keeps s0 (mgRevoke a s0).2.2 := by
  unfold mgRevoke
  repeat' (first
    | with_reducible exact Keeps.refl _
    | (with_reducible apply Keeps.step (modMsp_keeps ..))
    | (extract_lets +onlyGivenNames x)
    | split)

theorem mgCmd_keeps (code : Nat) (a : List Byte) (s0 : State) : Keeps s0 (mgCmd code a s0).2.2 := by
  unfold mgCmd
  repeat' (first
    | with_reducible exact Keeps.refl _
    | (with_reducible apply Keeps.step (mgProvision_keeps ..))
    | (with_reducible apply Keeps.step (mgCertWrite_keeps ..))
    | (with_reducible apply Keeps.step (mgTakeOwnership_keeps ..))
    | (with_reducible apply Keeps.step (mgPskInstall_keeps ..))
    | (with_reducible apply Keeps.step (mgPskDelete_keeps ..))
    | (with_reducible apply Keeps.step (mgConfigWrite_keeps ..))
    | (with_reducible apply Keeps.step (mgTamperCfg_keeps ..))
    | (with_reducible apply Keeps.step (mgReturn_keeps ..))
    | (with_reducible apply Keeps.step (mgDecommission_keeps ..))
    | (with_reducible apply Keeps.step (mgReprovision_keeps ..))
    | (with_reducible apply Keeps.step (mgTamperClear_keeps ..))
    | (with_reducible apply Keeps.step (mgRevoke_keeps ..))
    | split)

theorem mgmtDo_keeps (code : Nat) (a : List Byte) (s0 : State) : Keeps s0 (mgmtDo code a s0).2.2 := by
  unfold mgmtDo
  repeat' (first
    | with_reducible exact Keeps.refl _
    | (with_reducible apply Keeps.step (mgCmd_keeps ..))
    | split)

theorem sessionOpen_keeps (m : List Byte) (r : Role) (s0 : State) : Keeps s0 (sessionOpen m r s0).2 := by
  unfold sessionOpen
  repeat' (first
    | with_reducible exact Keeps.refl _
    | (with_reducible apply Keeps.step (drbg_keeps ..))
    | (with_reducible apply Keeps.step (modMsp_keeps ..))
    | (with_reducible apply Keeps.step (touchAtoll_keeps ..)))

theorem sessionAuth_keeps (e : Session) (m : List Byte) (s0 : State) : Keeps s0 (sessionAuth e m s0) := by
  unfold sessionAuth
  repeat' (first
    | with_reducible exact Keeps.refl _
    | (with_reducible apply Keeps.step (modMsp_keeps ..)))

theorem sessionRecord_keeps (e : Session) (m : List Byte) (s0 : State) : Keeps s0 (sessionRecord e m s0).2 := by
  unfold sessionRecord
  repeat' (first
    | with_reducible exact Keeps.refl _
    | with_reducible assumption
    | (with_reducible apply Keeps.step (sessionFail_keeps ..))
    | (with_reducible apply Keeps.step (modMsp_keeps ..))
    | (with_reducible apply Keeps.step (touchAtoll_keeps ..))
    | (with_reducible apply Keeps.step (mgmtDo_keeps ..))
    | (extract_lets +onlyGivenNames x; refine Keeps.cutK (t := x) ?_ ?_ <;> first | (intro _; clear_value x) | subst x)
    | (extract_lets +onlyGivenNames x)
    | split)

theorem mgmtRow_ends (code : Nat) (a : List Byte) (s0 : State) : Ends s0 (mgmtRow code a s0) := by
  unfold mgmtRow
  repeat' (first
    | with_reducible exact Keeps.refl _
    | (with_reducible apply ok_ends)
    | (with_reducible apply Keeps.step (mgmtDo_keeps ..))
    | (with_reducible apply Keeps.step (emit_keeps ..))
    | (with_reducible apply Ends.ite))

theorem execTamperCfg_ends (a : List Byte) (s0 : State) : Ends s0 (execTamperCfg a s0) := by
  unfold execTamperCfg
  repeat' (first
    | with_reducible exact Keeps.refl _
    | (with_reducible apply Ends.step (mgmtRow_ends ..)))

theorem execCertWrite_ends (a : List Byte) (s0 : State) : Ends s0 (execCertWrite a s0) := by
  unfold execCertWrite
  repeat' (first
    | with_reducible exact Keeps.refl _
    | (with_reducible apply Ends.step (mgmtRow_ends ..)))

theorem execTakeOwnership_ends (a : List Byte) (s0 : State) : Ends s0 (execTakeOwnership a s0) := by
  unfold execTakeOwnership
  repeat' (first
    | with_reducible exact Keeps.refl _
    | (with_reducible apply Ends.step (mgmtRow_ends ..)))

theorem modSpdm_keeps (f : SpdmSt → SpdmSt) (s0 : State) : Keeps s0 (modSpdm f s0) := by
  unfold modSpdm
  repeat' (first
    | with_reducible exact Keeps.refl _
    | (with_reducible apply Keeps.step (modMsp_keeps ..)))

theorem largeAnswer_keeps (b : List Byte) (s0 : State) : Keeps s0 (largeAnswer b s0).2 := by
  unfold largeAnswer
  repeat' (first
    | with_reducible exact Keeps.refl _
    | (with_reducible apply Keeps.step (modSpdm_keeps ..))
    | (extract_lets +onlyGivenNames x)
    | split)

theorem spdmRow_ends (f : State → Ans) (s0 : State) (hf : ∀ b0, Keeps b0 (f b0).2) : Ends s0 (spdmRow f s0) := by
  unfold spdmRow
  repeat' (first
    | with_reducible exact Keeps.refl _
    | (with_reducible apply Keeps.step (hf _))
    | (with_reducible apply Ends.step (mctpRow_ends _ _ ?_))
    | (with_reducible apply Keeps.step (emit_keeps ..))
    | (with_reducible apply Keeps.step (cntAdd_keeps ..))
    | (with_reducible apply Keeps.step (largeAnswer_keeps ..))
    | (extract_lets +onlyGivenNames x)
    | intro _
    | (with_reducible apply Keeps.ite))

theorem spdmChunkGet_keeps (m : List Byte) (s0 : State) : Keeps s0 (spdmChunkGet m s0).2 := by
  unfold spdmChunkGet
  repeat' (first
    | with_reducible exact Keeps.refl _
    | (with_reducible apply Keeps.step (modSpdm_keeps ..))
    | (extract_lets +onlyGivenNames x)
    | split)

theorem execChunkGet_ends (m : List Byte) (s0 : State) : Ends s0 (execChunkGet m s0) := by
  unfold execChunkGet
  repeat' (first
    | with_reducible exact Keeps.refl _
    | (with_reducible apply Ends.step (spdmRow_ends _ _ ?_))
    | (with_reducible apply Keeps.step (spdmChunkGet_keeps ..))
    | intro _)

theorem ansOpen_keeps (m : List Byte) (s0 : State) : Keeps s0 (ansOpen m s0).2 := by
  unfold ansOpen
  repeat' (first
    | with_reducible exact Keeps.refl _
    | (with_reducible apply Keeps.step (sessionOpen_keeps ..))
    | split)

theorem ansAuth_keeps (m : List Byte) (s0 : State) : Keeps s0 (ansAuth m s0).2 := by
  unfold ansAuth
  repeat' (first
    | with_reducible exact Keeps.refl _
    | (with_reducible apply Keeps.step (sessionAuth_keeps ..))
    | (with_reducible apply Keeps.step (sessionFail_keeps ..))
    | split)

theorem ansRecord_keeps (m : List Byte) (s0 : State) : Keeps s0 (ansRecord m s0).2 := by
  unfold ansRecord
  repeat' (first
    | with_reducible exact Keeps.refl _
    | (with_reducible apply Keeps.step (sessionRecord_keeps ..))
    | (with_reducible refine Keeps.snd (by assumption) ?_)
    | split)

theorem ansVendor_keeps (m : List Byte) (s0 : State) : Keeps s0 (ansVendor m s0).2 := by
  unfold ansVendor
  repeat' (first
    | with_reducible exact Keeps.refl _
    | (with_reducible apply Keeps.step (ansOpen_keeps ..))
    | (with_reducible apply Keeps.step (ansAuth_keeps ..))
    | (with_reducible apply Keeps.step (ansRecord_keeps ..))
    | (extract_lets +onlyGivenNames x)
    | split)

theorem execSessionRecord_ends (m : List Byte) (s0 : State) : Ends s0 (execSessionRecord m s0) := by
  unfold execSessionRecord
  repeat' (first
    | with_reducible exact Keeps.refl _
    | (with_reducible apply Ends.step (spdmRow_ends _ _ ?_))
    | (with_reducible apply Keeps.step (ansRecord_keeps ..))
    | intro _)

theorem execReturn_ends (a : List Byte) (s0 : State) : Ends s0 (execReturn a s0) := by
  unfold execReturn
  repeat' (first
    | with_reducible exact Keeps.refl _
    | (with_reducible apply Ends.step (mgmtRow_ends ..)))

theorem execReprovision_ends (a : List Byte) (s0 : State) : Ends s0 (execReprovision a s0) := by
  unfold execReprovision
  repeat' (first
    | with_reducible exact Keeps.refl _
    | (with_reducible apply Ends.step (mgmtRow_ends ..)))

theorem spdmVersion_keeps (m : List Byte) (s0 : State) : Keeps s0 (spdmVersion m s0).2 := by
  unfold spdmVersion
  repeat' (first
    | with_reducible exact Keeps.refl _
    | (with_reducible apply Keeps.step (modSpdm_keeps ..)))

theorem spdmCaps_keeps (m : List Byte) (s0 : State) : Keeps s0 (spdmCaps m s0).2 := by
  unfold spdmCaps
  repeat' (first
    | with_reducible exact Keeps.refl _
    | (with_reducible apply Keeps.step (modSpdm_keeps ..))
    | (extract_lets +onlyGivenNames x)
    | split)

theorem spdmAlgs_keeps (m : List Byte) (s0 : State) : Keeps s0 (spdmAlgs m s0).2 := by
  unfold spdmAlgs
  repeat' (first
    | with_reducible exact Keeps.refl _
    | (with_reducible apply Keeps.step (modSpdm_keeps ..))
    | (extract_lets +onlyGivenNames x)
    | split)

theorem spdmDigests_keeps (m : List Byte) (s0 : State) : Keeps s0 (spdmDigests m s0).2 := by
  unfold spdmDigests
  repeat' (first
    | with_reducible exact Keeps.refl _
    | (with_reducible apply Keeps.step (modSpdm_keeps ..))
    | (extract_lets +onlyGivenNames x)
    | split)

theorem spdmCert_keeps (m : List Byte) (s0 : State) : Keeps s0 (spdmCert m s0).2 := by
  unfold spdmCert
  repeat' (first
    | with_reducible exact Keeps.refl _
    | (with_reducible apply Keeps.step (modSpdm_keeps ..))
    | (extract_lets +onlyGivenNames x)
    | split)

theorem spdmChallenge_keeps (m : List Byte) (s0 : State) : Keeps s0 (spdmChallenge m s0).2 := by
  unfold spdmChallenge
  repeat' (first
    | with_reducible exact Keeps.refl _
    | (with_reducible apply Keeps.step (drbg_keeps ..))
    | (with_reducible apply Keeps.step (modSpdm_keeps ..))
    | (extract_lets +onlyGivenNames x)
    | split)

theorem spdmMeas_keeps (m : List Byte) (s0 : State) : Keeps s0 (spdmMeas m s0).2 := by
  unfold spdmMeas
  repeat' (first
    | with_reducible exact Keeps.refl _
    | (with_reducible apply Keeps.step (drbg_keeps ..))
    | (with_reducible apply Keeps.step (modSpdm_keeps ..))
    | (with_reducible refine Keeps.snd (by assumption) ?_)
    | (extract_lets +onlyGivenNames x)
    | split)

theorem spdmAnswer_keeps (m : List Byte) (s0 : State) : Keeps s0 (spdmAnswer m s0).2 := by
  unfold spdmAnswer
  repeat' (first
    | with_reducible exact Keeps.refl _
    | (with_reducible apply Keeps.step (spdmVersion_keeps ..))
    | (with_reducible apply Keeps.step (spdmCaps_keeps ..))
    | (with_reducible apply Keeps.step (spdmAlgs_keeps ..))
    | (with_reducible apply Keeps.step (spdmDigests_keeps ..))
    | (with_reducible apply Keeps.step (spdmCert_keeps ..))
    | (with_reducible apply Keeps.step (spdmChallenge_keeps ..))
    | (with_reducible apply Keeps.step (spdmMeas_keeps ..))
    | (with_reducible apply Keeps.step (ansVendor_keeps ..))
    | (extract_lets +onlyGivenNames x)
    | split)

theorem chunkTake_keeps (m : List Byte) (h : Nat) (q : Nat) (size : Nat) (b : List Byte) (s0 : State) : Keeps s0 (chunkTake m h q size b s0).2 := by
  unfold chunkTake
  repeat' (first
    | with_reducible exact Keeps.refl _
    | with_reducible assumption
    | (with_reducible apply Keeps.step (modSpdm_keeps ..))
    | (with_reducible apply Keeps.step (spdmAnswer_keeps ..))
    | (with_reducible apply Keeps.step (largeAnswer_keeps ..))
    | (extract_lets +onlyGivenNames x; refine Keeps.cutK (t := x) ?_ ?_ <;> first | (intro _; clear_value x) | subst x)
    | (extract_lets +onlyGivenNames x)
    | split)

theorem spdmChunkSend_keeps (m : List Byte) (s0 : State) : Keeps s0 (spdmChunkSend m s0).2 := by
  unfold spdmChunkSend
  repeat' (first
    | with_reducible exact Keeps.refl _
    | (with_reducible apply Keeps.step (chunkTake_keeps ..))
    | (with_reducible apply Keeps.step (modSpdm_keeps ..))
    | (extract_lets +onlyGivenNames x)
    | split)

theorem execChallenge_ends (m : List Byte) (s0 : State) : Ends s0 (execChallenge m s0) := by
  unfold execChallenge
  repeat' (first
    | with_reducible exact Keeps.refl _
    | (with_reducible apply Ends.step (spdmRow_ends _ _ ?_))
    | (with_reducible apply Keeps.step (spdmChallenge_keeps ..))
    | intro _)

theorem execDecommission_ends (a : List Byte) (s0 : State) : Ends s0 (execDecommission a s0) := by
  unfold execDecommission
  repeat' (first
    | with_reducible exact Keeps.refl _
    | (with_reducible apply Ends.step (mgmtRow_ends ..)))

theorem execProvision_ends (a : List Byte) (s0 : State) : Ends s0 (execProvision a s0) := by
  unfold execProvision
  repeat' (first
    | with_reducible exact Keeps.refl _
    | (with_reducible apply Ends.step (mgmtRow_ends ..)))

theorem execSessionOpen_ends (m : List Byte) (s0 : State) : Ends s0 (execSessionOpen m s0) := by
  unfold execSessionOpen
  repeat' (first
    | with_reducible exact Keeps.refl _
    | (with_reducible apply Ends.step (spdmRow_ends _ _ ?_))
    | (with_reducible apply Keeps.step (ansOpen_keeps ..))
    | intro _)

theorem execGetDigests_ends (m : List Byte) (s0 : State) : Ends s0 (execGetDigests m s0) := by
  unfold execGetDigests
  repeat' (first
    | with_reducible exact Keeps.refl _
    | (with_reducible apply Ends.step (spdmRow_ends _ _ ?_))
    | (with_reducible apply Keeps.step (spdmDigests_keeps ..))
    | intro _)

theorem execGetCertificate_ends (m : List Byte) (s0 : State) : Ends s0 (execGetCertificate m s0) := by
  unfold execGetCertificate
  repeat' (first
    | with_reducible exact Keeps.refl _
    | (with_reducible apply Ends.step (spdmRow_ends _ _ ?_))
    | (with_reducible apply Keeps.step (spdmCert_keeps ..))
    | intro _)

theorem execGetVersion_ends (m : List Byte) (s0 : State) : Ends s0 (execGetVersion m s0) := by
  unfold execGetVersion
  repeat' (first
    | with_reducible exact Keeps.refl _
    | (with_reducible apply Ends.step (spdmRow_ends _ _ ?_))
    | (with_reducible apply Keeps.step (spdmVersion_keeps ..))
    | intro _)

theorem execGetCapabilities_ends (m : List Byte) (s0 : State) : Ends s0 (execGetCapabilities m s0) := by
  unfold execGetCapabilities
  repeat' (first
    | with_reducible exact Keeps.refl _
    | (with_reducible apply Ends.step (spdmRow_ends _ _ ?_))
    | (with_reducible apply Keeps.step (spdmCaps_keeps ..))
    | intro _)

theorem execNegotiateAlgorithms_ends (m : List Byte) (s0 : State) : Ends s0 (execNegotiateAlgorithms m s0) := by
  unfold execNegotiateAlgorithms
  repeat' (first
    | with_reducible exact Keeps.refl _
    | (with_reducible apply Ends.step (spdmRow_ends _ _ ?_))
    | (with_reducible apply Keeps.step (spdmAlgs_keeps ..))
    | intro _)

theorem execGetMeasurements_ends (m : List Byte) (s0 : State) : Ends s0 (execGetMeasurements m s0) := by
  unfold execGetMeasurements
  repeat' (first
    | with_reducible exact Keeps.refl _
    | (with_reducible apply Ends.step (spdmRow_ends _ _ ?_))
    | (with_reducible apply Keeps.step (spdmMeas_keeps ..))
    | intro _)

theorem execChunkSend_ends (m : List Byte) (s0 : State) : Ends s0 (execChunkSend m s0) := by
  unfold execChunkSend
  repeat' (first
    | with_reducible exact Keeps.refl _
    | (with_reducible apply Ends.step (spdmRow_ends _ _ ?_))
    | (with_reducible apply Keeps.step (spdmChunkSend_keeps ..))
    | intro _)

theorem execSessionAuth_ends (m : List Byte) (s0 : State) : Ends s0 (execSessionAuth m s0) := by
  unfold execSessionAuth
  repeat' (first
    | with_reducible exact Keeps.refl _
    | (with_reducible apply Ends.step (spdmRow_ends _ _ ?_))
    | (with_reducible apply Keeps.step (ansAuth_keeps ..))
    | intro _)

theorem execSessionIdleTimeout_ends (s0 : State) : Ends s0 (execSessionIdleTimeout s0) := by
  unfold execSessionIdleTimeout
  repeat' (first
    | with_reducible exact Keeps.refl _
    | (with_reducible apply ok_ends)
    | (with_reducible apply Keeps.step (modMsp_keeps ..))
    | (with_reducible apply Keeps.step (advanceMaster_keeps ..))
    | split)

theorem execPskInstall_ends (a : List Byte) (s0 : State) : Ends s0 (execPskInstall a s0) := by
  unfold execPskInstall
  repeat' (first
    | with_reducible exact Keeps.refl _
    | (with_reducible apply Ends.step (mgmtRow_ends ..)))

theorem execPskDelete_ends (a : List Byte) (s0 : State) : Ends s0 (execPskDelete a s0) := by
  unfold execPskDelete
  repeat' (first
    | with_reducible exact Keeps.refl _
    | (with_reducible apply Ends.step (mgmtRow_ends ..)))

theorem execConfigWrite_ends (a : List Byte) (s0 : State) : Ends s0 (execConfigWrite a s0) := by
  unfold execConfigWrite
  repeat' (first
    | with_reducible exact Keeps.refl _
    | (with_reducible apply Ends.step (mgmtRow_ends ..)))

theorem execTamperClear_ends (a : List Byte) (s0 : State) : Ends s0 (execTamperClear a s0) := by
  unfold execTamperClear
  repeat' (first
    | with_reducible exact Keeps.refl _
    | (with_reducible apply Ends.step (mgmtRow_ends ..)))

theorem execRevokeFwKey_ends (a : List Byte) (s0 : State) : Ends s0 (execRevokeFwKey a s0) := by
  unfold execRevokeFwKey
  repeat' (first
    | with_reducible exact Keeps.refl _
    | (with_reducible apply Ends.step (mgmtRow_ends ..)))

theorem updateFail_keeps (s0 : State) : Keeps s0 (updateFail s0) := by
  unfold updateFail
  repeat' (first
    | with_reducible exact Keeps.refl _
    | (with_reducible apply Keeps.step (dropUpdate_keeps ..))
    | (with_reducible apply Keeps.step (advisory_keeps ..))
    | (with_reducible apply Keeps.step (runAgent_keeps ..))
    | (with_reducible apply Keeps.step (modMsp_keeps ..)))

theorem updateEnd_keeps (u : FwUpdate) (s0 : State) : Keeps s0 (updateEnd u s0) := by
  unfold updateEnd
  repeat' (first
    | with_reducible exact Keeps.refl _
    | with_reducible assumption
    | (with_reducible apply Keeps.step (updateFail_keeps ..))
    | (with_reducible apply Keeps.step (mgmtReset_keeps ..))
    | (with_reducible apply Keeps.step (modMsp_keeps ..))
    | (with_reducible apply Keeps.step (complete_keeps ..))
    | (with_reducible apply Keeps.step (cntAdd_keeps ..))
    | (extract_lets +onlyGivenNames x; refine Keeps.cutK (t := x) ?_ ?_ <;> first | (intro _; clear_value x) | subst x)
    | (extract_lets +onlyGivenNames x)
    | (with_reducible apply Keeps.ite))

theorem execEntdaa_ends (a : Nat) (s0 : State) : Ends s0 (execEntdaa a s0) := by
  unfold execEntdaa
  repeat' (first
    | with_reducible exact Keeps.refl _
    | (with_reducible apply ok_ends)
    | (with_reducible apply Keeps.step (modPwr_keeps ..))
    | exact Ends.refused _
    | (with_reducible apply Ends.ite))

theorem execTamperLoopMeasure_ends (good : Bool) (s0 : State) : Ends s0 (execTamperLoopMeasure good s0) := by
  unfold execTamperLoopMeasure
  repeat' (first
    | with_reducible exact Keeps.refl _
    | with_reducible assumption
    | (with_reducible apply ok_ends)
    | (with_reducible apply Keeps.step (modMsp_keeps ..))
    | (with_reducible apply Keeps.step (tamper_keeps ..))
    | (extract_lets +onlyGivenNames x; refine Ends.cutK (t := x) ?_ ?_ <;> first | (intro _; clear_value x) | subst x)
    | (extract_lets +onlyGivenNames x)
    | (with_reducible apply Ends.ite))

theorem execTamperEvent_ends (src : Nat) (s0 : State) : Ends s0 (execTamperEvent src s0) := by
  unfold execTamperEvent
  repeat' (first
    | with_reducible exact Keeps.refl _
    | (with_reducible apply ok_ends)
    | (with_reducible apply Keeps.step (tamper_keeps ..))
    | exact Ends.refused _
    | (with_reducible apply Ends.ite))

theorem execKeystoreErase_ends (s0 : State) : Ends s0 (execKeystoreErase s0) := by
  unfold execKeystoreErase
  repeat' (first
    | with_reducible exact Keeps.refl _
    | (with_reducible apply ok_ends)
    | (with_reducible apply Keeps.step (modMsp_keeps ..))
    | (with_reducible apply Ends.ite))

theorem execMctpControlMessage_ends (m : List Byte) (s0 : State) : Ends s0 (execMctpControlMessage m s0) := by
  unfold execMctpControlMessage
  repeat' (first
    | exact Keeps.refl _
    | (with_reducible apply ok_ends)
    | (with_reducible apply Keeps.step (emit_keeps ..))
    | (with_reducible apply Ends.step (mctpRow_ends _ _ ?_))
    | intro _
    | (with_reducible apply Ends.ite))

theorem execMspWatchdog_ends (s0 : State) : Ends s0 (execMspWatchdog s0) := by
  unfold execMspWatchdog
  repeat' (first
    | with_reducible exact Keeps.refl _
    | (with_reducible apply ok_ends)
    | (with_reducible apply Keeps.step (mgmtReset_keeps ..))
    | (with_reducible apply Keeps.step (dropUpdate_keeps ..))
    | (with_reducible apply Keeps.step (advisory_keeps ..))
    | (with_reducible apply Ends.ite))

theorem execManagementReset_ends (s0 : State) : Ends s0 (execManagementReset s0) := by
  unfold execManagementReset
  repeat' (first
    | with_reducible exact Keeps.refl _
    | (with_reducible apply ok_ends)
    | (with_reducible apply Keeps.step (mgmtReset_keeps ..))
    | (with_reducible apply Keeps.step (dropUpdate_keeps ..))
    | (with_reducible apply Ends.ite))

theorem execSectorProgramComplete_ends (good : Bool) (s0 : State) : Ends s0 (execSectorProgramComplete good s0) := by
  unfold execSectorProgramComplete
  repeat' (first
    | with_reducible exact Keeps.refl _
    | with_reducible assumption
    | (with_reducible apply ok_ends)
    | (with_reducible apply Keeps.step (updateFail_keeps ..))
    | (with_reducible apply Keeps.step (norProgram_keeps ..))
    | (with_reducible apply Keeps.step (modMsp_keeps ..))
    | (with_reducible apply Keeps.step (updateEnd_keeps ..))
    | (extract_lets +onlyGivenNames x; refine Ends.cutK (t := x) ?_ ?_ <;> first | (intro _; clear_value x) | subst x)
    | (extract_lets +onlyGivenNames x)
    | (with_reducible apply Keeps.ite)
    | (with_reducible apply Ends.ite)
    | split)

theorem execCommandInterrupted_ends (t : Tag) (s0 : State) : Ends s0 (execCommandInterrupted t s0) := by
  unfold execCommandInterrupted
  repeat' (first
    | with_reducible exact Keeps.refl _
    | (with_reducible apply ok_ends)
    | (with_reducible apply Keeps.step (refuse_keeps ..))
    | (with_reducible apply Keeps.step (complete_keeps ..))
    | (extract_lets +onlyGivenNames x)
    | (with_reducible apply Ends.ite)
    | split)

end Sys2Proof.Machine
end

