-- ==== Sys2Proof/Laws/KeepsRows.lean ====
section
/-! SUPPORT. Every definition of Sre, Capsule, VectorOps, QuantOps, SampleOps, ScalarOps, SyncOps, Tick that answers a state keeps the queue, the canonical form of the
memories and the islands' rule (the remaining rows and the tick). -/
namespace Sys2Proof.Machine
open Sys2Proof

theorem searchCmd_keeps (t : Tag) (q : Sqe) (d : List Byte) (s0 : State) : Keeps s0 (searchCmd t q d s0) := by
  unfold searchCmd
  repeat' (first
    | with_reducible exact Keeps.refl _
    | (with_reducible apply Keeps.step (complete_keeps ..))
    | (with_reducible apply Keeps.step (querySubmitCheck_keeps ..))
    | (with_reducible apply Keeps.step (refuse_keeps ..))
    | (with_reducible apply Keeps.step (acceptQuery_keeps ..))
    | (with_reducible refine Keeps.snd (by assumption) ?_)
    | (extract_lets +onlyGivenNames x)
    | (with_reducible apply Keeps.ite)
    | split)

theorem execSearch_ends (t : Tag) (q : Sqe) (d : List Byte) (s0 : State) : Ends s0 (execSearch t q d s0) := by
  unfold execSearch
  repeat' (first
    | with_reducible exact Keeps.refl _
    | (with_reducible apply Ends.step (bcsRow_ends _ _ _ _ _ _ ?_))
    | (with_reducible apply Keeps.step (searchCmd_keeps ..))
    | intro _)

theorem scanRead_keeps (n : Ns) (a1 : Nat) (a2 : Nat) (a3 : Nat) (a4 : ScanSt) (s0 : State) : Keeps s0 (scanRead n a1 a2 a3 a4 s0).2.2 := by
  fun_induction scanRead n a1 a2 a3 a4 s0
  all_goals repeat' (first
    | with_reducible exact Keeps.refl _
    | (with_reducible refine Keeps.step (by assumption) ?_)
    | (with_reducible apply Keeps.step (unitData_keeps ..))
    | (with_reducible refine Keeps.snd (by assumption) ?_)
    | (with_reducible refine Keeps.snd2 (by assumption) ?_)
    | (extract_lets +onlyGivenNames x)
    | (simp +zetaDelta only [])
    | split)

theorem countEval_keeps (pg : Nat) (bytes : Nat) (v : FilterV) (s0 : State) : Keeps s0 (countEval pg bytes v s0) := by
  unfold countEval
  repeat' (first
    | with_reducible exact Keeps.refl _
    | with_reducible assumption
    | (with_reducible apply Keeps.step (cntAdd_keeps ..))
    | (with_reducible apply Keeps.step (advisory_keeps ..))
    | (extract_lets +onlyGivenNames x; refine Keeps.cutK (t := x) ?_ ?_ <;> first | (intro _; clear_value x) | subst x)
    | split)

theorem scanLoop_keeps (p : ScanParm) (n : Ns) (hi : Nat) (a3 : Nat) (a4 : Nat) (a5 : ScanSt) (s0 : State) : Keeps s0 (scanLoop p n hi a3 a4 a5 s0).2.2 := by
  fun_induction scanLoop p n hi a3 a4 a5 s0
  all_goals repeat' (first
    | with_reducible exact Keeps.refl _
    | (with_reducible refine Keeps.step (by assumption) ?_)
    | (with_reducible apply Keeps.step (scanRead_keeps ..))
    | (with_reducible apply Keeps.step (countEval_keeps ..))
    | (with_reducible refine Keeps.snd (by assumption) ?_)
    | (with_reducible refine Keeps.snd2 (by assumption) ?_))

theorem runScan_keeps (t : Tag) (p : ScanParm) (n : Ns) (s0 : State) : Keeps s0 (runScan t p n s0) := by
  unfold runScan
  repeat' (first
    | with_reducible exact Keeps.refl _
    | (with_reducible apply Keeps.step (scanLoop_keeps ..))
    | (with_reducible apply Keeps.step (cntAdd_keeps ..))
    | (with_reducible apply Keeps.step (succeed_keeps ..))
    | (with_reducible apply Keeps.step (jobErr_keeps ..))
    | (with_reducible refine Keeps.snd2 (by assumption) ?_)
    | (extract_lets +onlyGivenNames x)
    | (with_reducible apply Keeps.ite)
    | split)

theorem scanCmd_keeps (t : Tag) (q : Sqe) (d : List Byte) (s0 : State) : Keeps s0 (scanCmd t q d s0) := by
  unfold scanCmd
  repeat' (first
    | with_reducible exact Keeps.refl _
    | with_reducible assumption
    | (with_reducible apply Keeps.step (mteBusy_keeps ..))
    | (with_reducible apply Keeps.step (complete_keeps ..))
    | (with_reducible apply Keeps.step (refuse_keeps ..))
    | (with_reducible apply Keeps.step (filterRefuse_keeps ..))
    | (with_reducible apply Keeps.step (runScan_keeps ..))
    | (with_reducible apply Keeps.step (cntAdd_keeps ..))
    | (extract_lets +onlyGivenNames x; refine Keeps.cutK (t := x) ?_ ?_ <;> first | (intro _; clear_value x) | subst x)
    | (extract_lets +onlyGivenNames x)
    | (with_reducible apply Keeps.ite)
    | split)

theorem execScan_ends (t : Tag) (q : Sqe) (d : List Byte) (s0 : State) : Ends s0 (execScan t q d s0) := by
  unfold execScan
  repeat' (first
    | with_reducible exact Keeps.refl _
    | (with_reducible apply Ends.step (bcsRow_ends _ _ _ _ _ _ ?_))
    | (with_reducible apply Keeps.step (scanCmd_keeps ..))
    | intro _)

theorem level1Row_ends (t : Tag) (op : Nat) (q : Sqe) (s0 : State) : Ends s0 (level1Row t op q s0) := by
  unfold level1Row
  repeat' (first
    | with_reducible exact Keeps.refl _
    | (with_reducible apply Ends.step (bcsRow_ends _ _ _ _ _ _ ?_))
    | (with_reducible apply Keeps.step (complete_keeps ..))
    | intro _)

theorem ingestCmd_keeps (t : Tag) (q : Sqe) (d : List Byte) (s0 : State) : Keeps s0 (ingestCmd t q d s0) := by
  unfold ingestCmd
  repeat' (first
    | with_reducible exact Keeps.refl _
    | with_reducible assumption
    | (with_reducible apply Keeps.step (mteBusy_keeps ..))
    | (with_reducible apply Keeps.step (complete_keeps ..))
    | (with_reducible apply Keeps.step (refuse_keeps ..))
    | (with_reducible apply Keeps.step (refuseWorn_keeps ..))
    | (with_reducible apply Keeps.step (ingestRefuse_keeps ..))
    | (with_reducible apply Keeps.step (askWrite_keeps ..))
    | (extract_lets +onlyGivenNames x; refine Keeps.cutK (t := x) ?_ ?_ <;> first | (intro _; clear_value x) | subst x)
    | (extract_lets +onlyGivenNames x)
    | (with_reducible apply Keeps.ite)
    | split)

theorem execIngest_ends (t : Tag) (q : Sqe) (d : List Byte) (s0 : State) : Ends s0 (execIngest t q d s0) := by
  unfold execIngest
  repeat' (first
    | with_reducible exact Keeps.refl _
    | (with_reducible apply Ends.step (level1Row_ends ..))
    | (with_reducible apply Ends.step (bcsRow_ends _ _ _ _ _ _ ?_))
    | (with_reducible apply Keeps.step (ingestCmd_keeps ..))
    | intro _
    | (with_reducible apply Ends.ite))

theorem mutateCmd_keeps (t : Tag) (q : Sqe) (d : List Byte) (s0 : State) : Keeps s0 (mutateCmd t q d s0) := by
  unfold mutateCmd
  repeat' (first
    | with_reducible exact Keeps.refl _
    | (with_reducible apply Keeps.step (complete_keeps ..))
    | (with_reducible apply Keeps.step (refuse_keeps ..))
    | (with_reducible apply Keeps.step (refuseWorn_keeps ..))
    | (with_reducible apply Keeps.step (askWrite_keeps ..))
    | (with_reducible apply Keeps.step (mutate_keeps ..))
    | (extract_lets +onlyGivenNames x)
    | (with_reducible apply Keeps.ite)
    | split)

theorem execIndexMutate_ends (t : Tag) (q : Sqe) (d : List Byte) (s0 : State) : Ends s0 (execIndexMutate t q d s0) := by
  unfold execIndexMutate
  repeat' (first
    | with_reducible exact Keeps.refl _
    | (with_reducible apply Ends.step (level1Row_ends ..))
    | (with_reducible apply Ends.step (bcsRow_ends _ _ _ _ _ _ ?_))
    | (with_reducible apply Keeps.step (mutateCmd_keeps ..))
    | intro _
    | (with_reducible apply Ends.ite))

theorem execQueryComplete_ends (job : Nat) (s0 : State) : Ends s0 (execQueryComplete job s0) := by
  unfold execQueryComplete
  repeat' (first
    | with_reducible exact Keeps.refl _
    | (with_reducible apply ok_ends)
    | (with_reducible apply Keeps.step (pumpQueries_keeps ..))
    | (with_reducible apply Keeps.step (settleIdx_keeps ..))
    | (with_reducible apply Keeps.step (runQuery_keeps ..))
    | split)

theorem execCompactionSwitch_ends (index : Nat) (s0 : State) : Ends s0 (execCompactionSwitch index s0) := by
  unfold execCompactionSwitch
  repeat' (first
    | with_reducible exact Keeps.refl _
    | (with_reducible apply ok_ends)
    | (with_reducible apply Keeps.step (settleIdx_keeps ..))
    | (with_reducible apply Keeps.step (modIdx_keeps ..))
    | (with_reducible apply Ends.ite)
    | split)

theorem execIngestInsert_ends (job : Nat) (s0 : State) : Ends s0 (execIngestInsert job s0) := by
  unfold execIngestInsert
  repeat' (first
    | with_reducible exact Keeps.refl _
    | (with_reducible apply ok_ends)
    | (with_reducible apply Keeps.step (mteBusy_keeps ..))
    | (with_reducible apply Keeps.step (ingestInsert_keeps ..))
    | (with_reducible apply Ends.ite)
    | split)

theorem execSreHoldWrite_ends (p : Path) (w : Word) (s0 : State) : Ends s0 (execSreHoldWrite p w s0) := by
  unfold execSreHoldWrite
  repeat' (first
    | with_reducible exact Keeps.refl _
    | (with_reducible apply Ends.step (regRow_ends _ _ _ _ _ ?_))
    | (with_reducible apply Keeps.step (pumpQueries_keeps ..))
    | (with_reducible apply Keeps.step (storeRw_keeps ..))
    | intro _)

theorem execMergeDeadline_ends (job : Nat) (s0 : State) : Ends s0 (execMergeDeadline job s0) := by
  unfold execMergeDeadline
  repeat' (first
    | with_reducible exact Keeps.refl _
    | (with_reducible apply ok_ends)
    | (with_reducible apply Keeps.step (pumpQueries_keeps ..))
    | (with_reducible apply Keeps.step (settleIdx_keeps ..))
    | (with_reducible apply Keeps.step (mergeDone_keeps ..))
    | (with_reducible apply Keeps.step (advanceTo_keeps ..))
    | split)

theorem execDeltaRebuild_ends (index : Nat) (good : Bool) (s0 : State) : Ends s0 (execDeltaRebuild index good s0) := by
  unfold execDeltaRebuild
  repeat' (first
    | with_reducible exact Keeps.refl _
    | with_reducible assumption
    | (with_reducible apply ok_ends)
    | (with_reducible apply Keeps.step (corrected_keeps ..))
    | (with_reducible apply Keeps.step (modIdx_keeps ..))
    | (with_reducible apply Keeps.step (abortQuery_keeps ..))
    | (with_reducible apply Keeps.step (refuse_keeps ..))
    | (with_reducible apply Keeps.step (pumpQueries_keeps ..))
    | (with_reducible apply Keeps.step (settleIdx_keeps ..))
    | (with_reducible apply Keeps.step (Keeps.foldl ?_ _ _))
    | (extract_lets +onlyGivenNames x; refine Ends.cutK (t := x) ?_ ?_ <;> first | (intro _; clear_value x) | subst x)
    | (extract_lets +onlyGivenNames x)
    | intro _
    | (with_reducible apply Ends.ite)
    | split)

theorem solicit_keeps (conn : Nat) (cid : Nat) (a2 : Nat) (s0 : State) : Keeps s0 (solicit conn cid a2 s0) := by
  fun_induction solicit conn cid a2 s0
  all_goals repeat' (first
    | with_reducible exact Keeps.refl _
    | (with_reducible refine Keeps.step (by assumption) ?_)
    | (with_reducible apply Keeps.step (emit_keeps ..))
    | (with_reducible apply Keeps.step (modConn_keeps ..))
    | (with_reducible apply Keeps.step (cntAdd_keeps ..)))

theorem loneCommand_ends (op : Nat) (t : Tag) (q : Sqe) (d : List Byte) (s0 : State) : Ends s0 (loneCommand op t q d s0) := by
  unfold loneCommand
  repeat' (first
    | with_reducible exact Keeps.refl _
    | (with_reducible apply ok_ends)
    | (with_reducible apply Keeps.step (connReply_keeps ..))
    | (with_reducible apply Ends.step (execConnect_ends ..))
    | (with_reducible apply Ends.ite))

theorem awaitData_keeps (op : Nat) (t : Tag) (q : Sqe) (d : List Byte) (s0 : State) : Keeps s0 (awaitData op t q d s0) := by
  unfold awaitData
  repeat' (first
    | with_reducible exact Keeps.refl _
    | (with_reducible refine Keeps.step (fetch_error (by assumption)) ?_)
    | (with_reducible refine Keeps.step (fetch_ok (by assumption)) ?_)
    | (with_reducible apply Keeps.step (solicit_keeps ..))
    | (with_reducible apply Keeps.step (modConn_keeps ..))
    | split)

theorem setFeaturesCommand_ends (t : Tag) (q : Sqe) (d : List Byte) (s0 : State) : Ends s0 (setFeaturesCommand t q d s0) := by
  unfold setFeaturesCommand
  repeat' (first
    | with_reducible exact Keeps.refl _
    | (with_reducible apply Ends.step (execSetFeaturesPowerManagement_ends ..))
    | (with_reducible apply Ends.step (execSetFeaturesNumberOfQueues_ends ..))
    | (with_reducible apply Ends.step (execSetFeatures_ends ..))
    | split)

theorem fabricsCommand_ends (t : Tag) (q : Sqe) (d : List Byte) (s0 : State) : Ends s0 (fabricsCommand t q d s0) := by
  unfold fabricsCommand
  repeat' (first
    | with_reducible exact Keeps.refl _
    | (with_reducible apply Ends.step (execPropertySet_ends ..))
    | (with_reducible apply Ends.step (execConnect_ends ..))
    | (with_reducible apply Ends.step (execPropertyGet_ends ..))
    | (with_reducible apply Ends.step (execDisconnect_ends ..))
    | (with_reducible apply Ends.step (execInvalidCommandOpcode_ends ..))
    | split)

theorem adminCommand_ends (op : Nat) (t : Tag) (q : Sqe) (d : List Byte) (s0 : State) : Ends s0 (adminCommand op t q d s0) := by
  unfold adminCommand
  repeat' (first
    | with_reducible exact Keeps.refl _
    | (with_reducible apply Ends.step (execGetLogPage_ends ..))
    | (with_reducible apply Ends.step (execIdentify_ends ..))
    | (with_reducible apply Ends.step (execAbort_ends ..))
    | (with_reducible apply Ends.step (setFeaturesCommand_ends ..))
    | (with_reducible apply Ends.step (execGetFeatures_ends ..))
    | (with_reducible apply Ends.step (execAsynchronousEventRequest_ends ..))
    | (with_reducible apply Ends.step (execNamespaceManagement_ends ..))
    | (with_reducible apply Ends.step (execFirmwareCommit_ends ..))
    | (with_reducible apply Ends.step (execFirmwareImageDownload_ends ..))
    | (with_reducible apply Ends.step (execNamespaceAttachment_ends ..))
    | (with_reducible apply Ends.step (execKeepAlive_ends ..))
    | (with_reducible apply Ends.step (fabricsCommand_ends ..))
    | (with_reducible apply Ends.step (execFormatNvm_ends ..))
    | (with_reducible apply Ends.step (execSanitize_ends ..))
    | (with_reducible apply Ends.step (execRegisterWindowWrite_ends ..))
    | (with_reducible apply Ends.step (execRegisterWindowRead_ends ..))
    | (with_reducible apply Ends.step (execInvalidCommandOpcode_ends ..))
    | split)

theorem ioCommand_ends (op : Nat) (t : Tag) (q : Sqe) (d : List Byte) (s0 : State) : Ends s0 (ioCommand op t q d s0) := by
  unfold ioCommand
  repeat' (first
    | with_reducible exact Keeps.refl _
    | (with_reducible apply Ends.step (execFlush_ends ..))
    | (with_reducible apply Ends.step (execNvmWrite_ends ..))
    | (with_reducible apply Ends.step (execNvmRead_ends ..))
    | (with_reducible apply Ends.step (execWriteZeroes_ends ..))
    | (with_reducible apply Ends.step (execDatasetManagement_ends ..))
    | (with_reducible apply Ends.step (execNvmVerify_ends ..))
    | (with_reducible apply Ends.step (fabricsCommand_ends ..))
    | (with_reducible apply Ends.step (execLoadContext_ends ..))
    | (with_reducible apply Ends.step (execWriteChart_ends ..))
    | (with_reducible apply Ends.step (execOutputDrain_ends ..))
    | (with_reducible apply Ends.step (execSearch_ends ..))
    | (with_reducible apply Ends.step (execUnloadContext_ends ..))
    | (with_reducible apply Ends.step (execSequenceJoin_ends ..))
    | (with_reducible apply Ends.step (execRegisterWindowRead_ends ..))
    | (with_reducible apply Ends.step (execScan_ends ..))
    | (with_reducible apply Ends.step (execBindIsland_ends ..))
    | (with_reducible apply Ends.step (execIngest_ends ..))
    | (with_reducible apply Ends.step (execSwapChart_ends ..))
    | (with_reducible apply Ends.step (execIndexMutate_ends ..))
    | (with_reducible apply Ends.step (execSequenceLeave_ends ..))
    | (with_reducible apply Ends.step (execRegisterWindowWrite_ends ..))
    | (with_reducible apply Ends.step (execInvalidCommandOpcode_ends ..))
    | split)

theorem runCommand_ends (op : Nat) (t : Tag) (q : Sqe) (d : List Byte) (s0 : State) : Ends s0 (runCommand op t q d s0) := by
  unfold runCommand
  repeat' (first
    | with_reducible exact Keeps.refl _
    | (with_reducible apply Ends.step (adminCommand_ends ..))
    | (with_reducible apply Ends.step (ioCommand_ends ..))
    | (with_reducible apply Ends.ite))

theorem execCommandCapsule_ends (conn : Nat) (op : Nat) (cid : Nat) (q : Sqe) (d : List Byte) (pdu : PduCheck) (s0 : State) : Ends s0 (execCommandCapsule conn op cid q d pdu s0) := by
  unfold execCommandCapsule
  repeat' (first
    | with_reducible exact Keeps.refl _
    | with_reducible assumption
    | (with_reducible apply ok_ends)
    | (with_reducible apply Keeps.step (queueErr_keeps ..))
    | (with_reducible apply Keeps.step (cntAdd_keeps ..))
    | (with_reducible apply Ends.step (loneCommand_ends ..))
    | (with_reducible apply Keeps.step (discardCapsule_keeps ..))
    | (with_reducible apply Keeps.step (awaitData_keeps ..))
    | (with_reducible apply Ends.step (runCommand_ends ..))
    | (extract_lets +onlyGivenNames x; refine Ends.cutK (t := x) ?_ ?_ <;> first | (intro _; clear_value x) | subst x)
    | (extract_lets +onlyGivenNames x)
    | (with_reducible apply Ends.ite)
    | split)

theorem runAtLevel_ends (l : Bool) (op : Nat) (t : Tag) (q : Sqe) (d : List Byte) (s0 : State) : Ends s0 (runAtLevel l op t q d s0) := by
  unfold runAtLevel
  split
  · exact runCommand_ends ..
  · have h := (runCommand_ends op t q d (modChip (fun c => { c with level1 := l }) s0)).step (modChip_keeps ..)
    split
    · next u hu => exact Ends.next (Keeps.step (modChip_keeps ..) (h.keeps u hu))
    · exact ⟨fun _ hu => by cases hu⟩
    · exact Ends.refused _

theorem execH2cData_ends (conn : Nat) (cid : Nat) (off : Nat) (d : List Byte) (pdu : PduCheck) (digestOk : Bool) (s0 : State) : Ends s0 (execH2cData conn cid off d pdu digestOk s0) := by
  unfold execH2cData
  repeat' (first
    | with_reducible exact Keeps.refl _
    | with_reducible assumption
    | (with_reducible apply ok_ends)
    | (with_reducible apply Keeps.step (queueErr_keeps ..))
    | (with_reducible apply Keeps.step (complete_keeps ..))
    | (with_reducible apply Keeps.step (cntAdd_keeps ..))
    | (with_reducible apply Keeps.step (modConn_keeps ..))
    | (with_reducible apply Ends.step (runAtLevel_ends ..))
    | (with_reducible apply Keeps.step (solicit_keeps ..))
    | (extract_lets +onlyGivenNames x; refine Ends.cutK (t := x) ?_ ?_ <;> first | (intro _; clear_value x) | subst x)
    | (extract_lets +onlyGivenNames x)
    | (with_reducible apply Ends.ite)
    | split)

theorem vsuInsn_ends {s0 : State} (k : Nat) (l1 bad : Bool) (s : State) (f : Run → Ctx → Step → Res) (hs : Keeps s0 s)
    (hf : ∀ r c st, Ends s0 (f r c st)) : Ends s0 (vsuInsn k l1 bad s f) := by
  unfold vsuInsn
  refine insn_ends _ _ _ _ _ hs ?_
  intro r c st
  repeat' (first | exact hf _ _ _ | (with_reducible apply Ends.step (stay_ends ..)) | assumption | split)

theorem vsuCnt_keeps (k : Nat) (off : Nat) (n : Nat) (s0 : State) : Keeps s0 (vsuCnt k off n s0) := by
  unfold vsuCnt
  repeat' (first
    | with_reducible exact Keeps.refl _
    | (with_reducible apply Keeps.step (cntAdd_keeps ..)))

theorem vecOp_ends (k : Nat) (f : IFields) (useY : Bool) (useD : Bool) (s0 : State) (g : Nat → Nat → Nat → Nat) : Ends s0 (vecOp k f useY useD s0 g) := by
  unfold vecOp
  repeat' (first
    | with_reducible exact Keeps.refl _
    | with_reducible assumption
    | (with_reducible apply afterChecks_ends)
    | (with_reducible apply vsuInsn_ends)
    | (with_reducible apply OptEnds.step (chkCount_opt ..))
    | (with_reducible apply OptEnds.step (chkAlign_opt ..))
    | (with_reducible apply OptEnds.step (chkRd_opt ..))
    | (with_reducible apply OptEnds.step (chkWr_opt ..))
    | (with_reducible apply rdThen_ends)
    | (with_reducible apply wrThen_ends)
    | (with_reducible apply ok_ends)
    | (with_reducible apply Keeps.step (advance_keeps ..))
    | (with_reducible apply Keeps.step (vsuCnt_keeps ..))
    | exact AllOpt.nil
    | (with_reducible apply AllOpt.cons)
    | (with_reducible apply AllOpt.append)
    | (extract_lets +onlyGivenNames x)
    | intro _
    | split)

theorem execVectorAbs_ends (k : Nat) (f : IFields) (s0 : State) : Ends s0 (execVectorAbs k f s0) := by
  unfold execVectorAbs
  repeat' (first
    | with_reducible exact Keeps.refl _
    | (with_reducible apply Ends.step (vecOp_ends ..)))

theorem execVectorMul_ends (k : Nat) (f : IFields) (s0 : State) : Ends s0 (execVectorMul k f s0) := by
  unfold execVectorMul
  repeat' (first
    | with_reducible exact Keeps.refl _
    | (with_reducible apply Ends.step (vecOp_ends ..)))

theorem execVectorMin_ends (k : Nat) (f : IFields) (s0 : State) : Ends s0 (execVectorMin k f s0) := by
  unfold execVectorMin
  repeat' (first
    | with_reducible exact Keeps.refl _
    | (with_reducible apply Ends.step (vecOp_ends ..)))

theorem execSpecialFn_ends (k : Nat) (f : IFields) (s0 : State) : Ends s0 (execSpecialFn k f s0) := by
  unfold execSpecialFn
  repeat' (first
    | with_reducible exact Keeps.refl _
    | with_reducible assumption
    | (with_reducible apply afterChecks_ends)
    | (with_reducible apply vsuInsn_ends)
    | (with_reducible apply OptEnds.step (chkCount_opt ..))
    | (with_reducible apply OptEnds.step (chkAlign_opt ..))
    | (with_reducible apply OptEnds.step (chkRd_opt ..))
    | (with_reducible apply OptEnds.step (chkWr_opt ..))
    | (with_reducible apply rdThen_ends)
    | (with_reducible apply wrThen_ends)
    | (with_reducible apply ok_ends)
    | (with_reducible apply Keeps.step (advance_keeps ..))
    | (with_reducible apply Keeps.step (vsuCnt_keeps ..))
    | exact AllOpt.nil
    | (with_reducible apply AllOpt.cons)
    | (with_reducible apply AllOpt.append)
    | (extract_lets +onlyGivenNames x)
    | intro _
    | split)

theorem execVectorAdd_ends (k : Nat) (f : IFields) (s0 : State) : Ends s0 (execVectorAdd k f s0) := by
  unfold execVectorAdd
  repeat' (first
    | with_reducible exact Keeps.refl _
    | (with_reducible apply Ends.step (vecOp_ends ..)))

theorem vsuFault_ends (k : Nat) (r : Run) (code : Code) (i : Nat) (s0 : State) : Ends s0 (vsuFault k r code i s0) := by
  unfold vsuFault
  repeat' (first
    | with_reducible exact Keeps.refl _
    | (with_reducible apply Ends.step (coreFault_ends ..))
    | (with_reducible apply Keeps.step (modCore_keeps ..)))

theorem redOp_ends (k : Nat) (f : IFields) (o : RedOp) (s0 : State) : Ends s0 (redOp k f o s0) := by
  unfold redOp
  repeat' (first
    | with_reducible exact Keeps.refl _
    | with_reducible assumption
    | (with_reducible apply afterChecks_ends)
    | (with_reducible apply vsuInsn_ends)
    | (with_reducible apply OptEnds.step (chkCount_opt ..))
    | (with_reducible apply OptEnds.step (chkAlign_opt ..))
    | (with_reducible apply OptEnds.step (chkRd_opt ..))
    | (with_reducible apply OptEnds.step (chkWr_opt ..))
    | (with_reducible apply rdThen_ends)
    | (with_reducible apply Ends.step (vsuFault_ends ..))
    | (with_reducible apply Keeps.step (vsuCnt_keeps ..))
    | (with_reducible apply wrThen_ends)
    | (with_reducible apply ok_ends)
    | (with_reducible apply Keeps.step (advance_keeps ..))
    | exact AllOpt.nil
    | (with_reducible apply AllOpt.cons)
    | (with_reducible apply AllOpt.append)
    | (extract_lets +onlyGivenNames x)
    | intro _
    | split)

theorem execRsum_ends (k : Nat) (f : IFields) (s0 : State) : Ends s0 (execRsum k f s0) := by
  unfold execRsum
  repeat' (first
    | with_reducible exact Keeps.refl _
    | (with_reducible apply Ends.step (redOp_ends ..)))

theorem execRmax_ends (k : Nat) (f : IFields) (s0 : State) : Ends s0 (execRmax k f s0) := by
  unfold execRmax
  repeat' (first
    | with_reducible exact Keeps.refl _
    | (with_reducible apply Ends.step (redOp_ends ..)))

theorem execSmapply_ends (k : Nat) (f : IFields) (s0 : State) : Ends s0 (execSmapply k f s0) := by
  unfold execSmapply
  repeat' (first
    | with_reducible exact Keeps.refl _
    | (with_reducible apply Ends.step (redOp_ends ..)))

theorem execArgmax_ends (k : Nat) (f : IFields) (s0 : State) : Ends s0 (execArgmax k f s0) := by
  unfold execArgmax
  repeat' (first
    | with_reducible exact Keeps.refl _
    | (with_reducible apply Ends.step (redOp_ends ..)))

theorem execVectorSub_ends (k : Nat) (f : IFields) (s0 : State) : Ends s0 (execVectorSub k f s0) := by
  unfold execVectorSub
  repeat' (first
    | with_reducible exact Keeps.refl _
    | (with_reducible apply Ends.step (vecOp_ends ..)))

theorem execSoftmax_ends (k : Nat) (f : IFields) (s0 : State) : Ends s0 (execSoftmax k f s0) := by
  unfold execSoftmax
  repeat' (first
    | with_reducible exact Keeps.refl _
    | (with_reducible apply Ends.step (redOp_ends ..)))

theorem execVectorMax_ends (k : Nat) (f : IFields) (s0 : State) : Ends s0 (execVectorMax k f s0) := by
  unfold execVectorMax
  repeat' (first
    | with_reducible exact Keeps.refl _
    | (with_reducible apply Ends.step (vecOp_ends ..)))

theorem execLayernorm_ends (k : Nat) (f : IFields) (s0 : State) : Ends s0 (execLayernorm k f s0) := by
  unfold execLayernorm
  repeat' (first
    | with_reducible exact Keeps.refl _
    | (with_reducible apply Ends.step (redOp_ends ..)))

theorem execVectorNeg_ends (k : Nat) (f : IFields) (s0 : State) : Ends s0 (execVectorNeg k f s0) := by
  unfold execVectorNeg
  repeat' (first
    | with_reducible exact Keeps.refl _
    | (with_reducible apply Ends.step (vecOp_ends ..)))

theorem execVectorCvt_ends (k : Nat) (f : IFields) (s0 : State) : Ends s0 (execVectorCvt k f s0) := by
  unfold execVectorCvt
  repeat' (first
    | with_reducible exact Keeps.refl _
    | (with_reducible apply Ends.step (vecOp_ends ..)))

theorem execVectorMac_ends (k : Nat) (f : IFields) (s0 : State) : Ends s0 (execVectorMac k f s0) := by
  unfold execVectorMac
  repeat' (first
    | with_reducible exact Keeps.refl _
    | (with_reducible apply Ends.step (vecOp_ends ..)))

theorem execSmstat_ends (k : Nat) (f : IFields) (s0 : State) : Ends s0 (execSmstat k f s0) := by
  unfold execSmstat
  repeat' (first
    | with_reducible exact Keeps.refl _
    | (with_reducible apply Ends.step (redOp_ends ..)))

theorem execRmsnorm_ends (k : Nat) (f : IFields) (s0 : State) : Ends s0 (execRmsnorm k f s0) := by
  unfold execRmsnorm
  repeat' (first
    | with_reducible exact Keeps.refl _
    | (with_reducible apply Ends.step (redOp_ends ..)))

theorem deqCols_error {k : Nat} {r : Run} {f : IFields} {s0 : State} {x : Res} (h : deqCols k r f s0 = .error x) : Ends s0 x := by
  unfold deqCols at h
  split at h
  · cases h
  · split at h
    · cases h; exact coreFault_ends ..
    · dsimp only at h
      split at h
      · cases h; exact Ends.trans (modCore_keeps ..) (coreFault_ends ..)
      · cases h

theorem deqScale_error {k : Nat} {r : Run} {c : Ctx} {st : Step} {f : IFields} {s0 : State} {x : Res} (h : deqScale k r c st f s0 = .error x) :
    Ends s0 x := by
  unfold deqScale at h
  dsimp only at h
  split at h
  · cases h
  · split at h
    · cases h; exact coreFault_ends ..
    · split at h
      · cases h; exact coreFault_ends ..
      · split at h
        · cases h; exact stay_ends ..
        · cases h

theorem kvWrite_keeps (c : Ctx) (layer : Nat) (scales : SMap (List Nat)) (xs : List Nat) (l : List KvRow) (m : SMap Byte) (sat : Nat) (s0 : State) :
    (∀ q u, kvWrite c layer scales xs l m sat s0 = .error (q, u) → Keeps s0 u) ∧
    (∀ w n u, kvWrite c layer scales xs l m sat s0 = .ok (w, n, u) → Keeps s0 u) := by
  induction l generalizing m sat s0 with
  | nil => exact ⟨fun _ _ h => (by cases h), fun _ _ _ h => (by cases h; exact Keeps.refl _)⟩
  | cons w l ih =>
    unfold kvWrite
    dsimp only
    split
    · exact ih _ _ _
    · have hp := burstPartChecks_keeps ((xmSegs c.layoutPhys (segFuel (2 * c.pkg.kvHeads * c.pkg.headDim)) ‹Nat› (2 * c.pkg.kvHeads * c.pkg.headDim)).flatMap fun g => match g with
          | .xm a l => partialBursts a l
          | _ => []) s0
      split
      · exact ⟨fun _ _ h => (by cases h; exact Keeps.snd (by assumption) hp), fun _ _ _ h => (by cases h)⟩
      · have h1 := Keeps.snd (by assumption) hp
        exact ⟨fun q u h => h1.trans ((ih _ _ _).1 q u h), fun a b u h => h1.trans ((ih _ _ _).2 a b u h)⟩

theorem execKvstore_ends (k : Nat) (f : IFields) (s0 : State) : Ends s0 (execKvstore k f s0) := by
  unfold execKvstore
  repeat' (first
    | with_reducible exact Keeps.refl _
    | with_reducible assumption
    | (with_reducible apply afterChecks_ends)
    | (with_reducible apply vsuInsn_ends)
    | (with_reducible apply OptEnds.step (chkCount_opt ..))
    | (with_reducible apply OptEnds.step (chkAlign_opt ..))
    | (with_reducible apply OptEnds.step (chkRd_opt ..))
    | (with_reducible apply Ends.step (stay_ends ..))
    | (with_reducible apply rdThen_ends)
    | (with_reducible refine Keeps.step ((kvWrite_keeps ..).1 _ _ (by assumption)) ?_)
    | (with_reducible refine Keeps.step ((kvWrite_keeps ..).2 _ _ _ (by assumption)) ?_)
    | (with_reducible apply ok_ends)
    | (with_reducible apply Keeps.step (readFault_keeps ..))
    | (with_reducible apply Keeps.step (modCtx_keeps ..))
    | (with_reducible apply Keeps.step (advance_keeps ..))
    | (with_reducible apply Keeps.step (vsuCnt_keeps ..))
    | exact OptEnds.none
    | (with_reducible apply OptEnds.some)
    | exact AllOpt.nil
    | (with_reducible apply AllOpt.cons)
    | (extract_lets +onlyGivenNames x)
    | intro _
    | split)

theorem execEmbed8_ends (k : Nat) (f : IFields) (s0 : State) : Ends s0 (execEmbed8 k f s0) := by
  unfold execEmbed8
  repeat' (first
    | with_reducible exact Keeps.refl _
    | with_reducible assumption
    | (with_reducible apply afterChecks_ends)
    | (with_reducible apply vsuInsn_ends)
    | (with_reducible apply OptEnds.step (chkCount_opt ..))
    | (with_reducible apply OptEnds.step (chkAlign_opt ..))
    | (with_reducible apply OptEnds.step (chkRd_opt ..))
    | (with_reducible apply OptEnds.step (chkWr_opt ..))
    | (with_reducible apply rdThen_ends)
    | (with_reducible apply wrThen_ends)
    | (with_reducible apply ok_ends)
    | (with_reducible apply Keeps.step (advance_keeps ..))
    | exact AllOpt.nil
    | (with_reducible apply AllOpt.cons)
    | (extract_lets +onlyGivenNames x)
    | intro _)

theorem histCheck_keeps (c : Ctx) (i : Nat) (s0 : State) : Keeps s0 (histCheck c i s0).2 := by
  unfold histCheck
  repeat' (first
    | with_reducible exact Keeps.refl _
    | (with_reducible apply Keeps.step (burstPartChecks_keeps ..))
    | (with_reducible refine Keeps.snd (by assumption) ?_)
    | split)

theorem execNarrow_ends (k : Nat) (f : IFields) (s0 : State) : Ends s0 (execNarrow k f s0) := by
  unfold execNarrow
  repeat' (first
    | with_reducible exact Keeps.refl _
    | with_reducible assumption
    | (with_reducible apply afterChecks_ends)
    | (with_reducible apply vsuInsn_ends)
    | (with_reducible apply Ends.step (coreFault_ends ..))
    | (with_reducible apply OptEnds.step (chkAlign_opt ..))
    | (with_reducible apply OptEnds.step (chkRd_opt ..))
    | (with_reducible apply OptEnds.step (chkWr_opt ..))
    | (with_reducible apply rdThen_ends)
    | (with_reducible apply Ends.step (vsuFault_ends ..))
    | (with_reducible apply Keeps.step (histCheck_keeps ..))
    | (with_reducible apply ok_ends)
    | (with_reducible apply Keeps.step (jobFault_keeps ..))
    | (with_reducible apply Keeps.step (modCtx_keeps ..))
    | (with_reducible apply wrThen_ends)
    | (with_reducible apply Keeps.step (vsuCnt_keeps ..))
    | (with_reducible apply Keeps.step (advance_keeps ..))
    | (with_reducible apply Keeps.step (modRunOf_keeps ..))
    | exact AllOpt.nil
    | (with_reducible apply AllOpt.cons)
    | (extract_lets +onlyGivenNames x; refine Keeps.cutK (t := x) ?_ ?_ <;> first | (intro _; clear_value x) | subst x)
    | (with_reducible refine Keeps.snd (by assumption) ?_)
    | (extract_lets +onlyGivenNames x)
    | intro _
    | (with_reducible apply Keeps.ite)
    | (with_reducible apply Ends.ite)
    | split)

theorem deqRows_ends {s0 : State} (k : Nat) (r : Run) (f : IFields) (n : Nat) (s : State) (g : List (List Nat) → State → Res) (hs : Keeps s0 s)
    (hg : ∀ l t, Keeps s0 t → Ends s0 (g l t)) : Ends s0 (deqRows k r f n s g) := by
  unfold deqRows
  split
  · exact rdThen_ends _ _ _ _ _ _ hs (fun _ _ h => hg _ _ h)
  · have h1 : Keeps s0 (accReads k (extF f 5 0 * 128) (n * 128) s).2 := hs.trans (accReads_keeps ..)
    split
    · exact ok_ends ((Keeps.snd (by assumption) h1).trans (jobFault_keeps ..))
    · exact hg _ _ (Keeps.snd (by assumption) h1)

theorem execDeq_ends (k : Nat) (f : IFields) (s0 : State) : Ends s0 (execDeq k f s0) := by
  unfold execDeq
  repeat' (first
    | with_reducible exact Keeps.refl _
    | with_reducible assumption
    | (with_reducible apply afterChecks_ends)
    | (with_reducible apply vsuInsn_ends)
    | (with_reducible refine Ends.step (deqScale_error (by assumption)) ?_)
    | (with_reducible apply OptEnds.step (chkCount_opt ..))
    | (with_reducible apply OptEnds.step (chkAlign_opt ..))
    | (with_reducible apply Ends.step (coreFault_ends ..))
    | (with_reducible apply OptEnds.step (chkRd_opt ..))
    | (with_reducible apply Ends.step (stay_ends ..))
    | (with_reducible apply OptEnds.step (chkWr_opt ..))
    | (with_reducible refine Ends.step (deqCols_error (by assumption)) ?_)
    | (with_reducible apply ok_ends)
    | (with_reducible apply Keeps.step (advance_keeps ..))
    | (with_reducible apply Ends.step (vsuFault_ends ..))
    | (with_reducible apply deqRows_ends)
    | (with_reducible apply wrThen_ends)
    | (with_reducible apply Keeps.step (vsuCnt_keeps ..))
    | exact OptEnds.none
    | (with_reducible apply OptEnds.some)
    | exact AllOpt.nil
    | (with_reducible apply AllOpt.cons)
    | (with_reducible apply AllOpt.append)
    | (extract_lets +onlyGivenNames x)
    | intro _
    | (with_reducible apply Ends.ite)
    | split)

theorem execSample_ends (k : Nat) (f : IFields) (s0 : State) : Ends s0 (execSample k f s0) := by
  unfold execSample
  repeat' (first
    | with_reducible exact Keeps.refl _
    | with_reducible assumption
    | (with_reducible apply afterChecks_ends)
    | (with_reducible apply vsuInsn_ends)
    | (with_reducible apply OptEnds.step (chkCount_opt ..))
    | (with_reducible apply OptEnds.step (chkAlign_opt ..))
    | (with_reducible apply OptEnds.step (chkRd_opt ..))
    | (with_reducible apply rdThen_ends)
    | (with_reducible apply Ends.step (vsuFault_ends ..))
    | (with_reducible apply Keeps.step (modCtx_keeps ..))
    | (with_reducible apply ok_ends)
    | (with_reducible apply Keeps.step (advance_keeps ..))
    | (with_reducible apply Keeps.step (vsuCnt_keeps ..))
    | exact AllOpt.nil
    | (with_reducible apply AllOpt.cons)
    | (extract_lets +onlyGivenNames x)
    | intro _
    | split)

theorem scalarOp_ends (k : Nat) (f : IFields) (s0 : State) (v : Run → DWord) : Ends s0 (scalarOp k f s0 v) := by
  unfold scalarOp
  repeat' (first
    | with_reducible exact Keeps.refl _
    | (with_reducible apply insn_ends)
    | (with_reducible apply ok_ends)
    | (with_reducible apply Keeps.step (advance_keeps ..))
    | (with_reducible apply Keeps.step (putRun_keeps ..))
    | intro _)

theorem scalarBin_ends (k : Nat) (f : IFields) (s0 : State) (g : DWord → DWord → DWord) : Ends s0 (scalarBin k f s0 g) := by
  unfold scalarBin
  repeat' (first
    | with_reducible exact Keeps.refl _
    | (with_reducible apply Ends.step (scalarOp_ends ..)))

theorem branchIf_ends (k : Nat) (f : IFields) (s0 : State) (p : DWord → DWord → Bool) : Ends s0 (branchIf k f s0 p) := by
  unfold branchIf
  repeat' (first
    | with_reducible exact Keeps.refl _
    | (with_reducible apply insn_ends)
    | (with_reducible apply Ends.step (jumpTo_ends ..))
    | (with_reducible apply ok_ends)
    | (with_reducible apply Keeps.step (advance_keeps ..))
    | intro _
    | (with_reducible apply Ends.ite))

theorem execAadd_ends (k : Nat) (f : IFields) (s0 : State) : Ends s0 (execAadd k f s0) := by
  unfold execAadd
  repeat' (first
    | with_reducible exact Keeps.refl _
    | (with_reducible apply insn_ends)
    | (with_reducible apply ok_ends)
    | (with_reducible apply Keeps.step (advance_keeps ..))
    | (with_reducible apply Keeps.step (putRun_keeps ..))
    | intro _)

theorem execSub_ends (k : Nat) (f : IFields) (s0 : State) : Ends s0 (execSub k f s0) := by
  unfold execSub
  repeat' (first
    | with_reducible exact Keeps.refl _
    | (with_reducible apply Ends.step (scalarBin_ends ..)))

theorem execBverd_ends (k : Nat) (f : IFields) (s0 : State) : Ends s0 (execBverd k f s0) := by
  unfold execBverd
  repeat' (first
    | with_reducible exact Keeps.refl _
    | (with_reducible apply insn_ends)
    | (with_reducible apply Ends.step (coreFault_ends ..))
    | (with_reducible apply Ends.step (stay_ends ..))
    | (with_reducible apply Ends.step (jumpTo_ends ..))
    | (with_reducible apply ok_ends)
    | (with_reducible apply Keeps.step (advance_keeps ..))
    | intro _
    | (with_reducible apply Ends.ite)
    | split)

theorem execMul_ends (k : Nat) (f : IFields) (s0 : State) : Ends s0 (execMul k f s0) := by
  unfold execMul
  repeat' (first
    | with_reducible exact Keeps.refl _
    | (with_reducible apply Ends.step (scalarBin_ends ..)))

theorem execAnd_ends (k : Nat) (f : IFields) (s0 : State) : Ends s0 (execAnd k f s0) := by
  unfold execAnd
  repeat' (first
    | with_reducible exact Keeps.refl _
    | (with_reducible apply Ends.step (scalarBin_ends ..)))

theorem execLoop_ends (k : Nat) (f : IFields) (s0 : State) : Ends s0 (execLoop k f s0) := by
  unfold execLoop
  repeat' (first
    | with_reducible exact Keeps.refl _
    | (with_reducible apply insn_ends)
    | (with_reducible apply Ends.step (coreFault_ends ..))
    | (with_reducible apply ok_ends)
    | (with_reducible apply Keeps.step (advanceFrom_keeps ..))
    | (with_reducible apply Keeps.step (putRun_keeps ..))
    | (extract_lets +onlyGivenNames x)
    | intro _
    | (with_reducible apply Ends.ite))

theorem execShr_ends (k : Nat) (f : IFields) (s0 : State) : Ends s0 (execShr k f s0) := by
  unfold execShr
  repeat' (first
    | with_reducible exact Keeps.refl _
    | (with_reducible apply Ends.step (scalarBin_ends ..)))

theorem execBne_ends (k : Nat) (f : IFields) (s0 : State) : Ends s0 (execBne k f s0) := by
  unfold execBne
  repeat' (first
    | with_reducible exact Keeps.refl _
    | (with_reducible apply Ends.step (branchIf_ends ..)))

theorem execAaddi_ends (k : Nat) (f : IFields) (s0 : State) : Ends s0 (execAaddi k f s0) := by
  unfold execAaddi
  repeat' (first
    | with_reducible exact Keeps.refl _
    | (with_reducible apply insn_ends)
    | (with_reducible apply ok_ends)
    | (with_reducible apply Keeps.step (advance_keeps ..))
    | (with_reducible apply Keeps.step (putRun_keeps ..))
    | intro _)

theorem execBge_ends (k : Nat) (f : IFields) (s0 : State) : Ends s0 (execBge k f s0) := by
  unfold execBge
  repeat' (first
    | with_reducible exact Keeps.refl _
    | (with_reducible apply Ends.step (branchIf_ends ..)))

theorem execTime_ends (k : Nat) (f : IFields) (s0 : State) : Ends s0 (execTime k f s0) := by
  unfold execTime
  repeat' (first
    | with_reducible exact Keeps.refl _
    | (with_reducible apply insn_ends)
    | (with_reducible apply ok_ends)
    | (with_reducible apply Keeps.step (advance_keeps ..))
    | (with_reducible apply Keeps.step (putRun_keeps ..))
    | (extract_lets +onlyGivenNames x)
    | intro _)

theorem execToa_ends (k : Nat) (f : IFields) (s0 : State) : Ends s0 (execToa k f s0) := by
  unfold execToa
  repeat' (first
    | with_reducible exact Keeps.refl _
    | (with_reducible apply insn_ends)
    | (with_reducible apply ok_ends)
    | (with_reducible apply Keeps.step (advance_keeps ..))
    | (with_reducible apply Keeps.step (putRun_keeps ..))
    | intro _)

theorem execJ_ends (k : Nat) (f : IFields) (s0 : State) : Ends s0 (execJ k f s0) := by
  unfold execJ
  repeat' (first
    | with_reducible exact Keeps.refl _
    | (with_reducible apply insn_ends)
    | (with_reducible apply Ends.step (jumpTo_ends ..))
    | intro _)

theorem ldCheck_opt (k : Nat) (r : Run) (a : Nat) (s0 : State) : OptEnds s0 (ldCheck k r a s0) := by
  unfold ldCheck
  repeat' (first
    | with_reducible exact Keeps.refl _
    | (with_reducible apply Ends.step (coreFault_ends ..))
    | exact OptEnds.none
    | (with_reducible apply OptEnds.some)
    | split)

theorem execLd_ends (k : Nat) (f : IFields) (s0 : State) : Ends s0 (execLd k f s0) := by
  unfold execLd
  repeat' (first
    | with_reducible exact Keeps.refl _
    | with_reducible assumption
    | (with_reducible apply afterChecks_ends)
    | (with_reducible apply insn_ends)
    | (with_reducible apply OptEnds.step (ldCheck_opt ..))
    | (with_reducible apply OptEnds.step (chkRd_opt ..))
    | (with_reducible apply rdThen_ends)
    | (with_reducible apply ok_ends)
    | (with_reducible apply Keeps.step (advance_keeps ..))
    | (with_reducible apply Keeps.step (modRunOf_keeps ..))
    | exact AllOpt.nil
    | (with_reducible apply AllOpt.cons)
    | (extract_lets +onlyGivenNames x)
    | intro _)

theorem execBlt_ends (k : Nat) (f : IFields) (s0 : State) : Ends s0 (execBlt k f s0) := by
  unfold execBlt
  repeat' (first
    | with_reducible exact Keeps.refl _
    | (with_reducible apply Ends.step (branchIf_ends ..)))

theorem execNop_ends (k : Nat) (f : IFields) (s0 : State) : Ends s0 (execNop k f s0) := by
  unfold execNop
  repeat' (first
    | with_reducible exact Keeps.refl _
    | (with_reducible apply insn_ends)
    | (with_reducible apply ok_ends)
    | (with_reducible apply Keeps.step (advance_keeps ..))
    | intro _)

theorem execAdd_ends (k : Nat) (f : IFields) (s0 : State) : Ends s0 (execAdd k f s0) := by
  unfold execAdd
  repeat' (first
    | with_reducible exact Keeps.refl _
    | (with_reducible apply Ends.step (scalarBin_ends ..)))

theorem execOr_ends (k : Nat) (f : IFields) (s0 : State) : Ends s0 (execOr k f s0) := by
  unfold execOr
  repeat' (first
    | with_reducible exact Keeps.refl _
    | (with_reducible apply Ends.step (scalarBin_ends ..)))

theorem execXor_ends (k : Nat) (f : IFields) (s0 : State) : Ends s0 (execXor k f s0) := by
  unfold execXor
  repeat' (first
    | with_reducible exact Keeps.refl _
    | (with_reducible apply Ends.step (scalarBin_ends ..)))

theorem execShl_ends (k : Nat) (f : IFields) (s0 : State) : Ends s0 (execShl k f s0) := by
  unfold execShl
  repeat' (first
    | with_reducible exact Keeps.refl _
    | (with_reducible apply Ends.step (scalarBin_ends ..)))

theorem execSra_ends (k : Nat) (f : IFields) (s0 : State) : Ends s0 (execSra k f s0) := by
  unfold execSra
  repeat' (first
    | with_reducible exact Keeps.refl _
    | (with_reducible apply Ends.step (scalarBin_ends ..)))

theorem execMin_ends (k : Nat) (f : IFields) (s0 : State) : Ends s0 (execMin k f s0) := by
  unfold execMin
  repeat' (first
    | with_reducible exact Keeps.refl _
    | (with_reducible apply Ends.step (scalarBin_ends ..)))

theorem execMax_ends (k : Nat) (f : IFields) (s0 : State) : Ends s0 (execMax k f s0) := by
  unfold execMax
  repeat' (first
    | with_reducible exact Keeps.refl _
    | (with_reducible apply Ends.step (scalarBin_ends ..)))

theorem execSlt_ends (k : Nat) (f : IFields) (s0 : State) : Ends s0 (execSlt k f s0) := by
  unfold execSlt
  repeat' (first
    | with_reducible exact Keeps.refl _
    | (with_reducible apply Ends.step (scalarBin_ends ..)))

theorem execAddi_ends (k : Nat) (f : IFields) (s0 : State) : Ends s0 (execAddi k f s0) := by
  unfold execAddi
  repeat' (first
    | with_reducible exact Keeps.refl _
    | (with_reducible apply Ends.step (scalarOp_ends ..)))

theorem execMovi_ends (k : Nat) (f : IFields) (s0 : State) : Ends s0 (execMovi k f s0) := by
  unfold execMovi
  repeat' (first
    | with_reducible exact Keeps.refl _
    | (with_reducible apply Ends.step (scalarOp_ends ..)))

theorem execMovhi_ends (k : Nat) (f : IFields) (s0 : State) : Ends s0 (execMovhi k f s0) := by
  unfold execMovhi
  repeat' (first
    | with_reducible exact Keeps.refl _
    | (with_reducible apply Ends.step (scalarOp_ends ..)))

theorem execSt_ends (k : Nat) (f : IFields) (s0 : State) : Ends s0 (execSt k f s0) := by
  unfold execSt
  repeat' (first
    | with_reducible exact Keeps.refl _
    | with_reducible assumption
    | (with_reducible apply afterChecks_ends)
    | (with_reducible apply insn_ends)
    | (with_reducible apply OptEnds.step (ldCheck_opt ..))
    | (with_reducible apply OptEnds.step (chkWr_opt ..))
    | (with_reducible apply wrThen_ends)
    | (with_reducible apply ok_ends)
    | (with_reducible apply Keeps.step (advance_keeps ..))
    | exact AllOpt.nil
    | (with_reducible apply AllOpt.cons)
    | (extract_lets +onlyGivenNames x)
    | intro _)

theorem execTos_ends (k : Nat) (f : IFields) (s0 : State) : Ends s0 (execTos k f s0) := by
  unfold execTos
  repeat' (first
    | with_reducible exact Keeps.refl _
    | (with_reducible apply insn_ends)
    | (with_reducible apply ok_ends)
    | (with_reducible apply Keeps.step (advance_keeps ..))
    | (with_reducible apply Keeps.step (putRun_keeps ..))
    | intro _)

theorem execBeq_ends (k : Nat) (f : IFields) (s0 : State) : Ends s0 (execBeq k f s0) := by
  unfold execBeq
  repeat' (first
    | with_reducible exact Keeps.refl _
    | (with_reducible apply Ends.step (branchIf_ends ..)))

theorem execJr_ends (k : Nat) (f : IFields) (s0 : State) : Ends s0 (execJr k f s0) := by
  unfold execJr
  repeat' (first
    | with_reducible exact Keeps.refl _
    | (with_reducible apply insn_ends)
    | (with_reducible apply Ends.step (jumpTo_ends ..))
    | intro _)

theorem execLidx_ends (k : Nat) (f : IFields) (s0 : State) : Ends s0 (execLidx k f s0) := by
  unfold execLidx
  repeat' (first
    | with_reducible exact Keeps.refl _
    | (with_reducible apply insn_ends)
    | (with_reducible apply ok_ends)
    | (with_reducible apply Keeps.step (advance_keeps ..))
    | (with_reducible apply Keeps.step (putRun_keeps ..))
    | intro _)

theorem execEnd_ends (k : Nat) (f : IFields) (s0 : State) : Ends s0 (execEnd k f s0) := by
  unfold execEnd
  repeat' (first
    | with_reducible exact Keeps.refl _
    | (with_reducible apply insn_ends)
    | (with_reducible apply ok_ends)
    | (with_reducible apply Keeps.step (putRun_keeps ..))
    | intro _)

theorem execWaitev_ends (k : Nat) (f : IFields) (s0 : State) : Ends s0 (execWaitev k f s0) := by
  unfold execWaitev
  repeat' (first
    | with_reducible exact Keeps.refl _
    | (with_reducible apply insn_ends)
    | (with_reducible apply ok_ends)
    | (with_reducible apply Keeps.step (advance_keeps ..))
    | (with_reducible apply Ends.step (stay_ends ..))
    | (extract_lets +onlyGivenNames x)
    | intro _
    | (with_reducible apply Ends.ite))

theorem execSignal_ends (k : Nat) (f : IFields) (s0 : State) : Ends s0 (execSignal k f s0) := by
  unfold execSignal
  repeat' (first
    | with_reducible exact Keeps.refl _
    | (with_reducible apply insn_ends)
    | (with_reducible apply Ends.step (stay_ends ..))
    | (with_reducible apply ok_ends)
    | (with_reducible apply Keeps.step (advance_keeps ..))
    | (with_reducible apply Keeps.step (modCtx_keeps ..))
    | (extract_lets +onlyGivenNames x)
    | intro _
    | (with_reducible apply Ends.ite))

theorem execSrecvTimeout_ends (k : Nat) (s0 : State) : Ends s0 (execSrecvTimeout k s0) := by
  unfold execSrecvTimeout
  repeat' (first
    | with_reducible exact Keeps.refl _
    | with_reducible assumption
    | (with_reducible apply ok_ends)
    | (with_reducible apply Keeps.step (advanceTo_keeps ..))
    | (with_reducible apply Keeps.step (startDue_keeps ..))
    | (with_reducible apply Keeps.step (checkFetch_keeps ..))
    | (with_reducible apply Keeps.step (modCore_keeps ..))
    | exact Ends.refused _
    | (extract_lets +onlyGivenNames x; refine Ends.cutK (t := x) ?_ ?_ <;> first | (intro _; clear_value x) | subst x)
    | (extract_lets +onlyGivenNames x)
    | (with_reducible apply Ends.ite)
    | split)

theorem execPeerSearch_ends (k : Nat) (f : IFields) (s0 : State) : Ends s0 (execPeerSearch k f s0) := by
  unfold execPeerSearch
  repeat' (first
    | with_reducible exact Keeps.refl _
    | with_reducible assumption
    | (with_reducible apply afterChecks_ends)
    | (with_reducible apply insn_ends)
    | (with_reducible apply OptEnds.step (chkRd_opt ..))
    | (with_reducible apply OptEnds.step (chkWr_opt ..))
    | (with_reducible apply rdThen_ends)
    | (with_reducible apply Keeps.step (querySubmitCheck_keeps ..))
    | (with_reducible apply wrThen_ends)
    | (with_reducible apply ok_ends)
    | (with_reducible apply Keeps.step (advance_keeps ..))
    | (with_reducible apply Keeps.step (modRunOf_keeps ..))
    | (with_reducible apply Keeps.step (acceptQuery_keeps ..))
    | exact AllOpt.nil
    | (with_reducible apply AllOpt.cons)
    | (with_reducible refine Keeps.snd (by assumption) ?_)
    | (extract_lets +onlyGivenNames x)
    | intro _
    | split)

theorem execFence_ends (k : Nat) (f : IFields) (s0 : State) : Ends s0 (execFence k f s0) := by
  unfold execFence
  repeat' (first
    | with_reducible exact Keeps.refl _
    | (with_reducible apply insn_ends)
    | (with_reducible apply ok_ends)
    | (with_reducible apply Keeps.step (advance_keeps ..))
    | (with_reducible apply Ends.step (stay_ends ..))
    | intro _
    | (with_reducible apply Ends.ite))

theorem execSrecv_ends (k : Nat) (f : IFields) (s0 : State) : Ends s0 (execSrecv k f s0) := by
  unfold execSrecv
  repeat' (first
    | with_reducible exact Keeps.refl _
    | with_reducible assumption
    | (with_reducible apply afterChecks_ends)
    | (with_reducible apply insn_ends)
    | (with_reducible apply Ends.step (coreFault_ends ..))
    | (with_reducible apply OptEnds.step (chkWr_opt ..))
    | (with_reducible apply Keeps.step (modRunOf_keeps ..))
    | (with_reducible apply ok_ends)
    | (with_reducible apply Keeps.step (modStrait_keeps ..))
    | (with_reducible apply Keeps.step (giveRecv_keeps ..))
    | exact AllOpt.nil
    | (with_reducible apply AllOpt.cons)
    | (extract_lets +onlyGivenNames x; refine Ends.cutK (t := x) ?_ ?_ <;> first | (intro _; clear_value x) | subst x)
    | (extract_lets +onlyGivenNames x)
    | intro _
    | split)

theorem execSlotwait_ends (k : Nat) (f : IFields) (s0 : State) : Ends s0 (execSlotwait k f s0) := by
  unfold execSlotwait
  repeat' (first
    | with_reducible exact Keeps.refl _
    | (with_reducible apply insn_ends)
    | (with_reducible apply ok_ends)
    | (with_reducible apply Keeps.step (advance_keeps ..))
    | (with_reducible apply Ends.step (stay_ends ..))
    | (extract_lets +onlyGivenNames x)
    | intro _
    | (with_reducible apply Ends.ite))

theorem execSsend_ends (k : Nat) (f : IFields) (s0 : State) : Ends s0 (execSsend k f s0) := by
  unfold execSsend
  repeat' (first
    | with_reducible exact Keeps.refl _
    | with_reducible assumption
    | (with_reducible apply afterChecks_ends)
    | (with_reducible apply insn_ends)
    | (with_reducible apply Ends.step (coreFault_ends ..))
    | (with_reducible apply OptEnds.step (chkCount_opt ..))
    | (with_reducible apply OptEnds.step (chkRd_opt ..))
    | (with_reducible apply rdThen_ends)
    | (with_reducible apply Keeps.step (modRunOf_keeps ..))
    | (with_reducible apply ok_ends)
    | (with_reducible apply Keeps.step (advance_keeps ..))
    | (with_reducible apply Keeps.step (sendMsg_keeps ..))
    | exact AllOpt.nil
    | (with_reducible apply AllOpt.cons)
    | (extract_lets +onlyGivenNames x)
    | intro _
    | split)

theorem drainRx_keeps (s0 : State) : Keeps s0 (drainRx s0) := by
  unfold drainRx
  repeat' (first
    | with_reducible exact Keeps.refl _
    | (with_reducible apply Keeps.step (modNiu_keeps ..))
    | (with_reducible apply Keeps.ite))

theorem finishLoad_keeps (s0 : State) (n : Nat) : Keeps s0 (finishLoad s0 n) := by
  unfold finishLoad
  repeat' (first
    | with_reducible exact Keeps.refl _
    | (with_reducible apply Keeps.step (succeed_keeps ..))
    | (with_reducible apply Keeps.step (putCtx_keeps ..))
    | (extract_lets +onlyGivenNames x)
    | split)

theorem finishLoads_keeps (s0 : State) : Keeps s0 (finishLoads s0) := by
  unfold finishLoads
  split
  · exact Keeps.refl _
  · exact Keeps.foldl (fun s n => finishLoad_keeps s n) _ _

theorem tick_keeps (s0 : State) : Keeps s0 (tick s0) := by
  unfold tick
  repeat' (first
    | with_reducible exact Keeps.refl _
    | (with_reducible apply Keeps.step (passTime_keeps ..))
    | (with_reducible apply Keeps.step (finishLoads_keeps ..))
    | (with_reducible apply Keeps.step (drainRx_keeps ..)))

end Sys2Proof.Machine
end

