-- ==== Sys2Proof/Laws/MemFrames.lean ====
section
/-! SUPPORT. A write to a memory leaves every word and every burst outside the ones it touches: their bytes and their marks of
error. -/
namespace Sys2Proof.Machine
open Sys2Proof

/-- Marks of error and bytes of the two on-chip memories by word and by byte key: the scratchpad's, or the local SRAMs'. -/
def errAt (o : OcmSt) (loc : Bool) (w : Nat) : Nat := if loc then smGet 0 o.locErr w else smGet 0 o.spadErr w
def cellAt (o : OcmSt) (loc : Bool) (x : Nat) : Byte := if loc then smGet 0 o.loc x else smGet 0 o.spad x

/-- Words outside a range of one memory are as they were. -/
structure SameOut (b : Bool) (lo hi : Nat) (s t : OcmSt) : Prop where
  err : ∀ b' w, ¬ (b' = b ∧ lo ≤ w ∧ w ≤ hi) → errAt t b' w = errAt s b' w
  cell : ∀ b' x, ¬ (b' = b ∧ lo ≤ x / 8 ∧ x / 8 ≤ hi) → cellAt t b' x = cellAt s b' x

theorem SameOut.refl (b : Bool) (lo hi : Nat) (s : OcmSt) : SameOut b lo hi s s := ⟨fun _ _ _ => rfl, fun _ _ _ => rfl⟩
theorem SameOut.trans {b : Bool} {lo hi : Nat} {s t u : OcmSt} (h : SameOut b lo hi s t) (k : SameOut b lo hi t u) : SameOut b lo hi s u :=
  ⟨fun b' w hw => (k.err b' w hw).trans (h.err b' w hw), fun b' x hx => (k.cell b' x hx).trans (h.cell b' x hx)⟩
theorem SameOut.mono {b : Bool} {lo hi lo' hi' : Nat} {s t : OcmSt} (h : SameOut b lo hi s t) (h1 : lo' ≤ lo) (h2 : hi ≤ hi') : SameOut b lo' hi' s t :=
  ⟨fun b' w hw => h.err b' w fun ⟨a, c, d⟩ => hw ⟨a, Nat.le_trans h1 c, Nat.le_trans d h2⟩,
   fun b' x hx => h.cell b' x fun ⟨a, c, d⟩ => hx ⟨a, Nat.le_trans h1 c, Nat.le_trans d h2⟩⟩
theorem SameOut.of {b : Bool} {lo hi : Nat} {s t : OcmSt} (h1 : t.spad = s.spad) (h2 : t.loc = s.loc) (h3 : t.spadErr = s.spadErr) (h4 : t.locErr = s.locErr) :
    SameOut b lo hi s t :=
  ⟨fun b' w _ => by simp [errAt, h3, h4], fun b' x _ => by simp [cellAt, h1, h2]⟩

/-- Which memory a core names, and the key of its word 0. -/
def sideOf (c : Option Nat) : Bool := c.isSome
def baseOf (c : Option Nat) : Nat := match c with | none => 0 | some k => k * 0x80000

theorem Logs.ocm {s t : State} (h : Logs s t) : t.ocm = s.ocm := by obtain ⟨e, x, c, q, o, rfl⟩ := h.only; rfl
theorem Logs.xmc {s t : State} (h : Logs s t) : t.xmc = s.xmc := by obtain ⟨e, x, c, q, o, rfl⟩ := h.only; rfl

theorem locKey_div (k off : Nat) : locKey k off / 8 = k * 0x80000 + off / 8 := by unfold locKey; omega

theorem setOwErr_same (w : OWord) (m : Nat) (s : State) : SameOut (sideOf w.core) (baseOf w.core + w.word) (baseOf w.core + w.word) s.ocm (setOwErr w m s).ocm := by
  obtain ⟨c, w⟩ := w
  cases c with
  | none =>
    refine ⟨fun b' x h => ?_, fun b' x _ => rfl⟩
    show errAt { s.ocm with spadErr := smPut 0 s.ocm.spadErr w m } b' x = _
    cases b'
    · simp only [errAt, Bool.false_eq_true, ↓reduceIte]
      rw [smGet_put, if_neg]
      rintro rfl
      exact h ⟨rfl, by simp [baseOf], by simp [baseOf]⟩
    · rfl
  | some k =>
    refine ⟨fun b' x h => ?_, fun b' x _ => rfl⟩
    show errAt { s.ocm with locErr := smPut 0 s.ocm.locErr (locKey k 0 / 8 + w) m } b' x = _
    cases b'
    · rfl
    · simp only [errAt, ↓reduceIte]
      rw [smGet_put, if_neg]
      rintro rfl
      have e : locKey k 0 / 8 + w = k * 0x80000 + w := by unfold locKey; omega
      exact h ⟨rfl, by simp only [baseOf]; omega, by simp only [baseOf]; omega⟩

theorem ocmStore_same (c : Option Nat) (off : Nat) (d : List Byte) (s : State) (hd : d ≠ []) :
    SameOut (sideOf c) (baseOf c + off / 8) (baseOf c + (off + d.length - 1) / 8) s.ocm (ocmStore c off d s).ocm := by
  have hl : 0 < d.length := List.length_pos_iff.mpr hd
  cases c with
  | none =>
    refine ⟨fun b' x _ => rfl, fun b' x h => ?_⟩
    show cellAt { s.ocm with spad := smStore s.ocm.spad off d } b' x = _
    cases b'
    · simp only [cellAt, Bool.false_eq_true, ↓reduceIte]
      rw [smGet_store, if_neg]
      rintro ⟨h1, h2⟩
      exact h ⟨rfl, by simp only [baseOf]; omega, by simp only [baseOf]; omega⟩
    · rfl
  | some k =>
    refine ⟨fun b' x _ => rfl, fun b' x h => ?_⟩
    show cellAt { s.ocm with loc := smStore s.ocm.loc (locKey k off) d } b' x = _
    cases b'
    · rfl
    · simp only [cellAt, ↓reduceIte]
      rw [smGet_store, if_neg]
      rintro ⟨h1, h2⟩
      have h3 := Nat.div_le_div_right (c := 8) h1
      rw [locKey_div] at h3
      have h4 : x / 8 ≤ locKey k (off + d.length - 1) / 8 := Nat.div_le_div_right (by unfold locKey at h2 ⊢; omega)
      rw [locKey_div] at h4
      exact h ⟨rfl, h3, h4⟩

theorem ocmClearErr_same (c : Option Nat) (off n : Nat) (s : State) :
    SameOut (sideOf c) (baseOf c + off / 8) (baseOf c + (off + n - 1) / 8) s.ocm (ocmClearErr c off n s).ocm := by
  unfold ocmClearErr
  split
  · exact .refl ..
  · rename_i hn
    cases c with
    | none =>
      refine ⟨fun b' x h => ?_, fun b' x _ => rfl⟩
      show errAt { s.ocm with spadErr := smClear s.ocm.spadErr (off / 8) ((off + n - 1) / 8 + 1) } b' x = _
      cases b'
      · simp only [errAt, Bool.false_eq_true, ↓reduceIte]
        rw [smGet_clear, if_neg]
        rintro ⟨h1, h2⟩
        exact h ⟨rfl, by simp only [baseOf]; omega, by simp only [baseOf]; omega⟩
      · rfl
    | some k =>
      refine ⟨fun b' x h => ?_, fun b' x _ => rfl⟩
      show errAt { s.ocm with locErr := smClear s.ocm.locErr (locKey k 0 / 8 + off / 8) (locKey k 0 / 8 + ((off + n - 1) / 8 + 1)) } b' x = _
      cases b'
      · rfl
      · simp only [errAt, ↓reduceIte]
        rw [smGet_clear, if_neg]
        rintro ⟨h1, h2⟩
        have e : locKey k 0 / 8 = k * 0x80000 := by unfold locKey; omega
        exact h ⟨rfl, by simp only [baseOf]; omega, by simp only [baseOf]; omega⟩

theorem touchBank_same (b : Bool) (lo hi : Nat) (k : BankId) (s : State) : SameOut b lo hi s.ocm (touchBank k s).ocm := by
  unfold touchBank
  split
  · have h := (cntAdd_logs 0x80 0xB10 1 s).ocm
    dsimp only
    split
    · rw [h]; exact .refl ..
    · have e : ∀ u : State, SameOut b lo hi u.ocm (setPhys k .on u).ocm := by intro u; cases k <;> exact .of rfl rfl rfl rfl
      rw [← h]; exact e _
  · exact .refl ..

theorem keepRead_same (w : OWord) (s : State) : SameOut (sideOf w.core) (baseOf w.core + w.word) (baseOf w.core + w.word) s.ocm (keepRead w s).ocm := by
  unfold keepRead
  split
  · have h := ocmStore_same w.core (8 * w.word) ((List.range 8).map fun i => ocmByte s w.core (8 * w.word + i)) s (by simp)
    refine h.mono ?_ ?_
    · omega
    · simp only [List.length_map, List.length_range]; omega
  · exact .refl ..

/-- The check of a word touches that word alone. -/
theorem owCheck_same (w : OWord) (s : State) : SameOut (sideOf w.core) (baseOf w.core + w.word) (baseOf w.core + w.word) s.ocm (owCheck w s).2.ocm := by
  unfold owCheck
  split <;> dsimp only
  · exact .refl ..
  · rw [(cntAdd_logs ..).ocm]; exact .of rfl rfl rfl rfl
  · rw [(corrected_logs ..).ocm, (cntAdd_logs ..).ocm]
    exact (keepRead_same w s).trans ((setOwErr_same w 0 _).trans (.of rfl rfl rfl rfl))

theorem ocmPartChecks_same (c : Option Nat) (lo hi : Nat) (l : List Nat) : ∀ s : State, (∀ w ∈ l, lo ≤ baseOf c + w ∧ baseOf c + w ≤ hi) →
    SameOut (sideOf c) lo hi s.ocm (ocmPartChecks c l s).2.ocm := by
  induction l with
  | nil => intro s _; exact .refl ..
  | cons w l ih =>
    intro s h
    unfold ocmPartChecks
    have h1 := (owCheck_same ⟨c, w⟩ s).mono (h w (List.mem_cons_self ..)).1 (h w (List.mem_cons_self ..)).2
    revert h1
    generalize owCheck ⟨c, w⟩ s = r
    intro h1
    dsimp only
    split
    · exact h1.trans (ih _ fun w hw => h w (List.mem_cons_of_mem _ hw))
    · exact h1

theorem partialWords_in (off n w : Nat) (h : w ∈ partialWords off n) : w = off / 8 ∨ w = (off + n - 1) / 8 := by
  unfold partialWords at h
  simp only [List.mem_append] at h
  rcases h with h | h
  · split at h
    · exact .inl (by simpa using h)
    · cases h
  · split at h
    · exact .inr (by simpa using h)
    · cases h

/-- The flip strikes a byte of the write. -/
theorem flipAt_in (c : Option Nat) (off n : Nat) (s : State) (o : Nat) (hn : 0 < n) (h : flipAt c off n s = some o) :
    off ≤ o ∧ o ≤ off + n - 1 := by
  unfold flipAt at h
  dsimp only at h
  split at h
  · cases h
  · split at h
    · split at h
      · injection h with h; subst h; omega
      · cases h
    · split at h
      · rw [Option.map_eq_some_iff] at h
        obtain ⟨i, hi, rfl⟩ := h
        have hm := List.mem_of_find?_eq_some hi
        rw [List.mem_range] at hm
        have := Nat.div_mul_le_self (off + n - 1) 128
        have h2 : (off / 128 + i) * 128 ≤ (off + n - 1) / 128 * 128 := Nat.mul_le_mul_right _ (by omega)
        omega
      · cases h

/-- A write to the on-chip memories touches the words of its extent alone. -/
theorem ocmWrite_same (c : Option Nat) (off : Nat) (d : List Byte) (s : State) :
    SameOut (sideOf c) (baseOf c + off / 8) (baseOf c + (off + d.length - 1) / 8) s.ocm (ocmWrite c off d s).2.ocm := by
  unfold ocmWrite
  split
  · exact .refl ..
  · rename_i hd
    have hd : d ≠ [] := by intro h; subst h; exact hd rfl
    have hl : 0 < d.length := List.length_pos_iff.mpr hd
    have h1 : ∀ (l : List BankId) (u : State), SameOut (sideOf c) (baseOf c + off / 8) (baseOf c + (off + d.length - 1) / 8) u.ocm (l.foldl (fun s b => touchBank b s) u).ocm := by
      intro l
      induction l with
      | nil => intro u; exact .refl ..
      | cons b l ih => intro u; exact (touchBank_same ..).trans (ih _)
    have h2 := (h1 (banksOf c off d.length) s).trans (ocmPartChecks_same c _ _ (partialWords off d.length) _ (by
      intro w hw
      rcases partialWords_in _ _ _ hw with rfl | rfl
      · constructor <;> omega
      · constructor <;> omega))
    dsimp only
    split
    · rename_i e; rw [e] at h2; exact h2
    · rename_i x e
      rw [e] at h2
      have k := h2.trans ((ocmClearErr_same c off d.length x).trans (ocmStore_same c off d _ hd))
      split
      · rename_i o ho
        have hin := flipAt_in c off d.length x o (by omega) ho
        unfold flipNow
        rw [(cntAdd_logs ..).ocm]
        refine k.trans (SameOut.trans ((setOwErr_same ⟨c, o / 8⟩ _ _).mono ?_ ?_) (.of rfl rfl rfl rfl))
        · show baseOf c + off / 8 ≤ baseOf c + o / 8
          have := Nat.div_le_div_right (c := 8) hin.1
          omega
        · show baseOf c + o / 8 ≤ baseOf c + (off + d.length - 1) / 8
          have := Nat.div_le_div_right (c := 8) hin.2
          omega
      · exact k

/-- Bursts outside a range are as they were. -/
structure SameXm (lo hi : Nat) (s t : XmcSt) : Prop where
  err : ∀ b, ¬ (lo ≤ b ∧ b ≤ hi) → smGet [] t.err b = smGet [] s.err b
  cell : ∀ x, ¬ (lo ≤ x / 64 ∧ x / 64 ≤ hi) → smGet 0 t.mem x = smGet 0 s.mem x

theorem SameXm.refl (lo hi : Nat) (s : XmcSt) : SameXm lo hi s s := ⟨fun _ _ => rfl, fun _ _ => rfl⟩
theorem SameXm.trans {lo hi : Nat} {s t u : XmcSt} (h : SameXm lo hi s t) (k : SameXm lo hi t u) : SameXm lo hi s u :=
  ⟨fun b hb => (k.err b hb).trans (h.err b hb), fun x hx => (k.cell x hx).trans (h.cell x hx)⟩
theorem SameXm.mono {lo hi lo' hi' : Nat} {s t : XmcSt} (h : SameXm lo hi s t) (h1 : lo' ≤ lo) (h2 : hi ≤ hi') : SameXm lo' hi' s t :=
  ⟨fun b hb => h.err b fun ⟨c, d⟩ => hb ⟨Nat.le_trans h1 c, Nat.le_trans d h2⟩, fun x hx => h.cell x fun ⟨c, d⟩ => hx ⟨Nat.le_trans h1 c, Nat.le_trans d h2⟩⟩
theorem SameXm.of {lo hi : Nat} {s t : XmcSt} (h1 : t.mem = s.mem) (h2 : t.err = s.err) : SameXm lo hi s t :=
  ⟨fun b _ => by rw [h2], fun x _ => by rw [h1]⟩

theorem keepBurst_same (b : Nat) (s : State) : SameXm b b s.xmc (keepBurst b s).xmc := by
  unfold keepBurst
  split
  · refine ⟨fun _ _ => rfl, fun x hx => ?_⟩
    show smGet 0 (smStore s.xmc.mem (64 * b) ((List.range 64).map fun i => xmByte s (64 * b + i))) x = _
    rw [smGet_store, if_neg]
    simp only [List.length_map, List.length_range]
    omega
  · exact .refl ..

/-- The check of a burst touches that burst alone. -/
theorem burstCheck_same (b : Nat) (s : State) : SameXm b b s.xmc (burstCheck b s).2.xmc := by
  unfold burstCheck
  dsimp only
  have h : ∀ c o n (u : State), (xmCnt c o n u).xmc = u.xmc := fun c o n u => (cntAdd_logs ..).xmc
  split <;> dsimp only
  · rw [h]; exact .refl ..
  · rw [(advisory_logs ..).xmc]
    refine SameXm.trans (t := (xmCnt (xmChannel (64 * b)) 0x818 1 (xmCnt (xmChannel (64 * b)) 0x800 1 s)).xmc) ?_ (.of rfl rfl)
    rw [h, h]; exact .refl ..
  · rw [(corrected_logs ..).xmc, h, h, h]
    refine SameXm.trans (t := (keepBurst b (xmCnt (xmChannel (64 * b)) 0x800 1 s)).xmc) ?_ ?_
    · have k := keepBurst_same b (xmCnt (xmChannel (64 * b)) 0x800 1 s)
      rw [h] at k; exact k
    · refine ⟨fun x hx => ?_, fun _ _ => rfl⟩
      show smGet [] (smPut [] _ b []) x = _
      rw [smGet_put, if_neg (by omega)]
      rfl

theorem burstPartChecks_same (lo hi : Nat) (l : List Nat) : ∀ s : State, (∀ w ∈ l, lo ≤ w ∧ w ≤ hi) → SameXm lo hi s.xmc (burstPartChecks l s).2.xmc := by
  induction l with
  | nil => intro s _; exact .refl ..
  | cons w l ih =>
    intro s h
    unfold burstPartChecks
    have h1 := (burstCheck_same w s).mono (h w (List.mem_cons_self ..)).1 (h w (List.mem_cons_self ..)).2
    revert h1
    generalize burstCheck w s = r
    intro h1
    dsimp only
    split
    · exact h1.trans (ih _ fun w hw => h w (List.mem_cons_of_mem _ hw))
    · exact h1

theorem xmFlips_same (n : Nat) : ∀ (lo hi b : Nat) (s : State), lo ≤ b → b + n ≤ hi + 1 → SameXm lo hi s.xmc (xmFlips b n s).xmc := by
  have h : ∀ c o n (u : State), (xmCnt c o n u).xmc = u.xmc := fun c o n u => (cntAdd_logs ..).xmc
  induction n with
  | zero => intro lo hi b s _ _; exact .refl ..
  | succ n ih =>
    intro lo hi b s h1 h2
    unfold xmFlips
    dsimp only
    refine SameXm.trans ?_ (ih lo hi (b + 1) _ (by omega) (by omega))
    split
    · rw [h]
      refine SameXm.trans (t := (setBurstErr b (flipSyms (flipWord (xmCnt (xmChannel (64 * b)) 0x808 1 s) (xmChannel (64 * b)))) (xmCnt (xmChannel (64 * b)) 0x808 1 s)).xmc) ?_ (.of rfl rfl)
      refine ⟨fun x hx => ?_, fun x _ => ?_⟩
      · show smGet [] (smPut [] (xmCnt (xmChannel (64 * b)) 0x808 1 s).xmc.err b _) x = _
        rw [smGet_put, if_neg (by omega), h]
      · show smGet 0 (xmCnt (xmChannel (64 * b)) 0x808 1 s).xmc.mem x = _
        rw [h]
    · rw [h]; exact .refl ..

theorem partialBursts_in (off n w : Nat) (h : w ∈ partialBursts off n) : w = off / 64 ∨ w = (off + n - 1) / 64 := by
  unfold partialBursts at h
  simp only [List.mem_append] at h
  rcases h with h | h
  · split at h
    · exact .inl (by simpa using h)
    · cases h
  · split at h
    · exact .inr (by simpa using h)
    · cases h

/-- A write to external memory touches the bursts of its extent alone. -/
theorem xmWrite_same (a : Nat) (d : List Byte) (s : State) : SameXm (a / 64) ((a + d.length - 1) / 64) s.xmc (xmWrite a d s).2.xmc := by
  unfold xmWrite
  split
  · exact .refl ..
  · rename_i hd
    have hd : d ≠ [] := by intro h; subst h; exact hd rfl
    have hl : 0 < d.length := List.length_pos_iff.mpr hd
    have h2 := burstPartChecks_same (a / 64) ((a + d.length - 1) / 64) (partialBursts a d.length) s (by
      intro w hw
      rcases partialBursts_in _ _ _ hw with rfl | rfl
      · constructor <;> omega
      · constructor <;> omega)
    dsimp only
    split
    · rename_i e; rw [e] at h2; exact h2
    · rename_i x e
      rw [e] at h2
      refine SameXm.trans h2 (SameXm.trans ?_ (xmFlips_same _ _ _ _ _ (Nat.le_refl _) (by omega)))
      refine ⟨fun b hb => ?_, fun y hy => ?_⟩
      · show smGet [] (smClear x.xmc.err (a / 64) (a / 64 + ((a + d.length - 1) / 64 + 1 - a / 64))) b = _
        rw [smGet_clear, if_neg (by omega)]
      · show smGet 0 (smStore x.xmc.mem a d) y = _
        rw [smGet_store, if_neg (by omega)]

end Sys2Proof.Machine
end

