-- ==== Sys2Proof/Laws/PerInstr.lean ====
section
/-! SUPPORT. What well-formedness says of each command, as bounds on its operands: one statement per command. -/
namespace Sys2Proof.Laws

/-- The bounds that a well-formed command's operands keep: the numbers of what the part has, and 16-bit command identifiers. -/
def F.Statement (i : Instr) : Prop := i.wf = true → match i with
  | .loadContext t _ _ => t.cid < 65536
  | .unloadContext t _ _ => t.cid < 65536
  | .bindIsland t _ _ => t.cid < 65536
  | .writeChart t _ _ => t.cid < 65536
  | .swapChart t _ _ => t.cid < 65536
  | .sequenceJoin t _ _ => t.cid < 65536
  | .sequenceLeave t _ _ => t.cid < 65536
  | .outputDrain t _ _ => t.cid < 65536
  | .ingest t _ _ => t.cid < 65536
  | .indexMutate t _ _ => t.cid < 65536
  | .search t _ _ => t.cid < 65536
  | .scan t _ _ => t.cid < 65536
  | .registerWindowRead t _ _ => t.cid < 65536
  | .registerWindowWrite t _ _ => t.cid < 65536
  | .nvmRead t _ _ => t.cid < 65536
  | .nvmWrite t _ _ => t.cid < 65536
  | .flush t _ _ => t.cid < 65536
  | .writeZeroes t _ _ => t.cid < 65536
  | .datasetManagement t _ _ => t.cid < 65536
  | .nvmVerify t _ _ => t.cid < 65536
  | .connect t _ _ => t.cid < 65536
  | .disconnect t _ _ => t.cid < 65536
  | .propertyGet t _ _ => t.cid < 65536
  | .propertySet t _ _ => t.cid < 65536
  | .nssrDeviceReset t _ _ => t.cid < 65536
  | .shutdownNotification t _ _ => t.cid < 65536
  | .identify t _ _ => t.cid < 65536
  | .getLogPage t _ _ => t.cid < 65536
  | .setFeaturesPowerManagement t _ _ => t.cid < 65536
  | .setFeaturesNumberOfQueues t _ _ => t.cid < 65536
  | .setFeatures t _ _ => t.cid < 65536
  | .getFeatures t _ _ => t.cid < 65536
  | .asynchronousEventRequest t _ _ => t.cid < 65536
  | .keepAlive t _ _ => t.cid < 65536
  | .abortCmd t _ _ => t.cid < 65536
  | .namespaceManagement t _ _ => t.cid < 65536
  | .namespaceAttachment t _ _ => t.cid < 65536
  | .formatNvm t _ _ => t.cid < 65536
  | .sanitize t _ _ => t.cid < 65536
  | .firmwareImageDownload t _ _ => t.cid < 65536
  | .firmwareCommit t _ _ => t.cid < 65536
  | .invalidCommandOpcode t _ _ => t.cid < 65536
  | .tcpSyn _ _ _ => True
  | .icreq _ _ _ _ _ => True
  | .commandCapsule _ op cid _ _ _ => op < 256 ∧ cid < 65536
  | .h2cData _ cid _ _ _ _ => cid < 65536
  | .clientHello _ _ => True
  | .keyUpdate _ => True
  | .freezeTimeout _ => True
  | .queueReset _ => True
  | .connectionClose _ => True
  | .katoExpired _ => True
  | .ps4Exit => True
  | .powerStateEntryComplete => True
  | .powerStateReversal => True
  | .sidebandRead _ => True
  | .sidebandWrite _ => True
  | .registerWrite _ page off _ => page < 256 ∧ off < 4096
  | .counterLowRead _ page off => page < 256 ∧ off < 4096
  | .iflevelSelect _ _ => True
  | .errRingTailWrite _ _ => True
  | .clkrstDevReset _ _ => True
  | .islandResetGo _ _ => True
  | .fmeasStart _ _ => True
  | .cntFreeze _ page _ => page < 256
  | .cntClear _ page => page < 256
  | .errCountClr _ page => page < 256
  | .errStatusClear _ page _ => page < 256
  | .fmeasDone _ => True
  | .pllUnlock pll => pll < 5
  | .chartEnable _ _ => True
  | .chartSwapRequest _ => True
  | .contextRestart _ => True
  | .cycleStart => True
  | .slotStart _ idx => idx < 256
  | .slotEnd _ idx => idx < 256
  | .lookaheadPrefetch _ idx => idx < 256
  | .taskComplete ctx task => ctx < 1024 ∧ task < 65536
  | .jobFault ctx core code => ctx < 1024 ∧ core < 48 ∧ code < 65536
  | .replicaCorrection => True
  | .syncDeadlock ctx => ctx < 1024
  | .reservedClassFetch core cls => core < 48 ∧ 12 ≤ cls.toNat
  | .nop core _ => core < 48
  | .add core _ => core < 48
  | .sub core _ => core < 48
  | .mul core _ => core < 48
  | .andS core _ => core < 48
  | .orS core _ => core < 48
  | .xor core _ => core < 48
  | .shl core _ => core < 48
  | .shr core _ => core < 48
  | .sra core _ => core < 48
  | .minS core _ => core < 48
  | .maxS core _ => core < 48
  | .slt core _ => core < 48
  | .addi core _ => core < 48
  | .movi core _ => core < 48
  | .movhi core _ => core < 48
  | .ld core _ => core < 48
  | .st core _ => core < 48
  | .toa core _ => core < 48
  | .tos core _ => core < 48
  | .aaddi core _ => core < 48
  | .aadd core _ => core < 48
  | .time core _ => core < 48
  | .j core _ => core < 48
  | .beq core _ => core < 48
  | .bne core _ => core < 48
  | .blt core _ => core < 48
  | .bge core _ => core < 48
  | .jr core _ => core < 48
  | .loop core _ => core < 48
  | .lidx core _ => core < 48
  | .bverd core _ => core < 48
  | .endTask core _ => core < 48
  | .copy core _ => core < 48
  | .acc48 core _ => core < 48
  | .zero core _ => core < 48
  | .dmaComplete core _ => core < 48
  | .tdload core _ => core < 48
  | .tdstore core _ => core < 48
  | .tdinit core _ => core < 48
  | .matrix core _ => core < 48
  | .matrixComplete core => core < 48
  | .conv1d core _ => core < 48
  | .conv2d core _ => core < 48
  | .vectorAdd core _ => core < 48
  | .vectorSub core _ => core < 48
  | .vectorMul core _ => core < 48
  | .vectorMax core _ => core < 48
  | .vectorMin core _ => core < 48
  | .vectorAbs core _ => core < 48
  | .vectorNeg core _ => core < 48
  | .vectorCvt core _ => core < 48
  | .vectorMac core _ => core < 48
  | .specialFn core _ => core < 48
  | .rmax core _ => core < 48
  | .rsum core _ => core < 48
  | .softmax core _ => core < 48
  | .smstat core _ => core < 48
  | .smapply core _ => core < 48
  | .rmsnorm core _ => core < 48
  | .layernorm core _ => core < 48
  | .argmax core _ => core < 48
  | .narrow core _ => core < 48
  | .deq core _ => core < 48
  | .kvstore core _ => core < 48
  | .embed8 core _ => core < 48
  | .sample core _ => core < 48
  | .fence core _ => core < 48
  | .signal core _ => core < 48
  | .waitev core _ => core < 48
  | .slotwait core _ => core < 48
  | .ssend core _ => core < 48
  | .srecv core _ => core < 48
  | .srecvTimeout core => core < 48
  | .peerSearch core _ => core < 48
  | .sfuTblDataWrite _ _ => True
  | .sfuCompat1Write _ _ => True
  | .sfuTblDataRead _ => True
  | .sfuTblCommit _ => True
  | .checkInjectArm _ core _ => core < 48
  | .ocmDiagWrite _ _ => True
  | .eccFlipmaskArm _ _ => True
  | .atollResize _ _ => True
  | .bankPowerWrite _ off _ => off < 4096
  | .autoRetention b => b.wf = true
  | .bankWake b => b.wf = true
  | .bgtRegionStart core _ => core.getD 0 < 48
  | .xmcFlipArm _ ch => ch < 32
  | .scrubGo _ _ => True
  | .scrubAbort _ _ => True
  | .scrubDone => True
  | .xmcTracking ch rate _ => ch < 32 ∧ rate < 3
  | .objRefetched _ => True
  | .stageFetch ctx layer => ctx < 1024 ∧ layer < 4096
  | .demoteComplete ctx seq layer page => ctx < 1024 ∧ seq < 4096 ∧ layer < 4096 ∧ page < 16384
  | .pageFetchComplete ctx seq layer page => ctx < 1024 ∧ seq < 4096 ∧ layer < 4096 ∧ page < 16384
  | .queryComplete _ => True
  | .compactionSwitch index => index < 16
  | .ingestInsert _ => True
  | .mergeDeadline _ => True
  | .deltaRebuild index _ => index < 16
  | .sreHoldWrite _ _ => True
  | .flashReadComplete u _ => u < 17179869184
  | .programComplete sb _ => sb < 65536
  | .eraseComplete sb _ => sb < 65536
  | .writeBufferDrain _ => True
  | .mapCheckpoint _ => True
  | .backgroundGc => True
  | .foregroundGc => True
  | .slcFold => True
  | .powerLossFlush _ => True
  | .mteDiagGo _ page _ => page < 256
  | .channelStopsResponding ch => ch < 64
  | .linkEnWrite _ _ => True
  | .autoNegotiationTimeout => True
  | .linkUp => True
  | .linkDown => True
  | .fecWindow _ _ => True
  | .frameReceive _ => True
  | .pfcRepeat prio => prio < 8
  | .pfcPauseExpiry prio => prio < 8
  | .pfcFrame prio quanta => prio < 8 ∧ quanta < 65536
  | .pauseFrame => True
  | .txUnderrun => True
  | .xqPtrFault _ prio => prio < 8
  | .arpRequest _ => True
  | .icmpEcho _ => True
  | .gatewayRefresh => True
  | .unresolvedTimeout => True
  | .tcpRetransmitTimeout _ => True
  | .ipAddressWrite _ off _ => off < 4096
  | .ptpSync _ => True
  | .ptpFollowUp _ => True
  | .ptpDelayResp _ => True
  | .ptpAnnounce _ => True
  | .delayReqSend => True
  | .referenceLost => True
  | .holdover => True
  | .lost => True
  | .ppsInEdge _ => True
  | .ppsOutPulse => True
  | .ppsOutPulseEnd => True
  | .sourceWrite _ _ => True
  | .todSecWrite _ _ => True
  | .dataMessage _ => True
  | .queryMessage _ => True
  | .resultMessage _ => True
  | .ackMessage _ => True
  | .syncMessage _ => True
  | .syncReplyMessage _ => True
  | .straitAckTimer grp mem => grp < 64 ∧ mem < 256
  | .straitRetransmit grp mem => grp < 64 ∧ mem < 256
  | .memberStale grp mem => grp < 64 ∧ mem < 256
  | .syncInterval => True
  | .heldMessageExpiry _ => True
  | .straitMemCfgWrite _ off _ => off < 4096
  | .straitGrpCfgWrite _ off _ => off < 4096
  | .straitPortWrite _ off _ => off < 4096
  | .mspWatchdog => True
  | .managementReset => True
  | .sectorProgramComplete _ => True
  | .getVersion _ => True
  | .getCapabilities _ => True
  | .negotiateAlgorithms _ => True
  | .getDigests _ => True
  | .getCertificate _ => True
  | .challenge _ => True
  | .getMeasurements _ => True
  | .chunkSend _ => True
  | .chunkGet _ => True
  | .sessionOpen _ => True
  | .sessionAuth _ => True
  | .sessionRecord _ => True
  | .sessionIdleTimeout => True
  | .provision _ => True
  | .certWrite _ => True
  | .takeOwnership _ => True
  | .pskInstall _ => True
  | .pskDelete _ => True
  | .configWrite _ => True
  | .tamperCfg _ => True
  | .retire _ => True
  | .decommission _ => True
  | .reprovision _ => True
  | .tamperClear _ => True
  | .revokeFwKey _ => True
  | .tamperEvent src => src < 4
  | .tamperLoopMeasure _ => True
  | .keystoreErase => True
  | .commandInterrupted t => t.cid < 65536
  | .mctpControlMessage _ => True
  | .entdaa addr => addr < 128
  | .powerOnReset => True
  | .moduleReset => True
  | .deviceReset => True
  | .startUp _ => True
  | .ready => True
  | .pwrEnEdge _ => True
  | .modRstNEdge _ => True
  | .brakeNEdge _ => True
  | .aux3v3Change _ => True
  | .brakeToggleHoldEnd => True
  | .brakeHeld => True
  | .inputVoltageEvent _ => True
  | .governorInterval _ _ => True
  | .thermalRead sensor _ => sensor < 120
  | .holdupMeasurement _ => True
  | .flitGroupCrcFail _ => True
  | .classLate _ _ _ _ => True
  | .ps4FabricClockStop => True
  | .actLedTimeout => True

theorem F.loadContext : ∀ t x1 x2, F.Statement (.loadContext t x1 x2) := by intros; exact of_decide_eq_true
theorem F.unloadContext : ∀ t x1 x2, F.Statement (.unloadContext t x1 x2) := by intros; exact of_decide_eq_true
theorem F.bindIsland : ∀ t x1 x2, F.Statement (.bindIsland t x1 x2) := by intros; exact of_decide_eq_true
theorem F.writeChart : ∀ t x1 x2, F.Statement (.writeChart t x1 x2) := by intros; exact of_decide_eq_true
theorem F.swapChart : ∀ t x1 x2, F.Statement (.swapChart t x1 x2) := by intros; exact of_decide_eq_true
theorem F.sequenceJoin : ∀ t x1 x2, F.Statement (.sequenceJoin t x1 x2) := by intros; exact of_decide_eq_true
theorem F.sequenceLeave : ∀ t x1 x2, F.Statement (.sequenceLeave t x1 x2) := by intros; exact of_decide_eq_true
theorem F.outputDrain : ∀ t x1 x2, F.Statement (.outputDrain t x1 x2) := by intros; exact of_decide_eq_true
theorem F.ingest : ∀ t x1 x2, F.Statement (.ingest t x1 x2) := by intros; exact of_decide_eq_true
theorem F.indexMutate : ∀ t x1 x2, F.Statement (.indexMutate t x1 x2) := by intros; exact of_decide_eq_true
theorem F.search : ∀ t x1 x2, F.Statement (.search t x1 x2) := by intros; exact of_decide_eq_true
theorem F.scan : ∀ t x1 x2, F.Statement (.scan t x1 x2) := by intros; exact of_decide_eq_true
theorem F.registerWindowRead : ∀ t x1 x2, F.Statement (.registerWindowRead t x1 x2) := by intros; exact of_decide_eq_true
theorem F.registerWindowWrite : ∀ t x1 x2, F.Statement (.registerWindowWrite t x1 x2) := by intros; exact of_decide_eq_true
theorem F.nvmRead : ∀ t x1 x2, F.Statement (.nvmRead t x1 x2) := by intros; exact of_decide_eq_true
theorem F.nvmWrite : ∀ t x1 x2, F.Statement (.nvmWrite t x1 x2) := by intros; exact of_decide_eq_true
theorem F.flush : ∀ t x1 x2, F.Statement (.flush t x1 x2) := by intros; exact of_decide_eq_true
theorem F.writeZeroes : ∀ t x1 x2, F.Statement (.writeZeroes t x1 x2) := by intros; exact of_decide_eq_true
theorem F.datasetManagement : ∀ t x1 x2, F.Statement (.datasetManagement t x1 x2) := by intros; exact of_decide_eq_true
theorem F.nvmVerify : ∀ t x1 x2, F.Statement (.nvmVerify t x1 x2) := by intros; exact of_decide_eq_true
theorem F.connect : ∀ t x1 x2, F.Statement (.connect t x1 x2) := by intros; exact of_decide_eq_true
theorem F.disconnect : ∀ t x1 x2, F.Statement (.disconnect t x1 x2) := by intros; exact of_decide_eq_true
theorem F.propertyGet : ∀ t x1 x2, F.Statement (.propertyGet t x1 x2) := by intros; exact of_decide_eq_true
theorem F.propertySet : ∀ t x1 x2, F.Statement (.propertySet t x1 x2) := by intros; exact of_decide_eq_true
theorem F.nssrDeviceReset : ∀ t x1 x2, F.Statement (.nssrDeviceReset t x1 x2) := by intros; exact of_decide_eq_true
theorem F.shutdownNotification : ∀ t x1 x2, F.Statement (.shutdownNotification t x1 x2) := by intros; exact of_decide_eq_true
theorem F.identify : ∀ t x1 x2, F.Statement (.identify t x1 x2) := by intros; exact of_decide_eq_true
theorem F.getLogPage : ∀ t x1 x2, F.Statement (.getLogPage t x1 x2) := by intros; exact of_decide_eq_true
theorem F.setFeaturesPowerManagement : ∀ t x1 x2, F.Statement (.setFeaturesPowerManagement t x1 x2) := by intros; exact of_decide_eq_true
theorem F.setFeaturesNumberOfQueues : ∀ t x1 x2, F.Statement (.setFeaturesNumberOfQueues t x1 x2) := by intros; exact of_decide_eq_true
theorem F.setFeatures : ∀ t x1 x2, F.Statement (.setFeatures t x1 x2) := by intros; exact of_decide_eq_true
theorem F.getFeatures : ∀ t x1 x2, F.Statement (.getFeatures t x1 x2) := by intros; exact of_decide_eq_true
theorem F.asynchronousEventRequest : ∀ t x1 x2, F.Statement (.asynchronousEventRequest t x1 x2) := by intros; exact of_decide_eq_true
theorem F.keepAlive : ∀ t x1 x2, F.Statement (.keepAlive t x1 x2) := by intros; exact of_decide_eq_true
theorem F.abortCmd : ∀ t x1 x2, F.Statement (.abortCmd t x1 x2) := by intros; exact of_decide_eq_true
theorem F.namespaceManagement : ∀ t x1 x2, F.Statement (.namespaceManagement t x1 x2) := by intros; exact of_decide_eq_true
theorem F.namespaceAttachment : ∀ t x1 x2, F.Statement (.namespaceAttachment t x1 x2) := by intros; exact of_decide_eq_true
theorem F.formatNvm : ∀ t x1 x2, F.Statement (.formatNvm t x1 x2) := by intros; exact of_decide_eq_true
theorem F.sanitize : ∀ t x1 x2, F.Statement (.sanitize t x1 x2) := by intros; exact of_decide_eq_true
theorem F.firmwareImageDownload : ∀ t x1 x2, F.Statement (.firmwareImageDownload t x1 x2) := by intros; exact of_decide_eq_true
theorem F.firmwareCommit : ∀ t x1 x2, F.Statement (.firmwareCommit t x1 x2) := by intros; exact of_decide_eq_true
theorem F.invalidCommandOpcode : ∀ t x1 x2, F.Statement (.invalidCommandOpcode t x1 x2) := by intros; exact of_decide_eq_true
theorem F.tcpSyn : ∀ x0 x1 x2, F.Statement (.tcpSyn x0 x1 x2) := by intros; exact fun _ => trivial
theorem F.icreq : ∀ x0 x1 x2 x3 x4, F.Statement (.icreq x0 x1 x2 x3 x4) := by intros; exact fun _ => trivial
theorem F.commandCapsule : ∀ x0 op cid x3 x4 x5, F.Statement (.commandCapsule x0 op cid x3 x4 x5) := by intros; exact fun h => by simpa only [Instr.wf, Bool.and_eq_true, decide_eq_true_eq, and_assoc] using h
theorem F.h2cData : ∀ x0 cid x2 x3 x4 x5, F.Statement (.h2cData x0 cid x2 x3 x4 x5) := by intros; exact of_decide_eq_true
theorem F.clientHello : ∀ x0 x1, F.Statement (.clientHello x0 x1) := by intros; exact fun _ => trivial
theorem F.keyUpdate : ∀ x0, F.Statement (.keyUpdate x0) := by intros; exact fun _ => trivial
theorem F.freezeTimeout : ∀ x0, F.Statement (.freezeTimeout x0) := by intros; exact fun _ => trivial
theorem F.queueReset : ∀ x0, F.Statement (.queueReset x0) := by intros; exact fun _ => trivial
theorem F.connectionClose : ∀ x0, F.Statement (.connectionClose x0) := by intros; exact fun _ => trivial
theorem F.katoExpired : ∀ x0, F.Statement (.katoExpired x0) := by intros; exact fun _ => trivial
theorem F.ps4Exit : F.Statement .ps4Exit := fun _ => trivial
theorem F.powerStateEntryComplete : F.Statement .powerStateEntryComplete := fun _ => trivial
theorem F.powerStateReversal : F.Statement .powerStateReversal := fun _ => trivial
theorem F.sidebandRead : ∀ x0, F.Statement (.sidebandRead x0) := by intros; exact fun _ => trivial
theorem F.sidebandWrite : ∀ x0, F.Statement (.sidebandWrite x0) := by intros; exact fun _ => trivial
theorem F.registerWrite : ∀ x0 page off x3, F.Statement (.registerWrite x0 page off x3) := by intros; exact fun h => by simpa only [Instr.wf, Bool.and_eq_true, decide_eq_true_eq, and_assoc] using h
theorem F.counterLowRead : ∀ x0 page off, F.Statement (.counterLowRead x0 page off) := by intros; exact fun h => by simpa only [Instr.wf, Bool.and_eq_true, decide_eq_true_eq, and_assoc] using h
theorem F.iflevelSelect : ∀ x0 x1, F.Statement (.iflevelSelect x0 x1) := by intros; exact fun _ => trivial
theorem F.errRingTailWrite : ∀ x0 x1, F.Statement (.errRingTailWrite x0 x1) := by intros; exact fun _ => trivial
theorem F.clkrstDevReset : ∀ x0 x1, F.Statement (.clkrstDevReset x0 x1) := by intros; exact fun _ => trivial
theorem F.islandResetGo : ∀ x0 x1, F.Statement (.islandResetGo x0 x1) := by intros; exact fun _ => trivial
theorem F.fmeasStart : ∀ x0 x1, F.Statement (.fmeasStart x0 x1) := by intros; exact fun _ => trivial
theorem F.cntFreeze : ∀ x0 page x2, F.Statement (.cntFreeze x0 page x2) := by intros; exact of_decide_eq_true
theorem F.cntClear : ∀ x0 page, F.Statement (.cntClear x0 page) := by intros; exact of_decide_eq_true
theorem F.errCountClr : ∀ x0 page, F.Statement (.errCountClr x0 page) := by intros; exact of_decide_eq_true
theorem F.errStatusClear : ∀ x0 page x2, F.Statement (.errStatusClear x0 page x2) := by intros; exact of_decide_eq_true
theorem F.fmeasDone : ∀ x0, F.Statement (.fmeasDone x0) := by intros; exact fun _ => trivial
theorem F.pllUnlock : ∀ pll, F.Statement (.pllUnlock pll) := by intros; exact of_decide_eq_true
theorem F.chartEnable : ∀ x0 x1, F.Statement (.chartEnable x0 x1) := by intros; exact fun _ => trivial
theorem F.chartSwapRequest : ∀ x0, F.Statement (.chartSwapRequest x0) := by intros; exact fun _ => trivial
theorem F.contextRestart : ∀ x0, F.Statement (.contextRestart x0) := by intros; exact fun _ => trivial
theorem F.cycleStart : F.Statement .cycleStart := fun _ => trivial
theorem F.slotStart : ∀ x0 idx, F.Statement (.slotStart x0 idx) := by intros; exact of_decide_eq_true
theorem F.slotEnd : ∀ x0 idx, F.Statement (.slotEnd x0 idx) := by intros; exact of_decide_eq_true
theorem F.lookaheadPrefetch : ∀ x0 idx, F.Statement (.lookaheadPrefetch x0 idx) := by intros; exact of_decide_eq_true
theorem F.taskComplete : ∀ ctx task, F.Statement (.taskComplete ctx task) := by intros; exact fun h => by simpa only [Instr.wf, Bool.and_eq_true, decide_eq_true_eq, and_assoc] using h
theorem F.jobFault : ∀ ctx core code, F.Statement (.jobFault ctx core code) := by intros; exact fun h => by simpa only [Instr.wf, Bool.and_eq_true, decide_eq_true_eq, and_assoc] using h
theorem F.replicaCorrection : F.Statement .replicaCorrection := fun _ => trivial
theorem F.syncDeadlock : ∀ ctx, F.Statement (.syncDeadlock ctx) := by intros; exact of_decide_eq_true
theorem F.reservedClassFetch : ∀ core cls, F.Statement (.reservedClassFetch core cls) := by intros; exact fun h => by simpa only [Instr.wf, Bool.and_eq_true, decide_eq_true_eq, and_assoc] using h
theorem F.nop : ∀ core x1, F.Statement (.nop core x1) := by intros; exact of_decide_eq_true
theorem F.add : ∀ core x1, F.Statement (.add core x1) := by intros; exact of_decide_eq_true
theorem F.sub : ∀ core x1, F.Statement (.sub core x1) := by intros; exact of_decide_eq_true
theorem F.mul : ∀ core x1, F.Statement (.mul core x1) := by intros; exact of_decide_eq_true
theorem F.andS : ∀ core x1, F.Statement (.andS core x1) := by intros; exact of_decide_eq_true
theorem F.orS : ∀ core x1, F.Statement (.orS core x1) := by intros; exact of_decide_eq_true
theorem F.xor : ∀ core x1, F.Statement (.xor core x1) := by intros; exact of_decide_eq_true
theorem F.shl : ∀ core x1, F.Statement (.shl core x1) := by intros; exact of_decide_eq_true
theorem F.shr : ∀ core x1, F.Statement (.shr core x1) := by intros; exact of_decide_eq_true
theorem F.sra : ∀ core x1, F.Statement (.sra core x1) := by intros; exact of_decide_eq_true
theorem F.minS : ∀ core x1, F.Statement (.minS core x1) := by intros; exact of_decide_eq_true
theorem F.maxS : ∀ core x1, F.Statement (.maxS core x1) := by intros; exact of_decide_eq_true
theorem F.slt : ∀ core x1, F.Statement (.slt core x1) := by intros; exact of_decide_eq_true
theorem F.addi : ∀ core x1, F.Statement (.addi core x1) := by intros; exact of_decide_eq_true
theorem F.movi : ∀ core x1, F.Statement (.movi core x1) := by intros; exact of_decide_eq_true
theorem F.movhi : ∀ core x1, F.Statement (.movhi core x1) := by intros; exact of_decide_eq_true
theorem F.ld : ∀ core x1, F.Statement (.ld core x1) := by intros; exact of_decide_eq_true
theorem F.st : ∀ core x1, F.Statement (.st core x1) := by intros; exact of_decide_eq_true
theorem F.toa : ∀ core x1, F.Statement (.toa core x1) := by intros; exact of_decide_eq_true
theorem F.tos : ∀ core x1, F.Statement (.tos core x1) := by intros; exact of_decide_eq_true
theorem F.aaddi : ∀ core x1, F.Statement (.aaddi core x1) := by intros; exact of_decide_eq_true
theorem F.aadd : ∀ core x1, F.Statement (.aadd core x1) := by intros; exact of_decide_eq_true
theorem F.time : ∀ core x1, F.Statement (.time core x1) := by intros; exact of_decide_eq_true
theorem F.j : ∀ core x1, F.Statement (.j core x1) := by intros; exact of_decide_eq_true
theorem F.beq : ∀ core x1, F.Statement (.beq core x1) := by intros; exact of_decide_eq_true
theorem F.bne : ∀ core x1, F.Statement (.bne core x1) := by intros; exact of_decide_eq_true
theorem F.blt : ∀ core x1, F.Statement (.blt core x1) := by intros; exact of_decide_eq_true
theorem F.bge : ∀ core x1, F.Statement (.bge core x1) := by intros; exact of_decide_eq_true
theorem F.jr : ∀ core x1, F.Statement (.jr core x1) := by intros; exact of_decide_eq_true
theorem F.loop : ∀ core x1, F.Statement (.loop core x1) := by intros; exact of_decide_eq_true
theorem F.lidx : ∀ core x1, F.Statement (.lidx core x1) := by intros; exact of_decide_eq_true
theorem F.bverd : ∀ core x1, F.Statement (.bverd core x1) := by intros; exact of_decide_eq_true
theorem F.endTask : ∀ core x1, F.Statement (.endTask core x1) := by intros; exact of_decide_eq_true
theorem F.copy : ∀ core x1, F.Statement (.copy core x1) := by intros; exact of_decide_eq_true
theorem F.acc48 : ∀ core x1, F.Statement (.acc48 core x1) := by intros; exact of_decide_eq_true
theorem F.zero : ∀ core x1, F.Statement (.zero core x1) := by intros; exact of_decide_eq_true
theorem F.dmaComplete : ∀ core x1, F.Statement (.dmaComplete core x1) := by intros; exact of_decide_eq_true
theorem F.tdload : ∀ core x1, F.Statement (.tdload core x1) := by intros; exact of_decide_eq_true
theorem F.tdstore : ∀ core x1, F.Statement (.tdstore core x1) := by intros; exact of_decide_eq_true
theorem F.tdinit : ∀ core x1, F.Statement (.tdinit core x1) := by intros; exact of_decide_eq_true
theorem F.matrix : ∀ core x1, F.Statement (.matrix core x1) := by intros; exact of_decide_eq_true
theorem F.matrixComplete : ∀ core, F.Statement (.matrixComplete core) := by intros; exact of_decide_eq_true
theorem F.conv1d : ∀ core x1, F.Statement (.conv1d core x1) := by intros; exact of_decide_eq_true
theorem F.conv2d : ∀ core x1, F.Statement (.conv2d core x1) := by intros; exact of_decide_eq_true
theorem F.vectorAdd : ∀ core x1, F.Statement (.vectorAdd core x1) := by intros; exact of_decide_eq_true
theorem F.vectorSub : ∀ core x1, F.Statement (.vectorSub core x1) := by intros; exact of_decide_eq_true
theorem F.vectorMul : ∀ core x1, F.Statement (.vectorMul core x1) := by intros; exact of_decide_eq_true
theorem F.vectorMax : ∀ core x1, F.Statement (.vectorMax core x1) := by intros; exact of_decide_eq_true
theorem F.vectorMin : ∀ core x1, F.Statement (.vectorMin core x1) := by intros; exact of_decide_eq_true
theorem F.vectorAbs : ∀ core x1, F.Statement (.vectorAbs core x1) := by intros; exact of_decide_eq_true
theorem F.vectorNeg : ∀ core x1, F.Statement (.vectorNeg core x1) := by intros; exact of_decide_eq_true
theorem F.vectorCvt : ∀ core x1, F.Statement (.vectorCvt core x1) := by intros; exact of_decide_eq_true
theorem F.vectorMac : ∀ core x1, F.Statement (.vectorMac core x1) := by intros; exact of_decide_eq_true
theorem F.specialFn : ∀ core x1, F.Statement (.specialFn core x1) := by intros; exact of_decide_eq_true
theorem F.rmax : ∀ core x1, F.Statement (.rmax core x1) := by intros; exact of_decide_eq_true
theorem F.rsum : ∀ core x1, F.Statement (.rsum core x1) := by intros; exact of_decide_eq_true
theorem F.softmax : ∀ core x1, F.Statement (.softmax core x1) := by intros; exact of_decide_eq_true
theorem F.smstat : ∀ core x1, F.Statement (.smstat core x1) := by intros; exact of_decide_eq_true
theorem F.smapply : ∀ core x1, F.Statement (.smapply core x1) := by intros; exact of_decide_eq_true
theorem F.rmsnorm : ∀ core x1, F.Statement (.rmsnorm core x1) := by intros; exact of_decide_eq_true
theorem F.layernorm : ∀ core x1, F.Statement (.layernorm core x1) := by intros; exact of_decide_eq_true
theorem F.argmax : ∀ core x1, F.Statement (.argmax core x1) := by intros; exact of_decide_eq_true
theorem F.narrow : ∀ core x1, F.Statement (.narrow core x1) := by intros; exact of_decide_eq_true
theorem F.deq : ∀ core x1, F.Statement (.deq core x1) := by intros; exact of_decide_eq_true
theorem F.kvstore : ∀ core x1, F.Statement (.kvstore core x1) := by intros; exact of_decide_eq_true
theorem F.embed8 : ∀ core x1, F.Statement (.embed8 core x1) := by intros; exact of_decide_eq_true
theorem F.sample : ∀ core x1, F.Statement (.sample core x1) := by intros; exact of_decide_eq_true
theorem F.fence : ∀ core x1, F.Statement (.fence core x1) := by intros; exact of_decide_eq_true
theorem F.signal : ∀ core x1, F.Statement (.signal core x1) := by intros; exact of_decide_eq_true
theorem F.waitev : ∀ core x1, F.Statement (.waitev core x1) := by intros; exact of_decide_eq_true
theorem F.slotwait : ∀ core x1, F.Statement (.slotwait core x1) := by intros; exact of_decide_eq_true
theorem F.ssend : ∀ core x1, F.Statement (.ssend core x1) := by intros; exact of_decide_eq_true
theorem F.srecv : ∀ core x1, F.Statement (.srecv core x1) := by intros; exact of_decide_eq_true
theorem F.srecvTimeout : ∀ core, F.Statement (.srecvTimeout core) := by intros; exact of_decide_eq_true
theorem F.peerSearch : ∀ core x1, F.Statement (.peerSearch core x1) := by intros; exact of_decide_eq_true
theorem F.sfuTblDataWrite : ∀ x0 x1, F.Statement (.sfuTblDataWrite x0 x1) := by intros; exact fun _ => trivial
theorem F.sfuCompat1Write : ∀ x0 x1, F.Statement (.sfuCompat1Write x0 x1) := by intros; exact fun _ => trivial
theorem F.sfuTblDataRead : ∀ x0, F.Statement (.sfuTblDataRead x0) := by intros; exact fun _ => trivial
theorem F.sfuTblCommit : ∀ x0, F.Statement (.sfuTblCommit x0) := by intros; exact fun _ => trivial
theorem F.checkInjectArm : ∀ x0 core x2, F.Statement (.checkInjectArm x0 core x2) := by intros; exact of_decide_eq_true
theorem F.ocmDiagWrite : ∀ x0 x1, F.Statement (.ocmDiagWrite x0 x1) := by intros; exact fun _ => trivial
theorem F.eccFlipmaskArm : ∀ x0 x1, F.Statement (.eccFlipmaskArm x0 x1) := by intros; exact fun _ => trivial
theorem F.atollResize : ∀ x0 x1, F.Statement (.atollResize x0 x1) := by intros; exact fun _ => trivial
theorem F.bankPowerWrite : ∀ x0 off x2, F.Statement (.bankPowerWrite x0 off x2) := by intros; exact of_decide_eq_true
theorem F.autoRetention : ∀ b, F.Statement (.autoRetention b) := by intros; exact id
theorem F.bankWake : ∀ b, F.Statement (.bankWake b) := by intros; exact id
theorem F.bgtRegionStart : ∀ core x1, F.Statement (.bgtRegionStart core x1) := by intros; exact of_decide_eq_true
theorem F.xmcFlipArm : ∀ x0 ch, F.Statement (.xmcFlipArm x0 ch) := by intros; exact of_decide_eq_true
theorem F.scrubGo : ∀ x0 x1, F.Statement (.scrubGo x0 x1) := by intros; exact fun _ => trivial
theorem F.scrubAbort : ∀ x0 x1, F.Statement (.scrubAbort x0 x1) := by intros; exact fun _ => trivial
theorem F.scrubDone : F.Statement .scrubDone := fun _ => trivial
theorem F.xmcTracking : ∀ ch rate x2, F.Statement (.xmcTracking ch rate x2) := by intros; exact fun h => by simpa only [Instr.wf, Bool.and_eq_true, decide_eq_true_eq, and_assoc] using h
theorem F.objRefetched : ∀ x0, F.Statement (.objRefetched x0) := by intros; exact fun _ => trivial
theorem F.stageFetch : ∀ ctx layer, F.Statement (.stageFetch ctx layer) := by intros; exact fun h => by simpa only [Instr.wf, Bool.and_eq_true, decide_eq_true_eq, and_assoc] using h
theorem F.demoteComplete : ∀ ctx seq layer page, F.Statement (.demoteComplete ctx seq layer page) := by intros; exact fun h => by simpa only [Instr.wf, Bool.and_eq_true, decide_eq_true_eq, and_assoc] using h
theorem F.pageFetchComplete : ∀ ctx seq layer page, F.Statement (.pageFetchComplete ctx seq layer page) := by intros; exact fun h => by simpa only [Instr.wf, Bool.and_eq_true, decide_eq_true_eq, and_assoc] using h
theorem F.queryComplete : ∀ x0, F.Statement (.queryComplete x0) := by intros; exact fun _ => trivial
theorem F.compactionSwitch : ∀ index, F.Statement (.compactionSwitch index) := by intros; exact of_decide_eq_true
theorem F.ingestInsert : ∀ x0, F.Statement (.ingestInsert x0) := by intros; exact fun _ => trivial
theorem F.mergeDeadline : ∀ x0, F.Statement (.mergeDeadline x0) := by intros; exact fun _ => trivial
theorem F.deltaRebuild : ∀ index x1, F.Statement (.deltaRebuild index x1) := by intros; exact of_decide_eq_true
theorem F.sreHoldWrite : ∀ x0 x1, F.Statement (.sreHoldWrite x0 x1) := by intros; exact fun _ => trivial
theorem F.flashReadComplete : ∀ u x1, F.Statement (.flashReadComplete u x1) := by intros; exact of_decide_eq_true
theorem F.programComplete : ∀ sb x1, F.Statement (.programComplete sb x1) := by intros; exact of_decide_eq_true
theorem F.eraseComplete : ∀ sb x1, F.Statement (.eraseComplete sb x1) := by intros; exact of_decide_eq_true
theorem F.writeBufferDrain : ∀ x0, F.Statement (.writeBufferDrain x0) := by intros; exact fun _ => trivial
theorem F.mapCheckpoint : ∀ x0, F.Statement (.mapCheckpoint x0) := by intros; exact fun _ => trivial
theorem F.backgroundGc : F.Statement .backgroundGc := fun _ => trivial
theorem F.foregroundGc : F.Statement .foregroundGc := fun _ => trivial
theorem F.slcFold : F.Statement .slcFold := fun _ => trivial
theorem F.powerLossFlush : ∀ x0, F.Statement (.powerLossFlush x0) := by intros; exact fun _ => trivial
theorem F.mteDiagGo : ∀ x0 page x2, F.Statement (.mteDiagGo x0 page x2) := by intros; exact of_decide_eq_true
theorem F.channelStopsResponding : ∀ ch, F.Statement (.channelStopsResponding ch) := by intros; exact of_decide_eq_true
theorem F.linkEnWrite : ∀ x0 x1, F.Statement (.linkEnWrite x0 x1) := by intros; exact fun _ => trivial
theorem F.autoNegotiationTimeout : F.Statement .autoNegotiationTimeout := fun _ => trivial
theorem F.linkUp : F.Statement .linkUp := fun _ => trivial
theorem F.linkDown : F.Statement .linkDown := fun _ => trivial
theorem F.fecWindow : ∀ x0 x1, F.Statement (.fecWindow x0 x1) := by intros; exact fun _ => trivial
theorem F.frameReceive : ∀ x0, F.Statement (.frameReceive x0) := by intros; exact fun _ => trivial
theorem F.pfcRepeat : ∀ prio, F.Statement (.pfcRepeat prio) := by intros; exact of_decide_eq_true
theorem F.pfcPauseExpiry : ∀ prio, F.Statement (.pfcPauseExpiry prio) := by intros; exact of_decide_eq_true
theorem F.pfcFrame : ∀ prio quanta, F.Statement (.pfcFrame prio quanta) := by intros; exact fun h => by simpa only [Instr.wf, Bool.and_eq_true, decide_eq_true_eq, and_assoc] using h
theorem F.pauseFrame : F.Statement .pauseFrame := fun _ => trivial
theorem F.txUnderrun : F.Statement .txUnderrun := fun _ => trivial
theorem F.xqPtrFault : ∀ x0 prio, F.Statement (.xqPtrFault x0 prio) := by intros; exact of_decide_eq_true
theorem F.arpRequest : ∀ x0, F.Statement (.arpRequest x0) := by intros; exact fun _ => trivial
theorem F.icmpEcho : ∀ x0, F.Statement (.icmpEcho x0) := by intros; exact fun _ => trivial
theorem F.gatewayRefresh : F.Statement .gatewayRefresh := fun _ => trivial
theorem F.unresolvedTimeout : F.Statement .unresolvedTimeout := fun _ => trivial
theorem F.tcpRetransmitTimeout : ∀ x0, F.Statement (.tcpRetransmitTimeout x0) := by intros; exact fun _ => trivial
theorem F.ipAddressWrite : ∀ x0 off x2, F.Statement (.ipAddressWrite x0 off x2) := by intros; exact of_decide_eq_true
theorem F.ptpSync : ∀ x0, F.Statement (.ptpSync x0) := by intros; exact fun _ => trivial
theorem F.ptpFollowUp : ∀ x0, F.Statement (.ptpFollowUp x0) := by intros; exact fun _ => trivial
theorem F.ptpDelayResp : ∀ x0, F.Statement (.ptpDelayResp x0) := by intros; exact fun _ => trivial
theorem F.ptpAnnounce : ∀ x0, F.Statement (.ptpAnnounce x0) := by intros; exact fun _ => trivial
theorem F.delayReqSend : F.Statement .delayReqSend := fun _ => trivial
theorem F.referenceLost : F.Statement .referenceLost := fun _ => trivial
theorem F.holdover : F.Statement .holdover := fun _ => trivial
theorem F.lost : F.Statement .lost := fun _ => trivial
theorem F.ppsInEdge : ∀ x0, F.Statement (.ppsInEdge x0) := by intros; exact fun _ => trivial
theorem F.ppsOutPulse : F.Statement .ppsOutPulse := fun _ => trivial
theorem F.ppsOutPulseEnd : F.Statement .ppsOutPulseEnd := fun _ => trivial
theorem F.sourceWrite : ∀ x0 x1, F.Statement (.sourceWrite x0 x1) := by intros; exact fun _ => trivial
theorem F.todSecWrite : ∀ x0 x1, F.Statement (.todSecWrite x0 x1) := by intros; exact fun _ => trivial
theorem F.dataMessage : ∀ x0, F.Statement (.dataMessage x0) := by intros; exact fun _ => trivial
theorem F.queryMessage : ∀ x0, F.Statement (.queryMessage x0) := by intros; exact fun _ => trivial
theorem F.resultMessage : ∀ x0, F.Statement (.resultMessage x0) := by intros; exact fun _ => trivial
theorem F.ackMessage : ∀ x0, F.Statement (.ackMessage x0) := by intros; exact fun _ => trivial
theorem F.syncMessage : ∀ x0, F.Statement (.syncMessage x0) := by intros; exact fun _ => trivial
theorem F.syncReplyMessage : ∀ x0, F.Statement (.syncReplyMessage x0) := by intros; exact fun _ => trivial
theorem F.straitAckTimer : ∀ grp mem, F.Statement (.straitAckTimer grp mem) := by intros; exact fun h => by simpa only [Instr.wf, Bool.and_eq_true, decide_eq_true_eq, and_assoc] using h
theorem F.straitRetransmit : ∀ grp mem, F.Statement (.straitRetransmit grp mem) := by intros; exact fun h => by simpa only [Instr.wf, Bool.and_eq_true, decide_eq_true_eq, and_assoc] using h
theorem F.memberStale : ∀ grp mem, F.Statement (.memberStale grp mem) := by intros; exact fun h => by simpa only [Instr.wf, Bool.and_eq_true, decide_eq_true_eq, and_assoc] using h
theorem F.syncInterval : F.Statement .syncInterval := fun _ => trivial
theorem F.heldMessageExpiry : ∀ x0, F.Statement (.heldMessageExpiry x0) := by intros; exact fun _ => trivial
theorem F.straitMemCfgWrite : ∀ x0 off x2, F.Statement (.straitMemCfgWrite x0 off x2) := by intros; exact of_decide_eq_true
theorem F.straitGrpCfgWrite : ∀ x0 off x2, F.Statement (.straitGrpCfgWrite x0 off x2) := by intros; exact of_decide_eq_true
theorem F.straitPortWrite : ∀ x0 off x2, F.Statement (.straitPortWrite x0 off x2) := by intros; exact of_decide_eq_true
theorem F.mspWatchdog : F.Statement .mspWatchdog := fun _ => trivial
theorem F.managementReset : F.Statement .managementReset := fun _ => trivial
theorem F.sectorProgramComplete : ∀ x0, F.Statement (.sectorProgramComplete x0) := by intros; exact fun _ => trivial
theorem F.getVersion : ∀ x0, F.Statement (.getVersion x0) := by intros; exact fun _ => trivial
theorem F.getCapabilities : ∀ x0, F.Statement (.getCapabilities x0) := by intros; exact fun _ => trivial
theorem F.negotiateAlgorithms : ∀ x0, F.Statement (.negotiateAlgorithms x0) := by intros; exact fun _ => trivial
theorem F.getDigests : ∀ x0, F.Statement (.getDigests x0) := by intros; exact fun _ => trivial
theorem F.getCertificate : ∀ x0, F.Statement (.getCertificate x0) := by intros; exact fun _ => trivial
theorem F.challenge : ∀ x0, F.Statement (.challenge x0) := by intros; exact fun _ => trivial
theorem F.getMeasurements : ∀ x0, F.Statement (.getMeasurements x0) := by intros; exact fun _ => trivial
theorem F.chunkSend : ∀ x0, F.Statement (.chunkSend x0) := by intros; exact fun _ => trivial
theorem F.chunkGet : ∀ x0, F.Statement (.chunkGet x0) := by intros; exact fun _ => trivial
theorem F.sessionOpen : ∀ x0, F.Statement (.sessionOpen x0) := by intros; exact fun _ => trivial
theorem F.sessionAuth : ∀ x0, F.Statement (.sessionAuth x0) := by intros; exact fun _ => trivial
theorem F.sessionRecord : ∀ x0, F.Statement (.sessionRecord x0) := by intros; exact fun _ => trivial
theorem F.sessionIdleTimeout : F.Statement .sessionIdleTimeout := fun _ => trivial
theorem F.provision : ∀ x0, F.Statement (.provision x0) := by intros; exact fun _ => trivial
theorem F.certWrite : ∀ x0, F.Statement (.certWrite x0) := by intros; exact fun _ => trivial
theorem F.takeOwnership : ∀ x0, F.Statement (.takeOwnership x0) := by intros; exact fun _ => trivial
theorem F.pskInstall : ∀ x0, F.Statement (.pskInstall x0) := by intros; exact fun _ => trivial
theorem F.pskDelete : ∀ x0, F.Statement (.pskDelete x0) := by intros; exact fun _ => trivial
theorem F.configWrite : ∀ x0, F.Statement (.configWrite x0) := by intros; exact fun _ => trivial
theorem F.tamperCfg : ∀ x0, F.Statement (.tamperCfg x0) := by intros; exact fun _ => trivial
theorem F.retire : ∀ x0, F.Statement (.retire x0) := by intros; exact fun _ => trivial
theorem F.decommission : ∀ x0, F.Statement (.decommission x0) := by intros; exact fun _ => trivial
theorem F.reprovision : ∀ x0, F.Statement (.reprovision x0) := by intros; exact fun _ => trivial
theorem F.tamperClear : ∀ x0, F.Statement (.tamperClear x0) := by intros; exact fun _ => trivial
theorem F.revokeFwKey : ∀ x0, F.Statement (.revokeFwKey x0) := by intros; exact fun _ => trivial
theorem F.tamperEvent : ∀ src, F.Statement (.tamperEvent src) := by intros; exact of_decide_eq_true
theorem F.tamperLoopMeasure : ∀ x0, F.Statement (.tamperLoopMeasure x0) := by intros; exact fun _ => trivial
theorem F.keystoreErase : F.Statement .keystoreErase := fun _ => trivial
theorem F.commandInterrupted : ∀ t, F.Statement (.commandInterrupted t) := by intros; exact of_decide_eq_true
theorem F.mctpControlMessage : ∀ x0, F.Statement (.mctpControlMessage x0) := by intros; exact fun _ => trivial
theorem F.entdaa : ∀ addr, F.Statement (.entdaa addr) := by intros; exact of_decide_eq_true
theorem F.powerOnReset : F.Statement .powerOnReset := fun _ => trivial
theorem F.moduleReset : F.Statement .moduleReset := fun _ => trivial
theorem F.deviceReset : F.Statement .deviceReset := fun _ => trivial
theorem F.startUp : ∀ x0, F.Statement (.startUp x0) := by intros; exact fun _ => trivial
theorem F.ready : F.Statement .ready := fun _ => trivial
theorem F.pwrEnEdge : ∀ x0, F.Statement (.pwrEnEdge x0) := by intros; exact fun _ => trivial
theorem F.modRstNEdge : ∀ x0, F.Statement (.modRstNEdge x0) := by intros; exact fun _ => trivial
theorem F.brakeNEdge : ∀ x0, F.Statement (.brakeNEdge x0) := by intros; exact fun _ => trivial
theorem F.aux3v3Change : ∀ x0, F.Statement (.aux3v3Change x0) := by intros; exact fun _ => trivial
theorem F.brakeToggleHoldEnd : F.Statement .brakeToggleHoldEnd := fun _ => trivial
theorem F.brakeHeld : F.Statement .brakeHeld := fun _ => trivial
theorem F.inputVoltageEvent : ∀ x0, F.Statement (.inputVoltageEvent x0) := by intros; exact fun _ => trivial
theorem F.governorInterval : ∀ x0 x1, F.Statement (.governorInterval x0 x1) := by intros; exact fun _ => trivial
theorem F.thermalRead : ∀ sensor x1, F.Statement (.thermalRead sensor x1) := by intros; exact of_decide_eq_true
theorem F.holdupMeasurement : ∀ x0, F.Statement (.holdupMeasurement x0) := by intros; exact fun _ => trivial
theorem F.flitGroupCrcFail : ∀ x0, F.Statement (.flitGroupCrcFail x0) := by intros; exact fun _ => trivial
theorem F.classLate : ∀ x0 x1 x2 x3, F.Statement (.classLate x0 x1 x2 x3) := by intros; exact fun _ => trivial
theorem F.ps4FabricClockStop : F.Statement .ps4FabricClockStop := fun _ => trivial
theorem F.actLedTimeout : F.Statement .actLedTimeout := fun _ => trivial

end Sys2Proof.Laws
end

