-- ==== Sys2Proof/Laws/State.lean ====
section
/-! SUPPORT. One lemma per field per update of State: what an update writes and what it leaves. -/
namespace Sys2Proof.Machine
open Sys2Proof

@[simp] theorem setTime_time (v : TimeSt) (s : State) : (setTime v s).time = v := rfl
@[simp] theorem setTime_err (v : TimeSt) (s : State) : (setTime v s).err = s.err := rfl
@[simp] theorem setTime_hdr (v : TimeSt) (s : State) : (setTime v s).hdr = s.hdr := rfl
@[simp] theorem setTime_regs (v : TimeSt) (s : State) : (setTime v s).regs = s.regs := rfl
@[simp] theorem setTime_cnt (v : TimeSt) (s : State) : (setTime v s).cnt = s.cnt := rfl
@[simp] theorem setTime_latch (v : TimeSt) (s : State) : (setTime v s).latch = s.latch := rfl
@[simp] theorem setTime_chip (v : TimeSt) (s : State) : (setTime v s).chip = s.chip := rfl
@[simp] theorem setTime_chart (v : TimeSt) (s : State) : (setTime v s).chart = s.chart := rfl
@[simp] theorem setTime_ctxs (v : TimeSt) (s : State) : (setTime v s).ctxs = s.ctxs := rfl
@[simp] theorem setTime_islands (v : TimeSt) (s : State) : (setTime v s).islands = s.islands := rfl
@[simp] theorem setTime_cores (v : TimeSt) (s : State) : (setTime v s).cores = s.cores := rfl
@[simp] theorem setTime_sfu (v : TimeSt) (s : State) : (setTime v s).sfu = s.sfu := rfl
@[simp] theorem setTime_ocm (v : TimeSt) (s : State) : (setTime v s).ocm = s.ocm := rfl
@[simp] theorem setTime_xmc (v : TimeSt) (s : State) : (setTime v s).xmc = s.xmc := rfl
@[simp] theorem setTime_compass (v : TimeSt) (s : State) : (setTime v s).compass = s.compass := rfl
@[simp] theorem setTime_ftl (v : TimeSt) (s : State) : (setTime v s).ftl = s.ftl := rfl
@[simp] theorem setTime_qcu (v : TimeSt) (s : State) : (setTime v s).qcu = s.qcu := rfl
@[simp] theorem setTime_sre (v : TimeSt) (s : State) : (setTime v s).sre = s.sre := rfl
@[simp] theorem setTime_niu (v : TimeSt) (s : State) : (setTime v s).niu = s.niu := rfl
@[simp] theorem setTime_sext (v : TimeSt) (s : State) : (setTime v s).sext = s.sext := rfl
@[simp] theorem setTime_strait (v : TimeSt) (s : State) : (setTime v s).strait = s.strait := rfl
@[simp] theorem setTime_msp (v : TimeSt) (s : State) : (setTime v s).msp = s.msp := rfl
@[simp] theorem setTime_pwr (v : TimeSt) (s : State) : (setTime v s).pwr = s.pwr := rfl
@[simp] theorem setTime_out (v : TimeSt) (s : State) : (setTime v s).out = s.out := rfl
@[simp] theorem setTime_fresh (v : TimeSt) (s : State) : (setTime v s).fresh = s.fresh := rfl
@[simp] theorem setTime_pending (v : TimeSt) (s : State) : (setTime v s).pending = s.pending := rfl
@[simp] theorem setErr_time (v : ErrSt) (s : State) : (setErr v s).time = s.time := rfl
@[simp] theorem setErr_err (v : ErrSt) (s : State) : (setErr v s).err = v := rfl
@[simp] theorem setErr_hdr (v : ErrSt) (s : State) : (setErr v s).hdr = s.hdr := rfl
@[simp] theorem setErr_regs (v : ErrSt) (s : State) : (setErr v s).regs = s.regs := rfl
@[simp] theorem setErr_cnt (v : ErrSt) (s : State) : (setErr v s).cnt = s.cnt := rfl
@[simp] theorem setErr_latch (v : ErrSt) (s : State) : (setErr v s).latch = s.latch := rfl
@[simp] theorem setErr_chip (v : ErrSt) (s : State) : (setErr v s).chip = s.chip := rfl
@[simp] theorem setErr_chart (v : ErrSt) (s : State) : (setErr v s).chart = s.chart := rfl
@[simp] theorem setErr_ctxs (v : ErrSt) (s : State) : (setErr v s).ctxs = s.ctxs := rfl
@[simp] theorem setErr_islands (v : ErrSt) (s : State) : (setErr v s).islands = s.islands := rfl
@[simp] theorem setErr_cores (v : ErrSt) (s : State) : (setErr v s).cores = s.cores := rfl
@[simp] theorem setErr_sfu (v : ErrSt) (s : State) : (setErr v s).sfu = s.sfu := rfl
@[simp] theorem setErr_ocm (v : ErrSt) (s : State) : (setErr v s).ocm = s.ocm := rfl
@[simp] theorem setErr_xmc (v : ErrSt) (s : State) : (setErr v s).xmc = s.xmc := rfl
@[simp] theorem setErr_compass (v : ErrSt) (s : State) : (setErr v s).compass = s.compass := rfl
@[simp] theorem setErr_ftl (v : ErrSt) (s : State) : (setErr v s).ftl = s.ftl := rfl
@[simp] theorem setErr_qcu (v : ErrSt) (s : State) : (setErr v s).qcu = s.qcu := rfl
@[simp] theorem setErr_sre (v : ErrSt) (s : State) : (setErr v s).sre = s.sre := rfl
@[simp] theorem setErr_niu (v : ErrSt) (s : State) : (setErr v s).niu = s.niu := rfl
@[simp] theorem setErr_sext (v : ErrSt) (s : State) : (setErr v s).sext = s.sext := rfl
@[simp] theorem setErr_strait (v : ErrSt) (s : State) : (setErr v s).strait = s.strait := rfl
@[simp] theorem setErr_msp (v : ErrSt) (s : State) : (setErr v s).msp = s.msp := rfl
@[simp] theorem setErr_pwr (v : ErrSt) (s : State) : (setErr v s).pwr = s.pwr := rfl
@[simp] theorem setErr_out (v : ErrSt) (s : State) : (setErr v s).out = s.out := rfl
@[simp] theorem setErr_fresh (v : ErrSt) (s : State) : (setErr v s).fresh = s.fresh := rfl
@[simp] theorem setErr_pending (v : ErrSt) (s : State) : (setErr v s).pending = s.pending := rfl
@[simp] theorem setHdr_time (v : SMap PageHdr) (s : State) : (setHdr v s).time = s.time := rfl
@[simp] theorem setHdr_err (v : SMap PageHdr) (s : State) : (setHdr v s).err = s.err := rfl
@[simp] theorem setHdr_hdr (v : SMap PageHdr) (s : State) : (setHdr v s).hdr = v := rfl
@[simp] theorem setHdr_regs (v : SMap PageHdr) (s : State) : (setHdr v s).regs = s.regs := rfl
@[simp] theorem setHdr_cnt (v : SMap PageHdr) (s : State) : (setHdr v s).cnt = s.cnt := rfl
@[simp] theorem setHdr_latch (v : SMap PageHdr) (s : State) : (setHdr v s).latch = s.latch := rfl
@[simp] theorem setHdr_chip (v : SMap PageHdr) (s : State) : (setHdr v s).chip = s.chip := rfl
@[simp] theorem setHdr_chart (v : SMap PageHdr) (s : State) : (setHdr v s).chart = s.chart := rfl
@[simp] theorem setHdr_ctxs (v : SMap PageHdr) (s : State) : (setHdr v s).ctxs = s.ctxs := rfl
@[simp] theorem setHdr_islands (v : SMap PageHdr) (s : State) : (setHdr v s).islands = s.islands := rfl
@[simp] theorem setHdr_cores (v : SMap PageHdr) (s : State) : (setHdr v s).cores = s.cores := rfl
@[simp] theorem setHdr_sfu (v : SMap PageHdr) (s : State) : (setHdr v s).sfu = s.sfu := rfl
@[simp] theorem setHdr_ocm (v : SMap PageHdr) (s : State) : (setHdr v s).ocm = s.ocm := rfl
@[simp] theorem setHdr_xmc (v : SMap PageHdr) (s : State) : (setHdr v s).xmc = s.xmc := rfl
@[simp] theorem setHdr_compass (v : SMap PageHdr) (s : State) : (setHdr v s).compass = s.compass := rfl
@[simp] theorem setHdr_ftl (v : SMap PageHdr) (s : State) : (setHdr v s).ftl = s.ftl := rfl
@[simp] theorem setHdr_qcu (v : SMap PageHdr) (s : State) : (setHdr v s).qcu = s.qcu := rfl
@[simp] theorem setHdr_sre (v : SMap PageHdr) (s : State) : (setHdr v s).sre = s.sre := rfl
@[simp] theorem setHdr_niu (v : SMap PageHdr) (s : State) : (setHdr v s).niu = s.niu := rfl
@[simp] theorem setHdr_sext (v : SMap PageHdr) (s : State) : (setHdr v s).sext = s.sext := rfl
@[simp] theorem setHdr_strait (v : SMap PageHdr) (s : State) : (setHdr v s).strait = s.strait := rfl
@[simp] theorem setHdr_msp (v : SMap PageHdr) (s : State) : (setHdr v s).msp = s.msp := rfl
@[simp] theorem setHdr_pwr (v : SMap PageHdr) (s : State) : (setHdr v s).pwr = s.pwr := rfl
@[simp] theorem setHdr_out (v : SMap PageHdr) (s : State) : (setHdr v s).out = s.out := rfl
@[simp] theorem setHdr_fresh (v : SMap PageHdr) (s : State) : (setHdr v s).fresh = s.fresh := rfl
@[simp] theorem setHdr_pending (v : SMap PageHdr) (s : State) : (setHdr v s).pending = s.pending := rfl
@[simp] theorem setRegs_time (v : SMap Word) (s : State) : (setRegs v s).time = s.time := rfl
@[simp] theorem setRegs_err (v : SMap Word) (s : State) : (setRegs v s).err = s.err := rfl
@[simp] theorem setRegs_hdr (v : SMap Word) (s : State) : (setRegs v s).hdr = s.hdr := rfl
@[simp] theorem setRegs_regs (v : SMap Word) (s : State) : (setRegs v s).regs = v := rfl
@[simp] theorem setRegs_cnt (v : SMap Word) (s : State) : (setRegs v s).cnt = s.cnt := rfl
@[simp] theorem setRegs_latch (v : SMap Word) (s : State) : (setRegs v s).latch = s.latch := rfl
@[simp] theorem setRegs_chip (v : SMap Word) (s : State) : (setRegs v s).chip = s.chip := rfl
@[simp] theorem setRegs_chart (v : SMap Word) (s : State) : (setRegs v s).chart = s.chart := rfl
@[simp] theorem setRegs_ctxs (v : SMap Word) (s : State) : (setRegs v s).ctxs = s.ctxs := rfl
@[simp] theorem setRegs_islands (v : SMap Word) (s : State) : (setRegs v s).islands = s.islands := rfl
@[simp] theorem setRegs_cores (v : SMap Word) (s : State) : (setRegs v s).cores = s.cores := rfl
@[simp] theorem setRegs_sfu (v : SMap Word) (s : State) : (setRegs v s).sfu = s.sfu := rfl
@[simp] theorem setRegs_ocm (v : SMap Word) (s : State) : (setRegs v s).ocm = s.ocm := rfl
@[simp] theorem setRegs_xmc (v : SMap Word) (s : State) : (setRegs v s).xmc = s.xmc := rfl
@[simp] theorem setRegs_compass (v : SMap Word) (s : State) : (setRegs v s).compass = s.compass := rfl
@[simp] theorem setRegs_ftl (v : SMap Word) (s : State) : (setRegs v s).ftl = s.ftl := rfl
@[simp] theorem setRegs_qcu (v : SMap Word) (s : State) : (setRegs v s).qcu = s.qcu := rfl
@[simp] theorem setRegs_sre (v : SMap Word) (s : State) : (setRegs v s).sre = s.sre := rfl
@[simp] theorem setRegs_niu (v : SMap Word) (s : State) : (setRegs v s).niu = s.niu := rfl
@[simp] theorem setRegs_sext (v : SMap Word) (s : State) : (setRegs v s).sext = s.sext := rfl
@[simp] theorem setRegs_strait (v : SMap Word) (s : State) : (setRegs v s).strait = s.strait := rfl
@[simp] theorem setRegs_msp (v : SMap Word) (s : State) : (setRegs v s).msp = s.msp := rfl
@[simp] theorem setRegs_pwr (v : SMap Word) (s : State) : (setRegs v s).pwr = s.pwr := rfl
@[simp] theorem setRegs_out (v : SMap Word) (s : State) : (setRegs v s).out = s.out := rfl
@[simp] theorem setRegs_fresh (v : SMap Word) (s : State) : (setRegs v s).fresh = s.fresh := rfl
@[simp] theorem setRegs_pending (v : SMap Word) (s : State) : (setRegs v s).pending = s.pending := rfl
@[simp] theorem setCnt_time (v : SMap Nat) (s : State) : (setCnt v s).time = s.time := rfl
@[simp] theorem setCnt_err (v : SMap Nat) (s : State) : (setCnt v s).err = s.err := rfl
@[simp] theorem setCnt_hdr (v : SMap Nat) (s : State) : (setCnt v s).hdr = s.hdr := rfl
@[simp] theorem setCnt_regs (v : SMap Nat) (s : State) : (setCnt v s).regs = s.regs := rfl
@[simp] theorem setCnt_cnt (v : SMap Nat) (s : State) : (setCnt v s).cnt = v := rfl
@[simp] theorem setCnt_latch (v : SMap Nat) (s : State) : (setCnt v s).latch = s.latch := rfl
@[simp] theorem setCnt_chip (v : SMap Nat) (s : State) : (setCnt v s).chip = s.chip := rfl
@[simp] theorem setCnt_chart (v : SMap Nat) (s : State) : (setCnt v s).chart = s.chart := rfl
@[simp] theorem setCnt_ctxs (v : SMap Nat) (s : State) : (setCnt v s).ctxs = s.ctxs := rfl
@[simp] theorem setCnt_islands (v : SMap Nat) (s : State) : (setCnt v s).islands = s.islands := rfl
@[simp] theorem setCnt_cores (v : SMap Nat) (s : State) : (setCnt v s).cores = s.cores := rfl
@[simp] theorem setCnt_sfu (v : SMap Nat) (s : State) : (setCnt v s).sfu = s.sfu := rfl
@[simp] theorem setCnt_ocm (v : SMap Nat) (s : State) : (setCnt v s).ocm = s.ocm := rfl
@[simp] theorem setCnt_xmc (v : SMap Nat) (s : State) : (setCnt v s).xmc = s.xmc := rfl
@[simp] theorem setCnt_compass (v : SMap Nat) (s : State) : (setCnt v s).compass = s.compass := rfl
@[simp] theorem setCnt_ftl (v : SMap Nat) (s : State) : (setCnt v s).ftl = s.ftl := rfl
@[simp] theorem setCnt_qcu (v : SMap Nat) (s : State) : (setCnt v s).qcu = s.qcu := rfl
@[simp] theorem setCnt_sre (v : SMap Nat) (s : State) : (setCnt v s).sre = s.sre := rfl
@[simp] theorem setCnt_niu (v : SMap Nat) (s : State) : (setCnt v s).niu = s.niu := rfl
@[simp] theorem setCnt_sext (v : SMap Nat) (s : State) : (setCnt v s).sext = s.sext := rfl
@[simp] theorem setCnt_strait (v : SMap Nat) (s : State) : (setCnt v s).strait = s.strait := rfl
@[simp] theorem setCnt_msp (v : SMap Nat) (s : State) : (setCnt v s).msp = s.msp := rfl
@[simp] theorem setCnt_pwr (v : SMap Nat) (s : State) : (setCnt v s).pwr = s.pwr := rfl
@[simp] theorem setCnt_out (v : SMap Nat) (s : State) : (setCnt v s).out = s.out := rfl
@[simp] theorem setCnt_fresh (v : SMap Nat) (s : State) : (setCnt v s).fresh = s.fresh := rfl
@[simp] theorem setCnt_pending (v : SMap Nat) (s : State) : (setCnt v s).pending = s.pending := rfl
@[simp] theorem setLatch_time (v : SMap Nat) (s : State) : (setLatch v s).time = s.time := rfl
@[simp] theorem setLatch_err (v : SMap Nat) (s : State) : (setLatch v s).err = s.err := rfl
@[simp] theorem setLatch_hdr (v : SMap Nat) (s : State) : (setLatch v s).hdr = s.hdr := rfl
@[simp] theorem setLatch_regs (v : SMap Nat) (s : State) : (setLatch v s).regs = s.regs := rfl
@[simp] theorem setLatch_cnt (v : SMap Nat) (s : State) : (setLatch v s).cnt = s.cnt := rfl
@[simp] theorem setLatch_latch (v : SMap Nat) (s : State) : (setLatch v s).latch = v := rfl
@[simp] theorem setLatch_chip (v : SMap Nat) (s : State) : (setLatch v s).chip = s.chip := rfl
@[simp] theorem setLatch_chart (v : SMap Nat) (s : State) : (setLatch v s).chart = s.chart := rfl
@[simp] theorem setLatch_ctxs (v : SMap Nat) (s : State) : (setLatch v s).ctxs = s.ctxs := rfl
@[simp] theorem setLatch_islands (v : SMap Nat) (s : State) : (setLatch v s).islands = s.islands := rfl
@[simp] theorem setLatch_cores (v : SMap Nat) (s : State) : (setLatch v s).cores = s.cores := rfl
@[simp] theorem setLatch_sfu (v : SMap Nat) (s : State) : (setLatch v s).sfu = s.sfu := rfl
@[simp] theorem setLatch_ocm (v : SMap Nat) (s : State) : (setLatch v s).ocm = s.ocm := rfl
@[simp] theorem setLatch_xmc (v : SMap Nat) (s : State) : (setLatch v s).xmc = s.xmc := rfl
@[simp] theorem setLatch_compass (v : SMap Nat) (s : State) : (setLatch v s).compass = s.compass := rfl
@[simp] theorem setLatch_ftl (v : SMap Nat) (s : State) : (setLatch v s).ftl = s.ftl := rfl
@[simp] theorem setLatch_qcu (v : SMap Nat) (s : State) : (setLatch v s).qcu = s.qcu := rfl
@[simp] theorem setLatch_sre (v : SMap Nat) (s : State) : (setLatch v s).sre = s.sre := rfl
@[simp] theorem setLatch_niu (v : SMap Nat) (s : State) : (setLatch v s).niu = s.niu := rfl
@[simp] theorem setLatch_sext (v : SMap Nat) (s : State) : (setLatch v s).sext = s.sext := rfl
@[simp] theorem setLatch_strait (v : SMap Nat) (s : State) : (setLatch v s).strait = s.strait := rfl
@[simp] theorem setLatch_msp (v : SMap Nat) (s : State) : (setLatch v s).msp = s.msp := rfl
@[simp] theorem setLatch_pwr (v : SMap Nat) (s : State) : (setLatch v s).pwr = s.pwr := rfl
@[simp] theorem setLatch_out (v : SMap Nat) (s : State) : (setLatch v s).out = s.out := rfl
@[simp] theorem setLatch_fresh (v : SMap Nat) (s : State) : (setLatch v s).fresh = s.fresh := rfl
@[simp] theorem setLatch_pending (v : SMap Nat) (s : State) : (setLatch v s).pending = s.pending := rfl
@[simp] theorem setChip_time (v : ChipSt) (s : State) : (setChip v s).time = s.time := rfl
@[simp] theorem setChip_err (v : ChipSt) (s : State) : (setChip v s).err = s.err := rfl
@[simp] theorem setChip_hdr (v : ChipSt) (s : State) : (setChip v s).hdr = s.hdr := rfl
@[simp] theorem setChip_regs (v : ChipSt) (s : State) : (setChip v s).regs = s.regs := rfl
@[simp] theorem setChip_cnt (v : ChipSt) (s : State) : (setChip v s).cnt = s.cnt := rfl
@[simp] theorem setChip_latch (v : ChipSt) (s : State) : (setChip v s).latch = s.latch := rfl
@[simp] theorem setChip_chip (v : ChipSt) (s : State) : (setChip v s).chip = v := rfl
@[simp] theorem setChip_chart (v : ChipSt) (s : State) : (setChip v s).chart = s.chart := rfl
@[simp] theorem setChip_ctxs (v : ChipSt) (s : State) : (setChip v s).ctxs = s.ctxs := rfl
@[simp] theorem setChip_islands (v : ChipSt) (s : State) : (setChip v s).islands = s.islands := rfl
@[simp] theorem setChip_cores (v : ChipSt) (s : State) : (setChip v s).cores = s.cores := rfl
@[simp] theorem setChip_sfu (v : ChipSt) (s : State) : (setChip v s).sfu = s.sfu := rfl
@[simp] theorem setChip_ocm (v : ChipSt) (s : State) : (setChip v s).ocm = s.ocm := rfl
@[simp] theorem setChip_xmc (v : ChipSt) (s : State) : (setChip v s).xmc = s.xmc := rfl
@[simp] theorem setChip_compass (v : ChipSt) (s : State) : (setChip v s).compass = s.compass := rfl
@[simp] theorem setChip_ftl (v : ChipSt) (s : State) : (setChip v s).ftl = s.ftl := rfl
@[simp] theorem setChip_qcu (v : ChipSt) (s : State) : (setChip v s).qcu = s.qcu := rfl
@[simp] theorem setChip_sre (v : ChipSt) (s : State) : (setChip v s).sre = s.sre := rfl
@[simp] theorem setChip_niu (v : ChipSt) (s : State) : (setChip v s).niu = s.niu := rfl
@[simp] theorem setChip_sext (v : ChipSt) (s : State) : (setChip v s).sext = s.sext := rfl
@[simp] theorem setChip_strait (v : ChipSt) (s : State) : (setChip v s).strait = s.strait := rfl
@[simp] theorem setChip_msp (v : ChipSt) (s : State) : (setChip v s).msp = s.msp := rfl
@[simp] theorem setChip_pwr (v : ChipSt) (s : State) : (setChip v s).pwr = s.pwr := rfl
@[simp] theorem setChip_out (v : ChipSt) (s : State) : (setChip v s).out = s.out := rfl
@[simp] theorem setChip_fresh (v : ChipSt) (s : State) : (setChip v s).fresh = s.fresh := rfl
@[simp] theorem setChip_pending (v : ChipSt) (s : State) : (setChip v s).pending = s.pending := rfl
@[simp] theorem setChart_time (v : ChartSt) (s : State) : (setChart v s).time = s.time := rfl
@[simp] theorem setChart_err (v : ChartSt) (s : State) : (setChart v s).err = s.err := rfl
@[simp] theorem setChart_hdr (v : ChartSt) (s : State) : (setChart v s).hdr = s.hdr := rfl
@[simp] theorem setChart_regs (v : ChartSt) (s : State) : (setChart v s).regs = s.regs := rfl
@[simp] theorem setChart_cnt (v : ChartSt) (s : State) : (setChart v s).cnt = s.cnt := rfl
@[simp] theorem setChart_latch (v : ChartSt) (s : State) : (setChart v s).latch = s.latch := rfl
@[simp] theorem setChart_chip (v : ChartSt) (s : State) : (setChart v s).chip = s.chip := rfl
@[simp] theorem setChart_chart (v : ChartSt) (s : State) : (setChart v s).chart = v := rfl
@[simp] theorem setChart_ctxs (v : ChartSt) (s : State) : (setChart v s).ctxs = s.ctxs := rfl
@[simp] theorem setChart_islands (v : ChartSt) (s : State) : (setChart v s).islands = s.islands := rfl
@[simp] theorem setChart_cores (v : ChartSt) (s : State) : (setChart v s).cores = s.cores := rfl
@[simp] theorem setChart_sfu (v : ChartSt) (s : State) : (setChart v s).sfu = s.sfu := rfl
@[simp] theorem setChart_ocm (v : ChartSt) (s : State) : (setChart v s).ocm = s.ocm := rfl
@[simp] theorem setChart_xmc (v : ChartSt) (s : State) : (setChart v s).xmc = s.xmc := rfl
@[simp] theorem setChart_compass (v : ChartSt) (s : State) : (setChart v s).compass = s.compass := rfl
@[simp] theorem setChart_ftl (v : ChartSt) (s : State) : (setChart v s).ftl = s.ftl := rfl
@[simp] theorem setChart_qcu (v : ChartSt) (s : State) : (setChart v s).qcu = s.qcu := rfl
@[simp] theorem setChart_sre (v : ChartSt) (s : State) : (setChart v s).sre = s.sre := rfl
@[simp] theorem setChart_niu (v : ChartSt) (s : State) : (setChart v s).niu = s.niu := rfl
@[simp] theorem setChart_sext (v : ChartSt) (s : State) : (setChart v s).sext = s.sext := rfl
@[simp] theorem setChart_strait (v : ChartSt) (s : State) : (setChart v s).strait = s.strait := rfl
@[simp] theorem setChart_msp (v : ChartSt) (s : State) : (setChart v s).msp = s.msp := rfl
@[simp] theorem setChart_pwr (v : ChartSt) (s : State) : (setChart v s).pwr = s.pwr := rfl
@[simp] theorem setChart_out (v : ChartSt) (s : State) : (setChart v s).out = s.out := rfl
@[simp] theorem setChart_fresh (v : ChartSt) (s : State) : (setChart v s).fresh = s.fresh := rfl
@[simp] theorem setChart_pending (v : ChartSt) (s : State) : (setChart v s).pending = s.pending := rfl
@[simp] theorem setCtxs_time (v : SMap Ctx) (s : State) : (setCtxs v s).time = s.time := rfl
@[simp] theorem setCtxs_err (v : SMap Ctx) (s : State) : (setCtxs v s).err = s.err := rfl
@[simp] theorem setCtxs_hdr (v : SMap Ctx) (s : State) : (setCtxs v s).hdr = s.hdr := rfl
@[simp] theorem setCtxs_regs (v : SMap Ctx) (s : State) : (setCtxs v s).regs = s.regs := rfl
@[simp] theorem setCtxs_cnt (v : SMap Ctx) (s : State) : (setCtxs v s).cnt = s.cnt := rfl
@[simp] theorem setCtxs_latch (v : SMap Ctx) (s : State) : (setCtxs v s).latch = s.latch := rfl
@[simp] theorem setCtxs_chip (v : SMap Ctx) (s : State) : (setCtxs v s).chip = s.chip := rfl
@[simp] theorem setCtxs_chart (v : SMap Ctx) (s : State) : (setCtxs v s).chart = s.chart := rfl
@[simp] theorem setCtxs_ctxs (v : SMap Ctx) (s : State) : (setCtxs v s).ctxs = v := rfl
@[simp] theorem setCtxs_islands (v : SMap Ctx) (s : State) : (setCtxs v s).islands = s.islands := rfl
@[simp] theorem setCtxs_cores (v : SMap Ctx) (s : State) : (setCtxs v s).cores = s.cores := rfl
@[simp] theorem setCtxs_sfu (v : SMap Ctx) (s : State) : (setCtxs v s).sfu = s.sfu := rfl
@[simp] theorem setCtxs_ocm (v : SMap Ctx) (s : State) : (setCtxs v s).ocm = s.ocm := rfl
@[simp] theorem setCtxs_xmc (v : SMap Ctx) (s : State) : (setCtxs v s).xmc = s.xmc := rfl
@[simp] theorem setCtxs_compass (v : SMap Ctx) (s : State) : (setCtxs v s).compass = s.compass := rfl
@[simp] theorem setCtxs_ftl (v : SMap Ctx) (s : State) : (setCtxs v s).ftl = s.ftl := rfl
@[simp] theorem setCtxs_qcu (v : SMap Ctx) (s : State) : (setCtxs v s).qcu = s.qcu := rfl
@[simp] theorem setCtxs_sre (v : SMap Ctx) (s : State) : (setCtxs v s).sre = s.sre := rfl
@[simp] theorem setCtxs_niu (v : SMap Ctx) (s : State) : (setCtxs v s).niu = s.niu := rfl
@[simp] theorem setCtxs_sext (v : SMap Ctx) (s : State) : (setCtxs v s).sext = s.sext := rfl
@[simp] theorem setCtxs_strait (v : SMap Ctx) (s : State) : (setCtxs v s).strait = s.strait := rfl
@[simp] theorem setCtxs_msp (v : SMap Ctx) (s : State) : (setCtxs v s).msp = s.msp := rfl
@[simp] theorem setCtxs_pwr (v : SMap Ctx) (s : State) : (setCtxs v s).pwr = s.pwr := rfl
@[simp] theorem setCtxs_out (v : SMap Ctx) (s : State) : (setCtxs v s).out = s.out := rfl
@[simp] theorem setCtxs_fresh (v : SMap Ctx) (s : State) : (setCtxs v s).fresh = s.fresh := rfl
@[simp] theorem setCtxs_pending (v : SMap Ctx) (s : State) : (setCtxs v s).pending = s.pending := rfl
@[simp] theorem setIslands_time (v : SMap Nat) (s : State) : (setIslands v s).time = s.time := rfl
@[simp] theorem setIslands_err (v : SMap Nat) (s : State) : (setIslands v s).err = s.err := rfl
@[simp] theorem setIslands_hdr (v : SMap Nat) (s : State) : (setIslands v s).hdr = s.hdr := rfl
@[simp] theorem setIslands_regs (v : SMap Nat) (s : State) : (setIslands v s).regs = s.regs := rfl
@[simp] theorem setIslands_cnt (v : SMap Nat) (s : State) : (setIslands v s).cnt = s.cnt := rfl
@[simp] theorem setIslands_latch (v : SMap Nat) (s : State) : (setIslands v s).latch = s.latch := rfl
@[simp] theorem setIslands_chip (v : SMap Nat) (s : State) : (setIslands v s).chip = s.chip := rfl
@[simp] theorem setIslands_chart (v : SMap Nat) (s : State) : (setIslands v s).chart = s.chart := rfl
@[simp] theorem setIslands_ctxs (v : SMap Nat) (s : State) : (setIslands v s).ctxs = s.ctxs := rfl
@[simp] theorem setIslands_islands (v : SMap Nat) (s : State) : (setIslands v s).islands = v := rfl
@[simp] theorem setIslands_cores (v : SMap Nat) (s : State) : (setIslands v s).cores = s.cores := rfl
@[simp] theorem setIslands_sfu (v : SMap Nat) (s : State) : (setIslands v s).sfu = s.sfu := rfl
@[simp] theorem setIslands_ocm (v : SMap Nat) (s : State) : (setIslands v s).ocm = s.ocm := rfl
@[simp] theorem setIslands_xmc (v : SMap Nat) (s : State) : (setIslands v s).xmc = s.xmc := rfl
@[simp] theorem setIslands_compass (v : SMap Nat) (s : State) : (setIslands v s).compass = s.compass := rfl
@[simp] theorem setIslands_ftl (v : SMap Nat) (s : State) : (setIslands v s).ftl = s.ftl := rfl
@[simp] theorem setIslands_qcu (v : SMap Nat) (s : State) : (setIslands v s).qcu = s.qcu := rfl
@[simp] theorem setIslands_sre (v : SMap Nat) (s : State) : (setIslands v s).sre = s.sre := rfl
@[simp] theorem setIslands_niu (v : SMap Nat) (s : State) : (setIslands v s).niu = s.niu := rfl
@[simp] theorem setIslands_sext (v : SMap Nat) (s : State) : (setIslands v s).sext = s.sext := rfl
@[simp] theorem setIslands_strait (v : SMap Nat) (s : State) : (setIslands v s).strait = s.strait := rfl
@[simp] theorem setIslands_msp (v : SMap Nat) (s : State) : (setIslands v s).msp = s.msp := rfl
@[simp] theorem setIslands_pwr (v : SMap Nat) (s : State) : (setIslands v s).pwr = s.pwr := rfl
@[simp] theorem setIslands_out (v : SMap Nat) (s : State) : (setIslands v s).out = s.out := rfl
@[simp] theorem setIslands_fresh (v : SMap Nat) (s : State) : (setIslands v s).fresh = s.fresh := rfl
@[simp] theorem setIslands_pending (v : SMap Nat) (s : State) : (setIslands v s).pending = s.pending := rfl
@[simp] theorem setCores_time (v : SMap Core) (s : State) : (setCores v s).time = s.time := rfl
@[simp] theorem setCores_err (v : SMap Core) (s : State) : (setCores v s).err = s.err := rfl
@[simp] theorem setCores_hdr (v : SMap Core) (s : State) : (setCores v s).hdr = s.hdr := rfl
@[simp] theorem setCores_regs (v : SMap Core) (s : State) : (setCores v s).regs = s.regs := rfl
@[simp] theorem setCores_cnt (v : SMap Core) (s : State) : (setCores v s).cnt = s.cnt := rfl
@[simp] theorem setCores_latch (v : SMap Core) (s : State) : (setCores v s).latch = s.latch := rfl
@[simp] theorem setCores_chip (v : SMap Core) (s : State) : (setCores v s).chip = s.chip := rfl
@[simp] theorem setCores_chart (v : SMap Core) (s : State) : (setCores v s).chart = s.chart := rfl
@[simp] theorem setCores_ctxs (v : SMap Core) (s : State) : (setCores v s).ctxs = s.ctxs := rfl
@[simp] theorem setCores_islands (v : SMap Core) (s : State) : (setCores v s).islands = s.islands := rfl
@[simp] theorem setCores_cores (v : SMap Core) (s : State) : (setCores v s).cores = v := rfl
@[simp] theorem setCores_sfu (v : SMap Core) (s : State) : (setCores v s).sfu = s.sfu := rfl
@[simp] theorem setCores_ocm (v : SMap Core) (s : State) : (setCores v s).ocm = s.ocm := rfl
@[simp] theorem setCores_xmc (v : SMap Core) (s : State) : (setCores v s).xmc = s.xmc := rfl
@[simp] theorem setCores_compass (v : SMap Core) (s : State) : (setCores v s).compass = s.compass := rfl
@[simp] theorem setCores_ftl (v : SMap Core) (s : State) : (setCores v s).ftl = s.ftl := rfl
@[simp] theorem setCores_qcu (v : SMap Core) (s : State) : (setCores v s).qcu = s.qcu := rfl
@[simp] theorem setCores_sre (v : SMap Core) (s : State) : (setCores v s).sre = s.sre := rfl
@[simp] theorem setCores_niu (v : SMap Core) (s : State) : (setCores v s).niu = s.niu := rfl
@[simp] theorem setCores_sext (v : SMap Core) (s : State) : (setCores v s).sext = s.sext := rfl
@[simp] theorem setCores_strait (v : SMap Core) (s : State) : (setCores v s).strait = s.strait := rfl
@[simp] theorem setCores_msp (v : SMap Core) (s : State) : (setCores v s).msp = s.msp := rfl
@[simp] theorem setCores_pwr (v : SMap Core) (s : State) : (setCores v s).pwr = s.pwr := rfl
@[simp] theorem setCores_out (v : SMap Core) (s : State) : (setCores v s).out = s.out := rfl
@[simp] theorem setCores_fresh (v : SMap Core) (s : State) : (setCores v s).fresh = s.fresh := rfl
@[simp] theorem setCores_pending (v : SMap Core) (s : State) : (setCores v s).pending = s.pending := rfl
@[simp] theorem setSfu_time (v : SfuSt) (s : State) : (setSfu v s).time = s.time := rfl
@[simp] theorem setSfu_err (v : SfuSt) (s : State) : (setSfu v s).err = s.err := rfl
@[simp] theorem setSfu_hdr (v : SfuSt) (s : State) : (setSfu v s).hdr = s.hdr := rfl
@[simp] theorem setSfu_regs (v : SfuSt) (s : State) : (setSfu v s).regs = s.regs := rfl
@[simp] theorem setSfu_cnt (v : SfuSt) (s : State) : (setSfu v s).cnt = s.cnt := rfl
@[simp] theorem setSfu_latch (v : SfuSt) (s : State) : (setSfu v s).latch = s.latch := rfl
@[simp] theorem setSfu_chip (v : SfuSt) (s : State) : (setSfu v s).chip = s.chip := rfl
@[simp] theorem setSfu_chart (v : SfuSt) (s : State) : (setSfu v s).chart = s.chart := rfl
@[simp] theorem setSfu_ctxs (v : SfuSt) (s : State) : (setSfu v s).ctxs = s.ctxs := rfl
@[simp] theorem setSfu_islands (v : SfuSt) (s : State) : (setSfu v s).islands = s.islands := rfl
@[simp] theorem setSfu_cores (v : SfuSt) (s : State) : (setSfu v s).cores = s.cores := rfl
@[simp] theorem setSfu_sfu (v : SfuSt) (s : State) : (setSfu v s).sfu = v := rfl
@[simp] theorem setSfu_ocm (v : SfuSt) (s : State) : (setSfu v s).ocm = s.ocm := rfl
@[simp] theorem setSfu_xmc (v : SfuSt) (s : State) : (setSfu v s).xmc = s.xmc := rfl
@[simp] theorem setSfu_compass (v : SfuSt) (s : State) : (setSfu v s).compass = s.compass := rfl
@[simp] theorem setSfu_ftl (v : SfuSt) (s : State) : (setSfu v s).ftl = s.ftl := rfl
@[simp] theorem setSfu_qcu (v : SfuSt) (s : State) : (setSfu v s).qcu = s.qcu := rfl
@[simp] theorem setSfu_sre (v : SfuSt) (s : State) : (setSfu v s).sre = s.sre := rfl
@[simp] theorem setSfu_niu (v : SfuSt) (s : State) : (setSfu v s).niu = s.niu := rfl
@[simp] theorem setSfu_sext (v : SfuSt) (s : State) : (setSfu v s).sext = s.sext := rfl
@[simp] theorem setSfu_strait (v : SfuSt) (s : State) : (setSfu v s).strait = s.strait := rfl
@[simp] theorem setSfu_msp (v : SfuSt) (s : State) : (setSfu v s).msp = s.msp := rfl
@[simp] theorem setSfu_pwr (v : SfuSt) (s : State) : (setSfu v s).pwr = s.pwr := rfl
@[simp] theorem setSfu_out (v : SfuSt) (s : State) : (setSfu v s).out = s.out := rfl
@[simp] theorem setSfu_fresh (v : SfuSt) (s : State) : (setSfu v s).fresh = s.fresh := rfl
@[simp] theorem setSfu_pending (v : SfuSt) (s : State) : (setSfu v s).pending = s.pending := rfl
@[simp] theorem setOcm_time (v : OcmSt) (s : State) : (setOcm v s).time = s.time := rfl
@[simp] theorem setOcm_err (v : OcmSt) (s : State) : (setOcm v s).err = s.err := rfl
@[simp] theorem setOcm_hdr (v : OcmSt) (s : State) : (setOcm v s).hdr = s.hdr := rfl
@[simp] theorem setOcm_regs (v : OcmSt) (s : State) : (setOcm v s).regs = s.regs := rfl
@[simp] theorem setOcm_cnt (v : OcmSt) (s : State) : (setOcm v s).cnt = s.cnt := rfl
@[simp] theorem setOcm_latch (v : OcmSt) (s : State) : (setOcm v s).latch = s.latch := rfl
@[simp] theorem setOcm_chip (v : OcmSt) (s : State) : (setOcm v s).chip = s.chip := rfl
@[simp] theorem setOcm_chart (v : OcmSt) (s : State) : (setOcm v s).chart = s.chart := rfl
@[simp] theorem setOcm_ctxs (v : OcmSt) (s : State) : (setOcm v s).ctxs = s.ctxs := rfl
@[simp] theorem setOcm_islands (v : OcmSt) (s : State) : (setOcm v s).islands = s.islands := rfl
@[simp] theorem setOcm_cores (v : OcmSt) (s : State) : (setOcm v s).cores = s.cores := rfl
@[simp] theorem setOcm_sfu (v : OcmSt) (s : State) : (setOcm v s).sfu = s.sfu := rfl
@[simp] theorem setOcm_ocm (v : OcmSt) (s : State) : (setOcm v s).ocm = v := rfl
@[simp] theorem setOcm_xmc (v : OcmSt) (s : State) : (setOcm v s).xmc = s.xmc := rfl
@[simp] theorem setOcm_compass (v : OcmSt) (s : State) : (setOcm v s).compass = s.compass := rfl
@[simp] theorem setOcm_ftl (v : OcmSt) (s : State) : (setOcm v s).ftl = s.ftl := rfl
@[simp] theorem setOcm_qcu (v : OcmSt) (s : State) : (setOcm v s).qcu = s.qcu := rfl
@[simp] theorem setOcm_sre (v : OcmSt) (s : State) : (setOcm v s).sre = s.sre := rfl
@[simp] theorem setOcm_niu (v : OcmSt) (s : State) : (setOcm v s).niu = s.niu := rfl
@[simp] theorem setOcm_sext (v : OcmSt) (s : State) : (setOcm v s).sext = s.sext := rfl
@[simp] theorem setOcm_strait (v : OcmSt) (s : State) : (setOcm v s).strait = s.strait := rfl
@[simp] theorem setOcm_msp (v : OcmSt) (s : State) : (setOcm v s).msp = s.msp := rfl
@[simp] theorem setOcm_pwr (v : OcmSt) (s : State) : (setOcm v s).pwr = s.pwr := rfl
@[simp] theorem setOcm_out (v : OcmSt) (s : State) : (setOcm v s).out = s.out := rfl
@[simp] theorem setOcm_fresh (v : OcmSt) (s : State) : (setOcm v s).fresh = s.fresh := rfl
@[simp] theorem setOcm_pending (v : OcmSt) (s : State) : (setOcm v s).pending = s.pending := rfl
@[simp] theorem setXmc_time (v : XmcSt) (s : State) : (setXmc v s).time = s.time := rfl
@[simp] theorem setXmc_err (v : XmcSt) (s : State) : (setXmc v s).err = s.err := rfl
@[simp] theorem setXmc_hdr (v : XmcSt) (s : State) : (setXmc v s).hdr = s.hdr := rfl
@[simp] theorem setXmc_regs (v : XmcSt) (s : State) : (setXmc v s).regs = s.regs := rfl
@[simp] theorem setXmc_cnt (v : XmcSt) (s : State) : (setXmc v s).cnt = s.cnt := rfl
@[simp] theorem setXmc_latch (v : XmcSt) (s : State) : (setXmc v s).latch = s.latch := rfl
@[simp] theorem setXmc_chip (v : XmcSt) (s : State) : (setXmc v s).chip = s.chip := rfl
@[simp] theorem setXmc_chart (v : XmcSt) (s : State) : (setXmc v s).chart = s.chart := rfl
@[simp] theorem setXmc_ctxs (v : XmcSt) (s : State) : (setXmc v s).ctxs = s.ctxs := rfl
@[simp] theorem setXmc_islands (v : XmcSt) (s : State) : (setXmc v s).islands = s.islands := rfl
@[simp] theorem setXmc_cores (v : XmcSt) (s : State) : (setXmc v s).cores = s.cores := rfl
@[simp] theorem setXmc_sfu (v : XmcSt) (s : State) : (setXmc v s).sfu = s.sfu := rfl
@[simp] theorem setXmc_ocm (v : XmcSt) (s : State) : (setXmc v s).ocm = s.ocm := rfl
@[simp] theorem setXmc_xmc (v : XmcSt) (s : State) : (setXmc v s).xmc = v := rfl
@[simp] theorem setXmc_compass (v : XmcSt) (s : State) : (setXmc v s).compass = s.compass := rfl
@[simp] theorem setXmc_ftl (v : XmcSt) (s : State) : (setXmc v s).ftl = s.ftl := rfl
@[simp] theorem setXmc_qcu (v : XmcSt) (s : State) : (setXmc v s).qcu = s.qcu := rfl
@[simp] theorem setXmc_sre (v : XmcSt) (s : State) : (setXmc v s).sre = s.sre := rfl
@[simp] theorem setXmc_niu (v : XmcSt) (s : State) : (setXmc v s).niu = s.niu := rfl
@[simp] theorem setXmc_sext (v : XmcSt) (s : State) : (setXmc v s).sext = s.sext := rfl
@[simp] theorem setXmc_strait (v : XmcSt) (s : State) : (setXmc v s).strait = s.strait := rfl
@[simp] theorem setXmc_msp (v : XmcSt) (s : State) : (setXmc v s).msp = s.msp := rfl
@[simp] theorem setXmc_pwr (v : XmcSt) (s : State) : (setXmc v s).pwr = s.pwr := rfl
@[simp] theorem setXmc_out (v : XmcSt) (s : State) : (setXmc v s).out = s.out := rfl
@[simp] theorem setXmc_fresh (v : XmcSt) (s : State) : (setXmc v s).fresh = s.fresh := rfl
@[simp] theorem setXmc_pending (v : XmcSt) (s : State) : (setXmc v s).pending = s.pending := rfl
@[simp] theorem setCompass_time (v : CompassSt) (s : State) : (setCompass v s).time = s.time := rfl
@[simp] theorem setCompass_err (v : CompassSt) (s : State) : (setCompass v s).err = s.err := rfl
@[simp] theorem setCompass_hdr (v : CompassSt) (s : State) : (setCompass v s).hdr = s.hdr := rfl
@[simp] theorem setCompass_regs (v : CompassSt) (s : State) : (setCompass v s).regs = s.regs := rfl
@[simp] theorem setCompass_cnt (v : CompassSt) (s : State) : (setCompass v s).cnt = s.cnt := rfl
@[simp] theorem setCompass_latch (v : CompassSt) (s : State) : (setCompass v s).latch = s.latch := rfl
@[simp] theorem setCompass_chip (v : CompassSt) (s : State) : (setCompass v s).chip = s.chip := rfl
@[simp] theorem setCompass_chart (v : CompassSt) (s : State) : (setCompass v s).chart = s.chart := rfl
@[simp] theorem setCompass_ctxs (v : CompassSt) (s : State) : (setCompass v s).ctxs = s.ctxs := rfl
@[simp] theorem setCompass_islands (v : CompassSt) (s : State) : (setCompass v s).islands = s.islands := rfl
@[simp] theorem setCompass_cores (v : CompassSt) (s : State) : (setCompass v s).cores = s.cores := rfl
@[simp] theorem setCompass_sfu (v : CompassSt) (s : State) : (setCompass v s).sfu = s.sfu := rfl
@[simp] theorem setCompass_ocm (v : CompassSt) (s : State) : (setCompass v s).ocm = s.ocm := rfl
@[simp] theorem setCompass_xmc (v : CompassSt) (s : State) : (setCompass v s).xmc = s.xmc := rfl
@[simp] theorem setCompass_compass (v : CompassSt) (s : State) : (setCompass v s).compass = v := rfl
@[simp] theorem setCompass_ftl (v : CompassSt) (s : State) : (setCompass v s).ftl = s.ftl := rfl
@[simp] theorem setCompass_qcu (v : CompassSt) (s : State) : (setCompass v s).qcu = s.qcu := rfl
@[simp] theorem setCompass_sre (v : CompassSt) (s : State) : (setCompass v s).sre = s.sre := rfl
@[simp] theorem setCompass_niu (v : CompassSt) (s : State) : (setCompass v s).niu = s.niu := rfl
@[simp] theorem setCompass_sext (v : CompassSt) (s : State) : (setCompass v s).sext = s.sext := rfl
@[simp] theorem setCompass_strait (v : CompassSt) (s : State) : (setCompass v s).strait = s.strait := rfl
@[simp] theorem setCompass_msp (v : CompassSt) (s : State) : (setCompass v s).msp = s.msp := rfl
@[simp] theorem setCompass_pwr (v : CompassSt) (s : State) : (setCompass v s).pwr = s.pwr := rfl
@[simp] theorem setCompass_out (v : CompassSt) (s : State) : (setCompass v s).out = s.out := rfl
@[simp] theorem setCompass_fresh (v : CompassSt) (s : State) : (setCompass v s).fresh = s.fresh := rfl
@[simp] theorem setCompass_pending (v : CompassSt) (s : State) : (setCompass v s).pending = s.pending := rfl
@[simp] theorem setFtl_time (v : FtlSt) (s : State) : (setFtl v s).time = s.time := rfl
@[simp] theorem setFtl_err (v : FtlSt) (s : State) : (setFtl v s).err = s.err := rfl
@[simp] theorem setFtl_hdr (v : FtlSt) (s : State) : (setFtl v s).hdr = s.hdr := rfl
@[simp] theorem setFtl_regs (v : FtlSt) (s : State) : (setFtl v s).regs = s.regs := rfl
@[simp] theorem setFtl_cnt (v : FtlSt) (s : State) : (setFtl v s).cnt = s.cnt := rfl
@[simp] theorem setFtl_latch (v : FtlSt) (s : State) : (setFtl v s).latch = s.latch := rfl
@[simp] theorem setFtl_chip (v : FtlSt) (s : State) : (setFtl v s).chip = s.chip := rfl
@[simp] theorem setFtl_chart (v : FtlSt) (s : State) : (setFtl v s).chart = s.chart := rfl
@[simp] theorem setFtl_ctxs (v : FtlSt) (s : State) : (setFtl v s).ctxs = s.ctxs := rfl
@[simp] theorem setFtl_islands (v : FtlSt) (s : State) : (setFtl v s).islands = s.islands := rfl
@[simp] theorem setFtl_cores (v : FtlSt) (s : State) : (setFtl v s).cores = s.cores := rfl
@[simp] theorem setFtl_sfu (v : FtlSt) (s : State) : (setFtl v s).sfu = s.sfu := rfl
@[simp] theorem setFtl_ocm (v : FtlSt) (s : State) : (setFtl v s).ocm = s.ocm := rfl
@[simp] theorem setFtl_xmc (v : FtlSt) (s : State) : (setFtl v s).xmc = s.xmc := rfl
@[simp] theorem setFtl_compass (v : FtlSt) (s : State) : (setFtl v s).compass = s.compass := rfl
@[simp] theorem setFtl_ftl (v : FtlSt) (s : State) : (setFtl v s).ftl = v := rfl
@[simp] theorem setFtl_qcu (v : FtlSt) (s : State) : (setFtl v s).qcu = s.qcu := rfl
@[simp] theorem setFtl_sre (v : FtlSt) (s : State) : (setFtl v s).sre = s.sre := rfl
@[simp] theorem setFtl_niu (v : FtlSt) (s : State) : (setFtl v s).niu = s.niu := rfl
@[simp] theorem setFtl_sext (v : FtlSt) (s : State) : (setFtl v s).sext = s.sext := rfl
@[simp] theorem setFtl_strait (v : FtlSt) (s : State) : (setFtl v s).strait = s.strait := rfl
@[simp] theorem setFtl_msp (v : FtlSt) (s : State) : (setFtl v s).msp = s.msp := rfl
@[simp] theorem setFtl_pwr (v : FtlSt) (s : State) : (setFtl v s).pwr = s.pwr := rfl
@[simp] theorem setFtl_out (v : FtlSt) (s : State) : (setFtl v s).out = s.out := rfl
@[simp] theorem setFtl_fresh (v : FtlSt) (s : State) : (setFtl v s).fresh = s.fresh := rfl
@[simp] theorem setFtl_pending (v : FtlSt) (s : State) : (setFtl v s).pending = s.pending := rfl
@[simp] theorem setQcu_time (v : QcuSt) (s : State) : (setQcu v s).time = s.time := rfl
@[simp] theorem setQcu_err (v : QcuSt) (s : State) : (setQcu v s).err = s.err := rfl
@[simp] theorem setQcu_hdr (v : QcuSt) (s : State) : (setQcu v s).hdr = s.hdr := rfl
@[simp] theorem setQcu_regs (v : QcuSt) (s : State) : (setQcu v s).regs = s.regs := rfl
@[simp] theorem setQcu_cnt (v : QcuSt) (s : State) : (setQcu v s).cnt = s.cnt := rfl
@[simp] theorem setQcu_latch (v : QcuSt) (s : State) : (setQcu v s).latch = s.latch := rfl
@[simp] theorem setQcu_chip (v : QcuSt) (s : State) : (setQcu v s).chip = s.chip := rfl
@[simp] theorem setQcu_chart (v : QcuSt) (s : State) : (setQcu v s).chart = s.chart := rfl
@[simp] theorem setQcu_ctxs (v : QcuSt) (s : State) : (setQcu v s).ctxs = s.ctxs := rfl
@[simp] theorem setQcu_islands (v : QcuSt) (s : State) : (setQcu v s).islands = s.islands := rfl
@[simp] theorem setQcu_cores (v : QcuSt) (s : State) : (setQcu v s).cores = s.cores := rfl
@[simp] theorem setQcu_sfu (v : QcuSt) (s : State) : (setQcu v s).sfu = s.sfu := rfl
@[simp] theorem setQcu_ocm (v : QcuSt) (s : State) : (setQcu v s).ocm = s.ocm := rfl
@[simp] theorem setQcu_xmc (v : QcuSt) (s : State) : (setQcu v s).xmc = s.xmc := rfl
@[simp] theorem setQcu_compass (v : QcuSt) (s : State) : (setQcu v s).compass = s.compass := rfl
@[simp] theorem setQcu_ftl (v : QcuSt) (s : State) : (setQcu v s).ftl = s.ftl := rfl
@[simp] theorem setQcu_qcu (v : QcuSt) (s : State) : (setQcu v s).qcu = v := rfl
@[simp] theorem setQcu_sre (v : QcuSt) (s : State) : (setQcu v s).sre = s.sre := rfl
@[simp] theorem setQcu_niu (v : QcuSt) (s : State) : (setQcu v s).niu = s.niu := rfl
@[simp] theorem setQcu_sext (v : QcuSt) (s : State) : (setQcu v s).sext = s.sext := rfl
@[simp] theorem setQcu_strait (v : QcuSt) (s : State) : (setQcu v s).strait = s.strait := rfl
@[simp] theorem setQcu_msp (v : QcuSt) (s : State) : (setQcu v s).msp = s.msp := rfl
@[simp] theorem setQcu_pwr (v : QcuSt) (s : State) : (setQcu v s).pwr = s.pwr := rfl
@[simp] theorem setQcu_out (v : QcuSt) (s : State) : (setQcu v s).out = s.out := rfl
@[simp] theorem setQcu_fresh (v : QcuSt) (s : State) : (setQcu v s).fresh = s.fresh := rfl
@[simp] theorem setQcu_pending (v : QcuSt) (s : State) : (setQcu v s).pending = s.pending := rfl
@[simp] theorem setSre_time (v : SreSt) (s : State) : (setSre v s).time = s.time := rfl
@[simp] theorem setSre_err (v : SreSt) (s : State) : (setSre v s).err = s.err := rfl
@[simp] theorem setSre_hdr (v : SreSt) (s : State) : (setSre v s).hdr = s.hdr := rfl
@[simp] theorem setSre_regs (v : SreSt) (s : State) : (setSre v s).regs = s.regs := rfl
@[simp] theorem setSre_cnt (v : SreSt) (s : State) : (setSre v s).cnt = s.cnt := rfl
@[simp] theorem setSre_latch (v : SreSt) (s : State) : (setSre v s).latch = s.latch := rfl
@[simp] theorem setSre_chip (v : SreSt) (s : State) : (setSre v s).chip = s.chip := rfl
@[simp] theorem setSre_chart (v : SreSt) (s : State) : (setSre v s).chart = s.chart := rfl
@[simp] theorem setSre_ctxs (v : SreSt) (s : State) : (setSre v s).ctxs = s.ctxs := rfl
@[simp] theorem setSre_islands (v : SreSt) (s : State) : (setSre v s).islands = s.islands := rfl
@[simp] theorem setSre_cores (v : SreSt) (s : State) : (setSre v s).cores = s.cores := rfl
@[simp] theorem setSre_sfu (v : SreSt) (s : State) : (setSre v s).sfu = s.sfu := rfl
@[simp] theorem setSre_ocm (v : SreSt) (s : State) : (setSre v s).ocm = s.ocm := rfl
@[simp] theorem setSre_xmc (v : SreSt) (s : State) : (setSre v s).xmc = s.xmc := rfl
@[simp] theorem setSre_compass (v : SreSt) (s : State) : (setSre v s).compass = s.compass := rfl
@[simp] theorem setSre_ftl (v : SreSt) (s : State) : (setSre v s).ftl = s.ftl := rfl
@[simp] theorem setSre_qcu (v : SreSt) (s : State) : (setSre v s).qcu = s.qcu := rfl
@[simp] theorem setSre_sre (v : SreSt) (s : State) : (setSre v s).sre = v := rfl
@[simp] theorem setSre_niu (v : SreSt) (s : State) : (setSre v s).niu = s.niu := rfl
@[simp] theorem setSre_sext (v : SreSt) (s : State) : (setSre v s).sext = s.sext := rfl
@[simp] theorem setSre_strait (v : SreSt) (s : State) : (setSre v s).strait = s.strait := rfl
@[simp] theorem setSre_msp (v : SreSt) (s : State) : (setSre v s).msp = s.msp := rfl
@[simp] theorem setSre_pwr (v : SreSt) (s : State) : (setSre v s).pwr = s.pwr := rfl
@[simp] theorem setSre_out (v : SreSt) (s : State) : (setSre v s).out = s.out := rfl
@[simp] theorem setSre_fresh (v : SreSt) (s : State) : (setSre v s).fresh = s.fresh := rfl
@[simp] theorem setSre_pending (v : SreSt) (s : State) : (setSre v s).pending = s.pending := rfl
@[simp] theorem setNiu_time (v : NiuSt) (s : State) : (setNiu v s).time = s.time := rfl
@[simp] theorem setNiu_err (v : NiuSt) (s : State) : (setNiu v s).err = s.err := rfl
@[simp] theorem setNiu_hdr (v : NiuSt) (s : State) : (setNiu v s).hdr = s.hdr := rfl
@[simp] theorem setNiu_regs (v : NiuSt) (s : State) : (setNiu v s).regs = s.regs := rfl
@[simp] theorem setNiu_cnt (v : NiuSt) (s : State) : (setNiu v s).cnt = s.cnt := rfl
@[simp] theorem setNiu_latch (v : NiuSt) (s : State) : (setNiu v s).latch = s.latch := rfl
@[simp] theorem setNiu_chip (v : NiuSt) (s : State) : (setNiu v s).chip = s.chip := rfl
@[simp] theorem setNiu_chart (v : NiuSt) (s : State) : (setNiu v s).chart = s.chart := rfl
@[simp] theorem setNiu_ctxs (v : NiuSt) (s : State) : (setNiu v s).ctxs = s.ctxs := rfl
@[simp] theorem setNiu_islands (v : NiuSt) (s : State) : (setNiu v s).islands = s.islands := rfl
@[simp] theorem setNiu_cores (v : NiuSt) (s : State) : (setNiu v s).cores = s.cores := rfl
@[simp] theorem setNiu_sfu (v : NiuSt) (s : State) : (setNiu v s).sfu = s.sfu := rfl
@[simp] theorem setNiu_ocm (v : NiuSt) (s : State) : (setNiu v s).ocm = s.ocm := rfl
@[simp] theorem setNiu_xmc (v : NiuSt) (s : State) : (setNiu v s).xmc = s.xmc := rfl
@[simp] theorem setNiu_compass (v : NiuSt) (s : State) : (setNiu v s).compass = s.compass := rfl
@[simp] theorem setNiu_ftl (v : NiuSt) (s : State) : (setNiu v s).ftl = s.ftl := rfl
@[simp] theorem setNiu_qcu (v : NiuSt) (s : State) : (setNiu v s).qcu = s.qcu := rfl
@[simp] theorem setNiu_sre (v : NiuSt) (s : State) : (setNiu v s).sre = s.sre := rfl
@[simp] theorem setNiu_niu (v : NiuSt) (s : State) : (setNiu v s).niu = v := rfl
@[simp] theorem setNiu_sext (v : NiuSt) (s : State) : (setNiu v s).sext = s.sext := rfl
@[simp] theorem setNiu_strait (v : NiuSt) (s : State) : (setNiu v s).strait = s.strait := rfl
@[simp] theorem setNiu_msp (v : NiuSt) (s : State) : (setNiu v s).msp = s.msp := rfl
@[simp] theorem setNiu_pwr (v : NiuSt) (s : State) : (setNiu v s).pwr = s.pwr := rfl
@[simp] theorem setNiu_out (v : NiuSt) (s : State) : (setNiu v s).out = s.out := rfl
@[simp] theorem setNiu_fresh (v : NiuSt) (s : State) : (setNiu v s).fresh = s.fresh := rfl
@[simp] theorem setNiu_pending (v : NiuSt) (s : State) : (setNiu v s).pending = s.pending := rfl
@[simp] theorem setSext_time (v : SextSt) (s : State) : (setSext v s).time = s.time := rfl
@[simp] theorem setSext_err (v : SextSt) (s : State) : (setSext v s).err = s.err := rfl
@[simp] theorem setSext_hdr (v : SextSt) (s : State) : (setSext v s).hdr = s.hdr := rfl
@[simp] theorem setSext_regs (v : SextSt) (s : State) : (setSext v s).regs = s.regs := rfl
@[simp] theorem setSext_cnt (v : SextSt) (s : State) : (setSext v s).cnt = s.cnt := rfl
@[simp] theorem setSext_latch (v : SextSt) (s : State) : (setSext v s).latch = s.latch := rfl
@[simp] theorem setSext_chip (v : SextSt) (s : State) : (setSext v s).chip = s.chip := rfl
@[simp] theorem setSext_chart (v : SextSt) (s : State) : (setSext v s).chart = s.chart := rfl
@[simp] theorem setSext_ctxs (v : SextSt) (s : State) : (setSext v s).ctxs = s.ctxs := rfl
@[simp] theorem setSext_islands (v : SextSt) (s : State) : (setSext v s).islands = s.islands := rfl
@[simp] theorem setSext_cores (v : SextSt) (s : State) : (setSext v s).cores = s.cores := rfl
@[simp] theorem setSext_sfu (v : SextSt) (s : State) : (setSext v s).sfu = s.sfu := rfl
@[simp] theorem setSext_ocm (v : SextSt) (s : State) : (setSext v s).ocm = s.ocm := rfl
@[simp] theorem setSext_xmc (v : SextSt) (s : State) : (setSext v s).xmc = s.xmc := rfl
@[simp] theorem setSext_compass (v : SextSt) (s : State) : (setSext v s).compass = s.compass := rfl
@[simp] theorem setSext_ftl (v : SextSt) (s : State) : (setSext v s).ftl = s.ftl := rfl
@[simp] theorem setSext_qcu (v : SextSt) (s : State) : (setSext v s).qcu = s.qcu := rfl
@[simp] theorem setSext_sre (v : SextSt) (s : State) : (setSext v s).sre = s.sre := rfl
@[simp] theorem setSext_niu (v : SextSt) (s : State) : (setSext v s).niu = s.niu := rfl
@[simp] theorem setSext_sext (v : SextSt) (s : State) : (setSext v s).sext = v := rfl
@[simp] theorem setSext_strait (v : SextSt) (s : State) : (setSext v s).strait = s.strait := rfl
@[simp] theorem setSext_msp (v : SextSt) (s : State) : (setSext v s).msp = s.msp := rfl
@[simp] theorem setSext_pwr (v : SextSt) (s : State) : (setSext v s).pwr = s.pwr := rfl
@[simp] theorem setSext_out (v : SextSt) (s : State) : (setSext v s).out = s.out := rfl
@[simp] theorem setSext_fresh (v : SextSt) (s : State) : (setSext v s).fresh = s.fresh := rfl
@[simp] theorem setSext_pending (v : SextSt) (s : State) : (setSext v s).pending = s.pending := rfl
@[simp] theorem setStrait_time (v : StraitSt) (s : State) : (setStrait v s).time = s.time := rfl
@[simp] theorem setStrait_err (v : StraitSt) (s : State) : (setStrait v s).err = s.err := rfl
@[simp] theorem setStrait_hdr (v : StraitSt) (s : State) : (setStrait v s).hdr = s.hdr := rfl
@[simp] theorem setStrait_regs (v : StraitSt) (s : State) : (setStrait v s).regs = s.regs := rfl
@[simp] theorem setStrait_cnt (v : StraitSt) (s : State) : (setStrait v s).cnt = s.cnt := rfl
@[simp] theorem setStrait_latch (v : StraitSt) (s : State) : (setStrait v s).latch = s.latch := rfl
@[simp] theorem setStrait_chip (v : StraitSt) (s : State) : (setStrait v s).chip = s.chip := rfl
@[simp] theorem setStrait_chart (v : StraitSt) (s : State) : (setStrait v s).chart = s.chart := rfl
@[simp] theorem setStrait_ctxs (v : StraitSt) (s : State) : (setStrait v s).ctxs = s.ctxs := rfl
@[simp] theorem setStrait_islands (v : StraitSt) (s : State) : (setStrait v s).islands = s.islands := rfl
@[simp] theorem setStrait_cores (v : StraitSt) (s : State) : (setStrait v s).cores = s.cores := rfl
@[simp] theorem setStrait_sfu (v : StraitSt) (s : State) : (setStrait v s).sfu = s.sfu := rfl
@[simp] theorem setStrait_ocm (v : StraitSt) (s : State) : (setStrait v s).ocm = s.ocm := rfl
@[simp] theorem setStrait_xmc (v : StraitSt) (s : State) : (setStrait v s).xmc = s.xmc := rfl
@[simp] theorem setStrait_compass (v : StraitSt) (s : State) : (setStrait v s).compass = s.compass := rfl
@[simp] theorem setStrait_ftl (v : StraitSt) (s : State) : (setStrait v s).ftl = s.ftl := rfl
@[simp] theorem setStrait_qcu (v : StraitSt) (s : State) : (setStrait v s).qcu = s.qcu := rfl
@[simp] theorem setStrait_sre (v : StraitSt) (s : State) : (setStrait v s).sre = s.sre := rfl
@[simp] theorem setStrait_niu (v : StraitSt) (s : State) : (setStrait v s).niu = s.niu := rfl
@[simp] theorem setStrait_sext (v : StraitSt) (s : State) : (setStrait v s).sext = s.sext := rfl
@[simp] theorem setStrait_strait (v : StraitSt) (s : State) : (setStrait v s).strait = v := rfl
@[simp] theorem setStrait_msp (v : StraitSt) (s : State) : (setStrait v s).msp = s.msp := rfl
@[simp] theorem setStrait_pwr (v : StraitSt) (s : State) : (setStrait v s).pwr = s.pwr := rfl
@[simp] theorem setStrait_out (v : StraitSt) (s : State) : (setStrait v s).out = s.out := rfl
@[simp] theorem setStrait_fresh (v : StraitSt) (s : State) : (setStrait v s).fresh = s.fresh := rfl
@[simp] theorem setStrait_pending (v : StraitSt) (s : State) : (setStrait v s).pending = s.pending := rfl
@[simp] theorem setMsp_time (v : MspSt) (s : State) : (setMsp v s).time = s.time := rfl
@[simp] theorem setMsp_err (v : MspSt) (s : State) : (setMsp v s).err = s.err := rfl
@[simp] theorem setMsp_hdr (v : MspSt) (s : State) : (setMsp v s).hdr = s.hdr := rfl
@[simp] theorem setMsp_regs (v : MspSt) (s : State) : (setMsp v s).regs = s.regs := rfl
@[simp] theorem setMsp_cnt (v : MspSt) (s : State) : (setMsp v s).cnt = s.cnt := rfl
@[simp] theorem setMsp_latch (v : MspSt) (s : State) : (setMsp v s).latch = s.latch := rfl
@[simp] theorem setMsp_chip (v : MspSt) (s : State) : (setMsp v s).chip = s.chip := rfl
@[simp] theorem setMsp_chart (v : MspSt) (s : State) : (setMsp v s).chart = s.chart := rfl
@[simp] theorem setMsp_ctxs (v : MspSt) (s : State) : (setMsp v s).ctxs = s.ctxs := rfl
@[simp] theorem setMsp_islands (v : MspSt) (s : State) : (setMsp v s).islands = s.islands := rfl
@[simp] theorem setMsp_cores (v : MspSt) (s : State) : (setMsp v s).cores = s.cores := rfl
@[simp] theorem setMsp_sfu (v : MspSt) (s : State) : (setMsp v s).sfu = s.sfu := rfl
@[simp] theorem setMsp_ocm (v : MspSt) (s : State) : (setMsp v s).ocm = s.ocm := rfl
@[simp] theorem setMsp_xmc (v : MspSt) (s : State) : (setMsp v s).xmc = s.xmc := rfl
@[simp] theorem setMsp_compass (v : MspSt) (s : State) : (setMsp v s).compass = s.compass := rfl
@[simp] theorem setMsp_ftl (v : MspSt) (s : State) : (setMsp v s).ftl = s.ftl := rfl
@[simp] theorem setMsp_qcu (v : MspSt) (s : State) : (setMsp v s).qcu = s.qcu := rfl
@[simp] theorem setMsp_sre (v : MspSt) (s : State) : (setMsp v s).sre = s.sre := rfl
@[simp] theorem setMsp_niu (v : MspSt) (s : State) : (setMsp v s).niu = s.niu := rfl
@[simp] theorem setMsp_sext (v : MspSt) (s : State) : (setMsp v s).sext = s.sext := rfl
@[simp] theorem setMsp_strait (v : MspSt) (s : State) : (setMsp v s).strait = s.strait := rfl
@[simp] theorem setMsp_msp (v : MspSt) (s : State) : (setMsp v s).msp = v := rfl
@[simp] theorem setMsp_pwr (v : MspSt) (s : State) : (setMsp v s).pwr = s.pwr := rfl
@[simp] theorem setMsp_out (v : MspSt) (s : State) : (setMsp v s).out = s.out := rfl
@[simp] theorem setMsp_fresh (v : MspSt) (s : State) : (setMsp v s).fresh = s.fresh := rfl
@[simp] theorem setMsp_pending (v : MspSt) (s : State) : (setMsp v s).pending = s.pending := rfl
@[simp] theorem setPwr_time (v : PwrSt) (s : State) : (setPwr v s).time = s.time := rfl
@[simp] theorem setPwr_err (v : PwrSt) (s : State) : (setPwr v s).err = s.err := rfl
@[simp] theorem setPwr_hdr (v : PwrSt) (s : State) : (setPwr v s).hdr = s.hdr := rfl
@[simp] theorem setPwr_regs (v : PwrSt) (s : State) : (setPwr v s).regs = s.regs := rfl
@[simp] theorem setPwr_cnt (v : PwrSt) (s : State) : (setPwr v s).cnt = s.cnt := rfl
@[simp] theorem setPwr_latch (v : PwrSt) (s : State) : (setPwr v s).latch = s.latch := rfl
@[simp] theorem setPwr_chip (v : PwrSt) (s : State) : (setPwr v s).chip = s.chip := rfl
@[simp] theorem setPwr_chart (v : PwrSt) (s : State) : (setPwr v s).chart = s.chart := rfl
@[simp] theorem setPwr_ctxs (v : PwrSt) (s : State) : (setPwr v s).ctxs = s.ctxs := rfl
@[simp] theorem setPwr_islands (v : PwrSt) (s : State) : (setPwr v s).islands = s.islands := rfl
@[simp] theorem setPwr_cores (v : PwrSt) (s : State) : (setPwr v s).cores = s.cores := rfl
@[simp] theorem setPwr_sfu (v : PwrSt) (s : State) : (setPwr v s).sfu = s.sfu := rfl
@[simp] theorem setPwr_ocm (v : PwrSt) (s : State) : (setPwr v s).ocm = s.ocm := rfl
@[simp] theorem setPwr_xmc (v : PwrSt) (s : State) : (setPwr v s).xmc = s.xmc := rfl
@[simp] theorem setPwr_compass (v : PwrSt) (s : State) : (setPwr v s).compass = s.compass := rfl
@[simp] theorem setPwr_ftl (v : PwrSt) (s : State) : (setPwr v s).ftl = s.ftl := rfl
@[simp] theorem setPwr_qcu (v : PwrSt) (s : State) : (setPwr v s).qcu = s.qcu := rfl
@[simp] theorem setPwr_sre (v : PwrSt) (s : State) : (setPwr v s).sre = s.sre := rfl
@[simp] theorem setPwr_niu (v : PwrSt) (s : State) : (setPwr v s).niu = s.niu := rfl
@[simp] theorem setPwr_sext (v : PwrSt) (s : State) : (setPwr v s).sext = s.sext := rfl
@[simp] theorem setPwr_strait (v : PwrSt) (s : State) : (setPwr v s).strait = s.strait := rfl
@[simp] theorem setPwr_msp (v : PwrSt) (s : State) : (setPwr v s).msp = s.msp := rfl
@[simp] theorem setPwr_pwr (v : PwrSt) (s : State) : (setPwr v s).pwr = v := rfl
@[simp] theorem setPwr_out (v : PwrSt) (s : State) : (setPwr v s).out = s.out := rfl
@[simp] theorem setPwr_fresh (v : PwrSt) (s : State) : (setPwr v s).fresh = s.fresh := rfl
@[simp] theorem setPwr_pending (v : PwrSt) (s : State) : (setPwr v s).pending = s.pending := rfl
@[simp] theorem setOut_time (v : List OutMsg) (s : State) : (setOut v s).time = s.time := rfl
@[simp] theorem setOut_err (v : List OutMsg) (s : State) : (setOut v s).err = s.err := rfl
@[simp] theorem setOut_hdr (v : List OutMsg) (s : State) : (setOut v s).hdr = s.hdr := rfl
@[simp] theorem setOut_regs (v : List OutMsg) (s : State) : (setOut v s).regs = s.regs := rfl
@[simp] theorem setOut_cnt (v : List OutMsg) (s : State) : (setOut v s).cnt = s.cnt := rfl
@[simp] theorem setOut_latch (v : List OutMsg) (s : State) : (setOut v s).latch = s.latch := rfl
@[simp] theorem setOut_chip (v : List OutMsg) (s : State) : (setOut v s).chip = s.chip := rfl
@[simp] theorem setOut_chart (v : List OutMsg) (s : State) : (setOut v s).chart = s.chart := rfl
@[simp] theorem setOut_ctxs (v : List OutMsg) (s : State) : (setOut v s).ctxs = s.ctxs := rfl
@[simp] theorem setOut_islands (v : List OutMsg) (s : State) : (setOut v s).islands = s.islands := rfl
@[simp] theorem setOut_cores (v : List OutMsg) (s : State) : (setOut v s).cores = s.cores := rfl
@[simp] theorem setOut_sfu (v : List OutMsg) (s : State) : (setOut v s).sfu = s.sfu := rfl
@[simp] theorem setOut_ocm (v : List OutMsg) (s : State) : (setOut v s).ocm = s.ocm := rfl
@[simp] theorem setOut_xmc (v : List OutMsg) (s : State) : (setOut v s).xmc = s.xmc := rfl
@[simp] theorem setOut_compass (v : List OutMsg) (s : State) : (setOut v s).compass = s.compass := rfl
@[simp] theorem setOut_ftl (v : List OutMsg) (s : State) : (setOut v s).ftl = s.ftl := rfl
@[simp] theorem setOut_qcu (v : List OutMsg) (s : State) : (setOut v s).qcu = s.qcu := rfl
@[simp] theorem setOut_sre (v : List OutMsg) (s : State) : (setOut v s).sre = s.sre := rfl
@[simp] theorem setOut_niu (v : List OutMsg) (s : State) : (setOut v s).niu = s.niu := rfl
@[simp] theorem setOut_sext (v : List OutMsg) (s : State) : (setOut v s).sext = s.sext := rfl
@[simp] theorem setOut_strait (v : List OutMsg) (s : State) : (setOut v s).strait = s.strait := rfl
@[simp] theorem setOut_msp (v : List OutMsg) (s : State) : (setOut v s).msp = s.msp := rfl
@[simp] theorem setOut_pwr (v : List OutMsg) (s : State) : (setOut v s).pwr = s.pwr := rfl
@[simp] theorem setOut_out (v : List OutMsg) (s : State) : (setOut v s).out = v := rfl
@[simp] theorem setOut_fresh (v : List OutMsg) (s : State) : (setOut v s).fresh = s.fresh := rfl
@[simp] theorem setOut_pending (v : List OutMsg) (s : State) : (setOut v s).pending = s.pending := rfl
@[simp] theorem setFresh_time (v : Nat) (s : State) : (setFresh v s).time = s.time := rfl
@[simp] theorem setFresh_err (v : Nat) (s : State) : (setFresh v s).err = s.err := rfl
@[simp] theorem setFresh_hdr (v : Nat) (s : State) : (setFresh v s).hdr = s.hdr := rfl
@[simp] theorem setFresh_regs (v : Nat) (s : State) : (setFresh v s).regs = s.regs := rfl
@[simp] theorem setFresh_cnt (v : Nat) (s : State) : (setFresh v s).cnt = s.cnt := rfl
@[simp] theorem setFresh_latch (v : Nat) (s : State) : (setFresh v s).latch = s.latch := rfl
@[simp] theorem setFresh_chip (v : Nat) (s : State) : (setFresh v s).chip = s.chip := rfl
@[simp] theorem setFresh_chart (v : Nat) (s : State) : (setFresh v s).chart = s.chart := rfl
@[simp] theorem setFresh_ctxs (v : Nat) (s : State) : (setFresh v s).ctxs = s.ctxs := rfl
@[simp] theorem setFresh_islands (v : Nat) (s : State) : (setFresh v s).islands = s.islands := rfl
@[simp] theorem setFresh_cores (v : Nat) (s : State) : (setFresh v s).cores = s.cores := rfl
@[simp] theorem setFresh_sfu (v : Nat) (s : State) : (setFresh v s).sfu = s.sfu := rfl
@[simp] theorem setFresh_ocm (v : Nat) (s : State) : (setFresh v s).ocm = s.ocm := rfl
@[simp] theorem setFresh_xmc (v : Nat) (s : State) : (setFresh v s).xmc = s.xmc := rfl
@[simp] theorem setFresh_compass (v : Nat) (s : State) : (setFresh v s).compass = s.compass := rfl
@[simp] theorem setFresh_ftl (v : Nat) (s : State) : (setFresh v s).ftl = s.ftl := rfl
@[simp] theorem setFresh_qcu (v : Nat) (s : State) : (setFresh v s).qcu = s.qcu := rfl
@[simp] theorem setFresh_sre (v : Nat) (s : State) : (setFresh v s).sre = s.sre := rfl
@[simp] theorem setFresh_niu (v : Nat) (s : State) : (setFresh v s).niu = s.niu := rfl
@[simp] theorem setFresh_sext (v : Nat) (s : State) : (setFresh v s).sext = s.sext := rfl
@[simp] theorem setFresh_strait (v : Nat) (s : State) : (setFresh v s).strait = s.strait := rfl
@[simp] theorem setFresh_msp (v : Nat) (s : State) : (setFresh v s).msp = s.msp := rfl
@[simp] theorem setFresh_pwr (v : Nat) (s : State) : (setFresh v s).pwr = s.pwr := rfl
@[simp] theorem setFresh_out (v : Nat) (s : State) : (setFresh v s).out = s.out := rfl
@[simp] theorem setFresh_fresh (v : Nat) (s : State) : (setFresh v s).fresh = v := rfl
@[simp] theorem setFresh_pending (v : Nat) (s : State) : (setFresh v s).pending = s.pending := rfl
@[simp] theorem setPending_time (v : List Instr) (s : State) : (setPending v s).time = s.time := rfl
@[simp] theorem setPending_err (v : List Instr) (s : State) : (setPending v s).err = s.err := rfl
@[simp] theorem setPending_hdr (v : List Instr) (s : State) : (setPending v s).hdr = s.hdr := rfl
@[simp] theorem setPending_regs (v : List Instr) (s : State) : (setPending v s).regs = s.regs := rfl
@[simp] theorem setPending_cnt (v : List Instr) (s : State) : (setPending v s).cnt = s.cnt := rfl
@[simp] theorem setPending_latch (v : List Instr) (s : State) : (setPending v s).latch = s.latch := rfl
@[simp] theorem setPending_chip (v : List Instr) (s : State) : (setPending v s).chip = s.chip := rfl
@[simp] theorem setPending_chart (v : List Instr) (s : State) : (setPending v s).chart = s.chart := rfl
@[simp] theorem setPending_ctxs (v : List Instr) (s : State) : (setPending v s).ctxs = s.ctxs := rfl
@[simp] theorem setPending_islands (v : List Instr) (s : State) : (setPending v s).islands = s.islands := rfl
@[simp] theorem setPending_cores (v : List Instr) (s : State) : (setPending v s).cores = s.cores := rfl
@[simp] theorem setPending_sfu (v : List Instr) (s : State) : (setPending v s).sfu = s.sfu := rfl
@[simp] theorem setPending_ocm (v : List Instr) (s : State) : (setPending v s).ocm = s.ocm := rfl
@[simp] theorem setPending_xmc (v : List Instr) (s : State) : (setPending v s).xmc = s.xmc := rfl
@[simp] theorem setPending_compass (v : List Instr) (s : State) : (setPending v s).compass = s.compass := rfl
@[simp] theorem setPending_ftl (v : List Instr) (s : State) : (setPending v s).ftl = s.ftl := rfl
@[simp] theorem setPending_qcu (v : List Instr) (s : State) : (setPending v s).qcu = s.qcu := rfl
@[simp] theorem setPending_sre (v : List Instr) (s : State) : (setPending v s).sre = s.sre := rfl
@[simp] theorem setPending_niu (v : List Instr) (s : State) : (setPending v s).niu = s.niu := rfl
@[simp] theorem setPending_sext (v : List Instr) (s : State) : (setPending v s).sext = s.sext := rfl
@[simp] theorem setPending_strait (v : List Instr) (s : State) : (setPending v s).strait = s.strait := rfl
@[simp] theorem setPending_msp (v : List Instr) (s : State) : (setPending v s).msp = s.msp := rfl
@[simp] theorem setPending_pwr (v : List Instr) (s : State) : (setPending v s).pwr = s.pwr := rfl
@[simp] theorem setPending_out (v : List Instr) (s : State) : (setPending v s).out = s.out := rfl
@[simp] theorem setPending_fresh (v : List Instr) (s : State) : (setPending v s).fresh = s.fresh := rfl
@[simp] theorem setPending_pending (v : List Instr) (s : State) : (setPending v s).pending = v := rfl

end Sys2Proof.Machine
end

