-- ==== Sys2Proof/Tests/States.lean ====
section
/-! SUPPORT. Small states and operands that the tests run on. -/
namespace Sys2Proof.Tests
open Sys2Proof Sys2Proof.Machine

/-- A key store of an OPERATIONAL module. -/
def ksOperational : KeyStore := { KeyStore.blank with life := .operational }

/-- The module READY and OPERATIONAL, with a link, nothing resident and no connection. -/
def sReady : State :=
  { State.reset with
    chip := { State.reset.chip with stage := .ready, pll := 31 },
    niu := { NiuSt.reset with linkUp := true },
    msp := { MspSt.reset with
      ksA := ⟨true, 1, 0, ksOperational⟩,
      fw := some { version := 1, svn := 0, key := 0, digest := [], raise := false }, keysLoaded := true } }

/-- Connection 1 is the admin queue of controller 0, connection 2 its I/O queue 1. -/
def sQueues : State :=
  { sReady with qcu := { QcuSt.reset with
      conns := [(1, { Conn.fresh false false with icDone := true, queue := some (0, 0, 31) }),
                (2, { Conn.fresh false false with icDone := true, queue := some (0, 1, 63) })],
      ctrls := [(0, { Ctrl.fresh 1 120 0 false with cc := 1 })] } }

/-- A command of the admin queue, and one of the I/O queue. -/
def tAdmin : Tag := ⟨1, 7⟩
def tIo : Tag := ⟨2, 9⟩

/-- A submission entry whose fields are 0. -/
def sqe0 : Sqe := { nsid := 0, cdw2 := 0, cdw3 := 0, cdw10 := 0, cdw11 := 0, cdw12 := 0, cdw13 := 0, cdw14 := 0, cdw15 := 0, sgl := 0 }

/-- An instruction whose fields are 0. -/
def f0 : IFields := { md := 0, rd := 0, ra := 0, rb := 0, rc := 0, imm := 0, ext := 0 }

/-- An activation tensor, narrowing point 1 of layer 0: history 0, no headroom, warm-up of 1, threshold 0. -/
def actTensor : Tensor :=
  { format := 7, layer := 0, gen := 0, policy := 0, dataOff := 0, dataBytes := 0, scaleOff := 0, scaleBytes := 0, reduceLen := 127, cols := 0,
    histN := 0, headroom := 0, warmup := 0, satThr := 0, histIdx := 0 }

/-- A weight tensor of one tile. -/
def tileTensor : Tensor := { actTensor with format := 1, dataBytes := 8256, scaleBytes := 576, cols := 127, layer := 0, gen := 3 }

/-- A small package: 256 bytes of code, one task, 16 KiB of LOCAL and of SCRATCH. -/
def pkg0 : Pkg :=
  { nsid := 1, slba := 0, encoder := false, checked := false, sampler := true, layers := 1, minCores := 1, kvHeads := 0, headDim := 0,
    maxSeqLen := 64, maxSeqs := 4, chunk := 16, localKib := 16, scratchKib := 16, xmBytes := 0, flashBytes := 0, weightBytes := 0, pkgBytes := 4096,
    digest := [], code := List.replicate 256 0, tasks := [{ entry := 0, deps := [], arg0 := 0, arg1 := 0 }], tensors := [actTensor, tileTensor] }

/-- A step with one running task. -/
def step0 : Step :=
  { slotStart := 0, slotClass := 0, group := 0, checked := false, bank := 0, compat := false, batch := [], prior := [], newPages := [],
    tasks := [.running 0], ev := List.replicate 16 0, np := [], kvSat := [], kvw := [], kvScale := [], discarded := [], out := [], tokens := [], sampled := false }

/-- A core's run of context 0 with every register 0. -/
def run0 : Run :=
  { ctx := 0, task := 0, pc := 0, s := Vector.replicate 16 0, a := Vector.replicate 8 0, l := Vector.replicate 4 LoopReg.zero, lstack := [],
    t := Vector.replicate 16 0, g := Vector.replicate 8 0, latch := none, dma := [], mat := none, wait := .none, recv := none, ended := false }

/-- Context 0 on island 0 with a step. -/
def ctx0 (p : Pkg) (st : Option Step) : Ctx :=
  { pkg := p, island := 0, st := if st.isSome then .running else .ready, fault := 0, stepNo := 0, active := 0, workBytes := 0, outBytes := 64, outbufKib := 8,
    places := [.none, .sram 0 8256], frames := [], workF0 := 0, stageF0 := 0, poolF0 := 0, halfBytes := 0, poolSlots := 0, streamed := false,
    scratch := [(16384, 16)], localEx := [(0, 16)], seqs := [], joinOrder := 0, hist := [], step := st, save := [], halves := [], staged := [], out := [],
    dseq := 0, acked := 0, loadTag := none, unloadTags := [], cnt := [] }

/-- Core 0 runs `r` in a step `st` of context 0 with the package `p`. -/
def sCore (p : Pkg) (st : Step) (r : Run) : State :=
  { sQueues with islands := [(0, 1)], ctxs := [(0, ctx0 p (some st))], cores := [(0, { Core.reset with run := some r })] }

/-- The state in which most core tests start. -/
def sRun : State := sCore pkg0 step0 run0

/-- Context 0 at rest. -/
def sRest : State := { sQueues with islands := [(0, 1)], ctxs := [(0, ctx0 pkg0 none)] }

theorem runs0 : CoreRuns sRun 0 run0 (ctx0 pkg0 (some step0)) step0 := ⟨by decide, rfl, rfl, rfl, rfl, rfl⟩

end Sys2Proof.Tests
end

