-- ==== Sys2Proof/Tests/Reads.lean ====
section
/-! SUPPORT. For witnesses: reads and writes of the LOCAL window, and the passes of a matrix instruction, where no word is in error. -/
namespace Sys2Proof.Tests
open Sys2Proof Sys2Proof.Machine

theorem touch_quiet (b : BankId) (s : State) (h1 : s.ocm.locPhys = []) (h2 : s.ocm.spadPhys = []) : touchBank b s = s := by
  have : bankPhys s b = .on := by cases b <;> simp [bankPhys, h1, h2, smGet, smFind]
  simp [touchBank, this]

theorem touches_quiet (l : List BankId) (s : State) (h1 : s.ocm.locPhys = []) (h2 : s.ocm.spadPhys = []) :
    l.foldl (fun s b => touchBank b s) s = s := by
  induction l with
  | nil => rfl
  | cons b l ih => rw [List.foldl_cons, touch_quiet b s h1 h2]; exact ih

theorem clean_quiet (w : OWord) (s : State) (h1 : s.ocm.locErr = []) (h2 : s.ocm.spadErr = []) : secded w.word (owErr s w) = .clean := by
  have : owErr s w = 0 := by unfold owErr; split <;> simp [h1, h2, smGet, smFind]
  rw [this]; simp [secded, show errBits 0 = 0 by decide]

theorem check_quiet (w : OWord) (s : State) (h1 : s.ocm.locErr = []) (h2 : s.ocm.spadErr = []) : owCheck w s = (true, s) := by
  unfold owCheck; rw [clean_quiet w s h1 h2]

theorem checks_quiet (c : Option Nat) : ∀ (n w : Nat) (s : State), s.ocm.locErr = [] → s.ocm.spadErr = [] → ocmChecks c w n s = (none, s) := by
  intro n; induction n with
  | zero => intros; rfl
  | succ n ih => intro w s h1 h2; unfold ocmChecks; rw [check_quiet _ s h1 h2]; exact ih _ s h1 h2

/-- Local bytes of core `k`. -/
def locBytes (s : State) (k a n : Nat) : List Byte := (List.range n).map fun i => smGet 0 s.ocm.loc (locKey k (a + i))

/-- The memories hold no error and every bank is on. -/
structure Quiet (s : State) : Prop where
  locErr : s.ocm.locErr = []
  spadErr : s.ocm.spadErr = []
  locPhys : s.ocm.locPhys = []
  spadPhys : s.ocm.spadPhys = []

/-- A read of the LOCAL window of a core without errors gives the bytes as they stand. -/
theorem winLocal {s : State} {k n a : Nat} (c : Ctx) (h : ctx? s 0 = some c) (hx : c.localEx = [(0, 16)]) (hk : c.pkg.localKib = 16) (q : Quiet s)
    (hn : 0 < n) (ha : a + n ≤ 16384) : readWin k 0 a n s = (.data (locBytes s k a n), s) := by
  have hb : bits a 63 60 = 0 := by simp [bits]; omega
  have hb2 : bits a 59 0 = a := by simp [bits]; omega
  unfold readWin; simp only [h]
  unfold resolve; simp only [hb, hb2, if_true, hk, hx]
  rw [if_pos (by omega)]
  simp only [localSegs]
  rw [if_neg (by omega), if_pos (by omega)]
  have hmin : min n (16 * 1024 - a) = n := by omega
  simp only [hmin, readSegs, ocmRead]
  rw [if_neg (by omega)]
  simp only [touches_quiet _ s q.locPhys q.spadPhys, checks_quiet _ _ _ s q.locErr q.spadErr]
  simp [locBytes, ocmByte]
  intro i hi h
  rw [clean_quiet ⟨some k, (a + i) / 8⟩ s q.locErr q.spadErr] at h
  cases h

theorem servedLocal {s : State} {k n a : Nat} (fuel : Nat) (c : Ctx) (h : ctx? s 0 = some c) (hx : c.localEx = [(0, 16)]) (hk : c.pkg.localKib = 16) (q : Quiet s)
    (hn : 0 < n) (ha : a + n ≤ 16384) : readServed fuel k 0 a n s = (.data (locBytes s k a n), s) := by
  cases fuel <;> simp only [readServed, winLocal c h hx hk q hn ha]

theorem askLocal {s : State} {a : Nat} (n : Nat) (ha : a ≤ 16384) : askLayer n a s = s := by
  have hw : windowOf a = 0 := by simp [windowOf, bits]; omega
  unfold askLayer; rw [if_neg (by simp [hw])]

theorem readLocal {s : State} {k n a : Nat} (c : Ctx) (h : ctx? s 0 = some c) (hx : c.localEx = [(0, 16)]) (hk : c.pkg.localKib = 16) (q : Quiet s)
    (hn : 0 < n) (ha : a + n ≤ 16384) : instrRead s k 0 a n = (.data (locBytes s k a n), s) := by
  unfold instrRead
  rw [if_neg (by omega), askLocal 0 (by omega), servedLocal _ c h hx hk q hn ha]

theorem part_quiet (c : Option Nat) : ∀ (l : List Nat) (s : State), s.ocm.locErr = [] → s.ocm.spadErr = [] → ocmPartChecks c l s = (none, s) := by
  intro l; induction l with
  | nil => intros; rfl
  | cons w l ih => intro s h1 h2; unfold ocmPartChecks; rw [check_quiet _ s h1 h2]; exact ih s h1 h2

/-- A write of the LOCAL window of a core without errors succeeds. -/
theorem writeLocal {s : State} {k a : Nat} {d : List Byte} (c : Ctx) (h : ctx? s 0 = some c) (hx : c.localEx = [(0, 16)]) (hk : c.pkg.localKib = 16) (q : Quiet s)
    (hd : d ≠ []) (ha : a + d.length ≤ 16384) :
    ∃ u, writeWin k 0 a d s = (none, u) := by
  have hl : 0 < d.length := by cases d <;> simp_all
  have hb : bits a 63 60 = 0 := by simp [bits]; omega
  have hb2 : bits a 59 0 = a := by simp [bits]; omega
  unfold writeWin; simp only [h]
  unfold resolve; simp only [hb, hb2, if_true, hk, hx]
  rw [if_pos (by omega)]
  simp only [localSegs]
  rw [if_neg (by omega), if_pos (by omega)]
  have hmin : min d.length (16 * 1024 - a) = d.length := by omega
  simp only [hmin, writeSegs, ocmWrite]
  simp [touches_quiet _ s q.locPhys q.spadPhys, part_quiet _ _ s q.locErr q.spadErr]
  rw [if_neg hd]
  cases flipAt (some k) a d.length s <;> exact ⟨_, rfl⟩

theorem checkLocal {s : State} {k n a : Nat} (c : Ctx) (h : ctx? s 0 = some c) (hk : c.pkg.localKib = 16) (wr : Bool) (ha : a + n ≤ 16384) : checkWin s k 0 a n wr = none := by
  have hb : bits a 63 60 = 0 := by simp [bits]; omega
  have hb2 : bits a 59 0 = a := by simp [bits]; omega
  unfold checkWin resolve; simp only [h, hb, hb2, if_true, hk]
  rw [if_pos (by omega)]

theorem smGet_mem (l : SMap Byte) (k : Nat) : smGet 0 l k = 0 ∨ smGet 0 l k ∈ l.map Prod.snd := by
  induction l with
  | nil => simp [smGet, smFind]
  | cons e l ih =>
    by_cases h : e.1 = k
    · right; simp [smGet, smFind, h]
    · simp only [smGet, smFind, h, if_false] at ih ⊢
      rcases ih with ih | ih
      · exact .inl ih
      · exact .inr (by simp only [List.map_cons]; exact List.mem_cons_of_mem _ ih)

/-- No local byte is 0x80. -/
theorem locBytes_ne {s : State} (h : ∀ x ∈ s.ocm.loc.map Prod.snd, x ≠ 0x80) (k a n : Nat) : ∀ x ∈ locBytes s k a n, x ≠ 0x80 := by
  intro x hx; simp [locBytes] at hx; obtain ⟨i, _, rfl⟩ := hx
  rcases smGet_mem s.ocm.loc (locKey k (a + i)) with hh | hh
  · intro e; exact absurd (hh.symm.trans e) (by decide)
  · exact h _ hh

theorem slice_ne {d : List Byte} {o n : Nat} (h : ∀ x ∈ d, x ≠ 0x80) : ∀ x ∈ slice d o n, x ≠ 0x80 := by
  intro x hx; unfold slice at hx
  rcases List.mem_append.mp hx with hx | hx
  · exact h x (List.mem_of_mem_drop (List.mem_of_mem_take hx))
  · rw [(List.mem_replicate.mp hx).2]; decide

theorem signed_ne {x : Byte} (h : x ≠ 0x80) : signed 8 x.toNat ≠ -128 := by
  revert x; decide

/-- A run-time tile and rows that hold no byte 0x80: the passes complete. -/
theorem matTiles_done {s : State} (c : Ctx) (h : ctx? s 0 = some c) (hx : c.localEx = [(0, 16)]) (hk : c.pkg.localKib = 16) (q : Quiet s)
    (hl : ∀ x ∈ s.ocm.loc.map Prod.snd, x ≠ 0x80)
    (t : BitVec 256) (ht : tdForm t = 3) (ha : tdData t = 0) (e : ActEnv) (he : e.act16 = false) (hcx : e.cplx = false) (hd : ∀ x ∈ e.data, x ≠ 0x80) (m : MatAcc) (hm : m.tr = t) :
    ∃ m', matTiles 0 0 e false 1 0 m s = (.done m', s) := by
  have hr : tileRead 0 0 (tdData t) (tileBytes 3) s = (.ok (locBytes s 0 0 16384), s) := by
    unfold tileRead; rw [ha]
    have : tileBytes 3 = 16384 := rfl
    rw [this, checkLocal c h hk false (by omega)]
    simp only []
    rw [askLocal 0 (by omega), servedLocal _ c h hx hk q (by omega) (by omega)]
  have hb : tileBad 3 (tileVals 3 (locBytes s 0 0 16384)) = false := by
    simp only [tileBad, tileVals]
    simp
    intro i hi y hy
    exact signed_ne (slice_ne (locBytes_ne hl 0 0 16384) y hy)
  have hg : ∃ tl, loadTile 0 0 t s = (.good tl, s) := by
    unfold loadTile; simp only [ht, hr]; rw [if_pos (by omega), hb]; exact ⟨_, rfl⟩
  obtain ⟨tl, hg⟩ := hg
  have hrow : ∀ v i, ∀ x ∈ e.row false v i, actBad false x = false := by
    intro v i x hx
    simp only [actBad, Bool.false_eq_true, if_false, beq_eq_false_iff_ne]
    unfold ActEnv.row at hx
    split at hx
    · simp at hx; rw [hx]; decide
    · simp [he] at hx; obtain ⟨y, hy, rfl⟩ := hx
      exact signed_ne (slice_ne hd y hy)
  unfold matTiles
  simp only [hm, hg, hcx]
  rw [if_neg]
  · simp [matTiles]
  · simp only [he, Bool.false_eq_true, if_false, List.any_append, Bool.or_self]
    simp
    intro a ha b hb
    exact hrow _ _ _ hb
end Sys2Proof.Tests
end

