-- ==== Sys2Proof/Tests/Witness1.lean ====
section
/-! SUPPORT. For each statement about the queue, registers, chip control and memories: states and operands that meet its hypotheses,
clause by clause. -/
namespace Sys2Proof.Tests
open Sys2Proof Sys2Proof.Machine

/-- Core 0 waits behind two commands. -/
def sTwo : State := { sReady with pending := [.linkDown, .pauseFrame] }

theorem witness_StepRunsFront : sTwo.pending = .linkDown :: [.pauseFrame] ∧ ∃ t, step sTwo = .next t := ⟨rfl, _, rfl⟩

theorem witness_TickOnEmptyQueue : (sRun.pending = [] ∧ ({ sRun with time := { sRun.time with master := 2 ^ 64 - 1 } } : State).pending = [] ∧ ∀ e ∈ sRun.ctxs, e.2.st ≠ .loading) ∧
    (let c : Ctx := { ctx0 pkg0 none with st := .loading, loadTag := some ⟨1, 3⟩ }
     let s : State := { sRun with ctxs := [(1023, c), (5, ctx0 pkg0 none)] }
     s.pending = [] ∧ s.chip.powered = true ∧ chartPs s ≠ 4 ∧ ctx? s 1023 = some c ∧ c.st = .loading ∧ c.loadTag = some ⟨1, 3⟩ ∧ ∀ e ∈ s.ctxs, e.2.st = .loading → e.1 = 1023) := by decide +kernel

theorem witness_StepKeepsInvariant :
    Memory.wf { sRun with pending := [.linkDown] } = true ∧ islandsWf ({ sRun with pending := [.linkDown] } : State).islands = true ∧
      ∃ t, step { sRun with pending := [.linkDown] } = .next t := ⟨by decide, by decide, _, rfl⟩

theorem witness_EveryCommandCompletes : (Instr.nop 47 f0).wf = true ∧ (Instr.reservedClassFetch 0 12).wf = true ∧ (Instr.pllUnlock 4).wf = true ∧
    (Instr.keepAlive ⟨1, 65535⟩ sqe0 []).wf = true ∧ (Instr.entdaa 127).wf = true := by decide

/-- A module in TAMPERED: one more TAMPER fuse than CLEAR fuses. -/
def sTampered : State := { sReady with msp := { sReady.msp with fuses := { sReady.msp.fuses with tampers := 1 } } }
/-- A DECOMMISSIONED module. -/
def sDecom : State := { sReady with msp := { sReady.msp with fuses := { sReady.msp.fuses with kdeKilled := true } } }

theorem witness_RegisterAccessRules :
    (Path.inband ≠ .mgmt ∧ sReady.chip.powered = true ∧ 0xFFC % 4 = 0 ∧ 0xFFC ≤ 0xFFC) ∧
    (lifecycle sReady ≠ .tampered ∧ lifecycle sReady ≠ .decommissioned) ∧
    (lifecycle sTampered = .tampered ∧ lifecycle sDecom = .decommissioned ∧ Path.sideband ≠ .mgmt ∧ 0xE0 ≠ 0x00 ∧ 0x01 ≠ 0x00 ∧ 0x01 ≠ 0xE0) ∧
    (0xFFE % 4 ≠ 0 ∧ 0x1000 % 4 = 0 ∧ 0xFFC < 0x1000) ∧ regGate .inband 0x03 0 true sReady = some 0x0004 := by decide

theorem witness_ErrFirstCapture :
    (∃ r : Raise, r.bit = some 31 ∧ 31 < 32 ∧ (hdr sReady r.page).errStatus = 0) ∧
    (∃ (s : State) (r : Raise), r.bit = some 0 ∧ (hdr s r.page).errStatus ≠ 0) ∧
    Reaches sReady .inband 0x10 0x010 ∧
    ((hdr sReady 0x10).errStatus &&& ~~~(1 : Word) = 0) ∧
    ((hdr (advisory 0x10 3 0x1004 0 0 sReady) 0x10).errStatus &&& ~~~(1 : Word) ≠ 0) :=
  ⟨⟨{ code := 0x1004, page := 0x10, bit := some 31, cls := .advisory, scope := .source 0x10, d0 := 0, d1 := 0, injected := false }, rfl, by decide, rfl⟩,
   ⟨advisory 0x10 3 0x1004 0 0 sReady, { code := 0x1001, page := 0x10, bit := some 0, cls := .advisory, scope := .source 0x10, d0 := 0, d1 := 0, injected := false }, rfl, by decide⟩,
   ⟨rfl, by decide⟩, by decide, by decide⟩

theorem witness_RegisterWriteResult :
    ((pageBlock 0x10).isSome = true ∧ Reaches sReady .inband 0x10 0x008) ∧ (2047 < 4096 ∧ (0x20 : Nat) ≠ 0x10) ∧ regGate .inband 0x10 0x010 true sReady = none ∧
    (0x20 ∈ [0x02, 0x20, 0xA0, 0xD0] ∧ 0x100 % 4 = 0 ∧ Reaches sReady .sideband 0x20 0x100 ∧
      clampWord 0x20 0x100 ((regWord sReady 0x20 0x100).toNat - ((regWord sReady 0x20 0x100).toNat &&& rwMask 0x20 0x100) + ((7 : Word).toNat &&& rwMask 0x20 0x100)) =
        (regWord sReady 0x20 0x100).toNat - ((regWord sReady 0x20 0x100).toNat &&& rwMask 0x20 0x100) + ((7 : Word).toNat &&& rwMask 0x20 0x100)) ∧
    (0x90 ∈ [0x20, 0x90, 0xB0] ∧ 0xFF0 % 8 = 0 ∧ 0x800 ≤ 0xFF0 ∧ 0xFF0 < 0xFF8 ∧ sReady.chip.powered = true ∧ regGate .inband 0x90 0xFF0 false sReady = none) := by
  refine ⟨⟨by decide, by decide, by decide⟩, by decide, by decide, ⟨by decide, by decide, ⟨by decide, by decide⟩, by decide⟩, by decide⟩

/-- Level 2, locked. -/
def sLocked : State := { sReady with chip := { sReady.chip with locked := true } }
/-- A frequency measurement of domain 0, and of another, under way. -/
def sFmeas (d : Nat) : State := { sReady with chip := { sReady.chip with fmeas := some d } }
/-- Island 0 holds core 0, and context 0 is at rest on it. -/
theorem witness_ChipControlResult :
    Reaches sReady .inband 0x00 0x104 ∧ sLocked.chip.locked = true ∧ Reaches sLocked .inband 0x00 0x104 ∧ sReady.chip.locked = false ∧ ((3 : Word) ≠ 1 ∧ (3 : Word) ≠ 2) ∧
    (Reaches sReady .inband 0xE0 0x104 ∧ (sReady.err.head + 128 - (0 : Word).toNat % 128) % 128 ≤ 64 ∧ 64 < (sReady.err.head + 128 - (63 : Word).toNat % 128) % 128 ∧
      (sReady.err.head + 128 - (64 : Word).toNat % 128) % 128 ≤ 64) ∧
    (Reaches sReady .inband 0x01 0x10C ∧ sReady.chip.devResetDue = none ∧ (0xA5C2 : Word) ≠ 0xA5C3) ∧ Reaches sReady .inband 0x01 0x114 ∧
    ((sFmeas 0).chip.fmeas = some 0 ∧ (sFmeas 7).chip.fmeas = some 7) ∧
    (bit sReady.chip.pll 2 = true ∧ bit sReady.chip.pll 3 = true ∧ bit sReady.chip.pll 4 = true) ∧
    (Reaches sRest .inband 0x01 0x110 ∧ bit (0x7FFFFFFF : Word).toNat 31 = false ∧
      (bit (0x80000030 : Word).toNat 31 = true ∧ 48 ≤ (0x80000030 : Word).toNat % 64) ∧
      (bit (0x8000002F : Word).toNat 31 = true ∧ islandMap sRest ((0x8000002F : Word).toNat % 64) = 0) ∧
      (bit (0x80000000 : Word).toNat 31 = true ∧ (0x80000000 : Word).toNat % 64 < 48 ∧ islandMap sRest 0 ≠ 0 ∧ ∀ e ∈ islandCtxs sRest 0, e.2.step = none ∧ e.2.parked = false)) := by
  repeat' first
    | decide
    | constructor

/-- A step in progress holds bank 1 while bank 0 is active. -/
def sOldBank : State := sCore pkg0 { step0 with bank := 1 } run0
/-- The inactive bank holds word 0 with the version and no bad word. -/
def sTable (v : Nat) : State := { sReady with sfu := { SfuSt.reset with bank1 := [(0, v)] } }
theorem sTable_good : ∀ a < 4096, tblWordBad a (sfuWord (sTable 2).sfu 1 a) = false := by
  intro a _
  have h : sfuWord (sTable 2).sfu 1 a = if a = 0 then 2 else 0 := by
    by_cases h : a = 0 <;> simp [sfuWord, sTable, SfuSt.reset, smFind, h, eq_comm]
  rw [h]; by_cases h0 : a = 0
  · subst h0; decide
  · simp [tblWordBad, h0, bits, show isFin 0 = true by decide]

theorem witness_FunctionTableResult :
    (Reaches sReady .inband 0x70 0x10C ∧ oldInUse sReady = false ∧ sReady.sfu.active ≤ 1) ∧ (Reaches sOldBank .inband 0x70 0x10C ∧ oldInUse sOldBank = true) ∧
    (sReady.chip.powered = true ∧ regGate .inband 0x70 0x10C false sReady = none) ∧
    (Reaches (sTable 2) .inband 0x70 0x110 ∧ oldInUse (sTable 2) = false ∧ bits (sfuWord (sTable 2).sfu 1 0) 7 0 = versionByte (sTable 2) ∧
      ∀ a < 4096, tblWordBad a (sfuWord (sTable 2).sfu 1 a) = false) ∧
    (oldInUse (sTable 1) = false ∧ bits (sfuWord (sTable 1).sfu 1 0) 7 0 ≠ versionByte (sTable 1)) ∧ (Reaches sOldBank .inband 0x70 0x110 ∧ oldInUse sOldBank = true) ∧
    (Reaches sReady .inband 0x70 0x100 ∧ sReady.chip.level1 = false ∧ ({ sReady with chip := { sReady.chip with level1 := true } } : State).chip.level1 = true) ∧
    (47 < 48 ∧ Reaches sReady .inband (0x40 + 47) 0x10C ∧ bit (0x80000001 : Word).toNat 31 = true ∧ (0x80000001 : Word).toNat % 4 ≠ 0 ∧ (0x80000000 : Word).toNat % 4 = 0 ∧
      bit (3 : Word).toNat 31 = false ∧ (3 : Word).toNat % 4 ≠ 0) := by
  refine ⟨⟨⟨by decide, by decide⟩, by decide⟩, ⟨⟨by decide, by decide⟩, by decide⟩, by decide, ⟨⟨by decide, by decide⟩, by decide, by decide, sTable_good⟩,
    by decide, ⟨⟨by decide, by decide⟩, by decide⟩, ⟨⟨by decide, by decide⟩, by decide⟩, by decide, ⟨by decide, by decide⟩, by decide⟩

/-- The Chart runs. -/
def sChartOn : State := { sReady with chart := { ChartSt.reset with enable := true } }
/-- Atoll of 4 banks; bank 63 and bank 20 programmed or physically in other power states. -/
def sAtoll : State := { sReady with ocm := { sReady.ocm with atoll := 4 } }
def sBanks : State := { sReady with ocm := { sReady.ocm with spadPwr := [(20, 3), (21, 1)], spadPhys := [(21, .ret), (22, .ret)] } }
/-- The background tests are enabled. -/
def sBgt : State := setRegWord 0x80 0x11C 3 sReady

theorem bgtSave_sBgt : ∃ t, bgtSave none 0 0 256 (setBgt none ⟨0, 1⟩ sBgt) = (none, t) := by
  have h : (bgtSave none 0 0 256 (setBgt none ⟨0, 1⟩ sBgt)).1.isNone = true := by decide +kernel
  generalize bgtSave none 0 0 256 (setBgt none ⟨0, 1⟩ sBgt) = x at h ⊢
  exact ⟨x.2, Prod.ext (Option.isNone_iff_eq_none.mp h) rfl⟩

theorem witness_OnChipMemoryControlResult :
    ((Reaches sReady .inband 0x80 0x100 ∧ bit (1 : Word).toNat 0 = true ∧ sReady.chart.enable = false ∧ sReady.ctxs = []) ∧
     (Reaches sChartOn .inband 0x80 0x100 ∧ sChartOn.chart.enable = true) ∧ bit (2 : Word).toNat 0 = false) ∧
    ((sAtoll.chip.powered = true ∧ regGate .inband 0x80 0x10C true sAtoll = none ∧ bit (0x8000003C : Word).toNat 31 = true) ∧
      bit (0x80000040 : Word).toNat 6 = true ∧ (0x8000003B : Word).toNat % 64 < 64 - sAtoll.ocm.atoll ∧
      (Path.inband ≠ .mgmt ∧ bit (0x8000003C : Word).toNat 6 = false ∧ 64 - sAtoll.ocm.atoll ≤ (0x8000003C : Word).toNat % 64)) ∧
    (Reaches sReady .mgmt 0x80 0x108 ∧ ((4 : Word).toNat % 8 ≤ 4 ∧ (4 : Word).toNat % 8 ≠ sReady.ocm.atoll ∧ ∀ b, 64 - 4 ≤ b → b < 64 - sReady.ocm.atoll → spadBankUsed sReady b = false) ∧
      4 < (5 : Word).toNat % 8) ∧
    (Path.sideband ≠ .mgmt ∧ regGate .sideband 0x80 0x108 true sReady = none) ∧
    (0x14C ∈ [0x140, 0x144, 0x148, 0x14C] ∧ Reaches sAtoll .inband 0x80 0x14C ∧
      (∀ i < 16, bankInUse sAtoll (.spad (48 + i)) (bits (0x00FFFFFF : Word).toNat (2 * i + 1) (2 * i)) = false) ∧
      ∃ i < 16, bankInUse sAtoll (.spad (48 + i)) (bits (0x01000000 : Word).toNat (2 * i + 1) (2 * i)) = true) ∧
    (2 < 4 ∧ bankPwr sBanks (.spad 20) ≠ 2) ∧
    (bankOk (.spad 63) = true ∧ bankOk (.loc 47 15) = true ∧ (bankPwr sBanks (.spad 20) = 3 ∧ bankPhys sBanks (.spad 20) = .on) ∧
      (bankPhys sBanks (.spad 22) = .ret ∧ bankPwr sBanks (.spad 22) ≠ 1 ∧ bankHeld sBanks (.spad 22) = false) ∧ (bankPhys sBanks (.spad 21) = .ret ∧ bankPwr sBanks (.spad 21) = 1)) ∧
    ((regFld sBgt 0x80 0x11C 1 1 = 1 ∧ chartPs sBgt ≠ 4) ∧ (47 < 48 ∧ regFld sBgt 0x80 0x11C 0 0 = 1 ∧ chartPs sBgt < 3) ∧
      bgtSkip sBgt none (bgtDims none).1 (bgtPos sBgt none).bank = some 0 ∧ bgtSkip sBgt (some 47) (bgtDims (some 47)).1 (bgtPos sBgt (some 47)).bank = some 0 ∧
      ∃ t, bgtSave none 0 0 256 (setBgt none ⟨0, 1⟩ sBgt) = (none, t)) := by
  repeat' first
    | decide
    | exact bgtSave_sBgt
    | (intro b h1 h2; simp [spadBankUsed, scratchUsed, show sReady.ctxs = [] from rfl]; omega)
    | (refine ⟨12, by decide, ?_⟩; decide)
    | constructor

/-- A scrub of bursts 0 to 9 runs. -/
def sScrub : State := { sReady with xmc := { sReady.xmc with scrub := { sReady.xmc.scrub with busy := true, first := 0, last := 9 } } }
/-- Channel 31 is trained. -/
def sTrained (drift : Bool) : State := modChan 31 (fun c => { c with trained := true, drift := drift }) sReady
/-- The scrub range registers hold 0 to the last burst, or a range out of order. -/
def sRange : State := setRegWord 0x90 0x214 0x7F (setRegWord 0x90 0x210 0xFFFFFFC0 sReady)
def sBadRange : State := setRegWord 0x90 0x208 0x40 sReady

theorem witness_ExternalMemoryControlResult :
    (31 < 32 ∧ Reaches sReady .inband (0x90 + 31 / 2) (0x10C + 0x20 * (31 % 2))) ∧
    (Reaches sScrub .inband 0x90 0x200 ∧ bit (1 : Word).toNat 0 = true ∧ bit (1 : Word).toNat 1 = false ∧ sScrub.xmc.scrub.busy = true) ∧
    (sRange.xmc.scrub.busy = false ∧ scrubAddr (storeRw 0x90 0x200 1 sRange) 0x208 ≤ scrubAddr (storeRw 0x90 0x200 1 sRange) 0x210 ∧
      scrubAddr (storeRw 0x90 0x200 1 sRange) 0x210 = 0x7FFFFFFFC0) ∧
    (sBadRange.xmc.scrub.busy = false ∧ scrubAddr (storeRw 0x90 0x200 1 sBadRange) 0x210 < scrubAddr (storeRw 0x90 0x200 1 sBadRange) 0x208) ∧
    (Reaches sReady .inband 0x90 0x200 ∧ bit (2 : Word).toNat 0 = false ∧ bit (2 : Word).toNat 1 = true ∧ sReady.xmc.scrub.busy = false) ∧
    ((chan (sTrained false) 31).trained = true ∧ (chan (sTrained false) 31).selfRefresh = false ∧ (chan (sTrained false) 31).drift = false ∧ (chan (sTrained true) 31).drift = true ∧ 2 < 3) := by
  repeat' first
    | decide
    | constructor

end Sys2Proof.Tests
end

