-- ==== Sys2Proof/Tests/Witness2.lean ====
section
/-! SUPPORT. For each statement about core instructions: states and operands that meet its hypotheses, clause by clause. -/
set_option maxRecDepth 8000
namespace Sys2Proof.Tests
open Sys2Proof Sys2Proof.Machine

theorem runsCore (p : Pkg) (st : Step) (r : Run) (h1 : r.ctx = 0) (h2 : r.ended = false) (h3 : r.recv = none) :
    CoreRuns (sCore p st r) 0 r (ctx0 p (some st)) st := ⟨by decide, rfl, h2, h3, by rw [h1]; rfl, rfl⟩

theorem rdCore (p : Pkg) (st : Step) (r : Run) (hk : p.localKib = 16) {a n : Nat} (hn : 0 < n) (ha : a + n ≤ 16384) :
    ∃ b u, instrRead (sCore p st r) 0 0 a n = (.data b, u) := ⟨_, _, readLocal (ctx0 p (some st)) rfl rfl hk ⟨rfl, rfl, rfl, rfl⟩ hn ha⟩

theorem wrCore (p : Pkg) (st : Step) (r : Run) (hk : p.localKib = 16) {a : Nat} {d : List Byte} (hd : d ≠ []) (ha : a + d.length ≤ 16384) :
    ∃ u, writeWin 0 0 a d (sCore p st r) = (none, u) := writeLocal (ctx0 p (some st)) rfl rfl hk ⟨rfl, rfl, rfl, rfl⟩ hd ha

/-- A run with A0 = `a`. -/
def rA (a : Nat) : Run := setA run0 0 (BitVec.ofNat 64 a)
/-- A run with S0 = `v`. -/
def rS (v : Nat) : Run := setS run0 0 (BitVec.ofNat 64 v)

theorem witness_ScalarResult :
    (CoreRuns sRun 0 run0 (ctx0 pkg0 (some step0)) step0 ∧ modBad f0 0 = false) ∧
    (({ f0 with rd := 7, ra := 7 } : IFields).rd.toNat < 8 ∧ modBad { f0 with md := 1 } 1 = false) ∧
    (let r := rA 16376
     (getA r 0 + (0 : BitVec 32).signExtend 64).toNat % 8 = 0 ∧ windowOf (getA r 0 + (0 : BitVec 32).signExtend 64).toNat ≤ 2 ∧
       CanRead (sCore pkg0 step0 r) 0 r step0 (Ext.one 16376 8) ∧ (∃ d u, instrRead (sCore pkg0 step0 r) 0 0 16376 8 = (.data d, u)) ∧
       CanWrite (sCore pkg0 step0 r) 0 r (Ext.one 16376 8) ∧ ∃ u, writeWin 0 0 16376 (leBytes 8 (getS r 0).toNat) (sCore pkg0 step0 r) = (none, u)) ∧
    (let r := rA (2 ^ 60)
     windowOf (2 ^ 60) ≤ 2 ∧ CanRead (sCore pkg0 step0 r) 0 r step0 (Ext.one (2 ^ 60) 8) ∧ ∃ d u, instrRead (sCore pkg0 step0 r) 0 0 (2 ^ 60) 8 = (.data d, u)) ∧
    (getA (rA 1) 0 + (0 : BitVec 32).signExtend 64).toNat % 8 ≠ 0 ∧
    ((getA (rA (3 * 2 ^ 60)) 0 + (0 : BitVec 32).signExtend 64).toNat % 8 = 0 ∧ 2 < windowOf (getA (rA (3 * 2 ^ 60)) 0 + (0 : BitVec 32).signExtend 64).toNat) := by
  refine ⟨⟨runs0, by decide⟩, by decide, ⟨by decide, by decide, ⟨by decide, by decide, by decide⟩, ⟨_, _, rfl⟩, ⟨by decide, by decide⟩, ⟨_, rfl⟩⟩,
    ⟨by decide, ⟨by decide, by decide, by decide⟩, ⟨_, _, rfl⟩⟩, by decide, by decide⟩

/-- A point of the step: INT8 with the verdict given. -/
def np0 (v : Verdict) : NpSt := { int16 := false, a := 0x3F800000, s := 0x3C010204, m := 0x40000000, sat := 5, rerun := false, verdict := v }
/-- A step in which point 1 has a verdict. -/
def stNp (v : Verdict) : Step := { step0 with np := [(0, np0 v)] }
/-- Loops 0 and 1 are active, loop 1 inside loop 0, both ending at the core's instruction. -/
def rLoops (c0 c1 : Nat) : Run := { run0 with
  pc := 32, lstack := [1, 0], l := (run0.l.set 0 { count := c0, index := 0, start := 16, stop := 32 }).set 1 { count := c1, index := 0, start := 16, stop := 32 } }

theorem witness_ControlFlowResult :
    (((run0.pc + 16 * (1 : BitVec 32).signExtend 64).toNat % 16 = 0 ∧ (run0.pc + 16 * (15 : BitVec 32).signExtend 64).toNat < codeBytes sRun run0) ∧
      ¬ (run0.pc + 16 * (16 : BitVec 32).signExtend 64).toNat < codeBytes sRun run0 ∧ ¬ (getS (rS 8) 0).toNat % 16 = 0) ∧
    (getS (rS 5) 0 = getS (rS 5) 0 ∧ getS (rS 5) 0 ≠ getS (rS 5) 1 ∧ (getS (rS (2 ^ 64 - 1)) 0).toInt < (getS (rS (2 ^ 64 - 1)) 1).toInt ∧
      (getS (rS 5) 1).toInt ≤ (getS (rS 5) 0).toInt) ∧
    (modBad { f0 with md := 1 } 1 = false ∧ ({ f0 with rd := 3 } : IFields).rd.toNat < 4 ∧ 1 ≤ extF { f0 with ext := 15 } 15 0 ∧ 0 + 16 * extF { f0 with ext := 15 } 15 0 < codeBytes sRun run0 ∧
      ¬ 0 + 16 * extF { f0 with ext := 16 } 15 0 < codeBytes sRun run0 ∧ (3 : Nat) ∉ run0.lstack ∧ (∀ j ∈ run0.lstack, inBody run0 j 0 = true → 240 ≤ (getL run0 j).stop) ∧
      1 ∈ (rLoops 2 2).lstack) ∧
    (actEntry pkg0 (extF { f0 with ext := 1 } 11 0) = some (0, actTensor) ∧ smFind (stNp .accept).np 0 = some (np0 .accept) ∧ (np0 .accept).verdict ≠ .rerun ∧
      (np0 .rerun).verdict = .rerun ∧ smFind step0.np 0 = none) ∧
    ((∀ i ∈ run0.lstack, (getL run0 i).stop ≠ 0) ∧ 0 + 16 < codeBytes sRun run0 ∧
      codeBytes (sCore pkg0 step0 { run0 with pc := 240 }) { run0 with pc := 240 } ≤ 240 + 16) ∧
    ((rLoops 2 2).lstack = 1 :: [0] ∧ (getL (rLoops 2 2) 1).stop = 32 ∧ 1 < (getL (rLoops 2 2) 1).count) ∧
    (let r := { rLoops 2 1 with lstack := [1] }
     r.lstack = 1 :: [] ∧ (1 : Nat) ∉ ([] : List Nat) ∧ (getL r 1).stop = 32 ∧ (getL r 1).count = 1 ∧ 32 + 16 < codeBytes (sCore pkg0 step0 r) r) ∧
    ((rLoops 2 1).lstack = 1 :: 0 :: [] ∧ (1 : Nat) ∉ [0] ∧ (getL (rLoops 2 1) 1).count = 1 ∧ (getL (rLoops 2 1) 0).stop = 32 ∧ 1 < (getL (rLoops 2 1) 0).count) := by
  repeat' first
    | decide
    | constructor

theorem witness_InstructionRefusedAtIssue :
    CoreRuns sRun 0 run0 (ctx0 pkg0 (some step0)) step0 ∧ 12 ≤ (12 : BitVec 4).toNat ∧ ({ sRun with chip := { sRun.chip with level1 := true } } : State).chip.level1 = true ∧
    CoreRuns { sRun with chip := { sRun.chip with level1 := true } } 0 run0 (ctx0 pkg0 (some step0)) step0 ∧ modBad { f0 with md := 1 } 0 = true ∧ 8 ≤ (8 : BitVec 4).toNat :=
  ⟨runs0, by decide, rfl, ⟨by decide, rfl, rfl, rfl, rfl, rfl⟩, by decide, by decide⟩

theorem witness_ScalarFrame : CoreRuns sRun 0 run0 (ctx0 pkg0 (some step0)) step0 ∧ FallsThrough sRun run0 ∧ modBad f0 0 = false := ⟨runs0, ⟨rfl, by decide⟩, by decide⟩

/-- A context whose WORK window lies in one frame of external memory. -/
def cWork : Ctx := { ctx0 { pkg0 with xmBytes := 2097152 } (some step0) with workBytes := 2097152, frames := [some 5] }
def sWork : State := { sRun with ctxs := [(0, cWork)] }

theorem witness_WindowWriteFrame :
    (ctx? sRun 0 = some (ctx0 pkg0 (some step0)) ∧ resolve sRun 0 [1, 2].length (ctx0 pkg0 (some step0)) 0 16382 true = .segs [.loc 0 16382 2] .mutable_ ∧
      ∃ u, writeWin 0 0 16382 [1, 2] sRun = (none, u)) ∧
    (resolve sRun 0 [1, 2].length (ctx0 pkg0 (some step0)) 0 (2 ^ 60) true = .segs [.spad 16777216 2] .mutable_ ∧ ∃ u, writeWin 0 0 (2 ^ 60) [1, 2] sRun = (none, u)) ∧
    (ctx? sWork 0 = some cWork ∧ resolve sWork 0 [1, 2].length cWork 0 (2 ^ 61) true = .segs [.xm 10485760 2] .mutable_ ∧ ∃ u, writeWin 0 0 (2 ^ 61) [1, 2] sWork = (none, u)) :=
  ⟨⟨rfl, by decide, _, Prod.ext (by decide) rfl⟩, ⟨by decide, _, Prod.ext (by decide) rfl⟩, ⟨rfl, by decide, _, Prod.ext (by decide) rfl⟩⟩

theorem queueAdmin : QueueOpen sQueues tAdmin := ⟨⟨_, _, rfl, rfl, rfl⟩, rfl, by decide, rfl, by decide⟩
theorem queueIo : QueueOpen sQueues tIo := ⟨⟨_, _, rfl, rfl, rfl⟩, rfl, by decide, rfl, by decide⟩

theorem witness_CompletionFrame : QueueOpen sQueues tAdmin ∧ QueueOpen sQueues tIo := ⟨queueAdmin, queueIo⟩

/-- A DMA operation of one row of `n` bytes from 0 to 64. -/
def dma0 (op n : Nat) : Dma := { op := op, src := 0, dst := 64, rowBytes := n, rows := 1, sstr := 0, dstr := 0, cls := 0, grp := 0 }
/-- A run with an operation in its queue, or with 32. -/
def rDma (d : Dma) : Run := { setA run0 1 64 with dma := [d], g := run0.g.set 0 1 }
def rFull : Run := { setA run0 1 64 with dma := List.replicate 32 (dma0 2 6), g := run0.g.set 0 32 }

theorem witness_DmaResult :
    (let f : IFields := { f0 with rb := 1, imm := 6 }
     let r := setA run0 1 64
     let s := sCore pkg0 step0 r
     CoreRuns s 0 r (ctx0 pkg0 (some step0)) step0 ∧ modBad f 31 = false ∧ 1 ≤ f.imm.toNat ∧ f.imm.toNat ≤ 2 ^ 24 ∧ f.ra.toNat < 8 ∧ f.rb.toNat < 8 ∧
     CanWrite s 0 r (dma0 0 6).dstExt ∧ r.dma.length < 32 ∧ CanRead s 0 r step0 (dma0 0 6).srcExt ∧ s.chip.level1 = false ∧ f.imm.toNat % 6 = 0 ∧ windowOf 64 ≤ 1 ∧
     CanRead s 0 r step0 (dma0 1 6).dstExt) ∧
    (32 ≤ rFull.dma.length ∧ CoreRuns (sCore pkg0 step0 rFull) 0 rFull (ctx0 pkg0 (some step0)) step0) ∧
    ((Machine.core (sCore pkg0 step0 (rDma (dma0 2 6))) 0).run = some (rDma (dma0 2 6)) ∧ (rDma (dma0 2 6)).dma[0]? = some (dma0 2 6) ∧ (dma0 2 6).rows = 1) ∧
    (∃ u, writeWin 0 0 64 (List.replicate 6 0) (draw (sCore pkg0 step0 (rDma (dma0 2 6)))).2 = (none, u)) ∧
    ((dma0 0 6).srcExt.overlap (dma0 0 6).dstExt = false ∧ ∃ b t u, readServed (6 / 8 + 2) 0 0 0 6 (draw (sCore pkg0 step0 (rDma (dma0 0 6)))).2 = (.data b, t) ∧ writeWin 0 0 64 b t = (none, u)) ∧
    (∃ b t o t2 u, readServed (6 / 8 + 2) 0 0 0 6 (draw (sCore pkg0 step0 (rDma (dma0 1 6)))).2 = (.data b, t) ∧ readServed 1 0 0 64 6 t = (.data o, t2) ∧
      writeWin 0 0 64 ((List.range (6 / 6)).flatMap fun i => leBytes 6 ((fld b (6 * i) 6 + fld o (6 * i) 6) % 2 ^ 48)) t2 = (none, u)) := by
  refine ⟨⟨runsCore _ _ _ rfl rfl rfl, by decide, by decide, by decide, by decide, by decide, ⟨by decide, by decide⟩, by decide, ⟨by decide, by decide, by decide⟩, by decide, by decide, by decide,
    ⟨by decide, by decide, by decide⟩⟩, ⟨by decide, runsCore _ _ _ rfl rfl rfl⟩, ⟨rfl, rfl, rfl⟩, ⟨_, rfl⟩, ⟨by decide, _, _, _, rfl, rfl⟩, ⟨_, _, _, _, _, rfl, rfl, rfl⟩⟩

/-- The 32 bytes at 0 begin with 7. -/
def sBadTile : State := { sRun with ocm := { sRun.ocm with loc := [(0, 7)] } }

theorem witness_TileDescriptorResult :
    (modBad f0 0 = false ∧ f0.ra.toNat < 8 ∧ tdBusy run0 0 = false ∧ CanRead sRun 0 run0 step0 (Ext.one 0 32)) ∧
    (∃ d u, instrRead sRun 0 0 0 32 = (.data d, u) ∧ tdVersion (BitVec.ofNat 256 (leNat d)) = 0 ∧ tdForm (BitVec.ofNat 256 (leNat d)) = 0 ∧ bits (BitVec.ofNat 256 (leNat d)).toNat 31 24 = 0 ∧
      bits (BitVec.ofNat 256 (leNat d)).toNat 255 224 = 0) ∧
    (CoreRuns sBadTile 0 run0 (ctx0 pkg0 (some step0)) step0 ∧ CanRead sBadTile 0 run0 step0 (Ext.one 0 32) ∧
      ∃ d u, instrRead sBadTile 0 0 0 32 = (.data d, u) ∧ tdVersion (BitVec.ofNat 256 (leNat d)) ≠ versionByte u ∧ tdVersion (BitVec.ofNat 256 (leNat d)) ≠ 0) ∧
    (CanWrite sRun 0 run0 (Ext.one 0 32) ∧ ∃ u, writeWin 0 0 0 (leBytes 32 (getT run0 0).toNat) sRun = (none, u)) ∧
    (pkg0.tensors[extF { f0 with ext := 1 } 19 0]? = some tileTensor ∧ tileTensor.format = 1 ∧ (getS (rS 0) 0).toNat < (127 + 1 + 127) / 128 * ((127 + 1 + 127) / 128) ∧
      (127 + 1 + 127) / 128 * ((127 + 1 + 127) / 128) ≤ (getS (rS 1) 0).toNat) := by
  refine ⟨⟨by decide, by decide, by decide, ⟨by decide, by decide, by decide⟩⟩, ⟨_, _, rfl, by decide, by decide, by decide, by decide⟩,
    ⟨⟨by decide, rfl, rfl, rfl, rfl, rfl⟩, ⟨by decide, by decide, by decide⟩, _, _, rfl, by decide, by decide⟩, ⟨⟨by decide, by decide⟩, _, rfl⟩, by decide⟩

theorem witness_ExactSums :
    ((List.replicate 128 (List.replicate 128 (-127 : Int))).length = 128 ∧ (List.replicate 128 (127 : Int)).length = 128 ∧
      ∀ x ∈ List.replicate 128 (List.replicate 128 (-127 : Int)), x.length = 128) ∧ ∀ x ∈ [(32639 : Int), -32639], actBad true x = false :=
  ⟨⟨by simp, by simp, by intro x hx; rw [(List.mem_replicate.mp hx).2]; simp⟩, by decide⟩

/-- Descriptor of a run-time tile at LOCAL 0. -/
def td3 : BitVec 256 := BitVec.ofNat 256 (2 + 3 * 2 ^ 8)
/-- One activation row, tile descriptors for run-time tiles. -/
def rMat (n : Nat) : Run := { setS run0 0 (BitVec.ofNat 64 n) with t := Vector.replicate 16 td3 }
/-- The parameter block at LOCAL 0 of a convolution of one tap on one input position of one block. -/
def sConv : State := { sCore pkg0 step0 (rMat 0) with ocm := { sRun.ocm with loc := [(0, 1), (2, 1), (4, 1), (5, 1), (6, 1), (7, 1), (16, 1), (20, 1), (24, 1)] } }
def conv0 : ConvP := { tapsX := 1, tapsY := 1, dilX := 1, dilY := 1, strX := 1, strY := 1, pbX := 0, paX := 0, pbY := 0, paY := 0, lX := 1, lY := 1, cb := 1 }
/-- One row of activations. -/
def env0 (p : Option ConvP) : ActEnv := { act16 := false, cplx := false, rows := 1, tiles := 1, conv := p, data := [] }

theorem ready0 (s : State) (hs : s = sCore pkg0 step0 (rMat 1) ∨ s = sConv) (r : Run) (hr : r = rMat 1 ∨ r = rMat 0) (p : Option ConvP) (hp : p = none ∨ p = some conv0) :
    MatReady s 0 r step0 f0 p (env0 p) [3] 1 := by
  rcases hs with rfl | rfl <;> rcases hr with rfl | rfl <;> rcases hp with rfl | rfl <;>
  exact ⟨by decide, fun h => absurd h (by decide), by decide, by decide, ⟨by decide, by decide, by decide, by decide⟩, ⟨by decide, by decide, by decide⟩, fun h => absurd h (by decide),
    fun h => absurd h (by decide), fun h => absurd h (by decide)⟩

theorem run_done (s : State) (c : Ctx) (h : ctx? s 0 = some c) (hx : c.localEx = [(0, 16)]) (hk : c.pkg.localKib = 16) (q : Quiet s) (hl : ∀ x ∈ s.ocm.loc.map Prod.snd, x ≠ 0x80)
    (p : Option ConvP) : ∃ d u1 old u2 m u3, instrRead s 0 0 0 128 = (.data d, u1) ∧ matSource 0 0 0 0 0 1 u1 = (.ok old, u2) ∧
      matTiles 0 0 { env0 p with data := d } false 1 0 { sums := [], tr := td3, ti := td3, latch := none, plane := (Machine.core u2 0).active } u2 = (.done m, u3) := by
  obtain ⟨m, hm⟩ := matTiles_done c h hx hk q hl td3 (by decide) (by decide) { env0 p with data := locBytes s 0 0 128 } rfl rfl (locBytes_ne hl 0 0 128)
    { sums := [], tr := td3, ti := td3, latch := none, plane := (Machine.core s 0).active } rfl
  exact ⟨_, _, _, _, _, _, readLocal c h hx hk q (by decide) (by decide), rfl, hm⟩

theorem witness_MatrixIssueResult :
    (let s := sCore pkg0 step0 (rMat 1)
     CoreRuns s 0 (rMat 1) (ctx0 pkg0 (some step0)) step0 ∧ matBad f0 = false ∧ matForm (ctx0 pkg0 (some step0)) step0 f0 = some (false, false) ∧ arrayBusy s 0 (rMat 1) = false ∧
     1 ≤ (getS (rMat 1) 0).toNat ∧ MatReady s 0 (rMat 1) step0 f0 none (env0 none) [tdForm (getT (rMat 1) 0)] 1 ∧
     ∃ d u1 old u2 m u3, instrRead s 0 0 0 128 = (.data d, u1) ∧ matSource 0 0 0 0 0 1 u1 = (.ok old, u2) ∧
      matTiles 0 0 { env0 none with data := d } false 1 0 { sums := [], tr := td3, ti := td3, latch := none, plane := (Machine.core u2 0).active } u2 = (.done m, u3)) ∧
    (getS (rMat 0) 0).toNat = 0 ∧
    (extF f0 12 0 = 0 ∧ windowOf (getA (rMat 0) 0).toNat = 0 ∧ CoreRuns sConv 0 (rMat 0) (ctx0 pkg0 (some step0)) step0 ∧ CanRead sConv 0 (rMat 0) step0 (Ext.one 0 32) ∧
     (∃ b u, instrRead sConv 0 0 0 32 = (.data b, u) ∧ zeroRange b 26 32 = true ∧ convParm b = conv0) ∧ 1 ≤ conv0.cb ∧ 1 ≤ conv0.outX ∧ 1 ≤ conv0.outY ∧
     conv1Good conv0 = true ∧ conv2Good conv0 = true ∧ MatReady sConv 0 (rMat 0) step0 f0 (some conv0) (env0 (some conv0)) [tdForm (getT (rMat 0) 0)] 1 ∧
     ∃ d u1 old u2 m u3, instrRead sConv 0 0 0 128 = (.data d, u1) ∧ matSource 0 0 0 0 0 1 u1 = (.ok old, u2) ∧
      matTiles 0 0 { env0 (some conv0) with data := d } false 1 0 { sums := [], tr := td3, ti := td3, latch := none, plane := (Machine.core u2 0).active } u2 = (.done m, u3)) := by
  refine ⟨⟨runsCore _ _ _ rfl rfl rfl, by decide, by decide, by decide, by decide, ready0 _ (.inl rfl) _ (.inl rfl) _ (.inl rfl),
    run_done _ (ctx0 pkg0 (some step0)) rfl rfl rfl ⟨rfl, rfl, rfl, rfl⟩ (by decide) _⟩, by decide, by decide, by decide, ⟨by decide, rfl, rfl, rfl, rfl, rfl⟩,
    ⟨by decide, by decide, by decide⟩, ⟨_, _, rfl, by decide, by decide⟩, by decide, by decide, by decide, by decide, by decide, ready0 _ (.inr rfl) _ (.inr rfl) _ (.inr rfl),
    run_done _ (ctx0 pkg0 (some step0)) rfl rfl rfl ⟨rfl, rfl, rfl, rfl⟩ (by decide) _⟩

/-- A matrix operation of one row to accumulator row 63, and of one to LOCAL. -/
def mat0 (disc : Bool) (acc : Bool) : MatOp :=
  { rows := [{ toAcc := acc, at_ := if acc then 63 else 0, vals := List.replicate 128 1 }], np := if disc then 1 else 0, checked := false, layers := [], tds := [0], latches := false, disc := disc }

theorem witness_MatrixCompleteResult :
    (let s := sCore pkg0 step0 { run0 with mat := some (mat0 false true) }
     (Machine.core s 0).run = some { run0 with mat := some (mat0 false true) } ∧ (Machine.core s 0).gated = false ∧ brakeLevel s = false) ∧
    ((mat0 false true).disc = false ∧ (mat0 false true).np = 0 ∧ (∀ w ∈ (mat0 false true).rows, w.toAcc = true ∧ w.vals.length = 128) ∧ smWf 0 (Machine.core sRun 0).acc = true) ∧
    (∀ w ∈ (mat0 false false).rows, w.toAcc = false ∧ ∃ u, writeWin 0 0 w.at_ (w.vals.flatMap (leBytes 6)) sRun = (none, u)) ∧
    ((mat0 true true).disc = true ∧ ctx? sRun 0 = some (ctx0 pkg0 (some step0)) ∧ (ctx0 pkg0 (some step0)).step = some step0) := by
  refine ⟨⟨rfl, rfl, rfl⟩, ⟨rfl, rfl, by simp [mat0], by decide⟩, ?_, rfl, rfl, rfl⟩
  intro w hw
  simp [mat0] at hw; subst hw
  exact ⟨rfl, wrCore pkg0 step0 run0 rfl (by decide) (by decide)⟩

end Sys2Proof.Tests
end

