-- ==== Sys2Proof/Tests/Witness4.lean ====
section
/-! SUPPORT. For each statement about the Chart, steps and context commands: states and operands that meet its hypotheses. -/
set_option maxRecDepth 8000
namespace Sys2Proof.Tests
open Sys2Proof Sys2Proof.Machine

/-- A DECODE_STEP slot of context 0 on island 0 from 0 to 250 us that preempts at its end, and a SEARCH_BATCH slot after it. -/
def slotStep : Slot := { w0 := 0x00FA0000, w1 := 0x00240000, w2 := 0, w3 := 0 }
def slotBatch : Slot := { w0 := 0x000100FA, w1 := 0x000C0040, w2 := 0, w3 := 0 }
/-- Two written banks, of the least period; ENABLE set, bank A active. -/
def chart0 : ChartSt :=
  { ChartSt.reset with
    bankA := { written := true, period := 250, phase := 249999, slots := [slotStep] },
    bankB := { written := true, period := 16000, phase := 0, slots := [slotStep] }, active := some false, last := some true, enable := true }
/-- The Chart on the state in which context 0 is at rest. -/
def sCh (c : ChartSt) : State := { sRest with chart := c }

theorem witness_ChartControlResult :
    (Reaches (sCh chart0) .inband 0x30 0x100 ∧ lifecycle (sCh chart0) = .operational) ∧
    ((sCh { chart0 with enable := false }).chart.enable = false ∧ (sCh { chart0 with enable := false }).chart.swap = none ∧
      (sCh { chart0 with enable := false, swap := some ⟨true, none, 0⟩ }).chart.swap = some ⟨true, none, 0⟩) ∧
    ((sCh chart0).chart.swap = none ∧ swapTarget (sCh chart0) = some true ∧ (∀ x ∈ (bankOf (sCh chart0) true).slots, slotCtxBad (sCh chart0) x = false ∧ slotKindBad (sCh chart0) x = false) ∧
      (sCh chart0).chart.active.isSome = true ∧ (sCh chart0).chart.enable = true ∧
      swapTarget (sCh { chart0 with active := none }) = some true ∧ (sCh { chart0 with enable := false }).chart.enable = false) ∧
    ((sCh { chart0 with swap := some ⟨true, none, 0⟩ }).chart.swap.isSome = true) ∧
    (Reaches (sCh { chart0 with active := none, last := none }) .inband 0x30 0x100 ∧ swapTarget (sCh { chart0 with active := none, last := none }) = none) ∧
    (∀ code ∈ [0x3040, 0xA005], let c := { ctx0 pkg0 none with st := .faulted, fault := code }
      let s : State := { sRest with ctxs := [(0, c)] }
      Reaches s .inband 0x30 0x148 ∧ ctx? s (regFld s 0x30 0x140 9 0) = some c ∧ c.st = .faulted) := by
  refine ⟨⟨⟨by decide, by decide⟩, by decide⟩, by decide, by decide, by decide, ⟨⟨by decide, by decide⟩, by decide⟩, ?_⟩
  intro code h; simp only [List.mem_cons, List.mem_nil_iff, or_false] at h
  rcases h with rfl | rfl <;> exact ⟨⟨by decide, by decide⟩, by decide, by decide⟩

/-- A run of the step slot in a phase; a batch slot's run. -/
def sr (p : SlotPhase) : SlotRun := { bankB := false, idx := 0, startT := 1000, endT := 251000, slot := slotStep, phase := p }
def srB (p : SlotPhase) : SlotRun := { sr p with slot := slotBatch }
def sCy (r : List SlotRun) : State := sCh { chart0 with runs := r }
/-- The island of the step slot holds a step. -/
def sBusy (r : List SlotRun) : State := { sRun with chart := { chart0 with runs := r } }
/-- Context 0 in a state, with a step where it is one. -/
def sIn (c : Ctx) (r : List SlotRun) : State := { sCy r with ctxs := [(0, c)] }

theorem witness_ChartTimeResult :
    ((sCy []).chart.active = some false ∧ (sCy []).chart.enable = true ∧ (sCy []).chart.swap = none ∧ (sCy []).qcu.ps.inForce ≠ 4 ∧ chartPs (sCy []) ≠ 4 ∧ 0 < (bankOf (sCy []) false).period) ∧
    (∀ r ∈ (sCy [sr .running, sr .ended]).chart.runs, r.phase = .running ∨ r.phase = .ended) ∧
    ((sCy [sr .waiting]).chart.runs.find? (fun r => r.bankB == false && r.idx == 0 && r.phase == .waiting) = some (sr .waiting) ∧
      (advanceTo 1000 (sCy [sr .waiting])).time.replica < 251000 ∧ islandFree (advanceTo 1000 (sCy [sr .waiting])) (sr .waiting) = true ∧
      islandFree (advanceTo 1000 (sBusy [sr .waiting])) (sr .waiting) = false ∧ slotStep.isStep = true ∧ slotBatch.isStep = false ∧
      251000 ≤ (advanceTo 1000 { sCy [sr .waiting] with time := { sRest.time with replica := 251000 } }).time.replica) ∧
    (chartPs (sCy [sr .waiting]) < 3 ∧ ctx? (sCy [sr .waiting]) slotStep.ctx = some (ctx0 pkg0 none) ∧ prefetchLate (ctx0 pkg0 none) = false ∧ (ctx0 pkg0 none).island = slotStep.island ∧
      (ctx0 pkg0 none).st = .ready) ∧
    (∀ q ∈ [CtxSt.preempted, .loading, .faulted, .unloading], let c := { ctx0 pkg0 (some step0) with st := q }
      ctx? (sIn c [sr .waiting]) slotStep.ctx = some c ∧ prefetchLate c = false ∧ c.island = slotStep.island ∧ c.step = some step0) ∧
    ((∀ p ∈ [SlotPhase.waiting, .due, .ended, .running], (sCy [sr p]).chart.runs.find? (fun r => r.bankB == false && r.idx == 0) = some (sr p)) ∧
      (srB .running).slot.isStep = false ∧ slotStep.preempt = true ∧
      ctx? (delRun false 0 1000 (advanceTo 251000 (sBusy [sr .running]))) slotStep.ctx = some (ctx0 pkg0 (some step0)) ∧ (ctx0 pkg0 (some step0)).step.isSome = true ∧
      (ctx0 pkg0 (some step0)).save = [] ∧ (ctx0 pkg0 (some step0)).island = slotStep.island) := by
  decide

/-- Task 0 has ended with nothing outstanding; a second task of the step, or none. -/
def runEnd : Run := { run0 with ended := true }
def stTwo : Step := { step0 with tasks := [.running 0, .waiting] }
/-- Core 0 waits in WAITEV for event 15 to reach 1. -/
def runEv : Run := { run0 with wait := .waitev 15 1 }

/-- The module in PS4. -/
def sPs4 : State := { sRest with qcu := { sRest.qcu with ps := { sRest.qcu.ps with inForce := 4 } } }

theorem witness_StepEventResult :
    (ctx? (sCore pkg0 step0 runEnd) 0 = some (ctx0 pkg0 (some step0)) ∧ step0.tasks[0]? = some (.running 0) ∧ (Machine.core (sCore pkg0 step0 runEnd) 0).run = some runEnd ∧
      runEnd.ctx = 0 ∧ runEnd.task = 0 ∧ runEnd.ended = true ∧ runEnd.dma = [] ∧ runEnd.mat = none ∧ runEnd.recv = none ∧ (∀ g ∈ runEnd.g.toList, g = 0) ∧
      (∀ t ∈ step0.tasks.set 0 .done, t = .done) ∧ stTwo.tasks[0]? = some (.running 0) ∧ (∃ t ∈ stTwo.tasks.set 0 .done, t ≠ .done)) ∧
    ((∀ r, (Machine.core sRest 0).run = some r → r.ctx ≠ 0) ∧ (Machine.core sRun 0).run = some run0 ∧ run0.ctx = 0 ∧ 0x4003 ≠ 0x4001 ∧ 0x4003 ≠ 0x4002) ∧
    (chartPs sRest ≠ 4 ∧ sRest.time.master ≤ sRest.time.replica ∧ chartPs sPs4 = 4) ∧
    ((∃ e ∈ (sCore pkg0 step0 runEv).cores, ∃ r, e.2.run = some r ∧ r.ctx = 0) ∧
      (∀ e ∈ (sCore pkg0 step0 runEv).cores, ∀ r, e.2.run = some r → r.ctx = 0 →
        r.dma = [] ∧ r.recv = none ∧ (∀ g ∈ r.g.toList, g = 0) ∧ ∃ e v, r.wait = .waitev e v ∧ (BitVec.ofNat 32 (step0.ev.getD e 0) - BitVec.ofNat 32 v).toInt < 0) ∧
      ∃ e ∈ sRun.cores, ∃ r, e.2.run = some r ∧ r.ctx = 0 ∧ r.wait = .none) ∧
    (12 ≤ (15 : BitVec 4).toNat ∧ CoreRuns sRun 0 run0 (ctx0 pkg0 (some step0)) step0) ∧
    (slotNext (sCy [sr .waiting]) false 0 = some 1000 ∧ (bankOf (sCy [sr .waiting]) false).slots[0]? = some slotStep ∧ slotStep.isStep = true ∧ chartPs (sCy [sr .waiting]) ≠ 4 ∧
      ctx? (advanceTo (1000 - regFld (sCy [sr .waiting]) 0xA0 0x100 13 0 * 1000) (sCy [sr .waiting])) slotStep.ctx = some (ctx0 pkg0 none)) := by
  refine ⟨by decide, ⟨(fun r h => by rw [show (Machine.core sRest 0).run = none from rfl] at h; cases h), by decide⟩, by decide, ⟨by decide, ?_, ?_⟩, ⟨by decide, runs0⟩, by decide⟩
  · intro e he r hr hc
    simp only [sCore, List.mem_singleton] at he; subst he
    simp only [Option.some.injEq] at hr; subst hr
    exact ⟨rfl, rfl, by decide, 15, 1, rfl, by decide⟩
  · exact ⟨(0, { Core.reset with run := some run0 }), by decide, run0, rfl, rfl, rfl⟩

end Sys2Proof.Tests
end

