-- ==== Sys2Proof/Tests/Witness5.lean ====
section
/-! SUPPORT. For each statement about the block commands of contexts and the Chart, of search, and of register windows: states and
operands that meet its hypotheses. -/
set_option maxRecDepth 8000
namespace Sys2Proof.Tests
open Sys2Proof Sys2Proof.Machine

/-- A package of 320 bytes: one task, one core, 16 KiB of LOCAL and of SCRATCH; its digest is SHA3-512 of the bytes with the digest 0. -/
def pkgDigest : List Byte :=
  [0x29, 0xD4, 0x25, 0x67, 0xA7, 0xAB, 0xB0, 0x3C, 0xAA, 0x68, 0xDC, 0x7B, 0x37, 0xAA, 0x43, 0x88, 0x5C, 0xE2, 0xCA, 0x88, 0xA8, 0x2A, 0xB6, 0x12, 0x96, 0xE1, 0x5C, 0xB9, 0xB8, 0xB1, 0xD1, 0x6A] ++
  [0x51, 0x8F, 0xCD, 0x90, 0x07, 0x21, 0xBC, 0xA9, 0x2C, 0x8F, 0x6E, 0x56, 0x60, 0x27, 0x7E, 0xC4, 0x1E, 0xC4, 0x98, 0x02, 0xEF, 0xC0, 0xB0, 0x08, 0x5D, 0x4A, 0x02, 0xFE, 0x3E, 0xE3, 0x96, 0xAC]
def pkgBlock : List Byte :=
  [2, 1] ++ leBytes 2 256 ++ leBytes 4 0 ++ leBytes 8 320 ++ leBytes 8 256 ++ leBytes 4 64 ++ leBytes 4 1 ++ leBytes 8 0 ++ leBytes 4 0 ++ leBytes 2 1 ++ leBytes 2 1 ++
  leBytes 8 0 ++ leBytes 2 1 ++ leBytes 2 1 ++ leBytes 4 16 ++ leBytes 4 16 ++ leBytes 28 0 ++ pkgDigest ++ leBytes 96 0 ++
  ([2, 0, 0, 0] ++ leBytes 4 48 ++ leBytes 4 16 ++ leBytes 52 0)
/-- Namespace 1 of one unit, whose first block holds the package in a write-buffer slot. -/
def ns1 : Ns := { units := 1, base := 0, attached := [0], key := 0 }
def sFlash : State :=
  { sQueues with
    islands := [(0, 1)],
    ftl := { FtlSt.reset with rebuilding := false, namespaces := [(1, ns1)], map := [(0, 3 * 2 ^ 34)], slots := [(0, { idx := 0, owner := 0, wseq := 0, data := pkgBlock ++ List.replicate 16064 0 })] } }
/-- The command that loads it. -/
def qLoad : Sqe := { sqe0 with nsid := 1, cdw15 := 8 }
/-- What was read is a good package that fits as context 0 on island 0. -/
def loads : PkgRead × State → Bool
  | (.bytes b, v) => match checkPkg (versionByte v) 1 0 0 b with
    | .good p l => decide (8 ≤ p.scratchKib) && (admitCtx v 0 0 p l).isNone
    | .refused _ _ => false
  | (.lost, _) => false
theorem loads_true : loads (readPkg ns1 0 2 (noteCmd tIo 0x80 qLoad sFlash)) = true := by decide +kernel

theorem bcs_open {s : State} {q : Sqe} (h : conn? s 2 = some { Conn.fresh false false with icDone := true, queue := some (0, 1, 63) }) (a : s.chip.stage = .ready)
    (b : fatalStop s = false) (c : s.qcu.ps.trans = none) (d : s.qcu.ps.inForce ≠ 4) (e : lifecycle s = .operational) (f : q.sgl ≤ 0x400000) : BcsOpen s tIo q :=
  ⟨⟨⟨_, _, h, rfl, rfl⟩, a, b, c, d⟩, e, f⟩

/-- Context 0 with a sequence table, an output record of 64 bytes and a stored DSEQ. -/
def seqIn (st : SeqSt) : Seq := { st := st, pos := 0, maxLen := 8, seed := 1, prompt := [], order := 0, leave := false, ingest := none, pages := [] }
def cSeq (st : Option Step) (q : SeqSt) : Ctx := { ctx0 pkg0 st with seqs := [(0, seqIn q)] }
def sSeq (st : Option Step) (q : SeqSt) : State := { sQueues with islands := [(0, 1)], ctxs := [(0, cSeq st q)] }
/-- An island that holds core 3 beside the one that is bound. -/
def sTwoIslands : State := { sQueues with islands := [(1, 8)] }
/-- A step whose save area holds its core's state. -/
def cSaved : Ctx := { ctx0 pkg0 (some step0) with st := .preempted, save := [(0, { run := run0, cause := 0, acc := [], time := 0, checked := false, wide := false, core := 0, parked := false })] }

theorem loads_split (x : PkgRead × State) (h : loads x = true) :
    ∃ b v p l, x = (.bytes b, v) ∧ checkPkg (versionByte v) 1 0 0 b = .good p l ∧ 8 ≤ p.scratchKib ∧ admitCtx v 0 0 p l = none := by
  obtain ⟨r, v⟩ := x
  cases r with
  | lost => cases h
  | bytes b =>
    simp only [loads] at h
    cases hc : checkPkg (versionByte v) 1 0 0 b with
    | refused c k => rw [hc] at h; cases h
    | good p l =>
      rw [hc] at h
      simp only [Bool.and_eq_true, decide_eq_true_eq, Option.isNone_iff_eq_none] at h
      exact ⟨b, v, p, l, rfl, hc, h.1, h.2⟩

theorem witness_ContextCommandResult :
    (BcsOpen sFlash tIo qLoad ∧ sFlash.ocm.diag = false ∧
      ns? (noteCmd tIo 0x80 qLoad sFlash) 1 = some ns1 ∧
      ∃ b v p l, readPkg ns1 0 (versionByte (noteCmd tIo 0x80 qLoad sFlash)) (noteCmd tIo 0x80 qLoad sFlash) = (.bytes b, v) ∧
        checkPkg (versionByte v) 1 0 0 b = .good p l ∧ 8 ≤ p.scratchKib ∧ admitCtx v 0 0 p l = none) ∧
    (BcsOpen sRest tIo { sqe0 with cdw12 := 0 } ∧ ctx? sRest 1023 = none ∧ ctx? sRest 0 = some (ctx0 pkg0 none) ∧ (ctx0 pkg0 none).st ≠ .unloading ∧ (ctx0 pkg0 none).step = none ∧
      cSaved.step = some step0 ∧ cSaved.save ≠ [] ∧ cSaved.st ≠ .unloading ∧ ctx? sRun 0 = some (ctx0 pkg0 (some step0)) ∧ (ctx0 pkg0 (some step0)).save = []) ∧
    (bindRefusal (noteCmd tIo 0x88 { sqe0 with cdw12 := 47, cdw13 := 1, cdw14 := 0x8000 } sQueues) 47 (1 + 2 ^ 47) = none ∧ (∃ e ∈ sTwoIslands.islands, e.1 ≠ 0 ∧ e.2 &&& 8 ≠ 0)) ∧
    ((0 < (ctx0 pkg0 none).pkg.maxSeqs ∧ smFind (ctx0 pkg0 none).seqs 0 = none ∧ 64 ≤ (ctx0 pkg0 none).pkg.maxSeqLen ∧
        (ctx0 pkg0 none).committed + (ctx0 pkg0 none).pkg.backing 64 ≤ (ctx0 pkg0 none).pkg.flashBytes) ∧
      ctx? (sSeq none .pending) 0 = some (cSeq none .pending) ∧ 0 < (cSeq none .run).pkg.maxSeqs ∧ (smFind (cSeq none .run).seqs 0).isSome = true ∧
      smFind (cSeq none .run).seqs 0 = some (seqIn .run) ∧ (seqIn .pending).st = .pending ∧ (cSeq none .run).step = none ∧ (seqIn .run).st ≠ .pending ∧ (cSeq (some step0) .run).step = some step0 ∧
      smFind (cSeq none .run).seqs 4095 = none) := by
  refine ⟨⟨bcs_open rfl rfl rfl rfl (by decide) (by decide) (by decide), rfl, by decide, ?_⟩, ⟨bcs_open rfl rfl rfl rfl (by decide) (by decide) (by decide), by decide⟩, by decide, by decide⟩
  rw [show versionByte (noteCmd tIo 0x80 qLoad sFlash) = 2 from by decide]
  exact loads_split _ loads_true

/-- A Write Chart block: two slots in a cycle of 500 us. -/
def chartBlock : List Byte :=
  [2, 0] ++ leBytes 2 2 ++ leBytes 4 500 ++ leBytes 4 499999 ++ leBytes 4 0 ++ leBytes 4 0x00FA0000 ++ leBytes 4 0x00240000 ++ leBytes 8 0 ++ leBytes 4 0x00FA00FA ++ leBytes 4 0x00040000 ++ leBytes 8 0
def slotAt (i : Nat) : Slot :=
  ⟨BitVec.ofNat 32 (fld chartBlock (16 + 16 * i) 4), BitVec.ofNat 32 (fld chartBlock (20 + 16 * i) 4), BitVec.ofNat 32 (fld chartBlock (24 + 16 * i) 4), BitVec.ofNat 32 (fld chartBlock (28 + 16 * i) 4)⟩
def slots2 : List Slot := [{ w0 := 0x00FA0000, w1 := 0x00240000, w2 := 0, w3 := 0 }, { w0 := 0x00FA00FA, w1 := 0x00040000, w2 := 0, w3 := 0 }]
def outRec (n : Nat) : OutRec := { dseq := n, step := n, seq := 0, endMark := false, tokValid := true, token := 5, pos := n, payload := [] }
/-- A context that holds two records not acknowledged. -/
def cOut : Ctx := { ctx0 pkg0 none with dseq := 2, out := [outRec 1, outRec 2] }
def sOut : State := { sRest with ctxs := [(0, cOut)] }

theorem witness_ChartAndDrainCommandResult :
    (let q := { sqe0 with cdw12 := 0, sgl := 48 }
     let s := sCh { chart0 with active := some true }
     BcsOpen s tIo q ∧ s.chart.active ≠ some false ∧ s.chart.swap = none ∧ fld chartBlock 0 1 = versionByte (noteCmd tIo 0x81 q s) ∧ fld chartBlock 1 1 = 0 ∧ fld chartBlock 2 2 = 2 ∧ fld chartBlock 4 4 = 500 ∧
       fld chartBlock 8 4 < 500 * 1000 ∧ fld chartBlock 12 4 = 0 ∧ q.sgl = 16 + 16 * 2 ∧
       (List.range 2).map slotAt = slots2 ∧
       (∀ x ∈ slots2, slotFieldsOk 500 x = true) ∧ slotsInRange 500 slots2 0 = true ∧ anyClash slots2 = false ∧ (∀ x ∈ slots2, slotCtxBad (noteCmd tIo 0x81 q s) x = false ∧ slotKindBad (noteCmd tIo 0x81 q s) x = false)) ∧
    (BcsOpen (sCh chart0) tIo sqe0 ∧ swapTarget (noteCmd tIo 0x8C sqe0 (sCh chart0)) = some true ∧
      (∀ x ∈ (bankOf (noteCmd tIo 0x8C sqe0 (sCh chart0)) true).slots, slotCtxBad (noteCmd tIo 0x8C sqe0 (sCh chart0)) x = false ∧ slotKindBad (noteCmd tIo 0x8C sqe0 (sCh chart0)) x = false) ∧
      (sCh chart0).chart.active.isSome = true ∧ (sCh chart0).chart.enable = true ∧ (sCh { chart0 with enable := false }).chart.enable = false) ∧
    (let q := { sqe0 with cdw2 := 1, sgl := 128 }
     BcsOpen sOut tIo q ∧ ctx? sOut 0 = some cOut ∧ 1 ≤ cOut.dseq ∧ cOut.dseq < 3 ∧ (cOut.out.filter fun r => max cOut.acked 1 < r.dseq).length = 1) ∧
    (let q := { sqe0 with cdw13 := 1, sgl := 128 }
     BcsOpen sOut tIo q ∧ (cOut.pkg.tensors.filter Tensor.noObj).length = 1 ∧ 0 < min (1 - 0) ((128 - 32) / 96) ∧ 1 ≤ 1) := by
  exact ⟨⟨bcs_open rfl rfl rfl rfl (by decide) (by decide) (by decide), by decide⟩, ⟨bcs_open rfl rfl rfl rfl (by decide) (by decide) (by decide), by decide⟩,
    ⟨bcs_open rfl rfl rfl rfl (by decide) (by decide) (by decide), by decide⟩, ⟨bcs_open rfl rfl rfl rfl (by decide) (by decide) (by decide), by decide⟩⟩

end Sys2Proof.Tests
end

