-- ==== Sys2Proof/Tests/Witness6.lean ====
section
/-! SUPPORT. For each statement about search, register windows and the NVM commands: states and operands that meet its hypotheses. -/
set_option maxRecDepth 8000
namespace Sys2Proof.Tests
open Sys2Proof Sys2Proof.Machine

/-- An index of one dimension, one sub-quantizer, E8 vectors; READY and empty, or in another state. -/
def cfg1 : IdxCfg :=
  { metric := 0, e16 := false, dim := 1, m := 1, degree := 16, buildL := 32, alpha := 0x3F800000, shard := 0, maxVec := 16, slotBytes := 4096, xmBytes := 0, flashBytes := 0, codebook := [] }
def idxIn (st : IdxSt) : Index :=
  { cfg := cfg1, st := st, entry := none, last := 0, floor := 0, lastPrev := 0, lastT := 0, snapshot := 0, nodes := [], deltaUsed := 0, lost := [], lostId := none, compact := none, drop := none }
def pkgEnc : Pkg := { pkg0 with encoder := true }
/-- Index 0 stands ready, context 0 is an encoder's, and namespace 1 is unmapped. -/
def sIdx (i : Index) : State :=
  { sQueues with islands := [(0, 1)], ctxs := [(0, ctx0 pkgEnc none)], sre := { SreSt.reset with idx := [(0, i)] }, ftl := { FtlSt.reset with rebuilding := false, namespaces := [(1, ns1)] } }
def sSearch : State := sIdx (idxIn .ready)
/-- A query block: K = L = 1, an FP32 query of 4 bytes. -/
def queryBlock (index : Nat) : List Byte :=
  [2] ++ leBytes 1 index ++ leBytes 2 0 ++ leBytes 2 1 ++ leBytes 2 1 ++ leBytes 2 0 ++ [0, 5] ++ leBytes 2 0 ++ leBytes 2 0 ++ leBytes 4 0 ++ leBytes 4 0 ++ leBytes 8 0 ++ leBytes 4 4 ++ leBytes 28 0 ++ leBytes 4 0x3F800000
/-- A scan block over one block of namespace 1, with a program that ends at once. -/
def scanBlock : List Byte := [2, 1, 0, 0] ++ leBytes 4 1 ++ leBytes 8 0 ++ leBytes 8 1 ++ leBytes 8 0 ++ leBytes 4 16 ++ leBytes 28 0 ++ ([2, 0, 1, 0, 0, 0, 0, 0] ++ leBytes 8 0x20)
/-- An ingest block of one record, whose field 0 holds one token. -/
def ingBlock (index : Nat) : List Byte :=
  [2] ++ leBytes 1 index ++ leBytes 2 0 ++ leBytes 4 1 ++ leBytes 8 0 ++ leBytes 4 1 ++ leBytes 4 7 ++ leBytes 8 0 ++ leBytes 8 1 ++ leBytes 8 1 ++ leBytes 4 16 ++ leBytes 12 0 ++
    ([16, 0, 0, 0, 0, 1, 0, 0] ++ [0x0A, 1, 4, 0] ++ leBytes 4 5)
/-- A mutation that drops index 15. -/
def mutBlock : List Byte := [2, 15] ++ leBytes 2 2 ++ leBytes 60 0
/-- Level 1. -/
def sLevel1 : State := { sSearch with chip := { sSearch.chip with level1 := true } }
def one (l : List Byte) : List Byte := 1 :: l.drop 1

theorem open_idx {s : State} {q : Sqe} (h : s = sSearch ∨ s = sLevel1) (f : q.sgl ≤ 0x400000) : BcsOpen s tIo q := by
  rcases h with rfl | rfl <;> exact bcs_open rfl rfl rfl rfl (by decide) (by decide) f

theorem witness_SearchCommandResult :
    (∀ index ∈ [0, 1], let q := { sqe0 with cdw10 := 112, sgl := 68 }
      BcsOpen sSearch tIo q ∧ (queryBlock index).length = q.sgl ∧ fld (queryBlock index) 0 1 = versionByte sSearch ∧ q.sgl = 64 + fld (queryBlock index) 32 4 + fld (queryBlock index) 20 4 ∧
      (index = 0 → ∃ v, querySubmitCheck (queryBlock index) 112 (noteCmd tIo 0x83 q sSearch) = (none, v)) ∧
      (index = 1 → ∃ c v, querySubmitCheck (queryBlock index) 112 (noteCmd tIo 0x83 q sSearch) = (some c, v))) ∧
    (let q := { sqe0 with cdw10 := 64, sgl := 80 }
     let u := mteBusy (noteCmd tIo 0x87 q sSearch)
     let p : ScanParm := { mode := 1, nsid := 1, slba := 0, nlb := 1, keep := 0, prog := slice scanBlock 64 16, cap := 64 }
     BcsOpen sSearch tIo q ∧ scanBlock.length = q.sgl ∧ q.sgl = 64 + fld scanBlock 32 4 ∧ fld scanBlock 1 1 = 1 ∧ zeroRange scanBlock 2 4 = true ∧ zeroRange scanBlock 36 64 = true ∧ fld scanBlock 16 8 = 1 ∧
       fld scanBlock 24 8 = 0 ∧ fld scanBlock 4 4 = 1 ∧ fld scanBlock 8 8 = 0 ∧ progBad p.prog = none ∧ ns? u p.nsid = some ns1 ∧ 0 + 1 ≤ 4 * ns1.units ∧
       ∃ x v, scanLoop p ns1 ((0 + 1) * 4096) (1 * 512 + 1) (0 * 4096) { unit := none, out := [], seen := 0, passed := 0, errs := 0, next := none } (cntAdd 0xD8 0x800 1 u) = (.ok (), x, v)) ∧
    (∀ index ∈ [0, 1], let q := { sqe0 with sgl := 80 }
      let u := mteBusy (noteCmd tIo 0x89 q sSearch)
      BcsOpen sSearch tIo q ∧ (ingBlock index).length = q.sgl ∧ q.sgl = 64 + fld (ingBlock index) 48 4 ∧ fld (ingBlock index) 0 1 = versionByte sSearch ∧ sSearch.chip.level1 = false ∧ u.ftl.readOnly = false ∧
      (index = 0 → ingestRefusal (ingBlock index) u = none) ∧ (index = 1 → ingestRefusal (ingBlock index) u = some (.code 0xB005))) ∧
    (let q := { sqe0 with sgl := 64 }
     let u := noteCmd tIo 0x8D q sSearch
     BcsOpen sSearch tIo q ∧ mutBlock.length = q.sgl ∧ fld mutBlock 0 1 = versionByte sSearch ∧ fld mutBlock 1 1 = 15 ∧ 1 ≤ fld mutBlock 2 2 ∧ zeroRange mutBlock 4 8 = true ∧ zeroRange mutBlock 16 64 = true ∧
       sSearch.ftl.readOnly = false ∧ (∀ x ∈ sSearch.ftl.waiting, x.op < 0x80) ∧ ∃ n, admission { tag := tIo, op := 0x8D, sqe := q, data := mutBlock, since := now u, held := false } u = .go n) ∧
    (BcsOpen sLevel1 tIo { sqe0 with sgl := 64 } ∧ (one mutBlock).length = 64 ∧ fld (one mutBlock) 0 1 = versionByte sLevel1 ∧ sLevel1.chip.level1 = true) := by
  refine ⟨?_, ⟨open_idx (.inl rfl) (by decide), by decide, by decide, by decide, by decide, by decide, by decide, by decide, by decide, by decide, by decide, by decide, by decide, _, _, rfl⟩, ?_,
    ⟨open_idx (.inl rfl) (by decide), by decide, by decide, by decide, by decide, by decide, by decide, by decide, by decide, _, rfl⟩, ⟨open_idx (.inr rfl) (by decide), by decide⟩⟩
  · intro i h; simp only [List.mem_cons, List.mem_nil_iff, or_false] at h
    rcases h with rfl | rfl
    · exact ⟨open_idx (.inl rfl) (by decide), by decide, by decide, by decide, fun _ => ⟨_, rfl⟩, fun h => absurd h (by decide)⟩
    · exact ⟨open_idx (.inl rfl) (by decide), by decide, by decide, by decide, fun h => absurd h (by decide), fun _ => ⟨_, _, rfl⟩⟩
  · intro i h; simp only [List.mem_cons, List.mem_nil_iff, or_false] at h
    rcases h with rfl | rfl <;> exact ⟨open_idx (.inl rfl) (by decide), by decide⟩

/-- A query in flight, and one that merges. -/
def parm1 : QParm :=
  { index := 0, filter := false, expand := false, explicit := false, k := 1, l := 1, rerank := 0, expandMax := 0, qformat := 5, group := 0, deadlineUs := 0, epoch := 0, q := leBytes 4 0x3F800000, prog := [] }
def query1 (m : Option Merge) : Query := { parm := parm1, origin := .host tIo, order := 0, target := 0, imm := false, opened := some (0, 0), merge := m, ownDone := false }
def merge1 : Merge := { target := 0, deadline := 1000, members := [], skipped := [], got := [] }
def sQuery (m : Option Merge) : State := { sSearch with sre := { sSearch.sre with queries := [(1, query1 m)] } }
def sCompact : State := sIdx { idxIn .compacting with compact := some (0, none) }
/-- An ingest whose records are all embedded. -/
def ing1 : Ingest := { tag := tIo, index := 0, ctx := 0, epoch := 1, recs := [{ id := 7, tokens := [5], rec_ := [], seq := none, vec := some [0, 0, 0, 0] }] }
def sIngest : State := { sSearch with sre := { sSearch.sre with ingests := [(1, ing1)] } }

theorem witness_SearchEventResult :
    (smFind (sQuery none).sre.queries 1 = some (query1 none) ∧ smFind (sQuery (some merge1)).sre.queries 1 = some (query1 (some merge1)) ∧ (query1 (some merge1)).merge = some merge1) ∧
    (idx? sCompact 0 = some { idxIn .compacting with compact := some (0, none) } ∧ IdxSt.compacting ≠ .damaged) ∧
    (idx? sSearch 0 = some (idxIn .ready) ∧ (idxIn .ready).compact = none ∧ sSearch.sre.queries = [] ∧ IdxSt.ready ≠ .damaged) ∧
    (smFind sIngest.sre.ingests 1 = some ing1 ∧ (∀ r ∈ ing1.recs, r.vec.isSome = true) ∧ slotsUsed sIngest + sIngest.ftl.progs.length + ing1.recs.length ≤ 62992) ∧
    Reaches sReady .inband 0xB0 0x100 := by
  refine ⟨by decide, by decide, by decide, by decide, ⟨by decide, by decide⟩⟩

/-- A query that the SEARCH instruction submits: the block lies at window address 0. -/
def sPeer : State :=
  { sCore pkg0 step0 (rS 112) with
    sre := { SreSt.reset with idx := [(0, idxIn .ready)] },
    ocm := { OcmSt.reset with loc := ((queryBlock 0).zipIdx.map fun e => (e.2, e.1)).filter fun e => e.2 != 0 } }
theorem witness_PeerSearchAccepted :
    CoreRuns sPeer 0 (rS 112) (ctx0 pkg0 (some step0)) step0 ∧ sPeer.chip.level1 = false ∧ (getA (rS 112) 0).toNat = 0 ∧ (getS (rS 112) 0).toNat = 112 ∧ CanRead sPeer 0 (rS 112) step0 (Ext.one 0 64) ∧
      CanWrite sPeer 0 (rS 112) (Ext.one 0 112) ∧ ∃ b u rest v w, instrRead sPeer 0 0 0 64 = (.data b, u) ∧ min (fld b 32 4) 16384 + min (fld b 20 4) 4096 = 4 ∧
      CanRead u 0 (rS 112) step0 (Ext.one 64 4) ∧ instrRead u 0 0 64 4 = (.data rest, v) ∧ querySubmitCheck (b ++ rest) 112 v = (none, w) := by
  exact ⟨⟨by decide, rfl, rfl, rfl, rfl, rfl⟩, by decide, by decide, by decide, ⟨by decide, by decide, by decide⟩, ⟨by decide, by decide⟩,
    _, _, _, _, _, rfl, by decide, ⟨by decide, by decide, by decide⟩, rfl, rfl⟩

/-- A window of 2 words from 0xFF8 of the global page, and its request on the sideband. -/
def qWin (n : Nat) (off : Nat) : Sqe := { sqe0 with cdw12 := 0x20, cdw13 := BitVec.ofNat 32 off, cdw14 := BitVec.ofNat 32 n, sgl := 4 * n }
def sideReq (op off n : Nat) : List Byte := [1] ++ leBytes 1 op ++ [0x20] ++ leBytes 1 n ++ leBytes 2 off ++ [0, 0] ++ List.replicate (4 * n) 0

theorem witness_RegisterWindowResult :
    (BcsOpen sQueues tIo (qWin 2 0x100) ∧ onAdmin sQueues tIo = false ∧
      (∃ l v, accessRefusal .inband 0x20 0x100 2 64 none (noteCmd tIo 0x86 (qWin 2 0x100) sQueues) = none ∧ readWords .inband 0x20 2 0x100 (noteCmd tIo 0x86 (qWin 2 0x100) sQueues) = (l, v)) ∧
      accessRefusal .inband 0x20 0x100 2 64 (some (wordsOf (leBytes 8 0) 2)) (noteCmd tIo 0x91 (qWin 2 0x100) sQueues) = none ∧
      0x102 % 4 ≠ 0 ∧ 0xFFC % 4 = 0 ∧ 0xFFC < 0xFFC + 4 * (2 - 1)) ∧
    (sReady.chip.powered = true ∧ sReady.chip.stage ≠ .powerGood ∧ 8 ≤ (sideReq 1 0x100 2).length ∧ fld (sideReq 1 0x100 2) 0 1 = 1 ∧ fld (sideReq 1 0x100 2) 2 1 = 0x20 ∧ fld (sideReq 1 0x100 2) 3 1 = 2 ∧
      fld (sideReq 1 0x100 2) 4 2 = 0x100 ∧ fld (sideReq 1 0x100 2) 1 1 = 1 ∧ (∃ l v, accessRefusal .sideband 0x20 0x100 2 16 none sReady = none ∧ readWords .sideband 0x20 2 0x100 sReady = (l, v)) ∧
      fld (sideReq 2 0x100 2) 1 1 = 2 ∧ accessRefusal .sideband 0x20 0x100 2 16 (some (wordsOf ((sideReq 2 0x100 2).drop 8) 2)) sReady = none ∧ (sideReq 2 0x100 2).length = 8 + 4 * 2 ∧
      fld (sideReq 1 0x102 2) 4 2 % 4 ≠ 0) := by
  exact ⟨⟨bcs_open rfl rfl rfl rfl (by decide) (by decide) (by decide), by decide, ⟨_, _, by decide, rfl⟩, by decide, by decide, by decide, by decide⟩,
    by decide, by decide, by decide, by decide, by decide, by decide, by decide, by decide, ⟨_, _, by decide, rfl⟩, by decide⟩

/-- Namespace 1 with no block mapped, with a block whose unit cannot be read, and read-only. -/
def sNvm (m : SMap Nat) (ro : Bool) : State := { sQueues with ftl := { FtlSt.reset with rebuilding := false, namespaces := [(1, ns1)], map := m, readOnly := ro } }
def qNvm (sgl : Nat) : Sqe := { sqe0 with nsid := 1, sgl := sgl }
def wNvm (op : Nat) (q : Sqe) (b : List Byte) : WaitWrite :=
  { tag := tIo, op := op, sqe := q, data := b, since := now (mteBusy (noteCmd tIo op q (sNvm [] false))), held := false }
/-- A command is admitted and carried out at once. -/
def writes (op : Nat) (q : Sqe) (b : List Byte) : Bool :=
  match admission (wNvm op q b) (mteBusy (noteCmd tIo op q (sNvm [] false))) with
  | .go c => match applyWrite ns1 (wNvm op q b) (modFtl (fun x => { x with waiting := [], credit := x.credit - c }) (mteBusy (noteCmd tIo op q (sNvm [] false)))) with
    | (none, v) => !v.pwr.writeThrough
    | (some _, _) => false
  | _ => false

theorem witness_NvmCommandResult :
    (∀ m ro q, q = qNvm 4096 ∨ q = qNvm 0 ∨ q = qNvm 16 → QueueOpen (sNvm m ro) tIo ∧ lifecycle (sNvm m ro) = .operational ∧ nvmNs tIo q (sNvm m ro) = some ns1) ∧
    (let q := qNvm 4096
     1 ≤ 1024 ∧ 0 + 1 ≤ 4 * ns1.units ∧ q.sgl = 1 * 4096 ∧ (∃ b v, nsRead ns1 0 (1 * 4096) (mteBusy (noteCmd tIo 0x02 q (sNvm [] false))) = (.ok b, v)) ∧
       (∃ e v, nsRead ns1 0 (1 * 4096) (mteBusy (noteCmd tIo 0x02 q (sNvm [(0, 2 ^ 34)] false))) = (.error e, v)) ∧ writes 0x01 q (List.replicate 4096 1) = true) ∧
    (let q := qNvm 0
     q.sgl = 0 ∧ (∃ b v, nsRead ns1 0 (1 * 4096) (mteBusy (noteCmd tIo 0x0C q (sNvm [] false))) = (.ok b, v)) ∧ writes 0x08 q [] = true) ∧
    (let q := { qNvm 16 with cdw11 := 4 }
     let d := leBytes 4 0 ++ leBytes 4 1 ++ leBytes 8 3
     q.sgl = 16 * (q.cdw10.toNat % 256 + 1) ∧ (∀ r ∈ dsmRanges q d, r.1 + r.2 ≤ 4 * ns1.units) ∧ bit q.cdw11.toNat 2 = true ∧ bit (qNvm 16).cdw11.toNat 2 = false ∧ writes 0x09 q d = true) ∧
    ((sNvm [] false).ftl.waiting = [] ∧ (sNvm [] false).ftl.readOnly = false ∧ (sNvm [] true).ftl.readOnly = true) := by
  refine ⟨?_, ⟨by decide, by decide, by decide, ?_, ⟨_, _, rfl⟩, by decide +kernel⟩, ⟨by decide, ?_, by decide +kernel⟩, ⟨by decide, by decide, by decide, by decide, by decide +kernel⟩, by decide⟩
  · intro m ro q h
    refine ⟨⟨⟨_, _, rfl, rfl, rfl⟩, rfl, by cases ro <;> rfl, rfl, by simp [sNvm, sQueues, QcuSt.reset]⟩, by cases ro <;> rfl, ?_⟩
    rcases h with rfl | rfl | rfl <;> rfl
  all_goals exact ⟨_, _, rfl⟩

end Sys2Proof.Tests
end

