-- ==== Sys2Proof/Tests/Witness7.lean ====
section
/-! SUPPORT. For each statement about connections, capsules and admin commands: states and operands that meet its hypotheses. -/
set_option maxRecDepth 8000
namespace Sys2Proof.Tests
open Sys2Proof Sys2Proof.Machine

/-- Connection 1 has exchanged ICReq and is no queue yet; controllers 0 stands, or none. -/
def connIc (disc : Bool) : Conn := { Conn.fresh disc false with icDone := true }
def sFab (disc : Bool) (ctrls : SMap Ctrl) : State := { sReady with qcu := { QcuSt.reset with conns := [(1, connIc disc)], ctrls := ctrls } }
/-- Controller 0 of `sQueues`. -/
def ctrl0 : Ctrl := { Ctrl.fresh 1 120 0 false with cc := 1 }
/-- Connect data: CNTLID at 16, SUBNQN at 256. -/
def connData (cntlid : Nat) (nqn : List Byte) : List Byte := List.replicate 16 0 ++ leBytes 2 cntlid ++ List.replicate 238 0 ++ padTo 256 nqn ++ List.replicate 512 0
/-- An entry of size SQSIZE for queue number `qid`. -/
def qCon (qid size : Nat) : Sqe := { sqe0 with cdw10 := BitVec.ofNat 32 (65536 * qid), cdw11 := BitVec.ofNat 32 size, sgl := 1024 }

theorem nqn_slice {n : Nat} (x : List Byte) (h : x.length ≤ 256) : slice (padTo 1024 (connData n x)) 256 256 = padTo 256 x := by
  have hp : (padTo 256 x).length = 256 := by simp only [padTo, List.length_append, List.length_replicate]; omega
  have ha : (List.replicate 16 (0 : Byte) ++ leBytes 2 n ++ List.replicate 238 0).length = 256 := by
    simp only [List.length_append, List.length_replicate, leBytes, List.length_cons, List.length_nil]
  unfold slice
  simp only [show ((padTo 1024 (connData n x)).drop 256).take 256 = padTo 256 x from by
    have h1 : padTo 1024 (connData n x) = (List.replicate 16 (0 : Byte) ++ leBytes 2 n ++ List.replicate 238 0) ++ (padTo 256 x ++ (List.replicate 512 0 ++ List.replicate (1024 - (connData n x).length) 0)) := by
      rw [padTo, connData]; simp only [List.append_assoc]
    rw [h1, List.drop_left' ha, List.take_left' hp]]
  rw [hp]; simp

theorem admin_open {s : State} {k : Ctrl} (h : conn? s 1 = some { Conn.fresh false false with icDone := true, queue := some (0, 0, 31) }) (a : s.chip.stage = .ready)
    (b : fatalStop s = false) (c : s.qcu.ps.trans = none) (d : s.qcu.ps.inForce ≠ 4) (e : smFind s.qcu.ctrls 0 = some k) : AdminOpen s tAdmin 0 k :=
  ⟨⟨⟨_, _, h, rfl, rfl⟩, a, b, c, d⟩, by unfold queueOf; rw [show tAdmin.conn = 1 from rfl, h]; rfl, e⟩

theorem witness_FabricsCommandResult :
    (conn? (sFab false []) 1 = some (connIc false) ∧ conn? (sFab true []) 1 = some (connIc true) ∧ (sFab false []).chip.stage = .ready ∧ (connIc true).icDone = true ∧ (connIc true).queue = none ∧
      (qCon 0 31).sgl = 1024 ∧ (qCon 0 31).cdw10.toNat % 65536 = 0 ∧
      slice (padTo 1024 (connData 0xFFFF subNqn)) 256 256 = padTo 256 subNqn ∧ slice (padTo 1024 (connData 0xFFFF discNqn)) 256 256 = padTo 256 discNqn ∧
      (qCon 0 31).cdw10.toNat / 65536 = 0 ∧ fld (padTo 1024 (connData 0xFFFF subNqn)) 16 2 = 0xFFFF ∧ (qCon 0 31).cdw11.toNat % 65536 = 31 ∧
      (sFab false []).qcu.ctrls.length < 256 ∧ smFind (sFab false []).qcu.ctrls 0 = none ∧ (∀ j < 0, smFind (sFab false []).qcu.ctrls j ≠ none) ∧
      smFind (sFab false [(0, ctrl0)]).qcu.ctrls 1 = none ∧ (∀ j < 1, smFind (sFab false [(0, ctrl0)]).qcu.ctrls j ≠ none)) ∧
    ((qCon 1024 4095).cdw10.toNat / 65536 = 1024 ∧ (qCon 1024 4095).cdw11.toNat % 65536 = 4095 ∧ fld (padTo 1024 (connData 0 subNqn)) 16 2 = 0 ∧ smFind (sFab false [(0, ctrl0)]).qcu.ctrls 0 = some ctrl0 ∧
      ctrl0.discovery = false ∧ ctrl0.cc % 2 = 1 ∧ ioQueues (sFab false [(0, ctrl0)]) < 1024 ∧ (∀ e ∈ (sFab false [(0, ctrl0)]).qcu.conns, ∀ n, e.2.queue ≠ some (0, 1024, n))) ∧
    (QueueOpen sQueues tIo ∧ queueOf sQueues tIo.conn = some (0, 1)) ∧
    (AdminOpen sQueues tAdmin 0 ctrl0 ∧ (∃ v, property ctrl0 0x00 = some (v, 8)) ∧ property ctrl0 0x1C = some (1, 4) ∧ (0x4E564D65 : Word) ≠ 0x4E564D64 ∧
      bits (0x4000 : Word).toNat 15 14 = 1 ∧ bits (0x8001 : Word).toNat 15 14 = 2) := by
  refine ⟨⟨by decide, by decide, by decide, by decide, by decide, by decide, by decide, nqn_slice _ (by decide), nqn_slice _ (by decide), by decide +kernel⟩, ⟨by decide, by decide, by decide +kernel, rfl, rfl, rfl, by decide, ?_⟩, ⟨⟨⟨_, _, rfl, rfl, rfl⟩, rfl, rfl, rfl, by decide⟩, rfl⟩,
    admin_open rfl rfl rfl rfl (by decide) rfl, ⟨_, rfl⟩, by decide⟩
  intro e he n; simp only [sFab, List.mem_singleton] at he; subst he; simp [connIc, Conn.fresh]

/-- Controller 0 in another state. -/
def sCtrl (k : Ctrl) : State := { sQueues with qcu := { sQueues.qcu with ctrls := [(0, k)] } }
/-- Connection 2 with a command whose data is still awaited. -/
def sAwait : State :=
  { sQueues with qcu := { sQueues.qcu with
      conns := [(1, { connIc false with queue := some (0, 0, 31) }),
                (2, { connIc false with queue := some (0, 1, 63), outst := [{ cid := 9, op := 1, sqe := { sqe0 with sgl := 4096 }, data := [], need := 4096, asked := 0, r2ts := [], level1 := false }] })] } }

theorem witness_AdminCommandResult :
    (AdminOpen sQueues tAdmin 0 ctrl0 ∧ sqe0.sgl ≤ 0x400000) ∧
    (∃ b, identify (noteCmd tAdmin 0x06 { sqe0 with cdw10 := 1, sgl := 4096 } sQueues) 0 1 0 0 = .ok b) ∧
    (∃ b, let q := { sqe0 with cdw10 := 0x000F8001, sgl := 64 }
      logPage (noteCmd tAdmin 0x02 q sQueues) ctrl0 (q.cdw10.toNat % 256) = some b ∧ 0 % 4 = 0 ∧ q.sgl = 4 * (q.cdw10.toNat / 65536 + 65536 * (q.cdw11.toNat % 65536) + 1)) ∧
    ((4 : Word).toNat % 32 ≤ 4 ∧ bit (2 : Word).toNat 31 = false ∧ (0x0A : Word).toNat % 256 ∈ [0x01, 0x04, 0x05, 0x0A]) ∧
    (bits (0x2000B : Word).toNat 10 8 < 3 ∧ ∃ v, featValue (noteCmd tAdmin 0x0A { sqe0 with cdw10 := 0x0B } sQueues) ctrl0 0x0B false = some v) ∧
    (ctrl0.aerCids.contains tAdmin.cid = false ∧ ctrl0.aerCids.length < 16 ∧ ctrl0.held = [] ∧
      AdminOpen (sCtrl { ctrl0 with held := [⟨2, 0, 4⟩] }) tAdmin 0 { ctrl0 with held := [⟨2, 0, 4⟩] } ∧ { ctrl0 with held := [⟨2, 0, 4⟩] }.held = ⟨2, 0, 4⟩ :: []) ∧
    (AdminOpen (sCtrl { ctrl0 with aerCids := List.range' 100 16 }) tAdmin 0 { ctrl0 with aerCids := List.range' 100 16 } ∧ (List.range' 100 16).contains tAdmin.cid = false ∧ 16 ≤ (List.range' 100 16).length) ∧
    (∀ n, connOf (noteCmd tAdmin 0x08 { sqe0 with cdw10 := 7 } sQueues) 0 ((7 : Word).toNat % 65536) ≠ some n) ∧
    (AdminOpen sAwait tAdmin 0 ctrl0 ∧ ∃ x o, (0x00090001 : Word).toNat % 65536 ≠ 0 ∧ connOf (noteCmd tAdmin 0x08 { sqe0 with cdw10 := 0x00090001 } sAwait) 0 1 = some 2 ∧
      conn? (noteCmd tAdmin 0x08 { sqe0 with cdw10 := 0x00090001 } sAwait) 2 = some x ∧ x.outst.find? (fun o => o.cid == (0x00090001 : Word).toNat / 65536) = some o ∧ o.need ≠ 0) := by
  refine ⟨⟨admin_open rfl rfl rfl rfl (by decide) rfl, by decide⟩, ⟨_, rfl⟩, ⟨_, rfl, by decide, by decide⟩, by decide, ⟨by decide, _, rfl⟩,
    ⟨by decide, by decide, rfl, admin_open rfl rfl rfl rfl (by decide) rfl, rfl⟩, ⟨admin_open rfl rfl rfl rfl (by decide) rfl, by decide, by decide⟩, ?_,
    admin_open rfl rfl rfl rfl (by decide) rfl, _, _, by decide, rfl, rfl, rfl, by decide⟩
  intro n h; rw [show connOf (noteCmd tAdmin 0x08 { sqe0 with cdw10 := 7 } sQueues) 0 ((7 : Word).toNat % 65536) = none from rfl] at h; cases h

/-- Namespaces 1 to `n`, of one unit each, with `att` attached to namespace 1. -/
def sNs (n : Nat) (att : List Nat) : State :=
  { sQueues with ftl := { FtlSt.reset with rebuilding := false, namespaces := (List.range n).map fun i => (i + 1, { units := 1, base := i, attached := att, key := 0 }) } }
/-- Create data: NSZE and NCAP. -/
def nsData (blocks : Nat) : List Byte := leBytes 8 blocks ++ leBytes 8 blocks
/-- A state that has staged 4,096 bytes at offset 0. -/
def sStaged : State := { sQueues with msp := { sQueues.msp with staged := [(0, List.replicate 4096 0)] } }
def qFw (n off : Nat) : Sqe := { sqe0 with cdw10 := BitVec.ofNat 32 n, cdw11 := BitVec.ofNat 32 off, sgl := 4 * (n + 1) }

theorem open_ns (n : Nat) (att : List Nat) : AdminOpen (sNs n att) tAdmin 0 ctrl0 := admin_open rfl rfl rfl rfl (by simp [sNs, sQueues, QcuSt.reset]) rfl

theorem witness_NamespaceFirmwareResult :
    (AdminOpen (sNs 1 [0]) tAdmin 0 ctrl0 ∧ (sNs 1 [0]).msp.busy = false ∧ lifecycle (sNs 1 [0]) = .operational ∧ ns? (sNs 1 [0]) 2 = none ∧ (∀ j < 1, ns? (sNs 1 [0]) (j + 1) ≠ none) ∧
      0 < fld (padTo 4096 (nsData 4)) 0 8 ∧ fld (padTo 4096 (nsData 4)) 8 8 = fld (padTo 4096 (nsData 4)) 0 8 ∧ fld (padTo 4096 (nsData 4)) 26 1 = 0 ∧ fld (padTo 4096 (nsData 4)) 29 1 = 0 ∧
      (∃ b, let u := noteCmd tAdmin 0x0D { sqe0 with sgl := 4096 } (sNs 1 [0])
        allocUnits u + (fld (padTo 4096 (nsData 4)) 0 8 + 3) / 4 ≤ userUnits ∧ freeBase (usedRanges u) 0 ((fld (padTo 4096 (nsData 4)) 0 8 + 3) / 4) = some b) ∧
      userUnits < allocUnits (noteCmd tAdmin 0x0D { sqe0 with sgl := 4096 } (sNs 1 [0])) + (fld (padTo 4096 (nsData 56152343748)) 0 8 + 3) / 4) ∧
    (AdminOpen (sNs 256 []) tAdmin 0 ctrl0 ∧ ∀ n < 256, ns? (sNs 256 []) (n + 1) ≠ none) ∧
    ((1 : Word).toNat % 16 = 1 ∧ (1 : Nat) ≠ 0xFFFFFFFF ∧ (∃ x, ns? (sNs 1 [0]) 1 = some x) ∧
      let l := listCtrls (padTo 4096 (leBytes 2 1 ++ leBytes 2 0))
      l ≠ [] ∧ (∀ c ∈ l, smFind (sNs 1 []).qcu.ctrls c ≠ none) ∧ (∃ n, ns? (sNs 1 []) 1 = some n ∧ ∀ c ∈ l, c ∉ n.attached) ∧ ∃ n, ns? (sNs 1 [0]) 1 = some n ∧ ∀ c ∈ l, c ∈ n.attached) ∧
    ((0 : Word).toNat % 16 = 0 ∧ bits (0x400 : Word).toNat 8 4 = 0 ∧ bits (0x400 : Word).toNat 11 9 ≤ 2 ∧ (4 : Word).toNat % 8 = 4) ∧
    (AdminOpen sStaged tAdmin 0 ctrl0 ∧ sStaged.msp.busy = false ∧ sStaged.msp.recovery = false ∧
      4 * ((qFw 1023 1024).cdw10.toNat + 1) % 4096 = 0 ∧ 4 * (qFw 1023 1024).cdw11.toNat % 4096 = 0 ∧ 4 * (qFw 1023 1024).cdw11.toNat + 4096 ≤ 0x1000000 ∧ (qFw 1023 1024).sgl = 4096 ∧
      (∀ e ∈ sStaged.msp.staged, 4096 + 4096 ≤ e.1 ∨ e.1 + e.2.length ≤ 4096) ∧ (∃ e ∈ sStaged.msp.staged, 0 < e.1 + e.2.length ∧ e.1 < 0 + 4096) ∧
      4 * ((qFw 1022 0).cdw10.toNat + 1) % 4096 ≠ 0 ∧ 4 * (qFw 1023 1).cdw11.toNat % 4096 ≠ 0 ∧ 0x1000000 < 4 * (qFw 1023 0x400000).cdw11.toNat + 4096 ∧
      bits (0x18 : Word).toNat 5 3 = 3 ∧ bits (0x19 : Word).toNat 2 0 ≤ 1 ∧ sStaged.msp.update = none ∧ ∃ e, imageCheck (noteCmd tAdmin 0x10 { sqe0 with cdw10 := 0x19 } sStaged) (stagedRun (sStaged.msp.staged.foldr insStage []) 0) = .error e) := by
  refine ⟨⟨open_ns _ _, by decide, by decide, by decide, by decide, by decide, by decide, by decide, by decide, ⟨_, by decide, rfl⟩, by decide⟩, ⟨open_ns _ _, by decide +kernel⟩,
    ⟨by decide, by decide, ⟨_, rfl⟩, by decide, by decide, ⟨_, rfl, by decide⟩, ⟨_, rfl, by decide⟩⟩, by decide,
    ⟨admin_open rfl rfl rfl rfl (by decide) rfl, by decide, by decide, by decide, by decide, by decide, by decide, ?_, ?_, by decide, by decide, by decide, by decide, by decide, by decide, ?_⟩⟩
  · intro e he; simp only [sStaged, List.mem_singleton] at he; subst he; right; decide +kernel
  · exact ⟨_, List.mem_singleton.mpr rfl, by decide +kernel, by decide⟩
  · refine ⟨1, ?_⟩; unfold imageCheck
    have h : (stagedRun (sStaged.msp.staged.foldr insStage []) 0).length = 4096 := by decide +kernel
    rw [if_pos (.inl (by omega))]

/-- An image that passes: whatever bytes, key and signature the fused hash and the verification take (both are open constants of the
model) pass the check where the header is good, the key is not revoked, and neither version is beyond the module's. -/
theorem witness_goodImage (s : State) (b : List Byte) (h : 8192 ≤ b.length) (h1 : imageHeaderOk (b.take 8192) = true) (h2 : fld b 4 4 ≤ b.length) (h3 : keyRevoked s (fld b 13 1) = false)
    (h4 : sha3_512 (slice (b.take (fld b 4 4)) 64 2592) = Config.fwKeyHash (fld b 13 1)) (h5 : s.msp.fuses.svnFloor ≤ fld (b.take (fld b 4 4)) 12 1) (h6 : fld (b.take (fld b 4 4)) 20 4 ≤ Config.romVersion)
    (h7 : Config.mldsaVerify (slice (b.take (fld b 4 4)) 64 2592) (imageDigest (b.take (fld b 4 4))) (slice (b.take (fld b 4 4)) sigOff sigLen) = true) : ∃ f, imageCheck s b = .ok f := by
  unfold imageCheck
  rw [if_neg (by simp [h1]; omega), if_neg (by simp [h3, h4]), if_neg (by omega), if_neg (by omega), if_neg (by simp [h7])]
  exact ⟨_, rfl⟩

/-- 4,096 open connections, the last refusal at `t`. -/
def sMany (t : Option Nat) : State := { sReady with time := { sReady.time with master := 2000000000, replica := 2000000000 }, qcu := { QcuSt.reset with conns := (List.range 4096).map fun i => (i, Conn.fresh false false), lastRefused := t } }
/-- One connection, in a state. -/
def sConn (c : Conn) : State := { sReady with qcu := { QcuSt.reset with conns := [(1, c)], ctrls := [(0, ctrl0)] } }
/-- The host interface asks for TLS. -/
def sTls (c : Conn) : State := setRegWord 0x20 0x100 1 (sConn c)
def helloGood : Hello := { suite := true, pskKe := true, early := false, pskId := [1], binderOk := true }
/-- The key store holds a PSK of identity 1. -/
def sPsk : State := { sConn (Conn.fresh false false) with msp := { sReady.msp with ksA := ⟨true, 1, 0, { ksOperational with psks := [([1], [])] }⟩ } }

theorem witness_ConnectionEventResult :
    (sReady.niu.linkUp = true ∧ conn? sReady 1 = none ∧ sReady.chip.stage = .ready ∧ regFld sReady 0x20 0x104 15 0 = 4420 ∧ regFld sReady 0x20 0x104 31 16 = 8009 ∧ sReady.qcu.conns.length < 4096 ∧
      1 ≠ 4420 ∧ 1 ≠ 8009 ∧ ({ sReady with chip := { sReady.chip with stage := .powerGood } } : State).chip.stage ≠ .ready ∧ sReady.msp.recovery = false ∧
      conn? (sMany none) 4096 = none ∧ 4096 ≤ (sMany none).qcu.conns.length ∧ (sMany (some 1000000000)).qcu.lastRefused = some 1000000000 ∧ 1000000000 + 1000000000 ≤ now (sMany (some 1000000000)) ∧
      (sMany (some 1000000001)).qcu.lastRefused = some 1000000001 ∧ now (sMany (some 1000000001)) < 1000000001 + 1000000000) ∧
    (conn? (sTls (Conn.fresh false false)) 1 = some (Conn.fresh false false) ∧ bit (regWord (sTls (Conn.fresh false false)) 0x20 0x100).toNat 0 = true ∧ (Conn.fresh false false).tls = false ∧
      bit (regWord (sConn (Conn.fresh false false)) 0x20 0x100).toNat 0 = false ∧ (Conn.fresh false false).icDone = false ∧ (connIc false).icDone = true) ∧
    (conn? sPsk 1 = some (Conn.fresh false false) ∧ (helloGood.suite && helloGood.pskKe && helloGood.binderOk && pskKnown (touchAtoll sPsk) helloGood.pskId) = true ∧
      (helloGood.suite && helloGood.pskKe && helloGood.binderOk && pskKnown (touchAtoll (sConn (Conn.fresh false false))) helloGood.pskId) = false) ∧
    ({ connIc false with tls := true }.tls = true ∧ { connIc false with frozen := some 5 }.frozen = some 5 ∧ conn? (sConn { connIc false with queue := some (0, 0, 31) }) 1 = some { connIc false with queue := some (0, 0, 31) }) ∧
    smFind (sConn (connIc false)).qcu.ctrls 0 = some ctrl0 := by
  refine ⟨by decide +kernel, by decide, by decide, by decide, rfl⟩

/-- What a good PDU is, and ones that fail a check. -/
def pdu : PduCheck := { hdgstOk := true, formatOk := true, tlsOk := true, streamOff := 0, head := [] }
/-- A queue of size 1 that holds one command. -/
def cFull : Conn := { connIc false with queue := some (0, 1, 0), outst := [{ cid := 9, op := 1, sqe := { sqe0 with sgl := 8192 }, data := [], need := 8192, asked := 8192, r2ts := [(0, 8192)], level1 := false }] }
def cRoom : Conn := { cFull with queue := some (0, 1, 1) }
def sCap (c : Conn) : State := { sConn c with ftl := { FtlSt.reset with rebuilding := false, namespaces := [(1, ns1)] } }

theorem witness_CapsuleResult :
    (∀ c ∈ [cFull, cRoom], conn? (sCap c) 1 = some c ∧ c.icDone = true ∧ c.tls = false ∧ c.hdgst = false ∧ c.ddgst = false) ∧
    (pdu.formatOk = true ∧ cFull.queue = some (0, 1, 0) ∧ cRoom.queue = some (0, 1, 1) ∧ { cRoom with frozen := some 0 }.frozen ≠ none ∧ cFull.frozen = none ∧ 0 + 1 ≤ cFull.outst.length ∧ cRoom.outst.length < 1 + 1 ∧
      (∃ o ∈ cRoom.outst, o.cid = 9) ∧ (∀ o ∈ cRoom.outst, o.cid ≠ 10) ∧
      ([] : List Byte).length < (qNvm 4096).sgl ∧ accepted 0x01 ⟨1, 10⟩ (qNvm 4096) (cntAdd 0x20 0x800 1 (sCap cRoom)) = true ∧
      (List.replicate 16 (0 : Byte)).length = (qNvm 16).sgl ∧ accepted 0x01 ⟨1, 10⟩ (qNvm 16) (cntAdd 0x20 0x800 1 (sCap cRoom)) = false) ∧
    ({ cRoom with tls := true }.tls = true ∧ { pdu with tlsOk := false }.tlsOk = false ∧ { cRoom with hdgst := true }.hdgst = true ∧ { pdu with hdgstOk := false }.hdgstOk = false ∧
      { pdu with formatOk := false }.formatOk = false ∧ 8192 < 8193 ∧ (qNvm 0).sgl < 1) ∧
    (∃ o, cRoom.outst.find? (fun o => o.cid == 9) = some o ∧ (∀ e, (1, e) ∉ o.r2ts) ∧ o.r2ts.find? (fun r => r.1 == 0) = some (0, 8192) ∧ (8192 < 0 + 8193) ∧ 0 + 8192 ≤ 8192 ∧
      { cRoom with ddgst := true }.ddgst = true ∧ (placeData 0 (List.replicate 4096 0) o).need ≠ 0 ∧ (placeData 0 (List.replicate 8192 0) o).need = 0 ∧
      o.level1 = (sCap cRoom).chip.level1 ∧ { o with level1 := true }.level1 ≠ (sCap cRoom).chip.level1) := by
  refine ⟨by decide, by decide, by decide, ⟨_, rfl, ?_, rfl, by decide, by decide, rfl, ?_, ?_⟩⟩
  · intro e h; simp at h
  · decide +kernel
  · decide +kernel

end Sys2Proof.Tests
end

