-- ==== Sys2Proof/Tests/Witness8.lean ====
section
/-! SUPPORT. For each statement about memory tiers, flash events and the network port: states and operands that meet its hypotheses. -/
set_option maxRecDepth 8000
namespace Sys2Proof.Tests
open Sys2Proof Sys2Proof.Machine

/-- A package with one streamed tensor of 64 bytes at its start, and one KV head of dimension 1. -/
def pkgStream : Pkg := { pkgKv' with tensors := [{ actTensor with format := 3, dataBytes := 64 }] }
where pkgKv' : Pkg := { pkg0 with kvHeads := 1, headDim := 1 }
/-- Its context at rest: one frame of external memory, where the staging ring or the tensor stands; one cache page. -/
def cTier (p : Place) (at_ : PageAt) : Ctx :=
  { ctx0 pkgStream none with
    places := [p], frames := [some 5], stageF0 := 0, poolF0 := if p = .stream then 1 else 0, halfBytes := 64, streamed := true,
    halves := [{ layer := some 0, ready := false, next := true, due := false }, { layer := none, ready := false, next := false, due := false }],
    seqs := [(0, { seqIn .run with pages := [(pageKey 0 0, { at_ := at_, scales := [], lastUse := 0, poisoned := false })] })] }
def sTier (c : Ctx) (map : SMap Nat) (ro : Bool) : State :=
  { sQueues with islands := [(0, 1)], ctxs := [(0, c)], ftl := { FtlSt.reset with rebuilding := false, namespaces := [(1, ns1)], map := map, readOnly := ro } }
/-- A burst of the tensor's frame holds two wrong symbols. -/
def sBurst : State := { sTier (cTier (.xm 0 0) (.slot 0)) [] false with xmc := { XmcSt.reset with err := [(5 * frameBytes / 64, [(0, 1), (1, 1)])] } }
/-- A scratchpad word of the tensor at offset 0 of SCRATCH holds two wrong bits. -/
def sWord : State := { sTier (cTier (.sram 0 0) (.slot 0)) [] false with ocm := { OcmSt.reset with spadErr := [(16384 * 128, 3)] } }

theorem witness_MemoryTierEventResult :
    (∀ m ∈ [[], [(0, 2 ^ 34)]], ctx? (sTier (cTier .stream (.slot 0)) m false) 0 = some (cTier .stream (.slot 0)) ∧ halfFor (cTier .stream (.slot 0)) 0 = some 0 ∧ ringEntries (cTier .stream (.slot 0)) 0 ≠ [] ∧
      (∃ x, (cTier .stream (.slot 0)).halves[0]? = some x ∧ x.layer ≠ none)) ∧
    (∃ u, stageEntries (cTier .stream (.slot 0)) 0 (ringEntries (cTier .stream (.slot 0)) 0) (sTier (cTier .stream (.slot 0)) [] false) = (none, u)) ∧
    (∃ i u, stageEntries (cTier .stream (.slot 0)) 0 (ringEntries (cTier .stream (.slot 0)) 0) (sTier (cTier .stream (.slot 0)) [(0, 2 ^ 34)] false) = (some i, u)) ∧
    (∀ p ∈ [PageAt.demoting 0, .fetching 0 []], ∃ q e, smFind (cTier .stream p).seqs 0 = some q ∧ smFind q.pages (pageKey 0 0) = some e ∧ e.at_ = p ∧ e.poisoned = false) ∧
    ((sTier (cTier .stream (.demoting 0)) [] false).ftl.readOnly = false ∧ (sTier (cTier .stream (.demoting 0)) [] true).ftl.readOnly = true) ∧
    (5 * frameBytes < 2 ^ 39 ∧ burstRd sBurst (5 * frameBytes / 64) = .bad ∧ ∃ o, objOfPhys sBurst (5 * frameBytes / 64 * 64) = some o) ∧
    ((∃ o, objOfSpad sWord (16384 * 1024) = some o) ∧ secded (16384 * 1024 / 8 + 0) (owErr sWord ⟨none, 16384 * 1024 / 8 + 0⟩) = .bad) := by
  refine ⟨?_, ⟨_, rfl⟩, ⟨_, _, rfl⟩, ?_, ⟨rfl, rfl⟩, ⟨by decide, by decide, _, rfl⟩, ⟨_, rfl⟩, by decide⟩
  · intro m h; simp only [List.mem_cons, List.mem_nil_iff, or_false] at h
    rcases h with rfl | rfl <;> exact ⟨rfl, by decide, by decide, _, rfl, by decide⟩
  · intro p h; simp only [List.mem_cons, List.mem_nil_iff, or_false] at h
    rcases h with rfl | rfl <;> exact ⟨_, _, rfl, rfl, rfl, rfl⟩

/-- A flash in which unit 0 of superblock 0 is programmed, and superblock 1 is in a state. -/
def sFl (sbs : SMap Sb) (progs : List Prog) : State :=
  { sQueues with ftl := { FtlSt.reset with rebuilding := false, units := [(0, { idx := 0, owner := 0, wseq := 0, data := [] })], sbs := sbs, progs := progs } }
def sbIn (st : SbSt) (slc : Bool) : Sb := { Sb.fresh with st := st, slc := slc, used := 3 }
def readGood : ReadOut := { hardOk := true, softOk := true, corrected := 241, up := List.replicate 15 0, down := List.replicate 15 0, suspends := true }
def prog1 : Prog := { sb := 0, unit := 0, idx := 0, expect := 1, why := 0, victim := none }
/-- Fewer superblocks are free than the background target, or than the foreground's low mark. -/
def sTight (n : Nat) : State := sFl ((0, sbIn .closed true) :: (List.range' 1 n).map fun i => (i, sbIn .retired false)) []
def sFore : State := { sTight 65400 with ftl := { (sTight 65400).ftl with runs := [{ sb := 7, why := 1, slot := none, valid := 1 }] } }

theorem tight_free (n : Nat) : ((sTight n).ftl.sbs.filter fun e => e.2.st != .free).length = n + 1 := by
  have : ((List.range' 1 n).map fun i => (i, sbIn .retired false)).filter (fun e => e.2.st != .free) = (List.range' 1 n).map fun i => (i, sbIn .retired false) := by
    apply List.filter_eq_self.mpr
    intro e he; obtain ⟨i, _, rfl⟩ := List.mem_map.mp he; rfl
  simp only [sTight, sFl]
  rw [List.filter_cons_of_pos (by decide), this]; simp

theorem witness_FlashEventResult :
    ((∃ f, smFind (sFl [] []).ftl.units 0 = some f) ∧ readGood.suspends = true) ∧
    (firstWl (sFl [(0, sbIn .opened false)] [prog1]) 0 = some 0 ∧ mapGet (sFl [] [prog1]) prog1.idx ≠ prog1.expect) ∧
    ((sbOf (closeFull 0 ([prog1].foldl (fun s p => commitProg p s) (countDies 0 0x808 (modSb 0 (fun b => { b with used := max b.used ((0 + 1) * wlUnits b.slc) })
      (modFtl (fun x => { x with progs := x.progs.filter fun p => !(p.sb == 0 && uWl p.unit == 0) }) (sFl [(0, sbIn .opened false)] [prog1]))))) ) 0).st ≠ .retiring) ∧
    ((sbOf (sFl [(1, sbIn .erasing false)] []) 1).st = .erasing ∧ (sbOf (sFl [(1, sbIn .erasing false)] []) 1).erases + 1 < regFld (sFl [(1, sbIn .erasing false)] []) 0xD0 0x128 11 0 ∧
      regFld (sFl [(1, { sbIn .erasing false with erases := 4095 })] []) 0xD0 0x128 11 0 ≤ (sbOf (sFl [(1, { sbIn .erasing false with erases := 4095 })] []) 1).erases + 1) ∧
    (63 < 64 ∧ 63 ∉ (sFl [] []).ftl.downChannels ∧ 15 < 16 ∧ Reaches (sFl [] []) .inband (0xC0 + 15) 0x12C ∧ bit (1 : Word).toNat 0 = true) ∧
    ((sTight 2).pwr.flush = none ∧ (sTight 2).ftl.foreground = false ∧ gcRun (sTight 2) = none ∧ gcVictim (fun n k => decide (k * 10 < sbCap (sbOf (sTight 2) n).slc * 9)) (sTight 2) = some 0 ∧
      mteIdle { sTight 2 with time := { sQueues.time with master := 10 ^ 12, replica := 10 ^ 12 } } = true ∧
      regFld (sTight 2) 0xD0 0x120 31 16 ≤ sbFree (sTight 2) ∧ gcLw (sTight 2) ≤ sbFree (sTight 2) ∧ oldestSlc (sTight 2) = some 0 ∧ gcVictim (fun n k => decide (k * 10 < sbCap (sbOf (sFl [] []) n).slc * 9)) (sFl [] []) = none) ∧
    (∀ n, n = 65400 → sbFree (sTight n) < regFld (sTight n) 0xD0 0x120 31 16 ∧ sbFree (sTight n) < gcLw (sTight n)) := by
  refine ⟨⟨⟨_, rfl⟩, rfl⟩, ⟨by decide, by decide⟩, by decide, by decide, ⟨by decide, by decide, by decide, ⟨by decide, by decide⟩, by decide⟩, by decide, ?_⟩
  intro n h
  have : sbFree (sTight n) = 82 := by unfold sbFree; rw [tight_free, h]; rfl
  rw [this]; subst h; exact ⟨by decide, by decide⟩

/-- The link is down and enabled, or up with four connections of each family. -/
def sLink (up en : Bool) (an : Option Nat) : State := setRegWord 0x10 0x100 (if en then 1 else 0) { sReady with niu := { NiuSt.reset with linkUp := up, anSince := an } }
def sRefs (ref : Bool) : State := { sLink true true none with sext := { SextSt.reset with haveRef := ref, st := .locked } }

theorem witness_PortLinkResult :
    (Reaches (sLink false false none) .inband 0x10 0x100 ∧ linkEn (sLink false false none) = false ∧ (sLink false false none).niu.linkUp = false ∧ linkEn (storeRw 0x10 0x100 1 (sLink false false none)) = true ∧
      linkEn (sLink false true none) = true ∧ linkEn (storeRw 0x10 0x100 1 (sLink false true none)) = true ∧ linkEn (storeRw 0x10 0x100 0 (sLink true true none)) = false ∧ (sLink true true none).niu.linkUp = true) ∧
    ((sLink false true (some 5)).niu.anSince = some 5) ∧
    (regFld (sRefs true) 0x11 0x100 1 0 = 0 ∧ (sRefs true).sext.haveRef = true ∧ (sRefs false).sext.haveRef = false) ∧
    ((sLink true true none).niu.fecDegraded = false ∧ regFld (sLink true true none) 0x10 0x17C 15 0 ≤ 65535 ∧ 0 < regFld (sLink true true none) 0x10 0x17C 15 0) ∧
    (∀ off ∈ [0x11C, 0x130, 0x13C, 0x124, 0x150, 0x15C, 0x120, 0x140], Reaches (sLink true true none) .inband 0x10 off) ∧
    (∀ off ∈ [0x11C, 0x130, 0x13C, 0x124, 0x150, 0x15C], regWord (storeRw 0x10 off 7 (sLink true true none)) 0x10 off ≠ regWord (sLink true true none) 0x10 off) ∧
    (0x11C ∈ ipOffs ∧ regWord (storeRw 0x10 0x11C (regWord (sLink true true none) 0x10 0x11C) (sLink true true none)) 0x10 0x11C = regWord (sLink true true none) 0x10 0x11C) := by
  refine ⟨⟨⟨by decide, by decide⟩, by decide⟩, rfl, by decide, by decide, ?_, by decide, by decide⟩
  intro off h; exact ⟨rfl, by revert h; revert off; decide⟩

/-- A frame of 64 bytes, and a queue that holds `n` entries. -/
def fr (p len : Nat) (us ok : Bool) : Frame := { prio := p, len := len, toUs := us, fcsOk := ok, data := [] }
def sRx (n : Nat) (xoff : List Nat) : State := setRegWord 0x10 0x160 0xFF { sLink true true none with niu := { NiuSt.reset with linkUp := true, xoff := xoff, rxq := [(7, List.replicate n (fr 7 64 true true))], paused := [(7, 9)] } }
/-- The module has the address 10.0.0.1 and a gateway; an ARP request and an ICMP echo request for it. -/
def sAddr : State := setRegWord 0x10 0x124 0x0A0000FE (setRegWord 0x10 0x11C 0x0A000001 (sLink true true none))
def arpReq : Frame := { fr 0 64 true true with data := List.replicate 12 0 ++ [8, 6, 0, 1, 8, 0, 6, 4, 0, 1] ++ List.replicate 16 0 ++ [10, 0, 0, 1] }
def echoReq : Frame := { fr 0 64 true true with data := List.replicate 12 0 ++ [8, 0, 0x45, 0, 0, 28, 0, 0, 0, 0, 64, 1, 0, 0, 10, 0, 0, 2, 10, 0, 0, 1, 8, 0, 0, 0, 0, 0, 0, 0] }
def sFaults (n : Nat) : State := { sReady with niu := { NiuSt.reset with linkUp := true, ptrFaults := [(15, List.replicate n 0)] } }

theorem rx_free (n : Nat) (xo : List Nat) : rxFree (cntAdd 0x10 0x810 64 (cntAdd 0x10 0x800 1 (sRx n xo))) 7 = 8192 - n := by
  have : ((List.replicate n (fr 7 64 true true)).map entriesOf).sum = n := by
    rw [List.map_replicate, show entriesOf (fr 7 64 true true) = 1 from by decide]; simp
  unfold rxFree
  rw [show smGet [] (cntAdd 0x10 0x810 64 (cntAdd 0x10 0x800 1 (sRx n xo))).niu.rxq 7 = List.replicate n (fr 7 64 true true) from rfl, this]
theorem rx_xoff (n : Nat) (xo : List Nat) : (sRx n xo).niu.xoff = xo := rfl
theorem rx_free0 (n : Nat) (xo : List Nat) : rxFree (sRx n xo) 7 = 8192 - n := rx_free n xo
/-- With the frame's own entry. -/
theorem rx_free_after (n : Nat) : rxFree (modNiu (fun x => { x with rxq := smSet x.rxq 7 (smGet [] x.rxq 7 ++ [fr 7 64 true true]) }) (cntAdd 0x10 0x810 64 (cntAdd 0x10 0x800 1 (sRx n [])))) 7 = 8192 - (n + 1) := by
  have : ((List.replicate n (fr 7 64 true true) ++ [fr 7 64 true true]).map entriesOf).sum = n + 1 := by
    rw [List.map_append, List.map_replicate, show entriesOf (fr 7 64 true true) = 1 from by decide]; simp
    decide
  unfold rxFree
  rw [show smGet [] (modNiu (fun x => { x with rxq := smSet x.rxq 7 (smGet [] x.rxq 7 ++ [fr 7 64 true true]) }) (cntAdd 0x10 0x810 64 (cntAdd 0x10 0x800 1 (sRx n [])))).niu.rxq 7 =
    List.replicate n (fr 7 64 true true) ++ [fr 7 64 true true] from rfl, this]

theorem witness_PortFrameResult :
    ((sRx 0 []).niu.linkUp = true ∧ (fr 7 64 true true).prio < 8 ∧ (fr 7 63 true true).len < 64 ∧ 9216 < (fr 7 9217 true true).len ∧ (fr 7 9216 true false).fcsOk = false ∧ (fr 7 64 false true).toUs = false) ∧
    (rxFree (cntAdd 0x10 0x810 64 (cntAdd 0x10 0x800 1 (sRx 8192 []))) 7 < (64 + 63) / 64) ∧
    ((64 + 63) / 64 ≤ rxFree (cntAdd 0x10 0x810 64 (cntAdd 0x10 0x800 1 (sRx 6143 []))) 7 ∧
      2048 ≤ rxFree (modNiu (fun x => { x with rxq := smSet x.rxq 7 (smGet [] x.rxq 7 ++ [fr 7 64 true true]) }) (cntAdd 0x10 0x810 64 (cntAdd 0x10 0x800 1 (sRx 6143 [])))) 7) ∧
    ((64 + 63) / 64 ≤ rxFree (cntAdd 0x10 0x810 64 (cntAdd 0x10 0x800 1 (sRx 6144 []))) 7 ∧
      rxFree (modNiu (fun x => { x with rxq := smSet x.rxq 7 (smGet [] x.rxq 7 ++ [fr 7 64 true true]) }) (cntAdd 0x10 0x810 64 (cntAdd 0x10 0x800 1 (sRx 6144 [])))) 7 < 2048 ∧
      bit (regWord (modNiu (fun x => { x with rxq := smSet x.rxq 7 (smGet [] x.rxq 7 ++ [fr 7 64 true true]) }) (cntAdd 0x10 0x810 64 (cntAdd 0x10 0x800 1 (sRx 6144 [])))) 0x10 0x160).toNat 7 = true ∧
      7 ∉ (sRx 6144 []).niu.xoff) ∧
    (7 ∈ (sRx 4097 [7]).niu.xoff ∧ rxFree (sRx 4097 [7]) 7 < 4096 ∧ 4096 ≤ rxFree (sRx 4096 [7]) 7) ∧
    (smFind (sRx 0 []).niu.paused 7 = some 9) ∧
    (((smGet [] (sFaults 2).niu.ptrFaults 15).filter fun t => now (sFaults 2) < t + 1000000000).length < 3 ∧ 3 ≤ ((smGet [] (sFaults 3).niu.ptrFaults 15).filter fun t => now (sFaults 3) < t + 1000000000).length) ∧
    (sAddr.niu.linkUp = true ∧ arpReq.fcsOk = true ∧ arpReq.toUs = true ∧ (∃ b, arpAnswer (cntAdd 0x10 0x810 64 (cntAdd 0x10 0x800 1 sAddr)) arpReq.data = some b) ∧
      (∃ b, echoAnswer (cntAdd 0x10 0x810 64 (cntAdd 0x10 0x800 1 sAddr)) echoReq.data = some b) ∧ echoAnswer (cntAdd 0x10 0x810 64 (cntAdd 0x10 0x800 1 sAddr)) arpReq.data = none ∧ hasGateway sAddr = true) ∧
    (∃ m, ({ NiuSt.reset with unresolved := [(5, .rst 1)] } : NiuSt).unresolved = (5, m) :: []) := by
  refine ⟨by decide, by rw [rx_free] <;> omega, ⟨by rw [rx_free] <;> omega, by rw [rx_free_after] <;> omega⟩, ⟨by rw [rx_free] <;> omega, by rw [rx_free_after] <;> omega, rfl, by rw [rx_xoff] <;> decide⟩,
    ⟨by rw [rx_xoff] <;> decide, by rw [rx_free0] <;> omega, by rw [rx_free0] <;> omega⟩, rfl, by decide, ⟨rfl, rfl, rfl, ⟨_, rfl⟩, ⟨_, rfl⟩, by decide, by decide⟩, ⟨_, rfl⟩⟩

end Sys2Proof.Tests
end

