-- ==== Sys2Proof/Tests/Witness9.lean ====
section
/-! SUPPORT. For each statement about network time and the Strait: states and operands that meet its hypotheses. -/
set_option maxRecDepth 8000
namespace Sys2Proof.Tests
open Sys2Proof Sys2Proof.Machine

/-- The Sextant in a state, its source PTP, PPS or none. -/
def sSx (src : Nat) (x : SextSt) : State := setRegWord 0x11 0x100 (BitVec.ofNat 32 src) { sLink true true none with sext := x, time := { sReady.time with master := 5000000000, replica := 5000000000 } }
def sx (st : SxState) : SextSt := { SextSt.reset with st := st, gm := 1, sync := some (3, 40), t1t2 := some (100, 120), delaySeq := 6, t3 := some 140, haveRef := st != .acquiring, lossT := some 7 }
def ptp (dom interval : Nat) (two : Bool) : PtpMsg :=
  { domain := dom, gm := 1, twoStep := two, seqId := 3, stamp := 100, corr := 0, local_ := 130, rank := [128], leap := 0, interval := -7 + (interval : Int) }

theorem witness_PtpMessageResult :
    (∀ st ∈ [SxState.acquiring, .locked], let s := sSx 0 (sx st)
      s.niu.linkUp = true ∧ sxSource s = 0 ∧ (ptp 255 0 true).domain ≠ regFld s 0x10 0x174 7 0 ∧ (ptp 0 0 true).domain = regFld s 0x10 0x174 7 0) ∧
    ((ptp 0 9 true).interval > 1 ∧ -7 ≤ (ptp 0 0 true).interval ∧ (ptp 0 8 false).interval ≤ 1 ∧ (ptp 0 0 true).gm = (sx .locked).gm ∧ (ptp 0 0 true).twoStep = true ∧ (ptp 0 0 false).twoStep = false ∧
      (sx .locked).sync = some ((ptp 0 0 true).seqId, 40) ∧ (sx .locked).t3 = some 140 ∧ (sx .locked).t1t2 = some (100, 120) ∧ { ptp 0 0 true with seqId := 6 }.seqId = (sx .locked).delaySeq ∧
      (sx .locked).haveRef = true ∧ (sx .acquiring).haveRef = false) ∧
    ((∃ b, bestMaster ((sx .locked).foreign ++ [⟨(ptp 0 0 true).gm, (ptp 0 0 true).rank⟩]) = some b ∧ b.gm = (sx .locked).gm) ∧ (sx .locked).gm ≠ 0) ∧
    ((sx .coast).lossT = some 7 ∧ (sx .coast).st = .coast ∧ (sx .holdover).st = .holdover ∧ (sx .acquiring).st = .acquiring) := by
  refine ⟨by decide, by decide, ⟨⟨_, rfl, rfl⟩, by decide⟩, by decide⟩

theorem witness_SextantResult :
    (∀ st ∈ [SxState.coast, .holdover, .locked, .acquiring], let s := sSx 0 (sx st)
      s.sext.st = st ∧ (0 : Int).natAbs < stepNs (modSext (fun x => { x with offset := 0 }) s) ∧ ¬ ((-16777216 : Int).natAbs < stepNs (modSext (fun x => { x with offset := -16777216 }) s)) ∧
      100 < (101 : Int).natAbs ∧ (101 : Int).natAbs < stepNs (modSext (fun x => { x with offset := 101 }) s)) ∧
    ((sx .locked).big < 2 ∧ 2 ≤ { sx .locked with big := 2 }.big ∧ (sx .acquiring).good < 15 ∧ 15 ≤ { sx .acquiring with good := 15 }.good) ∧
    (let s := sSx 1 (sx .locked)
     sxSource s = 1 ∧ (advanceMaster 6000000000 (sSx 1 (sx .acquiring))).sext.st ≠ .locked ∧
       ((6000001000 : Int) - (edgeSecond 6000001000 (advanceMaster 6000001000 s) * secNs : Nat)).natAbs = 1000 ∧
       1000 < ((6000001001 : Int) - (edgeSecond 6000001001 (advanceMaster 6000001001 s) * secNs : Nat)).natAbs ∧ s.sext.ppsRej + 1 < 3 ∧ 3 ≤ { sx .locked with ppsRej := 2 }.ppsRej + 1) ∧
    ((sx .locked).ppsOut = false ∧ ppsOutOn (sSx 4 (sx .locked)) = true ∧ ppsOutOn (sSx 0 (sx .locked)) = false ∧ { sx .locked with ppsOut := true }.ppsOut = true) ∧
    (Reaches (sSx 0 (sx .locked)) .inband 0x11 0x120 ∧ Reaches (sSx 0 (sx .locked)) .inband 0x11 0x100) ∧
    (sxSource (storeRw 0x11 0x100 0 (sSx 0 (sx .locked))) = sxSource (sSx 0 (sx .locked)) ∧ sxSource (storeRw 0x11 0x100 2 (sSx 0 (sx .locked))) = 2 ∧ sxSource (storeRw 0x11 0x100 1 (sSx 0 (sx .locked))) = 1 ∧
      (storeRw 0x11 0x100 1 (sSx 0 (sx .locked))).chip.stage = .ready) := by
  refine ⟨by decide, by decide, by decide, by decide, ⟨⟨by decide, by decide⟩, ⟨by decide, by decide⟩⟩, by decide⟩

/-- Group 9 in slot 5: the module is member 0, and member 255 at 10.0.0.2 is valid. -/
def mem255 : Member := { Member.reset with valid := true, addr := 0x0A000002 * 2 ^ 96, addrNext := 0x0A000002 * 2 ^ 96, rxSeq := 1 }
def sStr (on : Bool) (mb : Member) : State :=
  setRegWord 0x12 0x100 (if on then 1 else 0) { sAddr with
    strait := { StraitSt.reset with slots := [(5, { group := 9, self := 0, members := [(255, mb)] })], held := [{ grp := 9, mem := 255, tag := 0, data := [], since := 0 }] } }
/-- A segment of a type with sequence number `n` from member `src`, and its datagram. -/
def segOf (type n src : Nat) : List Byte := segBytes (sStr true mem255) src 0 9 type 0 1 n 0 7 0 1 [1, 2]
def msgOf (type n src : Nat) : StraitMsg := { addr := 0x0A000002 * 2 ^ 96, port := straitPort (sStr true mem255), ipv6 := false, data := segOf type n src }
/-- The segment as it is parsed. -/
def isSeg (type n src : Nat) : Bool :=
  match parseSeg (sStr true mem255) (segOf type n src) with
  | some g => g.type == type && g.seq == n && decide (senderSlot (sStr true mem255) (msgOf type n src) g = if src = 255 then some 5 else none)
  | none => false
/-- The receive buffer holds `n` bytes. -/
def sBuf (n : Nat) : State := { sStr true mem255 with strait := { (sStr true mem255).strait with held := [{ grp := 9, mem := 255, tag := 0, data := List.replicate n 0, since := 0 }] } }
theorem buf_bytes (n x : Nat) : bufBytes (newSession 5 255 x (sBuf n)) = n := by
  have : bufBytes (newSession 5 255 x (sBuf n)) = (List.replicate n (0 : Byte)).length + 0 + 0 := rfl
  rw [this, List.length_replicate]; rfl

theorem witness_StraitResult :
    ((sStr true mem255).niu.linkUp = true ∧ (0 : Nat) ≠ straitPort (sStr true mem255) ∧ straitOn (sStr false mem255) = false ∧ straitOn (sStr true mem255) = true ∧ parseSeg (sStr true mem255) [] = none ∧
      isSeg 1 1 254 = true ∧ (∀ t ∈ [1, 2, 3, 4, 5, 6], isSeg t 1 255 = true) ∧ isSeg 1 0 255 = true ∧ isSeg 1 2 255 = true ∧ seqBefore 0 1 = true ∧ seqBefore 2 1 = false ∧
      (member (newSession 5 255 0 (sStr true mem255)) 5 255).rxSeq = 1) ∧
    (∀ x, 33554432 < bufBytes (newSession 5 255 x (sBuf 33554432)) + 2 ∧ bufBytes (newSession 5 255 x (sBuf 33554430)) + 2 ≤ 33554432) ∧
    ((member (sStr true { mem255 with ackDue := 1 }) 5 255).ackDue ≠ 0 ∧ (member (sStr true { mem255 with unacked := [⟨1, [], 1⟩] }) 5 255).unacked.isEmpty = false ∧
      0 + 1 < regFld (sStr true mem255) 0x12 0x10C 19 16 ∧ regFld (sStr true mem255) 0x12 0x10C 19 16 ≤ 15 + 1 ∧ (member (sStr true { mem255 with reply := some 5 }) 5 255).reply = some 5 ∧
      (sStr true mem255).strait.held[0]?.isSome = true) ∧
    (Reaches (sStr true mem255) .inband 0x12 0x130 ∧ (member (sStr true mem255) (selGrp (sStr true mem255)) (selMem (sStr true mem255))).valid = bit (0 : Word).toNat 0 ∧
      (member (sStr true mem255) (selGrp (sStr true mem255)) (selMem (sStr true mem255))).valid ≠ bit (1 : Word).toNat 0) ∧
    (∀ i < 4, Reaches (sStr true mem255) .inband 0x12 (0x134 + 4 * i)) ∧
    (Reaches (sStr true mem255) .inband 0x12 0x124 ∧ bits (0x00FF000A : Word).toNat 15 0 ≠ 0 ∧ (∀ e ∈ (sStr true mem255).strait.slots, e.1 ≠ 0 → e.2.group ≠ 10) ∧
      (∃ e ∈ (sStr true mem255).strait.slots, e.1 ≠ 0 ∧ e.2.group = 9) ∧ Reaches (sStr true mem255) .inband 0x12 0x104) := by
  refine ⟨by decide +kernel, ?_, by decide, ⟨⟨by decide, by decide⟩, by decide⟩, ?_, ⟨by decide, by decide⟩, by decide, by decide, by decide, ⟨by decide, by decide⟩⟩
  · intro x; rw [buf_bytes, buf_bytes]; omega
  · intro i h; exact ⟨rfl, by revert h; revert i; decide⟩

/-- A segment of a one-segment message of a type. -/
def seg1 (type : Nat) : Segment := { type := type, src := 255, grp := 9, idx := 0, cnt := 1, seq := 1, ack := 0, tag := 7, flags := 0, time := 0, session := 0, pay := List.replicate 40 0 }
/-- Core 0 waits for tag 7 of member 255 in group 9. -/
def sRecv : State := { sCore pkg0 { step0 with group := 9 } { run0 with recv := some { grp := 9, mem := 255, tag := 7, dst := 0, cap := 1, rb := 0, deadline := 1, issued := 0, arrived := false } } with
  strait := (sStr true mem255).strait }

theorem witness_StraitMessageResult :
    ((seg1 1).cnt = 1 ∧ (seg1 1).idx = 0 ∧ 8 ≤ (member (deliverMsg 5 (seg1 0) [] (cntAdd 0x12 0x808 1 (modMember 5 255 (fun b => { b with rxSeq := 2, ackDue := b.ackDue + 1, part := [] }) (sStr true { mem255 with ackDue := 7 })))) 5 255).ackDue) ∧
    (matchRecv (straitWake (sStr true mem255)) 9 255 7 = none ∧ ∃ o, matchRecv (straitWake sRecv) 9 255 7 = some o) ∧
    ((seg1 5).type = 5 ∧ (seg1 6).type = 6 ∧
      (decide (fldBE (seg1 6).pay 0 4 ≠ chartPeriod (sStr true mem255) ∨ fldBE (seg1 6).pay 4 4 ≠ chartPhase (sStr true mem255)) || (sxBad (fldBE (seg1 6).pay 8 1) || sxBad (sStr true mem255).sext.st.code)) = true) := by
  refine ⟨by decide, ⟨by decide, _, rfl⟩, by decide⟩

end Sys2Proof.Tests
end

