-- ==== Sys2Proof/Tests/Witness10.lean ====
section
/-! SUPPORT. For each statement about management, resets, pins and power: states and operands that meet its hypotheses. -/
set_option maxRecDepth 8000
namespace Sys2Proof.Tests
open Sys2Proof Sys2Proof.Machine

/-- An open session of a role, and a module in a place of its life with an update in progress or not. -/
def sess (r : Role) (ready : Bool) : Session := { id := 1, asked := r, role := r, transcript := [], secret := 0, ready := ready, rx := 0, tx := 0, lastT := 5 }
def upd (done total : Nat) : FwUpdate := { done := done, total := total, img := [], tag := tAdmin }
def sMg (l : Life) (x : Option Session) (u : Option FwUpdate) : State :=
  { sQueues with msp := { sReady.msp with ksA := ⟨true, 1, 0, { KeyStore.blank with life := l }⟩, session := x, update := u } }
/-- The module unpowered, its auxiliary supply present. -/
def sDark : State := { sQueues with chip := { sQueues.chip with powered := false } }

theorem witness_ManagementCommandResult :
    (sidebandUp (sMg .operational none none) = true ∧ (sMg .operational none none).msp.fw ≠ none ∧ (sMg .operational none none).msp.update = none ∧ (sMg .operational none (some (upd 0 2))).msp.update ≠ none ∧
      sidebandUp sDark = false ∧ sDark.pwr.aux = true) ∧
    (∀ e ∈ [(1, Role.madelvar, Life.blank), (2, .madelvar, .provisioned), (3, .none, .provisioned), (4, .owner, .operational), (5, .owner, .operational), (6, .owner, .operational), (7, .owner, .operational),
        (8, .owner, .operational), (9, .owner, .operational), (10, .madelvar, .retn), (11, .madelvar, .tampered), (12, .madelvar, .operational)],
      mgAllowed e.1 [0] e.2.1 e.2.2 = true) ∧
    (∀ l ∈ [Life.blank, .provisioned, .operational, .retn], lifecycle (sMg l (some (sess .owner true)) none) = l ∧ (sMg l (some (sess .owner true)) none).msp.session = some (sess .owner true)) ∧
    ((sess .owner true).ready = true ∧ (sess .owner false).ready = false ∧ mgAllowed 1 [0] .owner .operational = false) ∧
    (lifecycle sTampered = .tampered) := by decide

/-- The tamper loop monitored; its fault seen at 0. -/
def sLoop (t : Option Nat) : State := setRegWord 0x03 0x11C 1 { sReady with msp := { sReady.msp with loopSince := t } , time := { sReady.time with master := 10000, replica := 10000 } }
/-- A command outstanding on queue `i` while the management core is busy. -/
def sBusyMsp (i op : Nat) : State :=
  { sQueues with qcu := { sQueues.qcu with conns := [(1, { connIc false with queue := some (0, i, 31), outst := [{ cid := 7, op := op, sqe := sqe0, data := [], need := 0, asked := 0, r2ts := [], level1 := false }] })] },
                 msp := { sReady.msp with busy := true } }

theorem witness_ManagementEventResult :
    (mgmtRuns sReady = true) ∧
    ((sMg .operational none (some (upd 0 2))).msp.update = some (upd 0 2) ∧ (upd 0 2).done + 1 < (upd 0 2).total ∧ (upd 1 2).total ≤ (upd 1 2).done + 1 ∧
      imageDigest (norRead (sMg .operational none none) (upd 1 2).img.length) = imageDigest (upd 1 2).img) ∧
    ((sMg .operational (some (sess .owner true)) none).msp.session = some (sess .owner true)) ∧
    (3 < 4 ∧ tamperOn sReady = true ∧ loopOn (sLoop none) = true) ∧
    ((sLoop (some 0)).msp.loopSince = some 0 ∧ (sLoop (some 0)).msp.loopRaised = false ∧ 0 + 10000 ≤ now (sLoop (some 0)) ∧ (sLoop none).msp.loopSince = none ∧ (sLoop none).chip.stage ≠ .powerGood) ∧
    (({ sReady.msp with erasePending := true } : MspSt).erasePending = true) ∧
    (∀ e ∈ [(1, 0x8D), (0, 0x0D), (0, 0x80), (0, 0x84), (0, 0x10), (0, 0x11)], ∃ c o, conn? (sBusyMsp e.1 e.2) tAdmin.conn = some c ∧ c.outst.find? (fun o => o.cid == tAdmin.cid) = some o ∧
      c.queue = some (0, e.1, 31) ∧ (sBusyMsp e.1 e.2).msp.busy = true ∧ o.need = 0 ∧ o.op = e.2 ∧ (sBusyMsp e.1 e.2).msp.recovery = false) ∧
    (sReady.chip.powered = true ∧ fld [0, 1, 2] 0 1 % 128 = 0 ∧ 127 < 128 ∧ sReady.pwr.i3c = none) := by
  refine ⟨by decide, ⟨by decide, by decide, by decide, congrArg imageDigest (by decide)⟩, by decide, by decide, by decide, by decide, ?_, by decide⟩
  intro e _; exact ⟨_, _, rfl, rfl, rfl, rfl, rfl, rfl, rfl⟩

/-- Before power good, at power good, and at the link stage. -/
def sOff : State := { State.reset with chip := { State.reset.chip with powered := false } }
def sModR (c : Option Nat) (st : Stage) (due : Option Nat) : State := { sReady with chip := { sReady.chip with modReset := c, stage := st, devResetDue := due } }
/-- The NOR holds no image: its header says 0 bytes. -/
def sNoImage : State := { State.reset with msp := { MspSt.reset with factory := false, nor := [(0, List.replicate 8 0)] } }
def sLinkUp : State := { sReady with chip := { sReady.chip with stage := .linkUp } }
/-- A flush of cause POWER_FAIL that ends with power gone, or back. -/
def sFlush (vin trip : Bool) (c : FlushCause) (r : Option Nat) : State :=
  { sReady with pwr := { PwrSt.reset with flush := some c, vin := vin, tripped := trip }, chip := { sReady.chip with modReset := r } }
/-- A transition between two power states. -/
def sTr (src tgt inForce : Nat) : State := { sQueues with qcu := { sQueues.qcu with ps := { sQueues.qcu.ps with trans := some { target := tgt, src := src, tag := none }, inForce := inForce } } }

theorem rom_ok (s : State) (h : s.msp.factory = true) (h1 : s.msp.fuses.keyRevoked = 0) (h2 : s.msp.fuses.svnFloor = 0) : ∃ f, romCheck s = .ok f := by
  unfold romCheck keyRevoked; rw [h, h1, h2]
  simp [bit]
theorem boot_good : (bootVerify (bootRom (modPwr (fun p => { p with tripped := false }) State.reset))).chip.stopped = false := by
  unfold bootVerify
  obtain ⟨f, hf⟩ := rom_ok (modChip (fun c => { c with stage := .verify }) (bootRom (modPwr (fun p => { p with tripped := false }) State.reset))) rfl rfl rfl
  simp only [hf]
  rfl
theorem boot_bad : (bootVerify (bootRom (modPwr (fun p => { p with tripped := false }) sNoImage))).chip.stopped = true := by decide +kernel

theorem witness_ResetEventResult :
    (sOff.chip.powered = false ∧ sOff.pwr.pwrEn = true ∧ sOff.pwr.vin = true ∧ sOff.pwr.armed = true) ∧
    ((sModR (some 1) .ready none).chip.modReset = some 1 ∧ (sModR (some 1) .ready none).pwr.flush = none ∧ (sModR (some 1) .ready none).chip.powered = true) ∧
    (∀ e ∈ [(none, Stage.ready), (some 1, .ready), (none, .linkUp)], (sModR e.1 e.2 (some 5)).chip.devResetDue = some 5 ∧
      (modChip (fun c => { c with devResetDue := none }) (advanceMaster 5 (sModR e.1 e.2 (some 5)))).chip.stage = e.2 ∧ (modChip (fun c => { c with devResetDue := none }) (advanceMaster 5 (sModR e.1 e.2 (some 5)))).chip.modReset = e.1) ∧
    (State.reset.chip.stage = .powerGood ∧ State.reset.chip.powered = true ∧ State.reset.pwr.modRstN = true ∧ (State.reset.pwr.tripped = true → allCool State.reset = true) ∧ sNoImage.chip.stage = .powerGood ∧ sNoImage.chip.powered = true) ∧
    (sLinkUp.chip.stage = .linkUp ∧ sLinkUp.niu.linkUp = true) ∧
    ((sFlush true false .modRst (some 1)).pwr.flush = some .modRst ∧ (flushDone true .modRst (sFlush true true .modRst (some 1))).pwr.tripped = true ∧
      (flushDone true .modRst (sFlush true false .modRst (some 1))).pwr.tripped = false ∧ (flushDone true .modRst (sFlush false false .modRst (some 1))).pwr.vin = false ∧
      (flushDone true .modRst (sFlush true false .modRst (some 1))).pwr.pwrEn = true ∧ (flushDone true .modRst (sFlush true false .modRst (some 1))).pwr.vin = true ∧
      FlushCause.modRst ≠ .pwrEn ∧ FlushCause.modRst ≠ .over ∧ (flushDone true .modRst (sFlush true false .modRst (some 1))).chip.modReset ≠ none ∧ (flushDone true .modRst (sFlush true false .modRst none)).chip.modReset = none) ∧
    ((sTr 0 4 0).qcu.ps.trans = some { target := 4, src := 0, tag := none } ∧ (0 : Nat) < 4 ∧ 3 ≤ 4 ∧ (sTr 4 0 4).qcu.ps.inForce = 4 ∧
      ({ sQueues.qcu.ps with inForce := 4 } : PsSt).trans = none) := by
  refine ⟨by decide, by decide, by decide, by decide, by decide, by decide, by decide⟩

/-- Pins and power in another state. -/
def sPin (p : PwrSt) : State := { sReady with pwr := p, time := { sReady.time with master := 200000, replica := 200000 } }
theorem witness_PinEventResult :
    ((sPin PwrSt.reset).pwr.pwrEn ≠ false ∧ (sPin { PwrSt.reset with pwrEn := false }).pwr.pwrEn ≠ true ∧ (sPin PwrSt.reset).chip.powered = true ∧ sOff.chip.powered = false ∧ sOff.pwr.pwrEn ≠ false) ∧
    ((sPin PwrSt.reset).pwr.modRstN ≠ false ∧ (sPin { PwrSt.reset with modRstN := false }).pwr.modRstN ≠ true) ∧
    ((sPin PwrSt.reset).pwr.brakeN ≠ false ∧ (sPin { PwrSt.reset with brakeN := false }).pwr.brakeN ≠ true ∧ (sPin PwrSt.reset).pwr.brakeT = none ∧
      (∃ t, ({ PwrSt.reset with brakeT := some 99999 } : PwrSt).brakeT = some t ∧ t + 100000 < now (modPwr (fun p => { p with brakeN := false }) (sPin { PwrSt.reset with brakeT := some 99999 }))) ∧
      now (modPwr (fun p => { p with brakeN := false }) (sPin { PwrSt.reset with brakeT := some 100000 })) ≤ 100000 + 100000 ∧ PwrSt.reset.toggleHold = false) ∧
    (({ PwrSt.reset with toggleHold := true } : PwrSt).toggleHold = true ∧ PwrSt.reset.brakeN = true ∧ ({ PwrSt.reset with brakeN := false, brakeT := some 5 } : PwrSt).brakeHeld = false) ∧
    ({ sReady.qcu with actLed := some 5 }.actLed = some 5) ∧
    (30000 ≤ { PwrSt.reset with holdupMj := 30000 }.holdupMj ∧ { PwrSt.reset with holdupMj := 29999 }.holdupMj < 30000 ∧ { PwrSt.reset with ride := true }.ride = true ∧ PwrSt.reset.ride = false ∧
      PwrSt.reset.vin = true ∧ { PwrSt.reset with vin := false }.vin = false) := by
  refine ⟨by decide, by decide, ⟨by decide, by decide, by decide, ⟨_, rfl, by decide⟩, by decide, by decide⟩, by decide, by decide, by decide⟩

/-- A power state, a temperature read before, and replays counted. -/
def sGov (ps : Nat) (brake : Bool) : State := { sReady with pwr := { PwrSt.reset with brake := brake }, qcu := { sReady.qcu with ps := { sReady.qcu.ps with inForce := ps } } }
def govState (s : State) (mw mv : Nat) : State := modPwr (fun p => { p with limitW := govLimit (peakGrant (countInterval mw mv s)) }) (peakGrant (countInterval mw mv s))
def sRep (n : Nat) : State := { sReady with chip := { sReady.chip with replays := n, ps4Fabric := some 5 } }

theorem witness_GovernorResult :
    (sReady.chip.powered = true ∧ brakeLevel (govState (sGov 0 true) 0 54000) = true ∧ brakeLevel (govState (sGov 3 false) 0 54000) = false ∧ 3 ≤ (govState (sGov 3 false) 0 54000).qcu.ps.inForce ∧
      brakeLevel (govState (sGov 0 false) 900001 54000) = false ∧ (govState (sGov 0 false) 900001 54000).qcu.ps.inForce < 3 ∧
      (if (govState (sGov 0 false) 900001 54000).pwr.peakGrant then 900000 else govLimit (peakGrant (countInterval 900001 54000 (sGov 0 false))) * 1000) < 900001 ∧
      0 ≤ (if (govState (sGov 0 false) 0 54000).pwr.peakGrant then 900000 else govLimit (peakGrant (countInterval 0 54000 (sGov 0 false))) * 1000)) ∧
    (119 < 120 ∧ sReady.chip.stage ≠ .powerGood ∧ sReady.pwr.tripped = false ∧ (749 : Int) < (sensorLimits 119).2 ∧ (sensorLimits 119).2 ≤ 750) ∧
    (40000 ≤ 40000 ∧ 39999 < 40000) ∧
    ((recordErr { code := 0xE003, page := 0xE0, bit := none, cls := .corrected, scope := .source 0xE0, d0 := 0, d1 := 0, injected := false } (sRep 6)).chip.replays < 7 ∧
      7 ≤ (recordErr { code := 0xE003, page := 0xE0, bit := none, cls := .corrected, scope := .source 0xE0, d0 := 0, d1 := 0, injected := false } (sRep 7)).chip.replays) ∧
    ((sRep 0).chip.ps4Fabric = some 5) := by
  refine ⟨by decide, by decide, by decide, by decide, by decide⟩

end Sys2Proof.Tests
end

