-- ==== Sys2Proof/Tests/Witness3.lean ====
section
/-! SUPPORT. For each statement about vector-unit, synchronisation and peer instructions: states and operands that meet its hypotheses. -/
set_option maxRecDepth 8000
namespace Sys2Proof.Tests
open Sys2Proof Sys2Proof.Machine

/-- S0 = `n`, A0 = 0, A1 = 64, A2 = 128. -/
def rV (n : Nat) : Run := setA (setA (rS n) 1 64) 2 128
/-- RD is A1, RB is A2. -/
def fV (ext : BitVec 64) (imm : BitVec 32) : IFields := { f0 with rd := 1, rb := 2, ext := ext, imm := imm }
/-- A step on a core with one element to work on. -/
def sV : State := sCore pkg0 step0 (rV 1)

theorem runsV : CoreRuns sV 0 (rV 1) (ctx0 pkg0 (some step0)) step0 := runsCore _ _ _ rfl rfl rfl

/-- What the statements on the vector unit share: brake off, the operands' places. -/
theorem operandsV : brakeLevel sV = false ∧ modBad (fV 0 0) 0 = false ∧ (getS (rV 1) 0).toNat = 1 ∧ (getA (rV 1) 0).toNat = 0 ∧ (getA (rV 1) 1).toNat = 64 ∧ (getA (rV 1) 2).toNat = 128 ∧
    firstFault sV 0 0 false (Ext.one 0 4) = none ∧ CanRead sV 0 (rV 1) step0 (Ext.one 0 4) ∧ CanRead sV 0 (rV 1) step0 (Ext.one 64 4) ∧ CanRead sV 0 (rV 1) step0 (Ext.one 128 8) ∧
    CanRead sV 0 (rV 1) step0 (Ext.one 128 4) ∧ CanWrite sV 0 (rV 1) (Ext.one 64 4) ∧ CanWrite sV 0 (rV 1) (Ext.one 128 8) :=
  ⟨by decide, by decide, by decide, by decide, by decide, by decide, by decide, ⟨by decide, by decide, by decide⟩, ⟨by decide, by decide, by decide⟩, ⟨by decide, by decide, by decide⟩,
    ⟨by decide, by decide, by decide⟩, ⟨by decide, by decide⟩, ⟨by decide, by decide⟩⟩

theorem witness_VectorResult :
    (CoreRuns sV 0 (rV 1) (ctx0 pkg0 (some step0)) step0 ∧ brakeLevel sV = false ∧ extF (fV 0 0) 1 0 < 3 ∧ (fV 0 0).rd.toNat < 8 ∧ (fV 0 0).ra.toNat < 8 ∧ 1 ≤ (getS (rV 1) 0).toNat ∧
      (getS (rS (2 ^ 24)) 0).toNat ≤ 2 ^ 24 ∧ CanRead sV 0 (rV 1) step0 (Ext.one 0 4) ∧ CanWrite sV 0 (rV 1) (Ext.one 64 4)) ∧
    (∃ b s1, instrRead sV 0 0 0 4 = (.data b, s1) ∧ ∃ u, writeWin 0 0 64 (unElems 0 ((List.range 1).map fun i => canon (fabs (elAt 0 b i)))) s1 = (none, u)) ∧
    (extF (fV 0 0) 6 6 = 0 ∧ (fV 0 0).rb.toNat < 8 ∧ CanRead sV 0 (rV 1) step0 (Ext.one 128 4) ∧ ∃ b s1 b2 s2, instrRead sV 0 0 0 4 = (.data b, s1) ∧ instrRead s1 0 0 128 4 = (.data b2, s2) ∧
      ∃ u, writeWin 0 0 64 (unElems 0 ((List.range 1).map fun i => canon (fadd (elAt 0 b i) (elAt 0 b2 i)))) s2 = (none, u)) ∧
    (extF (fV 0x40 0x3F800000) 6 6 = 1 ∧ ∃ b s1, instrRead sV 0 0 0 4 = (.data b, s1) ∧ (isNaN (elAt 0 b 0) = false ∧ isNaN 0x3F800000 = false ∧ ¬ (elAt 0 b 0 % 2 ^ 31 = 0 ∧ 0x3F800000 % 2 ^ 31 = 0)) ∧
      ∃ u, writeWin 0 0 64 (unElems 0 ((List.range 1).map fun i => canon (if flt (elAt 0 b i) 0x3F800000 then 0x3F800000 else elAt 0 b i))) s1 = (none, u)) ∧
    (CanRead sV 0 (rV 1) step0 (Ext.one 64 4) ∧ ∃ b s1 b2 s2 b3 s3, instrRead sV 0 0 0 4 = (.data b, s1) ∧ instrRead s1 0 0 128 4 = (.data b2, s2) ∧ instrRead s2 0 0 64 4 = (.data b3, s3) ∧
      ∃ u, writeWin 0 0 64 (unElems 0 ((List.range 1).map fun i => canon (fadd (fmul (elAt 0 b i) (elAt 0 b2 i)) (elAt 0 b3 i)))) s3 = (none, u)) := by
  obtain ⟨a1, -, -, -, -, -, -, a2, a3, -, a4, a5, -⟩ := operandsV
  exact ⟨⟨runsV, a1, by decide, by decide, by decide, by decide, by decide, a2, a5⟩, ⟨_, _, rfl, _, rfl⟩, ⟨by decide, by decide, a4, _, _, _, _, rfl, rfl, _, rfl⟩,
    ⟨by decide, _, _, rfl, by decide, _, rfl⟩, ⟨a3, _, _, _, _, _, _, rfl, rfl, rfl, _, rfl⟩⟩

theorem witness_SpecialFunctionResult :
    (CoreRuns sV 0 (rV 1) (ctx0 pkg0 (some step0)) step0 ∧ brakeLevel sV = false ∧ extF (fV 0 0) 4 0 ≤ 11 ∧ (extF (fV 0x3F8000000000000B 0) 4 0 = 11 ∧ betaGood (extF (fV 0x3F8000000000000B 0) 63 32) = true) ∧
      CanRead sV 0 (rV 1) step0 (Ext.one 0 4) ∧ CanWrite sV 0 (rV 1) (Ext.one 64 4)) ∧
    (extF (fV 0 0) 5 5 = 0 ∧ ∃ b s1, instrRead sV 0 0 0 4 = (.data b, s1) ∧ (stepSfu s1 step0).compat = false ∧
      ∃ u, writeWin 0 0 64 (unElems 0 ((List.range 1).map fun i => fmul (sfuEval (stepSfu s1 step0) 0 0 (fadd (elAt 0 b i) 0)) 0)) s1 = (none, u)) ∧
    (extF (fV 0x420 0) 5 5 = 1 ∧ (fV 0x420 0).rb.toNat < 8 ∧ 1 ≤ extF (fV 0x420 0) 29 10 ∧ (getA (rV 1) 2).toNat % 4 = 0 ∧ CanRead sV 0 (rV 1) step0 (Ext.one 128 (4 * min 1 1)) ∧
      ∃ b s1 bb s2, instrRead sV 0 0 0 4 = (.data b, s1) ∧ instrRead s1 0 0 128 4 = (.data bb, s2) ∧ (stepSfu s2 step0).compat = false) := by
  obtain ⟨a1, -, -, -, -, -, -, a2, -, -, a4, a5, -⟩ := operandsV
  exact ⟨⟨runsV, a1, by decide, by decide, a2, a5⟩, ⟨by decide, _, _, rfl, rfl, _, rfl⟩, ⟨by decide, by decide, by decide, by decide, a4, _, _, _, _, rfl, rfl, rfl⟩⟩

theorem witness_ReduceResult :
    (CoreRuns sV 0 (rV 1) (ctx0 pkg0 (some step0)) step0 ∧ brakeLevel sV = false ∧ extF (fV 0 0) 15 0 + 1 = 1 ∧ 1 ≤ (getS (rV 1) 0).toNat ∧ (getS (rS (2 ^ 20)) 0).toNat ≤ 2 ^ 20 ∧
      CanRead sV 0 (rV 1) step0 (Ext.one 0 4)) ∧
    (∃ b s1, instrRead sV 0 0 0 4 = (.data b, s1) ∧ (∀ v ∈ [elAt 0 b 0], (isNaN v || isInf v false) = false) ∧ (∀ v ∈ [elAt 0 b 0], ((isNaN v || isInf v false) || isInf v true) = false) ∧
      ∃ u, writeWin 0 0 64 ((List.range 1).flatMap fun _ => leBytes 4 (canon (tree [elAt 0 b 0]))) (cntAdd 0x40 0xA10 1 (cntAdd 0x40 0xA08 0 (cntAdd 0x40 0xA20 0 s1))) = (none, u)) ∧
    (modBad (fV 0 0) 0 = false ∧ (fV 0 0).rd.toNat < 8 ∧ (getA (rV 1) 1).toNat % 4 = 0 ∧ CanWrite sV 0 (rV 1) (Ext.one 64 (1 * 4))) ∧
    ((fV 0 0).rb.toNat < 8 ∧ (getA (rV 1) 2).toNat % 4 = 0 ∧ CanRead sV 0 (rV 1) step0 (Ext.one 128 8) ∧ CanRead sV 0 (rV 1) step0 (Ext.one 128 4) ∧
      (∃ b s1 b2 s2, instrRead sV 0 0 0 4 = (.data b, s1) ∧ instrRead s1 0 0 128 8 = (.data b2, s2)) ∧ (∃ b s1 b2 s2, instrRead sV 0 0 0 4 = (.data b, s1) ∧ instrRead s1 0 0 128 4 = (.data b2, s2)) ∧
      epsGood (fV 0 0x3727C5AC).imm.toNat = true) ∧
    (modBad { fV 0 0 with md := 1 } 1 = false ∧ CanWrite sV 0 (rV 1) (Ext.one 128 8)) := by
  obtain ⟨a1, a0, -, -, -, -, -, a2, -, a6, a4, a5, a7⟩ := operandsV
  exact ⟨⟨runsV, a1, by decide, by decide, by decide, a2⟩, ⟨_, _, rfl, by decide, by decide, _, rfl⟩, ⟨a0, by decide, by decide, a5⟩,
    ⟨by decide, by decide, a6, a4, ⟨_, _, _, _, rfl, rfl⟩, ⟨_, _, _, _, rfl, rfl⟩, by decide⟩, ⟨by decide, a7⟩⟩

/-- Narrowing point 1, elements FP32, S2 takes the form. -/
def fN : IFields := { fV 1 0 with rb := 2 }
/-- A history that is past its warm-up. -/
def cHist : Ctx := { ctx0 pkg0 (some step0) with hist := [(0, { HistRec.zero with count := 1 })] }
/-- Point 1 of the step has been narrowed, with the verdict given. -/
def sNp (v : Verdict) : State := sCore pkg0 (stNp v) (rV 1)

theorem witness_NarrowResult :
    (CoreRuns sV 0 (rV 1) (ctx0 pkg0 (some step0)) step0 ∧ brakeLevel sV = false ∧ actEntry pkg0 (extF fN 11 0) = some (0, actTensor) ∧ extF fN 13 12 < 3 ∧ fN.ra.toNat < 8 ∧ fN.rd.toNat < 8 ∧
      modBad fN 1 = false ∧ modBad { fN with md := 1 } 1 = false) ∧
    (smFind step0.np 0 = none ∧ (smGet HistRec.zero (ctx0 pkg0 (some step0)).hist 0).count < actTensor.warm ∧ actTensor.warm ≤ (smGet HistRec.zero cHist.hist 0).count) ∧
    (CanRead sV 0 (rV 1) step0 (Ext.one 0 4) ∧ CanWrite sV 0 (rV 1) (Ext.one 64 2) ∧ CanWrite sV 0 (rV 1) (Ext.one 64 1) ∧ ∃ b s1 s2, instrRead sV 0 0 0 4 = (.data b, s1) ∧
      histCheck (ctx0 pkg0 (some step0)) 0 s1 = (true, s2) ∧ isFin (elAt 0 b 0) = true ∧
      ∃ u, writeWin 0 0 64 ((List.range 1).flatMap fun i => leBytes 2 (toBits 16 (narrowEl 32639 (fdiv (fofInt 32639) (scaleA 0 0)) (elAt 0 b i)).1)) s2 = (none, u)) ∧
    (CoreRuns (sNp .rerun) 0 (rV 1) (ctx0 pkg0 (some (stNp .rerun))) (stNp .rerun) ∧ smFind (stNp .rerun).np 0 = some (np0 .rerun) ∧ (np0 .rerun).verdict = .rerun ∧ smFind (stNp .accept).np 0 ≠ none) := by
  obtain ⟨a1, a0, -, -, -, -, -, a2, -, a6, a4, a5, a7⟩ := operandsV
  exact ⟨⟨runsV, a1, by decide, by decide, by decide, by decide, by decide, by decide⟩, by decide, ⟨a2, ⟨by decide, by decide⟩, ⟨by decide, by decide⟩, _, _, _, rfl, rfl, by decide, _, rfl⟩,
    runsCore _ _ _ rfl rfl rfl, by decide, by decide, by decide⟩

/-- One row of DEQ to A1 = 64 × 16. -/
def rDeq (n : Nat) : Run := { setA (rS n) 1 1024 with latch := some (5 * 2 ^ 20 + 3, List.replicate 128 0x3F80) }
/-- A latch whose scale of column 127 is infinite. -/
def rBadScale : Run := { rDeq 1 with latch := some (5 * 2 ^ 20 + 3, List.replicate 127 0x3F80 ++ [0x7F80]) }
theorem witness_DequantiseResult :
    (let r := rDeq 1
     let s := sCore pkg0 step0 r
     CoreRuns s 0 r (ctx0 pkg0 (some step0)) step0 ∧ brakeLevel s = false ∧ modBad { fV 0 0 with md := 1 } 1 = false ∧ extF (fV 0 0) 47 22 = 0 ∧ extF (fV 0 0) 19 18 < 3 ∧
       (extF (fV 0 0) 17 6 = 0 ∧ extF (fV 0 0) 21 21 = 0) ∧
       CanWrite s 0 r (Ext.one 1024 (1 * 128 * 4)) ∧ (getA r 0).toNat % 64 = 0 ∧ windowOf (getA r 0).toNat = 0 ∧ CanRead s 0 r step0 (Ext.one 0 768) ∧ CanRead s 0 r step0 (Ext.one 0 1536) ∧
       (∃ b u, instrRead s 0 0 0 768 = (.data b, u)) ∧ (∃ b u, instrRead s 0 0 0 1536 = (.data b, u)) ∧
       (63 + 1 ≤ 64 ∧ accDiscarded step0 0 63 1 = false ∧ accPending r 63 1 = false ∧ ∃ l u, accReads 0 (63 * 128) (1 * 128) s = (some l, u)) ∧
       (∀ j < 128, isFin (bfTo32 0x3F80) = true) ∧ ∀ d : List Byte, d ≠ [] → d.length ≤ 8192 → ∃ u, writeWin 0 0 1024 d s = (none, u)) ∧
    (actEntry pkg0 (extF (fV 0x40 0) 17 6) = some (0, actTensor) ∧ extF (fV 0x40 0) 20 20 = 0 ∧ extF (fV 0x40 0) 17 6 ≠ 0 ∧ smFind (stNp .accept).np 0 = some (np0 .accept) ∧ (np0 .accept).verdict = .accept) ∧
    (extF (fV 0x0053000000200000 0) 21 21 = 1 ∧ extF (fV 0x0053000000200000 0) 63 52 = 5 ∧ extF (fV 0x0053000000200000 0) 51 48 = 3 ∧
      5 * 2 ^ 20 + 3 = extF (fV 0x0053000000200000 0) 63 52 * 2 ^ 20 + bits (5 * 2 ^ 20 + 3) 19 4 * 2 ^ 4 + extF (fV 0x0053000000200000 0) 51 48 ∧
      (List.replicate 128 0x3F80).length = 128 ∧ (rDeq 1).mat = none) ∧
    (isFin (bfTo32 ((List.replicate 127 0x3F80 ++ [0x7F80]).getD 127 0)) = false ∧ ∀ i < 127, isFin (bfTo32 ((List.replicate 127 0x3F80 ++ [0x7F80]).getD i 0)) = true) := by
  refine ⟨⟨runsCore _ _ _ rfl rfl rfl, by decide, by decide, by decide, by decide, by decide, ⟨by decide, by decide⟩, by decide, by decide, ⟨by decide, by decide, by decide⟩,
    ⟨by decide, by decide, by decide⟩, rdCore _ _ _ rfl (by decide) (by decide), rdCore _ _ _ rfl (by decide) (by decide), ⟨by decide, by decide, by decide, _, _, rfl⟩, by decide, ?_⟩,
    by decide, by decide, by decide⟩
  intro d hd hl; exact wrCore _ _ _ rfl hd (by omega)

/-- A package with one KV head of dimension 1, and a step that writes one position of sequence 0. -/
def pkgKv : Pkg := { pkg0 with kvHeads := 1, headDim := 1 }
def stKv : Step := { step0 with batch := [{ seq := 0, pos := 0, n := 1, emits := true }] }
def cKv : Ctx := { ctx0 pkgKv (some stKv) with
  frames := [some 5], poolSlots := 1,
  seqs := [(0, { st := .run, pos := 0, maxLen := 8, seed := 1, prompt := [], order := 0, leave := false, ingest := none,
                 pages := [(pageKey 0 0, { at_ := .slot 0, scales := [], lastUse := 0, poisoned := false })] })] }
def sKv : State := { sV with ctxs := [(0, cKv)] }

theorem witness_EmbedCacheSampleResult :
    (CoreRuns sV 0 (rV 1) (ctx0 pkg0 (some step0)) step0 ∧ sV.chip.level1 = false ∧ extF (fV 0 0) 15 0 + 1 = 1 ∧ 1 ≤ (getS (rV 1) 0).toNat ∧ (getS (rS 4096) 0).toNat ≤ 4096 ∧
      CanRead sV 0 (rV 1) step0 (Ext.one 0 (1 * 1 * 4)) ∧ CanWrite sV 0 (rV 1) (Ext.one 64 (1 * vecBytes false 1)) ∧ ∃ b s2, instrRead sV 0 0 0 4 = (.data b, s2) ∧
      ∃ u, writeWin 0 0 64 ((List.range 1).flatMap fun i => toE8 ((List.range 1).map fun j => elAt 0 b (i * 1 + j))) s2 = (none, u)) ∧
    (CoreRuns sKv 0 (rV 1) cKv stKv ∧ cKv.pkg.kvHeads ≠ 0 ∧ 0 < cKv.pkg.layers ∧ (getS (rV 1) 0).toNat = (kvRows stKv.batch).length ∧ CanRead sKv 0 (rV 1) stKv (Ext.one 0 8) ∧
      (∀ w ∈ kvRows stKv.batch, writeWaits sKv 0 (rV 1) (Ext.one (kvAddr cKv 0 w) 2) = false ∧ (kvPlace cKv 0 w).isSome = true) ∧ kvRows stKv.batch ≠ [] ∧
      ∃ b s2, instrRead sKv 0 0 0 8 = (.data b, s2) ∧ ∃ m sat u, kvWrite cKv 0 (kvScales cKv stKv 0 0 ((List.range 2).map (elAt 0 b)) (kvRows stKv.batch)) ((List.range 2).map (elAt 0 b)) (kvRows stKv.batch) [] 0 s2 =
        .ok (m, sat, u)) ∧
    (sampleBad 0 0 0 0 = false ∧ sampleBad 3 1 0x3F800000 0x3F800000 = false ∧ CanRead sKv 0 (rV 1) stKv (Ext.one 0 4) ∧ ∃ b s2, instrRead sKv 0 0 0 4 = (.data b, s2) ∧
      ∃ t e ri, sampleRows (stepSfu s2 stKv) cKv 0 0 0 0 0 1 (stKv.batch.filter (·.emits)).zipIdx ((List.range 1).map (elAt 0 b)) [] 0 0 = .ok (t, e, ri)) := by
  obtain ⟨a1, a0, -, -, -, -, -, a2, -, a6, a4, a5, a7⟩ := operandsV
  exact ⟨⟨runsV, rfl, by decide, by decide, by decide, a2, ⟨by decide, by decide⟩, _, _, rfl, _, rfl⟩,
    ⟨⟨by decide, rfl, rfl, rfl, rfl, rfl⟩, by decide, by decide, by decide, ⟨by decide, by decide, by decide⟩, by decide, by decide, _, _, rfl, _, _, _, rfl⟩,
    ⟨by decide, by decide, ⟨by decide, by decide, by decide⟩, _, _, rfl, _, _, _, rfl⟩⟩

/-- Event 15 stands at 5; S0 is 5, or 6. -/
def stEv : Step := { step0 with ev := List.replicate 15 0 ++ [5] }
/-- A run with a completion group not empty. -/
def rGrp : Run := { run0 with g := run0.g.set 7 1 }
theorem witness_SyncResult :
    CoreRuns sRun 0 run0 (ctx0 pkg0 (some step0)) step0 ∧
    ((∀ i < 8, bit (extF { f0 with ext := 0x5FF } 10 0) i = true → getG run0 i = 0) ∧ run0.mat = none ∧ run0.g.toList.sum ≤ run0.dma.length) ∧
    (¬ (bit (extF { f0 with ext := 0x80 } 10 0) 7 = true → getG rGrp 7 = 0)) ∧
    (run0.dma = [] ∧ ∀ i ∈ run0.g.toList, i = 0) ∧ (¬ ∀ i ∈ rGrp.g.toList, i = 0) ∧
    (extF { f0 with ext := 15 } 3 0 = 15 ∧ (stEv.ev.getD 15 0 + 2 ^ 32 - (getS (rS 5) 0).toNat % 2 ^ 32) % 2 ^ 32 < 2 ^ 31 ∧ 2 ^ 31 ≤ (stEv.ev.getD 15 0 + 2 ^ 32 - (getS (rS 6) 0).toNat % 2 ^ 32) % 2 ^ 32) ∧
    (modBad { f0 with md := 1 } 1 = false ∧ sRun.chip.level1 = false ∧ (getS (rS 0) 0).toNat ≤ sRun.time.replica ∧ sRun.time.replica < (getS (rS 1) 0).toNat) := by
  refine ⟨runs0, by decide, by decide, by decide, by decide, by decide, by decide⟩

/-- Group 9 in slot 63, whose member 255 is in step; the Sextant is locked. -/
def sGroup : State := { sCore pkg0 { step0 with group := 9 } (rV 1) with
  strait := { StraitSt.reset with slots := [(63, { group := 9, self := 0, members := [(255, { Member.reset with valid := true, inStep := true })] })] },
  sext := { SextSt.reset with st := .locked } }
def fP : IFields := { fV 0x000000FF000000FF 0 with rc := 0 }
/-- A search parameter block: VERSION 2 in its first byte. -/
def sBlock : State := { sV with ocm := { sV.ocm with loc := [(0, 2)] } }

theorem witness_PeerResult :
    (CoreRuns sGroup 0 (rV 1) (ctx0 pkg0 (some { step0 with group := 9 })) { step0 with group := 9 } ∧ modBad fP 0 = false ∧ slotOfGroup sGroup 9 = some 63 ∧ extF fP 15 0 = 255 ∧ extF fP 47 32 = 255 ∧
      memberInStep sGroup 63 255 = true ∧ 1 ≤ (getS (rV 1) 0).toNat ∧ (getS (rS 8192) 0).toNat ≤ 8192 ∧ CanRead sGroup 0 (rV 1) step0 (Ext.one 0 1) ∧ (∃ b u, instrRead sGroup 0 0 0 1 = (.data b, u)) ∧
      CanWrite sGroup 0 (rV 1) (Ext.one 64 1) ∧ sGroup.strait.held = []) ∧
    (sV.chip.level1 = false ∧ CanRead sV 0 (rV 1) step0 (Ext.one 0 64) ∧ ∃ b u rest v, instrRead sV 0 0 0 64 = (.data b, u) ∧ min (fld b 32 4) 16384 + min (fld b 20 4) 4096 = 0 ∧
      CanRead u 0 (rV 1) step0 (Ext.one 64 0) ∧ instrRead u 0 0 64 0 = (.data rest, v) ∧ ∃ c w, querySubmitCheck (b ++ rest) 1 v = (some c, w) ∧
      ∃ x, writeWin 0 0 64 (refusedResult (b ++ rest) c 1) w = (none, x)) ∧
    (step0.group = 0) ∧
    (∃ r x, (Machine.core (sCore pkg0 step0 { run0 with recv := some { grp := 9, mem := 255, tag := 0, dst := 64, cap := 1, rb := 15, deadline := 0, issued := 0, arrived := false } }) 0).run = some r ∧ r.recv = some x ∧
      x.arrived = false ∧ x.deadline ≤ sRun.time.replica) := by
  exact ⟨⟨⟨by decide, rfl, rfl, rfl, rfl, rfl⟩, by decide, by decide, by decide, by decide, by decide, by decide, by decide, ⟨by decide, by decide, by decide⟩, ⟨_, _, rfl⟩, ⟨by decide, by decide⟩, rfl⟩,
    ⟨rfl, ⟨by decide, by decide, by decide⟩, _, _, _, _, rfl, by decide, ⟨by decide, by decide, by decide⟩, rfl, _, _, rfl, _, rfl⟩, rfl, ⟨_, _, rfl, rfl, rfl, by decide⟩⟩

end Sys2Proof.Tests
end

