-- ==== Sys2Proof/Tests/Slice0.lean ====
section
/-! SUPPORT. Smoke tests of well-formedness (an ill-formed command for each check) and of single steps on the values that the
spec's worked examples give. -/
namespace Sys2Proof.Tests
open Sys2Proof Sys2Proof.Machine

/-- A command identifier has 16 bits. -/
theorem test_wf_command1 : ([.loadContext ⟨1, 65536⟩ sqe0 [], .unloadContext ⟨1, 65536⟩ sqe0 [], .bindIsland ⟨1, 65536⟩ sqe0 [], .writeChart ⟨1, 65536⟩ sqe0 [], .swapChart ⟨1, 65536⟩ sqe0 [], .sequenceJoin ⟨1, 65536⟩ sqe0 [],
  .sequenceLeave ⟨1, 65536⟩ sqe0 [], .outputDrain ⟨1, 65536⟩ sqe0 [], .ingest ⟨1, 65536⟩ sqe0 [], .indexMutate ⟨1, 65536⟩ sqe0 [], .search ⟨1, 65536⟩ sqe0 [], .scan ⟨1, 65536⟩ sqe0 [], .registerWindowRead ⟨1, 65536⟩ sqe0 [],
  .registerWindowWrite ⟨1, 65536⟩ sqe0 [], .nvmRead ⟨1, 65536⟩ sqe0 [], .nvmWrite ⟨1, 65536⟩ sqe0 [], .flush ⟨1, 65536⟩ sqe0 [], .writeZeroes ⟨1, 65536⟩ sqe0 [], .datasetManagement ⟨1, 65536⟩ sqe0 [],
  .nvmVerify ⟨1, 65536⟩ sqe0 [], .connect ⟨1, 65536⟩ sqe0 [], .disconnect ⟨1, 65536⟩ sqe0 [], .propertyGet ⟨1, 65536⟩ sqe0 [], .propertySet ⟨1, 65536⟩ sqe0 []] : List Instr).all (fun i => !i.wf) = true := by decide
/-- A command identifier has 16 bits. -/
theorem test_wf_command2 : ([.nssrDeviceReset ⟨1, 65536⟩ sqe0 [], .shutdownNotification ⟨1, 65536⟩ sqe0 [], .identify ⟨1, 65536⟩ sqe0 [], .getLogPage ⟨1, 65536⟩ sqe0 [], .setFeaturesPowerManagement ⟨1, 65536⟩ sqe0 [],
  .setFeaturesNumberOfQueues ⟨1, 65536⟩ sqe0 [], .setFeatures ⟨1, 65536⟩ sqe0 [], .getFeatures ⟨1, 65536⟩ sqe0 [], .asynchronousEventRequest ⟨1, 65536⟩ sqe0 [], .keepAlive ⟨1, 65536⟩ sqe0 [], .abortCmd ⟨1, 65536⟩ sqe0 [],
  .namespaceManagement ⟨1, 65536⟩ sqe0 [], .namespaceAttachment ⟨1, 65536⟩ sqe0 [], .formatNvm ⟨1, 65536⟩ sqe0 [], .sanitize ⟨1, 65536⟩ sqe0 [], .firmwareImageDownload ⟨1, 65536⟩ sqe0 [], .firmwareCommit ⟨1, 65536⟩ sqe0 [],
  .invalidCommandOpcode ⟨1, 65536⟩ sqe0 [], .commandInterrupted ⟨1, 65536⟩] : List Instr).all (fun i => !i.wf) = true := by decide
/-- There are 48 cores; a reserved class is 12 or more. -/
theorem test_wf_core1 : ([.jobFault 0 48 0, .reservedClassFetch 48 12, .reservedClassFetch 0 11, .nop 48 f0, .add 48 f0, .sub 48 f0, .mul 48 f0, .andS 48 f0, .orS 48 f0, .xor 48 f0, .shl 48 f0, .shr 48 f0, .sra 48 f0,
  .minS 48 f0, .maxS 48 f0, .slt 48 f0, .addi 48 f0, .movi 48 f0, .movhi 48 f0, .ld 48 f0, .st 48 f0, .toa 48 f0, .tos 48 f0, .aaddi 48 f0] : List Instr).all (fun i => !i.wf) = true := by decide
/-- There are 48 cores; a reserved class is 12 or more. -/
theorem test_wf_core2 : ([.aadd 48 f0, .time 48 f0, .j 48 f0, .beq 48 f0, .bne 48 f0, .blt 48 f0, .bge 48 f0, .jr 48 f0, .loop 48 f0, .lidx 48 f0, .bverd 48 f0, .endTask 48 f0, .copy 48 f0, .acc48 48 f0, .zero 48 f0,
  .dmaComplete 48 0, .tdload 48 f0, .tdstore 48 f0, .tdinit 48 f0, .matrix 48 f0, .matrixComplete 48, .conv1d 48 f0, .conv2d 48 f0, .vectorAdd 48 f0] : List Instr).all (fun i => !i.wf) = true := by decide
/-- There are 48 cores; a reserved class is 12 or more. -/
theorem test_wf_core3 : ([.vectorSub 48 f0, .vectorMul 48 f0, .vectorMax 48 f0, .vectorMin 48 f0, .vectorAbs 48 f0, .vectorNeg 48 f0, .vectorCvt 48 f0, .vectorMac 48 f0, .specialFn 48 f0, .rmax 48 f0, .rsum 48 f0, .softmax 48 f0,
  .smstat 48 f0, .smapply 48 f0, .rmsnorm 48 f0, .layernorm 48 f0, .argmax 48 f0, .narrow 48 f0, .deq 48 f0, .kvstore 48 f0, .embed8 48 f0, .sample 48 f0, .fence 48 f0,
  .signal 48 f0] : List Instr).all (fun i => !i.wf) = true := by decide
/-- There are 48 cores; a reserved class is 12 or more. -/
theorem test_wf_core4 : ([.waitev 48 f0, .slotwait 48 f0, .ssend 48 f0, .srecv 48 f0, .srecvTimeout 48, .peerSearch 48 f0, .checkInjectArm .inband 48 0,
  .bgtRegionStart (some 48) .clean] : List Instr).all (fun i => !i.wf) = true := by decide
/-- There are 256 pages of 4,096 offsets. -/
theorem test_wf_address : ([.registerWrite .inband 256 0 0, .registerWrite .inband 0 4096 0, .counterLowRead .inband 256 0, .counterLowRead .inband 0 4096, .cntFreeze .inband 256 false, .cntClear .inband 256,
  .errCountClr .inband 256, .errStatusClear .inband 256 0, .bankPowerWrite .inband 4096 0, .demoteComplete 0 0 0 16384, .pageFetchComplete 0 0 0 16384, .mteDiagGo .inband 256 0, .ipAddressWrite .inband 4096 0,
  .straitMemCfgWrite .inband 4096 0, .straitGrpCfgWrite .inband 4096 0, .straitPortWrite .inband 4096 0] : List Instr).all (fun i => !i.wf) = true := by decide
/-- Slots, contexts, tasks, codes, channels, rates, banks, layers, sequences, pages, indexes, units, superblocks, priorities, groups, members, sources, addresses and sensors have the spec's ranges. -/
theorem test_wf_other1 : ([.commandCapsule 0 256 0 sqe0 [] pdu, .commandCapsule 0 0 65536 sqe0 [] pdu, .h2cData 0 65536 0 [] pdu false, .pllUnlock 5, .slotStart false 256, .slotEnd false 256, .lookaheadPrefetch false 256,
  .taskComplete 1024 0, .taskComplete 0 65536, .jobFault 1024 0 0, .jobFault 0 0 65536, .syncDeadlock 1024, .autoRetention (.loc 48 0), .autoRetention (.loc 0 16), .autoRetention (.spad 64), .bankWake (.loc 48 0),
  .bankWake (.loc 0 16), .bankWake (.spad 64), .xmcFlipArm .inband 32, .xmcTracking 32 0 false, .xmcTracking 0 3 false, .stageFetch 1024 0, .stageFetch 0 4096,
  .demoteComplete 1024 0 0 0] : List Instr).all (fun i => !i.wf) = true := by decide
/-- Slots, contexts, tasks, codes, channels, rates, banks, layers, sequences, pages, indexes, units, superblocks, priorities, groups, members, sources, addresses and sensors have the spec's ranges. -/
theorem test_wf_other2 : ([.demoteComplete 0 4096 0 0, .demoteComplete 0 0 4096 0, .pageFetchComplete 1024 0 0 0, .pageFetchComplete 0 4096 0 0, .pageFetchComplete 0 0 4096 0, .compactionSwitch 16, .deltaRebuild 16 false,
  .flashReadComplete 17179869184 readGood, .programComplete 65536 ⟨[], true⟩, .eraseComplete 65536 ⟨[], true⟩, .channelStopsResponding 64, .pfcRepeat 8, .pfcPauseExpiry 8, .pfcFrame 8 0, .pfcFrame 0 65536, .xqPtrFault false 8,
  .straitAckTimer 64 0, .straitAckTimer 0 256, .straitRetransmit 64 0, .straitRetransmit 0 256, .memberStale 64 0, .memberStale 0 256, .tamperEvent 4, .entdaa 128] : List Instr).all (fun i => !i.wf) = true := by decide
/-- Slots, contexts, tasks, codes, channels, rates, banks, layers, sequences, pages, indexes, units, superblocks, priorities, groups, members, sources, addresses and sensors have the spec's ranges. -/
theorem test_wf_other3 : ([.thermalRead 120 0] : List Instr).all (fun i => !i.wf) = true := by decide

/-! ### One step, on values the spec's worked examples and tables give -/

/-- What an outcome's state shows. -/
def after {α : Type} (o : Res) (f : State → α) : Option α := match o with | .next t => some (f t) | _ => none

/-- S3 of core 0 after a register instruction on S1 and S2. -/
def s3After (i : Instr) (a b : DWord) : Option DWord :=
  after (exec i (sCore pkg0 step0 (setS (setS run0 1 a) 2 b))) fun t => ((Machine.core t 0).run.map (getS · 3)).getD 0

/-- RD 3, RA 1, RB 2. -/
def f312 : IFields := { f0 with rd := 3, ra := 1, rb := 2 }

/-- Arithmetic is modulo 2^64 (R165). -/
theorem test_add_wraps : s3After (.add 0 f312) 0xFFFFFFFFFFFFFFFF 2 = some 1 := by decide +kernel
theorem test_sub_order : s3After (.sub 0 f312) 2 5 = some 0xFFFFFFFFFFFFFFFD := by decide +kernel
/-- A shift count is modulo 64, and SRA copies the sign (R165). -/
theorem test_sra_sign : s3After (.sra 0 f312) 0x8000000000000000 68 = some 0xF800000000000000 := by decide +kernel
theorem test_shr_zero_fill : s3After (.shr 0 f312) 0x8000000000000000 4 = some 0x0800000000000000 := by decide +kernel
/-- Comparisons are signed (R165). -/
theorem test_slt_signed : s3After (.slt 0 f312) 0xFFFFFFFFFFFFFFFF 1 = some 1 := by decide +kernel
theorem test_max_signed : s3After (.maxS 0 f312) 0xFFFFFFFFFFFFFFFF 1 = some 1 := by decide +kernel
/-- MOVI sign-extends; MOVHI keeps the low half. The worked example of file 06 moves 262,144. -/
theorem test_movi_example : s3After (.movi 0 { f312 with imm := 0x00040000 }) 0 0 = some 262144 := by decide +kernel
theorem test_movi_sign : s3After (.movi 0 { f312 with imm := 0xFFFFFFFF }) 0 0 = some 0xFFFFFFFFFFFFFFFF := by decide +kernel
/-- J −7, the last line of file 06's worked example, from PC 0xE0 to PC 0x70. -/
theorem test_jump_example :
    after (exec (.j 0 { f0 with imm := 0xFFFFFFF9 }) (sCore pkg0 step0 { run0 with pc := 0xE0 })) (fun t => ((Machine.core t 0).run.map (·.pc)).getD 0) = some 0x70 := by decide +kernel
/-- Tile 32 of tensor table entry 12, BW4 with 16 row blocks, LAYER 7, GEN 3: strip 2 begins (R94, R95, R97, R171). -/
def tile32 : BitVec 256 := tdInit 2 12 32 { actTensor with format := 1, reduceLen := 2047, layer := 7, gen := 3 }
theorem test_tile_descriptor : tdData tile32 % 2 ^ 40 = 264192 ∧ tdScale tile32 % 2 ^ 40 = 10752 ∧ tdTag tile32 = 0x00700203 := by decide

/-- File 04's worked example: inv = 32 and s = 0.03125 of A = 3.96875; the pattern narrows to 32, −16, 8, 64, −48, 24, −4, 96. -/
theorem test_narrow_int8 : narrowAll false 0x407E0000 [0x3F800000, 0xBF000000, 0x3E800000, 0x40000000, 0xBFC00000, 0x3F400000, 0xBE000000, 0x40400000] =
    ([32, -16, 8, 64, -48, 24, -4, 96], 0) := by decide +kernel
/-- 4.5 saturates: 144 is stored as 127 and counted. -/
theorem test_narrow_saturates : narrowAll false 0x407E0000 [0x40900000] = ([127], 1) := by decide +kernel
/-- The INT16 re-run with A = 4.5: 32,639 and 7,253 and −3,627. -/
theorem test_narrow_int16 : narrowAll true 0x40900000 [0x40900000, 0x3F800000, 0xBF000000] = ([32639, 7253, -3627], 0) := by decide +kernel
/-- Column 0 dequantises to −4.5703125, column 1 to 46.5. -/
theorem test_dequantise : deqEl 0x3D000000 0x3C400000 (-12480) = 0xC0924000 ∧ deqEl 0x3D000000 0x3F000000 2976 = 0x423A0000 := by decide +kernel

/-- File 05's worked example: three columns under shift codes 2, 0 and 1, two rows. -/
def exTile : List (List Int) := weighted [[3, -2, 1], [7, 0, -8], [-1, 4, 2], [5, -3, 6]] [[2, 0, 1]]
theorem test_matrix_row : (rowTimes exTile [10, -3, 5, 2]).take 3 = [56, -6, 112] ∧ (rowTimes exTile [-4, 8, 0, 1]).take 3 = [196, 5, -124] := by decide

/-- File 07's seam: tanh reads segment 15 below 1.0 and 16 at 1.0; BF16 of either result of the table is 0x3F43. -/
theorem test_bf16_seam : [0x3F42F7D5, 0x3F42F7D6].map (fconv fp32 bf16) = [0x3F43, 0x3F43] := by decide

/-- File 10's worked example: the integer sum 181,000 at scales 2^−7 and 2^−6 is the distance −22.0947265625. -/
theorem test_distance_example :
    distE8 1 13 ((List.replicate 12 127 ++ [25]) ++ leBytes 4 0x3C000000) ((List.replicate 11 127 ++ [28, 1]) ++ leBytes 4 0x3C800000) = 0xC1B0C200 := by decide +kernel

/-- File 03's table: context 5 on island 1 from 2,000 µs, and context 16 on island 4 with PREEMPT. -/
def slotA : Slot := { w0 := 0x079E07D0, w1 := 0x00040501, w2 := 0, w3 := 0 }
def slotB : Slot := { w0 := 0x079E0000, w1 := 0x00241004, w2 := 0, w3 := 0 }
theorem test_slot_words : [slotA.ctx, slotA.island, slotA.start, slotA.dur, slotA.kind, slotA.cls] = [5, 1, 2000, 1950, 1, 0] ∧ slotA.preempt = false ∧
    [slotB.ctx, slotB.island, slotB.start, slotB.dur, slotB.kind, slotB.cls] = [16, 4, 0, 1950, 1, 0] ∧ slotB.preempt = true := by decide

/-- File 02's worked example: MXC17's counter at 0x800 is read in two halves across four events. -/
def sCnt : State := cntSet 0x51 0x800 0x1FFFFFFFE sReady
theorem test_counter_halves : after (exec (.counterLowRead .inband 0x51 0x800) sCnt) (fun t =>
    (t.out, (readWord .inband 0x51 0x804 (cntAdd 0x51 0x800 4 t)).1, (readWord .sideband 0x51 0x804 t).1)) =
    some ([.reg .inband 0 [0xFFFFFFFE]], 1, 0) := by decide
/-- The page map: page 0x51 is core 17's, and no page 0x04 exists (R45). -/
theorem test_page_map : pageBlock 0x51 = some (0x40, 17) ∧ pageBlock 0x9F = some (0x90, 15) ∧ pageBlock 0x04 = none := by decide
/-- File 02: the level word 0x102 is refused, 0x101 is taken (R6, R7). -/
theorem test_level_word : after (exec (.iflevelSelect .inband 0x102) sReady) (fun t => (t.chip.level1, t.err.ring.length)) = some (false, 1) := by decide

/-- File 15's worked example: the detail words of task 211 on MXC30 at step 52,118, PC 0x12A40. -/
def sDetail : State :=
  { sRun with ctxs := [(16, { ctx0 pkg0 (some step0) with stepNo := 52118 })], cores := [(30, { Core.reset with run := some { run0 with ctx := 16, task := 211, pc := 0x12A40 } })] }
theorem test_detail_words : stepDetail sDetail 16 (some 30) = (0x00D37810, 0xB96012A4) := by decide
/-- CHECK_FAIL of MXC30 is recorded on page 0x5E, XM_CORRECTED of channel 9 on page 0x94. -/
theorem test_fault_page : faultPlace (some 30) 0x4001 = (0x5E, 0) := by decide

/-- File 16's worked example: 165 W over the limit gates 15 arrays, MXC47 to MXC33. -/
def sIsland0 : State := { sReady with islands := [(0, 2 ^ 48 - 1)] }
theorem test_gating_example : gatedCores (regate 860000 700000 sIsland0) = List.range' 33 15 := by decide +kernel

/-- File 13's worked example: an ACQUIRING module 8,420 ns ahead steps fabric time back. -/
def sAhead : State :=
  { sReady with time := { sReady.time with master := 100000, replica := 100000 }, sext := { SextSt.reset with st := .acquiring } }
theorem test_step_back : (measure 8420 sAhead).time.master = 91580 ∧ (measure 8420 sAhead).sext.st = .acquiring := by decide

/-- File 14's worked example: an erased byte 0 fails check 1 (R444). -/
theorem test_erased_image : (match imageCheck sReady (List.replicate 8192 0xFF) with | .error n => n | .ok _ => 0) = 1 := by decide +kernel
/-- File 11's worked example: a wordline takes 496 data units; superblock 4,100 lies in group 4. -/
theorem test_wordline_units : wlUnits false = 496 ∧ 31744 % 32 = 0 ∧ 4100 % 32 = 4 := by decide

/-- The known answer of FIPS 202 for SHA3-512 of no bytes begins a6 9f 73 cc a2 3a 9a c5. -/
theorem test_sha3 : (sha3_512 []).take 8 = [0xA6, 0x9F, 0x73, 0xCC, 0xA2, 0x3A, 0x9A, 0xC5] := by decide +kernel
/-- The check value of CRC-32C over the characters 1 to 9. -/
theorem test_crc32c : crc32c [0x31, 0x32, 0x33, 0x34, 0x35, 0x36, 0x37, 0x38, 0x39] = 0xE3069283 := by decide +kernel

/-- The table gives its rows no bits, so no word spells a command. -/
theorem test_decode_none : decodeTableWord 32 0x12345678 = none ∧ (sReady.withFetchWord 32 5) = sReady := by decide

end Sys2Proof.Tests
end

section
/-! PROOFS. Refusal of an instruction at fetch and at issue (R9, R57, R165): every instruction that a core issues stands behind the
same two checks, so one fault lemma per check serves all of them. -/
namespace Sys2Proof.Machine
open Sys2Proof

/-- A core that runs a task of a step hands a command its run, its context and its step. -/
theorem onCore_runs {s : State} {k : Nat} {r : Run} {c : Ctx} {st : Step} (h : CoreRuns s k r c st) (g : Run → Ctx → Step → Res) :
    onCore k s g = g r c st := by
  obtain ⟨hcore, hrun, hgoing, hfree, hctx, hstep⟩ := h
  have hk : ¬ 48 ≤ k := by omega
  simp [onCore, hk, hrun, hgoing, hfree, hctx, hstep]

theorem aBad_of_le {i : BitVec 4} (h : 8 ≤ i.toNat) : aBad i = true := decide_eq_true h

/-- Instruction `i` of core `k` is issued under the checks of R57 and R165: `l1` says that it carries the mark of level 1, `bad`
that its fields are invalid. -/
def IssuedUnder (i : Instr) (k : Nat) (l1 bad : Bool) : Prop := ∀ s, ∃ g, exec i s = insn k l1 bad s g

section
variable {s : State} {i : Instr} {k : Nat} {r : Run} {c : Ctx} {st : Step} {bad : Bool}

/-- At level 1 an instruction without the mark faults, whatever its fields hold (R57). -/
theorem IssuedUnder.level_fault (hi : IssuedUnder i k false bad) (h : CoreRuns s k r c st) (hl : s.chip.level1 = true) :
    exec i s = .next (jobFault r.ctx (some k) cINSTR_LEVEL s) := by
  obtain ⟨g, hg⟩ := hi s
  exact hg.trans (insn_level h bad g hl)

/-- A marked instruction with invalid fields faults at either level (R165). -/
theorem IssuedUnder.invalid_fault (hi : IssuedUnder i k true bad) (h : CoreRuns s k r c st) (hb : bad = true) :
    exec i s = .next (jobFault r.ctx (some k) cINSTR_INVALID s) := by
  obtain ⟨g, hg⟩ := hi s
  subst hb
  exact hg.trans (insn_bad h true g (Bool.and_false _))

/-- A core that fetches a reserved class faults (R9). -/
theorem reservedClassFetch_fault (h : CoreRuns s k r c st) {cls : BitVec 4} (hcls : 12 ≤ cls.toNat) :
    exec (.reservedClassFetch k cls) s = .next (jobFault r.ctx (some k) 0x3040 s) :=
  calc exec (.reservedClassFetch k cls) s
    _ = execReservedClassFetch k cls s := rfl
    _ = onCore k s fun r _ _ => coreFault k r 0x3040 s := if_neg (Nat.not_lt.mpr hcls)
    _ = coreFault k r 0x3040 s := onCore_runs h _

end

/-! ### The checks that each instruction stands behind -/

section
variable (k : Nat) (f : IFields)

theorem acc48_issuedUnder : IssuedUnder (.acc48 k f) k false (dmaBad f true) := fun _ => ⟨_, rfl⟩
theorem conv2d_issuedUnder : IssuedUnder (.conv2d k f) k false (matBad f || extF f 12 0 != 0 || aBad f.rc) := fun _ => ⟨_, rfl⟩
theorem embed8_issuedUnder : IssuedUnder (.embed8 k f) k false (modBad f 0 || extF f 17 16 == 3 || aBad f.ra || aBad f.rd) :=
  fun _ => ⟨_, rfl⟩
theorem slotwait_issuedUnder : IssuedUnder (.slotwait k f) k false (modBad f 1) := fun _ => ⟨_, rfl⟩
theorem peerSearch_issuedUnder : IssuedUnder (.peerSearch k f) k false (modBad f 0 || aBad f.ra || aBad f.rd) := fun _ => ⟨_, rfl⟩

theorem add_issuedUnder : IssuedUnder (.add k f) k true (modBad f 0) := fun _ => ⟨_, rfl⟩
theorem j_issuedUnder : IssuedUnder (.j k f) k true (modBad f 0) := fun _ => ⟨_, rfl⟩
theorem tdinit_issuedUnder : IssuedUnder (.tdinit k f) k true (modBad f 0) := fun _ => ⟨_, rfl⟩
theorem fence_issuedUnder : IssuedUnder (.fence k f) k true (modBad f 0) := fun _ => ⟨_, rfl⟩

theorem ld_issuedUnder : IssuedUnder (.ld k f) k true (modBad f 0 || aBad f.ra) := fun _ => ⟨_, rfl⟩
theorem st_issuedUnder : IssuedUnder (.st k f) k true (modBad f 0 || aBad f.ra) := fun _ => ⟨_, rfl⟩
theorem tos_issuedUnder : IssuedUnder (.tos k f) k true (modBad f 0 || aBad f.ra) := fun _ => ⟨_, rfl⟩
theorem tdload_issuedUnder : IssuedUnder (.tdload k f) k true (modBad f 0 || aBad f.ra) := fun _ => ⟨_, rfl⟩
theorem ssend_issuedUnder : IssuedUnder (.ssend k f) k true (modBad f 0 || aBad f.ra) := fun _ => ⟨_, rfl⟩
theorem copy_issuedUnder : IssuedUnder (.copy k f) k true (dmaBad f true) := fun _ => ⟨_, rfl⟩

end

/-- The source register of a DMA instruction is an A register (R165, R170). -/
theorem dmaBad_of_aBad_ra {f : IFields} (h : aBad f.ra = true) : dmaBad f true = true := by simp [dmaBad, h]

/-- Settles O16: each instruction is sent through the issue checks it stands behind; the fetch of a reserved class ends before them. -/
theorem instructionRefusedAtIssue : Obligations.InstructionRefusedAtIssue := by
  unfold Obligations.InstructionRefusedAtIssue
  intro s k f r c st h
  refine ⟨fun _ hcls => reservedClassFetch_fault h hcls, fun hl => ?level, fun hmod => ?modifier, fun hra => ?register⟩
  case level =>
    exact ⟨(acc48_issuedUnder k f).level_fault h hl, (conv2d_issuedUnder k f).level_fault h hl,
      (embed8_issuedUnder k f).level_fault h hl, (slotwait_issuedUnder k f).level_fault h hl,
      (peerSearch_issuedUnder k f).level_fault h hl⟩
  case modifier =>
    have hbad : (modBad f 0 || aBad f.ra) = true := by rw [hmod, Bool.true_or]
    exact ⟨(add_issuedUnder k f).invalid_fault h hmod, (ld_issuedUnder k f).invalid_fault h hbad,
      (j_issuedUnder k f).invalid_fault h hmod, (tdinit_issuedUnder k f).invalid_fault h hmod,
      (fence_issuedUnder k f).invalid_fault h hmod⟩
  case register =>
    have ha : aBad f.ra = true := aBad_of_le hra
    have hbad : (modBad f 0 || aBad f.ra) = true := by rw [ha, Bool.or_true]
    exact ⟨(ld_issuedUnder k f).invalid_fault h hbad, (st_issuedUnder k f).invalid_fault h hbad,
      (tos_issuedUnder k f).invalid_fault h hbad, (copy_issuedUnder k f).invalid_fault h (dmaBad_of_aBad_ra ha),
      (tdload_issuedUnder k f).invalid_fault h hbad, (ssend_issuedUnder k f).invalid_fault h hbad⟩

end Sys2Proof.Machine
end

section
/-! PROOFS. The register access check (R37, R38) and what REGISTER_WRITE answers where an access is refused (R13, R35). -/
namespace Sys2Proof.Machine
open Sys2Proof

/-- What the in-band and sideband paths may still access in TAMPERED and DECOMMISSIONED: reads of the CHIP and ERR pages, writes
of the RW1C words of the ERR page (R38). -/
def openWhenLocked (page off : Nat) : Bool → Bool
  | true => errW1c page off
  | false => page == 0x00 || page == 0xE0

theorem openWhenLocked_read_iff (page off : Nat) : openWhenLocked page off false = true ↔ page = 0x00 ∨ page = 0xE0 := by
  simp [openWhenLocked]

theorem openWhenLocked_write_iff (page off : Nat) :
    openWhenLocked page off true = true ↔ page = 0xE0 ∧ (off = 0x010 ∨ off = 0x108) := by
  simp [openWhenLocked, errW1c]

theorem accessLocked_iff (s : State) : accessLocked s = true ↔ lifecycle s = .tampered ∨ lifecycle s = .decommissioned := by
  simp [accessLocked]

theorem computePage_msp : computePage 0x03 = false := rfl

theorem page_of_openWhenLocked {page off : Nat} {wr : Bool} (h : openWhenLocked page off wr = true) : page = 0x00 ∨ page = 0xE0 := by
  cases wr with
  | false => exact (openWhenLocked_read_iff page off).1 h
  | true => exact .inr ((openWhenLocked_write_iff page off).1 h).1

section
variable {p : Path} {page off : Nat} {wr : Bool} {s : State}

/-- Only the management core writes the MSP page (R37). -/
theorem regGate_msp_write (hp : p ≠ .mgmt) : regGate p 0x03 off true s = some 0x0004 := if_pos ⟨rfl, rfl, hp⟩

/-- Whether a locked access meets R37 or R38 first, its status is REG_DENIED. -/
theorem regGate_denied (hl : accessLocked s = true) (hp : p ≠ .mgmt) (hshut : openWhenLocked page off wr = false) :
    regGate p page off wr s = some 0x0004 := by
  unfold regGate
  split
  · rfl
  · cases wr <;> exact if_pos ⟨hl, hp, congrArg not hshut⟩

/-- An access to a page of the I/O die passes where neither R37 nor R38 refuses it. -/
theorem regGate_passes (hmsp : page = 0x03 → wr = true → p = .mgmt)
    (hopen : accessLocked s = true → p ≠ .mgmt → openWhenLocked page off wr = true) (hio : computePage page = false) :
    regGate p page off wr s = none := by
  have h37 : ¬ (page = 0x03 ∧ wr = true ∧ p ≠ .mgmt) := fun ⟨hpage, hwr, hp⟩ => hp (hmsp hpage hwr)
  have h38 : ¬ (accessLocked s = true ∧ p ≠ .mgmt ∧ (!openWhenLocked page off wr) = true) := fun ⟨hl, hp, hshut⟩ => by
    simp [hopen hl hp] at hshut
  have h39 : ¬ (s.qcu.ps.inForce = 4 ∧ p ≠ .inband ∧ computePage page = true) := fun ⟨_, _, hc⟩ => by simp [hio] at hc
  cases wr <;> exact (if_neg h37).trans ((if_neg h38).trans (if_neg h39))

/-- What stays open passes on every path: the pages lie on the I/O die, so PS4 does not close them either (R38, R39). -/
theorem regGate_open (hopen : openWhenLocked page off wr = true) : regGate p page off wr s = none := by
  have hpage : page = 0x00 ∨ page = 0xE0 := page_of_openWhenLocked hopen
  have hio : computePage page = false := by obtain rfl | rfl := hpage <;> rfl
  exact regGate_passes (fun hmsp _ => by omega) (fun _ _ => hopen) hio

end

/-! ### Why a write of one word is refused (R13, R35, R37, R38) -/

section
variable {p : Path} {page off : Nat} {w : Word} {s : State}

theorem accessRefusal_misaligned (n cap : Nat) (ws : Option (List Word)) (h : off % 4 ≠ 0) :
    accessRefusal p page off n cap ws s = some 0x0002 := if_pos h

theorem accessRefusal_word_beyond (h4 : off % 4 = 0) (h : 0xFFC < off) : accessRefusal p page off 1 1 (some [w]) s = some 0x0003 := by
  simp [accessRefusal, h4, h]

theorem accessRefusal_word_gated {c : Code} (h4 : off % 4 = 0) (hle : off ≤ 0xFFC) (hc : regGate p page off true s = some c) :
    accessRefusal p page off 1 1 (some [w]) s = some c := by
  simp [accessRefusal, h4, Nat.not_lt.2 hle, List.range_succ, hc]

/-- A refused REGISTER_WRITE answers the status and changes nothing else. -/
theorem registerWrite_refused {c : Code} (hpow : s.chip.powered = true) (hc : accessRefusal p page off 1 1 (some [w]) s = some c) :
    exec (.registerWrite p page off w) s = .next (emit (.reg p c []) s) := by
  show execRegisterWrite p page off w s = _
  simp [execRegisterWrite, hpow, hc, ok]

end

/-- Settles O7: R37 and R38 as the refusals of the access check, R13 and R35 as the refusals before it. -/
theorem registerAccessRules : Obligations.RegisterAccessRules := by
  unfold Obligations.RegisterAccessRules
  refine ⟨fun s p off w hp => ⟨regGate_msp_write hp, fun hpow h4 hle => ?mspWord⟩, fun s off => ?mspManaged, fun s p off ht hd => ?mspRead,
    fun s p page off hlife hp => ?locked, fun s p page off w hpow => ?write⟩
  case mspWord => exact registerWrite_refused hpow (accessRefusal_word_gated h4 hle (regGate_msp_write hp))
  case mspManaged => exact regGate_passes (fun _ _ => rfl) (fun _ hp => absurd rfl hp) computePage_msp
  case mspRead =>
    have hfree : accessLocked s ≠ true := fun hl => ((accessLocked_iff s).1 hl).elim ht hd
    exact regGate_passes (fun _ h => absurd h Bool.false_ne_true) (fun hl => absurd hl hfree) computePage_msp
  case locked =>
    have hl : accessLocked s = true := (accessLocked_iff s).2 hlife
    have hread := openWhenLocked_read_iff page off
    have hwrite := openWhenLocked_write_iff page off
    refine ⟨fun h => regGate_open (hread.2 h), fun h0 hE0 => regGate_denied hl hp ?_,
      fun hpage hoff => regGate_open (hwrite.2 ⟨hpage, hoff⟩), fun h => regGate_denied hl hp ?_⟩
    · exact Bool.eq_false_iff.2 fun hopen => (hread.1 hopen).elim h0 hE0
    · refine Bool.eq_false_iff.2 fun hopen => ?_
      obtain ⟨hpage, hoff⟩ := hwrite.1 hopen
      omega
  case write =>
    exact ⟨fun h4 => registerWrite_refused hpow (accessRefusal_misaligned 1 1 _ h4),
      fun h4 hgt => registerWrite_refused hpow (accessRefusal_word_beyond h4 hgt),
      fun c h4 hle hc => registerWrite_refused hpow (accessRefusal_word_gated h4 hle hc)⟩

end Sys2Proof.Machine
end

section
/-! PROOFS. Page headers as errors are raised and ERR_STATUS is cleared (R42, R43). -/
namespace Sys2Proof.Machine
open Sys2Proof

theorem Posts.hdr_eq {s t : State} (h : Posts s t) (q : Nat) : hdr t q = hdr s q := by
  obtain ⟨c, k, o, rfl⟩ := h.only
  rfl

/-- Writing a record to the ring, or dropping it, leaves every header. -/
theorem hdr_ringWrite (r : ErrRec) (s : State) (q : Nat) : hdr (ringWrite r s) q = hdr s q := by
  unfold ringWrite
  split
  · exact hdr_cntAdd _ _ _ _ _
  · rfl

/-- An error of a page source reaches the headers through its own page's only: counts, record and event leave them. -/
theorem hdr_recordErr {r : Raise} {b : Nat} (hb : r.bit = some b) (s : State) (q : Nat) :
    hdr (recordErr r s) q = if q = r.page then hdrError b r.code (hdr s r.page) else hdr s q := by
  rw [← hdr_modHdr]
  unfold recordErr
  extract_lets nested masked raised counted nestCounted rec_ written kept
  have hraised : raised = modHdr r.page (hdrError b r.code) s := by simp only [raised, hb]
  have hnest : hdr nestCounted q = hdr raised q := by
    unfold nestCounted counted
    split <;> simp only [hdr_cntAdd]
  have hwritten : hdr written q = hdr nestCounted q := by
    unfold written
    split
    · rfl
    · exact hdr_ringWrite _ _ q
  have hkept : hdr kept q = hdr written q := by
    unfold kept
    split <;> rfl
  have hown : hdr kept q = hdr (modHdr r.page (hdrError b r.code) s) q := by rw [hkept, hwritten, hnest, hraised]
  split
  · exact hown
  · exact ((postAll_posts 7 1 0xC1 kept).hdr_eq q).trans hown

/-- ERR_FIRST keeps bit and code of the first error (R43). -/
theorem hdrError_first_kept (b code : Nat) {h : PageHdr} (hs : h.errStatus ≠ 0) :
    (hdrError b code h).firstBit = h.firstBit ∧ (hdrError b code h).firstCode = h.firstCode := ⟨if_neg hs, if_neg hs⟩

/-- ERR_FIRST captures an error that fires while ERR_STATUS reads 0 (R43). -/
theorem hdrError_first_captured (b code : Nat) {h : PageHdr} (hs : h.errStatus = 0) :
    (hdrError b code h).firstValid = true ∧ (hdrError b code h).firstBit = b ∧ (hdrError b code h).firstCode = code :=
  ⟨rfl, if_pos hs, if_pos hs⟩

/-- ERR_STATUS comes to read 0: VALID, BIT and CODE clear with it (R43). -/
theorem hdr_clearErrStatus_zero {page : Nat} {w : Word} {s : State} (hz : (hdr s page).errStatus &&& ~~~w = 0) :
    hdr (clearErrStatus page w s) page = { hdr s page with errStatus := 0, firstValid := false, firstBit := 0, firstCode := 0 } := by
  rw [clearErrStatus, hdr_modHdr, if_pos rfl]
  exact if_pos hz

/-- A bit of ERR_STATUS stays set: ERR_FIRST is kept (R43). -/
theorem hdr_clearErrStatus_nonzero {page : Nat} {w : Word} {s : State} (hnz : (hdr s page).errStatus &&& ~~~w ≠ 0) :
    hdr (clearErrStatus page w s) page = { hdr s page with errStatus := (hdr s page).errStatus &&& ~~~w } := by
  rw [clearErrStatus, hdr_modHdr, if_pos rfl]
  exact if_neg hnz

/-- Settles O8: an error reaches the headers by `hdrError` on its own page, a clear by whether a bit of ERR_STATUS stays set. -/
theorem errFirstCapture : Obligations.ErrFirstCapture := by
  unfold Obligations.ErrFirstCapture
  refine ⟨fun s r b hb _ => ?raise, fun s p page w hreach => ⟨clearErrStatus page w s, regRow_runs hreach _, ?clear⟩⟩
  case raise =>
    have hown : hdr (recordErr r s) r.page = hdrError b r.code (hdr s r.page) := (hdr_recordErr hb s r.page).trans (if_pos rfl)
    dsimp only
    rw [hown]
    exact ⟨rfl, rfl, hdrError_first_captured b r.code, hdrError_first_kept b r.code,
      fun q hq => (hdr_recordErr hb s q).trans (if_neg hq)⟩
  case clear =>
    by_cases hz : (hdr s page).errStatus &&& ~~~w = 0
    · rw [hdr_clearErrStatus_zero hz]
      exact ⟨hz.symm, fun _ => ⟨rfl, rfl, rfl⟩, fun hnz => absurd hz hnz⟩
    · rw [hdr_clearErrStatus_nonzero hz]
      exact ⟨rfl, fun h0 => absurd h0 hz, fun _ => ⟨rfl, rfl, rfl⟩⟩

end Sys2Proof.Machine
end

section
/-! PROOFS. DEQ (R103, R104, R178, R179): what a DEQ whose checks pass reads, and the elements it stores. -/
namespace Sys2Proof.Machine
open Sys2Proof

/-! ### Fields of a slice -/

theorem leNat_append_zeros (l : List Byte) (n : Nat) : leNat (l ++ List.replicate n 0) = leNat l := by
  induction l with
  | nil =>
    induction n with
    | zero => rfl
    | succ n ih => exact congrArg (fun x => (0 : Byte).toNat + 256 * x) ih
  | cons b l ih => rw [List.cons_append, leNat, leNat, ih]

/-- A field inside a slice is the field of the bytes sliced: past their end both read as 0. -/
theorem fld_slice (b : List Byte) (off : Nat) {n p m : Nat} (h : p + m ≤ n) : fld (slice b off n) p m = fld b (off + p) m := by
  have hmin : min m (n - p) = m := by omega
  simp only [fld, slice, List.drop_append, List.take_append, List.drop_replicate, List.take_replicate, List.drop_take, List.take_take,
    List.drop_drop, leNat_append_zeros, hmin]

/-! ### Rows of 128 sums -/

/-- `rows` rows of 128 columns whose element in row `v` and column `j` is `el v j`. -/
def sumRows (rows : Nat) (el : Nat → Nat → Nat) : List (List Nat) := (List.range rows).map fun v => (List.range 128).map (el v)

theorem sumRows_getD {rows v : Nat} (h : v < rows) (el : Nat → Nat → Nat) : (sumRows rows el).getD v [] = (List.range 128).map (el v) := by
  simp [sumRows, h]

/-- Partial-sum rows: 768 bytes a row, 6 bytes a sum (R178). -/
theorem partialRows_eq (b : List Byte) (rows : Nat) :
    (List.range rows).map (partialRow b) = sumRows rows fun v j => fld b (768 * v + 6 * j) 6 := by
  refine List.map_congr_left fun v _ => List.map_congr_left fun j hj => ?_
  have : j < 128 := List.mem_range.1 hj
  exact fld_slice b (768 * v) (by omega)

/-- Accumulator rows: 128 elements a row. -/
theorem accRows_eq {l : List Nat} {rows : Nat} (hl : l.length = rows * 128) :
    ((List.range rows).map fun i => (l.drop (128 * i)).take 128) = sumRows rows fun v j => l.getD (v * 128 + j) 0 := by
  refine List.map_congr_left fun v hv => ?_
  have hv : v < rows := List.mem_range.1 hv
  refine List.ext_getElem (by simp; omega) fun j _ hj => ?_
  have hj : j < 128 := by simpa using hj
  have hlt : v * 128 + j < l.length := by omega
  simp [Nat.mul_comm 128 v, List.getElem?_eq_getElem hlt]

theorem accReads_length {k e n : Nat} {s u : State} {l : List Nat} (h : accReads k e n s = (some l, u)) : l.length = n := by
  induction n generalizing e s l with
  | zero => cases h; rfl
  | succ n ih =>
    unfold accReads at h
    split at h
    · cases h
    · split at h
      · cases h
      next hrest => cases h; exact congrArg (· + 1) (ih hrest)

section
variable {k n : Nat} {r : Run} {f : IFields} {s t : State}

theorem deqRows_partial (hmd : f.md.toNat % 2 = 1) {b : List Byte}
    (hread : instrRead s k r.ctx (getA r f.ra).toNat (n * 768) = (.data b, t)) (g : List (List Nat) → State → Res) :
    deqRows k r f n s g = g (sumRows n fun v j => fld b (768 * v + 6 * j) 6) t := by
  rw [deqRows, if_pos hmd, rdThen_data hread, partialRows_eq]

theorem deqRows_acc (hmd : f.md.toNat % 2 = 0) {l : List Nat}
    (hread : accReads k (extF f 5 0 * 128) (n * 128) s = (some l, t)) (g : List (List Nat) → State → Res) :
    deqRows k r f n s g = g (sumRows n fun v j => l.getD (v * 128 + j) 0) t := by
  rw [deqRows, if_neg (by omega), hread, ← accRows_eq (accReads_length hread)]

end

/-! ### Sums and elements -/

/-- The complete sum of an element, by the signed elements of the rows read: R, or W = 256 × H + L with H `n` rows after L (R103). -/
def wholeSum (wide : Bool) (n : Nat) (el : Nat → Nat → Int) (v j : Nat) : Int := if wide then 256 * el (n + v) j + el v j else el v j

theorem deqSums_sumRows (wide : Bool) (n : Nat) (el : Nat → Nat → Nat) :
    deqSums wide n (sumRows (n * if wide then 2 else 1) el)
      = (List.range n).map fun v => (List.range 128).map (wholeSum wide n (fun v j => signed 48 (el v j)) v) := by
  refine List.map_congr_left fun v hv => ?_
  have hv : v < n := List.mem_range.1 hv
  cases wide with
  | false =>
    have hrow : v < n * 1 := by omega
    simp only [Bool.false_eq_true, if_false, sumRows_getD hrow, List.map_map]
    rfl
  | true =>
    have hlow : v < n * 2 := by omega
    have hhigh : n + v < n * 2 := by omega
    simp only [if_true, sumRows_getD hlow, sumRows_getD hhigh, List.zipWith_map, List.zipWith_self]
    rfl

/-! ### Column scales -/

/-- The 128 column scales `cs` as a list. -/
def colList (cs : Nat → Nat) : List Nat := (List.range 128).map cs

theorem badScale_none {cs : Nat → Nat} (h : ∀ j < 128, isFin (bfTo32 (cs j)) = true) : badScale (colList cs) = none := by
  simpa [badScale, colList] using h

/-- The first column scale that is not finite is the one reported. -/
theorem badScale_some {cs : Nat → Nat} {j : Nat} (hj : j < 128) (hbad : isFin (bfTo32 (cs j)) = false)
    (hbefore : ∀ i < j, isFin (bfTo32 (cs i)) = true) : badScale (colList cs) = some j := by
  rw [badScale, List.findIdx?_eq_some_iff_getElem]
  exact ⟨by simpa [colList] using hj, by simp [colList, hbad], fun i hi => by simp [colList, hbefore i hi]⟩

/-- The elements of a DEQ, row by row: those of the rows' sums and the column scales. -/
theorem deqElems_eq (wide : Bool) (n sc : Nat) (el : Nat → Nat → Nat) (cs : Nat → Nat) :
    ((deqSums wide n (sumRows (n * if wide then 2 else 1) el)).flatMap fun vs =>
        List.zipWith (fun v c => canon (deqEl sc c v)) vs ((colList cs).map bfTo32))
      = (List.range n).flatMap fun v => (List.range 128).map fun j =>
          canon (fmul (fofInt (wholeSum wide n (fun v j => signed 48 (el v j)) v j)) (fmul sc (bfTo32 (cs j)))) := by
  simp only [deqSums_sumRows, colList, List.flatMap_map, List.map_map, List.zipWith_map, List.zipWith_self]
  rfl

/-! ### A DEQ whose checks pass -/

/-- Where `s` and the form of the sums come from: IMM32 and PAIR, or the accepted narrowing of the point NP (R178). -/
def DeqScale (c : Ctx) (st : Step) (f : IFields) (sc : Nat) (wide : Bool) : Prop :=
  extF f 17 6 = 0 ∧ sc = f.imm.toNat ∧ wide = decide (extF f 20 20 = 1) ∨
    ∃ e t p, extF f 20 20 = 0 ∧ actEntry c.pkg (extF f 17 6) = some (e, t) ∧ extF f 17 6 ≠ 0 ∧ smFind st.np e = some p ∧
      p.verdict = .accept ∧ sc = p.s ∧ wide = p.int16

/-- Where the column scales come from: 1.0, or a latch with the layer and generation asked for, which no instruction in progress
replaces (R178, R179). -/
def DeqCols (r : Run) (f : IFields) (cs : Nat → Nat) : Prop :=
  extF f 21 21 = 0 ∧ (∀ j, cs j = 0x3F80) ∨
    ∃ tag l, extF f 21 21 = 1 ∧ r.latch = some (tag, l) ∧ tag = extF f 63 52 * 2 ^ 20 + bits tag 19 4 * 2 ^ 4 + extF f 51 48 ∧
      l.length = 128 ∧ (∀ j, cs j = l.getD j 0) ∧ r.mat = none

/-- The `rows` source rows of a DEQ of `n` rows may be read: partial-sum rows in core-local memory, or accumulator rows (R178). -/
inductive DeqSource (s : State) (k : Nat) (f : IFields) (r : Run) (st : Step) (n rows : Nat) : Prop where
  | part (mode : f.md.toNat % 2 = 1) (index : f.ra.toNat < 8) (count : n ≤ 2 ^ 20) (aligned : (getA r f.ra).toNat % 64 = 0)
      (window : windowOf (getA r f.ra).toNat = 0) (reads : CanRead s k r st (Ext.one (getA r f.ra).toNat (rows * 768)))
  | acc (mode : f.md.toNat % 2 = 0) (inside : extF f 5 0 + rows ≤ 64) (kept : accDiscarded st k (extF f 5 0) rows = false)
      (written : accPending r (extF f 5 0) rows = false)

/-- A DEQ of `n` rows that the core takes, with its scale, its column scales and its destination, which it may write. -/
structure DeqTaken (s : State) (k : Nat) (f : IFields) (r : Run) (c : Ctx) (st : Step) (n sc : Nat) (wide : Bool) (cs : Nat → Nat) : Prop where
  runs : CoreRuns s k r c st
  brakeOff : brakeLevel s = false
  count : n = (getS r f.rc).toNat
  typed : extF f 19 18 < 3
  index : f.rd.toNat < 8
  modifier : modBad f 1 = false
  reserved : extF f 47 22 = 0
  scale : DeqScale c st f sc wide
  cols : DeqCols r f cs
  some_row : 1 ≤ n
  aligned : (getA r f.rd).toNat % elBytes (extF f 19 18) = 0
  writes : CanWrite s k r (Ext.one (getA r f.rd).toNat (n * 128 * elBytes (extF f 19 18)))

theorem deqScale_ok {c : Ctx} {st : Step} {f : IFields} {sc : Nat} {wide : Bool} (h : DeqScale c st f sc wide) (k : Nat) (r : Run) (s : State) :
    deqScale k r c st f s = .ok (sc, wide) := by
  obtain ⟨himm, rfl, rfl⟩ | ⟨e, t, p, _, hact, hnp, hfind, haccept, rfl, rfl⟩ := h
  · simp [deqScale, himm]
  · simp [deqScale, hnp, hact, hfind, haccept]

/-- PAIR is 0 where a narrowing point gives the scale. -/
theorem DeqScale.pair_valid {c : Ctx} {st : Step} {f : IFields} {sc : Nat} {wide : Bool} (h : DeqScale c st f sc wide) :
    (extF f 17 6 != 0 && extF f 20 20 == 1) = false := by
  obtain ⟨himm, _⟩ | ⟨_, _, _, hpair, _⟩ := h
  · simp [himm]
  · simp [hpair]

theorem deqCols_ok {r : Run} {f : IFields} {cs : Nat → Nat} (h : DeqCols r f cs) (k : Nat) (s : State) : deqCols k r f s = .ok (colList cs) := by
  obtain ⟨hone, hcs⟩ | ⟨tag, l, hlatched, hlatch, htag, hlen, hcs, _⟩ := h
  · obtain rfl : cs = fun _ => 0x3F80 := funext hcs
    simp [deqCols, hone, colList, List.map_const']
  · obtain rfl : cs = fun j => l.getD j 0 := funext hcs
    have hl : colList (fun j => l.getD j 0) = l := by
      refine List.ext_getElem (by simp [colList, hlen]) fun j _ hj => ?_
      simp [colList, List.getElem?_eq_getElem hj]
    rw [deqCols, if_neg (by omega), hlatch]
    exact (if_neg (fun hne => hne htag)).trans (congrArg _ hl.symm)

/-- A DEQ that reads the latch has no matrix instruction in progress to wait for (R179). -/
theorem DeqCols.latch_free {r : Run} {f : IFields} {cs : Nat → Nat} (h : DeqCols r f cs) : extF f 21 21 = 0 ∨ r.mat = none := by
  obtain ⟨hone, _⟩ | ⟨_, _, _, _, _, _, _, hmat⟩ := h
  · exact .inl hone
  · exact .inr hmat

/-- What a DEQ of `n` rows does once its checks pass: the column scales are looked at first, then the rows are read, and their
elements stored. -/
def deqBody (k : Nat) (f : IFields) (r : Run) (n sc : Nat) (wide : Bool) (cs : Nat → Nat) (s : State) : Res :=
  match badScale (colList cs) with
  | some i => vsuFault k r 0x4011 i s
  | none => deqRows k r f (n * if wide then 2 else 1) s fun rows s =>
    wrThen k r.ctx (getA r f.rd).toNat (unElems (extF f 19 18) ((deqSums wide n rows).flatMap fun vs =>
      List.zipWith (fun v c => canon (deqEl sc c v)) vs ((colList cs).map bfTo32))) s fun s => ok (advance k (vsuCnt k 0xA00 (n * 128) s))

section
variable {s : State} {k : Nat} {f : IFields} {r : Run} {c : Ctx} {st : Step} {n sc : Nat} {wide : Bool} {cs : Nat → Nat}

theorem chkCount_none {lo hi : Nat} (hlo : lo ≤ n) (hhi : n ≤ hi) : chkCount k r n lo hi s = none := if_neg (by omega)

theorem chkAlign_none {a m : Nat} (h : a % m = 0) : chkAlign k r a m s = none := if_neg (fun hne => hne h)

/-- The rows that accumulator memory has from SRC_ROW on suffice. -/
theorem count_le_of_rows {row w : Nat} (hw : 0 < w) (h : row + n * w ≤ 64) : n ≤ (64 - row) / w :=
  (Nat.le_div_iff_mul_le hw).2 (by omega)

theorem exec_deq (ht : DeqTaken s k f r c st n sc wide cs) (hsrc : DeqSource s k f r st n (n * if wide then 2 else 1)) :
    exec (.deq k f) s = deqBody k f r n sc wide cs s := by
  obtain ⟨hruns, hbrake, rfl, htyped, hrd, hmod, hrsvd, hscale, hcols, hsome, haligned, hwrites⟩ := ht
  have htd : (extF f 19 18 == 3) = false := by simp; omega
  have hn : (getS r f.rc).toNat ≠ 0 := by omega
  show execDeq k f s = _
  unfold execDeq
  extract_lets part td cols row
  have hvalid : (modBad f 1 || td == 3 || extF f 47 22 != 0 || (extF f 17 6 != 0 && extF f 20 20 == 1) || aBad f.rd || (part && aBad f.ra)) = false := by
    have hra : (part && aBad f.ra) = false := by
      cases hsrc with
      | part _ index => rw [aBad_false index, Bool.and_false]
      | acc mode => simp [part, mode]
    simp [hmod, td, htd, hrsvd, hscale.pair_valid, aBad_false hrd, hra]
  rw [vsuInsn_runs hruns _ (Bool.and_false _) hvalid hbrake]
  extract_lets b a d busyLatch
  rw [deqScale_ok hscale, deqBody]
  dsimp only
  have hw : 0 < if wide then 2 else 1 := by split <;> decide
  generalize (if wide = true then 2 else 1) = w at hw hsrc ⊢
  rw [afterChecks_none, deqCols_ok hcols]
  · simp only [b, hn, if_false]
    rfl
  · have hfree : busyLatch = false := by obtain h | h := hcols.latch_free <;> simp [busyLatch, cols, h]
    cases hsrc with
    | part mode _ count aligned window reads =>
      simp [-Nat.reducePow, part, mode, a, d, td, b, chkCount_none (Nat.zero_le _) count, chkAlign_none aligned, chkAlign_none haligned, window,
        chkRd_none reads, chkWr_none hwrites, hfree]
    | acc mode inside kept written =>
      simp [part, mode, row, d, td, b, chkCount_none (Nat.zero_le _) (count_le_of_rows hw inside), chkAlign_none haligned, kept, written,
        chkWr_none hwrites, hfree]

/-- A column scale that is NaN or infinite faults the job before a row is read (R104). -/
theorem exec_deq_badScale (ht : DeqTaken s k f r c st n sc wide cs) (hsrc : DeqSource s k f r st n (n * if wide then 2 else 1))
    {j : Nat} (hj : j < 128) (hbad : isFin (bfTo32 (cs j)) = false) (hbefore : ∀ i < j, isFin (bfTo32 (cs i)) = true) :
    exec (.deq k f) s = .next (jobFault r.ctx (some k) 0x4011 (modCore k (fun c => { c with vsuFault := 0x4011, vsuIndex := j % 2 ^ 32 }) s)) := by
  rw [exec_deq ht hsrc, deqBody, badScale_some hj hbad hbefore]
  rfl

/-- With finite column scales the elements of the rows read are stored, and the core goes on. -/
theorem exec_deq_stored (ht : DeqTaken s k f r c st n sc wide cs) (hsrc : DeqSource s k f r st n (n * if wide then 2 else 1))
    {el : Nat → Nat → Nat} {t u : State} (hrows : ∀ g, deqRows k r f (n * if wide then 2 else 1) s g = g (sumRows (n * if wide then 2 else 1) el) t)
    (hfin : ∀ j < 128, isFin (bfTo32 (cs j)) = true)
    (hwrite : writeWin k r.ctx (getA r f.rd).toNat (unElems (extF f 19 18) ((List.range n).flatMap fun v => (List.range 128).map fun j =>
      canon (fmul (fofInt (wholeSum wide n (fun v j => signed 48 (el v j)) v j)) (fmul sc (bfTo32 (cs j)))))) t = (none, u)) :
    exec (.deq k f) s = .next (advance k (cntAdd (0x40 + k) 0xA00 (n * 128) u)) := by
  rw [exec_deq ht hsrc, deqBody, badScale_none hfin]
  dsimp only
  rw [hrows, deqElems_eq, wrThen_done hwrite]
  rfl

end

/-- Settles O29: a DEQ whose checks pass first looks at its column scales, then stores the elements of the rows read. -/
theorem dequantiseResult : Obligations.DequantiseResult := by
  unfold Obligations.DequantiseResult
  rintro s k f r c st n _ _ _ sc wide cs hruns hbrake hn rfl htyped rfl rfl hrd hmod hrsvd hscale hcols hsome haligned hwrites
  have ht : DeqTaken s k f r c st n sc wide cs := ⟨hruns, hbrake, hn, htyped, hrd, hmod, hrsvd, hscale, hcols, hsome, haligned, hwrites⟩
  refine ⟨fun b t hmode hra hcount halign hwindow hreads => ?partialSums, fun l t hmode hinside hkept hwritten => ?accumulator⟩
  case partialSums =>
    have hsrc : DeqSource s k f r st n _ := .part hmode hra hcount halign hwindow hreads
    exact ⟨fun j => exec_deq_badScale ht hsrc, fun hread hfin u => exec_deq_stored ht hsrc (deqRows_partial hmode hread) hfin⟩
  case accumulator =>
    have hsrc : DeqSource s k f r st n _ := .acc hmode hinside hkept hwritten
    exact ⟨fun j => exec_deq_badScale ht hsrc, fun hread hfin u => exec_deq_stored ht hsrc (deqRows_acc hmode hread) hfin⟩

end Sys2Proof.Machine
end

section
/-! PROOFS. What every step does, whatever the command: it answers a next state where the command is well-formed, it leaves the rest
of the queue, and it keeps the invariant of the memories and of the islands. One case split over the commands serves each fact, citing
the lemma of that command. -/
namespace Sys2Proof.Machine
open Sys2Proof Sys2Proof.Laws

theorem bankOk_of_wf {b : BankId} (h : b.wf = true) : bankOk b = true := by
  cases b <;> simpa [BankId.wf, bankOk] using h

/-- A well-formed command answers a next state. -/
theorem exec_goes (i : Instr) (s : State) (h : i.wf = true) : Goes (exec i s) := by
  cases i with
  | loadContext t q d => exact execLoadContext_goes t q d s
  | unloadContext t q d => exact execUnloadContext_goes t q d s
  | bindIsland t q d => exact execBindIsland_goes t q d s
  | writeChart t q d => exact execWriteChart_goes t q d s
  | swapChart t q d => exact execSwapChart_goes t q d s
  | sequenceJoin t q d => exact execSequenceJoin_goes t q d s
  | sequenceLeave t q d => exact execSequenceLeave_goes t q d s
  | outputDrain t q d => exact execOutputDrain_goes t q d s
  | ingest t q d => exact execIngest_goes t q d s
  | indexMutate t q d => exact execIndexMutate_goes t q d s
  | search t q d => exact execSearch_goes t q d s
  | scan t q d => exact execScan_goes t q d s
  | registerWindowRead t q d => exact execRegisterWindowRead_goes t q d s
  | registerWindowWrite t q d => exact execRegisterWindowWrite_goes t q d s
  | nvmRead t q d => exact execNvmRead_goes t q d s
  | nvmWrite t q d => exact execNvmWrite_goes t q d s
  | flush t q d => exact execFlush_goes t q d s
  | writeZeroes t q d => exact execWriteZeroes_goes t q d s
  | datasetManagement t q d => exact execDatasetManagement_goes t q d s
  | nvmVerify t q d => exact execNvmVerify_goes t q d s
  | connect t q d => exact execConnect_goes t q d s
  | disconnect t q d => exact execDisconnect_goes t q d s
  | propertyGet t q d => exact execPropertyGet_goes t q d s
  | propertySet t q d => exact execPropertySet_goes t q d s
  | nssrDeviceReset t q d => exact execNssrDeviceReset_goes t q d s
  | shutdownNotification t q d => exact execShutdownNotification_goes t q d s
  | identify t q d => exact execIdentify_goes t q d s
  | getLogPage t q d => exact execGetLogPage_goes t q d s
  | setFeaturesPowerManagement t q d => exact execSetFeaturesPowerManagement_goes t q d s
  | setFeaturesNumberOfQueues t q d => exact execSetFeaturesNumberOfQueues_goes t q d s
  | setFeatures t q d => exact execSetFeatures_goes t q d s
  | getFeatures t q d => exact execGetFeatures_goes t q d s
  | asynchronousEventRequest t q d => exact execAsynchronousEventRequest_goes t q d s
  | keepAlive t q d => exact execKeepAlive_goes t q d s
  | abortCmd t q d => exact execAbort_goes t q d s
  | namespaceManagement t q d => exact execNamespaceManagement_goes t q d s
  | namespaceAttachment t q d => exact execNamespaceAttachment_goes t q d s
  | formatNvm t q d => exact execFormatNvm_goes t q d s
  | sanitize t q d => exact execSanitize_goes t q d s
  | firmwareImageDownload t q d => exact execFirmwareImageDownload_goes t q d s
  | firmwareCommit t q d => exact execFirmwareCommit_goes t q d s
  | invalidCommandOpcode t q d => exact execInvalidCommandOpcode_goes t q d s
  | tcpSyn conn port v6 => exact execTcpSyn_goes conn port v6 s
  | icreq conn pfv hdgst ddgst maxr2t => exact execIcreq_goes conn pfv hdgst ddgst maxr2t s
  | commandCapsule conn op cid q d pdu => exact execCommandCapsule_goes conn op cid q d pdu s
  | h2cData conn cid off d pdu digestOk => exact execH2cData_goes conn cid off d pdu digestOk s
  | clientHello conn offer => exact execClientHello_goes conn offer s
  | keyUpdate conn => exact execKeyUpdate_goes conn s
  | freezeTimeout conn => exact execFreezeTimeout_goes conn s
  | queueReset conn => exact execQueueReset_goes conn s
  | connectionClose conn => exact execConnectionClose_goes conn s
  | katoExpired cntlid => exact execKatoExpired_goes cntlid s
  | ps4Exit => exact execPs4Exit_goes s
  | powerStateEntryComplete => exact execPowerStateEntryComplete_goes s
  | powerStateReversal => exact execPowerStateReversal_goes s
  | sidebandRead req => exact execSidebandRead_goes req s
  | sidebandWrite req => exact execSidebandWrite_goes req s
  | registerWrite p page off w => exact execRegisterWrite_goes p page off w s
  | counterLowRead p page off => exact execCounterLowRead_goes p page off s
  | iflevelSelect p w => exact execIflevelSelect_goes p w s
  | errRingTailWrite p w => exact execErrRingTailWrite_goes p w s
  | clkrstDevReset p w => exact execClkrstDevReset_goes p w s
  | islandResetGo p w => exact execIslandResetGo_goes p w s
  | fmeasStart p w => exact execFmeasStart_goes p w s
  | cntFreeze p page on => exact execCntFreeze_goes p page on s
  | cntClear p page => exact execCntClear_goes p page s
  | errCountClr p page => exact execErrCountClr_goes p page s
  | errStatusClear p page w => exact execErrStatusClear_goes p page w s
  | fmeasDone khz => exact execFmeasDone_goes khz s
  | pllUnlock pll => exact execPllUnlock_goes pll s (F.pllUnlock pll h)
  | chartEnable p on => exact execChartEnable_goes p on s
  | chartSwapRequest p => exact execChartSwapRequest_goes p s
  | contextRestart p => exact execContextRestart_goes p s
  | cycleStart => exact execCycleStart_goes s
  | slotStart bankB idx => exact execSlotStart_goes bankB idx s
  | slotEnd bankB idx => exact execSlotEnd_goes bankB idx s
  | lookaheadPrefetch bankB idx => exact execLookaheadPrefetch_goes bankB idx s
  | taskComplete ctx task => exact execTaskComplete_goes ctx task s
  | jobFault ctx core code => exact execJobFault_goes ctx core code s
  | replicaCorrection => exact execReplicaCorrection_goes s
  | syncDeadlock ctx => exact execSyncDeadlock_goes ctx s
  | reservedClassFetch core cls => exact execReservedClassFetch_goes core cls s (F.reservedClassFetch core cls h).1 (F.reservedClassFetch core cls h).2
  | nop core f => exact execNop_goes core f s (F.nop core f h)
  | add core f => exact execAdd_goes core f s (F.add core f h)
  | sub core f => exact execSub_goes core f s (F.sub core f h)
  | mul core f => exact execMul_goes core f s (F.mul core f h)
  | andS core f => exact execAnd_goes core f s (F.andS core f h)
  | orS core f => exact execOr_goes core f s (F.orS core f h)
  | xor core f => exact execXor_goes core f s (F.xor core f h)
  | shl core f => exact execShl_goes core f s (F.shl core f h)
  | shr core f => exact execShr_goes core f s (F.shr core f h)
  | sra core f => exact execSra_goes core f s (F.sra core f h)
  | minS core f => exact execMin_goes core f s (F.minS core f h)
  | maxS core f => exact execMax_goes core f s (F.maxS core f h)
  | slt core f => exact execSlt_goes core f s (F.slt core f h)
  | addi core f => exact execAddi_goes core f s (F.addi core f h)
  | movi core f => exact execMovi_goes core f s (F.movi core f h)
  | movhi core f => exact execMovhi_goes core f s (F.movhi core f h)
  | ld core f => exact execLd_goes core f s (F.ld core f h)
  | st core f => exact execSt_goes core f s (F.st core f h)
  | toa core f => exact execToa_goes core f s (F.toa core f h)
  | tos core f => exact execTos_goes core f s (F.tos core f h)
  | aaddi core f => exact execAaddi_goes core f s (F.aaddi core f h)
  | aadd core f => exact execAadd_goes core f s (F.aadd core f h)
  | time core f => exact execTime_goes core f s (F.time core f h)
  | j core f => exact execJ_goes core f s (F.j core f h)
  | beq core f => exact execBeq_goes core f s (F.beq core f h)
  | bne core f => exact execBne_goes core f s (F.bne core f h)
  | blt core f => exact execBlt_goes core f s (F.blt core f h)
  | bge core f => exact execBge_goes core f s (F.bge core f h)
  | jr core f => exact execJr_goes core f s (F.jr core f h)
  | loop core f => exact execLoop_goes core f s (F.loop core f h)
  | lidx core f => exact execLidx_goes core f s (F.lidx core f h)
  | bverd core f => exact execBverd_goes core f s (F.bverd core f h)
  | endTask core f => exact execEnd_goes core f s (F.endTask core f h)
  | copy core f => exact execCopy_goes core f s (F.copy core f h)
  | acc48 core f => exact execAcc48_goes core f s (F.acc48 core f h)
  | zero core f => exact execZero_goes core f s (F.zero core f h)
  | dmaComplete core k => exact execDmaComplete_goes core k s (F.dmaComplete core k h)
  | tdload core f => exact execTdload_goes core f s (F.tdload core f h)
  | tdstore core f => exact execTdstore_goes core f s (F.tdstore core f h)
  | tdinit core f => exact execTdinit_goes core f s (F.tdinit core f h)
  | matrix core f => exact execMatrix_goes core f s (F.matrix core f h)
  | matrixComplete core => exact execMatrixComplete_goes core s (F.matrixComplete core h)
  | conv1d core f => exact execConv1d_goes core f s (F.conv1d core f h)
  | conv2d core f => exact execConv2d_goes core f s (F.conv2d core f h)
  | vectorAdd core f => exact execVectorAdd_goes core f s (F.vectorAdd core f h)
  | vectorSub core f => exact execVectorSub_goes core f s (F.vectorSub core f h)
  | vectorMul core f => exact execVectorMul_goes core f s (F.vectorMul core f h)
  | vectorMax core f => exact execVectorMax_goes core f s (F.vectorMax core f h)
  | vectorMin core f => exact execVectorMin_goes core f s (F.vectorMin core f h)
  | vectorAbs core f => exact execVectorAbs_goes core f s (F.vectorAbs core f h)
  | vectorNeg core f => exact execVectorNeg_goes core f s (F.vectorNeg core f h)
  | vectorCvt core f => exact execVectorCvt_goes core f s (F.vectorCvt core f h)
  | vectorMac core f => exact execVectorMac_goes core f s (F.vectorMac core f h)
  | specialFn core f => exact execSpecialFn_goes core f s (F.specialFn core f h)
  | rmax core f => exact execRmax_goes core f s (F.rmax core f h)
  | rsum core f => exact execRsum_goes core f s (F.rsum core f h)
  | softmax core f => exact execSoftmax_goes core f s (F.softmax core f h)
  | smstat core f => exact execSmstat_goes core f s (F.smstat core f h)
  | smapply core f => exact execSmapply_goes core f s (F.smapply core f h)
  | rmsnorm core f => exact execRmsnorm_goes core f s (F.rmsnorm core f h)
  | layernorm core f => exact execLayernorm_goes core f s (F.layernorm core f h)
  | argmax core f => exact execArgmax_goes core f s (F.argmax core f h)
  | narrow core f => exact execNarrow_goes core f s (F.narrow core f h)
  | deq core f => exact execDeq_goes core f s (F.deq core f h)
  | kvstore core f => exact execKvstore_goes core f s (F.kvstore core f h)
  | embed8 core f => exact execEmbed8_goes core f s (F.embed8 core f h)
  | sample core f => exact execSample_goes core f s (F.sample core f h)
  | fence core f => exact execFence_goes core f s (F.fence core f h)
  | signal core f => exact execSignal_goes core f s (F.signal core f h)
  | waitev core f => exact execWaitev_goes core f s (F.waitev core f h)
  | slotwait core f => exact execSlotwait_goes core f s (F.slotwait core f h)
  | ssend core f => exact execSsend_goes core f s (F.ssend core f h)
  | srecv core f => exact execSrecv_goes core f s (F.srecv core f h)
  | srecvTimeout core => exact execSrecvTimeout_goes core s (F.srecvTimeout core h)
  | peerSearch core f => exact execPeerSearch_goes core f s (F.peerSearch core f h)
  | sfuTblDataWrite p w => exact execSfuTblDataWrite_goes p w s
  | sfuCompat1Write p w => exact execSfuCompat1Write_goes p w s
  | sfuTblDataRead p => exact execSfuTblDataRead_goes p s
  | sfuTblCommit p => exact execSfuTblCommit_goes p s
  | checkInjectArm p core w => exact execCheckInjectArm_goes p core w s (F.checkInjectArm p core w h)
  | ocmDiagWrite p w => exact execOcmDiagWrite_goes p w s
  | eccFlipmaskArm p w => exact execEccFlipmaskArm_goes p w s
  | atollResize p w => exact execAtollResize_goes p w s
  | bankPowerWrite p off w => exact execBankPowerWrite_goes p off w s
  | autoRetention b => exact execAutoRetention_goes b s (bankOk_of_wf h)
  | bankWake b => exact execBankWake_goes b s (bankOk_of_wf h)
  | bgtRegionStart core out => exact execBgtRegionStart_goes core out s (F.bgtRegionStart core out h)
  | xmcFlipArm p ch => exact execXmcFlipArm_goes p ch s (F.xmcFlipArm p ch h)
  | scrubGo p w => exact execScrubGo_goes p w s
  | scrubAbort p w => exact execScrubAbort_goes p w s
  | scrubDone => exact execScrubDone_goes s
  | xmcTracking ch rate atEnd => exact execXmcTracking_goes ch rate atEnd s (F.xmcTracking ch rate atEnd h)
  | objRefetched addr => exact execObjRefetched_goes addr s
  | stageFetch ctx layer => exact execStageFetch_goes ctx layer s
  | demoteComplete ctx seq layer page => exact execDemoteComplete_goes ctx seq layer page s
  | pageFetchComplete ctx seq layer page => exact execPageFetchComplete_goes ctx seq layer page s
  | queryComplete job => exact execQueryComplete_goes job s
  | compactionSwitch index => exact execCompactionSwitch_goes index s
  | ingestInsert job => exact execIngestInsert_goes job s
  | mergeDeadline job => exact execMergeDeadline_goes job s
  | deltaRebuild index ok => exact execDeltaRebuild_goes index ok s
  | sreHoldWrite p w => exact execSreHoldWrite_goes p w s
  | flashReadComplete u r => exact execFlashReadComplete_goes u r s
  | programComplete sb o => exact execProgramComplete_goes sb o s
  | eraseComplete sb o => exact execEraseComplete_goes sb o s
  | writeBufferDrain n => exact execWriteBufferDrain_goes n s
  | mapCheckpoint seg => exact execMapCheckpoint_goes seg s
  | backgroundGc => exact execBackgroundGc_goes s
  | foregroundGc => exact execForegroundGc_goes s
  | slcFold => exact execSlcFold_goes s
  | powerLossFlush complete => exact execPowerLossFlush_goes complete s
  | mteDiagGo p page w => exact execMteDiagGo_goes p page w s
  | channelStopsResponding ch => exact execChannelStopsResponding_goes ch s
  | linkEnWrite p w => exact execLinkEnWrite_goes p w s
  | autoNegotiationTimeout => exact execAutoNegotiationTimeout_goes s
  | linkUp => exact execLinkUp_goes s
  | linkDown => exact execLinkDown_goes s
  | fecWindow fixed errs => exact execFecWindow_goes fixed errs s
  | frameReceive fr => exact execFrameReceive_goes fr s
  | pfcRepeat prio => exact execPfcRepeat_goes prio s
  | pfcPauseExpiry prio => exact execPfcPauseExpiry_goes prio s
  | pfcFrame prio quanta => exact execPfcFrame_goes prio quanta s
  | pauseFrame => exact execPauseFrame_goes s
  | txUnderrun => exact execTxUnderrun_goes s
  | xqPtrFault rx prio => exact execXqPtrFault_goes rx prio s
  | arpRequest fr => exact execArpRequest_goes fr s
  | icmpEcho fr => exact execIcmpEcho_goes fr s
  | gatewayRefresh => exact execGatewayRefresh_goes s
  | unresolvedTimeout => exact execUnresolvedTimeout_goes s
  | tcpRetransmitTimeout conn => exact execTcpRetransmitTimeout_goes conn s
  | ipAddressWrite p off w => exact execIpAddressWrite_goes p off w s
  | ptpSync m => exact execPtpSync_goes m s
  | ptpFollowUp m => exact execPtpFollowUp_goes m s
  | ptpDelayResp m => exact execPtpDelayResp_goes m s
  | ptpAnnounce m => exact execPtpAnnounce_goes m s
  | delayReqSend => exact execDelayReqSend_goes s
  | referenceLost => exact execReferenceLost_goes s
  | holdover => exact execHoldover_goes s
  | lost => exact execLost_goes s
  | ppsInEdge t => exact execPpsInEdge_goes t s
  | ppsOutPulse => exact execPpsOutPulse_goes s
  | ppsOutPulseEnd => exact execPpsOutPulseEnd_goes s
  | sourceWrite p w => exact execSourceWrite_goes p w s
  | todSecWrite p w => exact execTodSecWrite_goes p w s
  | dataMessage m => exact execDataMessage_goes m s
  | queryMessage m => exact execQueryMessage_goes m s
  | resultMessage m => exact execResultMessage_goes m s
  | ackMessage m => exact execAckMessage_goes m s
  | syncMessage m => exact execSyncMessage_goes m s
  | syncReplyMessage m => exact execSyncReplyMessage_goes m s
  | straitAckTimer grp mem => exact execStraitAckTimer_goes grp mem s
  | straitRetransmit grp mem => exact execStraitRetransmit_goes grp mem s
  | memberStale grp mem => exact execMemberStale_goes grp mem s
  | syncInterval => exact execSyncInterval_goes s
  | heldMessageExpiry k => exact execHeldMessageExpiry_goes k s
  | straitMemCfgWrite p off w => exact execStraitMemCfgWrite_goes p off w s
  | straitGrpCfgWrite p off w => exact execStraitGrpCfgWrite_goes p off w s
  | straitPortWrite p off w => exact execStraitPortWrite_goes p off w s
  | mspWatchdog => exact execMspWatchdog_goes s
  | managementReset => exact execManagementReset_goes s
  | sectorProgramComplete ok => exact execSectorProgramComplete_goes ok s
  | getVersion m => exact execGetVersion_goes m s
  | getCapabilities m => exact execGetCapabilities_goes m s
  | negotiateAlgorithms m => exact execNegotiateAlgorithms_goes m s
  | getDigests m => exact execGetDigests_goes m s
  | getCertificate m => exact execGetCertificate_goes m s
  | challenge m => exact execChallenge_goes m s
  | getMeasurements m => exact execGetMeasurements_goes m s
  | chunkSend m => exact execChunkSend_goes m s
  | chunkGet m => exact execChunkGet_goes m s
  | sessionOpen m => exact execSessionOpen_goes m s
  | sessionAuth m => exact execSessionAuth_goes m s
  | sessionRecord m => exact execSessionRecord_goes m s
  | sessionIdleTimeout => exact execSessionIdleTimeout_goes s
  | provision a => exact execProvision_goes a s
  | certWrite a => exact execCertWrite_goes a s
  | takeOwnership a => exact execTakeOwnership_goes a s
  | pskInstall a => exact execPskInstall_goes a s
  | pskDelete a => exact execPskDelete_goes a s
  | configWrite a => exact execConfigWrite_goes a s
  | tamperCfg a => exact execTamperCfg_goes a s
  | retire a => exact execReturn_goes a s
  | decommission a => exact execDecommission_goes a s
  | reprovision a => exact execReprovision_goes a s
  | tamperClear a => exact execTamperClear_goes a s
  | revokeFwKey a => exact execRevokeFwKey_goes a s
  | tamperEvent src => exact execTamperEvent_goes src s (F.tamperEvent src h)
  | tamperLoopMeasure ok => exact execTamperLoopMeasure_goes ok s
  | keystoreErase => exact execKeystoreErase_goes s
  | commandInterrupted t => exact execCommandInterrupted_goes t s
  | mctpControlMessage m => exact execMctpControlMessage_goes m s
  | entdaa addr => exact execEntdaa_goes addr s (F.entdaa addr h)
  | powerOnReset => exact execPowerOnReset_goes s
  | moduleReset => exact execModuleReset_goes s
  | deviceReset => exact execDeviceReset_goes s
  | startUp o => exact execStartUp_goes o s
  | ready => exact execReady_goes s
  | pwrEnEdge level => exact execPwrEnEdge_goes level s
  | modRstNEdge level => exact execModRstNEdge_goes level s
  | brakeNEdge level => exact execBrakeNEdge_goes level s
  | aux3v3Change level => exact execAux3v3Change_goes level s
  | brakeToggleHoldEnd => exact execBrakeToggleHoldEnd_goes s
  | brakeHeld => exact execBrakeHeld_goes s
  | inputVoltageEvent v => exact execInputVoltageEvent_goes v s
  | governorInterval mw mv => exact execGovernorInterval_goes mw mv s
  | thermalRead sensor dc => exact execThermalRead_goes sensor dc s (F.thermalRead sensor dc h)
  | holdupMeasurement mj => exact execHoldupMeasurement_goes mj s
  | flitGroupCrcFail replayOk => exact execFlitGroupCrcFail_goes replayOk s
  | classLate resource inst cls wait => exact execClassLate_goes resource inst cls wait s
  | ps4FabricClockStop => exact execPs4FabricClockStop_goes s
  | actLedTimeout => exact execActLedTimeout_goes s

/-- Whatever a command answers keeps the queue, the canonical form of the memories and the islands' rule. -/
theorem exec_ends (i : Instr) (s : State) : Ends s (exec i s) := by
  cases i with
  | loadContext t q d => exact execLoadContext_ends t q d s
  | unloadContext t q d => exact execUnloadContext_ends t q d s
  | bindIsland t q d => exact execBindIsland_ends t q d s
  | writeChart t q d => exact execWriteChart_ends t q d s
  | swapChart t q d => exact execSwapChart_ends t q d s
  | sequenceJoin t q d => exact execSequenceJoin_ends t q d s
  | sequenceLeave t q d => exact execSequenceLeave_ends t q d s
  | outputDrain t q d => exact execOutputDrain_ends t q d s
  | ingest t q d => exact execIngest_ends t q d s
  | indexMutate t q d => exact execIndexMutate_ends t q d s
  | search t q d => exact execSearch_ends t q d s
  | scan t q d => exact execScan_ends t q d s
  | registerWindowRead t q d => exact execRegisterWindowRead_ends t q d s
  | registerWindowWrite t q d => exact execRegisterWindowWrite_ends t q d s
  | nvmRead t q d => exact execNvmRead_ends t q d s
  | nvmWrite t q d => exact execNvmWrite_ends t q d s
  | flush t q d => exact execFlush_ends t q d s
  | writeZeroes t q d => exact execWriteZeroes_ends t q d s
  | datasetManagement t q d => exact execDatasetManagement_ends t q d s
  | nvmVerify t q d => exact execNvmVerify_ends t q d s
  | connect t q d => exact execConnect_ends t q d s
  | disconnect t q d => exact execDisconnect_ends t q d s
  | propertyGet t q d => exact execPropertyGet_ends t q d s
  | propertySet t q d => exact execPropertySet_ends t q d s
  | nssrDeviceReset t q d => exact execNssrDeviceReset_ends t q d s
  | shutdownNotification t q d => exact execShutdownNotification_ends t q d s
  | identify t q d => exact execIdentify_ends t q d s
  | getLogPage t q d => exact execGetLogPage_ends t q d s
  | setFeaturesPowerManagement t q d => exact execSetFeaturesPowerManagement_ends t q d s
  | setFeaturesNumberOfQueues t q d => exact execSetFeaturesNumberOfQueues_ends t q d s
  | setFeatures t q d => exact execSetFeatures_ends t q d s
  | getFeatures t q d => exact execGetFeatures_ends t q d s
  | asynchronousEventRequest t q d => exact execAsynchronousEventRequest_ends t q d s
  | keepAlive t q d => exact execKeepAlive_ends t q d s
  | abortCmd t q d => exact execAbort_ends t q d s
  | namespaceManagement t q d => exact execNamespaceManagement_ends t q d s
  | namespaceAttachment t q d => exact execNamespaceAttachment_ends t q d s
  | formatNvm t q d => exact execFormatNvm_ends t q d s
  | sanitize t q d => exact execSanitize_ends t q d s
  | firmwareImageDownload t q d => exact execFirmwareImageDownload_ends t q d s
  | firmwareCommit t q d => exact execFirmwareCommit_ends t q d s
  | invalidCommandOpcode t q d => exact execInvalidCommandOpcode_ends t q d s
  | tcpSyn conn port v6 => exact execTcpSyn_ends conn port v6 s
  | icreq conn pfv hdgst ddgst maxr2t => exact execIcreq_ends conn pfv hdgst ddgst maxr2t s
  | commandCapsule conn op cid q d pdu => exact execCommandCapsule_ends conn op cid q d pdu s
  | h2cData conn cid off d pdu digestOk => exact execH2cData_ends conn cid off d pdu digestOk s
  | clientHello conn offer => exact execClientHello_ends conn offer s
  | keyUpdate conn => exact execKeyUpdate_ends conn s
  | freezeTimeout conn => exact execFreezeTimeout_ends conn s
  | queueReset conn => exact execQueueReset_ends conn s
  | connectionClose conn => exact execConnectionClose_ends conn s
  | katoExpired cntlid => exact execKatoExpired_ends cntlid s
  | ps4Exit => exact execPs4Exit_ends s
  | powerStateEntryComplete => exact execPowerStateEntryComplete_ends s
  | powerStateReversal => exact execPowerStateReversal_ends s
  | sidebandRead req => exact execSidebandRead_ends req s
  | sidebandWrite req => exact execSidebandWrite_ends req s
  | registerWrite p page off w => exact execRegisterWrite_ends p page off w s
  | counterLowRead p page off => exact execCounterLowRead_ends p page off s
  | iflevelSelect p w => exact execIflevelSelect_ends p w s
  | errRingTailWrite p w => exact execErrRingTailWrite_ends p w s
  | clkrstDevReset p w => exact execClkrstDevReset_ends p w s
  | islandResetGo p w => exact execIslandResetGo_ends p w s
  | fmeasStart p w => exact execFmeasStart_ends p w s
  | cntFreeze p page on => exact execCntFreeze_ends p page on s
  | cntClear p page => exact execCntClear_ends p page s
  | errCountClr p page => exact execErrCountClr_ends p page s
  | errStatusClear p page w => exact execErrStatusClear_ends p page w s
  | fmeasDone khz => exact execFmeasDone_ends khz s
  | pllUnlock pll => exact execPllUnlock_ends pll s
  | chartEnable p on => exact execChartEnable_ends p on s
  | chartSwapRequest p => exact execChartSwapRequest_ends p s
  | contextRestart p => exact execContextRestart_ends p s
  | cycleStart => exact execCycleStart_ends s
  | slotStart bankB idx => exact execSlotStart_ends bankB idx s
  | slotEnd bankB idx => exact execSlotEnd_ends bankB idx s
  | lookaheadPrefetch bankB idx => exact execLookaheadPrefetch_ends bankB idx s
  | taskComplete ctx task => exact execTaskComplete_ends ctx task s
  | jobFault ctx core code => exact execJobFault_ends ctx core code s
  | replicaCorrection => exact execReplicaCorrection_ends s
  | syncDeadlock ctx => exact execSyncDeadlock_ends ctx s
  | reservedClassFetch core cls => exact execReservedClassFetch_ends core cls s
  | nop core f => exact execNop_ends core f s
  | add core f => exact execAdd_ends core f s
  | sub core f => exact execSub_ends core f s
  | mul core f => exact execMul_ends core f s
  | andS core f => exact execAnd_ends core f s
  | orS core f => exact execOr_ends core f s
  | xor core f => exact execXor_ends core f s
  | shl core f => exact execShl_ends core f s
  | shr core f => exact execShr_ends core f s
  | sra core f => exact execSra_ends core f s
  | minS core f => exact execMin_ends core f s
  | maxS core f => exact execMax_ends core f s
  | slt core f => exact execSlt_ends core f s
  | addi core f => exact execAddi_ends core f s
  | movi core f => exact execMovi_ends core f s
  | movhi core f => exact execMovhi_ends core f s
  | ld core f => exact execLd_ends core f s
  | st core f => exact execSt_ends core f s
  | toa core f => exact execToa_ends core f s
  | tos core f => exact execTos_ends core f s
  | aaddi core f => exact execAaddi_ends core f s
  | aadd core f => exact execAadd_ends core f s
  | time core f => exact execTime_ends core f s
  | j core f => exact execJ_ends core f s
  | beq core f => exact execBeq_ends core f s
  | bne core f => exact execBne_ends core f s
  | blt core f => exact execBlt_ends core f s
  | bge core f => exact execBge_ends core f s
  | jr core f => exact execJr_ends core f s
  | loop core f => exact execLoop_ends core f s
  | lidx core f => exact execLidx_ends core f s
  | bverd core f => exact execBverd_ends core f s
  | endTask core f => exact execEnd_ends core f s
  | copy core f => exact execCopy_ends core f s
  | acc48 core f => exact execAcc48_ends core f s
  | zero core f => exact execZero_ends core f s
  | dmaComplete core k => exact execDmaComplete_ends core k s
  | tdload core f => exact execTdload_ends core f s
  | tdstore core f => exact execTdstore_ends core f s
  | tdinit core f => exact execTdinit_ends core f s
  | matrix core f => exact execMatrix_ends core f s
  | matrixComplete core => exact execMatrixComplete_ends core s
  | conv1d core f => exact execConv1d_ends core f s
  | conv2d core f => exact execConv2d_ends core f s
  | vectorAdd core f => exact execVectorAdd_ends core f s
  | vectorSub core f => exact execVectorSub_ends core f s
  | vectorMul core f => exact execVectorMul_ends core f s
  | vectorMax core f => exact execVectorMax_ends core f s
  | vectorMin core f => exact execVectorMin_ends core f s
  | vectorAbs core f => exact execVectorAbs_ends core f s
  | vectorNeg core f => exact execVectorNeg_ends core f s
  | vectorCvt core f => exact execVectorCvt_ends core f s
  | vectorMac core f => exact execVectorMac_ends core f s
  | specialFn core f => exact execSpecialFn_ends core f s
  | rmax core f => exact execRmax_ends core f s
  | rsum core f => exact execRsum_ends core f s
  | softmax core f => exact execSoftmax_ends core f s
  | smstat core f => exact execSmstat_ends core f s
  | smapply core f => exact execSmapply_ends core f s
  | rmsnorm core f => exact execRmsnorm_ends core f s
  | layernorm core f => exact execLayernorm_ends core f s
  | argmax core f => exact execArgmax_ends core f s
  | narrow core f => exact execNarrow_ends core f s
  | deq core f => exact execDeq_ends core f s
  | kvstore core f => exact execKvstore_ends core f s
  | embed8 core f => exact execEmbed8_ends core f s
  | sample core f => exact execSample_ends core f s
  | fence core f => exact execFence_ends core f s
  | signal core f => exact execSignal_ends core f s
  | waitev core f => exact execWaitev_ends core f s
  | slotwait core f => exact execSlotwait_ends core f s
  | ssend core f => exact execSsend_ends core f s
  | srecv core f => exact execSrecv_ends core f s
  | srecvTimeout core => exact execSrecvTimeout_ends core s
  | peerSearch core f => exact execPeerSearch_ends core f s
  | sfuTblDataWrite p w => exact execSfuTblDataWrite_ends p w s
  | sfuCompat1Write p w => exact execSfuCompat1Write_ends p w s
  | sfuTblDataRead p => exact execSfuTblDataRead_ends p s
  | sfuTblCommit p => exact execSfuTblCommit_ends p s
  | checkInjectArm p core w => exact execCheckInjectArm_ends p core w s
  | ocmDiagWrite p w => exact execOcmDiagWrite_ends p w s
  | eccFlipmaskArm p w => exact execEccFlipmaskArm_ends p w s
  | atollResize p w => exact execAtollResize_ends p w s
  | bankPowerWrite p off w => exact execBankPowerWrite_ends p off w s
  | autoRetention b => exact execAutoRetention_ends b s
  | bankWake b => exact execBankWake_ends b s
  | bgtRegionStart core out => exact execBgtRegionStart_ends core out s
  | xmcFlipArm p ch => exact execXmcFlipArm_ends p ch s
  | scrubGo p w => exact execScrubGo_ends p w s
  | scrubAbort p w => exact execScrubAbort_ends p w s
  | scrubDone => exact execScrubDone_ends s
  | xmcTracking ch rate atEnd => exact execXmcTracking_ends ch rate atEnd s
  | objRefetched addr => exact execObjRefetched_ends addr s
  | stageFetch ctx layer => exact execStageFetch_ends ctx layer s
  | demoteComplete ctx seq layer page => exact execDemoteComplete_ends ctx seq layer page s
  | pageFetchComplete ctx seq layer page => exact execPageFetchComplete_ends ctx seq layer page s
  | queryComplete job => exact execQueryComplete_ends job s
  | compactionSwitch index => exact execCompactionSwitch_ends index s
  | ingestInsert job => exact execIngestInsert_ends job s
  | mergeDeadline job => exact execMergeDeadline_ends job s
  | deltaRebuild index ok => exact execDeltaRebuild_ends index ok s
  | sreHoldWrite p w => exact execSreHoldWrite_ends p w s
  | flashReadComplete u r => exact execFlashReadComplete_ends u r s
  | programComplete sb o => exact execProgramComplete_ends sb o s
  | eraseComplete sb o => exact execEraseComplete_ends sb o s
  | writeBufferDrain n => exact execWriteBufferDrain_ends n s
  | mapCheckpoint seg => exact execMapCheckpoint_ends seg s
  | backgroundGc => exact execBackgroundGc_ends s
  | foregroundGc => exact execForegroundGc_ends s
  | slcFold => exact execSlcFold_ends s
  | powerLossFlush complete => exact execPowerLossFlush_ends complete s
  | mteDiagGo p page w => exact execMteDiagGo_ends p page w s
  | channelStopsResponding ch => exact execChannelStopsResponding_ends ch s
  | linkEnWrite p w => exact execLinkEnWrite_ends p w s
  | autoNegotiationTimeout => exact execAutoNegotiationTimeout_ends s
  | linkUp => exact execLinkUp_ends s
  | linkDown => exact execLinkDown_ends s
  | fecWindow fixed errs => exact execFecWindow_ends fixed errs s
  | frameReceive fr => exact execFrameReceive_ends fr s
  | pfcRepeat prio => exact execPfcRepeat_ends prio s
  | pfcPauseExpiry prio => exact execPfcPauseExpiry_ends prio s
  | pfcFrame prio quanta => exact execPfcFrame_ends prio quanta s
  | pauseFrame => exact execPauseFrame_ends s
  | txUnderrun => exact execTxUnderrun_ends s
  | xqPtrFault rx prio => exact execXqPtrFault_ends rx prio s
  | arpRequest fr => exact execArpRequest_ends fr s
  | icmpEcho fr => exact execIcmpEcho_ends fr s
  | gatewayRefresh => exact execGatewayRefresh_ends s
  | unresolvedTimeout => exact execUnresolvedTimeout_ends s
  | tcpRetransmitTimeout conn => exact execTcpRetransmitTimeout_ends conn s
  | ipAddressWrite p off w => exact execIpAddressWrite_ends p off w s
  | ptpSync m => exact execPtpSync_ends m s
  | ptpFollowUp m => exact execPtpFollowUp_ends m s
  | ptpDelayResp m => exact execPtpDelayResp_ends m s
  | ptpAnnounce m => exact execPtpAnnounce_ends m s
  | delayReqSend => exact execDelayReqSend_ends s
  | referenceLost => exact execReferenceLost_ends s
  | holdover => exact execHoldover_ends s
  | lost => exact execLost_ends s
  | ppsInEdge t => exact execPpsInEdge_ends t s
  | ppsOutPulse => exact execPpsOutPulse_ends s
  | ppsOutPulseEnd => exact execPpsOutPulseEnd_ends s
  | sourceWrite p w => exact execSourceWrite_ends p w s
  | todSecWrite p w => exact execTodSecWrite_ends p w s
  | dataMessage m => exact execDataMessage_ends m s
  | queryMessage m => exact execQueryMessage_ends m s
  | resultMessage m => exact execResultMessage_ends m s
  | ackMessage m => exact execAckMessage_ends m s
  | syncMessage m => exact execSyncMessage_ends m s
  | syncReplyMessage m => exact execSyncReplyMessage_ends m s
  | straitAckTimer grp mem => exact execStraitAckTimer_ends grp mem s
  | straitRetransmit grp mem => exact execStraitRetransmit_ends grp mem s
  | memberStale grp mem => exact execMemberStale_ends grp mem s
  | syncInterval => exact execSyncInterval_ends s
  | heldMessageExpiry k => exact execHeldMessageExpiry_ends k s
  | straitMemCfgWrite p off w => exact execStraitMemCfgWrite_ends p off w s
  | straitGrpCfgWrite p off w => exact execStraitGrpCfgWrite_ends p off w s
  | straitPortWrite p off w => exact execStraitPortWrite_ends p off w s
  | mspWatchdog => exact execMspWatchdog_ends s
  | managementReset => exact execManagementReset_ends s
  | sectorProgramComplete ok => exact execSectorProgramComplete_ends ok s
  | getVersion m => exact execGetVersion_ends m s
  | getCapabilities m => exact execGetCapabilities_ends m s
  | negotiateAlgorithms m => exact execNegotiateAlgorithms_ends m s
  | getDigests m => exact execGetDigests_ends m s
  | getCertificate m => exact execGetCertificate_ends m s
  | challenge m => exact execChallenge_ends m s
  | getMeasurements m => exact execGetMeasurements_ends m s
  | chunkSend m => exact execChunkSend_ends m s
  | chunkGet m => exact execChunkGet_ends m s
  | sessionOpen m => exact execSessionOpen_ends m s
  | sessionAuth m => exact execSessionAuth_ends m s
  | sessionRecord m => exact execSessionRecord_ends m s
  | sessionIdleTimeout => exact execSessionIdleTimeout_ends s
  | provision a => exact execProvision_ends a s
  | certWrite a => exact execCertWrite_ends a s
  | takeOwnership a => exact execTakeOwnership_ends a s
  | pskInstall a => exact execPskInstall_ends a s
  | pskDelete a => exact execPskDelete_ends a s
  | configWrite a => exact execConfigWrite_ends a s
  | tamperCfg a => exact execTamperCfg_ends a s
  | retire a => exact execReturn_ends a s
  | decommission a => exact execDecommission_ends a s
  | reprovision a => exact execReprovision_ends a s
  | tamperClear a => exact execTamperClear_ends a s
  | revokeFwKey a => exact execRevokeFwKey_ends a s
  | tamperEvent src => exact execTamperEvent_ends src s
  | tamperLoopMeasure ok => exact execTamperLoopMeasure_ends ok s
  | keystoreErase => exact execKeystoreErase_ends s
  | commandInterrupted t => exact execCommandInterrupted_ends t s
  | mctpControlMessage m => exact execMctpControlMessage_ends m s
  | entdaa addr => exact execEntdaa_ends addr s
  | powerOnReset => exact execPowerOnReset_ends s
  | moduleReset => exact execModuleReset_ends s
  | deviceReset => exact execDeviceReset_ends s
  | startUp o => exact execStartUp_ends o s
  | ready => exact execReady_ends s
  | pwrEnEdge level => exact execPwrEnEdge_ends level s
  | modRstNEdge level => exact execModRstNEdge_ends level s
  | brakeNEdge level => exact execBrakeNEdge_ends level s
  | aux3v3Change level => exact execAux3v3Change_ends level s
  | brakeToggleHoldEnd => exact execBrakeToggleHoldEnd_ends s
  | brakeHeld => exact execBrakeHeld_ends s
  | inputVoltageEvent v => exact execInputVoltageEvent_ends v s
  | governorInterval mw mv => exact execGovernorInterval_ends mw mv s
  | thermalRead sensor dc => exact execThermalRead_ends sensor dc s
  | holdupMeasurement mj => exact execHoldupMeasurement_ends mj s
  | flitGroupCrcFail replayOk => exact execFlitGroupCrcFail_ends replayOk s
  | classLate resource inst cls wait => exact execClassLate_ends resource inst cls wait s
  | ps4FabricClockStop => exact execPs4FabricClockStop_ends s
  | actLedTimeout => exact execActLedTimeout_ends s

/-- A step with a command waiting is that command on the rest of the queue. -/
theorem step_cons {s : State} {i : Instr} {l : List Instr} (h : s.pending = i :: l) : step s = exec i (setPending l s) := by
  simp [step, h]

/-- A step with nothing waiting is one nanosecond. -/
theorem step_nil {s : State} (h : s.pending = []) : step s = .next (tick s) := by simp [step, h]

/-- Every step keeps the memories' canonical form and the islands' rule. -/
theorem step_keeps_wf {s t : State} (h : step s = .next t) (hm : Memory.wf s = true) (hi : islandsWf s.islands = true) :
    Memory.wf t = true ∧ islandsWf t.islands = true := by
  have carry : ∀ u, u.ocm = s.ocm → u.xmc = s.xmc → u.islands = s.islands → Keeps u t → Memory.wf t = true ∧ islandsWf t.islands = true := by
    intro u ho hx his hk
    obtain ⟨hocm, hxmc⟩ := Bool.and_eq_true_iff.mp hm
    exact ⟨Bool.and_eq_true_iff.mpr ⟨hk.ocm (ho ▸ hocm), hk.xmc (hx ▸ hxmc)⟩, hk.islands (his ▸ hi)⟩
  cases hp : s.pending with
  | nil =>
    rw [step_nil hp] at h
    injection h with h
    exact carry s rfl rfl rfl (h ▸ tick_keeps s)
  | cons i l =>
    rw [step_cons hp] at h
    exact carry (setPending l s) rfl rfl rfl ((exec_ends i _).keeps t h)

/-- Settles O5: a command keeps the invariant by its own lemma, and so does a tick. -/
theorem stepKeepsInvariant : Obligations.StepKeepsInvariant := by
  unfold Obligations.StepKeepsInvariant
  exact fun s t hm hi h => step_keeps_wf h hm hi

/-- Settles O6: a well-formed command answers, and its answer keeps the queue. -/
theorem everyCommandCompletes : Obligations.EveryCommandCompletes := by
  unfold Obligations.EveryCommandCompletes
  intro i s hwf
  obtain ⟨t, ht⟩ := exec_goes i s hwf
  exact ⟨t, ht, ((exec_ends i s).keeps t ht).pending⟩

/-- Settles O1: the front command runs on the rest of the queue, which it keeps. -/
theorem stepRunsFront : Obligations.StepRunsFront := by
  unfold Obligations.StepRunsFront
  intro s i l h
  refine ⟨step_cons h, fun t ht => ?_⟩
  rw [step_cons h] at ht
  exact ((exec_ends i _).keeps t ht).pending

/-- Settles O3: the tables of the reset state are empty, so every read gives the value that an unlisted key reads as. -/
theorem resetValues : Obligations.ResetValues := by
  unfold Obligations.ResetValues
  refine ⟨fun _ _ => ⟨rfl, rfl⟩, fun _ => rfl, ?_, ?_, ?_, ?_, ?_, ?_, ?_, ?_, ?_, ?_, rfl, rfl, rfl, rfl, rfl, rfl, rfl, rfl, rfl,
    fun _ => rfl, rfl, rfl, rfl, rfl, rfl, rfl, rfl, rfl, rfl⟩
  all_goals decide

/-- Settles O4: the memories and the island table of the reset state list nothing. -/
theorem resetSatisfiesInvariant : Obligations.ResetSatisfiesInvariant := ⟨rfl, rfl⟩

/-- A context at rest, with nothing loaded. -/
def restingCtx : Ctx :=
  { pkg := { nsid := 1, slba := 0, encoder := false, checked := false, sampler := false, layers := 1, minCores := 1, kvHeads := 0, headDim := 0,
             maxSeqLen := 0, maxSeqs := 0, chunk := 0, localKib := 0, scratchKib := 0, xmBytes := 0, flashBytes := 0, weightBytes := 0,
             pkgBytes := 0, digest := [], code := [], tasks := [], tensors := [] }
    island := 0, st := .ready, fault := 0, stepNo := 0, active := 0, workBytes := 0, outBytes := 0, outbufKib := 0, places := [], frames := [],
    workF0 := 0, stageF0 := 0, poolF0 := 0, halfBytes := 0, poolSlots := 0, streamed := false, scratch := [], localEx := [], seqs := [],
    joinOrder := 0, hist := [], step := none, save := [], halves := [], staged := [], out := [], dseq := 0, acked := 0, loadTag := none,
    unloadTags := [], cnt := [] }

/-- A run of context 0 that waits on external memory. -/
def stalledRun : Run :=
  { ctx := 0, task := 0, pc := 0, s := Vector.replicate 16 0, a := Vector.replicate 8 0, l := Vector.replicate 4 LoopReg.zero, lstack := [],
    t := Vector.replicate 16 0, g := Vector.replicate 8 0, latch := none, dma := [], mat := none, wait := .xm, recv := none, ended := false }

/-- Context 0 is READY and core 0 stalls on external memory for it. -/
def stalledState : State :=
  { State.reset with ctxs := [(0, restingCtx)], cores := [(0, { Core.reset with run := some stalledRun })] }

/-- Refutes O2: with nothing waiting and no context LOADING, the stall counter of the context that a core waits for counts the
nanosecond (R273), and a context's counters stand in its entry. -/
theorem not_tickOnEmptyQueue : ¬ Obligations.TickOnEmptyQueue := by
  unfold Obligations.TickOnEmptyQueue
  rintro ⟨h, -⟩
  obtain ⟨t, ht, -, -, -, -, -, -, -, -, -, -, -, hrest⟩ := h stalledState rfl
  rw [step_nil rfl] at ht
  injection ht with ht
  subst ht
  have hcnt : (tick stalledState).ctxs = [(0, { restingCtx with cnt := [(addr 0xA0 0x900, 1)] })] := by rfl
  have hsame := (hrest (by decide)).2
  rw [hcnt] at hsame
  revert hsame
  decide

end Sys2Proof.Machine
end

section
/-! PROOFS. The frame of the SCALAR instructions (R167, R168): where the next instruction follows in sequence, an instruction that
only sets a register of its core changes that register and the PC. -/
namespace Sys2Proof.Machine
open Sys2Proof

/-- Run `u` is run `r` but for scalar register `i`. -/
def SetsOnly (i : BitVec 4) (r u : Run) : Prop := ∃ v, u = { r with s := v } ∧ ∀ j, j ≠ i → getS u j = getS r j

theorem setsOnly_refl (i : BitVec 4) (r : Run) : SetsOnly i r r := ⟨r.s, rfl, fun _ _ => rfl⟩

theorem getS_setS_ne {i j : BitVec 4} (h : j ≠ i) (r : Run) (v : DWord) : getS (setS r i v) j = getS r j := by
  have hne : i.toNat ≠ j.toNat := fun e => h (BitVec.eq_of_toNat_eq e.symm)
  have hj : j.toNat < 16 := j.isLt
  simp [getS, setS, hne, Vector.getD, hj]

theorem setsOnly_setS (i : BitVec 4) (r : Run) (v : DWord) : SetsOnly i r (setS r i v) := ⟨_, rfl, fun _ h => getS_setS_ne h r v⟩

/-- With no loop ending at the instruction, the next one in the code follows (R168, R169). -/
theorem advance_fallsThrough {s : State} {k : Nat} {r : Run} (hrun : (core s k).run = some r) (hf : FallsThrough s r) :
    advance k s = putRun k { r with wait := .none, pc := r.pc + 16 } s := by
  obtain ⟨hloops, hcode⟩ := hf
  have hpc : BitVec.ofNat 64 (r.pc.toNat + 16) = r.pc + 16 := BitVec.eq_of_toNat_eq (by simp)
  simp [advance, advanceFrom, hrun, fallThrough, hloops, loopEnd, hcode, hpc]

/-- What a SCALAR instruction leaves: everything but register `i` of the core's run, its PC and its waiting. -/
def ScalarFrameOf (s : State) (k : Nat) (i : BitVec 4) (r : Run) (o : Res) : Prop :=
  ∃ t r2, o = .next t ∧ (core t k).run = some r2 ∧ (∀ j, j ≠ i → getS r2 j = getS r j) ∧ r2.a = r.a ∧ r2.l = r.l ∧ r2.t = r.t ∧ r2.g = r.g ∧
    r2.latch = r.latch ∧ r2.dma = r.dma ∧ r2.mat = r.mat ∧ r2.ended = r.ended ∧ r2.pc = r.pc + 16 ∧ (core t k).acc = (core s k).acc ∧
    (∀ j, j ≠ k → core t j = core s j) ∧ t = setCores t.cores s

section
variable {s u : State} {k : Nat} {i : BitVec 4} {r r1 : Run}

theorem advance_scalarFrame (hs : SetsOnly i r r1) (hf : FallsThrough s r) (hrun : (core u k).run = some r1)
    (hacc : (core u k).acc = (core s k).acc) (hcores : ∀ j, j ≠ k → core u j = core s j) (hu : u = setCores u.cores s) :
    ScalarFrameOf s k i r (ok (advance k u)) := by
  obtain ⟨v, rfl, hget⟩ := hs
  have hfu : FallsThrough u { r with s := v } := ⟨hf.1, by rw [hu]; exact hf.2⟩
  refine ⟨advance k u, { r with s := v, wait := .none, pc := r.pc + 16 }, rfl, ?_⟩
  rw [advance_fallsThrough hrun hfu]
  refine ⟨by simp [putRun, core_modCore], hget, rfl, rfl, rfl, rfl, rfl, rfl, rfl, rfl, rfl, ?_, fun j hj => ?_, ?_⟩
  · simp [putRun, core_modCore, hacc]
  · simp [putRun, core_modCore, hj, hcores j hj]
  · rw [hu]; rfl

/-- An instruction that sets one scalar register has the frame of the SCALAR instructions. -/
theorem scalarOp_frame {c : Ctx} {st : Step} {f : IFields} (h : CoreRuns s k r c st) (hf : FallsThrough s r) (hb : modBad f 0 = false)
    (v : Run → DWord) : ScalarFrameOf s k f.rd r (scalarOp k f s v) := by
  unfold scalarOp
  rw [insn_runs h _ (Bool.and_false _) hb]
  refine advance_scalarFrame (setsOnly_setS f.rd r (v r)) hf ?_ ?_ (fun j hj => ?_) rfl <;> simp [putRun, core_modCore, *]

theorem nop_frame {c : Ctx} {st : Step} {f : IFields} (h : CoreRuns s k r c st) (hf : FallsThrough s r) (hb : modBad f 0 = false) :
    ScalarFrameOf s k f.rd r (execNop k f s) := by
  unfold execNop
  rw [insn_runs h _ (Bool.and_false _) hb]
  exact advance_scalarFrame (setsOnly_refl f.rd r) hf h.runs rfl (fun _ _ => rfl) rfl

end

/-- Settles O17: NOP sets nothing; each of the others is `scalarOp` with a value of its own. -/
theorem scalarFrame : Obligations.ScalarFrame := by
  unfold Obligations.ScalarFrame
  intro s k f r c st i h hf hb hi
  have hop : ∀ v, ScalarFrameOf s k f.rd r (scalarOp k f s v) := scalarOp_frame h hf hb
  simp only [List.mem_cons, List.not_mem_nil, or_false] at hi
  obtain rfl | rfl | rfl | rfl | rfl | rfl | rfl | rfl | rfl | rfl | rfl | rfl | rfl | rfl | rfl | rfl := hi
  · exact nop_frame h hf hb
  all_goals exact hop _

end Sys2Proof.Machine
end

section
/-! PROOFS. A write through a window leaves every byte outside the words and bursts that its pieces touch (R162, R228, R254). The
laws of the memories say it of each memory's own write; what remains is that a piece of one memory leaves the other, and that the
pieces of different cores lie apart. -/
namespace Sys2Proof.Machine
open Sys2Proof

/-! ### A write to one memory leaves the other -/

theorem touchBank_xmc (b : BankId) (s : State) : (touchBank b s).xmc = s.xmc := by
  have hcount : (cntAdd 0x80 0xB10 1 s).xmc = s.xmc := (cntAdd_logs ..).xmc
  unfold touchBank
  split
  · dsimp only
    split <;> exact hcount
  · rfl

theorem touchBanks_xmc (l : List BankId) (s : State) : (l.foldl (fun s b => touchBank b s) s).xmc = s.xmc := by
  induction l generalizing s with
  | nil => rfl
  | cons b l ih => exact (ih _).trans (touchBank_xmc b s)

theorem modOcm_xmc (f : OcmSt → OcmSt) (s : State) : (modOcm f s).xmc = s.xmc := rfl
theorem setOwErr_xmc (w : OWord) (m : Nat) (s : State) : (setOwErr w m s).xmc = s.xmc := rfl

theorem owCheck_xmc (w : OWord) (s : State) : (owCheck w s).2.xmc = s.xmc := by
  have hkeep : (keepRead w s).xmc = s.xmc := by unfold keepRead; split <;> rfl
  unfold owCheck
  split <;> dsimp only
  · exact (cntAdd_logs ..).xmc
  · rw [(corrected_logs ..).xmc, (cntAdd_logs ..).xmc, modOcm_xmc, setOwErr_xmc, hkeep]

theorem ocmPartChecks_xmc (c : Option Nat) (l : List Nat) (s : State) : (ocmPartChecks c l s).2.xmc = s.xmc := by
  induction l generalizing s with
  | nil => rfl
  | cons w l ih =>
    have hw := owCheck_xmc ⟨c, w⟩ s
    unfold ocmPartChecks
    revert hw
    generalize owCheck ⟨c, w⟩ s = r
    intro hw
    dsimp only
    split
    · exact (ih _).trans hw
    · exact hw

theorem ocmWrite_xmc (c : Option Nat) (off : Nat) (d : List Byte) (s : State) : (ocmWrite c off d s).2.xmc = s.xmc := by
  have hchecks := (ocmPartChecks_xmc c (partialWords off d.length) _).trans (touchBanks_xmc (banksOf c off d.length) s)
  have hstore : ∀ u : State, (ocmStore c off d (ocmClearErr c off d.length u)).xmc = u.xmc := fun u => by
    unfold ocmClearErr
    split <;> rfl
  unfold ocmWrite
  split
  · rfl
  · dsimp only
    split
    case h_1 e => rw [e] at hchecks; exact hchecks
    case h_2 u e =>
      rw [e] at hchecks
      split
      · exact (cntAdd_logs ..).xmc.trans ((hstore u).trans hchecks)
      · exact (hstore u).trans hchecks

theorem xmCnt_ocm (c off n : Nat) (s : State) : (xmCnt c off n s).ocm = s.ocm := (cntAdd_logs ..).ocm

theorem burstCheck_ocm (b : Nat) (s : State) : (burstCheck b s).2.ocm = s.ocm := by
  have hkeep : ∀ u, (keepBurst b u).ocm = u.ocm := fun u => by unfold keepBurst; split <;> rfl
  have hlast : ∀ un sym u, (lastBurst b un sym u).ocm = u.ocm := fun _ _ _ => rfl
  have hmarks : ∀ e u, (setBurstErr b e u).ocm = u.ocm := fun _ _ => rfl
  unfold burstCheck
  dsimp only
  split <;> dsimp only
  · exact xmCnt_ocm ..
  · rw [(advisory_logs ..).ocm, hlast, xmCnt_ocm, xmCnt_ocm]
  · rw [(corrected_logs ..).ocm, xmCnt_ocm, xmCnt_ocm, xmCnt_ocm, hmarks, hlast, hkeep, xmCnt_ocm]

theorem burstPartChecks_ocm (l : List Nat) (s : State) : (burstPartChecks l s).2.ocm = s.ocm := by
  induction l generalizing s with
  | nil => rfl
  | cons b l ih =>
    have hb := burstCheck_ocm b s
    unfold burstPartChecks
    revert hb
    generalize burstCheck b s = r
    intro hb
    dsimp only
    split
    · exact (ih _).trans hb
    · exact hb

theorem xmFlips_ocm (n b : Nat) (s : State) : (xmFlips b n s).ocm = s.ocm := by
  induction n generalizing b s with
  | zero => rfl
  | succ n ih =>
    unfold xmFlips
    dsimp only
    rw [ih]
    split
    · exact (xmCnt_ocm ..).trans (xmCnt_ocm ..)
    · exact xmCnt_ocm ..

theorem xmWrite_ocm (a : Nat) (d : List Byte) (s : State) : (xmWrite a d s).2.ocm = s.ocm := by
  have hchecks := burstPartChecks_ocm (partialBursts a d.length) s
  unfold xmWrite
  split
  · rfl
  · dsimp only
    split
    case h_1 e => rw [e] at hchecks; exact hchecks
    case h_2 u e =>
      rw [e] at hchecks
      exact (xmFlips_ocm _ _ _).trans hchecks

/-! ### A byte of a memory and the pieces that miss it -/

/-- A byte of the scratchpad, of a core's local SRAM, or of external memory. -/
inductive MemAt where
  | spad (x : Nat)
  | loc (j x : Nat)
  | xm (x : Nat)

/-- The byte, and the marks of error of its word or burst, are as they were. -/
def SameAt (s t : State) : MemAt → Prop
  | .spad x => errAt t.ocm false (x / 8) = errAt s.ocm false (x / 8) ∧ cellAt t.ocm false x = cellAt s.ocm false x
  | .loc j x => errAt t.ocm true (locKey j 0 / 8 + x / 8) = errAt s.ocm true (locKey j 0 / 8 + x / 8) ∧
      cellAt t.ocm true (locKey j x) = cellAt s.ocm true (locKey j x)
  | .xm x => smGet [] t.xmc.err (x / 64) = smGet [] s.xmc.err (x / 64) ∧ smGet 0 t.xmc.mem x = smGet 0 s.xmc.mem x

/-- No word or burst of the piece holds the byte. -/
def Seg.misses : Seg → MemAt → Prop
  | .spad off m, .spad x => x / 8 < off / 8 ∨ (off + m - 1) / 8 < x / 8
  | .loc i off m, .loc j x => (i = j → x / 8 < off / 8 ∨ (off + m - 1) / 8 < x / 8) ∧ off + m ≤ 0x400000 ∧ x < 0x400000
  | .xm a m, .xm x => x / 64 < a / 64 ∨ (a + m - 1) / 64 < x / 64
  | _, _ => True

theorem SameAt.refl (s : State) (p : MemAt) : SameAt s s p := by cases p <;> exact ⟨rfl, rfl⟩

theorem SameAt.trans {s t u : State} {p : MemAt} (h : SameAt s t p) (g : SameAt t u p) : SameAt s u p := by
  cases p <;> exact ⟨g.1.trans h.1, g.2.trans h.2⟩

/-- Where both memories are as they were, so is every byte. -/
theorem SameAt.of_eq {s t : State} (ho : t.ocm = s.ocm) (hx : t.xmc = s.xmc) (p : MemAt) : SameAt s t p := by
  cases p <;> simp [SameAt, ho, hx]

/-- A range of one on-chip memory leaves the bytes outside it and external memory. -/
theorem SameAt.of_sameOut {s t : State} {b : Bool} {lo hi : Nat} (h : SameOut b lo hi s.ocm t.ocm) (hx : t.xmc = s.xmc) {p : MemAt}
    (hp : match p with
      | .spad x => ¬ (false = b ∧ lo ≤ x / 8 ∧ x / 8 ≤ hi)
      | .loc j x => ¬ (true = b ∧ lo ≤ j * 0x80000 + x / 8 ∧ j * 0x80000 + x / 8 ≤ hi)
      | .xm _ => True) : SameAt s t p := by
  cases p with
  | spad x => exact ⟨h.err _ _ hp, h.cell _ _ hp⟩
  | loc j x =>
    have hkey : locKey j 0 / 8 + x / 8 = j * 0x80000 + x / 8 := by rw [locKey_div, Nat.zero_div, Nat.add_zero]
    exact ⟨h.err _ _ (hkey ▸ hp), h.cell _ _ (locKey_div j x ▸ hp)⟩
  | xm x => simp [SameAt, hx]

theorem extent_take_le (off n : Nat) (d : List Byte) (u : Nat) : (off + (d.take n).length - 1) / u ≤ (off + n - 1) / u :=
  Nat.div_le_div_right (by have := List.length_take_le n d; omega)

/-- A write to the scratchpad leaves the bytes that its piece misses. -/
theorem ocmWrite_spad_sameAt (off n : Nat) (d : List Byte) (s : State) {p : MemAt} (hp : (Seg.spad off n).misses p) :
    SameAt s (ocmWrite none off (d.take n) s).2 p := by
  have hle := extent_take_le off n d 8
  refine .of_sameOut (ocmWrite_same none off (d.take n) s) (ocmWrite_xmc ..) ?_
  cases p with
  | spad x =>
    rintro ⟨-, h1, h2⟩
    simp only [baseOf, Nat.zero_add] at h1 h2
    rcases hp with hp | hp <;> omega
  | loc j x => rintro ⟨h, -⟩; cases h
  | xm x => trivial

/-- A write to a core's local SRAM leaves the bytes that its piece misses: the SRAMs of two cores share no word. -/
theorem ocmWrite_loc_sameAt (i off n : Nat) (d : List Byte) (s : State) {p : MemAt} (hp : (Seg.loc i off n).misses p) :
    SameAt s (ocmWrite (some i) off (d.take n) s).2 p := by
  have hle := extent_take_le off n d 8
  refine .of_sameOut (ocmWrite_same (some i) off (d.take n) s) (ocmWrite_xmc ..) ?_
  cases p with
  | spad x => rintro ⟨h, -⟩; cases h
  | loc j x =>
    obtain ⟨hapart, hin, hx⟩ := hp
    rintro ⟨-, h1, h2⟩
    simp only [baseOf] at h1 h2
    by_cases hij : i = j
    · rcases hapart hij with hp | hp <;> omega
    · omega
  | xm x => trivial

/-- A write to external memory leaves the bytes that its piece misses. -/
theorem xmWrite_sameAt (a n : Nat) (d : List Byte) (s : State) {p : MemAt} (hp : (Seg.xm a n).misses p) :
    SameAt s (xmWrite a (d.take n) s).2 p := by
  have hle := extent_take_le a n d 64
  have h := xmWrite_same a (d.take n) s
  cases p with
  | spad x => simp [SameAt, xmWrite_ocm]
  | loc j x => simp [SameAt, xmWrite_ocm]
  | xm x =>
    have hout : ¬ (a / 64 ≤ x / 64 ∧ x / 64 ≤ (a + (d.take n).length - 1) / 64) := by
      rintro ⟨h1, h2⟩
      rcases hp with hp | hp <;> omega
    exact ⟨h.err _ hout, h.cell _ hout⟩

theorem modCtx_sameAt (n : Nat) (f : Ctx → Ctx) (s : State) (p : MemAt) : SameAt s (modCtx n f s) p := by
  unfold modCtx
  split
  · exact .refl s p
  · exact .of_eq rfl rfl p

/-- The write of one piece, as `writeSegs` makes it. -/
def writeSeg (n : Nat) (g : Seg) (d : List Byte) (s : State) : Nat × (Option Code × State) :=
  match g with
  | .spad off m => (m, match ocmWrite none off (d.take m) s with | (none, s) => (none, s) | (some _, s) => (some 0x8002, s))
  | .loc k off m => (m, match ocmWrite (some k) off (d.take m) s with | (none, s) => (none, s) | (some _, s) => (some 0x8002, s))
  | .xm a m => (m, match xmWrite a (d.take m) s with | (none, s) => (none, s) | (some _, s) => (some 0xA001, s))
  | .out off m => (m, (none, modCtx n (fun c => match c.step with
      | none => c
      | some st => { c with step := some { st with out := smStore st.out off (d.take m) } }) s))

theorem writeSegs_cons (n : Nat) (g : Seg) (l : List Seg) (d : List Byte) (s : State) :
    writeSegs n (g :: l) d s = match (writeSeg n g d s).2 with
      | (some e, s) => (some e, s)
      | (none, s) => writeSegs n l (d.drop (writeSeg n g d s).1) s := by
  cases g <;> rfl

theorem writeSeg_sameAt (n : Nat) (g : Seg) (d : List Byte) (s : State) {p : MemAt} (hp : g.misses p) : SameAt s (writeSeg n g d s).2.2 p := by
  cases g with
  | spad off m =>
    have h := ocmWrite_spad_sameAt off m d s hp
    unfold writeSeg
    dsimp only
    split <;> rename_i e <;> rw [e] at h <;> exact h
  | loc i off m =>
    have h := ocmWrite_loc_sameAt i off m d s hp
    unfold writeSeg
    dsimp only
    split <;> rename_i e <;> rw [e] at h <;> exact h
  | xm a m =>
    have h := xmWrite_sameAt a m d s hp
    unfold writeSeg
    dsimp only
    split <;> rename_i e <;> rw [e] at h <;> exact h
  | out off m => exact modCtx_sameAt n _ s p

/-- The write of several pieces leaves the bytes that each of them misses. -/
theorem writeSegs_sameAt (n : Nat) (l : List Seg) (d : List Byte) (s : State) {p : MemAt} (hp : ∀ g ∈ l, g.misses p) :
    SameAt s (writeSegs n l d s).2 p := by
  induction l generalizing d s with
  | nil => exact .refl s p
  | cons g l ih =>
    obtain ⟨hg, hl⟩ := List.forall_mem_cons.mp hp
    have h := writeSeg_sameAt n g d s hg
    rw [writeSegs_cons]
    split
    case h_1 e => rw [e] at h; exact h
    case h_2 u e => rw [e] at h; exact h.trans (ih _ u hl)

theorem ocmByte_spad (s : State) (x : Nat) : ocmByte s none x =
    if secded (x / 8) (errAt s.ocm false (x / 8)) == .undef then BitVec.ofNat 8 (Config.tripleByte x (errAt s.ocm false (x / 8)))
    else cellAt s.ocm false x := rfl

theorem ocmByte_loc (s : State) (j x : Nat) : ocmByte s (some j) x =
    if secded (x / 8) (errAt s.ocm true (locKey j 0 / 8 + x / 8)) == .undef then
      BitVec.ofNat 8 (Config.tripleByte x (errAt s.ocm true (locKey j 0 / 8 + x / 8)))
    else cellAt s.ocm true (locKey j x) := rfl

theorem SameAt.ocmByte_spad {s u : State} {x : Nat} (h : SameAt s u (.spad x)) : ocmByte u none x = ocmByte s none x := by
  rw [Machine.ocmByte_spad, Machine.ocmByte_spad, h.1, h.2]

theorem SameAt.ocmByte_loc {s u : State} {j x : Nat} (h : SameAt s u (.loc j x)) : ocmByte u (some j) x = ocmByte s (some j) x := by
  rw [Machine.ocmByte_loc, Machine.ocmByte_loc, h.1, h.2]

theorem SameAt.xmByte_eq {s u : State} {x : Nat} (h : SameAt s u (.xm x)) : xmByte u x = xmByte s x := by
  have herr : burstErr u (x / 64) = burstErr s (x / 64) := h.1
  have hrd : burstRd u (x / 64) = burstRd s (x / 64) := by unfold burstRd; rw [herr]
  unfold xmByte
  rw [hrd, herr, h.2]

/-- Settles O18: each piece leaves the bytes it misses, so the write of all of them does. -/
theorem windowWriteFrame : Obligations.WindowWriteFrame := by
  unfold Obligations.WindowWriteFrame
  intro s k n a d c l o u hctx hres hwrite
  have hsegs : (writeSegs n l d s).2 = u := by
    have := congrArg Prod.snd hwrite
    simpa [writeWin, hctx, hres] using this
  have hsame : ∀ p, (∀ g ∈ l, g.misses p) → SameAt s u p := fun p hp => hsegs ▸ writeSegs_sameAt n l d s hp
  refine ⟨fun x hx => (hsame (.spad x) fun g hg => ?_).ocmByte_spad, fun j x _ hxin hx hin => (hsame (.loc j x) fun g hg => ?_).ocmByte_loc,
    fun x hx => (hsame (.xm x) fun g hg => ?_).xmByte_eq⟩
  · cases g with
    | spad off m => exact hx _ hg off m rfl
    | loc i off m => trivial
    | xm b m => trivial
    | out off m => trivial
  · cases g with
    | loc i off m => exact ⟨fun hij => hx _ hg off m (hij ▸ rfl), (hin _ hg i off m rfl).2, hxin⟩
    | spad off m => trivial
    | xm b m => trivial
    | out off m => trivial
  · cases g with
    | xm b m => exact hx _ hg b m rfl
    | spad off m => trivial
    | loc i off m => trivial
    | out off m => trivial

end Sys2Proof.Machine
end

section
/-! PROOFS. Tile descriptors: TDLOAD, TDSTORE and TDINIT (R171). -/
namespace Sys2Proof.Machine
open Sys2Proof

section
variable {s u : State} {k : Nat} {f : IFields} {r : Run} {c : Ctx} {st : Step}

/-- A descriptor that TDLOAD takes: the level's version, or an empty one, with its Rsvd bytes 0. -/
def tdValid (s : State) (t : BitVec 256) : Prop :=
  (tdVersion t = versionByte s ∨ tdVersion t = 0 ∧ tdForm t = 0) ∧ bits t.toNat 31 24 = 0 ∧ bits t.toNat 255 224 = 0

theorem tdValid_iff (s : State) (t : BitVec 256) :
    ((tdVersion t == versionByte s || (tdVersion t == 0 && tdForm t == 0)) && bits t.toNat 31 24 == 0 && bits t.toNat 255 224 == 0) = true ↔
      tdValid s t := by
  simp [tdValid, and_assoc]

/-- Past its checks TDLOAD reads the 32 bytes and judges them. -/
theorem execTdload_read (h : CoreRuns s k r c st) (hb : modBad f 0 = false) (ha : f.ra.toNat < 8) (hfree : tdBusy r f.rd.toNat = false)
    (hrd : CanRead s k r st (Ext.one (getA r f.ra).toNat 32)) {d : List Byte}
    (hread : instrRead s k r.ctx (getA r f.ra).toNat 32 = (.data d, u)) :
    execTdload k f s =
      if ((tdVersion (BitVec.ofNat 256 (leNat d)) == versionByte u || (tdVersion (BitVec.ofNat 256 (leNat d)) == 0 && tdForm (BitVec.ofNat 256 (leNat d)) == 0)) &&
        bits (BitVec.ofNat 256 (leNat d)).toNat 31 24 == 0 && bits (BitVec.ofNat 256 (leNat d)).toNat 255 224 == 0) = true then
        ok (advance k (modRunOf k (fun r => setT r f.rd.toNat (BitVec.ofNat 256 (leNat d))) u))
      else coreFault k r cTILE_INVALID u := by
  unfold execTdload
  rw [insn_runs h _ (Bool.and_false _) (by rw [hb, aBad_false ha]; rfl)]
  dsimp only
  rw [hfree, if_neg Bool.false_ne_true, afterChecks_none (List.forall_mem_singleton.mpr (chkRd_none hrd)), rdThen_data hread]

theorem execTdstore_writes (h : CoreRuns s k r c st) (hb : modBad f 0 = false) (hd : f.rd.toNat < 8) (hfree : tdBusy r f.ra.toNat = false)
    (hwr : CanWrite s k r (Ext.one (getA r f.rd).toNat 32))
    (hdone : writeWin k r.ctx (getA r f.rd).toNat (leBytes 32 (getT r f.ra.toNat).toNat) s = (none, u)) :
    execTdstore k f s = .next (advance k u) := by
  unfold execTdstore
  rw [insn_runs h _ (Bool.and_false _) (by rw [hb, aBad_false hd]; rfl)]
  dsimp only
  rw [hfree, if_neg Bool.false_ne_true, afterChecks_none (List.forall_mem_singleton.mpr (chkWr_none hwr)), wrThen_done hdone]
  rfl

/-- TDINIT of a BW4 or BW8 entry: within its tiles it builds the descriptor, beyond them it faults. -/
theorem execTdinit_eq (h : CoreRuns s k r c st) (hb : modBad f 0 = false) (hfree : tdBusy r f.rd.toNat = false) {t : Tensor}
    (hent : c.pkg.tensors[extF f 19 0]? = some t) (hform : t.format = 1 ∨ t.format = 2) :
    execTdinit k f s = if cdiv (t.reduceLen + 1) 128 * cdiv (t.cols + 1) 128 ≤ (getS r f.ra).toNat then coreFault k r cCOUNT_RANGE s
      else ok (advance k (putRun k (setT r f.rd.toNat (tdInit (versionByte s) (extF f 19 0) (getS r f.ra).toNat t)) s)) := by
  have hgood : ¬ (t.format ≠ 1 ∧ t.format ≠ 2) := by omega
  unfold execTdinit
  rw [insn_runs h _ (Bool.and_false _) hb, hfree, if_neg Bool.false_ne_true, hent]
  exact if_neg hgood

/-- The tile length that R171 gives a BW4 and a BW8 entry. -/
theorem tileBytes_weight {t : Tensor} (hform : t.format = 1 ∨ t.format = 2) : tileBytes t.format = if t.format = 1 then 8256 else 16448 := by
  obtain h | h := hform <;> simp [tileBytes, h]

theorem scaleOffset_eq (i : Nat) : (if 0 < i then i * 320 + 256 else 0) = if i = 0 then 0 else i * 320 + 256 := by
  cases i <;> simp

/-- The descriptor of tile `n` of a BW4 or BW8 entry, its fields in their places (R171). -/
theorem tdInit_weight (v e n : Nat) {t : Tensor} (hform : t.format = 1 ∨ t.format = 2) :
    tdInit v e n t = BitVec.ofNat 256 (v + t.format * 2 ^ 8 + (t.layer * 2 ^ 20 + n % 2 ^ 16 * 2 ^ 4 + t.gen) * 2 ^ 32 +
      (3 * 2 ^ 60 + e * 2 ^ 40 + n * (if t.format = 1 then 8256 else 16448)) % 2 ^ 64 * 2 ^ 64 +
      (4 * 2 ^ 60 + e * 2 ^ 40 + (n / cdiv (t.reduceLen + 1) 128 * (cdiv (t.reduceLen + 1) 128 * 320 + 256) +
        if n % cdiv (t.reduceLen + 1) 128 = 0 then 0 else n % cdiv (t.reduceLen + 1) 128 * 320 + 256)) % 2 ^ 64 * 2 ^ 128) := by
  simp only [tdInit, mkTd, tileBytes_weight hform, scaleOffset_eq]

end

/-- Settles O21: each instruction past its checks; TDINIT's sizes are `cdiv` by 128 written out. -/
theorem tileDescriptorResult : Obligations.TileDescriptorResult := by
  unfold Obligations.TileDescriptorResult
  intro s k f r c st h
  refine ⟨fun hb ha hfree => ?load, fun hb hd hfree => ?store, fun t hb hfree hent hform => ?init⟩
  case load =>
    intro a hrd d u hread t valid
    have hex := execTdload_read h hb ha hfree hrd hread
    exact ⟨fun hv => hex.trans (if_pos ((tdValid_iff u t).mpr hv)), fun hv => hex.trans (if_neg fun hg => hv ((tdValid_iff u t).mp hg))⟩
  case store =>
    intro a hwr u hdone
    exact execTdstore_writes h hb hd hfree hwr hdone
  case init =>
    intro e n rb j i len
    have hex := execTdinit_eq h hb hfree hent hform
    refine ⟨fun hn => (hex.trans (if_neg (Nat.not_le.mpr hn))).trans ?_, fun hn => hex.trans (if_pos hn)⟩
    show ok (advance k (putRun k (setT r f.rd.toNat (tdInit (versionByte s) e n t)) s)) = _
    rw [tdInit_weight _ _ _ hform]
    rfl

end Sys2Proof.Machine
end

section
/-! PROOFS. The exact sums of a matrix core (R99, R100): a row of products, and the two passes of an INT16 activation. -/
namespace Sys2Proof.Machine
open Sys2Proof

/-- One row of a tile, weighted by its activation, added to the column sums (R100). -/
def addScaled (acc : List Int) (p : List Int × Int) : List Int :=
  if p.2 = 0 then acc else List.zipWith (fun x y => x + p.2 * y) acc p.1

theorem rowTimes_eq (w : List (List Int)) (a : List Int) : rowTimes w a = (List.zip w a).foldl addScaled (List.replicate 128 0) := rfl

theorem addScaled_length {acc : List Int} {p : List Int × Int} (h : p.1.length = acc.length) : (addScaled acc p).length = acc.length := by
  unfold addScaled
  split
  · rfl
  · simp [h]

theorem addScaled_getD {acc : List Int} {p : List Int × Int} (h : p.1.length = acc.length) {c : Nat} (hc : c < acc.length) :
    (addScaled acc p).getD c 0 = acc.getD c 0 + p.2 * p.1.getD c 0 := by
  unfold addScaled
  split
  next h0 => simp [h0]
  next => simp [List.getD_eq_getElem?_getD, h, hc]

/-- Column by column, the rows add their weighted elements. -/
theorem foldl_addScaled_getD (l : List (List Int × Int)) (acc : List Int) (h : ∀ p ∈ l, p.1.length = acc.length) :
    (l.foldl addScaled acc).length = acc.length ∧
      ∀ c < acc.length, (l.foldl addScaled acc).getD c 0 = acc.getD c 0 + (l.map fun p => p.2 * p.1.getD c 0).sum := by
  induction l generalizing acc with
  | nil => simp
  | cons p l ih =>
    obtain ⟨hp, hl⟩ := List.forall_mem_cons.mp h
    have hlen := addScaled_length hp
    obtain ⟨hlen2, hget⟩ := ih (addScaled acc p) (hlen ▸ hl)
    refine ⟨hlen2.trans hlen, fun c hc => ?_⟩
    rw [List.foldl_cons, hget c (hlen ▸ hc), addScaled_getD hp hc, List.map_cons, List.sum_cons, Int.add_assoc]

theorem eq_map_range_getD {α : Type} (l : List α) (d : α) : l = (List.range l.length).map fun i => l.getD i d := by
  refine List.ext_getElem (by simp) fun i h1 h2 => ?_
  simp [List.getD_eq_getElem?_getD, h1]

theorem zip_eq_map_range {α β : Type} {l : List α} {m : List β} (h : l.length = m.length) (x : α) (y : β) :
    List.zip l m = (List.range m.length).map fun i => (l.getD i x, m.getD i y) := by
  refine List.ext_getElem (by simp [h]) fun i h1 h2 => ?_
  have hm : i < m.length := by simpa using h2
  have hl : i < l.length := h ▸ hm
  simp [List.getD_eq_getElem?_getD, hm, hl]

theorem getD_replicate {α : Type} (x : α) {n i : Nat} (hi : i < n) : (List.replicate n x).getD i x = x := by
  simp [List.getD_eq_getElem?_getD, hi]

theorem rowTimes_exact {w : List (List Int)} {a : List Int} (hw : w.length = 128) (ha : a.length = 128) (hrows : ∀ x ∈ w, x.length = 128) :
    rowTimes w a = (List.range 128).map fun c => ((List.range 128).map fun i => a.getD i 0 * (w.getD i []).getD c 0).sum := by
  have hwide : ∀ p ∈ List.zip w a, p.1.length = (List.replicate 128 (0 : Int)).length := fun p hp => by
    simpa using hrows p.1 (List.of_mem_zip hp).1
  obtain ⟨hlen, hget⟩ := foldl_addScaled_getD (List.zip w a) (List.replicate 128 0) hwide
  rw [List.length_replicate] at hlen
  rw [rowTimes_eq, eq_map_range_getD ((List.zip w a).foldl addScaled _) 0, hlen]
  refine List.map_congr_left fun c hc => ?_
  have hc : c < 128 := List.mem_range.mp hc
  rw [hget c (by simpa using hc), getD_replicate (0 : Int) hc, Int.zero_add, zip_eq_map_range (hw.trans ha.symm) [] 0, ha, List.map_map]
  rfl

/-! ### The two passes of an INT16 activation (R99) -/

/-- The low pass of an activation: its low byte, signed. -/
def lowPass (x : Int) : Int := signed 8 (toBits 8 x)

theorem lowPass_bounds (x : Int) : -128 ≤ lowPass x ∧ lowPass x ≤ 127 ∧ ∃ h, x = lowPass x + 256 * h := by
  have hu : (0 : Int) ≤ x % 256 ∧ x % 256 < 256 := ⟨Int.emod_nonneg _ (by decide), Int.emod_lt_of_pos _ (by decide)⟩
  have hdiv : x = x % 256 + 256 * (x / 256) := (Int.emod_add_mul_ediv x 256).symm
  unfold lowPass signed toBits
  dsimp only
  split
  · exact ⟨by omega, by omega, x / 256, by omega⟩
  · exact ⟨by omega, by omega, x / 256 + 1, by omega⟩

/-- An activation within its bound is its low pass and 256 times its high pass, each a signed byte. -/
theorem passes_exact {x : Int} (hx : x.natAbs ≤ 32639) :
    x = lowPass x + 256 * ((x - lowPass x) / 256) ∧ -127 ≤ (x - lowPass x) / 256 ∧ (x - lowPass x) / 256 ≤ 127 := by
  obtain ⟨hlo, hhi, h, hsplit⟩ := lowPass_bounds x
  have hquot : (x - lowPass x) / 256 = h := by omega
  rw [hquot]
  omega

/-- Settles O22: the sums column by column, and the passes element by element. -/
theorem exactSums : Obligations.ExactSums := by
  unfold Obligations.ExactSums
  refine ⟨fun w a hw ha hrows => rowTimes_exact hw ha hrows, fun a hgood => ?_⟩
  refine ⟨a.map lowPass, List.zipWith (fun x y => (x - y) / 256) a (a.map lowPass), rfl, by simp, by simp, fun i hi => ?_⟩
  have hx : a[i].natAbs ≤ 32639 := by
    have := hgood a[i] (List.getElem_mem hi)
    simpa [actBad] using this
  obtain ⟨hlo, hhi, -⟩ := lowPass_bounds a[i]
  obtain ⟨hsplit, hh, hh'⟩ := passes_exact hx
  have hl : (a.map lowPass).getD i 0 = lowPass a[i] := by simp [hi]
  have hz : (List.zipWith (fun x y => (x - y) / 256) a (a.map lowPass)).getD i 0 = (a[i] - lowPass a[i]) / 256 := by
    simp [List.getD_eq_getElem?_getD, hi]
  have ha : a.getD i 0 = a[i] := by simp [hi]
  rw [hl, hz, ha]
  exact ⟨hsplit, hlo, hhi, hh, hh'⟩

end Sys2Proof.Machine
end

section
/-! PROOFS. MATRIX_COMPLETE: how a row is written or discarded (R134 to R138, R173). -/
namespace Sys2Proof.Machine
open Sys2Proof

/-- Elements written from key `e` on, as `accWrite` lists them. -/
theorem smGet_putFrom (vals : List Nat) (e i j : Nat) (m : SMap Nat) :
    smGet 0 ((vals.zipIdx i).foldl (fun m p => smPut 0 m (e + p.2) p.1) m) j =
      if e + i ≤ j ∧ j < e + i + vals.length then vals.getD (j - (e + i)) 0 else smGet 0 m j := by
  induction vals generalizing i m with
  | nil =>
    rw [if_neg (by simp only [List.length_nil]; omega)]
    rfl
  | cons v vals ih =>
    rw [List.zipIdx_cons, List.foldl_cons, ih, smGet_put]
    by_cases hj : j = e + i
    · subst hj
      rw [if_neg (by omega), if_pos rfl, if_pos (by simp only [List.length_cons]; omega), Nat.sub_self, List.getD_cons_zero]
    · by_cases hin : e + (i + 1) ≤ j ∧ j < e + (i + 1) + vals.length
      · have hget : j - (e + i) = j - (e + (i + 1)) + 1 := by omega
        rw [if_pos hin, if_pos (by simp only [List.length_cons]; omega), hget, List.getD_cons_succ]
      · rw [if_neg hin, if_neg hj, if_neg (by simp only [List.length_cons]; omega)]

theorem core_accWrite (k e j : Nat) (vals : List Nat) (s : State) (hj : j ≠ k) : core (accWrite k e vals s) j = core s j := by
  rw [accWrite, core_modCore, if_neg hj]

theorem acc_accWrite (k e j : Nat) (vals : List Nat) (s : State) : smGet 0 (core (accWrite k e vals s) k).acc j =
    if e ≤ j ∧ j < e + vals.length then vals.getD (j - e) 0 else smGet 0 (core s k).acc j := by
  rw [accWrite, core_modCore, if_pos rfl]
  exact smGet_putFrom vals e 0 j _

/-- A row of an instruction under no narrowing point is written as it stands. -/
theorem writeRow_plain {m : MatOp} (hd : m.disc = false) (hn : m.np = 0) (k n : Nat) (w : MatRow) (s : State) :
    writeRow k n m w s = if w.toAcc then accWrite k (w.at_ * 128) w.vals s else (writeWin k n w.at_ (w.vals.flatMap (leBytes 6)) s).2 := by
  simp [writeRow, hd, hn]

theorem ctx?_modCtx (n j : Nat) (f : Ctx → Ctx) (s : State) : ctx? (modCtx n f s) j = if j = n then (ctx? s n).map f else ctx? s j := by
  unfold modCtx
  split
  next h => split <;> simp_all
  next c h =>
    show smFind (smSet s.ctxs n (f c)) j = _
    rw [smFind_set]
    split <;> simp_all [ctx?]

/-- An array that is not gated, the brake off, writes the rows and ends the instruction (R138, R150). -/
theorem execMatrixComplete_runs {s : State} {k : Nat} {r : Run} {m : MatOp} (hk : k < 48) (hr : (core s k).run = some r) (hm : r.mat = some m)
    (hg : (core s k).gated = false) (hb : brakeLevel s = false) : execMatrixComplete k s =
      .next (settleHalves r.ctx (modRunOf k (fun x => { x with mat := none }) (m.rows.foldl (fun s w => writeRow k r.ctx m w s) s))) := by
  have hk' : ¬ 48 ≤ k := Nat.not_le.mpr hk
  simp [execMatrixComplete, hk', hr, hm, hg, hb, ok]

/-- Settles O24: a row goes to the accumulator memory, to memory, or to the record of discarded rows. -/
theorem matrixCompleteResult : Obligations.MatrixCompleteResult := by
  unfold Obligations.MatrixCompleteResult
  refine ⟨fun s k r m hk hr hm hg hb => execMatrixComplete_runs hk hr hm hg hb, fun s k n m w hd hn hacc hlen _ => ?acc,
    fun s k n m w u hd hn hacc hw => ?mem, fun s k n m w c st hd hc hst => ?discard⟩
  case acc =>
    intro t
    have ht : t = accWrite k (w.at_ * 128) w.vals s := (writeRow_plain hd hn k n w s).trans (if_pos hacc)
    refine ⟨fun c hc => ?_, fun e he => ?_, fun j hj => ?_, ?_, ?_⟩
    · rw [ht, acc_accWrite, if_pos (by omega), Nat.add_sub_cancel_left]
    · rw [ht, acc_accWrite, if_neg (by omega)]
    · rw [ht, core_accWrite _ _ _ _ _ hj]
    · rw [ht]; rfl
    · rw [ht]; rfl
  case mem =>
    rw [writeRow_plain hd hn, if_neg (by simp [hacc]), hw]
  case discard =>
    intro t
    have ht : t = modCtx n (fun c => { c with step := c.step.map fun st =>
        { st with discarded := smSet st.discarded (rowKey k w.toAcc w.at_) m.np } }) s := if_pos hd
    have hmod : t = putCtx n { c with step := c.step.map fun st =>
        { st with discarded := smSet st.discarded (rowKey k w.toAcc w.at_) m.np } } s := by rw [ht, modCtx, hc]
    refine ⟨fun j => ?_, ?_, ?_, ?_⟩
    · rw [hmod]; rfl
    · rw [hmod]; rfl
    · rw [hmod]; rfl
    · rw [ht, ctx?_modCtx, if_pos rfl, hc, Option.map_some, hst, Option.map_some]

end Sys2Proof.Machine
end

section
/-! PROOFS. MATRIX, CONV1D and CONV2D at issue (R130 to R138, R147, R148, R172 to R174): the checks in their order, the rows read, and the
operation that the core then holds. -/
namespace Sys2Proof.Machine
open Sys2Proof

/-- What a matrix instruction takes from its fields: the form of its activations, and the counts of its rows and tiles. -/
def matEnv (f : IFields) (act16 : Bool) (conv : Option ConvP) (rows tiles : Nat) (d : List Byte) : ActEnv :=
  { act16 := act16, cplx := decide (extF f 14 14 = 1), rows := rows, tiles := tiles, conv := conv, data := d }

/-- The forms of the tiles it reads. -/
def matForms (r : Run) (f : IFields) : List Nat :=
  if decide (extF f 14 14 = 1) then [tdForm (getT r f.ra.toNat), tdForm (getT r (f.ra.toNat + 1))] else [tdForm (getT r f.ra.toNat)]

/-- The rows it sums into: one per region of an activation row (R172). -/
def matRowCount (f : IFields) (act16 : Bool) (rows : Nat) : Nat :=
  (if decide (extF f 14 14 = 1) then 2 else 1) * (if act16 then 2 else 1) * rows

/-- The operation it leaves in the core. -/
def matOp (r : Run) (c : Ctx) (st : Step) (f : IFields) (disc : Bool) (rows : Nat) (old : List (List Nat)) (m : MatAcc) (u : State) (k : Nat) : MatOp :=
  { rows := matRows rows (if extF f 17 17 = 1 then (getA r f.rd).toNat else extF f 29 24) (extF f 17 17 == 0) old m.sums, np := extF f 43 32,
    checked := st.checked || forceChecked u k,
    layers := layerOf c (tdData (getT r f.ra.toNat)) ++ (if decide (extF f 14 14 = 1) then layerOf c (tdData (getT r (f.ra.toNat + 1))) else []),
    tds := f.ra.toNat :: (if decide (extF f 14 14 = 1) then [f.ra.toNat + 1] else []), latches := m.latch.isSome, disc := disc }

/-- The core's run once it holds the operation: the descriptors advanced, the latch loaded (R171, R179). -/
def matHeld (f : IFields) (m : MatAcc) (op : MatOp) (x : Run) : Run :=
  let y := if decide (extF f 14 14 = 1) then setT (setT x f.ra.toNat m.tr) (f.ra.toNat + 1) m.ti else setT x f.ra.toNat m.tr
  { y with mat := some op, latch := m.latch.orElse fun _ => y.latch }

theorem matRowCount_eq (f : IFields) (act16 : Bool) (rows : Nat) :
    matRowCount f act16 rows = ((if extF f 14 14 = 1 then 2 else 1) * if act16 = true then 2 else 1) * rows := by
  simp only [matRowCount, decide_eq_true_eq]

theorem Logs.core_eq {s t : State} (h : Logs s t) (k : Nat) : core t k = core s k := by
  obtain ⟨e, x, c, q, o, rfl⟩ := h.only
  rfl

/-- New planes after counting leave the memories and every core's run. -/
theorem planes_kept {s t : State} (k : Nat) (a b : Plane) (h : Logs s t) :
    (modCore k (fun c => { c with active := a, shadow := b }) t).ocm = s.ocm ∧
      (modCore k (fun c => { c with active := a, shadow := b }) t).xmc = s.xmc ∧
      ∀ j, (core (modCore k (fun c => { c with active := a, shadow := b }) t) j).run = (core s j).run := by
  refine ⟨h.ocm, h.xmc, fun j => ?_⟩
  rw [core_modCore, ← h.core_eq j]
  split
  next hj => rw [hj]
  next => rfl

section
variable {s u u1 u2 u3 : State} {k : Nat} {f : IFields} {r : Run} {c : Ctx} {st : Step} {act16 disc : Bool} {conv : Option ConvP} {rows tiles : Nat}

/-- Past its checks a matrix instruction reads its activation rows and runs. -/
theorem matIssue_reads (hform : matForm c st f = some (act16, disc))
    (hready : MatReady u k r st f conv (matEnv f act16 conv rows tiles []) (matForms r f) (matRowCount f act16 rows)) {d : List Byte}
    (hread : instrRead u k r.ctx (getA r f.rb).toNat ((matEnv f act16 conv rows tiles []).realBytes * if decide (extF f 14 14 = 1) then 2 else 1) = (.data d, u1)) :
    matIssue k r c st f conv rows tiles u = matRun k r c st f (matEnv f act16 conv rows tiles d) (extF f 43 32) disc u1 := by
  obtain ⟨hforms, hlevel, hsource, hdest, ⟨halign, hrows⟩, htile, himag, hacc, hout⟩ := hready
  have hcount := matRowCount_eq f act16 rows
  have hbytes : (if decide (extF f 14 14 = 1) = true then 2 else 1) = if extF f 14 14 = 1 then 2 else 1 := by simp only [decide_eq_true_eq]
  have hreal : (matEnv f act16 conv rows tiles []).cplx = decide (extF f 14 14 = 1) := rfl
  have hfs : (tdForm (getT r f.ra.toNat) :: if extF f 14 14 = 1 then [tdForm (getT r (f.ra.toNat + 1))] else []) = matForms r f := by
    unfold matForms
    split <;> simp_all
  unfold matIssue
  rw [hform]
  dsimp only
  rw [hfs, ← hcount]
  rw [hreal] at hrows
  rw [hbytes] at hrows hread
  have hknown : ¬ ((matForms r f).any fun x => decide (x = 0 ∨ 4 < x)) = true := by
    simp only [List.any_eq_true, decide_eq_true_eq, not_exists, not_and]
    intro x hx
    obtain ⟨h1, h4, -⟩ := hforms x hx
    omega
  have hlev : ¬ (conv.isNone && u.chip.level1 && (matForms r f).contains 4) = true := by
    simp only [Bool.and_eq_true, Option.isNone_iff_eq_none, List.contains_iff_mem, not_and, and_imp]
    exact fun hc hl => hlevel hl hc
  have hlen : ¬ ((matForms r f).any fun x => decide (reduceLimit x (decide (extF f 14 14 = 1)) < 128 * tiles)) = true := by
    simp only [List.any_eq_true, decide_eq_true_eq, not_exists, not_and, Nat.not_lt]
    exact fun x hx => (hforms x hx).2.2
  have hfits : ¬ (extF f 16 15 = 1 ∧ 64 < extF f 23 18 + matRowCount f act16 rows ∨
      extF f 17 17 = 0 ∧ 64 < extF f 29 24 + matRowCount f act16 rows) := by
    rintro (⟨h, hlt⟩ | ⟨h, hlt⟩)
    · exact Nat.not_lt.mpr (hsource h).1 hlt
    · exact Nat.not_lt.mpr (hdest h) hlt
  have haligned : ¬ ((getA r f.rb).toNat % 64 ≠ 0 ∨ extF f 17 17 = 1 ∧ (getA r f.rd).toNat % 64 ≠ 0) := by
    rintro (h | ⟨h, hne⟩)
    · exact h halign
    · exact hne (hout h).1
  have hlocal : ¬ (extF f 17 17 = 1 ∧ windowOf (getA r f.rd).toNat ≠ 0) := fun ⟨h, hne⟩ => hne (hout h).2.1
  have hkept : ¬ (extF f 16 15 = 1 ∧ accDiscarded st k (extF f 23 18) (matRowCount f act16 rows) = true) := fun ⟨h, hd⟩ => by
    rw [(hsource h).2] at hd
    cases hd
  rw [if_neg hknown, if_neg hlev, if_neg hlen, if_neg hfits, if_neg haligned, if_neg hlocal, if_neg hkept]
  refine (afterChecks_none ?_ _).trans (rdThen_data hread _)
  simp only [List.mem_append, List.mem_cons, List.not_mem_nil, or_false]
  rintro x (((hx | hx) | hx) | hx)
  · obtain rfl | rfl := hx
    · exact chkRd_none hrows
    · exact chkRd_none htile
  · split at hx <;> simp only [List.mem_cons, List.not_mem_nil, or_false] at hx
    case isTrue hc => exact hx ▸ chkRd_none (himag (decide_eq_true hc))
  · split at hx <;> simp only [List.mem_cons, List.not_mem_nil, or_false] at hx
    case isTrue hs => exact hx ▸ chkRd_none (hacc hs)
  · split at hx <;> simp only [List.mem_cons, List.not_mem_nil, or_false] at hx
    case isTrue ho => exact hx ▸ chkWr_none (hout ho).2.2

/-- With its rows read, its accumulate source and its tiles good, the instruction holds its operation and goes on. -/
theorem matRun_holds {d : List Byte} {old : List (List Nat)} {m : MatAcc}
    (hsrc : matSource k r.ctx (extF f 16 15) (extF f 23 18) (getA r f.rd).toNat (matRowCount f act16 rows) u1 = (.ok old, u2))
    (htiles : matTiles k r.ctx (matEnv f act16 conv rows tiles d) ((st.checked || forceChecked u2 k) && injectArmed u2 k) (matEnv f act16 conv rows tiles d).tiles 0
      { sums := [], tr := getT r f.ra.toNat, ti := getT r (f.ra.toNat + 1), latch := none, plane := (core u2 k).active } u2 = (.done m, u3)) :
    ∃ u4, matRun k r c st f (matEnv f act16 conv rows tiles d) (extF f 43 32) disc u1 =
        .next (advance k (modRunOf k (matHeld f m (matOp r c st f disc rows old m u2 k)) u4)) ∧
      u4.ocm = u3.ocm ∧ u4.xmc = u3.xmc ∧ ∀ j, (core u4 j).run = (core u3 j).run := by
  unfold matRun
  dsimp only
  have hcount : ((if (matEnv f act16 conv rows tiles d).cplx = true then 2 else 1) * if (matEnv f act16 conv rows tiles d).act16 = true then 2 else 1) *
      (matEnv f act16 conv rows tiles d).rows = matRowCount f act16 rows := rfl
  rw [hcount, hsrc]
  dsimp only
  rw [htiles]
  refine ⟨_, rfl, planes_kept k m.plane Plane.empty ?_⟩
  have hlogs : ∀ p q, Logs u3 (cntAdd (0x40 + k) 0x800 p (cntAdd (0x40 + k) 0x808 p (cntAdd (0x40 + k) 0x810 q u3))) := fun p q =>
    ((cntAdd_logs ..).trans (cntAdd_logs ..)).trans (cntAdd_logs ..)
  exact .ite ((hlogs _ _).trans (cntAdd_logs ..)) (hlogs _ _)

/-- Issued and run, the instruction holds its operation. -/
theorem matIssue_holds (hform : matForm c st f = some (act16, disc))
    (hready : MatReady u k r st f conv (matEnv f act16 conv rows tiles []) (matForms r f) (matRowCount f act16 rows)) {d : List Byte} {old : List (List Nat)} {m : MatAcc}
    (hread : instrRead u k r.ctx (getA r f.rb).toNat ((matEnv f act16 conv rows tiles []).realBytes * if decide (extF f 14 14 = 1) then 2 else 1) = (.data d, u1))
    (hsrc : matSource k r.ctx (extF f 16 15) (extF f 23 18) (getA r f.rd).toNat (matRowCount f act16 rows) u1 = (.ok old, u2))
    (htiles : matTiles k r.ctx (matEnv f act16 conv rows tiles d) ((st.checked || forceChecked u2 k) && injectArmed u2 k) (matEnv f act16 conv rows tiles d).tiles 0
      { sums := [], tr := getT r f.ra.toNat, ti := getT r (f.ra.toNat + 1), latch := none, plane := (core u2 k).active } u2 = (.done m, u3)) :
    ∃ u4, matIssue k r c st f conv rows tiles u = .next (advance k (modRunOf k (matHeld f m (matOp r c st f disc rows old m u2 k)) u4)) ∧
      u4.ocm = u3.ocm ∧ u4.xmc = u3.xmc ∧ ∀ j, (core u4 j).run = (core u3 j).run := by
  rw [matIssue_reads hform hready hread]
  exact matRun_holds hsrc htiles

theorem extF_bit (f : IFields) (i : Nat) : extF f i i = 0 ∨ extF f i i = 1 := by
  have h : extF f i i < 2 := by
    unfold extF bits
    rw [Nat.add_sub_cancel_left]
    exact Nat.mod_lt _ Nat.two_pos
  omega

/-- MATRIX issues its rows over its tiles. -/
theorem execMatrix_issues (h : CoreRuns s k r c st) (hb : matBad f = false) (hl : extF f 14 14 = 1 → s.chip.level1 = false)
    (hfree : arrayBusy s k r = false) (hle : (getS r f.rc).toNat ≤ 2 ^ 20) :
    execMatrix k f s = if (getS r f.rc).toNat = 0 then ok (advance k s) else matIssue k r c st f none (getS r f.rc).toNat (extF f 12 0 + 1) s := by
  have hlev : (s.chip.level1 && !decide (extF f 14 14 = 0)) = false := by
    obtain h0 | h1 := extF_bit f 14
    · simp [h0]
    · simp [hl h1]
  unfold execMatrix
  rw [insn_runs h _ hlev hb]
  dsimp only
  rw [if_neg (Nat.not_lt.mpr hle), hfree, if_neg Bool.false_ne_true]

/-- A convolution whose parameter block is good issues its output positions over its taps. -/
theorem convIssue_issues (hfree : arrayBusy s k r = false) (hwin : windowOf (getA r f.rc).toNat = 0)
    (hrd : CanRead s k r st (Ext.one (getA r f.rc).toNat 32)) {b : List Byte} (hread : instrRead s k r.ctx (getA r f.rc).toNat 32 = (.data b, u))
    (hz : zeroRange b 26 32 = true) (hcb : 1 ≤ (convParm b).cb) (hx : 1 ≤ (convParm b).outX) (hy : 1 ≤ (convParm b).outY) (two : Bool)
    (hgood : (if two then conv2Good (convParm b) else conv1Good (convParm b)) = true) :
    convIssue k f two r c st s = matIssue k r c st f (some (convParm b)) ((convParm b).outX * (convParm b).outY)
      ((convParm b).tapsX * (convParm b).tapsY * (convParm b).cb) u := by
  have hpos : (!(if two then conv2Good (convParm b) else conv1Good (convParm b)) || (convParm b).cb == 0 || (convParm b).outX == 0 ||
      (convParm b).outY == 0) = false := by
    rw [hgood]
    simp
    omega
  unfold convIssue
  dsimp only
  rw [hfree, if_neg Bool.false_ne_true, if_neg (fun hne => hne hwin), afterChecks_none (List.forall_mem_singleton.mpr (chkRd_none hrd)),
    rdThen_data hread, hz, if_neg (by simp), hpos, if_neg Bool.false_ne_true]

end

/-- Settles O23: every path issues through `matIssue_holds`. -/
theorem matrixIssueResult : Obligations.MatrixIssueResult := by
  unfold Obligations.MatrixIssueResult
  intro s k f r c st act16 disc h hb hform hfree cplx tr ti done
  have hdone : ∀ conv rows tiles u, done conv rows tiles u (matIssue k r c st f conv rows tiles u) :=
    fun conv rows tiles u hready d u1 old u2 m u3 hread hsrc htiles => matIssue_holds hform hready hread hsrc htiles
  refine ⟨fun rows hl hrows hpos hle => ?matrix, fun hzero hl => ?none, fun b u hext hrc hwin hrd hread hz => ?conv⟩
  case matrix =>
    subst hrows
    rw [show exec (.matrix k f) s = execMatrix k f s from rfl, execMatrix_issues h hb hl hfree hle, if_neg (by omega)]
    exact hdone none _ _ s
  case none =>
    rw [show exec (.matrix k f) s = execMatrix k f s from rfl, execMatrix_issues h hb hl hfree (by omega), if_pos hzero]
    rfl
  case conv =>
    intro p hcb hx hy
    have hbad : (matBad f || extF f 12 0 != 0 || aBad f.rc) = false := by simp [hb, hext, aBad_false hrc]
    refine ⟨fun hgood => ?_, fun hgood hl => ?_⟩
    · rw [show exec (.conv1d k f) s = execConv1d k f s from rfl, execConv1d, insn_runs h _ (Bool.and_false _) hbad,
        convIssue_issues hfree hwin hrd hread hz hcb hx hy false hgood]
      exact hdone (some p) _ _ u
    · rw [show exec (.conv2d k f) s = execConv2d k f s from rfl, execConv2d, insn_runs h _ (by rw [hl]; rfl) hbad,
        convIssue_issues hfree hwin hrd hread hz hcb hx hy true hgood]
      exact hdone (some p) _ _ u

end Sys2Proof.Machine
end

section
/-! PROOFS. Fabrics and admin commands on a queue that takes commands (R369, R375 to R377, R390 to R394): the frame of those that only
answer, then what each answers. -/
namespace Sys2Proof.Machine
open Sys2Proof

/-! ### The frame of the commands that only answer -/

theorem noteCmd_posts (t : Tag) (op : Nat) (q : Sqe) (s : State) : Posts s (noteCmd t op q s) := by
  obtain ⟨m, hm⟩ := noteCmd_eq t op q s
  exact hm ▸ modQcu_posts (fun x => { x with conns := m }) s

/-- The outcome is a next state in which only counters, queues and messages differ. -/
def PostsTo (s : State) (o : Res) : Prop := ∃ u, o = .next u ∧ Posts s u

theorem fatalStop_noteCmd (t : Tag) (op : Nat) (q : Sqe) (s : State) : fatalStop (noteCmd t op q s) = fatalStop s := by
  obtain ⟨m, hm⟩ := noteCmd_eq t op q s
  rw [hm]
  rfl

section
variable {s : State} {t : Tag}

/-- An admin command on an open queue posts, if its own effect posts. -/
theorem adminRow_postsTo (h : QueueOpen s t) (op : Nat) (q : Sqe) (serves : Bool) {f : State → State} (hf : ∀ u, Posts u (f u)) :
    PostsTo s (adminRow t op q serves f s) := by
  have hnote := noteCmd_posts t op q s
  unfold adminRow
  rw [fetch_runs h]
  dsimp only
  rw [fatalStop_noteCmd, h.well]
  split
  · exact ⟨_, rfl, hnote.trans (complete_posts ..)⟩
  · split
    · exact ⟨_, rfl, hnote.trans (complete_posts ..)⟩
    · exact ⟨_, rfl, hnote.trans (hf _)⟩

theorem modCtrlOf_posts (t : Tag) (f : Ctrl → Ctrl) (s : State) : Posts s (modCtrlOf t f s) := by
  unfold modCtrlOf
  split
  · exact .refl s
  · exact modQcu_posts _ s

theorem execIdentify_postsTo (h : QueueOpen s t) (q : Sqe) (d : List Byte) : PostsTo s (execIdentify t q d s) := by
  refine adminRow_postsTo h _ _ _ fun u => ?_
  split
  · exact .refl u
  · split
    · exact complete_posts ..
    · split <;> exact complete_posts ..

theorem execGetLogPage_postsTo (h : QueueOpen s t) (q : Sqe) (d : List Byte) : PostsTo s (execGetLogPage t q d s) := by
  refine adminRow_postsTo h _ _ _ fun u => ?_
  split
  · exact .refl u
  · split
    · exact .refl u
    · dsimp only
      split
      · exact complete_posts ..
      · split
        · exact complete_posts ..
        · split
          · exact complete_posts ..
          · exact (Posts.ite (.refl u) (modQcu_posts _ u)).trans (complete_posts ..)

theorem execGetFeatures_postsTo (h : QueueOpen s t) (q : Sqe) (d : List Byte) : PostsTo s (execGetFeatures t q d s) := by
  refine adminRow_postsTo h _ _ _ fun u => ?_
  dsimp only
  split
  · exact complete_posts ..
  · split
    · exact complete_posts ..
    · split <;> exact complete_posts ..

theorem execKeepAlive_postsTo (h : QueueOpen s t) (q : Sqe) (d : List Byte) : PostsTo s (execKeepAlive t q d s) :=
  adminRow_postsTo h _ _ _ fun u => (modCtrlOf_posts t _ u).trans (complete_posts ..)

theorem execAsynchronousEventRequest_postsTo (h : QueueOpen s t) (q : Sqe) (d : List Byte) : PostsTo s (execAsynchronousEventRequest t q d s) := by
  refine adminRow_postsTo h _ _ _ fun u => ?_
  split
  · exact .refl u
  · split
    · exact .refl u
    · split
      · exact .refl u
      · split
        · exact complete_posts ..
        · dsimp only
          split
          · exact modQcu_posts _ u
          · exact (modQcu_posts _ u).trans (postTo_posts ..)

theorem execAbort_postsTo (h : QueueOpen s t) (q : Sqe) (d : List Byte) : PostsTo s (execAbort t q d s) := by
  refine adminRow_postsTo h _ _ _ fun u => ?_
  dsimp only
  split
  · exact complete_posts ..
  · split
    · exact complete_posts ..
    · split
      · exact (modQcu_posts _ u).trans ((complete_posts ..).trans (complete_posts ..))
      · exact complete_posts ..

theorem execInvalidCommandOpcode_postsTo (h : QueueOpen s t) (q : Sqe) (d : List Byte) : PostsTo s (execInvalidCommandOpcode t q d s) := by
  have hnote := noteCmd_posts t 0xFF q s
  unfold execInvalidCommandOpcode
  rw [fetch_runs h]
  dsimp only
  split <;> exact ⟨_, rfl, hnote.trans (complete_posts ..)⟩

end

/-- Settles O19: each of the commands only posts. -/
theorem completionFrame : Obligations.CompletionFrame := by
  unfold Obligations.CompletionFrame
  intro s t q d i h hi
  have hposts : PostsTo s (exec i s) := by
    simp only [List.mem_cons, List.not_mem_nil, or_false] at hi
    obtain rfl | rfl | rfl | rfl | rfl | rfl | rfl := hi
    · exact execIdentify_postsTo h q d
    · exact execGetLogPage_postsTo h q d
    · exact execGetFeatures_postsTo h q d
    · exact execKeepAlive_postsTo h q d
    · exact execAsynchronousEventRequest_postsTo h q d
    · exact execAbort_postsTo h q d
    · exact execInvalidCommandOpcode_postsTo h q d
  obtain ⟨u, hu, hp⟩ := hposts
  obtain ⟨c, q, o, rfl⟩ := hp.only
  exact ⟨_, hu, rfl, rfl, rfl, rfl, rfl, rfl, rfl, rfl, rfl, rfl, rfl, rfl, rfl, rfl, rfl, rfl, rfl, rfl, rfl, rfl⟩

/-! ### Connect (R369, R375) -/

section
variable {s : State} {t : Tag} {q : Sqe} {d : List Byte} {x : Conn}

/-- What a Connect is judged by once its connection may become a queue. -/
structure ConnectGood (s : State) (t : Tag) (q : Sqe) (d : List Byte) (x : Conn) : Prop where
  conn : conn? s t.conn = some x
  ready : s.chip.stage = .ready
  ic : x.icDone = true
  fresh : x.queue = none
  length : q.sgl = 1024
  format : q.cdw10.toNat % 65536 = 0
  subsystem : slice (padTo 1024 d) 256 256 = padTo 256 (if x.disc then discNqn else subNqn)

theorem execConnect_good (h : ConnectGood s t q d x) : execConnect t q d s =
    if q.cdw10.toNat / 65536 = 0 then
      ok (connectAdmin t x (fld (padTo 1024 d) 16 2) (q.cdw11.toNat % 65536) (katoSeconds q.cdw12.toNat) (bit q.cdw11.toNat 18) s)
    else ok (connectIo t (fld (padTo 1024 d) 16 2) (q.cdw10.toNat / 65536) (q.cdw11.toNat % 65536) (bit q.cdw11.toNat 18) s) := by
  obtain ⟨hconn, hready, hic, hfresh, hlen, hfmt, hnqn⟩ := h
  have h1 : ¬ (s.chip.stage ≠ .ready ∧ (!s.msp.recovery) = true ∨ (!x.icDone) = true) := by simp [hready, hic]
  have h2 : ¬ x.queue.isSome = true := by simp [hfresh]
  have h3 : ¬ (cdw q 10 % 65536 ≠ 0) := fun hne => hne hfmt
  unfold execConnect
  rw [hconn]
  dsimp only
  rw [if_neg h1, if_neg h2, if_neg (not_not_intro hlen), if_neg h3, if_neg (not_not_intro hnqn)]
  rfl

/-- The lowest controller number that is free. -/
theorem find_lowest_free {p : Nat → Bool} {k n : Nat} (hk : k < n) (hp : p k = true) (hlow : ∀ j < k, p j = false) :
    (List.range n).find? p = some k := by
  rw [List.find?_range_eq_some]
  exact ⟨hp, List.mem_range.mpr hk, fun j hj => by simp [hlow j hj]⟩

theorem connectAdmin_lowest {cn size kato k : Nat} {noFlow : Bool} (hready : s.chip.stage = .ready) (hcn : cn = 0xFFFF) (hlo : 1 ≤ size) (hhi : size ≤ 31)
    (hlen : s.qcu.ctrls.length < 256) (hk : k < 256) (hfree : smFind s.qcu.ctrls k = none) (hlow : ∀ j < k, smFind s.qcu.ctrls j ≠ none) :
    connectAdmin t x cn size kato noFlow s =
      makeQueue t k 0 size noFlow (modQcu (fun q => { q with ctrls := smSet q.ctrls k (Ctrl.fresh t.conn kato (now s) x.disc) }) s) := by
  have h1 : ¬ (cn ≠ 0xFFFF ∨ size = 0 ∨ 31 < size) := by omega
  have h2 : ¬ (256 ≤ s.qcu.ctrls.length ∨ (s.chip.stage ≠ .ready ∧ s.qcu.ctrls ≠ [])) := by simp [hready]; omega
  have hfind : ((List.range 256).find? fun k => (smFind s.qcu.ctrls k).isNone) = some k :=
    find_lowest_free hk (by simp [hfree]) fun j hj => by simpa [Option.isSome_iff_ne_none] using hlow j hj
  unfold connectAdmin
  rw [if_neg h1, if_neg h2, hfind]
  rfl

theorem connectIo_joins {cn qid size : Nat} {noFlow : Bool} {k : Ctrl} (hready : s.chip.stage = .ready) (hctrl : smFind s.qcu.ctrls cn = some k)
    (hdisc : k.discovery = false) (hen : k.cc % 2 = 1) (hqid : qid ≤ 1024) (hlo : 1 ≤ size) (hhi : size ≤ 4095) (hroom : ioQueues s < 1024)
    (hdup : ∀ e ∈ s.qcu.conns, ∀ n, e.2.queue ≠ some (cn, qid, n)) : connectIo t cn qid size noFlow s = makeQueue t cn qid size noFlow s := by
  have hnew : (s.qcu.conns.any fun e => (e.2.queue.map fun q => (q.1, q.2.1)) == some (cn, qid)) = false := by
    rw [List.any_eq_false]
    intro e he heq
    simp only [beq_iff_eq, Option.map_eq_some_iff, Prod.mk.injEq] at heq
    obtain ⟨⟨a, b, n⟩, hq, rfl, rfl⟩ := heq
    exact hdup e he n hq
  unfold connectIo
  rw [hctrl]
  dsimp only
  rw [hnew, if_neg (by simp [hready, hdisc]; omega), if_neg (Nat.not_le.mpr hroom)]

end

/-! ### Rows of an open queue -/

section
variable {s : State} {t : Tag} {q : Sqe} {c n : Nat} {k : Ctrl}

theorem fabricsRow_runs (h : QueueOpen s t) (hq : queueOf s t.conn = some (c, n)) {admin : Bool} (ha : admin = true → n = 0)
    (f : Nat → Nat → State → State) : fabricsRow t q admin f s = .next (f c n (noteCmd t 0x7F q s)) := by
  unfold fabricsRow
  rw [fetch_runs h]
  dsimp only
  rw [queueOf_noteCmd, hq]
  exact if_neg fun ⟨hadm, hne⟩ => hne (ha hadm)

theorem AdminOpen.fabrics (h : AdminOpen s t c k) (q : Sqe) (f : Nat → Nat → State → State) :
    fabricsRow t q true f s = .next (f c 0 (noteCmd t 0x7F q s)) := fabricsRow_runs h.toQueueOpen h.here (fun _ => rfl) f

/-- The controller's record as the command finds it. -/
theorem AdminOpen.noted (h : AdminOpen s t c k) (op : Nat) (q : Sqe) : smFind (noteCmd t op q s).qcu.ctrls c = some k := by
  rw [noteCmd_ctrls]
  exact h.ctrl

theorem AdminOpen.queue_noted (h : AdminOpen s t c k) (op : Nat) (q : Sqe) : queueOf (noteCmd t op q s) t.conn = some (c, 0) := by
  rw [queueOf_noteCmd]
  exact h.here

theorem AdminOpen.onAdmin (h : AdminOpen s t c k) : onAdmin s t = true := by simp [Machine.onAdmin, h.here]

/-- A property that the controller has, read in its size. -/
theorem execPropertyGet_value (h : AdminOpen s t c k) (d : List Byte) {v m : Nat} (hp : property k q.cdw11.toNat = some (v, m))
    (hm : m = if q.cdw10.toNat % 8 = 1 then 8 else 4) :
    execPropertyGet t q d s = .next (complete .admin t stSuccess (v % 2 ^ 32) (v / 2 ^ 32) [] (noteCmd t 0x7F q s)) := by
  have hp' : ((smFind (noteCmd t 0x7F q s).qcu.ctrls c).bind fun k => property k (cdw q 11)) = some (v, m) := by rw [h.noted]; exact hp
  unfold execPropertyGet
  rw [h.fabrics]
  rw [hp']
  exact congrArg _ (if_neg (not_not_intro hm))

theorem execPropertySet_eq (h : AdminOpen s t c k) (d : List Byte) :
    execPropertySet t q d s = .next (propSet t c q.cdw11.toNat q.cdw12.toNat (noteCmd t 0x7F q s)) := h.fabrics q _

theorem execNssrDeviceReset_eq (h : AdminOpen s t c k) (d : List Byte) :
    execNssrDeviceReset t q d s = .next (propSet t c 0x20 0x4E564D65 (noteCmd t 0x7F q s)) := h.fabrics q _

/-- The NSSR property: its key starts a device reset once the command has completed (R479). -/
theorem propSet_nssr (t : Tag) (c v : Nat) (u : State) : propSet t c 0x20 v u =
    if v = 0x4E564D65 then deviceReset 2 (complete .admin t stSuccess 0 0 [] u) else complete .admin t stSuccess 0 0 [] u := rfl

theorem writeCc_eq {u : State} (hc : smFind u.qcu.ctrls c = some k) (w : Nat) :
    writeCc c w u =
      let a := if k.cc % 2 = 1 ∧ w % 2 = 0 then disableCtrl c u else u
      let b := modQcu (fun y => { y with ctrls := smMod y.ctrls c fun k => { k with cc := w } }) a
      if bits w 15 14 = 1 ∨ bits w 15 14 = 2 then
        modQcu (fun y => { y with ctrls := smMod y.ctrls c fun k => { k with shst := 2 } }) (admitWrites (drainClean b))
      else b := by
  unfold writeCc
  rw [hc]
  rfl

theorem execShutdownNotification_notifies (h : AdminOpen s t c k) (d : List Byte) (hv : bits q.cdw12.toNat 15 14 = 1 ∨ bits q.cdw12.toNat 15 14 = 2) :
    execShutdownNotification t q d s = .next (complete .admin t stSuccess 0 0 [] (writeCc c q.cdw12.toNat (noteCmd t 0x7F q s))) := by
  have hv' : bits (cdw q 12) 15 14 = 1 ∨ bits (cdw q 12) 15 14 = 2 := hv
  unfold execShutdownNotification
  dsimp only
  rw [h.fabrics, if_pos hv']
  rfl

end

/-- Settles O42: Connect by `execConnect_good`, the others by the row of an open queue. -/
theorem fabricsCommandResult : Obligations.FabricsCommandResult := by
  unfold Obligations.FabricsCommandResult
  refine ⟨fun s t q d x hconn hready hic hfresh hlen hfmt hnqn => ?connect, fun s t q d c n h hq hn hfmt => ?disconnect,
    fun s t q d c k h => ?properties⟩
  case connect =>
    have hex := execConnect_good ⟨hconn, hready, hic, hfresh, hlen, hfmt, hnqn⟩
    intro qid size cn queue
    refine ⟨fun h0 hcn hlo hhi k hroom hk hfree hlow => ?_, fun k hpos hqid hctrl hdisc hen hlo hhi hroom hdup => ?_⟩
    · refine (hex.trans (if_pos h0)).trans ?_
      rw [connectAdmin_lowest hready hcn hlo hhi hroom hk hfree hlow]
      have hq : qid = 0 := h0
      simp only [queue, hq]
      rfl
    · refine (hex.trans (if_neg (Nat.ne_of_gt hpos))).trans ?_
      rw [connectIo_joins hready hctrl hdisc hen hqid hlo hhi hroom hdup]
      rfl
  case disconnect =>
    refine (fabricsRow_runs h hq (fun hf => absurd hf Bool.false_ne_true) _).trans (congrArg _ ?_)
    have hfmt' : ¬ cdw q 10 % 65536 ≠ 0 := not_not_intro hfmt
    rw [if_neg hfmt', if_neg hn]
  case properties =>
    intro u
    refine ⟨fun v m hp hm => execPropertyGet_value h d hp hm, fun h14 => ?_, fun h20 hkey => ?_, fun h20 hkey => ?_, ?_,
      fun w => writeCc_eq (h.noted 0x7F q) w, fun hv => execShutdownNotification_notifies h d hv⟩
    · refine (execPropertySet_eq h d).trans ?_
      rw [h14]
      rfl
    · refine (execPropertySet_eq h d).trans ?_
      rw [h20, hkey]
      rfl
    · refine (execPropertySet_eq h d).trans (congrArg _ ?_)
      have hne : q.cdw12.toNat ≠ 0x4E564D65 := fun he => hkey (BitVec.eq_of_toNat_eq he)
      rw [h20]
      exact (propSet_nssr t c _ _).trans (if_neg hne)
    · exact execNssrDeviceReset_eq h d

end Sys2Proof.Machine
end

section
/-! PROOFS. Identify, logs, features, events, Keep Alive, Abort and unknown opcodes on an open admin queue (O43). -/
namespace Sys2Proof.Machine
open Sys2Proof

/-! ### Where an admin command lands -/

section
variable {s : State} {t : Tag} {q : Sqe} {c : Nat} {k : Ctrl}

theorem smMod_id {α : Type} (m : SMap α) (i : Nat) : (smMod m i fun x => x) = m := by
  unfold smMod
  rw [List.map_congr_left (g := id) fun e _ => ite_self e, List.map_id]

theorem lifecycle_noteCmd (t : Tag) (op : Nat) (q : Sqe) (s : State) : lifecycle (noteCmd t op q s) = lifecycle s := by
  obtain ⟨m, hm⟩ := noteCmd_eq t op q s
  rw [hm]
  rfl

theorem now_noteCmd (t : Tag) (op : Nat) (q : Sqe) (s : State) : now (noteCmd t op q s) = now s := by
  obtain ⟨m, hm⟩ := noteCmd_eq t op q s
  rw [hm]
  rfl

theorem transition_noteCmd (t : Tag) (op : Nat) (q : Sqe) (s : State) : (noteCmd t op q s).qcu.ps = s.qcu.ps := by
  obtain ⟨m, hm⟩ := noteCmd_eq t op q s
  rw [hm]
  rfl

theorem execIdentify_data (h : AdminOpen s t c k) (hlen : q.sgl ≤ 0x400000) (d : List Byte) {b : List Byte} (hs : q.sgl = 4096)
    (hb : identify (noteCmd t 0x06 q s) c (q.cdw10.toNat % 256) q.nsid.toNat (q.cdw10.toNat / 65536) = .ok b) :
    execIdentify t q d s = .next (complete .admin t stSuccess 0 0 b (noteCmd t 0x06 q s)) := by
  have hb' : identify (noteCmd t 0x06 q s) c (cdw q 10 % 256) (cdw q 1) (cdw q 10 / 65536) = .ok b := hb
  unfold execIdentify
  rw [adminRow_runs h.toQueueOpen hlen, h.queue_noted]
  dsimp only
  rw [if_neg (not_not_intro hs), hb']

theorem execGetLogPage_page (h : AdminOpen s t c k) (hlen : q.sgl ≤ 0x400000) (d : List Byte) {b : List Byte} {len off : Nat}
    (hlenq : len = 4 * (cdw q 10 / 65536 + 65536 * (cdw q 11 % 65536) + 1)) (hoffq : off = cdw q 12 + 2 ^ 32 * cdw q 13)
    (hb : logPage (noteCmd t 0x02 q s) k (cdw q 10 % 256) = some b) (hoff : off % 4 = 0) (hs : q.sgl = len) :
    execGetLogPage t q d s = .next (complete .admin t stSuccess 0 0 (padTo len (slice b off (min len (b.length - off))))
      (if bit (cdw q 10) 15 then noteCmd t 0x02 q s else modQcu (fun x => { x with ctrls := smMod x.ctrls c fun k => { k with
        masked := k.masked.filter fun e => e.log != cdw q 10 % 256, changed := if cdw q 10 % 256 = 0x04 then [] else k.changed } }) (noteCmd t 0x02 q s))) := by
  unfold execGetLogPage
  rw [adminRow_runs h.toQueueOpen hlen, h.queue_noted]
  dsimp only
  rw [h.noted]
  dsimp only
  rw [hb]
  dsimp only
  rw [← hlenq, ← hoffq, if_neg (not_not_intro hoff), if_neg (not_not_intro hs)]

theorem execSetFeaturesPowerManagement_begins (h : AdminOpen s t c k) (d : List Byte) (hps : cdw q 11 % 32 ≤ 4) (hsave : bit (cdw q 10) 31 = false) :
    execSetFeaturesPowerManagement t q d s = .next (psBegin (some t) (cdw q 11 % 32) (noteCmd t 0x09 q s)) := by
  have hadm : onAdmin (noteCmd t 0x09 q s) t = true := by rw [onAdmin_noteCmd, h.onAdmin]
  have hwell : fatalStop (noteCmd t 0x09 q s) = false := by rw [fatalStop_noteCmd, h.well]
  have hstill : (noteCmd t 0x09 q s).qcu.ps.trans = none := by rw [transition_noteCmd, h.still]
  unfold execSetFeaturesPowerManagement
  rw [fetch_runs h.toQueueOpen]
  dsimp only
  rw [hadm, hwell, if_neg (by decide), if_neg (by decide), if_neg (Nat.not_lt.mpr hps), hsave, if_neg (by decide), hstill]
  rfl

theorem execSetFeatures_plain (h : AdminOpen s t c k) (hlen : q.sgl ≤ 0x400000) (d : List Byte) (hsave : bit (cdw q 10) 31 = false)
    (hfid : cdw q 10 % 256 ∈ plainFeats) :
    execSetFeatures t q d s = .next (complete .admin t stSuccess 0 0 []
      (modCtrlOf t (fun k => { k with feats := smSet k.feats (cdw q 10 % 256) (cdw q 11) }) (noteCmd t 0x09 q s))) := by
  have hplain : plainFeats.contains (cdw q 10 % 256) = true := List.contains_iff_mem.mpr hfid
  have hno : cdw q 10 % 256 ≠ 0x07 ∧ cdw q 10 % 256 ≠ 0x0B ∧ cdw q 10 % 256 ≠ 0x0F := by
    simp only [plainFeats, List.mem_cons, List.not_mem_nil, or_false] at hfid
    omega
  unfold execSetFeatures
  rw [adminRow_runs h.toQueueOpen hlen]
  dsimp only
  rw [hsave, if_neg (by decide), if_neg hno.1, if_neg hno.2.1, if_neg hno.2.2, hplain, if_pos rfl]

theorem execGetFeatures_value (h : AdminOpen s t c k) (hlen : q.sgl ≤ 0x400000) (d : List Byte) {v : Nat} (hsel : bits (cdw q 10) 10 8 < 3)
    (hv : featValue (noteCmd t 0x0A q s) k (cdw q 10 % 256) (bits (cdw q 10) 10 8 == 1 || bits (cdw q 10) 10 8 == 2) = some v) :
    execGetFeatures t q d s = .next (complete .admin t stSuccess v 0 [] (noteCmd t 0x0A q s)) := by
  unfold execGetFeatures
  rw [adminRow_runs h.toQueueOpen hlen]
  dsimp only
  rw [h.queue_noted, Option.bind_some, h.noted, Option.bind_some, hv]
  dsimp only
  rw [if_neg (Nat.ne_of_lt hsel), if_neg (Nat.lt_asymm hsel)]

/-- An event request, held or answered: what comes of it is decided by the controller's record. -/
theorem execAsynchronousEventRequest_eq (h : AdminOpen s t c k) (hlen : q.sgl ≤ 0x400000) (d : List Byte) (hnew : k.aerCids.contains t.cid = false) :
    execAsynchronousEventRequest t q d s = .next (
      if 16 ≤ k.aerCids.length then complete .admin t stAerLimit 0 0 [] (noteCmd t 0x0C q s)
      else
        let v := modQcu (fun x => { x with ctrls := smMod x.ctrls c fun k => { k with aerCids := k.aerCids ++ [t.cid], held := k.held.drop 1 } }) (noteCmd t 0x0C q s)
        match k.held with
        | [] => v
        | e :: _ => postTo c e.type e.info e.log v) := by
  unfold execAsynchronousEventRequest
  rw [adminRow_runs h.toQueueOpen hlen, h.queue_noted]
  dsimp only
  rw [h.noted]
  dsimp only
  rw [hnew, if_neg (by decide)] <;> rfl

/-- An Abort that finds no such queue aborts nothing. -/
theorem execAbort_none (h : AdminOpen s t c k) (hlen : q.sgl ≤ 0x400000) (d : List Byte)
    (hno : connOf (noteCmd t 0x08 q s) c (cdw q 10 % 65536) = none) :
    execAbort t q d s = .next (complete .admin t stSuccess 1 0 [] (noteCmd t 0x08 q s)) := by
  unfold execAbort
  rw [adminRow_runs h.toQueueOpen hlen]
  dsimp only
  rw [h.queue_noted, Option.bind_some, hno]
  rfl

/-- An Abort of an I/O command that awaits data completes it as aborted. -/
theorem execAbort_awaiting (h : AdminOpen s t c k) (hlen : q.sgl ≤ 0x400000) (d : List Byte) {n : Nat} {x : Conn} {o : OutCmd}
    (hio : cdw q 10 % 65536 ≠ 0) (hn : connOf (noteCmd t 0x08 q s) c (cdw q 10 % 65536) = some n) (hx : conn? (noteCmd t 0x08 q s) n = some x)
    (ho : x.outst.find? (fun o => o.cid == cdw q 10 / 65536) = some o) (hneed : o.need ≠ 0) :
    execAbort t q d s = .next (complete .admin t stSuccess 0 0 []
      (complete .bcs ⟨n, cdw q 10 / 65536⟩ stAbortRequested 0 0 [] (noteCmd t 0x08 q s))) := by
  have hmod (v : State) : modQcu (fun x => { x with ctrls := smMod x.ctrls c fun k => k }) v = v := by
    simp only [modQcu, smMod_id]
    rfl
  unfold execAbort
  rw [adminRow_runs h.toQueueOpen hlen]
  dsimp only
  rw [h.queue_noted, Option.bind_some, hn, Option.map_some]
  dsimp only
  rw [hx, Option.bind_some, ho]
  dsimp only
  rw [if_pos (Or.inl hneed)]
  simp only [hio, false_and, if_false, hmod]

theorem execKeepAlive_restarts (h : AdminOpen s t c k) (hlen : q.sgl ≤ 0x400000) (d : List Byte) :
    execKeepAlive t q d s = .next (complete .admin t stSuccess 0 0 [] (modCtrlOf t (fun k => { k with kaStart := now s }) (noteCmd t 0x18 q s))) := by
  unfold execKeepAlive
  rw [adminRow_runs h.toQueueOpen hlen, now_noteCmd]

theorem execInvalidCommandOpcode_admin (h : AdminOpen s t c k) (d : List Byte) :
    execInvalidCommandOpcode t q d s = .next (complete .admin t stInvalidOpcode 0 0 [] (noteCmd t 0xFF q s)) := by
  have hadm : onAdmin (noteCmd t 0xFF q s) t = true := by rw [onAdmin_noteCmd, h.onAdmin]
  have hwell : fatalStop (noteCmd t 0xFF q s) = false := by rw [fatalStop_noteCmd, h.well]
  unfold execInvalidCommandOpcode
  rw [fetch_runs h.toQueueOpen]
  dsimp only
  rw [hwell, if_neg (by decide), hadm]
  rfl

end

/-- Settles O43: each command runs on the queue's state with the command noted. -/
theorem adminCommandResult : Obligations.AdminCommandResult := by
  unfold Obligations.AdminCommandResult
  refine fun s t q d c k h hlen => ⟨fun b hs hb => execIdentify_data h hlen d hs hb, fun b hb hoff hs => execGetLogPage_page h hlen d rfl rfl hb hoff hs,
    fun hps hsave => execSetFeaturesPowerManagement_begins h d hps hsave, adminRow_runs h.toQueueOpen hlen _ _ _,
    fun hsave hfid => execSetFeatures_plain h hlen d hsave hfid, fun v hsel hv => execGetFeatures_value h hlen d hsel hv, ?holds,
    fun hnew hfull => ?refused, execKeepAlive_restarts h hlen d, fun hno => ?nothing,
    fun n x o hio hn hx ho hneed => execAbort_awaiting h hlen d hio hn hx ho hneed, execInvalidCommandOpcode_admin h d⟩
  case holds =>
    intro hnew hroom
    have hex := execAsynchronousEventRequest_eq h hlen d hnew
    rw [if_neg (Nat.not_le.mpr hroom)] at hex
    refine ⟨fun hheld => hex.trans ?_, fun e l hheld => hex.trans ?_⟩ <;> rw [hheld]
  case refused =>
    have hex := execAsynchronousEventRequest_eq h hlen d hnew
    rw [if_pos hfull] at hex
    exact hex
  case nothing => exact execAbort_none h hlen d (Option.eq_none_iff_forall_ne_some.mpr hno)

end Sys2Proof.Machine
end

section
/-! PROOFS. Namespace management, attachment, Format, Sanitize and firmware commands (O44). -/
namespace Sys2Proof.Machine
open Sys2Proof

/-! ### Namespaces -/

section
variable {s : State} {t : Tag} {q : Sqe}

theorem ns?_noteCmd (t : Tag) (op : Nat) (q : Sqe) (s : State) (n : Nat) : ns? (noteCmd t op q s) n = ns? s n :=
  congrArg (fun f : FtlSt => smFind f.namespaces n) (noteCmd_ftl t op q s)

theorem busy_noteCmd (t : Tag) (op : Nat) (q : Sqe) (s : State) : (noteCmd t op q s).msp.busy = s.msp.busy := by rw [noteCmd_msp]

/-- A command that needs the management core, where that core is free. -/
theorem mspRow_runs (h : QueueOpen s t) (hlen : q.sgl ≤ 0x400000) (hbusy : s.msp.busy = false) (op : Nat) (f : State → State) :
    mspRow t op q f s = .next (f (noteCmd t op q s)) := by
  unfold mspRow
  rw [adminRow_runs h hlen, busy_noteCmd, hbusy]
  rfl

theorem execNamespaceManagement_create (h : QueueOpen s t) (hlen : q.sgl ≤ 0x400000) (d : List Byte) (hsel : cdw q 10 % 16 = 0) (hs : q.sgl = 4096)
    (hbusy : s.msp.busy = false) (hop : lifecycle s = .operational) :
    execNamespaceManagement t q d s = .next (createNs t (padTo 4096 d) (noteCmd t 0x0D q s)) := by
  unfold execNamespaceManagement
  rw [adminRow_runs h hlen]
  dsimp only
  rw [if_pos hsel, busy_noteCmd, hbusy, if_neg (by decide), if_neg (not_not_intro hs), lifecycle_noteCmd, if_neg (not_not_intro hop)]

/-- With a number free and the data good, a create is decided by the space there is. -/
theorem createNs_lowest {d : List Byte} {n : Nat} (hn : n < 256) (hfree : ns? s (n + 1) = none) (hlow : ∀ j < n, ns? s (j + 1) ≠ none)
    (hsize : 0 < fld d 0 8) (hthin : fld d 8 8 = fld d 0 8) (hlbaf : fld d 26 1 = 0) (hdps : fld d 29 1 = 0) :
    createNs t d s = match (if userUnits < allocUnits s + cdiv (fld d 0 8) 4 then none else freeBase (usedRanges s) 0 (cdiv (fld d 0 8) 4)) with
      | none => complete .admin t stNsCapacity 0x3007 0 [] s
      | some b => complete .admin t stSuccess (n + 1) 0 [] (modFtl (fun x => { x with
          namespaces := smSet x.namespaces (n + 1) { units := cdiv (fld d 0 8) 4, base := b, attached := [], key := x.nextKey }, nextKey := x.nextKey + 1 }) s) := by
  have hfind : ((List.range 256).find? fun k => (ns? s (k + 1)).isNone) = some n :=
    find_lowest_free hn (by simp [hfree]) fun j hj => by simpa [Option.isSome_iff_ne_none] using hlow j hj
  unfold createNs
  dsimp only
  rw [hfind]
  dsimp only
  rw [if_neg (Nat.ne_of_gt hsize), if_neg (not_not_intro hthin), if_neg (by simp [hlbaf, hdps])]
    <;> rfl

theorem createNs_allTaken {d : List Byte} (hall : ∀ n < 256, ns? s (n + 1) ≠ none) : createNs t d s = complete .admin t stNsIdUnavailable 0 0 [] s := by
  have hfind : ((List.range 256).find? fun k => (ns? s (k + 1)).isNone) = none := by
    rw [List.find?_eq_none]
    intro n hn
    simpa [Option.isSome_iff_ne_none] using hall n (List.mem_range.mp hn)
  unfold createNs
  dsimp only
  rw [hfind]

theorem deleteNs_eq {n : Nat} {x : Ns} (hx : ns? s n = some x) :
    deleteNs n s = nsNotice n x.attached (modFtl (fun f => { f with namespaces := smDel f.namespaces n }) (unmapRange x.base x.units s)) := by
  unfold deleteNs
  rw [hx]

theorem cryptoErase_eq {n : Nat} {x : Ns} (hx : ns? s n = some x) :
    cryptoErase n s = nsNotice n x.attached (modFtl (fun f => { f with
      namespaces := smMod f.namespaces n fun y => { y with key := f.nextKey }, nextKey := f.nextKey + 1 }) (unmapRange x.base x.units s)) := by
  unfold cryptoErase
  rw [hx]

theorem nsNamed_one {n : Nat} {x : Ns} (hall : n ≠ 0xFFFFFFFF) (hx : ns? s n = some x) : nsNamed s n = some [n] := by
  unfold nsNamed
  rw [if_neg hall, hx]
  rfl

theorem execNamespaceManagement_delete (h : QueueOpen s t) (hlen : q.sgl ≤ 0x400000) (d : List Byte) {x : Ns} (hsel : cdw q 10 % 16 = 1)
    (hall : cdw q 1 ≠ 0xFFFFFFFF) (hx : ns? s (cdw q 1) = some x) :
    execNamespaceManagement t q d s = .next (complete .admin t stSuccess 0 0 [] (deleteNs (cdw q 1) (noteCmd t 0x0D q s))) := by
  unfold execNamespaceManagement
  rw [adminRow_runs h hlen]
  dsimp only
  rw [if_neg (by omega), if_pos hsel, nsNamed_one hall (by rw [ns?_noteCmd, hx])]
  rfl

/-- Give a namespace an attachment list. -/
def setAttached (n : Nat) (a : List Nat) (s : State) : State :=
  modFtl (fun f => { f with namespaces := smMod f.namespaces n fun x => { x with attached := a } }) s

/-- With a good list of controllers, Namespace Attachment attaches or detaches by its selection. -/
theorem execNamespaceAttachment_listed (h : QueueOpen s t) (hlen : q.sgl ≤ 0x400000) (d : List Byte) {n : Ns} (hs : q.sgl = 4096)
    (hn : ns? s (cdw q 1) = some n) (hne : listCtrls (padTo 4096 d) ≠ []) (hknown : ∀ c ∈ listCtrls (padTo 4096 d), smFind s.qcu.ctrls c ≠ none) :
    let l := listCtrls (padTo 4096 d)
    let u := noteCmd t 0x15 q s
    execNamespaceAttachment t q d s = .next (
      if cdw q 10 % 16 = 0 then
        if l.any n.attached.contains then complete .admin t stNsAttached 0 0 [] u
        else complete .admin t stSuccess 0 0 [] (nsNotice (cdw q 1) l (setAttached (cdw q 1) (n.attached ++ l.eraseDups) u))
      else if cdw q 10 % 16 = 1 then
        if l.any fun c => !n.attached.contains c then complete .admin t stNsNotAttached 0 0 [] u
        else complete .admin t stSuccess 0 0 [] (nsNotice (cdw q 1) l (setAttached (cdw q 1) (n.attached.filter fun c => !l.contains c) u))
      else complete .admin t stInvalidField 0 0 [] u) := by
  have hgood : ¬ ((listCtrls (padTo 4096 d)).isEmpty = true ∨
      ((listCtrls (padTo 4096 d)).any fun c => (smFind (noteCmd t 0x15 q s).qcu.ctrls c).isNone) = true) := by
    rw [noteCmd_ctrls]
    simpa [hne, Option.isSome_iff_ne_none] using hknown
  dsimp only
  unfold execNamespaceAttachment
  rw [adminRow_runs h hlen]
  dsimp only
  rw [if_neg (not_not_intro hs), ns?_noteCmd, hn]
  dsimp only
  rw [if_neg hgood]
  rfl

theorem execFormatNvm_one (h : QueueOpen s t) (hlen : q.sgl ≤ 0x400000) (d : List Byte) {x : Ns} (hbusy : s.msp.busy = false)
    (hlbaf : cdw q 10 % 16 = 0) (hpi : bits (cdw q 10) 8 4 = 0) (hses : bits (cdw q 10) 11 9 ≤ 2) (hall : cdw q 1 ≠ 0xFFFFFFFF)
    (hx : ns? s (cdw q 1) = some x) :
    execFormatNvm t q d s = .next (complete .admin t stSuccess 0 0 [] (cryptoErase (cdw q 1) (noteCmd t 0x80 q s))) := by
  unfold execFormatNvm
  rw [mspRow_runs h hlen hbusy, if_neg (by simp [hlbaf, hpi]), if_neg (Nat.not_lt.mpr hses), nsNamed_one hall (by rw [ns?_noteCmd, hx])]
  rfl

theorem execSanitize_crypto (h : QueueOpen s t) (hlen : q.sgl ≤ 0x400000) (d : List Byte) (hbusy : s.msp.busy = false) (hact : cdw q 10 % 8 = 4) :
    execSanitize t q d s = .next (complete .admin t stSuccess 0 0 []
      ((s.ftl.namespaces.map Prod.fst).foldl (fun v n => cryptoErase n v) (noteCmd t 0x84 q s))) := by
  unfold execSanitize
  rw [mspRow_runs h hlen hbusy, if_neg (not_not_intro hact), noteCmd_ftl]

end

/-! ### Firmware -/

section
variable {s : State} {t : Tag} {q : Sqe}

theorem overlaps_iff (a n b m : Nat) : overlaps a n b m = true ↔ a < b + m ∧ b < a + n := by simp [overlaps]

theorem execFirmwareImageDownload_range (h : QueueOpen s t) (hlen : q.sgl ≤ 0x400000) (d : List Byte) (hbusy : s.msp.busy = false)
    {n off : Nat} (hn : n = 4 * (cdw q 10 + 1)) (hoff : off = 4 * cdw q 11) (hbad : n % 4096 ≠ 0 ∨ off % 4096 ≠ 0 ∨ 0x1000000 < off + n) :
    execFirmwareImageDownload t q d s = .next (complete .admin t stInvalidField 0 0 [] (noteCmd t 0x11 q s)) := by
  unfold execFirmwareImageDownload
  rw [adminRow_runs h hlen]
  dsimp only
  rw [← hn, ← hoff, busy_noteCmd, hbusy, if_neg (by simp), if_pos hbad]

/-- A download of whole aligned 4 KB pieces is staged unless it overlaps one that is. -/
theorem execFirmwareImageDownload_staged (h : QueueOpen s t) (hlen : q.sgl ≤ 0x400000) (d : List Byte) (hbusy : s.msp.busy = false)
    (hrec : s.msp.recovery = false) {n off : Nat} (hn : n = 4 * (cdw q 10 + 1)) (hoff : off = 4 * cdw q 11)
    (hna : n % 4096 = 0) (hoa : off % 4096 = 0) (hend : off + n ≤ 0x1000000) (hs : q.sgl = n) :
    execFirmwareImageDownload t q d s = .next (
      if s.msp.staged.any fun e => overlaps off n e.1 e.2.length then complete .admin t stOverlapping 0 0 [] (noteCmd t 0x11 q s)
      else complete .admin t stSuccess 0 0 []
        (modMsp (fun m => { m with staged := m.staged ++ [(off, padTo n (d.take n))] }) (noteCmd t 0x11 q s))) := by
  unfold execFirmwareImageDownload
  rw [adminRow_runs h hlen]
  dsimp only
  rw [← hn, ← hoff, noteCmd_msp, hbusy, hrec, if_neg (by simp), if_neg (by omega), if_neg (not_not_intro hs)]
  rfl

/-- A commit to a good slot, with no update begun, is decided by the check of the image staged. -/
theorem execFirmwareCommit_checked (h : QueueOpen s t) (hlen : q.sgl ≤ 0x400000) (d : List Byte) (hbusy : s.msp.busy = false)
    (hrec : s.msp.recovery = false) (hact : bits (cdw q 10) 5 3 = 3) (hslot : bits (cdw q 10) 2 0 ≤ 1) (hidle : s.msp.update = none) :
    execFirmwareCommit t q d s = .next (match imageCheck (noteCmd t 0x10 q s) (stagedRun (s.msp.staged.foldr insStage []) 0) with
      | .error _ => complete .admin t stFwImage 0 0 [] (modMsp (fun m => { m with staged := [] }) (noteCmd t 0x10 q s))
      | .ok _ => beginUpdate t (stagedRun (s.msp.staged.foldr insStage []) 0) (noteCmd t 0x10 q s)) := by
  unfold execFirmwareCommit
  rw [adminRow_runs h hlen]
  dsimp only
  rw [noteCmd_msp, hbusy, hrec, hidle, if_neg (by simp), if_neg (not_not_intro hact), if_neg (Nat.not_lt.mpr hslot), if_neg (by simp), if_neg (by simp)]
    <;> cases imageCheck (noteCmd t 0x10 q s) (stagedRun (s.msp.staged.foldr insStage []) 0) <;> rfl

end

/-- The staged ranges stand clear of the one that comes. -/
theorem any_overlaps_false {l : List (Nat × List Byte)} {off n : Nat} (hclear : ∀ e ∈ l, off + n ≤ e.1 ∨ e.1 + e.2.length ≤ off) :
    (l.any fun e => overlaps off n e.1 e.2.length) = false := by
  rw [List.any_eq_false]
  intro e he hov
  have hsep := hclear e he
  rw [overlaps_iff] at hov
  omega

/-- Settles O44: each command runs on the queue's state with the command noted. -/
theorem namespaceFirmwareResult : Obligations.NamespaceFirmwareResult := by
  unfold Obligations.NamespaceFirmwareResult
  refine ⟨fun s t q d c k h hlen => ?namespaces, fun s t q d c k h hlen hbusy hrec => ?firmware⟩
  case namespaces =>
    have hq := h.toQueueOpen
    refine ⟨fun hsel hs hbusy hop n hn hfree hlow hsize hthin hlbaf hdps => ?create, fun hsel hs hbusy hop hall => ?taken,
      fun x hsel hall hx => ?delete, fun n hs hn hne hknown => ?attach, fun x hbusy hlbaf hpi hses hall hx => ?format, fun hbusy hact => ?sanitize⟩
    case create =>
      have hex := execNamespaceManagement_create hq hlen d hsel hs hbusy hop
      rw [createNs_lowest hn (by rw [ns?_noteCmd, hfree]) (fun j hj => by rw [ns?_noteCmd]; exact hlow j hj) hsize hthin hlbaf hdps] at hex
      refine ⟨fun b hroom hb => hex.trans ?_, fun hfull => hex.trans ?_⟩
      · have hroom' : ¬ userUnits < allocUnits (noteCmd t 0x0D q s) + cdiv (fld (padTo 4096 d) 0 8) 4 := Nat.not_lt.mpr hroom
        have hb' : freeBase (usedRanges (noteCmd t 0x0D q s)) 0 (cdiv (fld (padTo 4096 d) 0 8) 4) = some b := hb
        rw [if_neg hroom', hb']
        rfl
      · have hfull' : userUnits < allocUnits (noteCmd t 0x0D q s) + cdiv (fld (padTo 4096 d) 0 8) 4 := hfull
        rw [if_pos hfull']
        rfl
    case taken =>
      refine (execNamespaceManagement_create hq hlen d hsel hs hbusy hop).trans ?_
      rw [createNs_allTaken fun n hn => by rw [ns?_noteCmd]; exact hall n hn]
      rfl
    case delete =>
      refine (execNamespaceManagement_delete hq hlen d hsel hall hx).trans ?_
      rw [deleteNs_eq (by rw [ns?_noteCmd]; exact hx)]
      rfl
    case attach =>
      have hex := execNamespaceAttachment_listed hq hlen d hs hn hne hknown
      refine ⟨fun hsel hnew => hex.trans ?_, fun hsel hold => hex.trans ?_⟩
      · have hnone : ¬ (listCtrls (padTo 4096 d)).any n.attached.contains = true := by simpa using hnew
        have hsel' : cdw q 10 % 16 = 0 := hsel
        rw [if_pos hsel', if_neg hnone]
        rfl
      · have hsel' : cdw q 10 % 16 = 1 := hsel
        have hnone : ¬ ((listCtrls (padTo 4096 d)).any fun c => !n.attached.contains c) = true := by simpa using hold
        rw [if_neg (by omega), if_pos hsel', if_neg hnone]
        rfl
    case format =>
      refine (execFormatNvm_one hq hlen d hbusy hlbaf hpi hses hall hx).trans ?_
      rw [cryptoErase_eq (by rw [ns?_noteCmd]; exact hx)]
      rfl
    case sanitize => exact execSanitize_crypto hq hlen d hbusy hact
  case firmware =>
    have hq := h.toQueueOpen
    refine ⟨fun hna hoa hend hs => ?staged, fun hbad => execFirmwareImageDownload_range hq hlen d hbusy rfl rfl hbad, fun hact hslot hidle => ?commit⟩
    case staged =>
      have hex := execFirmwareImageDownload_staged hq hlen d hbusy hrec rfl rfl hna hoa hend hs
      refine ⟨fun hclear => hex.trans ?_, fun ⟨e, he, hov⟩ => hex.trans ?_⟩
      · have hnone := Bool.eq_false_iff.mp (any_overlaps_false hclear)
        simp only [cdw, hnone]
        rfl
      · rw [if_pos (List.any_eq_true.mpr ⟨e, he, (overlaps_iff ..).mpr hov⟩)]
        rfl
    case commit =>
      have hex := execFirmwareCommit_checked hq hlen d hbusy hrec hact hslot hidle
      refine ⟨fun f hf => hex.trans ?_, fun e he => hex.trans ?_⟩
      · have hf' : imageCheck (noteCmd t 0x10 q s) (stagedRun (s.msp.staged.foldr insStage []) 0) = .ok f := hf
        rw [hf']
        rfl
      · have he' : imageCheck (noteCmd t 0x10 q s) (stagedRun (s.msp.staged.foldr insStage []) 0) = .error e := he
        rw [he']
        rfl

end Sys2Proof.Machine
end

section
/-! PROOFS. Read, Write, Verify, Write Zeroes, Dataset Management and Flush (O41). -/
namespace Sys2Proof.Machine
open Sys2Proof

section
variable {s : State} {t : Tag} {q : Sqe} {n : Ns}

theorem nvmNs_noteCmd (t : Tag) (op : Nat) (q : Sqe) (s : State) : nvmNs t q (noteCmd t op q s) = nvmNs t q s := by
  unfold nvmNs
  rw [queueOf_noteCmd, ns?_noteCmd]

theorem ns?_of_nvmNs (h : nvmNs t q s = some n) : ns? s q.nsid.toNat = some n := by
  unfold nvmNs at h
  split at h
  next c m x hc hx =>
    split at h
    · rw [hx, h]
    · cases h
  next => cases h

/-- A command on its namespace, of an open queue of an OPERATIONAL module. -/
theorem onNs_runs (h : QueueOpen s t) (hop : lifecycle s = .operational) (hn : nvmNs t q s = some n) (op : Nat) (f : Ns → State → State) :
    nvmRow t op q (fun s => onNs t q f s) s = .next (f n (noteCmd t op q s)) := by
  rw [nvmRow_runs h hop]
  unfold onNs
  rw [nvmNs_noteCmd, hn]

theorem nvmBad_none {need : Nat} {limit : Bool} (hlimit : limit = true → nlb q ≤ 1024) (hrange : slba q + nlb q ≤ n.blocks) (hs : q.sgl = need) :
    nvmBad n q need limit = none := by
  have h1 : ¬ ((limit : Prop) ∧ maxData < nlb q * 4096) := fun ⟨hl, hmax⟩ => by
    have := hlimit hl
    simp only [maxData] at hmax
    omega
  unfold nvmBad
  rw [if_neg h1, if_neg (Nat.not_lt.mpr hrange), if_neg (not_not_intro hs)]

/-! ### Admission of one write -/

/-- The waiting commands take no part in the admission of one. -/
theorem admission_waiting (w : WaitWrite) (l : List WaitWrite) (s : State) :
    admission w (modFtl (fun x => { x with waiting := l }) s) = admission w s := rfl

theorem askWrite_readOnly {w : WaitWrite} (hop : w.op < 0x80) (hro : s.ftl.readOnly = true) :
    askWrite w s = complete .nvm w.tag stWriteProtected cWRITE_PROTECT_WORN 0 [] s := by
  unfold askWrite
  rw [if_pos hro]
  exact if_neg (Nat.not_le.mpr hop)

theorem admitAll_go {w : WaitWrite} {ws : List WaitWrite} {c fuel : Nat} (hwait : s.ftl.waiting = w :: ws) (hgo : admission w s = .go c) :
    admitAll (fuel + 1) s = admitAll fuel (doWrite w (countHeld w (modFtl (fun x => { x with waiting := ws, credit := x.credit - c }) s))) := by
  rw [admitAll, hwait]
  dsimp only
  rw [hgo]

theorem countHeld_fresh {w : WaitWrite} (hheld : w.held = false) (s : State) : countHeld w s = s := if_neg (by simp [hheld])

/-- With none waiting, a write that is given credit is carried out. -/
theorem askWrite_go {w : WaitWrite} {c : Nat} (hwait : s.ftl.waiting = []) (hro : s.ftl.readOnly = false) (hheld : w.held = false)
    (hgo : admission w s = .go c) :
    askWrite w s = doWrite w (modFtl (fun x => { x with waiting := [], credit := x.credit - c }) s) := by
  have hw : { w with held := false } = w := by rw [← hheld]
  have hqueue : askWrite w s = admitWrites (modFtl (fun x => { x with waiting := [w] }) s) := by
    unfold askWrite
    rw [if_neg (by simp [hro]), hwait]
    dsimp only [List.isEmpty_nil]
    rw [if_pos rfl, if_pos rfl, hgo]
    dsimp only
    rw [hw]
    simp only [modFtl, hwait, List.nil_append]
  have hgo' : admission w (modFtl (fun x => { x with waiting := [w] }) s) = .go c := by rw [admission_waiting, hgo]
  rw [hqueue]
  exact (admitAll_go (fuel := 0) rfl hgo').trans (by rw [countHeld_fresh hheld]; rfl)

/-- An admitted block write that is carried out, without write-through, completes. -/
theorem doWrite_completes {w : WaitWrite} {v : State} (hop : w.op < 0x80) (hn : ns? s w.sqe.nsid.toNat = some n)
    (hv : applyWrite n w s = (none, v)) (hwt : v.pwr.writeThrough = false) : doWrite w s = complete .nvm w.tag stSuccess 0 0 [] v := by
  unfold doWrite
  rw [if_neg (by omega), if_neg (by omega), hn]
  dsimp only
  rw [hv]
  dsimp only
  rw [hwt]
  rfl

/-- The two outcomes of a block write that a queue's command asks for: carried out where it is given credit, refused on worn media. -/
theorem askWrite_mteBusy {w : WaitWrite} {u : State} (hop : w.op < 0x80) (hheld : w.held = false) (hn : ns? u w.sqe.nsid.toNat = some n) :
    (∀ c v, u.ftl.waiting = [] → u.ftl.readOnly = false → admission w (mteBusy u) = .go c →
      applyWrite n w (modFtl (fun x => { x with waiting := [], credit := x.credit - c }) (mteBusy u)) = (none, v) → v.pwr.writeThrough = false →
      askWrite w (mteBusy u) = complete .nvm w.tag stSuccess 0 0 [] v) ∧
    (u.ftl.readOnly = true → askWrite w (mteBusy u) = complete .nvm w.tag stWriteProtected cWRITE_PROTECT_WORN 0 [] (mteBusy u)) :=
  ⟨fun _c _v hwait hro hgo hv hwt =>
    (askWrite_go (s := mteBusy u) hwait hro hheld hgo).trans (doWrite_completes hop hn hv hwt),
   fun hro => askWrite_readOnly (s := mteBusy u) hop hro⟩

/-! ### The commands -/

theorem execNvmRead_eq (h : QueueOpen s t) (hop : lifecycle s = .operational) (hn : nvmNs t q s = some n) (d : List Byte)
    (hblocks : nlb q ≤ 1024) (hrange : slba q + nlb q ≤ n.blocks) (hs : q.sgl = nlb q * 4096) :
    (∀ b v, nsRead n (slba q * 4096) (nlb q * 4096) (mteBusy (noteCmd t 0x02 q s)) = (.ok b, v) →
      execNvmRead t q d s = .next (complete .nvm t stSuccess 0 0 b v)) ∧
    (∀ e v, nsRead n (slba q * 4096) (nlb q * 4096) (mteBusy (noteCmd t 0x02 q s)) = (.error e, v) →
      execNvmRead t q d s = .next (complete .nvm t stUnrecoveredRead 0 0 [] v)) := by
  unfold execNvmRead
  rw [onNs_runs h hop hn, nvmBad_none (fun _ => hblocks) hrange hs]
  exact ⟨fun b v hv => by rw [hv], fun e v hv => by rw [hv]⟩

theorem execNvmVerify_eq (h : QueueOpen s t) (hop : lifecycle s = .operational) (hn : nvmNs t q s = some n) (d : List Byte)
    (hrange : slba q + nlb q ≤ n.blocks) (hs : q.sgl = 0) {b : List Byte} {v : State}
    (hv : nsRead n (slba q * 4096) (nlb q * 4096) (mteBusy (noteCmd t 0x0C q s)) = (.ok b, v)) :
    execNvmVerify t q d s = .next (complete .nvm t stSuccess 0 0 [] v) := by
  unfold execNvmVerify
  rw [onNs_runs h hop hn, nvmBad_none (fun hf => absurd hf Bool.false_ne_true) hrange hs]
  dsimp only
  rw [hv]

theorem execNvmWrite_asks (h : QueueOpen s t) (hop : lifecycle s = .operational) (hn : nvmNs t q s = some n) (d : List Byte)
    (hblocks : nlb q ≤ 1024) (hrange : slba q + nlb q ≤ n.blocks) (hs : q.sgl = nlb q * 4096) :
    let u := noteCmd t 0x01 q s
    execNvmWrite t q d s = .next (askWrite { tag := t, op := 0x01, sqe := q, data := d, since := now u, held := false } (mteBusy u)) := by
  dsimp only
  unfold execNvmWrite
  rw [onNs_runs h hop hn, nvmBad_none (fun _ => hblocks) hrange hs]

theorem execWriteZeroes_asks (h : QueueOpen s t) (hop : lifecycle s = .operational) (hn : nvmNs t q s = some n) (d : List Byte)
    (hrange : slba q + nlb q ≤ n.blocks) (hs : q.sgl = 0) :
    let u := noteCmd t 0x08 q s
    execWriteZeroes t q d s = .next (askWrite { tag := t, op := 0x08, sqe := q, data := [], since := now u, held := false } (mteBusy u)) := by
  dsimp only
  unfold execWriteZeroes
  rw [onNs_runs h hop hn, nvmBad_none (fun hf => absurd hf Bool.false_ne_true) hrange hs]

/-- With good ranges, Dataset Management writes where it deallocates and only completes where it does not. -/
theorem execDatasetManagement_eq (h : QueueOpen s t) (hop : lifecycle s = .operational) (hn : nvmNs t q s = some n) (d : List Byte)
    (hs : q.sgl = 16 * (q.cdw10.toNat % 256 + 1)) (hranges : ∀ r ∈ dsmRanges q d, r.1 + r.2 ≤ n.blocks) :
    let u := noteCmd t 0x09 q s
    execDatasetManagement t q d s = .next (
      if (!bit q.cdw11.toNat 2) = true then complete .nvm t stSuccess 0 0 [] u
      else askWrite { tag := t, op := 0x09, sqe := q, data := d, since := now u, held := false } (mteBusy u)) := by
  have hin : ¬ ((dsmRanges q d).any fun r => n.blocks < r.1 + r.2) = true := by simpa using hranges
  dsimp only
  unfold execDatasetManagement
  rw [onNs_runs h hop hn, if_neg (not_not_intro hs), if_neg hin]

theorem execFlush_completes (h : QueueOpen s t) (hop : lifecycle s = .operational) (hn : nvmNs t q s = some n) (d : List Byte) :
    execFlush t q d s = .next (complete .nvm t stSuccess 0 0 [] (noteCmd t 0x00 q s)) := by
  unfold execFlush
  rw [nvmRow_runs h hop]
  unfold onNs
  rw [nvmNs_noteCmd, hn]
  exact congrArg _ (ite_self _)

end

/-- Settles O41: reads by `nsRead` on the namespace, writes by their admission. -/
theorem nvmCommandResult : Obligations.NvmCommandResult := by
  unfold Obligations.NvmCommandResult
  intro s t q d n h hop hn off blocks inRange busy wrote
  have asked {op : Nat} {b : List Byte} {o : Res} (hopc : op < 0x80)
      (ho : o = .next (askWrite { tag := t, op := op, sqe := q, data := b, since := now (noteCmd t op q s), held := false } (busy op))) :
      wrote op b o := by
    have hns : ns? (noteCmd t op q s) q.nsid.toNat = some n := by rw [ns?_noteCmd, ns?_of_nvmNs hn]
    obtain ⟨hgo, hworn⟩ := askWrite_mteBusy (w := { tag := t, op := op, sqe := q, data := b, since := now (noteCmd t op q s), held := false }) hopc rfl hns
    rw [noteCmd_ftl] at hgo hworn
    exact ⟨fun c v hwait hro hadm hv hwt => ho.trans (congrArg _ (hgo c v hwait hro hadm hv hwt)), fun hro => ho.trans (congrArg _ (hworn hro))⟩
  refine ⟨fun hblocks hrange hs => ?data, fun hrange hs => ?plain, fun hs hranges => ?dsm, execFlush_completes h hop hn d⟩
  case data =>
    obtain ⟨hok, herr⟩ := execNvmRead_eq h hop hn d hblocks hrange hs
    exact ⟨hok, herr, asked (by decide) (execNvmWrite_asks h hop hn d hblocks hrange hs)⟩
  case plain =>
    exact ⟨fun b v hv => execNvmVerify_eq h hop hn d hrange hs hv, asked (by decide) (execWriteZeroes_asks h hop hn d hrange hs)⟩
  case dsm =>
    have hex := execDatasetManagement_eq h hop hn d hs hranges
    refine ⟨fun hbit => asked (by decide) (hex.trans ?_), fun hbit => hex.trans ?_⟩ <;> rw [hbit] <;> rfl

end Sys2Proof.Machine
end

section
/-! PROOFS. Register Window commands and sideband requests (O40). -/
namespace Sys2Proof.Machine
open Sys2Proof

section
variable {s : State} {t : Tag} {q : Sqe}

theorem cdw_10 (q : Sqe) : cdw q 10 = q.cdw10.toNat := rfl
theorem cdw_12 (q : Sqe) : cdw q 12 = q.cdw12.toNat := rfl
theorem cdw_13 (q : Sqe) : cdw q 13 = q.cdw13.toNat := rfl
theorem cdw_14 (q : Sqe) : cdw q 14 = q.cdw14.toNat := rfl

/-- The dwords in which a command's fields lie. -/
theorem mem_cdwAll {n : Nat} : n ∈ cdwAll ↔ n = 1 ∨ n = 2 ∨ n = 3 ∨ n = 10 ∨ n = 11 ∨ n = 12 ∨ n = 13 ∨ n = 14 ∨ n = 15 := by
  simp only [cdwAll, List.mem_cons, List.not_mem_nil, or_false]

/-- Every dword is within the bits its fields use: no parameter is bad. -/
theorem badCdw_none {w : List (Nat × Nat)} {range : Nat → Bool} (h : ∀ n ∈ cdwAll, cdw q n < 2 ^ usedBits w n ∧ range n = true) :
    badCdw q w range = none := by
  unfold badCdw
  rw [List.find?_eq_none]
  intro n hn
  obtain ⟨hlt, hr⟩ := h n hn
  simp [Nat.not_le.mpr hlt, hr]

/-- The fields of a Register Window command are in range. -/
structure WindowFields (q : Sqe) : Prop where
  dwords : q.nsid = 0 ∧ q.cdw2 = 0 ∧ q.cdw3 = 0 ∧ q.cdw10 = 0 ∧ q.cdw11 = 0 ∧ q.cdw15 = 0
  page : q.cdw12.toNat < 256
  off : q.cdw13.toNat < 4096
  count : q.cdw14.toNat < 128

theorem WindowFields.none (h : WindowFields q) : windowFields q = none := by
  obtain ⟨⟨h1, h2, h3, h10, h11, h15⟩, h12, h13, h14⟩ := h
  refine badCdw_none fun n hn => ⟨?_, rfl⟩
  rcases mem_cdwAll.mp hn with rfl | rfl | rfl | rfl | rfl | rfl | rfl | rfl | rfl <;> simp [cdw, usedBits, h1, h2, h3, h10, h11, h15, h12, h13, h14]

theorem windowRow_runs (h : BcsOpen s t q) (hadm : onAdmin s t = false) (hf : WindowFields q) (io adm : Nat) (f : State → State) :
    windowRow t io adm q f s = .next (f (noteCmd t io q s)) := by
  unfold windowRow
  dsimp only
  rw [hadm, hf.none]
  exact bcsRow_runs h io f

theorem execRegisterWindowRead_refused (h : BcsOpen s t q) (hadm : onAdmin s t = false) (hf : WindowFields q) (d : List Byte) {c : Code}
    (hc : accessRefusal .inband q.cdw12.toNat q.cdw13.toNat q.cdw14.toNat 64 none (noteCmd t 0x86 q s) = some c) :
    execRegisterWindowRead t q d s = .next (refuse t c 0 (noteCmd t 0x86 q s)) := by
  unfold execRegisterWindowRead
  rw [windowRow_runs h hadm hf, cdw_12, cdw_13, cdw_14, Nat.mod_eq_of_lt hf.page, hc]

theorem execRegisterWindowWrite_refused (h : BcsOpen s t q) (hadm : onAdmin s t = false) (hf : WindowFields q) (d : List Byte) {c : Code}
    (hc : accessRefusal .inband q.cdw12.toNat q.cdw13.toNat q.cdw14.toNat 64 (some (wordsOf d q.cdw14.toNat)) (noteCmd t 0x91 q s) = some c) :
    execRegisterWindowWrite t q d s = .next (refuse t c 0 (noteCmd t 0x91 q s)) := by
  unfold execRegisterWindowWrite
  rw [windowRow_runs h hadm hf, cdw_12, cdw_13, cdw_14, Nat.mod_eq_of_lt hf.page, hc]

theorem execRegisterWindowRead_reads (h : BcsOpen s t q) (hadm : onAdmin s t = false) (hf : WindowFields q) (d : List Byte) {l : List Word} {v : State}
    (hc : accessRefusal .inband q.cdw12.toNat q.cdw13.toNat q.cdw14.toNat 64 none (noteCmd t 0x86 q s) = none) (hs : q.sgl = 4 * q.cdw14.toNat)
    (hv : readWords .inband q.cdw12.toNat q.cdw14.toNat q.cdw13.toNat (noteCmd t 0x86 q s) = (l, v)) :
    execRegisterWindowRead t q d s = .next (succeed t 0 0 (l.flatMap fun w => leBytes 4 w.toNat) v) := by
  unfold execRegisterWindowRead
  rw [windowRow_runs h hadm hf, cdw_12, cdw_13, cdw_14, Nat.mod_eq_of_lt hf.page, hc]
  dsimp only
  rw [if_neg (not_not_intro hs), hv]

theorem execRegisterWindowWrite_writes (h : BcsOpen s t q) (hadm : onAdmin s t = false) (hf : WindowFields q) (d : List Byte)
    (hc : accessRefusal .inband q.cdw12.toNat q.cdw13.toNat q.cdw14.toNat 64 (some (wordsOf d q.cdw14.toNat)) (noteCmd t 0x91 q s) = none)
    (hs : q.sgl = 4 * q.cdw14.toNat) :
    execRegisterWindowWrite t q d s =
      .next (succeed t 0 0 [] (writeWords q.cdw12.toNat q.cdw13.toNat (wordsOf d q.cdw14.toNat) (noteCmd t 0x91 q s))) := by
  unfold execRegisterWindowWrite
  rw [windowRow_runs h hadm hf, cdw_12, cdw_13, cdw_14, Nat.mod_eq_of_lt hf.page, hc]
  dsimp only
  rw [if_neg (not_not_intro hs)]

theorem accessRefusal_outOfRange (p : Path) (page : Nat) (ws : Option (List Word)) (s : State) {off n cap : Nat} (hoff : off % 4 = 0)
    (hn : n = 0 ∨ cap < n ∨ 0xFFC < off + 4 * (n - 1)) : accessRefusal p page off n cap ws s = some 0x0003 := by
  unfold accessRefusal
  rw [if_neg (not_not_intro hoff), if_pos hn]

end

/-! ### The sideband -/

section
variable {s : State} {req : List Byte}

theorem mctpRow_runs (hp : s.chip.powered = true) (hst : s.chip.stage ≠ .powerGood) (f : State → State) : mctpRow f s = .next (f s) := by
  unfold mctpRow
  exact if_pos (by simp [sidebandUp, hp, hst])

theorem padTo_of_le {n : Nat} {l : List Byte} (h : n ≤ l.length) : padTo n l = l := by
  simp [padTo, Nat.sub_eq_zero_of_le h]

/-- A sideband request of a header's length answers its header, status and words. -/
theorem sidebandReq_eq (hlen : 8 ≤ req.length) {st : Nat} {l : List Word} {v : State} (hdo : sidebandDo req s = (st, l, v)) :
    sidebandReq req s = emit (.sideband (req.take 3 ++ leBytes 2 st ++ l.flatMap fun w => leBytes 4 w.toNat)) v := by
  unfold sidebandReq
  rw [hdo, padTo_of_le (by simp; omega)]

theorem sidebandDo_read (hver : fld req 0 1 = 1) (hop : fld req 1 1 = 1) {l : List Word} {v : State}
    (hc : accessRefusal .sideband (fld req 2 1) (fld req 4 2) (fld req 3 1) 16 none s = none)
    (hv : readWords .sideband (fld req 2 1) (fld req 3 1) (fld req 4 2) s = (l, v)) : sidebandDo req s = (0, l, v) := by
  unfold sidebandDo
  dsimp only
  rw [if_neg (not_not_intro hver), if_pos hop, hc]
  dsimp only
  rw [hv]

theorem sidebandDo_readRefused (hver : fld req 0 1 = 1) (hop : fld req 1 1 = 1) {c : Code}
    (hc : accessRefusal .sideband (fld req 2 1) (fld req 4 2) (fld req 3 1) 16 none s = some c) : sidebandDo req s = (c, [], s) := by
  unfold sidebandDo
  dsimp only
  rw [if_neg (not_not_intro hver), if_pos hop, hc]

theorem sidebandDo_write (hver : fld req 0 1 = 1) (hop : fld req 1 1 = 2)
    (hc : accessRefusal .sideband (fld req 2 1) (fld req 4 2) (fld req 3 1) 16 (some (wordsOf (req.drop 8) (fld req 3 1))) s = none)
    (hlen : req.length = 8 + 4 * fld req 3 1) :
    sidebandDo req s = (0, [], writeWords (fld req 2 1) (fld req 4 2) (wordsOf (req.drop 8) (fld req 3 1)) s) := by
  unfold sidebandDo
  dsimp only
  rw [if_neg (not_not_intro hver), if_neg (by omega), if_pos hop, hc]
  dsimp only
  rw [if_neg (by omega)]

end

/-- Settles O40: a Register Window command by the row of its queue, a sideband request by what it does. -/
theorem registerWindowResult : Obligations.RegisterWindowResult := by
  unfold Obligations.RegisterWindowResult
  refine ⟨fun s t q d h hadm h1 h2 h3 h10 h11 h15 h12 h13 h14 => ?window, fun s req hp hst hlen hver => ?sideband⟩
  case window =>
    have hf : WindowFields q := ⟨⟨h1, h2, h3, h10, h11, h15⟩, h12, h13, h14⟩
    refine ⟨fun l v hc hs hv => execRegisterWindowRead_reads h hadm hf d hc hs hv, fun ws hws hc hs => ?_, fun hoff => ⟨?_, ?_⟩, fun hoff hn => ?_⟩
    · subst hws
      exact execRegisterWindowWrite_writes h hadm hf d hc hs
    · exact execRegisterWindowRead_refused h hadm hf d (accessRefusal_misaligned _ _ _ hoff)
    · exact execRegisterWindowWrite_refused h hadm hf d (accessRefusal_misaligned _ _ _ hoff)
    · exact execRegisterWindowRead_refused h hadm hf d (accessRefusal_outOfRange _ _ _ _ hoff hn)
  case sideband =>
    refine ⟨fun l v hop hc hv => ?_, fun ws hws hop hc hl => ?_, fun hop hoff => ?_⟩
    · exact (mctpRow_runs hp hst _).trans (congrArg _ (sidebandReq_eq hlen (sidebandDo_read hver hop hc hv)))
    · subst hws
      refine (mctpRow_runs hp hst _).trans (congrArg _ ((sidebandReq_eq hlen (sidebandDo_write hver hop hc hl)).trans ?_))
      rw [List.flatMap_nil, List.append_nil]
      rfl
    · refine (mctpRow_runs hp hst _).trans (congrArg _
        ((sidebandReq_eq hlen (sidebandDo_readRefused hver hop (accessRefusal_misaligned _ _ _ hoff))).trans ?_))
      rw [List.flatMap_nil, List.append_nil]
      rfl

end Sys2Proof.Machine
end

section
/-! PROOFS. ENABLE, SWAP and RESTART (O33); cycle starts, slot starts and slot ends (O34). -/
namespace Sys2Proof.Machine
open Sys2Proof

/-! ### Control of the Chart -/

section
variable {s : State}

theorem chartEnable_on (hop : lifecycle s = .operational) (hoff : s.chart.enable = false) :
    chartEnable true s =
      let u := modChart (fun c => { c with enable := true, cycling := false, haveCycle := false, fromT := s.time.replica }) s
      match s.chart.swap with
      | some w => swapNow w.bankB w.tag s.time.replica u
      | none => u := by
  unfold chartEnable
  rw [if_neg (not_not_intro hop), if_pos rfl, hoff, if_neg (by decide)]
  rfl

theorem chartEnable_off (hop : lifecycle s = .operational) : chartEnable false s = pumpQueries (modChart (fun c => { c with enable := false }) s) := by
  unfold chartEnable
  rw [if_neg (not_not_intro hop), if_neg (by decide)]

/-- A swap to a written bank whose slots are good is not refused. -/
theorem swapRefusal_none {b : Bool} (hno : s.chart.swap = none) (htarget : swapTarget s = some b)
    (hgood : ∀ x ∈ (bankOf s b).slots, slotCtxBad s x = false ∧ slotKindBad s x = false) : swapRefusal s = none := by
  have hctx : (bankOf s b).slots.any (slotCtxBad s) = false := List.any_eq_false.mpr fun x hx => by simp [(hgood x hx).1]
  have hkind : (bankOf s b).slots.any (slotKindBad s) = false := List.any_eq_false.mpr fun x hx => by simp [(hgood x hx).2]
  unfold swapRefusal
  rw [hno, htarget]
  simp [hctx, hkind]

/-- A swap that is not refused waits for a cycle start where the Chart runs, and takes effect at once where it does not. -/
theorem swapRequest_good {b : Bool} (tag : Option Tag) (hgood : swapRefusal s = none) (htarget : swapTarget s = some b) :
    (s.chart.active.isSome = true → s.chart.enable = true →
      swapRequest tag s = modChart (fun c => { c with swap := some { bankB := b, tag := tag, at_ := s.time.replica } }) s) ∧
    (s.chart.active = none ∨ s.chart.enable = false → swapRequest tag s = swapNow b tag s.time.replica s) := by
  unfold swapRequest
  rw [hgood, htarget]
  refine ⟨fun hact hen => if_neg ?_, fun hrest => if_pos ?_⟩
  · rw [Option.isNone_iff_eq_none, ← Option.not_isSome_iff_eq_none]
    simp [hact, hen]
  · simpa [Option.isNone_iff_eq_none] using hrest

theorem swapRequest_refused {c : Code} (hbad : swapRefusal s = some c) : swapRequest none s = advisory 0x30 5 c 0 0 s := by
  unfold swapRequest
  rw [hbad]

theorem modCtx_eq {n : Nat} {c : Ctx} (hc : ctx? s n = some c) (f : Ctx → Ctx) : modCtx n f s = putCtx n (f c) s := by
  unfold modCtx
  rw [hc]

theorem ctx?_putCtx (n : Nat) (c : Ctx) (s : State) : ctx? (putCtx n c s) n = some c := by
  simp [ctx?, putCtx, setCtxs, smFind_set]

end

/-- Settles O33: a register command that reaches its word, by what the Chart does with it. -/
theorem chartControlResult : Obligations.ChartControlResult := by
  unfold Obligations.ChartControlResult
  refine ⟨fun s p h hop => ⟨fun hoff hno => ?_, fun w hoff hw => ?_, ?_⟩, fun s p b h hno htarget hgood => ?_, fun s p h hsome => ?_,
    fun s p h hno htarget => ?_, fun s p c h hc => ⟨fun hst hfault => ?_, fun hst hfault => ?_⟩⟩
  · refine (regRow_runs h _).trans ?_
    rw [chartEnable_on hop hoff, hno]
  · refine (regRow_runs h _).trans ?_
    rw [chartEnable_on hop hoff, hw]
  · exact (regRow_runs h _).trans (congrArg _ (chartEnable_off hop))
  · obtain ⟨hwait, hnow⟩ := swapRequest_good none (swapRefusal_none hno htarget hgood) htarget
    exact ⟨fun hact hen => (regRow_runs h _).trans (congrArg _ (hwait hact hen)), fun hrest => (regRow_runs h _).trans (congrArg _ (hnow hrest))⟩
  · exact (regRow_runs h _).trans (congrArg _ (swapRequest_refused (if_pos hsome)))
  · refine (regRow_runs h _).trans (congrArg _ (swapRequest_refused ?_))
    simp [swapRefusal, hno, htarget]
  · refine (regRow_runs h _).trans (congrArg _ ?_)
    unfold restartCtx
    rw [modCtx_eq hc, if_pos ⟨hst, hfault⟩]
  · refine ⟨_, regRow_runs h _, ?_⟩
    unfold restartCtx
    rw [modCtx_eq hc, if_neg fun hboth => hboth.2 hfault, ctx?_putCtx]

/-! ### Cycles -/

section
variable {s : State}

theorem cntAdd_eq (page off n : Nat) (s : State) : ∃ m, cntAdd page off n s = setCnt m s := by
  unfold cntAdd
  split
  · exact ⟨s.cnt, rfl⟩
  · exact ⟨_, rfl⟩

theorem ctxCnt_eq (c page off d : Nat) (s : State) : ∃ m, ctxCnt c page off d s = setCtxs m s := by
  unfold ctxCnt modCtx
  split
  · exact ⟨s.ctxs, rfl⟩
  · split <;> exact ⟨_, rfl⟩

/-- Time that passes for stalled cores is counted on their contexts alone. -/
theorem stallTime_eq (d : Nat) (s : State) : ∃ m, stallTime d s = setCtxs m s := by
  unfold stallTime
  generalize s.cores = l
  induction l generalizing s with
  | nil => exact ⟨s.ctxs, rfl⟩
  | cons e l ih =>
    rw [List.foldl_cons]
    split
    · exact ih s
    · split
      · exact ih s
      · next off _ =>
        obtain ⟨m, hm⟩ := ctxCnt_eq _ 0xA0 off d s
        rw [hm]
        obtain ⟨m', hm'⟩ := ih (setCtxs m s)
        exact ⟨m', hm'⟩

/-- Time that passes changes the clocks, a counter and the contexts' stall counters. -/
theorem passTime_eq (d : Nat) (s : State) : ∃ t c m, passTime d s = setCtxs m (setCnt c (setTime t s)) := by
  unfold passTime
  obtain ⟨c, hc⟩ := cntAdd_eq 0x00 0x800 ((s.time.uptime + d) / 1000000 - s.time.uptime / 1000000) (setTime
    { master := w64 (s.time.master + d), replica := if chartPs s = 4 then s.time.replica else w64 (s.time.replica + d),
      uptime := w64 (s.time.uptime + d) } s)
  rw [hc]
  obtain ⟨m, hm⟩ := stallTime_eq d (setCnt c (setTime
    { master := w64 (s.time.master + d), replica := if chartPs s = 4 then s.time.replica else w64 (s.time.replica + d),
      uptime := w64 (s.time.uptime + d) } s))
  exact ⟨_, c, m, hm⟩

theorem advanceTo_eq (t : Nat) (s : State) : ∃ v c m, advanceTo t s = setCtxs m (setCnt c (setTime v s)) := by
  unfold advanceTo
  split
  · exact passTime_eq ..
  · exact ⟨s.time, s.cnt, s.ctxs, rfl⟩

theorem advanceTo_chart (t : Nat) (s : State) : (advanceTo t s).chart = s.chart := by
  obtain ⟨v, c, m, h⟩ := advanceTo_eq t s
  rw [h]
  rfl

/-- The first start at or after a time stands at the phase modulo the period. -/
theorem nextStart_spec {period : Nat} (phase lo : Nat) (hp : 0 < period) :
    nextStart period phase lo % period = phase % period ∧ lo ≤ nextStart period phase lo := by
  unfold nextStart
  rw [if_neg (Nat.ne_of_gt hp)]
  split
  next hle =>
    have hmul : (phase - lo) / period * period ≤ phase - lo := Nat.div_mul_le_self _ _
    refine ⟨?_, by omega⟩
    have hsum : phase - (phase - lo) / period * period + period * ((phase - lo) / period) = phase := by
      rw [Nat.mul_comm period]
      omega
    rw [← Nat.add_mul_mod_self_left (phase - (phase - lo) / period * period) period ((phase - lo) / period), hsum]
  next hlt =>
    refine ⟨Nat.add_mul_mod_self_right .., ?_⟩
    have hceil : lo - phase ≤ cdiv (lo - phase) period * period := by
      have hdiv := Nat.div_add_mod (lo - phase + period - 1) period
      have hmod := Nat.mod_lt (lo - phase + period - 1) hp
      unfold cdiv
      rw [Nat.mul_comm]
      omega
    omega

/-- With a bank active and the Chart enabled the next cycle start is the bank's, from no earlier than the Chart's own start. -/
theorem nextCycle_spec {b : Bool} (hact : s.chart.active = some b) (hen : s.chart.enable = true) (hp : 0 < (bankOf s b).period) :
    ∃ t, nextCycle s = some t ∧ t % ((bankOf s b).period * 1000) = (bankOf s b).phase % ((bankOf s b).period * 1000) ∧ s.chart.fromT ≤ t := by
  have hper : 0 < (bankOf s b).period * 1000 := Nat.mul_pos hp (by decide)
  have hlo : s.chart.fromT ≤ if s.chart.haveCycle then max s.chart.fromT (s.chart.cycleT + 1) else s.chart.fromT := by
    split
    · exact Nat.le_max_left ..
    · exact Nat.le_refl _
  obtain ⟨hmod, hge⟩ := nextStart_spec (bankOf s b).phase (if s.chart.haveCycle then max s.chart.fromT (s.chart.cycleT + 1) else s.chart.fromT) hper
  refine ⟨_, ?_, hmod, Nat.le_trans hlo hge⟩
  unfold nextCycle
  rw [hact]
  simp [hen]

theorem execCycleStart_starts {t : Nat} (hps : chartPs s ≠ 4) (hno : s.chart.swap = none) (ht : nextCycle s = some t) :
    execCycleStart s = .next (startCycle t (advanceTo t s)) := by
  unfold execCycleStart
  rw [if_neg hps, ht]
  dsimp only
  unfold cycleAt
  rw [advanceTo_chart, hno]
  rfl

/-- The runs of a bank's slots that are not empty, in a cycle that starts at `t`. -/
def cycleRuns (s : State) (b : Bool) (t : Nat) : List SlotRun :=
  ((bankOf s b).slots.zipIdx.filter fun e => e.1.kind != 0).map fun e =>
    { bankB := b, idx := e.2, startT := t + e.1.start * 1000, endT := t + (e.1.start + e.1.dur) * 1000, slot := e.1, phase := .waiting }

/-- A cycle start with no slot still to begin lists the active bank's slots. -/
theorem startCycle_chart {b : Bool} (t : Nat) (hact : s.chart.active = some b) (hbegun : ∀ r ∈ s.chart.runs, r.phase = .running ∨ r.phase = .ended) :
    (startCycle t s).chart = { s.chart with runs := s.chart.runs ++ cycleRuns s b t, cycleT := t, haveCycle := true, cycling := true } := by
  have hnone : (s.chart.runs.filter fun r => r.phase == .waiting || r.phase == .due) = [] := by
    rw [List.filter_eq_nil_iff]
    intro r hr
    rcases hbegun r hr with h | h <;> simp [h]
  unfold startCycle
  rw [hact]
  dsimp only
  rw [hnone]
  obtain ⟨m, hm⟩ := cntAdd_eq 0x30 0x800 1 (modChart (fun c => { c with runs := c.runs ++ cycleRuns s b t, cycleT := t, haveCycle := true, cycling := true }) s)
  exact congrArg State.chart hm

end

/-! ### Slots -/

section
variable {s : State} {r : SlotRun}

theorem beginSlot_step {c : Ctx} (hstep : r.slot.isStep = true) (hps : chartPs s < 3) (hc : ctx? s r.slot.ctx = some c)
    (hearly : prefetchLate c = false) (hisl : c.island = r.slot.island) :
    beginSlot r s =
      let u := modRun r.bankB r.idx r.startT (fun x => { x with phase := .running }) (modChart (fun c => { c with lastSlot := r.idx }) s)
      match c.st with
      | .ready => startStep r.slot.ctx r u
      | .preempted => resume r.slot.ctx (modCtx r.slot.ctx (fun c => { c with step := c.step.map fun st =>
          { st with slotStart := r.startT, slotClass := r.slot.cls, group := r.slot.group } }) u)
      | _ => slotIdle u := by
  have hps' : ¬ 3 ≤ chartPs (modRun r.bankB r.idx r.startT (fun x => { x with phase := .running }) (modChart (fun c => { c with lastSlot := r.idx }) s)) :=
    Nat.not_le.mpr hps
  have hc' : ctx? (modRun r.bankB r.idx r.startT (fun x => { x with phase := .running }) (modChart (fun c => { c with lastSlot := r.idx }) s)) r.slot.ctx = some c := hc
  unfold beginSlot
  dsimp only
  rw [if_pos hstep, if_neg hps', hc']
  dsimp only
  rw [hearly, if_neg Bool.false_ne_true, if_neg (not_not_intro hisl)]
    <;> cases c.st <;> rfl

/-- A running step slot whose context still runs its step overruns at its end. -/
theorem endSlot_overrun {c : Ctx} (hph : r.phase = .running) (hstep : r.slot.isStep = true)
    (hc : ctx? (delRun r.bankB r.idx r.startT s) r.slot.ctx = some c) (hrun : c.step.isSome = true) (hsave : c.save = []) (hisl : c.island = r.slot.island) :
    endSlot r s =
      let w := advisory 0x30 0 0x3019 0 0 (ctxCnt r.slot.ctx 0x30 0x908 1 (cntAdd 0x30 0x818 1 (delRun r.bankB r.idx r.startT s)))
      startDue (if r.slot.preempt then settleUnload r.slot.ctx (preempt r.slot.ctx 1 w) else w) := by
  have hover : (r.slot.isStep && stepRunning (delRun r.bankB r.idx r.startT s) r.slot.ctx
      && ((ctx? (delRun r.bankB r.idx r.startT s) r.slot.ctx).map fun c => c.island == r.slot.island).getD false) = true := by
    simp [stepRunning, hc, hstep, hrun, hsave, hisl]
  unfold endSlot
  rw [hph]
  dsimp only
  rw [if_pos hover]

/-- A running slot that runs no step just ends. -/
theorem endSlot_noStep (hph : r.phase = .running) (hstep : r.slot.isStep = false) : endSlot r s = startDue (delRun r.bankB r.idx r.startT s) := by
  unfold endSlot
  rw [hph]
  dsimp only
  rw [hstep]
  rfl

theorem execSlotStart_eq {b : Bool} {i : Nat} (hr : s.chart.runs.find? (fun r => r.bankB == b && r.idx == i && r.phase == .waiting) = some r) :
    execSlotStart b i s = .next (slotDue r (advanceTo r.startT s)) := by
  unfold execSlotStart
  rw [hr]
  rfl

theorem execSlotEnd_eq {b : Bool} {i : Nat} (hr : s.chart.runs.find? (fun r => r.bankB == b && r.idx == i) = some r) :
    execSlotEnd b i s = .next (endSlot r (advanceTo r.endT s)) := by
  unfold execSlotEnd
  rw [hr]
  rfl

end

/-- Settles O34: cycle starts by `nextStart_spec`, slots by what `slotDue`, `beginSlot` and `endSlot` do with them. -/
theorem chartTimeResult : Obligations.ChartTimeResult := by
  unfold Obligations.ChartTimeResult
  refine ⟨fun s b hact hen hno _ hps hper => ?cycle, fun s t b hact hbegun => ?listed, fun s b i r hr => ?start,
    fun s r c hstep hps hc hearly hisl => ?begins, fun s b i r hr => ?ends⟩
  case cycle =>
    obtain ⟨t, ht, hmod, hge⟩ := nextCycle_spec hact hen hper
    exact ⟨t, ht, hmod, hge, execCycleStart_starts hps hno ht⟩
  case listed =>
    intro u
    have hu : u.chart = _ := startCycle_chart t hact hbegun
    rw [hu]
    exact ⟨rfl, rfl⟩
  case start =>
    have hex := execSlotStart_eq hr
    refine ⟨fun hpast => hex.trans (congrArg _ (if_pos hpast)), fun hcome hstep hbusy => hex.trans (congrArg _ ?_),
      fun hcome hfree => hex.trans (congrArg _ ?_)⟩
    · refine (if_neg (Nat.not_le.mpr hcome)).trans (if_pos ?_)
      simp [hstep, hbusy]
    · refine (if_neg (Nat.not_le.mpr hcome)).trans (if_neg ?_)
      simpa using hfree
  case begins =>
    have hbegin := beginSlot_step hstep hps hc hearly hisl
    refine ⟨fun hst => hbegin.trans ?_, fun hst st hrun => hbegin.trans ?_, fun hst => hbegin.trans ?_⟩
    · rw [hst]
    · have hu : ctx? (modRun r.bankB r.idx r.startT (fun x => { x with phase := .running }) (modChart (fun c => { c with lastSlot := r.idx }) s))
          r.slot.ctx = some c := hc
      rw [hst]
      dsimp only
      rw [modCtx_eq hu, hrun, hst]
      rfl
    · rcases hst with h | h | h <;> rw [h] <;> rfl
  case ends =>
    have hex := execSlotEnd_eq hr
    refine ⟨fun hst => hex.trans (congrArg _ ?_), fun hst => hex.trans (congrArg _ ?_), fun hph hstep => hex.trans (congrArg _ (endSlot_noStep hph hstep)),
      fun c hph hstep hc hrun hsave hisl => hex.trans (congrArg _ (endSlot_overrun hph hstep hc hrun hsave hisl))⟩
    · unfold endSlot
      rcases hst with h | h <;> rw [h] <;> rfl
    · unfold endSlot
      rw [hst]

end Sys2Proof.Machine
end

section
/-! PROOFS. Write Chart, Swap Chart and Output Drain (O37). -/
namespace Sys2Proof.Machine
open Sys2Proof

section
variable {s : State} {t : Tag} {q : Sqe}

theorem chart_noteCmd (t : Tag) (op : Nat) (q : Sqe) (s : State) : (noteCmd t op q s).chart = s.chart := by
  obtain ⟨m, hm⟩ := noteCmd_eq t op q s
  rw [hm]
  rfl

theorem ctx?_noteCmd (t : Tag) (op : Nat) (q : Sqe) (s : State) (n : Nat) : ctx? (noteCmd t op q s) n = ctx? s n := by
  obtain ⟨m, hm⟩ := noteCmd_eq t op q s
  rw [hm]
  rfl

theorem replica_noteCmd (t : Tag) (op : Nat) (q : Sqe) (s : State) : (noteCmd t op q s).time = s.time := by
  obtain ⟨m, hm⟩ := noteCmd_eq t op q s
  rw [hm]
  rfl

/-! ### Write Chart -/

/-- The header and the slots of a table are good for a bank (R74 to R76). -/
structure GoodChart (s : State) (q : Sqe) (d : List Byte) (b : Bool) : Prop where
  length : q.sgl = 16 + 16 * fld d 2 2
  inactive : s.chart.active ≠ some b
  free : ∀ w, s.chart.swap = some w → w.bankB ≠ b
  version : fld d 0 1 = versionByte s
  header : chartHdrOk d = true
  fields : ∀ x ∈ chartSlots d, slotFieldsOk (fld d 4 4) x = true
  range : slotsInRange (fld d 4 4) (chartSlots d) 0 = true
  clear : anyClash (chartSlots d) = false
  contexts : ∀ x ∈ chartSlots d, slotCtxBad s x = false ∧ slotKindBad s x = false

/-- The bank that a slot table describes. -/
def chartBank (d : List Byte) : Bank := { written := true, period := fld d 4 4, phase := fld d 8 4, slots := chartSlots d }

theorem writeChart_good {d : List Byte} {b : Bool} (h : GoodChart s q d b) :
    writeChart t q d b s = succeed t 0 0 []
      (modChart (fun c => if b then { c with bankB := chartBank d, last := some b } else { c with bankA := chartBank d, last := some b }) s) := by
  obtain ⟨hlen, hinactive, hfree, hver, hhdr, hfields, hrange, hclear, hctx⟩ := h
  have h1 : ¬ q.sgl < 16 := by omega
  have h2 : ¬ (s.chart.swap.map (·.bankB)) = some b := by
    rw [Option.map_eq_some_iff]
    exact fun ⟨w, hw, hb⟩ => hfree w hw hb
  have h3 : ¬ (!chartHdrOk d) = true := by simp [hhdr]
  have h4 : ¬ (!(chartSlots d).all (slotFieldsOk (fld d 4 4))) = true := by simpa using hfields
  have h5 : ¬ (!slotsInRange (fld d 4 4) (chartSlots d) 0) = true := by simp [hrange]
  have h6 : ¬ (chartSlots d).any (slotCtxBad s) = true := by simpa using fun x hx => (hctx x hx).1
  have h7 : ¬ (chartSlots d).any (slotKindBad s) = true := by simpa using fun x hx => (hctx x hx).2
  unfold writeChart
  dsimp only
  rw [if_neg h1, if_neg hinactive, if_neg h2, if_neg (not_not_intro hver), if_neg h3, if_neg (not_not_intro hlen), if_neg h4, if_neg h5, hclear,
    if_neg Bool.false_ne_true, if_neg h6, if_neg h7]
  rfl

theorem chartSlots_eq (d : List Byte) : chartSlots d = (List.range (fld d 2 2)).map fun i =>
    ({ w0 := BitVec.ofNat 32 (fld d (16 + 16 * i) 4), w1 := BitVec.ofNat 32 (fld d (20 + 16 * i) 4), w2 := BitVec.ofNat 32 (fld d (24 + 16 * i) 4),
       w3 := BitVec.ofNat 32 (fld d (28 + 16 * i) 4) } : Slot) := by
  refine List.map_congr_left fun i _ => ?_
  have h4 : 16 + 16 * i + 4 = 20 + 16 * i := by omega
  have h8 : 16 + 16 * i + 8 = 24 + 16 * i := by omega
  have h12 : 16 + 16 * i + 12 = 28 + 16 * i := by omega
  simp only [h4, h8, h12]

theorem chartHdrOk_of {d : List Byte} (hrsvd : fld d 1 1 = 0) (hcount : fld d 2 2 ≤ 256) (hlo : 250 ≤ fld d 4 4) (hhi : fld d 4 4 ≤ 16000)
    (hphase : fld d 8 4 < fld d 4 4 * 1000) (hrsvd2 : fld d 12 4 = 0) : chartHdrOk d = true := by
  simp [chartHdrOk, hrsvd, hcount, hlo, hhi, hphase, hrsvd2]

/-- The dwords of a command that no field uses are 0. -/
theorem chartFields_none (h : q.nsid = 0 ∧ q.cdw2 = 0 ∧ q.cdw3 = 0 ∧ q.cdw10 = 0 ∧ q.cdw11 = 0 ∧ q.cdw13 = 0 ∧ q.cdw14 = 0 ∧ q.cdw15 = 0)
    (hbank : q.cdw12.toNat < 2) : chartFields q = none := by
  obtain ⟨h1, h2, h3, h10, h11, h13, h14, h15⟩ := h
  refine badCdw_none fun n hn => ⟨?_, rfl⟩
  rcases mem_cdwAll.mp hn with rfl | rfl | rfl | rfl | rfl | rfl | rfl | rfl | rfl <;> simp [cdw, usedBits, h1, h2, h3, h10, h11, h13, h14, h15, hbank]

theorem cdw12_eq_one (q : Sqe) : (cdw q 12 == 1) = (q.cdw12 == 1) := by
  rw [Bool.eq_iff_iff, beq_iff_eq, beq_iff_eq, ← BitVec.toNat_inj]
  rfl

/-! ### Swap Chart -/

theorem noFields_none (h : q.nsid = 0 ∧ q.cdw2 = 0 ∧ q.cdw3 = 0 ∧ q.cdw10 = 0 ∧ q.cdw11 = 0 ∧ q.cdw12 = 0 ∧ q.cdw13 = 0 ∧ q.cdw14 = 0 ∧ q.cdw15 = 0) :
    (badCdw q [] fun _ => true) = none := by
  obtain ⟨h1, h2, h3, h10, h11, h12, h13, h14, h15⟩ := h
  refine badCdw_none fun n hn => ⟨?_, rfl⟩
  rcases mem_cdwAll.mp hn with rfl | rfl | rfl | rfl | rfl | rfl | rfl | rfl | rfl <;> simp [cdw, usedBits, h1, h2, h3, h10, h11, h12, h13, h14, h15]

theorem execSwapChart_requests (h : BcsOpen s t q) (d : List Byte) (hf : (badCdw q [] fun _ => true) = none) (hs : q.sgl = 0) :
    execSwapChart t q d s = .next (swapRequest (some t) (noteCmd t 0x8C q s)) := by
  unfold execSwapChart
  rw [hf, bcsRow_runs h]
  exact congrArg _ (if_neg (not_not_intro hs))

/-! ### Output Drain -/

theorem drainFields_none (h : q.nsid = 0 ∧ q.cdw10 = 0 ∧ q.cdw11 = 0 ∧ q.cdw15 = 0) (hctx : q.cdw12.toNat < 1024)
    (hmode : q.cdw13 = 0 ∧ q.cdw14 = 0 ∨ q.cdw13 = 1) :
    (badCdw q [(2, 32), (3, 32), (12, 10), (13, 1), (14, if cdw q 13 = 1 then 32 else 0)] fun _ => true) = none := by
  obtain ⟨h1, h10, h11, h15⟩ := h
  have h2 := q.cdw2.isLt
  have h3 := q.cdw3.isLt
  have h14 := q.cdw14.isLt
  refine badCdw_none fun n hn => ⟨?_, rfl⟩
  rcases hmode with ⟨h13, h14'⟩ | h13
  · rcases mem_cdwAll.mp hn with rfl | rfl | rfl | rfl | rfl | rfl | rfl | rfl | rfl <;> simp [cdw, usedBits, h1, h2, h3, h10, h11, h13, h14', h15, hctx]
  · rcases mem_cdwAll.mp hn with rfl | rfl | rfl | rfl | rfl | rfl | rfl | rfl | rfl <;> simp [cdw, usedBits, h1, h2, h3, h10, h11, h13, h14, h15, hctx]

/-- Output Drain of a resident context, with room for the header. -/
theorem execOutputDrain_eq (h : BcsOpen s t q) (d : List Byte) {c : Ctx}
    (hf : (badCdw q [(2, 32), (3, 32), (12, 10), (13, 1), (14, if cdw q 13 = 1 then 32 else 0)] fun _ => true) = none)
    (hs : 32 ≤ q.sgl) (hc : ctx? s q.cdw12.toNat = some c) :
    execOutputDrain t q d s = .next (
      if q.cdw13.toNat = 1 then drainHist t q.cdw14.toNat q.sgl c (noteCmd t 0x82 q s)
      else drainOut t q.cdw12.toNat (cdw23 q) q.sgl c (noteCmd t 0x82 q s)) := by
  unfold execOutputDrain
  rw [hf, bcsRow_runs h, cdw_12, cdw_13, cdw_14, ctx?_noteCmd, hc]
  exact congrArg _ (if_neg (Nat.not_lt.mpr hs))

theorem drainOut_refused {ctx ack cap : Nat} {c : Ctx} (hack : c.dseq < ack) : drainOut t ctx ack cap c s = refuse t cCMD_PARAM 0 s := if_pos hack

/-- A drain frees what is acknowledged and returns the records that stand in the buffer, to its capacity. -/
theorem drainOut_returns {ctx ack cap : Nat} {c : Ctx} (hack : ack ≤ c.dseq) {held : List OutRec}
    (hheld : held = c.out.filter fun r => decide (max c.acked ack < r.dseq)) {n : Nat} (hn : n = min held.length ((cap - 32) / c.recBytes)) :
    ∃ first, (∀ r ∈ held.head?, 0 < n → first = r.dseq) ∧
      drainOut t ctx ack cap c s = succeed t n 0
        (drainHdr (b2n (decide (n < held.length))) n first c.dseq (c.outbufKib * 1024 - held.length * c.recBytes)
          ++ (held.take n).flatMap (OutRec.bytes c.outBytes))
        (draw (putCtx ctx { c with acked := max c.acked ack, out := held } s)).2 := by
  refine ⟨if n = 0 then w64 (draw (putCtx ctx { c with acked := max c.acked ack, out := held } s)).1 else ((held.head?).map (·.dseq)).getD 0, ?_, ?_⟩
  · intro r hr hpos
    rw [if_neg (Nat.ne_of_gt hpos), Option.mem_def.mp hr]
    rfl
  · subst hn hheld
    unfold drainOut
    rw [if_neg (Nat.not_lt.mpr hack)]
    rfl

theorem drainHist_refused {first cap : Nat} {c : Ctx} (hfirst : (c.pkg.tensors.filter Tensor.noObj).length ≤ first) :
    drainHist t first cap c s = refuse t cCMD_PARAM 0 s := if_pos hfirst

/-- A drain of history returns the records from the first one asked for, to its capacity. -/
theorem drainHist_returns {first cap total n : Nat} {c : Ctx} (htotal : total = (c.pkg.tensors.filter Tensor.noObj).length) (hfirst : first < total)
    (hn : n = min (total - first) ((cap - 32) / 96)) (hpos : 0 < n) :
    drainHist t first cap c s = succeed t n 0
      (drainHdr (b2n (decide (first + n < total)) + 2) n first c.dseq c.outFree
        ++ (List.range n).flatMap fun i => (smGet HistRec.zero c.hist (first + i)).bytes) (draw s).2 := by
  unfold drainHist
  rw [← htotal, if_neg (Nat.not_le.mpr hfirst)]
  dsimp only
  rw [← hn, if_neg (Nat.ne_of_gt hpos)]

end

/-- Settles O37: each command runs on its queue's state with the command noted. -/
theorem chartAndDrainCommandResult : Obligations.ChartAndDrainCommandResult := by
  unfold Obligations.ChartAndDrainCommandResult
  refine fun s t q d h h1 h10 h11 h15 => ⟨fun h2 h3 h13 h14 hbank => ?write, fun h2 h3 h12 h13 h14 hs => ?swap,
    fun c hctx h13 h14 hs hc => ?output, fun c hctx h13 hs hc => ?history⟩
  case write =>
    intro b period count slot xs u _ hinactive hfree hver hrsvd hcount hlo hhi hphase hrsvd2 hlen hfields hrange hclear hctx bank
    have hxs : xs = chartSlots d := (chartSlots_eq d).symm
    rw [hxs] at hfields hrange hclear hctx
    have hgood : GoodChart u q d b :=
      { length := hlen, inactive := by rw [chart_noteCmd]; exact hinactive, free := by rw [chart_noteCmd]; exact hfree, version := hver,
        header := chartHdrOk_of hrsvd hcount hlo hhi hphase hrsvd2, fields := hfields, range := hrange, clear := hclear, contexts := hctx }
    have hbk : bank = chartBank d := by simp only [bank, hxs]; rfl
    rw [hbk]
    show execWriteChart t q d s = _
    unfold execWriteChart
    rw [chartFields_none ⟨h1, h2, h3, h10, h11, h13, h14, h15⟩ hbank, bcsRow_runs h, cdw12_eq_one, writeChart_good hgood]
    rfl
  case swap =>
    intro u b hno htarget hgood
    have hex := execSwapChart_requests h d (noFields_none ⟨h1, h2, h3, h10, h11, h12, h13, h14, h15⟩) hs
    have hnone : swapRefusal u = none := swapRefusal_none (by rw [chart_noteCmd]; exact hno) htarget hgood
    obtain ⟨hwait, hnow⟩ := swapRequest_good (some t) hnone htarget
    rw [chart_noteCmd, replica_noteCmd] at hwait hnow
    exact ⟨fun hact hen => hex.trans (congrArg _ (hwait hact hen)), fun hrest => hex.trans (congrArg _ (hnow hrest))⟩
  case output =>
    intro ack u held n
    have hex := execOutputDrain_eq h d (drainFields_none ⟨h1, h10, h11, h15⟩ hctx (.inl ⟨h13, h14⟩)) hs hc
    rw [if_neg (by simp [h13])] at hex
    refine ⟨fun hack => ?_, fun hack => hex.trans (congrArg _ (drainOut_refused hack))⟩
    obtain ⟨first, hhead, hout⟩ := drainOut_returns (s := u) (t := t) (ctx := q.cdw12.toNat) (cap := q.sgl) hack (held := held) rfl (n := n) rfl
    exact ⟨first, hhead, hex.trans (congrArg _ hout)⟩
  case history =>
    intro total first n u
    have hex := execOutputDrain_eq h d (drainFields_none ⟨h1, h10, h11, h15⟩ hctx (.inr h13)) hs hc
    rw [if_pos (by simp [h13])] at hex
    exact ⟨fun hfirst hpos => hex.trans (congrArg _ (drainHist_returns rfl hfirst rfl hpos)),
      fun hfirst => hex.trans (congrArg _ (drainHist_refused hfirst))⟩

end Sys2Proof.Machine
end

section
/-! PROOFS. CHIP, CLKRST and ERR page commands, and an island reset (O10). -/
namespace Sys2Proof.Machine
open Sys2Proof

theorem bits_zero_mod (w hi : Nat) : bits w hi 0 = w % 2 ^ (hi + 1) := rfl

/-! ### Registers that act at once -/

section
variable {s : State} {w : Word}

theorem selectLevel_locked (h : s.chip.locked = true) : selectLevel w s = advisory 0x00 1 0x0007 0 0 s := if_pos h

theorem selectLevel_two (h : s.chip.locked = false) : selectLevel 2 s = modChip (fun c => { c with locked := true }) s := by
  unfold selectLevel
  rw [h, if_neg Bool.false_ne_true, if_pos rfl]

theorem selectLevel_one (h : s.chip.locked = false) : selectLevel 1 s = modChip (fun c => { c with locked := true }) (enterLevel1 s) := by
  unfold selectLevel
  rw [h, if_neg Bool.false_ne_true, if_neg (by decide), if_pos rfl]

theorem selectLevel_invalid (h : s.chip.locked = false) (h1 : w ≠ 1) (h2 : w ≠ 2) : selectLevel w s = advisory 0x00 0 0x0006 0 0 s := by
  unfold selectLevel
  rw [h, if_neg Bool.false_ne_true, if_neg h2, if_neg h1]

theorem devResetKey_first (h : s.chip.devResetDue = none) :
    devResetKey 0xA5C3 s = modChip (fun c => { c with devResetDue := some (s.time.master + 10000) }) s := by
  simp only [devResetKey, if_pos, modChip, h, Option.getD_none, now]

/-- A measurement starts where none is in progress. -/
theorem fmeasSel_eq (w : Word) (s : State) : fmeasSel w s =
    if bit w.toNat 31 = true ∧ s.chip.fmeas = none then modChip (fun c => { c with fmeas := some (w.toNat % 8) }) (storeRw 0x01 0x114 w s)
    else storeRw 0x01 0x114 w s := by
  unfold fmeasSel
  simp only [Option.isNone_iff_eq_none]
  rfl

theorem execFmeasDone_eq (khz : Nat) {d : Nat} (h : s.chip.fmeas = some d) :
    execFmeasDone khz s = .next (modChip (fun c => { c with fmeas := none, fmeasKhz := if d = 0 then 3600000 else khz % 2 ^ 32 }) s) := by
  unfold execFmeasDone
  rw [h]
  rfl

/-- What the loss of lock of a PLL is: FATAL for the first three, silent for the fourth, an advisory for the recovered clock. -/
theorem execPllUnlock_eq {pll : Nat} (hpll : pll < 5) (hlock : bit s.chip.pll pll = true) :
    execPllUnlock pll s =
      let t := cntAdd 0x01 0x800 1 (modChip (fun c => { c with pll := c.pll - 2 ^ pll }) s)
      if pll ≤ 2 then .next (raiseFatal 0x0101 0x01 (some 0) 0 0 t)
      else if pll = 4 then .next (advisory 0x01 1 0x0102 0 0 t) else .next t := by
  unfold execPllUnlock
  rw [if_neg (Nat.not_le.mpr hpll), hlock]
  rfl

end

/-! ### Island reset -/

section
variable {s : State} {w : Word}

theorem islandGo_idle (h : bit w.toNat 31 = false) : islandGo w s = storeRw 0x01 0x110 w s := by
  unfold islandGo
  rw [h]
  rfl

theorem islandGo_unbound (h : bit w.toNat 31 = true) (hnone : 48 ≤ w.toNat % 64 ∨ islandMap s (w.toNat % 64) = 0) :
    islandGo w s = advisory 0x01 3 0x0104 0 0 (storeRw 0x01 0x110 w s) := by
  unfold islandGo
  rw [h]
  exact if_pos hnone

/-- With no step of the island begun and no receive parked, a reset only resets its cores. -/
theorem islandReset_quiet {i : Nat} (hquiet : ∀ e ∈ islandCtxs s i, e.2.step = none ∧ e.2.parked = false) :
    islandReset i s = startDue (cntAdd 0x01 0x808 1 ((islandCores s i).foldl (fun s k => resetCore k s) s)) := by
  have hnone : ((islandCtxs s i).filter fun e => e.2.step.isSome || e.2.parked) = [] := by
    rw [List.filter_eq_nil_iff]
    intro e he
    simp [hquiet e he]
  unfold islandReset
  rw [hnone]
  rfl

theorem islandGo_resets (h : bit w.toNat 31 = true) (hi : w.toNat % 64 < 48) (hbound : islandMap s (w.toNat % 64) ≠ 0)
    (hquiet : ∀ e ∈ islandCtxs s (w.toNat % 64), e.2.step = none ∧ e.2.parked = false) :
    islandGo w s = startDue (cntAdd 0x01 0x808 1 ((islandCores s (w.toNat % 64)).foldl (fun s k => resetCore k s) (storeRw 0x01 0x110 w s))) := by
  have hsome : ¬ (48 ≤ bits w.toNat 5 0 ∨ islandMap (storeRw 0x01 0x110 w s) (bits w.toNat 5 0) = 0) :=
    fun hor => hor.elim (Nat.not_le.mpr hi) hbound
  unfold islandGo
  rw [h]
  exact (if_neg hsome).trans (islandReset_quiet (s := storeRw 0x01 0x110 w s) hquiet)

theorem core_resetCore (k j : Nat) (s : State) : core (resetCore k s) j =
    if j = k then { core s k with run := none, acc := [], accErr := [], active := Plane.empty, shadow := Plane.empty } else core s j := by
  show core (modCore k (fun c => { c with run := none, acc := [], accErr := [], active := Plane.empty, shadow := Plane.empty }) s) j = _
  rw [core_modCore]

end

/-- Settles O10: each command by what its register does, the reset of a core field by field. -/
theorem chipControlResult : Obligations.ChipControlResult := by
  unfold Obligations.ChipControlResult
  refine ⟨⟨fun s p w h => ?level, fun s p w h => ?tail, fun s p w h => ?key, fun s p w h => ?fmeas, fun s khz d hd => execFmeasDone_eq khz hd,
    fun s pll hlock => ?pll⟩, fun s p w h => ?island, fun s k => ?core⟩
  case level =>
    refine ⟨fun hl => (regRow_runs h _).trans (congrArg _ (selectLevel_locked hl)), fun hl hw => ?_, fun hl hw => ?_,
      fun hl h1 h2 => (regRow_runs h _).trans (congrArg _ (selectLevel_invalid hl h1 h2))⟩
    · subst hw
      exact (regRow_runs h _).trans (congrArg _ (selectLevel_two hl))
    · subst hw
      exact ⟨_, (regRow_runs h _).trans (congrArg _ (selectLevel_one hl)), rfl, rfl⟩
  case tail =>
    exact ⟨fun hroom => (regRow_runs h _).trans (congrArg _ (if_neg (Nat.not_lt.mpr hroom))), fun hfull => (regRow_runs h _).trans (congrArg _ (if_pos hfull))⟩
  case key =>
    refine ⟨fun hw hdue => ?_, fun hw => (regRow_runs h _).trans (congrArg _ (if_neg hw))⟩
    subst hw
    exact (regRow_runs h _).trans (congrArg _ (devResetKey_first hdue))
  case fmeas =>
    refine ⟨fmeasSel w s, regRow_runs h _, ?_⟩
    rw [fmeasSel_eq]
    split <;> exact ⟨rfl, rfl, rfl, rfl⟩
  case pll =>
    refine ⟨fun hlow => ?_, fun h3 => ?_, fun h4 => ?_⟩
    · exact (execPllUnlock_eq (by omega) hlock).trans (if_pos hlow)
    · exact (execPllUnlock_eq (by omega) hlock).trans ((if_neg (by omega)).trans (if_neg (by omega)))
    · exact (execPllUnlock_eq (by omega) hlock).trans ((if_neg (by omega)).trans (if_pos h4))
  case island =>
    exact ⟨fun hgo => (regRow_runs h _).trans (congrArg _ (islandGo_idle hgo)),
      fun hgo hnone => (regRow_runs h _).trans (congrArg _ (islandGo_unbound hgo hnone)),
      fun hgo hi hbound hquiet => (regRow_runs h _).trans (congrArg _ (islandGo_resets hgo hi hbound hquiet))⟩
  case core =>
    intro t
    have hk : core t k = { core s k with run := none, acc := [], accErr := [], active := Plane.empty, shadow := Plane.empty } :=
      (core_resetCore k k s).trans (if_pos rfl)
    rw [hk]
    exact ⟨rfl, rfl, rfl, rfl, regWord_setRegWord .., fun j hj => (core_resetCore k j s).trans (if_neg hj), rfl, rfl, rfl⟩

end Sys2Proof.Machine
end

section
/-! PROOFS. The SFU table bank, its commit, compatibility mode and check injection (O11). -/
namespace Sys2Proof.Machine
open Sys2Proof

/-! ### The table bank -/

section
variable {s : State}

/-- The SFU with a word of one of its banks written. -/
def putSfuWord (b a v : Nat) (t : SfuSt) : SfuSt :=
  if b = 0 then { t with bank0 := smSet t.bank0 a v } else { t with bank1 := smSet t.bank1 a v }

theorem sfuWord_putSfuWord_same (b a v : Nat) (t : SfuSt) : sfuWord (putSfuWord b a v t) b a = v := by
  unfold putSfuWord sfuWord
  by_cases h : b = 0 <;> simp [h, smFind_set]

theorem sfuWord_putSfuWord_addr (b a v : Nat) (t : SfuSt) {j : Nat} (hj : j ≠ a) : sfuWord (putSfuWord b a v t) b j = sfuWord t b j := by
  unfold putSfuWord sfuWord
  by_cases h : b = 0 <;> simp [h, smFind_set, hj]

/-- The other bank keeps its words. -/
theorem sfuWord_putSfuWord_bank {b c : Nat} (a v : Nat) (t : SfuSt) (j : Nat) (h : (b = 0) ≠ (c = 0)) : sfuWord (putSfuWord b a v t) c j = sfuWord t c j := by
  unfold putSfuWord sfuWord
  by_cases hb : b = 0 <;> by_cases hc : c = 0 <;> simp_all

/-- A write of the data register writes the bank that is not active. -/
theorem writeTblData_free (w : Word) (hfree : oldInUse s = false) :
    writeTblData w s = modSfu (fun t => { putSfuWord (1 - t.active) t.addr w.toNat t with addr := (t.addr + 1) % 4096 }) s := by
  unfold writeTblData
  rw [hfree, if_neg Bool.false_ne_true]
  unfold modSfu putSfuWord
  dsimp only
  by_cases h : s.sfu.active = 0
  · rw [if_pos h, if_neg (by omega)]
  · rw [if_neg h, if_pos (by omega)]

theorem putSfuWord_fields (b a v : Nat) (t : SfuSt) : (putSfuWord b a v t).active = t.active ∧ (putSfuWord b a v t).addr = t.addr := by
  unfold putSfuWord
  split <;> exact ⟨rfl, rfl⟩

theorem execSfuTblDataRead_eq {p : Path} (hp : s.chip.powered = true) (hgate : regGate p 0x70 0x10C false s = none) :
    execSfuTblDataRead p s = .next (readTblData (emit (.reg p 0 [tblDataWord s]) s)) := by
  unfold execSfuTblDataRead
  rw [hp, hgate]
  rfl

/-! ### Commit -/

theorem tblCommit_good (hfree : oldInUse s = false) (hver : bits (sfuWord s.sfu (1 - s.sfu.active) 0) 7 0 = versionByte s)
    (hgood : ∀ a < 4096, tblWordBad a (sfuWord s.sfu (1 - s.sfu.active) a) = false) :
    tblCommit s = cntAdd 0x70 0x800 1 (modSfu (fun t => { t with active := 1 - s.sfu.active, result := 0, digest := some (sha3_512
      ((List.range 4096).flatMap fun w => leBytes 4 (sfuWord s.sfu (1 - s.sfu.active) w))) }) s) := by
  have hany : ((List.range 4096).any fun w => tblWordBad w (sfuWord s.sfu (1 - s.sfu.active) w)) = false :=
    List.any_eq_false.mpr fun w hw => Bool.not_eq_true _ ▸ hgood w (List.mem_range.mp hw)
  have hnone : tblRefusal s = none := by
    unfold tblRefusal
    rw [if_neg (not_not_intro hver), hany]
    rfl
  unfold tblCommit
  rw [hfree, if_neg Bool.false_ne_true, hnone]

theorem tblCommit_version (hfree : oldInUse s = false) (hver : bits (sfuWord s.sfu (1 - s.sfu.active) 0) 7 0 ≠ versionByte s) :
    tblCommit s = cntAdd 0x70 0x808 1 (modSfu (fun t => { t with result := 0x0001 }) s) := by
  have hsome : tblRefusal s = some 0x0001 := if_pos hver
  unfold tblCommit
  rw [hfree, if_neg Bool.false_ne_true, hsome]
  exact if_neg (by decide)

end

/-! ### Check injection -/

section
variable (k : Nat) (w : Word) (s : State)

/-- A write arms the injection where it sets ARM or ARM stands, unless it names no target. -/
def injectArms : Bool := (bit w.toNat 31 || injectArmed s k) && bits w.toNat 1 0 != 0

theorem regWord_writeInject :
    (regWord (writeInject k w s) (0x40 + k) 0x10C).toNat = w.toNat % 512 + if injectArms k w s then 2 ^ 31 else 0 := by
  unfold writeInject
  rw [regWord_setRegWord, BitVec.toNat_ofNat]
  have hlow : bits w.toNat 8 0 < 512 := Nat.mod_lt _ (by decide)
  refine Nat.mod_eq_of_lt ?_
  split <;> omega

theorem injectArmed_writeInject : injectArmed (writeInject k w s) k = injectArms k w s := by
  have hlow : w.toNat % 512 < 512 := Nat.mod_lt _ (by decide)
  unfold injectArmed bit
  rw [regWord_writeInject, Nat.shiftRight_eq_div_pow]
  cases injectArms k w s
  · have hdiv : (w.toNat % 512 + if false then 2 ^ 31 else 0) / 2 ^ 31 = 0 := by simp only [Bool.false_eq_true, if_false]; omega
    rw [hdiv]
    rfl
  · have hdiv : (w.toNat % 512 + if true then 2 ^ 31 else 0) / 2 ^ 31 = 1 := by simp only [if_true]; omega
    rw [hdiv]
    rfl

end

theorem and_low {x m n : Nat} (hx : x < 2 ^ n) (hm : m % 2 ^ n = 2 ^ n - 1) : x &&& m = x := by
  have hlt : x &&& m < 2 ^ n := Nat.lt_of_le_of_lt Nat.and_le_left hx
  rw [← Nat.mod_eq_of_lt hlt, Nat.and_mod_two_pow, hm, Nat.and_two_pow_sub_one_eq_mod, Nat.mod_mod, Nat.mod_eq_of_lt hx]

theorem and_high {x y n : Nat} (hx : x < 2 ^ n) (hy : y < 2 ^ n) : (x + 2 ^ n) &&& (y + 2 ^ n) = (x &&& y) + 2 ^ n := by
  have hor {z : Nat} (hz : z < 2 ^ n) : z + 2 ^ n = 2 ^ n ||| z := by
    have h := Nat.two_pow_add_eq_or_of_lt hz 1
    rw [Nat.mul_one] at h
    rw [Nat.add_comm, h]
  rw [hor hx, hor hy, hor (Nat.lt_of_le_of_lt Nat.and_le_left hx), Nat.or_and_distrib_left]

/-- The word keeps ARM and the target alone. -/
theorem regWord_writeInject_mask (k : Nat) (w : Word) (s : State) :
    regWord (writeInject k w s) (0x40 + k) 0x10C = regWord (writeInject k w s) (0x40 + k) 0x10C &&& 0x800001FF := by
  have hx : w.toNat % 512 < 2 ^ 9 := Nat.mod_lt _ (by decide)
  refine BitVec.eq_of_toNat_eq ?_
  rw [BitVec.toNat_and, regWord_writeInject]
  cases injectArms k w s
  · exact (and_low hx rfl).symm
  · exact ((and_high (Nat.lt_trans hx (by decide)) (by decide : 511 < 2 ^ 31)).trans (congrArg (· + 2 ^ 31) (and_low hx rfl))).symm

/-- Settles O11: the table by the words of its banks, the injection by the word its register keeps. -/
theorem functionTableResult : Obligations.FunctionTableResult := by
  unfold Obligations.FunctionTableResult
  refine ⟨fun s p w h => ⟨fun hfree => ?write, fun hbusy => (regRow_runs h _).trans (congrArg _ (if_pos hbusy))⟩,
    fun s p hp hgate => execSfuTblDataRead_eq hp hgate, fun s p h => ?commit, fun s p w h => ?compat, fun s p k w hk h => ?inject⟩
  case write =>
    obtain ⟨hact, _⟩ := putSfuWord_fields (1 - s.sfu.active) s.sfu.addr w.toNat s.sfu
    refine ⟨_, (regRow_runs h _).trans (congrArg _ (writeTblData_free w hfree)), rfl, hact, sfuWord_putSfuWord_same ..,
      fun a ha => sfuWord_putSfuWord_addr _ _ _ _ ha, fun a hle => sfuWord_putSfuWord_bank _ _ _ _ fun heq => ?_⟩
    have hiff : 1 - s.sfu.active = 0 ↔ s.sfu.active = 0 := Iff.of_eq heq
    omega
  case commit =>
    intro b
    refine ⟨fun hfree hver hgood => ?_, fun hfree hver => ?_, fun hbusy => (regRow_runs h _).trans (congrArg _ (if_pos hbusy))⟩
    · obtain ⟨m, hm⟩ := cntAdd_eq 0x70 0x800 1 (modSfu (fun t => { t with active := 1 - s.sfu.active, result := 0, digest := some (sha3_512
        ((List.range 4096).flatMap fun w => leBytes 4 (sfuWord s.sfu (1 - s.sfu.active) w))) }) s)
      exact ⟨_, (regRow_runs h _).trans (congrArg _ ((tblCommit_good hfree hver hgood).trans hm)), rfl, rfl, rfl, rfl, rfl⟩
    · obtain ⟨m, hm⟩ := cntAdd_eq 0x70 0x808 1 (modSfu (fun t => { t with result := 0x0001 }) s)
      exact ⟨_, (regRow_runs h _).trans (congrArg _ ((tblCommit_version hfree hver).trans hm)), rfl, rfl⟩
  case compat =>
    exact ⟨fun hl => (regRow_runs h _).trans (congrArg _ (if_neg (by simp [hl]))), fun hl => (regRow_runs h _).trans (congrArg _ (if_pos hl))⟩
  case inject =>
    have harm := injectArmed_writeInject k w s
    have htarget : (bits w.toNat 1 0 != 0) = true ↔ w.toNat % 4 ≠ 0 := bne_iff_ne
    refine ⟨writeInject k w s, (if_neg (Nat.not_le.mpr hk)).trans (regRow_runs h _), fun hbit hne => ?_, fun heq => ?_, fun hbit hne => ?_,
      regWord_writeInject_mask k w s, rfl, rfl⟩
    · rw [harm, injectArms, hbit, htarget.mpr hne]
      rfl
    · rw [harm, injectArms, Bool.eq_false_iff.mpr fun hn => htarget.mp hn heq, Bool.and_false]
    · rw [harm, injectArms, hbit, htarget.mpr hne, Bool.false_or, Bool.and_true]

end Sys2Proof.Machine
end

section
/-! PROOFS. OCM diagnostic mode, flip mask, Atoll, bank power, retention and the background test (O12). -/
namespace Sys2Proof.Machine
open Sys2Proof

/-- Two choices under equivalent conditions agree where their branches do. -/
theorem ite_of_iff {α : Sort _} {c d : Prop} [Decidable c] [Decidable d] {x y u v : α} (h : c ↔ d) (hx : x = u) (hy : y = v) :
    (if c then x else y) = if d then u else v :=
  ite_congr (propext h) (fun _ => hx) fun _ => hy

/-! ### Closing connections leaves the memories -/

/-- The on-chip memories and external memory are as they were. -/
structure SameMems (s t : State) : Prop where
  ocm : t.ocm = s.ocm
  xmc : t.xmc = s.xmc

theorem SameMems.refl (s : State) : SameMems s s := ⟨rfl, rfl⟩

theorem SameMems.trans {s t u : State} (a : SameMems s t) (b : SameMems t u) : SameMems s u := ⟨b.ocm.trans a.ocm, b.xmc.trans a.xmc⟩

theorem SameMems.foldl {α : Type} {f : State → α → State} (hf : ∀ s x, SameMems s (f s x)) (l : List α) (s : State) : SameMems s (l.foldl f s) := by
  induction l generalizing s with
  | nil => exact .refl s
  | cons x l ih => exact (hf s x).trans (ih _)

theorem Logs.sameMems {s t : State} (h : Logs s t) : SameMems s t := by
  obtain ⟨e, hd, c, q, o, rfl⟩ := h.only
  exact ⟨rfl, rfl⟩

theorem teardown_sameMems (c : Nat) (s : State) : SameMems s (teardown c s) := by
  unfold teardown
  dsimp only
  generalize (s.qcu.conns.filter fun e => (e.2.queue.map Prod.fst) == some c).map Prod.fst = l
  have h : SameMems s (l.foldl (fun s n => dropConn n (logState n 2 s)) s) := SameMems.foldl (f := fun s n => dropConn n (logState n 2 s)) (fun _ _ => ⟨rfl, rfl⟩) l s
  exact h.trans ⟨rfl, rfl⟩

theorem closeConn_sameMems (n st : Nat) (s : State) : SameMems s (closeConn n st s) := by
  have hdrop : SameMems s (dropConn n (logState n st s)) := ⟨rfl, rfl⟩
  unfold closeConn
  split
  · exact .refl s
  · split
    · exact hdrop.trans (teardown_sameMems ..)
    · exact hdrop

theorem stopTls_sameMems (s : State) : SameMems s (stopTls s) :=
  SameMems.foldl (fun s n => (emit_posts (.rst n) s).logs.sameMems.trans (closeConn_sameMems n 1 _)) _ s

/-! ### Test mode and flips -/

section
variable {s : State} {w : Word}

theorem writeDiag_enters (hbit : bit w.toNat 0 = true) (hrest : s.chart.enable = false) (hnone : s.ctxs = []) :
    writeDiag w s = modOcm (fun o => { o with diag := true }) s := by
  unfold writeDiag
  rw [if_pos hbit, if_neg (by simp [hrest, hnone])]

theorem writeDiag_refused (hbit : bit w.toNat 0 = true) (huse : s.chart.enable = true ∨ s.ctxs ≠ []) : writeDiag w s = cfgRefused s := by
  unfold writeDiag
  rw [if_pos hbit, if_pos (by simpa using huse)]

theorem writeDiag_leaves (hbit : bit w.toNat 0 = false) : writeDiag w s = modOcm (fun o => { o with diag := false }) s := if_neg (by simp [hbit])

/-- A path that a word does not deny reaches it by the rules of every word. -/
theorem guardRow_runs {p : Path} {page off : Nat} (hp : s.chip.powered = true) (hgate : regGate p page off true s = none)
    (hdeny : denyWord p page off w s = none) (f : State → State) : guardRow p page off w f s = .next (f s) := by
  unfold guardRow
  rw [hdeny]
  exact regRow_runs ⟨hp, hgate⟩ f

theorem guardRow_denied {p : Path} {page off : Nat} (hp : s.chip.powered = true) (hgate : regGate p page off true s = none)
    (hdeny : denyWord p page off w s = some 0x0004) (f : State → State) : guardRow p page off w f s = .next (emit (.reg p 0x0004 []) s) := by
  unfold guardRow
  rw [hdeny]
  dsimp only
  rw [if_pos hp, hgate]
  rfl

/-- A flip of an Atoll bank is for the management core alone. -/
theorem denyWord_flip {p : Path} :
    denyWord p 0x80 0x10C w s = if p ≠ .mgmt ∧ bit w.toNat 6 = false ∧ 64 - s.ocm.atoll ≤ w.toNat % 64 then some 0x0004 else none := by
  unfold denyWord
  by_cases hp : p = .mgmt
  · rw [if_pos hp, if_neg fun h => h.1 hp]
  · rw [if_neg hp, if_neg (by decide)]
    refine ite_of_iff ?_ rfl rfl
    simp [hp, bits_zero_mod]

/-! ### The Atoll -/

theorem ocmZero_spad (off n : Nat) (s : State) : (ocmZero none off n s).ocm.spad = smClear s.ocm.spad off (off + n) := by
  unfold ocmZero ocmClearErr
  dsimp only
  split <;> rfl

theorem ocmZero_atoll (off n : Nat) (s : State) : (ocmZero none off n s).ocm.atoll = s.ocm.atoll := by
  unfold ocmZero ocmClearErr
  dsimp only
  split <;> rfl

theorem ocmZero_xmc (off n : Nat) (s : State) : (ocmZero none off n s).xmc = s.xmc := by
  unfold ocmZero ocmClearErr
  dsimp only
  split <;> rfl

theorem loseKeys_mems (s : State) : SameMems s (stopTls (modMsp (fun m => { m with keysLoaded := false }) (cntAdd 0x80 0xB48 1 s))) := by
  have hcount : SameMems s (modMsp (fun m => { m with keysLoaded := false }) (cntAdd 0x80 0xB48 1 s)) := (cntAdd_logs ..).sameMems.trans ⟨rfl, rfl⟩
  exact hcount.trans (stopTls_sameMems _)

/-- A wipe zeroes the Atoll's banks and reaches no other memory. -/
theorem wipeAtoll_mems (s : State) : SameMems (ocmZero none ((64 - s.ocm.atoll) * 0x100000) (s.ocm.atoll * 0x100000) s) (wipeAtoll s) := by
  rw [wipeAtoll]
  exact loseKeys_mems _

/-- The banks that leave the scratchpad as the Atoll grows are out of use. -/
theorem leaving_free {n old : Nat} (hfree : ∀ b, 64 - n ≤ b → b < 64 - old → spadBankUsed s b = false) (hn : n ≤ 4) :
    (((List.range (n - old)).map fun i => 64 - n + i).any (spadBankUsed s)) = false := by
  rw [List.any_eq_false]
  intro b hb
  obtain ⟨i, hi, rfl⟩ := List.mem_map.mp hb
  have hlt := List.mem_range.mp hi
  rw [hfree _ (by omega) (by omega)]
  exact Bool.false_ne_true

/-- The on-chip memories with the Atoll's boundary moved, the banks that leave the scratchpad without their power fields. -/
def moveAtoll (n : Nat) (leaving : List Nat) (s : State) : State :=
  modOcm (fun o => { o with
    atoll := n, spadPwr := leaving.foldl (fun m b => smDel m b) o.spadPwr, spadPhys := leaving.foldl (fun m b => smDel m b) o.spadPhys }) s

theorem moveAtoll_atoll (n : Nat) (l : List Nat) (s : State) : (moveAtoll n l s).ocm.atoll = n := rfl
theorem moveAtoll_xmc (n : Nat) (l : List Nat) (s : State) : (moveAtoll n l s).xmc = s.xmc := rfl
theorem moveAtoll_spad (n : Nat) (l : List Nat) (s : State) : (moveAtoll n l s).ocm.spad = s.ocm.spad := rfl

theorem writeAtoll_eq {n : Nat} (hw : bits w.toNat 2 0 = n) (hn : n ≤ 4) (hne : n ≠ s.ocm.atoll)
    (hfree : ∀ b, 64 - n ≤ b → b < 64 - s.ocm.atoll → spadBankUsed s b = false) :
    writeAtoll w s = ocmZero none ((64 - max n s.ocm.atoll) * 0x100000) ((max n s.ocm.atoll - min n s.ocm.atoll) * 0x100000)
      (moveAtoll n ((List.range (n - s.ocm.atoll)).map fun i => 64 - n + i) (wipeAtoll s)) := by
  have hgo : ¬ (4 < n ∨ (((List.range (n - s.ocm.atoll)).map fun i => 64 - n + i).any (spadBankUsed s)) = true) := by
    rw [leaving_free hfree hn]
    exact fun hor => hor.elim (Nat.not_lt.mpr hn) Bool.false_ne_true
  rw [writeAtoll, hw, if_neg hgo, if_neg hne, moveAtoll]

/-- Two ranges zeroed one after the other: what the scratchpad then holds. -/
theorem spad_zeroTwice {lo len lo' len' n : Nat} {l : List Nat} {u v : State} (hu : SameMems (ocmZero none lo len v) u) (a : Nat) :
    smGet 0 (ocmZero none lo' len' (moveAtoll n l u)).ocm.spad a =
      if lo' ≤ a ∧ a < lo' + len' then 0 else if lo ≤ a ∧ a < lo + len then 0 else smGet 0 v.ocm.spad a := by
  rw [ocmZero_spad, smGet_clear]
  refine ite_of_iff Iff.rfl rfl ?_
  rw [← smGet_clear, ← ocmZero_spad, ← hu.ocm, moveAtoll_spad]

/-- A resize moves the boundary, zeroes the banks between the two boundaries and keeps what lies below both. -/
theorem writeAtoll_resizes {n : Nat} (hw : w.toNat % 8 = n) (hn : n ≤ 4) (hne : n ≠ s.ocm.atoll)
    (hfree : ∀ b, 64 - n ≤ b → b < 64 - s.ocm.atoll → spadBankUsed s b = false) :
    (writeAtoll w s).ocm.atoll = n ∧ (writeAtoll w s).xmc = s.xmc ∧
      ∀ a, ((64 - max n s.ocm.atoll) * 0x100000 ≤ a → a < (64 - min n s.ocm.atoll) * 0x100000 → smGet 0 (writeAtoll w s).ocm.spad a = 0) ∧
        (a < (64 - max n s.ocm.atoll) * 0x100000 → smGet 0 (writeAtoll w s).ocm.spad a = smGet 0 s.ocm.spad a) := by
  have hwipe := wipeAtoll_mems s
  rw [writeAtoll_eq hw hn hne hfree, ocmZero_atoll, ocmZero_xmc, moveAtoll_atoll, moveAtoll_xmc, hwipe.xmc, ocmZero_xmc]
  refine ⟨rfl, rfl, fun a => ?_⟩
  rw [spad_zeroTwice hwipe]
  generalize 0x100000 = bytes
  refine ⟨fun hlo hhi => ?_, fun hlo => ?_⟩
  · have hend : (64 - min n s.ocm.atoll) * bytes ≤ (64 - max n s.ocm.atoll) * bytes + (max n s.ocm.atoll - min n s.ocm.atoll) * bytes := by
      rw [← Nat.add_mul]
      exact Nat.mul_le_mul_right _ (by omega)
    rw [if_pos ⟨hlo, Nat.lt_of_lt_of_le hhi hend⟩]
  · have hbelow : (64 - max n s.ocm.atoll) * bytes ≤ (64 - s.ocm.atoll) * bytes := Nat.mul_le_mul_right _ (by omega)
    rw [if_neg fun h => Nat.not_le.mpr hlo h.1, if_neg fun h => Nat.not_le.mpr (Nat.lt_of_lt_of_le hlo hbelow) h.1]

theorem writeAtoll_refused (hw : 4 < w.toNat % 8) : writeAtoll w s = cfgRefused s := if_pos (Or.inl hw)

/-! ### Bank power -/

/-- The banks of a scratchpad power register with their fields. -/
theorem pwrBanks_fields {off : Nat} (hoff : off ≠ 0x134) (w : Word) (s : State) :
    ((pwrBanks s off).zipIdx.map fun e => (e.1, bits w.toNat (2 * e.2 + 1) (2 * e.2))) =
      (List.range 16).map fun i => (BankId.spad ((off - 0x140) / 4 * 16 + i), bits w.toNat (2 * i + 1) (2 * i)) := by
  unfold pwrBanks
  rw [if_neg hoff]
  rfl

theorem writeBankPwr_eq {off : Nat} (hoff : off ≠ 0x134) :
    writeBankPwr off w s =
      if ((List.range 16).any fun i => bankInUse s (.spad ((off - 0x140) / 4 * 16 + i)) (bits w.toNat (2 * i + 1) (2 * i))) = true
      then advisory 0x80 5 0x8006 0 0 s
      else (List.range 16).foldl (fun s i => setBankPwr (.spad ((off - 0x140) / 4 * 16 + i)) (bits w.toNat (2 * i + 1) (2 * i)) s) s := by
  unfold writeBankPwr
  dsimp only
  rw [pwrBanks_fields hoff, if_neg fun h => hoff h.1, List.any_map, List.foldl_map]
  rfl

theorem bankPwr_setPhys (b c : BankId) (p : Phys) (s : State) : bankPwr (setPhys b p s) c = bankPwr s c := by
  cases b <;> cases c <;> rfl

theorem bankPhys_setPhys (b : BankId) (p : Phys) (s : State) : bankPhys (setPhys b p s) b = p := by
  cases b <;> exact (smGet_put ..).trans (if_pos rfl)

theorem bankPwr_loseBank (b : Nat) (c : BankId) (s : State) : bankPwr (loseBank (.spad b) s) c = bankPwr s c := by
  unfold loseBank ocmZero ocmClearErr
  dsimp only
  split <;> cases c <;> rfl

/-- The bank's field is programmed, whatever its physical state becomes. -/
theorem bankPwr_setBankPwr (b v : Nat) (s : State) : bankPwr (setBankPwr (.spad b) v s) (.spad b) = v := by
  have hput : bankPwr (modOcm (fun o => { o with spadPwr := smPut 0 o.spadPwr b v }) s) (.spad b) = v := (smGet_put ..).trans (if_pos rfl)
  unfold setBankPwr
  dsimp only
  split
  · split
    · exact hput
    · rw [bankPwr_setPhys, bankPwr_loseBank]
      exact hput
  · split
    · rw [bankPwr_setPhys]
      exact hput
    · split
      · exact hput
      · rw [bankPwr_setPhys]
        exact hput

theorem setBankPwr_off {b : Nat} (hwas : bankPwr s (.spad b) ≠ 2) :
    setBankPwr (.spad b) 2 s = setPhys (.spad b) .off (ocmZero none (b * 0x100000) 0x100000 (modOcm (fun o => { o with spadPwr := smPut 0 o.spadPwr b 2 }) s)) := by
  rw [setBankPwr, if_pos rfl, if_neg hwas, loseBank]

theorem spad_setPhys (b : BankId) (p : Phys) (s : State) : (setPhys b p s).ocm.spad = s.ocm.spad := by cases b <;> rfl

/-- OFF zeroes the bank. -/
theorem spad_setBankPwr_off {b a : Nat} (hwas : bankPwr s (.spad b) ≠ 2) (hlo : b * 0x100000 ≤ a) (hhi : a < (b + 1) * 0x100000) :
    smGet 0 (setBankPwr (.spad b) 2 s).ocm.spad a = 0 := by
  rw [setBankPwr_off hwas, spad_setPhys, ocmZero_spad, smGet_clear]
  exact if_pos ⟨hlo, by omega⟩

/-! ### Retention -/

theorem execAutoRetention_idle {b : BankId} (hb : bankOk b = true) (hauto : bankPwr s b = 3) (hon : bankPhys s b = .on) :
    execAutoRetention b s = .next (setPhys b .ret s) := by
  unfold execAutoRetention
  rw [hb, hauto, hon]
  rfl

/-- What decides a bank's power does not look at counters. -/
theorem bankState_cntAdd (page off n : Nat) (b : BankId) (s : State) :
    bankPwr (cntAdd page off n s) b = bankPwr s b ∧ bankHeld (cntAdd page off n s) b = bankHeld s b := by
  obtain ⟨m, hm⟩ := cntAdd_eq page off n s
  rw [hm]
  cases b <;> exact ⟨rfl, rfl⟩

/-- An access wakes a bank in retention: counted, and left on where nothing holds it in retention. -/
theorem execBankWake_retained {b : BankId} (hb : bankOk b = true) (hret : bankPhys s b = .ret) :
    execBankWake b s = .next (if (bankPwr s b = 1 || bankHeld s b) = true then cntAdd 0x80 0xB10 1 s else setPhys b .on (cntAdd 0x80 0xB10 1 s)) := by
  obtain ⟨hpwr, hheld⟩ := bankState_cntAdd 0x80 0xB10 1 b s
  unfold execBankWake touchBank
  rw [hb, hret]
  dsimp only
  rw [hpwr, hheld]
  rfl

/-! ### The background test -/

/-- The region that a test engine takes in bank `b`. -/
def bgtTaken (core : Option Nat) (b : Nat) (s : State) : Nat := if b = (bgtPos s core).bank then (bgtPos s core).region else 0

/-- The engine moved on past that region. -/
def bgtMoved (core : Option Nat) (b : Nat) (s : State) : State :=
  setBgt core (if bgtTaken core b s + 1 < (bgtDims core).2 then ⟨b, bgtTaken core b s + 1⟩ else ⟨(b + 1) % (bgtDims core).1, 0⟩) s

section
variable {core : Option Nat} {b : Nat} (hskip : bgtSkip s core (bgtDims core).1 (bgtPos s core).bank = some b)
include hskip

theorem bgtRegion_abandoned : bgtRegion core .abandoned s = cntAdd 0x80 0xB28 1 (bgtMoved core b s) := by
  rw [bgtRegion, hskip]
  rfl

theorem bgtRegion_clean {t : State} (hsave : bgtSave core b (bgtTaken core b s * 256) 256 (bgtMoved core b s) = (none, t)) :
    bgtRegion core .clean s = cntAdd 0x80 0xB20 1 t := by
  unfold bgtMoved bgtTaken at hsave
  rw [bgtRegion, hskip]
  dsimp only
  rw [hsave]

theorem bgtRegion_mismatch {t : State} {i : Nat} (hsave : bgtSave core b (bgtTaken core b s * 256) 256 (bgtMoved core b s) = (none, t)) :
    bgtRegion core (.mismatch i) s =
      cntAdd 0x80 0xB20 1 (testFail (bankWord core b (bgtTaken core b s * 256 + i % 256)) false (cntAdd 0x80 0xB38 1 t)) := by
  unfold bgtMoved bgtTaken at hsave
  rw [bgtRegion, hskip]
  dsimp only
  rw [hsave]
  rfl

end

theorem execBgtRegionStart_runs {core : Option Nat} (out : MarchOut)
    (hruns : match core with
      | none => regFld s 0x80 0x11C 1 1 = 1 ∧ chartPs s ≠ 4
      | some k => k < 48 ∧ regFld s 0x80 0x11C 0 0 = 1 ∧ chartPs s < 3) :
    execBgtRegionStart core out s = .next (bgtRegion core out s) := by
  unfold execBgtRegionStart
  cases core with
  | none => exact if_pos hruns
  | some k => exact (if_neg (Nat.not_le.mpr hruns.1)).trans (if_pos hruns.2)

end

/-- Settles O12: each command and event by what it does to the on-chip memories' control state. -/
theorem onChipMemoryControlResult : Obligations.OnChipMemoryControlResult := by
  unfold Obligations.OnChipMemoryControlResult
  refine ⟨⟨fun s p w h => ?diag, fun s p w hp hgate harm => ?flip, fun s w h => ?atoll, fun s p w hne hp hgate => ?deny, fun s p off w hoff h => ?power,
    fun s b v hv => ?program, fun s b hb => ?retention⟩, fun s core out b hruns hskip => ?region⟩
  case diag =>
    exact ⟨fun hbit hrest hnone => (regRow_runs h _).trans (congrArg _ (writeDiag_enters hbit hrest hnone)),
      fun hbit huse => (regRow_runs h _).trans (congrArg _ (writeDiag_refused hbit huse)),
      fun hbit => (regRow_runs h _).trans (congrArg _ (writeDiag_leaves hbit))⟩
  case flip =>
    refine ⟨fun hallow => ⟨_, guardRow_runs hp hgate (denyWord_flip.trans (if_neg ?_)) _, ?_⟩,
      fun hne h6 hatoll => guardRow_denied hp hgate (denyWord_flip.trans (if_pos ⟨hne, h6, hatoll⟩)) _⟩
    · rintro ⟨hne, h6, hatoll⟩
      rcases hallow with hm | hbit | hlow
      · exact hne hm
      · exact Bool.false_ne_true (h6.symm.trans hbit)
      · omega
    · unfold writeFlipSel
      rw [if_pos harm]
      exact ⟨rfl, rfl, rfl⟩
  case atoll =>
    have hex : execAtollResize .mgmt w s = .next (writeAtoll w s) := guardRow_runs h.powered h.allowed rfl _
    exact ⟨fun hn hne hfree => ⟨_, hex, writeAtoll_resizes rfl hn hne hfree⟩, fun hbig => hex.trans (congrArg _ (writeAtoll_refused hbig))⟩
  case deny => exact guardRow_denied hp hgate ((if_neg hne).trans rfl) _
  case power =>
    have hno : off ≠ 0x134 := by rintro rfl; revert hoff; decide
    have hin : pwrOffs.contains off = true := List.contains_iff_mem.mpr (List.mem_cons_of_mem _ hoff)
    have hex : execBankPowerWrite p off w s = .next (writeBankPwr off w s) := (if_pos hin).trans (regRow_runs h _)
    refine ⟨fun hfree => hex.trans (congrArg _ ((writeBankPwr_eq hno).trans (if_neg ?_))), fun ⟨i, hi, huse⟩ => hex.trans (congrArg _ ((writeBankPwr_eq hno).trans (if_pos ?_)))⟩
    · simpa using fun i hi => hfree i hi
    · exact List.any_eq_true.mpr ⟨i, List.mem_range.mpr hi, huse⟩
  case program =>
    refine ⟨bankPwr_setBankPwr b v s, fun hv2 hwas => ?_⟩
    subst hv2
    exact ⟨by rw [setBankPwr_off hwas, bankPhys_setPhys], fun a hlo hhi => spad_setBankPwr_off hwas hlo hhi⟩
  case retention =>
    refine ⟨fun hauto hon => execAutoRetention_idle hb hauto hon, fun hret hpwr hheld => (execBankWake_retained hb hret).trans (congrArg _ (if_neg ?_)),
      fun hret hpwr => (execBankWake_retained hb hret).trans (congrArg _ (if_pos ?_))⟩
    · simp [hpwr, hheld]
    · simp [hpwr]
  case region =>
    have hex := execBgtRegionStart_runs out hruns
    intro r next
    refine ⟨fun hout => ?_, fun t hout hsave => ?_, fun t i hout hsave => ?_⟩
    · subst hout
      exact hex.trans (congrArg _ (bgtRegion_abandoned hskip))
    · subst hout
      exact hex.trans (congrArg _ (bgtRegion_clean hskip hsave))
    · subst hout
      exact hex.trans (congrArg _ (bgtRegion_mismatch hskip hsave))

end Sys2Proof.Machine
end

section
/-! PROOFS. XMC flip mask, scrub and tracking commands (O13). -/
namespace Sys2Proof.Machine
open Sys2Proof

section
variable {s : State} {w : Word}

theorem execXmcFlipArm_runs {p : Path} {ch : Nat} (hch : ch < 32) (h : Reaches s p (0x90 + ch / 2) (0x10C + 0x20 * (ch % 2))) :
    execXmcFlipArm p ch s = .next (armFlip ch s) := (if_neg (Nat.not_le.mpr hch)).trans (regRow_runs h _)

/-! ### The scrubber -/

theorem storeRw_xmc (page off : Nat) (w : Word) (s : State) : (storeRw page off w s).xmc = s.xmc := rfl

theorem writeScrubCtrl_go (hgo : bit w.toNat 0 = true) (habort : bit w.toNat 1 = false) : writeScrubCtrl w s = scrubGo (storeRw 0x90 0x200 w s) := by
  unfold writeScrubCtrl
  rw [hgo, habort]
  rfl

theorem writeScrubCtrl_abort (hgo : bit w.toNat 0 = false) (habort : bit w.toNat 1 = true) :
    writeScrubCtrl w s = scrubAbort (storeRw 0x90 0x200 w s) := by
  unfold writeScrubCtrl
  rw [hgo, habort]
  rfl

/-- The counts of a scrub at 0. -/
def scrubZero (s : State) : State := cntSet 0x90 0xA10 0 (cntSet 0x90 0xA08 0 (cntSet 0x90 0xA00 0 s))

theorem scrubGo_busy (hbusy : s.xmc.scrub.busy = true) : scrubGo s = advisory 0x90 5 0x9006 0 0 s := if_pos hbusy

theorem scrubGo_starts (hidle : s.xmc.scrub.busy = false) (hle : scrubAddr s 0x208 ≤ scrubAddr s 0x210) (hend : scrubAddr s 0x210 ≤ 0x7FFFFFFFC0) :
    scrubGo s = modXmc (fun x => { x with scrub :=
      { busy := true, done := false, aborted := false, rangeErr := false, first := scrubAddr s 0x208 / 64, last := scrubAddr s 0x210 / 64,
        firstFail := none, lastFail := 0 } }) (scrubZero s) := by
  have hgood : ¬ (scrubAddr s 0x210 < scrubAddr s 0x208 ∨ 0x7FFFFFFFC0 < scrubAddr s 0x208 ∨ 0x7FFFFFFFC0 < scrubAddr s 0x210) := by omega
  rw [scrubGo, if_neg (by simp [hidle]), if_neg hgood, scrubZero]

theorem scrubGo_range (hidle : s.xmc.scrub.busy = false) (hlt : scrubAddr s 0x210 < scrubAddr s 0x208) :
    scrubGo s = modXmc (fun x => { x with scrub := { x.scrub with done := true, aborted := false, rangeErr := true, firstFail := none } }) (scrubZero s) := by
  rw [scrubGo, if_neg (by simp [hidle]), if_pos (Or.inl hlt), scrubZero]

theorem scrubAbort_idle (hidle : s.xmc.scrub.busy = false) : scrubAbort s = s := if_pos (by simp [hidle])

/-- A scrub that runs is ended after some of its bursts. -/
theorem scrubAbort_runs (hbusy : s.xmc.scrub.busy = true) :
    ∃ n, n ≤ s.xmc.scrub.last - s.xmc.scrub.first + 1 ∧ scrubAbort s = endScrub true (scrubRead n (draw s).2) := by
  refine ⟨(draw s).1 % (s.xmc.scrub.last - s.xmc.scrub.first + 2), Nat.le_of_lt_succ (Nat.mod_lt _ (Nat.succ_pos _)), ?_⟩
  unfold scrubAbort
  rw [hbusy]
  rfl

theorem execScrubDone_runs (hbusy : s.xmc.scrub.busy = true) :
    execScrubDone s = .next (endScrub false (scrubRead (s.xmc.scrub.last - s.xmc.scrub.first + 1) s)) := if_pos hbusy

/-- The end of a scrub keeps what the memories hold. -/
theorem endScrub_sameMems (aborted : Bool) (hbusy : s.xmc.scrub.busy = true) :
    SameMems (modXmc (fun x => { x with scrub := { x.scrub with busy := false, done := true, aborted := aborted } }) s) (endScrub aborted s) := by
  unfold endScrub
  rw [if_neg (by simp [hbusy])]
  dsimp only
  split
  · exact (advisory_logs ..).sameMems
  · exact .refl _

/-! ### Tracking -/

/-- What tracking stores; the advisory where the drift first reaches its end. -/
theorem execXmcTracking_runs {ch rate : Nat} (atEnd : Bool) (hch : ch < 32) (hrate : rate < 3) (htrained : (chan s ch).trained = true)
    (hawake : (chan s ch).selfRefresh = false) :
    let t := modChan ch (fun c => { c with rate := rate, drift := c.drift || atEnd }) s
    execXmcTracking ch rate atEnd s = .next (if (atEnd && !(chan s ch).drift) = true then advisory (0x90 + ch / 2) 3 0x9004 0 0 t else t) := by
  have hok : ¬ (32 ≤ ch ∨ 3 ≤ rate) := by omega
  have hup : ¬ ((!(chan s ch).trained) = true ∨ (chan s ch).selfRefresh = true) := by simp [htrained, hawake]
  exact (if_neg hok).trans (if_neg hup)

end

/-- Settles O13: each command by what it does to the scrub or the channel. -/
theorem externalMemoryControlResult : Obligations.ExternalMemoryControlResult := by
  unfold Obligations.ExternalMemoryControlResult
  refine ⟨fun s p ch hch h => execXmcFlipArm_runs hch h, fun s p w h hgo habort => ?go, fun s p w h hgo habort => ?abort,
    fun s hbusy => execScrubDone_runs hbusy, fun s aborted hbusy => ?ended, fun s ch rate atEnd hch hrate htrained hawake => ?tracking⟩
  case go =>
    have hex := regRow_runs h (writeScrubCtrl w)
    rw [writeScrubCtrl_go hgo habort] at hex
    exact ⟨fun hbusy => hex.trans (congrArg _ (scrubGo_busy hbusy)), fun hidle hle hend => hex.trans (congrArg _ (scrubGo_starts hidle hle hend)),
      fun hidle hlt => hex.trans (congrArg _ (scrubGo_range hidle hlt))⟩
  case abort =>
    have hex := regRow_runs h (writeScrubCtrl w)
    rw [writeScrubCtrl_abort hgo habort] at hex
    refine ⟨fun hidle => hex.trans (congrArg _ (scrubAbort_idle hidle)), fun hbusy => ?_⟩
    obtain ⟨n, hn, hab⟩ := scrubAbort_runs (s := storeRw 0x90 0x200 w s) hbusy
    exact ⟨n, hn, _, rfl, hex.trans (congrArg _ hab)⟩
  case ended =>
    obtain ⟨hocm, hxmc⟩ := endScrub_sameMems aborted hbusy
    intro t
    rw [hxmc, hocm]
    exact ⟨rfl, rfl, rfl⟩
  case tracking =>
    have hex := execXmcTracking_runs atEnd hch hrate htrained hawake
    refine ⟨fun hend hdrift => hex.trans (congrArg _ (if_pos ?_)), fun hor => hex.trans (congrArg _ (if_neg ?_))⟩
    · simp [hend, hdrift]
    · rcases hor with h | h <;> simp [h]

end Sys2Proof.Machine
end

section
/-! PROOFS. SPECIAL FN (O26) and NARROW (O28). -/
namespace Sys2Proof.Machine
open Sys2Proof

/-! ### Elements -/

theorem elems_eq (ty n : Nat) (b : List Byte) : elems ty n b = (List.range n).map (elAt ty b) := by
  refine List.map_congr_left fun i _ => ?_
  unfold elAt elBytes
  by_cases h : ty = 0 <;> simp [h]

theorem zipIdx_map_range {α β : Type} (n : Nat) (f : Nat → α) (g : α × Nat → β) :
    ((List.range n).map f).zipIdx.map g = (List.range n).map fun i => g (f i, i) := by
  refine List.ext_getElem (by simp) fun i h1 h2 => ?_
  simp

theorem rdThen_zero (s : State) (k : Nat) (f : List Byte → State → Res) (n a : Nat) : rdThen k n a 0 s f = f [] s := if_pos rfl

/-! ### SPECIAL FN -/

section
variable {s : State} {k : Nat} {f : IFields} {r : Run} {c : Ctx} {st : Step} {n : Nat}

/-- The fields of a SPECIAL FN are in range and its operands can be reached, its bias apart. -/
structure SpecialReady (s : State) (k : Nat) (f : IFields) (r : Run) (st : Step) (n : Nat) : Prop where
  brake : brakeLevel s = false
  rsvd : modBad f 0 = false
  fn : extF f 4 0 ≤ 11
  source : extF f 7 6 < 3
  dest : extF f 9 8 < 3
  rd : f.rd.toNat < 8
  ra : f.ra.toNat < 8
  beta : extF f 4 0 = 11 → betaGood (extF f 63 32) = true
  count : n = (getS r f.rc).toNat
  lo : 1 ≤ n
  hi : n ≤ 2 ^ 24
  alignedX : (getA r f.ra).toNat % elBytes (extF f 7 6) = 0
  alignedD : (getA r f.rd).toNat % elBytes (extF f 9 8) = 0
  reads : CanRead s k r st (Ext.one (getA r f.ra).toNat (n * elBytes (extF f 7 6)))
  writes : CanWrite s k r (Ext.one (getA r f.rd).toNat (n * elBytes (extF f 9 8)))

/-- What SPECIAL FN stores outside the compatibility mode. -/
def specialOut (f : IFields) (n : Nat) (bx : List Byte) (b : Nat → Nat) (sfu : SfuCtx) : List Byte :=
  unElems (extF f 9 8) ((List.range n).map fun i =>
    fmul (sfuEval sfu (extF f 4 0) (extF f 63 32) (fadd (elAt (extF f 7 6) bx i) (b i))) f.imm.toNat)

/-- Outside the compatibility mode an element is the function's value at the sum with its bias, scaled. -/
theorem specialEl_eq {sfu : SfuCtx} (hcompat : sfu.compat = false) (fn beta g x b : Nat) :
    specialEl sfu fn beta g x b = fmul (sfuEval sfu fn beta (fadd x b)) g := by
  simp [specialEl, hcompat]

theorem specialOut_eq {sfu : SfuCtx} (hcompat : sfu.compat = false) (bx : List Byte) (b : Nat → Nat) :
    (unElems (extF f 9 8) ((elems (extF f 7 6) n bx).zipIdx.map fun p =>
      specialEl sfu (extF f 4 0) (extF f 63 32) f.imm.toNat p.1 (b p.2))) = specialOut f n bx b sfu := by
  rw [elems_eq, zipIdx_map_range]
  simp only [specialEl_eq hcompat]
  rfl

variable (h : CoreRuns s k r c st) (hr : SpecialReady s k f r st n)
include h hr

/-- Without BIAS each element is taken alone. -/
theorem execSpecialFn_plain (hbias : extF f 5 5 = 0) {bx : List Byte} {s1 u : State}
    (hx : instrRead s k r.ctx (getA r f.ra).toNat (n * elBytes (extF f 7 6)) = (.data bx, s1)) (hcompat : (stepSfu s1 st).compat = false)
    (hu : writeWin k r.ctx (getA r f.rd).toNat (specialOut f n bx (fun _ => 0) (stepSfu s1 st)) s1 = (none, u)) :
    execSpecialFn k f s = .next (advance k (cntAdd (0x40 + k) 0xA08 n u)) := by
  obtain ⟨hbr, hrsvd, hfn, htx, htd, hrd, hra, hbeta, hn, hlo, hhi, hxa, hda, hread, hwrite⟩ := hr
  have hout := specialOut_eq (f := f) (n := n) hcompat bx fun _ => 0
  unfold execSpecialFn
  dsimp only
  rw [vsuInsn_runs h _ (by simp) ?bad hbr, ← hn, hbias, afterChecks_none ?checks, rdThen_data hx]
  case bad =>
    have hb : extF f 4 0 = 11 → betaGood (extF f 63 32) = true := hbeta
    simp [hrsvd, aBad_false hrd, aBad_false hra, hbias, Nat.ne_of_lt htx, Nat.ne_of_lt htd, hfn]
    exact hb
  case checks => simp [-Nat.reducePow, chkCount_none hlo hhi, chkAlign_none hxa, chkAlign_none hda, chkRd_none hread, chkWr_none hwrite]
  show rdThen k r.ctx _ 0 s1 _ = _
  rw [rdThen_zero]
  show wrThen k r.ctx _ (unElems (extF f 9 8) ((elems (extF f 7 6) n bx).zipIdx.map fun p =>
    specialEl (stepSfu s1 st) (extF f 4 0) (extF f 63 32) f.imm.toNat p.1 0)) s1 _ = _
  rw [hout, wrThen_done hu]
  rfl

/-- With BIAS each element takes the bias of its column. -/
theorem execSpecialFn_biased (hbias : extF f 5 5 = 1) (hrb : f.rb.toNat < 8) (hlen : 1 ≤ extF f 29 10) (hya : (getA r f.rb).toNat % 4 = 0)
    (hready : CanRead s k r st (Ext.one (getA r f.rb).toNat (4 * min n (extF f 29 10)))) {bx bb : List Byte} {s1 s2 u : State}
    (hx : instrRead s k r.ctx (getA r f.ra).toNat (n * elBytes (extF f 7 6)) = (.data bx, s1))
    (hy : instrRead s1 k r.ctx (getA r f.rb).toNat (4 * min n (extF f 29 10)) = (.data bb, s2)) (hcompat : (stepSfu s2 st).compat = false)
    (hu : writeWin k r.ctx (getA r f.rd).toNat (specialOut f n bx (fun i => fld bb (4 * (i % extF f 29 10)) 4) (stepSfu s2 st)) s2 = (none, u)) :
    execSpecialFn k f s = .next (advance k (cntAdd (0x40 + k) 0xA08 n u)) := by
  obtain ⟨hbr, hrsvd, hfn, htx, htd, hrd, hra, hbeta, hn, hlo, hhi, hxa, hda, hread, hwrite⟩ := hr
  have hout := specialOut_eq (f := f) (n := n) hcompat bx fun i => fld bb (4 * (i % extF f 29 10)) 4
  unfold execSpecialFn
  dsimp only
  rw [vsuInsn_runs h _ (by simp) ?bad hbr, ← hn, hbias, afterChecks_none ?checks, rdThen_data hx]
  case bad =>
    have hb : extF f 4 0 = 11 → betaGood (extF f 63 32) = true := hbeta
    simp [hrsvd, aBad_false hrd, aBad_false hra, aBad_false hrb, Nat.ne_of_gt hlen, Nat.ne_of_lt htx, Nat.ne_of_lt htd, hfn]
    exact hb
  case checks =>
    simp [-Nat.reducePow, chkCount_none hlo hhi, chkAlign_none hxa, chkAlign_none hda, chkAlign_none hya, chkRd_none hread, chkRd_none hready, chkWr_none hwrite]
  show rdThen k r.ctx _ (4 * min n (extF f 29 10)) s1 _ = _
  rw [rdThen_data hy]
  show wrThen k r.ctx _ (unElems (extF f 9 8) ((elems (extF f 7 6) n bx).zipIdx.map fun p =>
    specialEl (stepSfu s2 st) (extF f 4 0) (extF f 63 32) f.imm.toNat p.1 (fld bb (4 * (p.2 % extF f 29 10)) 4))) s2 _ = _
  rw [hout, wrThen_done hu]
  rfl

end

/-- Settles O26: with BIAS and without it. -/
theorem specialFunctionResult : Obligations.SpecialFunctionResult := by
  unfold Obligations.SpecialFunctionResult
  rintro s k f r c st fn n tx td x y d len h hbr hrsvd hn rfl rfl rfl rfl rfl rfl rfl hfn htx htd hrd hra hbeta hlo hhi hxa hda hread hwrite bx s1 hx stored
  have hr : SpecialReady s k f r st n := ⟨hbr, hrsvd, hfn, htx, htd, hrd, hra, hbeta, hn, hlo, hhi, hxa, hda, hread, hwrite⟩
  exact ⟨fun hbias hcompat u hu => execSpecialFn_plain h hr hbias hx hcompat hu,
    fun bb s2 hbias hrb hlen hya hready hy hcompat u hu => execSpecialFn_biased h hr hbias hrb hlen hya hready hx hy hcompat hu⟩

/-! ### NARROW -/

section
variable {s : State} {k : Nat} {f : IFields} {r : Run} {c : Ctx} {st : Step} {e n : Nat} {t : Tensor}

/-- The fields of a NARROW are in range and its point is an activation's. -/
structure NarrowTaken (s : State) (f : IFields) (r : Run) (c : Ctx) (e : Nat) (t : Tensor) (n : Nat) : Prop where
  brake : brakeLevel s = false
  point : actEntry c.pkg (extF f 11 0) = some (e, t)
  count : n = (getS r f.rc).toNat
  type : extF f 13 12 < 3
  ra : f.ra.toNat < 8
  rd : f.rd.toNat < 8
  rsvd : modBad f 1 = false

/-- Its operands in the form `i16` can be reached, and its source holds finite elements. -/
structure NarrowReady (s : State) (k : Nat) (f : IFields) (r : Run) (c : Ctx) (st : Step) (t : Tensor) (n : Nat) (i16 : Bool) (b : List Byte) (s2 : State) : Prop where
  alignedX : (getA r f.ra).toNat % elBytes (extF f 13 12) = 0
  alignedD : (getA r f.rd).toNat % (if i16 then 2 else 1) = 0
  reads : CanRead s k r st (Ext.one (getA r f.ra).toNat (n * elBytes (extF f 13 12)))
  writes : CanWrite s k r (Ext.one (getA r f.rd).toNat (n * if i16 then 2 else 1))
  source : ∃ s1, instrRead s k r.ctx (getA r f.ra).toNat (n * elBytes (extF f 13 12)) = (.data b, s1) ∧ histCheck c t.histIdx s1 = (true, s2)
  finite : ∀ i < n, isFin (elAt (extF f 13 12) b i) = true

/-- The elements narrowed with A = `a`, each with whether it saturates. -/
def narrowPairs (f : IFields) (n : Nat) (b : List Byte) (a : Nat) (i16 : Bool) : List (Int × Bool) :=
  (List.range n).map fun i => narrowEl (formQ i16) (fdiv (fofInt (formQ i16)) a) (elAt (extF f 13 12) b i)

theorem narrowAll_eq (b : List Byte) (a : Nat) (i16 : Bool) :
    narrowAll i16 a ((List.range n).map (elAt (extF f 13 12) b)) =
      ((narrowPairs f n b a i16).map Prod.fst, ((narrowPairs f n b a i16).filter Prod.snd).length) := by
  simp only [narrowAll, narrowPairs, List.map_map]
  rfl

theorem narrowBytes_map (i16 : Bool) (l : List (Int × Bool)) :
    narrowBytes i16 (l.map Prod.fst) = l.flatMap fun p => leBytes (if i16 then 2 else 1) (toBits (8 * if i16 then 2 else 1) p.1) := by
  unfold narrowBytes
  rw [List.flatMap_map]
  cases i16 <;> rfl

/-- The state that a narrowing leaves: its point recorded, its elements, saturations and re-run counted, its form in S[RB]. -/
def narrowDone (k : Nat) (f : IFields) (r : Run) (e n : Nat) (np : NpSt) (sat : Nat) (u : State) : State :=
  let u := modCtx r.ctx (fun c => { c with step := c.step.map fun st => { st with np := smSet st.np e np } }) u
  let u := cntAdd (0x40 + k) 0xA00 n (cntAdd (0x40 + k) 0xA28 n (cntAdd (0x40 + k) 0xA30 sat u))
  advance k (modRunOf k (fun x => setS x f.rb (if np.int16 then 1 else 0)) (if np.rerun then cntAdd (0x40 + k) 0xA38 1 u else u))

variable (h : CoreRuns s k r c st) (ht : NarrowTaken s f r c e t n)
include h ht

/-- A second plain narrowing, or a re-run that no verdict asks for, is SCALE_REUSE. -/
theorem execNarrow_reuse (hreuse : narrowReuse (f.md.toNat % 2 == 1) (smFind st.np e) = true) :
    execNarrow k f s = .next (jobFault r.ctx (some k) 0x304B s) := by
  obtain ⟨hbr, hpoint, _, hty, hra, hrd, hrsvd⟩ := ht
  unfold execNarrow
  dsimp only
  rw [vsuInsn_runs h _ (by simp) (by simp [hrsvd, aBad_false hra, aBad_false hrd, Nat.ne_of_lt hty]) hbr, hpoint]
  exact if_pos hreuse

/-- A narrowing that may run stores what `narrowState` gives and records it. -/
theorem execNarrow_stores {i16 rerun : Bool} {np : NpSt} {sat a : Nat} (hmd : (f.md.toNat % 2 == 1) = rerun)
    (hreuse : narrowReuse rerun (smFind st.np e) = false) (hform : (rerun || (chooseForm t (smGet HistRec.zero c.hist t.histIdx) 0).1) = i16)
    {b : List Byte} {s2 u : State} (hready : NarrowReady s k f r c st t n i16 b s2)
    (hstate : narrowState t (smGet HistRec.zero c.hist t.histIdx) (if rerun then smFind st.np e else none) ((List.range n).map (elAt (extF f 13 12) b)) =
      (np, (narrowPairs f n b a i16).map Prod.fst, sat)) (hnp : np.int16 = i16) (hrerun : np.rerun = rerun)
    (hu : writeWin k r.ctx (getA r f.rd).toNat
      ((narrowPairs f n b a i16).flatMap fun p => leBytes (if i16 then 2 else 1) (toBits (8 * if i16 then 2 else 1) p.1)) s2 = (none, u)) :
    execNarrow k f s = .next (narrowDone k f r e n np sat u) := by
  obtain ⟨hbr, hpoint, hn, hty, hra, hrd, hrsvd⟩ := ht
  obtain ⟨hxa, hda, hread, hwrite, ⟨s1, hx, hhist⟩, hfin⟩ := hready
  have hfinite : ((List.range n).map (elAt (extF f 13 12) b)).findIdx? (fun v => !isFin v) = none := by
    rw [List.findIdx?_eq_none_iff]
    intro v hv
    obtain ⟨i, hi, rfl⟩ := List.mem_map.mp hv
    simp [hfin i (List.mem_range.mp hi)]
  unfold execNarrow
  dsimp only
  rw [vsuInsn_runs h _ (by simp) (by simp [hrsvd, aBad_false hra, aBad_false hrd, Nat.ne_of_lt hty]) hbr, hpoint, hmd]
  dsimp only
  rw [hreuse, if_neg Bool.false_ne_true, ← hn, hform, afterChecks_none ?checks, rdThen_data hx, elems_eq, hfinite]
  case checks =>
    simp only [List.forall_mem_cons, List.not_mem_nil, false_implies, implies_true, and_true]
    exact ⟨chkAlign_none hxa, chkAlign_none hda, chkRd_none hread, chkWr_none hwrite⟩
  dsimp only
  rw [hhist]
  dsimp only
  rw [hstate]
  dsimp only
  rw [hnp, narrowBytes_map, wrThen_done hu, narrowDone, hnp, hrerun]
  rfl

/-- The peak of the source's magnitudes. -/
def narrowPeak (f : IFields) (n : Nat) (b : List Byte) : Nat := ((List.range n).map (elAt (extF f 13 12) b)).foldl fmaxAbs 0

/-- The saturations of a narrowing. -/
def narrowSat (f : IFields) (n : Nat) (b : List Byte) (a : Nat) (i16 : Bool) : Nat := ((narrowPairs f n b a i16).filter Prod.snd).length

/-- The bytes that a narrowing stores. -/
def narrowOut (f : IFields) (n : Nat) (b : List Byte) (a : Nat) (i16 : Bool) : List Byte :=
  (narrowPairs f n b a i16).flatMap fun p => leBytes (if i16 then 2 else 1) (toBits (8 * if i16 then 2 else 1) p.1)

/-- A first narrowing in the form and with the A that the history chooses. -/
theorem execNarrow_first {i16 : Bool} {a : Nat → Nat} (hmd : f.md.toNat % 2 = 0) (hnew : smFind st.np e = none)
    (hform : ∀ m, chooseForm t (smGet HistRec.zero c.hist t.histIdx) m = (i16, a m)) {b : List Byte} {s2 u : State} (hready : NarrowReady s k f r c st t n i16 b s2)
    (hu : writeWin k r.ctx (getA r f.rd).toNat (narrowOut f n b (a (narrowPeak f n b)) i16) s2 = (none, u)) {v : Verdict}
    (hv : v = if i16 = false ∧ t.satThr < narrowSat f n b (a (narrowPeak f n b)) i16 then .rerun else .accept) :
    execNarrow k f s = .next (narrowDone k f r e n
      { int16 := i16, a := a (narrowPeak f n b), s := fdiv (a (narrowPeak f n b)) (fofInt (formQ i16)), m := narrowPeak f n b,
        sat := narrowSat f n b (a (narrowPeak f n b)) i16, rerun := false,
        verdict := v }
      (narrowSat f n b (a (narrowPeak f n b)) i16) u) := by
  subst hv
  refine execNarrow_stores h ht (rerun := false) (i16 := i16) (a := a (narrowPeak f n b)) (by simp [hmd]) (by simp [hnew, narrowReuse])
    (by rw [hform, Bool.false_or]) hready ?_ rfl rfl hu
  rw [if_neg Bool.false_ne_true, narrowState]
  dsimp only
  rw [hform]
  dsimp only
  rw [show ((List.range n).map (elAt (extF f 13 12) b)).foldl fmaxAbs 0 = narrowPeak f n b from rfl, narrowAll_eq]
  have hverdict : (if (!i16 && decide (t.satThr < narrowSat f n b (a (narrowPeak f n b)) i16)) = true then Verdict.rerun else .accept) =
      if i16 = false ∧ t.satThr < narrowSat f n b (a (narrowPeak f n b)) i16 then .rerun else .accept := ite_of_iff (by simp) rfl rfl
  rw [← hverdict]
  rfl

/-- A re-run: INT16, from the maximum that the first narrowing stored. -/
theorem execNarrow_rerun {p : NpSt} (hmd : f.md.toNat % 2 = 1) (hp : smFind st.np e = some p) (hv : p.verdict = .rerun)
    {b : List Byte} {s2 u : State} (hready : NarrowReady s k f r c st t n true b s2)
    (hu : writeWin k r.ctx (getA r f.rd).toNat (narrowOut f n b (scaleA p.m t.headroom) true) s2 = (none, u)) :
    execNarrow k f s = .next (narrowDone k f r e n
      { int16 := true, a := scaleA p.m t.headroom, s := fdiv (scaleA p.m t.headroom) (fofInt (formQ true)), m := p.m, sat := p.sat, rerun := true,
        verdict := .accept } (narrowSat f n b (scaleA p.m t.headroom) true) u) := by
  refine execNarrow_stores h ht (rerun := true) (i16 := true) (a := scaleA p.m t.headroom) (by simp [hmd]) (by simp [hp, hv, narrowReuse]) rfl hready ?_ rfl rfl hu
  rw [if_pos rfl, hp, narrowState]
  dsimp only
  rw [narrowAll_eq]
  rfl

end

/-- Settles O28: the first narrowing in warm-up, the first after it, the re-run, and the second plain one. -/
theorem narrowResult : Obligations.NarrowResult := by
  unfold Obligations.NarrowResult
  rintro s k f r c st e t n ty x d h hbr hpoint hn rfl hty rfl rfl hra hrd hrsvd hist q w ready narrowed done peak
  have ht : NarrowTaken s f r c e t n := ⟨hbr, hpoint, hn, hty, hra, hrd, hrsvd⟩
  have hop {i16 : Bool} {b : List Byte} {s2 : State} : ready i16 b s2 → NarrowReady s k f r c st t n i16 b s2 :=
    fun ⟨hxa, hda, hread, hwrite, hsrc, hfin⟩ => ⟨hxa, hda, hread, hwrite, hsrc, hfin⟩
  refine ⟨fun hmd hnew hwarm b s2 hready => ?warm, fun hmd hnew hcold b s2 hready => ?cold, fun p hmd hp hv b s2 hready => ?rerun,
    fun hmd hold => execNarrow_reuse h ht ?reuse⟩
  case warm =>
    have hform (m : Nat) : chooseForm t hist m = (true, scaleA m t.headroom) := if_pos hwarm
    intro u hu
    exact execNarrow_first h ht hmd hnew hform (hop hready) hu (if_neg fun hboth => Bool.false_ne_true hboth.1.symm).symm
  case cold =>
    have hform (m : Nat) : chooseForm t hist m = (false, scaleA (histMax hist t.depth) t.headroom) := if_neg (Nat.not_lt.mpr hcold)
    intro u hu
    exact execNarrow_first h ht hmd hnew hform (hop hready) hu (ite_of_iff ⟨fun hsat => ⟨rfl, hsat⟩, And.right⟩ rfl rfl)
  case rerun =>
    intro u hu
    exact execNarrow_rerun h ht hmd hp hv (hop hready) hu
  case reuse =>
    obtain ⟨p, hp⟩ := Option.ne_none_iff_exists'.mp hold
    simp [hp, hmd, narrowReuse]

end Sys2Proof.Machine
end

section
/-! PROOFS. The PEER instructions (R183) and the deadline of a receive. -/
namespace Sys2Proof.Machine
open Sys2Proof

section
variable {s : State} {k : Nat} {f : IFields} {r : Run} {c : Ctx} {st : Step} (h : CoreRuns s k r c st) (hmod : modBad f 0 = false)

/-- A member of the step's group is reached through the group's slot. -/
theorem peerSlot_ok {m sl : Nat} (hg : st.group ≠ 0) (hs : slotOfGroup s st.group = some sl) (hm : memberInStep s sl m = true) : peerSlot s st m = .ok sl := by
  simp [peerSlot, hg, hs, hm]

theorem peerSlot_noGroup (s : State) {st : Step} (m : Nat) (hg : st.group = 0) : peerSlot s st m = .error cPEER_GROUP := if_pos hg

theorem heldFor_none {grp m tag : Nat} (hno : ∀ x ∈ s.strait.held, ¬ (x.grp = grp ∧ x.mem = m ∧ x.tag = tag)) : heldFor s grp m tag = none := by
  rw [heldFor, List.findIdx?_eq_none_iff]
  intro x hx
  simpa [and_assoc] using hno x hx

/-- The receive that an SRECV opens. -/
def openRecv (s : State) (f : IFields) (r : Run) (st : Step) : Recv :=
  { grp := st.group, mem := extF f 47 32, tag := f.imm.toNat, dst := (getA r f.rd).toNat, cap := (getS r f.rc).toNat, rb := f.rb.toNat,
    deadline := s.time.replica + extF f 31 0, issued := s.time.replica, arrived := false }

include h hmod

theorem execSsend_sends (hra : f.ra.toNat < 8) {sl : Nat} (hpeer : peerSlot s st (extF f 15 0) = .ok sl) (hlo : 1 ≤ (getS r f.rc).toNat)
    (hhi : (getS r f.rc).toNat ≤ 8192) (hread : CanRead s k r st (Ext.one (getA r f.ra).toNat (getS r f.rc).toNat)) {b : List Byte} {u : State}
    (hb : instrRead s k r.ctx (getA r f.ra).toNat (getS r f.rc).toNat = (.data b, u)) :
    execSsend k f s = .next (advance k (sendMsg sl (extF f 15 0) 1 f.imm.toNat b (some (k, r.ctx, extF f 18 16))
      (modRunOf k (fun x => setG x (extF f 18 16) (getG x (extF f 18 16) + 1)) u))) := by
  unfold execSsend
  rw [insn_runs h _ (by simp) (by simp [hmod, aBad_false hra])]
  dsimp only
  rw [hpeer]
  dsimp only
  rw [afterChecks_none (by simp [chkCount_none hlo hhi, chkRd_none hread]), rdThen_data hb]
  rfl

theorem execSsend_noGroup (hra : f.ra.toNat < 8) (hg : st.group = 0) : execSsend k f s = .next (jobFault r.ctx (some k) cPEER_GROUP s) := by
  unfold execSsend
  rw [insn_runs h _ (by simp) (by simp [hmod, aBad_false hra])]
  dsimp only
  rw [peerSlot_noGroup s _ hg]
  rfl

theorem execSrecv_waits (hrd : f.rd.toNat < 8) {sl : Nat} (hpeer : peerSlot s st (extF f 47 32) = .ok sl)
    (hwrite : CanWrite s k r (Ext.one (getA r f.rd).toNat (getS r f.rc).toNat))
    (hno : ∀ x ∈ s.strait.held, ¬ (x.grp = st.group ∧ x.mem = extF f 47 32 ∧ x.tag = f.imm.toNat)) :
    execSrecv k f s = .next (modRunOf k (fun x => { x with wait := .recv, recv := some (openRecv s f r st) }) s) := by
  have hheld (v : SMap Core) : heldFor (setCores v s) st.group (extF f 47 32) f.imm.toNat = none := heldFor_none hno
  unfold execSrecv
  rw [insn_runs h _ (by simp) (by simp [hmod, aBad_false hrd])]
  dsimp only
  rw [hpeer]
  dsimp only
  rw [afterChecks_none (by simp [chkWr_none hwrite])]
  rw [modRunOf, modCore, hheld]
  rfl

theorem execSrecv_noGroup (hrd : f.rd.toNat < 8) (hg : st.group = 0) : execSrecv k f s = .next (jobFault r.ctx (some k) cPEER_GROUP s) := by
  unfold execSrecv
  rw [insn_runs h _ (by simp) (by simp [hmod, aBad_false hrd])]
  dsimp only
  rw [peerSlot_noGroup s _ hg]
  rfl

/-- A search is submitted, or its refusal is the result. -/
theorem execPeerSearch_reads (hra : f.ra.toNat < 8) (hrd : f.rd.toNat < 8) (hlevel : s.chip.level1 = false)
    (hread : CanRead s k r st (Ext.one (getA r f.ra).toNat 64)) (hwrite : CanWrite s k r (Ext.one (getA r f.rd).toNat (getS r f.rc).toNat))
    {b rest : List Byte} {u v : State} (hb : instrRead s k r.ctx (getA r f.ra).toNat 64 = (.data b, u))
    (hmore : CanRead u k r st (Ext.one ((getA r f.ra).toNat + 64) (min (fld b 32 4) 16384 + min (fld b 20 4) 4096)))
    (hrest : instrRead u k r.ctx ((getA r f.ra).toNat + 64) (min (fld b 32 4) 16384 + min (fld b 20 4) 4096) = (.data rest, v)) :
    (∀ w, querySubmitCheck (b ++ rest) (getS r f.rc).toNat v = (none, w) → execPeerSearch k f s = .next (acceptQuery (b ++ rest)
      (.core k r.ctx c.stepNo (getA r f.rd).toNat (getS r f.rc).toNat (extF f 18 16))
      (advance k (modRunOf k (fun x => setG x (extF f 18 16) (getG x (extF f 18 16) + 1)) w)))) ∧
    (∀ code w u2, querySubmitCheck (b ++ rest) (getS r f.rc).toNat v = (some code, w) →
      writeWin k r.ctx (getA r f.rd).toNat (refusedResult (b ++ rest) code (getS r f.rc).toNat) w = (none, u2) → execPeerSearch k f s = .next (advance k u2)) := by
  unfold execPeerSearch
  rw [insn_runs h _ (by simp [hlevel]) (by simp [hmod, aBad_false hra, aBad_false hrd])]
  dsimp only
  rw [afterChecks_none (by simp [chkRd_none hread, chkWr_none hwrite]), rdThen_data hb, afterChecks_none (by simp [chkRd_none hmore]), rdThen_data hrest]
  constructor
  case left =>
    intro w hw
    rw [hw]
    rfl
  case right =>
    intro code w u2 hw hwr
    rw [hw]
    dsimp only
    rw [wrThen_done hwr]
    rfl

end

/-! ### The deadline -/

/-- The loops at the end of an instruction leave the scalar registers and the receive. -/
theorem loopEnd_keeps (pc : Nat) (l : List Nat) (r : Run) : (loopEnd pc l r).1.s = r.s ∧ (loopEnd pc l r).1.recv = r.recv := by
  induction l generalizing r with
  | nil => exact ⟨rfl, rfl⟩
  | cons i is ih =>
    rw [loopEnd]
    dsimp only
    split
    · split
      · exact ⟨rfl, rfl⟩
      · exact ih _
    · exact ih _

theorem fallThrough_keeps (n pc : Nat) (r : Run) : (fallThrough n pc r).1.s = r.s ∧ (fallThrough n pc r).1.recv = r.recv := by
  have h := loopEnd_keeps pc r.lstack { r with wait := .none }
  unfold fallThrough
  dsimp only
  split
  · exact h
  · exact h

theorem getS_setS_same (i : BitVec 4) (r : Run) (v : DWord) : getS (setS r i v) i = v := by
  have hi : i.toNat < 16 := i.isLt
  simp [getS, setS, Vector.getD, hi]

/-- A receive that is done has its value in S[RB] and is no longer open. -/
theorem recvDone_result {r : Run} {x : Recv} (hx : r.recv = some x) (v : Nat) :
    getS (recvDone v r) (BitVec.ofNat 4 x.rb) = BitVec.ofNat 64 v ∧ (recvDone v r).recv = none := by
  obtain ⟨hs, hrecv⟩ := fallThrough_keeps 0 r.pc.toNat { setS r (BitVec.ofNat 4 x.rb) (BitVec.ofNat 64 v) with recv := none }
  rw [recvDone, hx]
  refine ⟨?_, hrecv⟩
  rw [getS, hs]
  exact getS_setS_same _ _ _

theorem advanceTo_past {t : Nat} {s : State} (h : t ≤ s.time.replica) : advanceTo t s = s := if_neg fun hlt => Nat.not_lt.mpr h hlt.1

theorem execSrecvTimeout_due {s : State} {k : Nat} {r : Run} {x : Recv} (hk : k < 48) (hrun : (core s k).run = some r) (hx : r.recv = some x)
    (hwait : x.arrived = false) (hdue : x.deadline ≤ s.time.replica) :
    execSrecvTimeout k s = .next (startDue (checkFetch k (putRun k (recvDone cTIMEOUT r) s))) := by
  unfold execSrecvTimeout
  rw [if_neg (Nat.not_le.mpr hk), hrun]
  dsimp only
  rw [hx]
  dsimp only
  rw [advanceTo_past hdue, if_neg (by simp [hwait, chartNow, hdue]), putRun, modCore, modCore, hrun]
  rfl

/-- Settles O32: what SSEND, SRECV and SEARCH do, and the end of a receive at its deadline. -/
theorem peerResult : Obligations.PeerResult := by
  unfold Obligations.PeerResult
  refine ⟨?issue, ?deadline⟩
  case issue =>
    intro s k f r c st h hmod n a d member g
    have hpeer {m sl : Nat} (hm : member m sl) : peerSlot s st m = .ok sl := peerSlot_ok hm.1 hm.2.1 hm.2.2
    exact ⟨fun sl b u hra hm hlo hhi hread hb => execSsend_sends h hmod hra (hpeer hm) hlo hhi hread hb,
      fun sl hrd hm hwrite hno => execSrecv_waits h hmod hrd (hpeer hm) hwrite hno,
      fun b u rest v hra hrd hlevel hread hwrite hb hmore hrest => execPeerSearch_reads h hmod hra hrd hlevel hread hwrite hb hmore hrest,
      fun hg hra => execSsend_noGroup h hmod hra hg, fun hg hrd => execSrecv_noGroup h hmod hrd hg⟩
  case deadline =>
    intro s k r x hk hrun hx hwait
    exact ⟨execSrecvTimeout_due hk hrun hx hwait, recvDone_result hx 0x1201⟩

end Sys2Proof.Machine
end

section
/-! PROOFS. Connections: TCP, ICReq, TLS, a freeze that times out, the closing of a queue and the Keep Alive timer (R370 to R377,
R389). -/
namespace Sys2Proof.Machine
open Sys2Proof

/-! ### TCP_SYN -/

section
variable {s : State} {n port : Nat} (v6 : Bool) (hlink : s.niu.linkUp = true) (hnew : conn? s n = none)
include hlink hnew

theorem execTcpSyn_opens (hready : s.chip.stage = .ready) (hport : port = regFld s 0x20 0x104 15 0 ∨ port = regFld s 0x20 0x104 31 16)
    (hroom : s.qcu.conns.length < 4096) :
    execTcpSyn n port v6 s = .next (modQcu (fun q => { q with conns := smSet q.conns n (Conn.fresh (port == regFld s 0x20 0x104 31 16) v6) }) s) := by
  unfold execTcpSyn
  rw [if_neg (by simp [hlink, hnew]), if_neg (by simp [hready])]
  dsimp only
  rw [if_neg (by simpa [Decidable.or_iff_not_imp_left] using hport), if_neg (Nat.not_le.mpr hroom)]
  rfl

theorem execTcpSyn_otherPort (hready : s.chip.stage = .ready) (hio : port ≠ regFld s 0x20 0x104 15 0) (hdisc : port ≠ regFld s 0x20 0x104 31 16) :
    execTcpSyn n port v6 s = .next (emit (.rst n) s) := by
  unfold execTcpSyn
  rw [if_neg (by simp [hlink, hnew]), if_neg (by simp [hready])]
  dsimp only
  rw [if_pos ⟨hio, hdisc⟩]
  rfl

theorem execTcpSyn_notReady (hready : s.chip.stage ≠ .ready) (hrec : s.msp.recovery = false) : execTcpSyn n port v6 s = .next (emit (.rst n) s) := by
  unfold execTcpSyn
  rw [if_neg (by simp [hlink, hnew]), if_pos ⟨hready, by simp [hrec]⟩]
  rfl

/-- With 4,096 connections open the connection is reset and counted, and recorded where a record may be made. -/
theorem execTcpSyn_full (hready : s.chip.stage = .ready) (hport : port = regFld s 0x20 0x104 15 0 ∨ port = regFld s 0x20 0x104 31 16)
    (hfull : 4096 ≤ s.qcu.conns.length) {u : State} (hu : u = cntAdd 0x20 0x850 1 (emit (.rst n) s)) :
    execTcpSyn n port v6 s = .next (if mayRecordRefused s then
      modQcu (fun q => { q with lastRefused := some (now u) }) (advisory 0x20 1 0x200B 0 0 u) else u) := by
  subst hu
  unfold execTcpSyn
  rw [if_neg (by simp [hlink, hnew]), if_neg (by simp [hready])]
  dsimp only
  rw [if_neg (by simpa [Decidable.or_iff_not_imp_left] using hport), if_pos hfull]
  exact (apply_ite Host.Outcome.next _ _ _).symm

end

theorem mayRecordRefused_iff (s : State) : mayRecordRefused s = true ↔ ∀ t, s.qcu.lastRefused = some t → t + 1000000000 ≤ now s := by
  unfold mayRecordRefused
  cases s.qcu.lastRefused with
  | none => simp
  | some t => simp

/-! ### A connection that is open -/

section
variable {s : State} {n : Nat} {c : Conn} (hc : conn? s n = some c)
include hc

section
variable (pfv m : Nat) (h d : Bool)

theorem execIcreq_noTls (hreq : bit (regWord s 0x20 0x100).toNat 0 = true) (htls : c.tls = false) : execIcreq n pfv h d m s = .next (closeConn n 1 s) := by
  unfold execIcreq
  rw [hc]
  dsimp only
  rw [if_pos ⟨hreq, by simp [htls]⟩]
  rfl

variable (hmay : bit (regWord s 0x20 0x100).toNat 0 = false ∨ c.tls = true)
include hmay

theorem execIcreq_refused (hbad : pfv ≠ 0 ∨ c.icDone = true) : execIcreq n pfv h d m s = .next (terminate n s) := by
  unfold execIcreq
  rw [hc]
  dsimp only
  rw [if_neg (by simpa [Decidable.or_iff_not_imp_left] using hmay), if_pos hbad]
  rfl

theorem execIcreq_answers (hpfv : pfv = 0) (hnew : c.icDone = false) :
    execIcreq n pfv h d m s = .next (emit (.icresp n (icResp (h || bit (regWord s 0x20 0x100).toNat 1) (d || bit (regWord s 0x20 0x100).toNat 2)))
      (modConn n (fun c => { c with icDone := true, hdgst := h || bit (regWord s 0x20 0x100).toNat 1,
                                    ddgst := d || bit (regWord s 0x20 0x100).toNat 2, maxr2t := m }) s)) := by
  unfold execIcreq
  rw [hc]
  dsimp only
  rw [if_neg (by simpa [Decidable.or_iff_not_imp_left] using hmay), if_neg (by simp [hpfv, hnew])]
  rfl

end

theorem execClientHello_runs (o : Hello) (htls : c.tls = false) (hic : c.icDone = false) :
    execClientHello n o s = .next (if o.suite && o.pskKe && o.binderOk && pskKnown (touchAtoll s) o.pskId then
      emit (.tls n true) (modConn n (fun c => { c with tls := true }) (touchAtoll s))
      else closeConn n 1 (advisory 0x20 2 0x200C 0 0 (cntAdd 0x20 0x858 1 (emit (.tls n false) (touchAtoll s))))) := by
  unfold execClientHello
  rw [hc]
  dsimp only
  rw [if_neg (by simp [htls, hic])]
  exact (apply_ite Host.Outcome.next _ _ _).symm

theorem execKeyUpdate_tls (htls : c.tls = true) : execKeyUpdate n s = .next (emit (.keyUpdate n) (touchAtoll s)) := by
  unfold execKeyUpdate
  rw [hc]
  dsimp only
  rw [htls]
  rfl

theorem execFreezeTimeout_frozen {t : Nat} (ht : c.frozen = some t) :
    execFreezeTimeout n s = .next (terminate n (advanceMaster (t + regFld s 0x20 0x110 15 0 * 1000000) s)) := by
  unfold execFreezeTimeout
  rw [hc, Option.bind_some, ht]
  rfl

/-- A closed connection takes its controller with it where it is the admin queue's. -/
theorem closeConn_open (st : Nat) : closeConn n st s = (match c.queue with
    | some (k, 0, _) => teardown k (dropConn n (logState n st s))
    | _ => dropConn n (logState n st s)) := by
  rw [closeConn, hc] <;> rfl

end

theorem execKatoExpired_known {s : State} {k : Nat} {c : Ctrl} (hc : smFind s.qcu.ctrls k = some c) :
    execKatoExpired k s = .next (teardown k (advisory 0x20 3 0x200D 0 0 (cntAdd 0x20 0x848 1 (advanceMaster (c.kaStart + c.kato * 1000000000) s)))) := by
  unfold execKatoExpired
  rw [hc]
  rfl

/-- Settles O45: the opening, the handshakes and the ends of a connection. -/
theorem connectionEventResult : Obligations.ConnectionEventResult := by
  unfold Obligations.ConnectionEventResult
  refine ⟨?syn, ?icreq, ?hello, ?update, ?freeze, ?close, ?kato⟩
  case syn =>
    intro s n port v6 hlink hnew io disc
    refine ⟨fun hready hport hroom => execTcpSyn_opens v6 hlink hnew hready hport hroom,
      fun hready hio hdisc => execTcpSyn_otherPort v6 hlink hnew hready hio hdisc,
      fun hready hrec => execTcpSyn_notReady v6 hlink hnew hready hrec, ?full⟩
    intro hready hport hfull u
    refine ⟨fun hold => ?_, ?_⟩
    · refine (execTcpSyn_full v6 hlink hnew hready hport hfull rfl).trans ?_
      rw [if_pos ((mayRecordRefused_iff s).mpr hold)]
    · rintro ⟨t, ht, hlt⟩
      refine (execTcpSyn_full v6 hlink hnew hready hport hfull rfl).trans ?_
      rw [if_neg fun hmay => Nat.not_le.mpr hlt ((mayRecordRefused_iff s).mp hmay t ht)]
  case icreq =>
    intro s n pfv m h d c hc w h' d'
    exact ⟨fun hreq htls => execIcreq_noTls hc pfv m h d hreq htls, fun hmay hpfv hnew => execIcreq_answers hc pfv m h d hmay hpfv hnew,
      fun hmay hbad => execIcreq_refused hc pfv m h d hmay hbad⟩
  case hello =>
    intro s n o c hc htls hic good
    exact ⟨fun hgood => (execClientHello_runs hc o htls hic).trans (congrArg _ (if_pos hgood)),
      fun hbad => (execClientHello_runs hc o htls hic).trans (congrArg _ (if_neg (Bool.eq_false_iff.mp hbad)))⟩
  case update => exact fun s n c hc htls => execKeyUpdate_tls hc htls
  case freeze => exact fun s n c t hc ht => execFreezeTimeout_frozen hc ht
  case close =>
    intro s n c hc v
    exact ⟨congrArg Host.Outcome.next (closeConn_open hc 2), congrArg Host.Outcome.next (closeConn_open hc 2)⟩
  case kato => exact fun s k c hc => execKatoExpired_known hc

end Sys2Proof.Machine
end

section
/-! PROOFS. Command capsules and H2CData PDUs (R372, R373, R388, R389). -/
namespace Sys2Proof.Machine
open Sys2Proof

section
variable {s : State} {n : Nat} {c : Conn} (hc : conn? s n = some c)
include hc

/-! ### The checks of a PDU -/

section
variable {p : PduCheck} (op cid : Nat) (q : Sqe) (d : List Byte)

theorem execCommandCapsule_badRecord (htls : c.tls = true) (hbad : p.tlsOk = false) :
    execCommandCapsule n op cid q d p s = .next (queueErr n cTLS_RECORD 0xFFFF true p s) := by
  unfold execCommandCapsule
  rw [hc]
  dsimp only
  rw [if_pos ⟨htls, by simp [hbad]⟩]
  rfl

variable (hrecord : c.tls = false ∨ p.tlsOk = true)
include hrecord

theorem execCommandCapsule_badHeader (hdg : c.hdgst = true) (hbad : p.hdgstOk = false) :
    execCommandCapsule n op cid q d p s = .next (queueErr n cHDGST 0xFFFF true p s) := by
  unfold execCommandCapsule
  rw [hc]
  dsimp only
  rw [if_neg (by simpa [Decidable.or_iff_not_imp_left] using hrecord), if_pos ⟨hdg, by simp [hbad]⟩]
  rfl

variable (hheader : c.hdgst = false ∨ p.hdgstOk = true)
include hheader

theorem execCommandCapsule_badFormat (hbad : p.formatOk = false ∨ 8192 < d.length ∨ q.sgl < d.length) :
    execCommandCapsule n op cid q d p s = .next (queueErr n cPDU_FORMAT 0xFFFF true p s) := by
  unfold execCommandCapsule
  rw [hc]
  dsimp only
  rw [if_neg (by simpa [Decidable.or_iff_not_imp_left] using hrecord), if_neg (by simpa [Decidable.or_iff_not_imp_left] using hheader), if_pos (hbad.imp (by simp) Or.inr)]
  rfl

/-! ### A capsule that is counted -/

variable (hformat : p.formatOk = true) (hic : c.icDone = true) (hlen : d.length ≤ 8192) (hsgl : d.length ≤ q.sgl) {k i z : Nat} (hq : c.queue = some (k, i, z))
include hformat hic hlen hsgl hq

/-- A whole capsule is counted, and then its queue decides. -/
theorem execCommandCapsule_counted : execCommandCapsule n op cid q d p s =
    (if c.frozen.isSome then ok (discardCapsule n (cntAdd 0x20 0x800 1 s))
     else if z + 1 ≤ c.outst.length then ok (queueErr n cSQ_OVERFLOW cid false p (cntAdd 0x20 0x800 1 s))
     else if c.outst.any fun o => o.cid == cid then ok (queueErr n cCID_DUPLICATE cid false p (cntAdd 0x20 0x800 1 s))
     else if d.length < q.sgl ∧ accepted op ⟨n, cid⟩ q (cntAdd 0x20 0x800 1 s) then ok (awaitData op ⟨n, cid⟩ q d (cntAdd 0x20 0x800 1 s))
     else runCommand op ⟨n, cid⟩ q d (cntAdd 0x20 0x800 1 s)) := by
  unfold execCommandCapsule
  rw [hc]
  dsimp only
  rw [if_neg (by simpa [Decidable.or_iff_not_imp_left] using hrecord), if_neg (by simpa [Decidable.or_iff_not_imp_left] using hheader),
    if_neg (by simp [hformat, hic, hlen, hsgl]), hq]

theorem execCommandCapsule_frozen (hf : c.frozen ≠ none) :
    execCommandCapsule n op cid q d p s = .next (discardCapsule n (cntAdd 0x20 0x800 1 s)) :=
  (execCommandCapsule_counted hc op cid q d hrecord hheader hformat hic hlen hsgl hq).trans (if_pos (Option.isSome_iff_ne_none.mpr hf))

variable (hf : c.frozen = none)
include hf

theorem execCommandCapsule_overflow (hfull : z + 1 ≤ c.outst.length) :
    execCommandCapsule n op cid q d p s = .next (queueErr n cSQ_OVERFLOW cid false p (cntAdd 0x20 0x800 1 s)) := by
  rw [execCommandCapsule_counted hc op cid q d hrecord hheader hformat hic hlen hsgl hq, if_neg (by simp [hf]), if_pos hfull]
  rfl

variable (hroom : c.outst.length < z + 1)
include hroom

theorem execCommandCapsule_duplicate (hdup : ∃ o ∈ c.outst, o.cid = cid) :
    execCommandCapsule n op cid q d p s = .next (queueErr n cCID_DUPLICATE cid false p (cntAdd 0x20 0x800 1 s)) := by
  rw [execCommandCapsule_counted hc op cid q d hrecord hheader hformat hic hlen hsgl hq, if_neg (by simp [hf]), if_neg (Nat.not_le.mpr hroom),
    if_pos (by simpa using hdup)]
  rfl

variable (hnew : ∀ o ∈ c.outst, o.cid ≠ cid)
include hnew

theorem execCommandCapsule_awaits (hmore : d.length < q.sgl) (hacc : accepted op ⟨n, cid⟩ q (cntAdd 0x20 0x800 1 s) = true) :
    execCommandCapsule n op cid q d p s = .next (awaitData op ⟨n, cid⟩ q d (cntAdd 0x20 0x800 1 s)) := by
  rw [execCommandCapsule_counted hc op cid q d hrecord hheader hformat hic hlen hsgl hq, if_neg (by simp [hf]), if_neg (Nat.not_le.mpr hroom),
    if_neg (by simpa using hnew), if_pos ⟨hmore, hacc⟩]
  rfl

theorem execCommandCapsule_runs (hwhole : d.length = q.sgl ∨ accepted op ⟨n, cid⟩ q (cntAdd 0x20 0x800 1 s) = false) :
    execCommandCapsule n op cid q d p s = runCommand op ⟨n, cid⟩ q d (cntAdd 0x20 0x800 1 s) := by
  rw [execCommandCapsule_counted hc op cid q d hrecord hheader hformat hic hlen hsgl hq, if_neg (by simp [hf]), if_neg (Nat.not_le.mpr hroom),
    if_neg (by simpa using hnew), if_neg]
  rintro ⟨hmore, hacc⟩
  exact hwhole.elim (Nat.ne_of_lt hmore) fun hno => Bool.false_ne_true (hno.symm.trans hacc)

end

/-- The queue of a connection says whether its commands are those of an admin queue. -/
theorem onAdmin_queue {u : State} (hu : u.qcu = s.qcu) {k i z : Nat} (hq : c.queue = some (k, i, z)) (cid : Nat) : onAdmin u ⟨n, cid⟩ = (i == 0) := by
  have hcu : conn? u n = some c := by rw [conn?, hu]; exact hc
  simp [onAdmin, queueOf, hcu, hq]

/-! ### Data -/

section
variable {p : PduCheck} {d : List Byte} (cid off : Nat) (dig : Bool) (hic : c.icDone = true) (hrecord : c.tls = false ∨ p.tlsOk = true)
  (hheader : c.hdgst = false ∨ p.hdgstOk = true) (hformat : p.formatOk = true) (hlen : d.length ≤ 262144)
include hic hrecord hheader hformat hlen

/-- Data that meets no outstanding R2T. -/
theorem execH2cData_noPlace (hno : ∀ o, c.outst.find? (fun o => o.cid == cid) = some o → ∀ e, (off, e) ∉ o.r2ts) :
    execH2cData n cid off d p dig s = .next (queueErr n cPDU_SEQUENCE cid false p s) := by
  have hplace : ((c.outst.find? fun o => o.cid == cid).bind fun o => (o.r2ts.find? fun r => r.1 == off).map fun r => (o, r)) = none := by
    rw [Option.bind_eq_none_iff]
    intro o ho
    rw [Option.map_eq_none_iff, List.find?_eq_none]
    rintro ⟨a, e⟩ hr
    simp only [beq_iff_eq]
    rintro rfl
    exact hno o ho e hr
  unfold execH2cData
  rw [hc]
  dsimp only
  rw [if_neg (by simpa [Decidable.or_iff_not_imp_left] using hrecord), if_neg (by simpa [Decidable.or_iff_not_imp_left] using hheader),
    if_neg (by simp [hformat, hic, r2tMax, hlen]), hplace]
  rfl

/-- The state with the data of a command placed. -/
def placedAt (n cid off : Nat) (d : List Byte) (o : OutCmd) (s : State) : State :=
  modConn n (fun c => { c with outst := c.outst.map fun x => if x.cid == cid then placeData off d o else x }) s

variable {o : OutCmd} {r : Nat × Nat} (ho : c.outst.find? (fun o => o.cid == cid) = some o) (hr : o.r2ts.find? (fun r => r.1 == off) = some r)
include ho hr

/-- What data that meets an outstanding R2T does. -/
theorem execH2cData_placed : execH2cData n cid off d p dig s =
    (if r.2 < off + d.length then ok (queueErr n cPDU_SEQUENCE cid false p s)
     else if c.ddgst ∧ !dig then
       ok (complete (if onAdmin s ⟨n, cid⟩ then .admin else if o.op < 0x80 then .nvm else .bcs) ⟨n, cid⟩ stTransientTransport 0 0 [] (cntAdd 0x20 0x828 1 s))
     else if (placeData off d o).need = 0 then runAtLevel o.level1 o.op ⟨n, cid⟩ o.sqe (placeData off d o).data (placedAt n cid off d o s)
     else ok (solicit n cid (c.maxr2t + 1 - (placeData off d o).r2ts.length) (placedAt n cid off d o s))) := by
  unfold execH2cData
  rw [hc]
  dsimp only
  rw [if_neg (by simpa [Decidable.or_iff_not_imp_left] using hrecord), if_neg (by simpa [Decidable.or_iff_not_imp_left] using hheader),
    if_neg (by simp [hformat, hic, r2tMax, hlen]), ho, Option.bind_some, hr]
  rfl

end

end

/-- A command fetched at the level in force runs at it. -/
theorem runAtLevel_same {l : Bool} {s : State} (h : l = s.chip.level1) (op : Nat) (t : Tag) (q : Sqe) (d : List Byte) :
    runAtLevel l op t q d s = runCommand op t q d s := if_pos h

/-- A command fetched at the other level runs at that level, and the level in force comes back. -/
theorem runAtLevel_other {l : Bool} {s : State} (h : l ≠ s.chip.level1) (op : Nat) (t : Tag) (q : Sqe) (d : List Byte) :
    ∃ v, runCommand op t q d (modChip (fun c => { c with level1 := l }) s) = .next v ∧
      runAtLevel l op t q d s = .next (modChip (fun c => { c with level1 := s.chip.level1 }) v) := by
  obtain ⟨v, hv⟩ := runCommand_goes op t q d (modChip (fun c => { c with level1 := l }) s)
  refine ⟨v, hv, ?_⟩
  rw [runAtLevel, if_neg h, hv]

/-- Settles O46: the checks of a capsule and of data, and what each does once it has passed them. -/
theorem capsuleResult : Obligations.CapsuleResult := by
  unfold Obligations.CapsuleResult
  refine ⟨?capsule, ?data⟩
  case capsule =>
    intro s n op cid q d p c k i z hc hic hq u
    have hadmin : onAdmin u ⟨n, cid⟩ = (i == 0) := by
      obtain ⟨m, hm⟩ := cntAdd_eq 0x20 0x800 1 s
      have hqcu : u.qcu = s.qcu := (congrArg State.qcu hm).trans rfl
      exact onAdmin_queue hc hqcu hq cid
    refine ⟨fun hrec hhd hform hlen hsgl => ⟨fun hf => ?_, fun hf hfull => ?_, fun hf hroom hdup => ?_, fun hf hroom hnew => ⟨fun hmore hacc => ?_, ?_, ?_⟩⟩,
      fun htls hbad => execCommandCapsule_badRecord hc op cid q d htls hbad,
      fun hrec hdg hbad => execCommandCapsule_badHeader hc op cid q d hrec hdg hbad,
      fun hrec hhd hbad => execCommandCapsule_badFormat hc op cid q d hrec hhd hbad⟩
    · exact execCommandCapsule_frozen hc op cid q d hrec hhd hform hic hlen hsgl hq hf
    · exact execCommandCapsule_overflow hc op cid q d hrec hhd hform hic hlen hsgl hq hf hfull
    · exact execCommandCapsule_duplicate hc op cid q d hrec hhd hform hic hlen hsgl hq hf hroom hdup
    · exact execCommandCapsule_awaits hc op cid q d hrec hhd hform hic hlen hsgl hq hf hroom hnew hmore hacc
    · intro hwhole hi
      refine (execCommandCapsule_runs hc op cid q d hrec hhd hform hic hlen hsgl hq hf hroom hnew hwhole).trans (if_pos ?_)
      rw [hadmin, hi]
      rfl
    · intro hwhole hi
      refine (execCommandCapsule_runs hc op cid q d hrec hhd hform hic hlen hsgl hq hf hroom hnew hwhole).trans (if_neg ?_)
      rw [hadmin]
      simp [hi]
  case data =>
    intro s n cid off d p dig c hc hic hrec hhd hform hlen
    refine ⟨fun hno => execH2cData_noPlace hc cid off dig hic hrec hhd hform hlen hno, fun o r ho hr => ?_⟩
    have hplaced := execH2cData_placed hc cid off dig hic hrec hhd hform hlen ho hr
    refine ⟨fun hover => hplaced.trans (if_pos hover), fun hin hbad => ?_, ?_⟩
    · exact hplaced.trans ((if_neg (Nat.not_lt.mpr hin)).trans (if_pos (by simpa using hbad)))
    · intro hin hgood o' u
      have hplace := hplaced.trans ((if_neg (Nat.not_lt.mpr hin)).trans (if_neg (by simpa [Decidable.or_iff_not_imp_left] using hgood)))
      refine ⟨fun hmore => hplace.trans (if_neg hmore), fun hwhole hlevel => hplace.trans ((if_pos hwhole).trans ?_), fun hwhole hlevel => ?_⟩
      · exact runAtLevel_same (s := u) hlevel _ _ _ _
      · obtain ⟨v, hv, hrun⟩ := runAtLevel_other (s := u) hlevel o.op ⟨n, cid⟩ o.sqe o'.data
        exact ⟨v, hv, hplace.trans ((if_pos hwhole).trans hrun)⟩

end Sys2Proof.Machine
end

section
/-! PROOFS. The staging ring, the cache's pages and refetches (R71, R271, R272, R274). -/
namespace Sys2Proof.Machine
open Sys2Proof

/-! ### The staging ring -/

section
variable {s : State} {n layer h : Nat} {c : Ctx} (hentries : ringEntries c layer ≠ [])
  (hheld : c.step = none → ∃ x, c.halves[h]? = some x ∧ x.layer ≠ none)
include hentries hheld

/-- The half is the layer's: no step is needed, or one runs. -/
theorem stage_wanted : ¬ ((ringEntries c layer).isEmpty ∨ (c.step.isNone ∧ ((c.halves[h]?).map fun x => x.layer.isNone).getD true)) := by
  rintro (hempty | ⟨hstep, hfree⟩)
  · exact hentries (List.isEmpty_iff.mp hempty)
  · obtain ⟨x, hx, hlayer⟩ := hheld (Option.isNone_iff_eq_none.mp hstep)
    rw [hx] at hfree
    exact hlayer (by simpa using hfree)

variable (hc : ctx? s n = some c) (hhalf : halfFor c layer = some h)
include hc hhalf

/-- An entry whose flash copy is unrecoverable quarantines its object. -/
theorem stageLayer_lost {i : Nat} {u : State} (hread : stageEntries c h (ringEntries c layer) s = (some i, u)) : stageLayer n layer s = quarantine n i u := by
  unfold stageLayer
  rw [hc]
  dsimp only
  rw [hhalf]
  dsimp only
  rw [if_neg (stage_wanted hentries hheld), hread]

/-- A layer that is read whole stands in its half. -/
theorem stageLayer_fills {u : State} {x : Half} (hread : stageEntries c h (ringEntries c layer) s = (none, u)) (hx : c.halves[h]? = some x) :
    stageLayer n layer s = cntAdd 0xA0 0x808 (layerBytes c layer) (modCtx n (fun c => { c with
      halves := c.halves.set h { layer := some layer, ready := true, next := x.next, due := false }, staged := if x.next then c.staged else c.staged ++ [layer] })
      (if c.staged.contains layer ∧ x.next = false then ctxCnt n 0xA0 0x920 1 u else u)) := by
  have hagain : (if c.staged.contains layer ∧ (!x.next) = true then ctxCnt n 0xA0 0x920 1 u else u) =
      if c.staged.contains layer ∧ x.next = false then ctxCnt n 0xA0 0x920 1 u else u := ite_of_iff (by simp) rfl rfl
  unfold stageLayer
  rw [hc]
  dsimp only
  rw [hhalf]
  dsimp only
  rw [if_neg (stage_wanted hentries hheld), hread, hx, ← hagain]
  rfl

end

/-! ### Pages -/

section
variable {s : State} {n sq layer page : Nat} {c : Ctx} {q : Seq} {p : CachePage} (hc : ctx? s n = some c) (hq : smFind c.seqs sq = some q)
  (hp : smFind q.pages (pageKey layer page) = some p)
include hc hq hp

/-- Where the drive takes writes, a demoted page is absent, and lost where a burst of it was. -/
theorem execDemoteComplete_moves {k : Nat} (hat : p.at_ = .demoting k) (hrw : s.ftl.readOnly = false) :
    execDemoteComplete n sq layer page s = .next (ctxCnt n 0xA0 0x928 1 (cntAdd 0xA0 0x810 1 (modPage n sq (pageKey layer page)
      (fun p => { p with at_ := .absent (pageData s c k), poisoned := p.poisoned || (pageBursts c k).any fun b => burstRd s b == .bad }) s))) := by
  unfold execDemoteComplete
  rw [hc]
  dsimp only
  rw [hq, Option.bind_some, hp]
  dsimp only
  rw [hat]
  dsimp only
  rw [hrw]
  rfl

theorem execDemoteComplete_readOnly {k : Nat} (hat : p.at_ = .demoting k) (hro : s.ftl.readOnly = true) :
    execDemoteComplete n sq layer page s = .next (modPage n sq (pageKey layer page) (fun p => { p with at_ := .slot k }) s) := by
  unfold execDemoteComplete
  rw [hc]
  dsimp only
  rw [hq, Option.bind_some, hp]
  dsimp only
  rw [hat]
  dsimp only
  rw [hro]
  rfl

theorem execPageFetchComplete_stores {k : Nat} {d : List Byte} (hat : p.at_ = .fetching k d) (hgood : p.poisoned = false) :
    execPageFetchComplete n sq layer page s = .next (cntAdd 0xA0 0x818 1 (modPage n sq (pageKey layer page) (fun p => { p with at_ := .slot k })
      (storeLayout c (segFuel c.pkg.pageBytes) (slotOff c k) (d.take c.pkg.pageBytes) s))) := by
  unfold execPageFetchComplete
  rw [hc]
  dsimp only
  rw [hq, Option.bind_some, hp]
  dsimp only
  rw [hat]
  dsimp only
  rw [hgood]
  rfl

end

/-! ### Refetch -/

theorem execObjRefetched_burst {s : State} {a : Nat} {o : ObjAt} (ha : a < 2 ^ 39) (hbad : burstRd s (a / 64) = .bad)
    (ho : objOfPhys s (a / 64 * 64) = some o) : execObjRefetched a s = .next (refetch o (fun b => xmStore (a / 64 * 64) b) s) := by
  unfold execObjRefetched
  rw [if_pos ha]
  dsimp only
  rw [Nat.mul_div_cancel _ (by decide), hbad, ho]
  rfl

theorem execObjRefetched_word {s : State} {a b : Nat} {o : ObjAt} (hb : b = a / 64 * 64) (ho : objOfSpad s b = some o)
    (hbad : ∃ i < 8, secded (b / 8 + i) (owErr s ⟨none, b / 8 + i⟩) = .bad) :
    execObjRefetched (2 ^ 39 + a) s = .next (refetch o (fun d s => ocmStore none b d (ocmClearErr none b 64 s)) s) := by
  subst hb
  unfold execObjRefetched
  rw [if_neg (Nat.not_lt.mpr (Nat.le_add_right _ _)), Nat.add_sub_cancel_left]
  dsimp only
  rw [ho]
  dsimp only
  rw [if_pos (by simpa using hbad)]
  rfl

/-- Settles O47: the ends of a stage fetch, of a demotion, of a page fetch and of a refetch. -/
theorem memoryTierEventResult : Obligations.MemoryTierEventResult := by
  unfold Obligations.MemoryTierEventResult
  refine ⟨?stage, ?page, fun s a o ha hbad ho => execObjRefetched_burst ha hbad ho, ?word⟩
  case word =>
    intro s a o b ho hbad
    exact execObjRefetched_word rfl ho hbad
  case stage =>
    intro s n layer h c hc hhalf hentries hheld
    exact ⟨fun i u hread => congrArg Host.Outcome.next (stageLayer_lost hentries hheld hc hhalf hread),
      fun u x hread hx => congrArg Host.Outcome.next (stageLayer_fills hentries hheld hc hhalf hread hx)⟩
  case page =>
    intro s n sq layer page c q p hc hq hp
    exact ⟨fun k hat hrw => execDemoteComplete_moves hc hq hp hat hrw, fun k hat hro => execDemoteComplete_readOnly hc hq hp hat hro,
      fun k d hat hgood => execPageFetchComplete_stores hc hq hp hat hgood⟩

end Sys2Proof.Machine
end

section
/-! PROOFS. The MTE's events: reads, programs and erases that complete, a lost channel, the diagnostic decode, drains, checkpoints and
collection (R326 to R349, R363). -/
namespace Sys2Proof.Machine
open Sys2Proof

/-! ### Programs -/

theorem cntAdd_ftl (page off n : Nat) (s : State) : (cntAdd page off n s).ftl = s.ftl := by
  obtain ⟨m, hm⟩ := cntAdd_eq page off n s
  rw [hm]
  rfl

/-- What a commit counts before it looks at the map, the credit of a foreground run too. -/
def commitCounted (p : Prog) (s : State) : State :=
  let s := cntAdd 0xD0 0x808 1 s
  let s := match p.why with
    | 1 => cntAdd 0xD0 0x810 1 s
    | 2 => cntAdd 0xD0 0x818 1 s
    | 3 => cntAdd 0xD0 0x820 1 s
    | _ => s
  match s.ftl.foreground && p.why == 1, gcRun s with
  | true, some r => modFtl (fun x => { x with credit := x.credit + creditOf r s }) s
  | _, _ => s

theorem commitCounted_map (p : Prog) (s : State) : (commitCounted p s).ftl.map = s.ftl.map := by
  have hcount (off : Nat) : (cntAdd 0xD0 off 1 (cntAdd 0xD0 0x808 1 s)).ftl.map = s.ftl.map := by rw [cntAdd_ftl, cntAdd_ftl]
  have hwhy : ∀ u : State, u.ftl.map = s.ftl.map → (match u.ftl.foreground && p.why == 1, gcRun u with
      | true, some r => modFtl (fun x => { x with credit := x.credit + creditOf r u }) u
      | _, _ => u).ftl.map = s.ftl.map := by
    intro u hu
    split
    · exact hu
    · exact hu
  unfold commitCounted
  dsimp only
  refine hwhy _ ?_
  split
  · exact hcount _
  · exact hcount _
  · exact hcount _
  · rw [cntAdd_ftl]

/-- A commit that is counted changes the map where the entry still names what was copied. -/
theorem commitProg_counted (p : Prog) (s : State) : commitProg p s =
    (let u := commitCounted p s
     let v := if mapGet u p.idx == p.expect then mapSet p.idx (entUnit p.unit (sbOf u p.sb).slc) u else if p.why = 0 then u else cntAdd 0xD0 0x828 1 u
     if p.expect / 2 ^ 34 = 3 then modFtl (fun x => { x with slots := smDel x.slots (p.expect % 2 ^ 34) }) v else v) := rfl

/-- A commit whose entry has moved leaves the map. -/
theorem commitProg_moved {p : Prog} {s : State} (h : mapGet s p.idx ≠ p.expect) : (commitProg p s).ftl.map = s.ftl.map := by
  have hcounted := commitCounted_map p s
  have hget : (mapGet (commitCounted p s) p.idx == p.expect) = false := by rw [mapGet, hcounted]; exact beq_false_of_ne h
  have hkeep : (if p.why = 0 then commitCounted p s else cntAdd 0xD0 0x828 1 (commitCounted p s)).ftl.map = s.ftl.map := by
    split
    · exact hcounted
    · rw [cntAdd_ftl, hcounted]
  rw [commitProg_counted]
  dsimp only
  rw [hget, if_neg Bool.false_ne_true]
  split
  · exact hkeep
  · exact hkeep

theorem filter_all {α : Type} (l : List α) : l.filter (fun _ => true) = l := List.filter_eq_self.mpr fun _ _ => rfl

/-- A wordline that is programmed without a failure commits its units, and nothing is withdrawn. -/
theorem wordlineDone_good {s : State} {sb wl : Nat} (hwl : firstWl s sb = some wl) {b : State}
    (hb : b = countDies sb 0x808 (modSb sb (fun b => { b with used := max b.used ((wl + 1) * wlUnits b.slc) })
      (modFtl (fun x => { x with progs := x.progs.filter fun p => !(p.sb == sb && uWl p.unit == wl) }) s))) {u : State}
    (hu : u = closeFull sb ((s.ftl.progs.filter fun p => p.sb == sb && uWl p.unit == wl).foldl (fun s p => commitProg p s) b))
    (hlive : (sbOf u sb).st ≠ .retiring) : wordlineDone sb ⟨[], true⟩ s = settleThrough (goRuns u) := by
  subst hb hu
  unfold wordlineDone
  rw [hwl]
  simp only [List.filter_nil, List.isEmpty_nil, true_or, if_true, List.contains_nil, Bool.not_false, filter_all, List.foldl_nil]
  rw [if_neg]
  · rfl
  · rintro ⟨hret, -⟩
    exact hlive hret

/-! ### Erases -/

/-- A superblock that is erased without a failure is free, or retired at the limit of its erases. -/
theorem execEraseComplete_good {s : State} {sb : Nat} (hst : (sbOf s sb).st = .erasing) {b : State}
    (hb : b = countDies sb 0x810 (modSb sb (fun b => { b with st := .free, slc := false, used := 0, closedT := 0, order := 0, erases := (sbOf s sb).erases + 1 })
      (modFtl (fun x => { x with units := x.units.filter fun e => uSb e.1 != sb, qual := x.qual.filter fun e => uSb e.1 != sb,
                                 suspends := (List.range 32).foldl (fun m j => smDel m (dieOf sb j)) x.suspends }) s))) :
    execEraseComplete sb ⟨[], true⟩ s = .next (admitWrites (freeRose (if regFld b 0xD0 0x128 11 0 ≤ (sbOf s sb).erases + 1 then retireSb sb b else b))) := by
  subst hb
  unfold execEraseComplete
  rw [if_neg (by simp [hst])]
  simp only [List.filter_nil, List.foldl_nil, ne_eq, not_true_eq_false, false_and, false_or]
  rfl

/-! ### Reads, channels and the diagnostic decode -/

theorem execFlashReadComplete_unit {s : State} {u : Nat} {f : FUnit} (hu : smFind s.ftl.units u = some f) (r : ReadOut) {a b c : State}
    (ha : a = if r.suspends then suspendDie (uSb u) (uSlot u) s else s)
    (hb : b = modFtl (fun x => { x with qual := smPut 0 x.qual u (if smGet 0 a.ftl.qual u = 3 then 3 else if r.hardOk then 0 else if r.softOk then 1 else 2) }) a)
    (hc : c = cntAdd (mtePage u) 0x828 r.corrected (levelReports (dieOf (uSb u) (uSlot u)) (ageClass b (uSb u)) (mtePage u) r b)) :
    execFlashReadComplete u r s =
      .next (goRuns (unitRead u (if regFld c 0xD0 0x124 6 0 * 240 < r.corrected * 100 then schedRewrite u c else c)).2) := by
  subst hc hb ha
  unfold execFlashReadComplete
  rw [hu]
  rfl

theorem execChannelStopsResponding_new {s : State} {ch : Nat} (hch : ch < 64) (hnew : ch ∉ s.ftl.downChannels) :
    execChannelStopsResponding ch s = .next (goRuns ((List.range 16).foldl (fun s i => retireDie (ch * 16 + i) s)
      (modFtl (fun x => { x with downChannels := x.downChannels ++ [ch] }) s))) := by
  unfold execChannelStopsResponding
  rw [if_neg (by simp [hch, hnew])]
  rfl

theorem writeMteDiag_go {s : State} {g : Nat} {w : Word} (hg : g < 16) (hgo : bit w.toNat 0 = true) :
    writeMteDiag (0xC0 + g) w s = diagDecode g ((regWord s (0xC0 + g) 0x124).toNat + 2 ^ 32 * regFld s (0xC0 + g) 0x128 1 0) s := by
  unfold writeMteDiag
  rw [if_neg (by simp [hgo]; omega), Nat.add_sub_cancel_left]

/-! ### Collection -/

section
variable {s : State} (hflush : s.pwr.flush = none)
include hflush

theorem execWriteBufferDrain_drains (n : Nat) :
    execWriteBufferDrain n s = .next (((drainOrder s).take n).foldl (fun s e => drainSlot e s) (goRuns s)) := by
  unfold execWriteBufferDrain
  rw [hflush]
  rfl

/-- With nothing in the way, background collection runs for a victim while free superblocks are short, and otherwise ends. -/
theorem execBackgroundGc_idle (hfg : s.ftl.foreground = false) (hidle : mteIdle s = true) (hrun : gcRun s = none) :
    execBackgroundGc s = (match gcVictim (fun n k => decide (k * 10 < sbCap (sbOf s n).slc * 9)) s with
      | some n => if regFld s 0xD0 0x120 31 16 ≤ sbFree s then ok (modFtl (fun x => { x with background := false }) s)
        else ok (goRuns (beginRun n 1 none (modFtl (fun x => { x with background := true }) s)))
      | none => ok (modFtl (fun x => { x with background := false }) s)) := by
  unfold execBackgroundGc
  dsimp only
  rw [if_neg (by simp [hflush, hfg, hidle, hrun])] <;> rfl

omit hflush in
theorem execForegroundGc_rests (hfg : s.ftl.foreground = false) (hfree : gcLw s ≤ sbFree s) : execForegroundGc s = .next s := by
  unfold execForegroundGc
  rw [if_pos (Or.inr ⟨by simp [hfg], hfree⟩)]
  rfl

/-- What foreground collection is entered with. -/
def foregroundEntered (s : State) : State :=
  advisory 0xD0 0 0xD001 0 0 (modFtl (fun x => { x with foreground := true, background := false, credit := 0 }) s)

omit hflush in
theorem foregroundEntered_eq (hfg : s.ftl.foreground = false) : (if s.ftl.foreground = true then s
    else advisory 0xD0 0 0xD001 0 0 (modFtl (fun x => { x with foreground := true, background := false, credit := 0 }) s)) = foregroundEntered s :=
  if_neg (Bool.eq_false_iff.mp hfg)

section
variable (hfg : s.ftl.foreground = false) (hfree : sbFree s < gcLw s)
include hfg hfree

theorem execForegroundGc_victim (hrun : gcRun (foregroundEntered s) = none) {n : Nat}
    (hn : gcVictim (hasInvalid (foregroundEntered s)) (foregroundEntered s) = some n) :
    execForegroundGc s = .next (admitWrites (goRuns (beginRun n 1 none (foregroundEntered s)))) := by
  unfold execForegroundGc
  rw [if_neg (by simp [hflush, hfree])]
  dsimp only
  rw [foregroundEntered_eq hfg, hrun, hn]
  rfl

theorem execForegroundGc_goesOn (hrun : gcRun (foregroundEntered s) ≠ none) :
    execForegroundGc s = .next (admitWrites (goRuns (foregroundEntered s))) := by
  unfold execForegroundGc
  rw [if_neg (by simp [hflush, hfree])]
  dsimp only
  rw [foregroundEntered_eq hfg, if_pos (Option.isSome_iff_ne_none.mpr hrun)]
  rfl

end

theorem execSlcFold_folds (hmay : mteIdle s = true ∨ hostSlc s = false) {n : Nat} (hn : oldestSlc s = some n) :
    execSlcFold s = .next (goRuns (beginRun n 2 none s)) := by
  unfold execSlcFold
  rw [if_neg (by rcases hmay with h | h <;> simp [hflush, h]), hn]
  rfl

end

/-- Settles O48: what each event of the flash does where its conditions hold. -/
theorem flashEventResult : Obligations.FlashEventResult := by
  unfold Obligations.FlashEventResult
  refine ⟨⟨?read, ?program, fun s p hmoved => commitProg_moved hmoved, ?erase, fun s ch hch hnew => execChannelStopsResponding_new hch hnew, ?diag⟩, ?collect⟩
  case read =>
    intro s u r f hu a b c d
    exact execFlashReadComplete_unit hu r rfl rfl rfl
  case program =>
    intro s sb wl hwl mine a b hlive
    exact congrArg (fun u => Host.Outcome.next (admitWrites u)) (wordlineDone_good hwl rfl rfl hlive)
  case erase =>
    intro s sb hst n a b
    have hdone := execEraseComplete_good hst (b := b) rfl
    exact ⟨fun hlt => hdone.trans (by rw [if_neg (Nat.not_le.mpr hlt)]), fun hle => hdone.trans (by rw [if_pos hle])⟩
  case diag =>
    intro s p g w hg hr hgo
    refine (regRow_runs hr _).trans ?_
    rw [writeMteDiag_go hg hgo]
  case collect =>
    intro s hflush
    refine ⟨fun n => execWriteBufferDrain_drains hflush n, fun g => rfl, fun hfg hidle hrun => ?_, ?_,
      fun hfg hfree => execForegroundGc_rests hfg hfree, fun n hmay hn => execSlcFold_folds hflush hmay hn⟩
    · have hgc := execBackgroundGc_idle hflush hfg hidle hrun
      refine ⟨fun n hn hshort => hgc.trans ?_, fun n hn hmany => hgc.trans ?_, fun hn => hgc.trans ?_⟩
      · rw [hn]
        exact if_neg (Nat.not_le.mpr hshort)
      · rw [hn]
        exact if_pos hmany
      · rw [hn] <;> rfl
    · intro hfg hfree a
      exact ⟨fun n hrun hn => execForegroundGc_victim hflush hfg hfree hrun hn, fun hrun => execForegroundGc_goesOn hflush hfg hfree hrun⟩

end Sys2Proof.Machine
end

section
/-! PROOFS. The Ethernet port's link: LINK_EN, auto-negotiation, link up and down, FEC windows and the address registers (R399 to R403). -/
namespace Sys2Proof.Machine
open Sys2Proof

/-! ### LINK_EN -/

section
variable {s : State} {w : Word}

theorem writeNiuCtrl_starts (hwas : linkEn s = false) (hup : s.niu.linkUp = false) (hon : linkEn (storeRw 0x10 0x100 w s) = true) :
    writeNiuCtrl w s = modNiu (fun x => { x with anSince := some (now (storeRw 0x10 0x100 w s)) }) (storeRw 0x10 0x100 w s) := by
  have hup' : (storeRw 0x10 0x100 w s).niu.linkUp = false := hup
  unfold writeNiuCtrl
  dsimp only
  rw [if_pos hon, if_neg (by simp [hwas, hup'])]

theorem writeNiuCtrl_stays (hwas : linkEn s = true) (hon : linkEn (storeRw 0x10 0x100 w s) = true) : writeNiuCtrl w s = storeRw 0x10 0x100 w s := by
  unfold writeNiuCtrl
  dsimp only
  rw [if_pos hon, if_pos (Or.inl hwas)]

theorem writeNiuCtrl_takesDown (hup : s.niu.linkUp = true) (hoff : linkEn (storeRw 0x10 0x100 w s) = false) :
    writeNiuCtrl w s = goDown (storeRw 0x10 0x100 w s) := by
  have hup' : (storeRw 0x10 0x100 w s).niu.linkUp = true := hup
  unfold writeNiuCtrl
  dsimp only
  rw [if_neg (Bool.eq_false_iff.mp hoff), if_pos hup']

theorem writeNiuCtrl_stops (hup : s.niu.linkUp = false) (hoff : linkEn (storeRw 0x10 0x100 w s) = false) :
    writeNiuCtrl w s = modNiu (fun x => { x with anSince := none }) (storeRw 0x10 0x100 w s) := by
  have hup' : ¬ (storeRw 0x10 0x100 w s).niu.linkUp = true := Bool.eq_false_iff.mp hup
  unfold writeNiuCtrl
  dsimp only
  rw [if_neg (Bool.eq_false_iff.mp hoff), if_neg hup']

end

/-! ### The link -/

theorem execAutoNegotiationTimeout_restarts {s : State} {t : Nat} (ht : s.niu.anSince = some t) {u : State} (hu : u = advanceMaster (t + 1000000000) s) :
    execAutoNegotiationTimeout s = .next (modNiu (fun x => { x with anSince := some (now u) }) u) := by
  subst hu
  unfold execAutoNegotiationTimeout
  rw [ht]
  rfl

theorem execLinkUp_comesUp {s : State} {t : Nat} (ht : s.niu.anSince = some t) (hon : linkEn s = true) (hup : s.niu.linkUp = false) :
    execLinkUp s = .next (modChip (fun c => { c with pll := c.pll % 16 + 16 }) (modNiu (fun x => { x with linkUp := true, laneLock := 15, anSince := none }) s)) := by
  unfold execLinkUp
  rw [if_pos ⟨hon, by simp [hup], by simp [ht]⟩]
  rfl

/-- The state of a port whose link has gone down, before the reference is looked at. -/
def linkLost (s : State) : State :=
  let v := cntAdd 0x10 0x878 1 (cntAdd 0x10 0x860 (txHeld s) s)
  advisory 0x10 0 0x1001 0 0 (modChip (fun c => { c with pll := c.pll % 16 })
    (modNiu (fun x => { x with linkUp := false, laneLock := 0, txq := [], anSince := if linkEn v then some (now v) else none }) v))

theorem execLinkDown_up {s : State} (hup : s.niu.linkUp = true) :
    execLinkDown s = .next (if regFld (linkLost s) 0x11 0x100 1 0 = 0 ∧ (linkLost s).sext.haveRef then refLost (linkLost s) else linkLost s) :=
  if_pos hup

/-! ### FEC windows -/

theorem cntAdd_niu (page off n : Nat) (s : State) : (cntAdd page off n s).niu = s.niu := by
  obtain ⟨m, hm⟩ := cntAdd_eq page off n s
  rw [hm]
  rfl

section
variable {s u : State} {fixed errs : Nat} (hup : s.niu.linkUp = true) (hu : u = cntAdd 0x10 0x830 errs (cntAdd 0x10 0x828 fixed s))
include hup hu

theorem execFecWindow_degrades (hmany : regFld u 0x10 0x17C 15 0 ≤ errs) (hnew : s.niu.fecDegraded = false) :
    execFecWindow fixed errs s = .next (advisory 0x10 1 0x1002 0 0 (modNiu (fun x => { x with fecDegraded := true }) u)) := by
  have hwas : u.niu.fecDegraded = false := by rw [hu, cntAdd_niu, cntAdd_niu]; exact hnew
  unfold execFecWindow
  rw [if_neg (by simp [hup])]
  dsimp only
  rw [← hu, if_pos hmany, if_neg (Bool.eq_false_iff.mp hwas)]
  rfl

theorem execFecWindow_recovers (hfew : errs < regFld u 0x10 0x17C 15 0) :
    execFecWindow fixed errs s = .next (modNiu (fun x => { x with fecDegraded := false }) u) := by
  unfold execFecWindow
  rw [if_neg (by simp [hup])]
  dsimp only
  rw [← hu, if_neg (Nat.not_le.mpr hfew)]
  rfl

end

/-! ### Addresses -/

section
variable {s : State} {off : Nat} {w : Word}

theorem writeIp_address (haddr : off = 0x11C ∨ (0x130 ≤ off ∧ off ≤ 0x13C)) (hnew : regWord (storeRw 0x10 off w s) 0x10 off ≠ regWord s 0x10 off) :
    writeIp off w s = (((storeRw 0x10 off w s).qcu.conns.filter fun e => e.2.v6 == decide (0x130 ≤ off)).map Prod.fst).foldl
      (fun s n => closeConn n 1 (emit (.rst n) s)) (storeRw 0x10 off w s) := by
  unfold writeIp
  dsimp only
  rw [if_neg hnew, if_pos haddr]

theorem writeIp_gateway (hgw : off = 0x124 ∨ 0x150 ≤ off) (hnew : regWord (storeRw 0x10 off w s) 0x10 off ≠ regWord s 0x10 off) :
    writeIp off w s = modNiu (fun x => { x with gateway := none }) (storeRw 0x10 off w s) := by
  unfold writeIp
  dsimp only
  rw [if_neg hnew, if_neg (by omega), if_pos hgw]

theorem writeIp_lengthOnly (hoff : off = 0x120 ∨ off = 0x140) : writeIp off w s = storeRw 0x10 off w s := by
  unfold writeIp
  dsimp only
  rw [if_neg (by omega : ¬ (off = 0x11C ∨ (0x130 ≤ off ∧ off ≤ 0x13C))), if_neg (by omega : ¬ (off = 0x124 ∨ 0x150 ≤ off)), ite_self]

theorem writeIp_same (hsame : regWord (storeRw 0x10 off w s) 0x10 off = regWord s 0x10 off) : writeIp off w s = storeRw 0x10 off w s := if_pos hsame

/-- A write of an address register that its path reaches is the register's own effect. -/
theorem execIpAddressWrite_reaches {p : Path} (hr : Reaches s p 0x10 off) (hoff : off ∈ ipOffs) : execIpAddressWrite p off w s = .next (writeIp off w s) :=
  (if_pos (List.contains_iff_mem.mpr hoff)).trans (regRow_runs hr _)

end

/-- Settles O49: what each event of the link does, and what a write of an address register changes. -/
theorem portLinkResult : Obligations.PortLinkResult := by
  unfold Obligations.PortLinkResult
  refine ⟨?enable, ?negotiate, ?down, ?fec, ?address⟩
  case enable =>
    intro s p w hr u
    have hrow : execLinkEnWrite p w s = .next (writeNiuCtrl w s) := regRow_runs hr _
    exact ⟨fun hwas hup hon => hrow.trans (congrArg _ (writeNiuCtrl_starts hwas hup hon)), fun hwas hon => hrow.trans (congrArg _ (writeNiuCtrl_stays hwas hon)),
      fun hup hoff => hrow.trans (congrArg _ (writeNiuCtrl_takesDown hup hoff)), fun hup hoff => hrow.trans (congrArg _ (writeNiuCtrl_stops hup hoff))⟩
  case negotiate =>
    intro s t ht u
    exact ⟨execAutoNegotiationTimeout_restarts ht rfl, fun hon hup => execLinkUp_comesUp ht hon hup⟩
  case down =>
    intro s hup v u
    exact ⟨fun hptp href => (execLinkDown_up hup).trans (congrArg _ (if_pos ⟨hptp, href⟩)),
      fun hno => (execLinkDown_up hup).trans (congrArg _ (if_neg fun hboth => hno.elim (fun h => h hboth.1) fun h => Bool.eq_false_iff.mp h hboth.2))⟩
  case fec =>
    intro s fixed errs hup u lim
    exact ⟨fun hmany hnew => execFecWindow_degrades hup rfl hmany hnew, fun hfew => execFecWindow_recovers hup rfl hfew⟩
  case address =>
    intro s p off w hr u
    refine ⟨fun haddr hnew => ?_, fun hgw hnew => ?_, fun hoff => ?_, fun hoff hsame => ?_⟩
    · have hoff : off ∈ ipOffs := by simp [ipOffs] at haddr ⊢; omega
      exact (execIpAddressWrite_reaches hr hoff).trans (congrArg _ (writeIp_address (by simp at haddr; omega) hnew))
    · have hoff : off ∈ ipOffs := by simp [ipOffs] at hgw ⊢; omega
      exact (execIpAddressWrite_reaches hr hoff).trans (congrArg _ (writeIp_gateway (by simp at hgw; omega) hnew))
    · have hmem : off ∈ ipOffs := by simp [ipOffs]; omega
      exact (execIpAddressWrite_reaches hr hmem).trans (congrArg _ (writeIp_lengthOnly hoff))
    · exact (execIpAddressWrite_reaches hr hoff).trans (congrArg _ (writeIp_same hsame))

end Sys2Proof.Machine
end

section
/-! PROOFS. Frames of the Ethernet port: receive queues, flow control, pointer faults, address resolution, echoes and timeouts (R398,
R402 to R410, R433). -/
namespace Sys2Proof.Machine
open Sys2Proof

/-! ### Receive queues -/

section
variable {s : State} {f : Frame} (hup : s.niu.linkUp = true) (hprio : f.prio < 8)
include hup hprio

theorem execFrameReceive_bad (hbad : f.len < 64 ∨ 9216 < f.len ∨ f.fcsOk = false) : execFrameReceive f s = .next (cntAdd 0x10 0x820 1 s) := by
  unfold execFrameReceive
  rw [if_neg (by simp [hup, hprio]), if_pos (by simpa using hbad)]
  rfl

variable (hmin : 64 ≤ f.len) (hmax : f.len ≤ 9216) (hfcs : f.fcsOk = true)
include hmin hmax hfcs

theorem execFrameReceive_other (hus : f.toUs = false) : execFrameReceive f s = .next (rxCount f.len s) := by
  unfold execFrameReceive
  rw [if_neg (by simp [hup, hprio]), if_neg (by simp [hmin, hmax, hfcs])]
  dsimp only
  rw [if_pos (by simp [hus])]
  rfl

variable (hus : f.toUs = true)
include hus

theorem execFrameReceive_full (hfull : rxFree (rxCount f.len s) f.prio < entriesOf f) :
    execFrameReceive f s = .next (advisory 0x10 2 0x1003 0 0 (cntAdd 0x10 0x850 1 (rxCount f.len s))) := by
  unfold execFrameReceive
  rw [if_neg (by simp [hup, hprio]), if_neg (by simp [hmin, hmax, hfcs])]
  dsimp only
  rw [if_neg (by simp [hus]), if_pos hfull]
  rfl

/-- A frame with room is queued, and its priority is paused where its entries have become short. -/
theorem execFrameReceive_queued (hroom : entriesOf f ≤ rxFree (rxCount f.len s) f.prio) : execFrameReceive f s =
    .next (maybePause f.prio (modNiu (fun x => { x with rxq := smSet x.rxq f.prio (smGet [] x.rxq f.prio ++ [f]) }) (rxCount f.len s))) := by
  unfold execFrameReceive
  rw [if_neg (by simp [hup, hprio]), if_neg (by simp [hmin, hmax, hfcs])]
  dsimp only
  rw [if_neg (by simp [hus]), if_neg (Nat.not_lt.mpr hroom)]
  rfl

end

theorem maybePause_enough {p : Nat} {s : State} (h : 2048 ≤ rxFree s p) : maybePause p s = s := if_neg fun hlow => Nat.not_lt.mpr h hlow.1

theorem maybePause_short {p : Nat} {s : State} (hlow : rxFree s p < 2048) (hon : bit (regWord s 0x10 0x160).toNat p = true) (hnew : p ∉ s.niu.xoff) :
    maybePause p s = sendPfc p 0xFFFF (modNiu (fun x => { x with xoff := x.xoff ++ [p] }) s) := if_pos ⟨hlow, hon, by simpa using hnew⟩

/-! ### Flow control -/

theorem execPfcRepeat_off {s : State} {p : Nat} (hoff : p ∈ s.niu.xoff) : execPfcRepeat p s = .next (if 4096 ≤ rxFree s p then
    sendPfc p 0 (modNiu (fun x => { x with xoff := x.xoff.filter (· != p) }) s) else sendPfc p 0xFFFF s) := by
  unfold execPfcRepeat
  rw [if_neg (by simpa using hoff)]
  exact (apply_ite Host.Outcome.next _ _ _).symm

theorem execPfcFrame_taken {s : State} {p : Nat} (q : Nat) (hup : s.niu.linkUp = true) (hp : p < 8) {u : State} (hu : u = cntAdd 0x10 0x840 1 (rxCount 64 s)) :
    execPfcFrame p q s = .next (if q = 0 then endPause p u else modNiu (fun x => { x with paused := smSet x.paused p (now u + cdiv (q * 64) 100) }) u) := by
  subst hu
  unfold execPfcFrame
  rw [if_neg (by simp [hup, hp])]
  exact (apply_ite Host.Outcome.next _ _ _).symm

theorem execPfcPauseExpiry_paused {s : State} {p t : Nat} (ht : smFind s.niu.paused p = some t) :
    execPfcPauseExpiry p s = .next (endPause p (advanceMaster t s)) := by
  unfold execPfcPauseExpiry
  rw [ht]
  rfl

theorem execPauseFrame_up {s : State} (hup : s.niu.linkUp = true) : execPauseFrame s = .next (cntAdd 0x10 0x848 1 (rxCount 64 s)) := if_pos hup

theorem execTxUnderrun_up {s : State} (hup : s.niu.linkUp = true) :
    execTxUnderrun s = .next (advisory 0x10 3 0x1004 0 0 (cntAdd 0x10 0x858 1 s)) := if_pos hup

/-- A pointer fault empties its queue, and the fourth within a second is FATAL. -/
theorem execXqPtrFault_queue {s : State} (rx : Bool) {p : Nat} (hp : p < 8) {k : Nat} (hk : k = if rx then p else 8 + p) {old : List Nat}
    (hold : old = (smGet [] s.niu.ptrFaults k).filter fun t => now s < t + 1000000000) {u : State}
    (hu : u = advisory 0x10 4 0x1005 0 0 (cntAdd 0x10 0x868 1 (modNiu (fun x => { x with
      rxq := if rx then smDel x.rxq p else x.rxq, txq := if rx then x.txq else smDel x.txq p, ptrFaults := smSet x.ptrFaults k (old ++ [now s]) }) s))) :
    execXqPtrFault rx p s = .next (if 3 ≤ old.length then raiseFatal 0x1006 0x10 (some 5) 0 0 u else u) := by
  subst hu hold hk
  unfold execXqPtrFault
  rw [if_neg (Nat.not_le.mpr hp)]
  exact (apply_ite Host.Outcome.next _ _ _).symm

/-! ### Protocol engines -/

/-- A good frame for the module is counted and taken. -/
theorem takeFrame_good {s : State} {f : Frame} (hup : s.niu.linkUp = true) (hmin : 64 ≤ f.len) (hmax : f.len ≤ 9216) (hfcs : f.fcsOk = true)
    (hus : f.toUs = true) (k : State → State) : takeFrame f k s = k (rxCount f.len s) := by
  unfold takeFrame
  rw [if_neg (by simp [hup]), if_neg (by simp [hmin, hmax, hfcs])]
  exact if_pos hus

theorem execGatewayRefresh_asks {s : State} (hup : s.niu.linkUp = true) (hgw : hasGateway s = true) {u : State} (hu : u = sendFrame (gatewayAsk s) s) :
    execGatewayRefresh s = .next (u.niu.unresolved.foldl (fun s e => sendOn (pcpStrait s) e.2 (outLen e.2) s)
      (modNiu (fun x => { x with gateway := some (now u), unresolved := [] }) u)) := by
  subst hu
  unfold execGatewayRefresh
  rw [if_neg (by simp [hup, hgw])]
  rfl

theorem execUnresolvedTimeout_drops {s : State} {t : Nat} {m : OutMsg} {l : List (Nat × OutMsg)} (h : s.niu.unresolved = (t, m) :: l) :
    execUnresolvedTimeout s = .next (cntAdd 0x10 0x870 1 (modNiu (fun x => { x with unresolved := l }) (advanceMaster (t + 1000000000) s))) := by
  unfold execUnresolvedTimeout
  rw [h]
  rfl

theorem execTcpRetransmitTimeout_open {s : State} {n : Nat} {c : Conn} (hc : conn? s n = some c) :
    execTcpRetransmitTimeout n s = .next (modNiu (fun x => { x with rto := smSet x.rto n (min 64000 (2 * smGet 1000 x.rto n)) }) s) := by
  unfold execTcpRetransmitTimeout
  rw [hc]
  rfl

/-- Settles O50: what a frame, a pause, a pointer fault, a request or a timeout of the port does. -/
theorem portFrameResult : Obligations.PortFrameResult := by
  unfold Obligations.PortFrameResult
  refine ⟨?frame, ?pfcRepeat, ?pfc, ?expiry, fun s hup => ⟨execPauseFrame_up hup, execTxUnderrun_up hup⟩, ?pointer, ?taken, ?gateway,
    fun s t m l h => execUnresolvedTimeout_drops h, fun s n c hc => execTcpRetransmitTimeout_open hc⟩
  case frame =>
    intro s f hup hprio u need v
    refine ⟨fun hbad => execFrameReceive_bad hup hprio hbad, fun hmin hmax hfcs => ⟨?_, ?_, ?_, ?_⟩⟩
    · exact fun hus => execFrameReceive_other hup hprio hmin hmax hfcs hus
    · exact fun hus hfull => execFrameReceive_full hup hprio hmin hmax hfcs hus hfull
    · exact fun hus hroom henough => (execFrameReceive_queued hup hprio hmin hmax hfcs hus hroom).trans (congrArg _ (maybePause_enough henough))
    · exact fun hus hroom hlow hon hnew => (execFrameReceive_queued hup hprio hmin hmax hfcs hus hroom).trans (congrArg _ (maybePause_short hlow hon hnew))
  case pfcRepeat =>
    intro s p hoff
    exact ⟨fun hfew => (execPfcRepeat_off hoff).trans (congrArg _ (if_neg (Nat.not_le.mpr hfew))),
      fun hmany => (execPfcRepeat_off hoff).trans (congrArg _ (if_pos hmany))⟩
  case pfc =>
    intro s p q hup hp u
    have hframe := execPfcFrame_taken q hup hp (u := u) rfl
    refine ⟨fun hq => hframe.trans ?_, fun hq => hframe.trans (congrArg _ (if_pos hq))⟩
    rw [if_neg hq, cdiv, Nat.mul_comm q 64]
    rfl
  case expiry => exact fun s p t ht => execPfcPauseExpiry_paused ht
  case pointer =>
    intro s rx p hp k old u
    have hfault := execXqPtrFault_queue rx hp (k := k) rfl (old := old) rfl (u := u) rfl
    exact ⟨fun hfew => hfault.trans (congrArg _ (if_neg (Nat.not_le.mpr hfew))), fun hmany => hfault.trans (congrArg _ (if_pos hmany))⟩
  case taken =>
    intro s f hup hmin hmax hfcs hus u
    have htake := takeFrame_good hup hmin hmax hfcs hus
    refine ⟨fun b hb => congrArg Host.Outcome.next ((htake _).trans ?_), fun b hb => congrArg Host.Outcome.next ((htake _).trans ?_),
      fun hno => congrArg Host.Outcome.next ((htake _).trans ?_)⟩
    · rw [show arpAnswer (rxCount f.len s) f.data = some b from hb]
      rfl
    · rw [show echoAnswer (rxCount f.len s) f.data = some b from hb]
      rfl
    · rw [show echoAnswer (rxCount f.len s) f.data = none from hno]
      rfl
  case gateway =>
    intro s hup hgw u
    exact execGatewayRefresh_asks hup hgw rfl

end Sys2Proof.Machine
end

section
/-! PROOFS. PTP messages, and the loss of the reference (R411 to R414). -/
namespace Sys2Proof.Machine
open Sys2Proof

/-! ### Messages -/

section
variable {s : State} {m : PtpMsg}

theorem ptpTake_otherDomain (hup : s.niu.linkUp = true) (hsrc : sxSource s = 0) (f : State → State) (hdom : m.domain ≠ regFld s 0x10 0x174 7 0) :
    ptpTake m f s = .next (cntAdd 0x11 0x810 1 s) := by
  unfold ptpTake
  rw [if_neg (by simp [hup, hsrc]), if_pos hdom]
  rfl

theorem ptpTake_runs (hup : s.niu.linkUp = true) (hsrc : sxSource s = 0) (f : State → State) (hdom : m.domain = regFld s 0x10 0x174 7 0) :
    ptpTake m f s = .next (f s) := by
  unfold ptpTake
  rw [if_neg (by simp [hup, hsrc]), if_neg (not_not_intro hdom)]
  rfl

theorem takeSync_badInterval (hbad : m.interval < -7 ∨ 1 < m.interval) : takeSync m s = cntAdd 0x11 0x810 1 s := if_pos hbad

/-- A Sync of the grandmaster is kept for its Follow_Up, or complete. -/
theorem takeSync_good (hlo : -7 ≤ m.interval) (hhi : m.interval ≤ 1) (hgm : m.gm = s.sext.gm) :
    takeSync m s = if m.twoStep then
        modSext (fun x => { x with sync := some (m.seqId, (m.local_ : Int) - latRx - m.corr) }) (modSext (fun x => { x with syncInterval := m.interval }) s)
      else syncDone ((m.stamp : Int) + m.corr) ((m.local_ : Int) - latRx) (modSext (fun x => { x with syncInterval := m.interval }) s) := by
  unfold takeSync
  rw [if_neg (by omega), if_neg (not_not_intro hgm)]

theorem takeFollowUp_match {t2 : Int} (hsync : s.sext.sync = some (m.seqId, t2)) (hgm : m.gm = s.sext.gm) :
    takeFollowUp m s = syncDone ((m.stamp : Int) + m.corr) t2 s := by
  unfold takeFollowUp
  rw [hsync]
  exact if_pos ⟨rfl, hgm⟩

theorem takeDelayResp_match {t1 t2 : Int} {t3 : Nat} (h3 : s.sext.t3 = some t3) (h12 : s.sext.t1t2 = some (t1, t2)) (hseq : m.seqId = s.sext.delaySeq)
    (hgm : m.gm = s.sext.gm) {d : Int} (hd : d = ((t2 - t1) + ((m.stamp : Int) - m.corr - (t3 : Int))) / 2) {v : State}
    (hv : v = refPresent (modSext (fun x => { x with pathDelay := d, t3 := none, delayInterval := m.interval }) s)) :
    takeDelayResp m s = if s.sext.haveRef then v else measure (t2 - t1 - d - ptpAsym v) v := by
  subst hv hd
  unfold takeDelayResp
  rw [h3, h12]
  dsimp only
  rw [if_neg (by simp [hseq, hgm])]
  cases s.sext.haveRef <;> rfl

/-- The foreign masters after an Announce. -/
def foreignAfter (m : PtpMsg) (s : State) : List Foreign :=
  if s.sext.foreign.any fun x => x.gm == m.gm then s.sext.foreign.map fun x => if x.gm = m.gm then ⟨m.gm, m.rank⟩ else x
  else if s.sext.foreign.length < 8 then s.sext.foreign ++ [⟨m.gm, m.rank⟩] else s.sext.foreign

theorem takeAnnounce_best {b : Foreign} (hb : bestMaster (foreignAfter m s) = some b) :
    takeAnnounce m s = if b.gm = s.sext.gm then modSext (fun x => { x with foreign := foreignAfter m s }) s
      else advisory 0x11 4 0x1105 0 0 (modSext (fun x => { x with gm := b.gm, sync := none, t1t2 := none, t3 := none })
        (modSext (fun x => { x with foreign := foreignAfter m s }) s)) := by
  change (match bestMaster (foreignAfter m s) with
    | none => _
    | some b => _) = _
  rw [hb] <;> rfl

theorem execDelayReqSend_sends (hup : s.niu.linkUp = true) (hsrc : sxSource s = 0) (hgm : s.sext.gm ≠ 0) (hdom : m.domain = regFld s 0x10 0x174 7 0)
    {n : Nat} (hn : n = (s.sext.delaySeq + 1) % 65536) :
    execDelayReqSend s = .next (cntAdd 0x11 0x808 1 (sendOn (pcpPtp s) (.frame (delayReq m.domain n)) 90
      (modSext (fun x => { x with delaySeq := n, t3 := some (((now s : Int) + latTx).toNat) }) s))) := by
  subst hn
  unfold execDelayReqSend
  rw [if_neg (by simp [hup, hsrc, hgm]), hdom]
  rfl

end

/-! ### The reference -/

section
variable {s : State} {t : Nat} (ht : s.sext.lossT = some t)
include ht

theorem execHoldover_coast (hst : s.sext.st = .coast) :
    execHoldover s = .next (advisory 0x11 1 0x1102 0 0 (sextTo .holdover (advanceMaster (t + 60000000000) s))) := by
  unfold execHoldover
  rw [hst, ht]
  rfl

theorem execLost_holdover (hst : s.sext.st = .holdover) :
    execLost s = .next (advisory 0x11 2 0x1103 0 0 (sextTo .lost (cntAdd 0x11 0x838 1 (advanceMaster (t + 600000000000) s)))) := by
  unfold execLost
  rw [hst, ht]
  rfl

end

/-- Settles O51: each PTP message, and the steps from the loss of the reference to LOST. -/
theorem ptpMessageResult : Obligations.PtpMessageResult := by
  unfold Obligations.PtpMessageResult
  refine ⟨?other, ?taken, fun s h => if_pos h, fun s t ht => ⟨execHoldover_coast ht, execLost_holdover ht⟩⟩
  case other =>
    intro s m hup hsrc hdom v
    have hother (f : State → State) : ptpTake m f s = v := ptpTake_otherDomain hup hsrc f hdom
    exact ⟨hother _, hother _, hother _, hother _⟩
  case taken =>
    intro s m hup hsrc hdom done t2 u
    have htake (f : State → State) : ptpTake m f s = .next (f s) := ptpTake_runs hup hsrc f hdom
    refine ⟨fun hbad => ?_, fun hlo hhi hgm htwo => ?_, fun hlo hhi hgm hone => ?_, fun t2 hsync hgm => ?_, ?_, ?_, ?_⟩
    · exact (htake _).trans (congrArg _ (takeSync_badInterval hbad))
    · exact (htake _).trans (congrArg _ ((takeSync_good hlo hhi hgm).trans (if_pos htwo)))
    · exact (htake _).trans (congrArg _ ((takeSync_good hlo hhi hgm).trans (if_neg (Bool.eq_false_iff.mp hone))))
    · exact (htake _).trans (congrArg _ (takeFollowUp_match hsync hgm))
    · intro t1 t2 t3 h3 h12 hseq hgm d v
      exact (htake _).trans (congrArg _ (takeDelayResp_match h3 h12 hseq hgm rfl rfl))
    · rintro l b rfl hb
      exact (htake _).trans (congrArg _ (takeAnnounce_best hb))
    · intro hgm n
      exact execDelayReqSend_sends hup hsrc hgm hdom rfl

end Sys2Proof.Machine
end

section
/-! PROOFS. The Sextant's states, PPS, time of day and source (R414, R415, R417 to R419). -/
namespace Sys2Proof.Machine
open Sys2Proof

/-! ### An offset is applied -/

section
variable {s : State} {o : Int}

/-- The state with an offset noted. -/
def offsetNoted (o : Int) (s : State) : State := modSext (fun x => { x with offset := o }) s

theorem offsetNoted_st (o : Int) (s : State) : (modSext (fun x => { x with offset := o }) s).sext.st = s.sext.st := rfl

theorem measure_coasting (hst : s.sext.st = .coast ∨ s.sext.st = .holdover) : measure o s =
    if o.natAbs < stepNs (offsetNoted o s) then slewTime o (sextTo .locked (offsetNoted o s)) else stepTime o (sextTo .acquiring (offsetNoted o s)) := by
  unfold measure
  dsimp only
  rw [offsetNoted_st]
  rcases hst with hst | hst
  · rw [hst]
    exact ite_of_iff decide_eq_true_iff rfl rfl
  · rw [hst]
    exact ite_of_iff decide_eq_true_iff rfl rfl

theorem measure_locked (hst : s.sext.st = .locked) : measure o s =
    if o.natAbs < stepNs (offsetNoted o s) then slewTime o (modSext (fun x => { x with big := 0 }) (offsetNoted o s))
    else if 2 ≤ s.sext.big then stepTime o (sextTo .acquiring (offsetNoted o s)) else modSext (fun x => { x with big := x.big + 1 }) (offsetNoted o s) := by
  unfold measure
  dsimp only
  rw [offsetNoted_st, hst]
  exact ite_of_iff decide_eq_true_iff rfl rfl

theorem measure_acquiring (hst : s.sext.st = .acquiring) : measure o s =
    if o.natAbs < stepNs (offsetNoted o s) then
      if 16 ≤ (if o.natAbs ≤ 100 then s.sext.good + 1 else 0) then
        sextTo .locked (slewTime o (modSext (fun x => { x with good := if o.natAbs ≤ 100 then x.good + 1 else 0 }) (offsetNoted o s)))
      else slewTime o (modSext (fun x => { x with good := if o.natAbs ≤ 100 then x.good + 1 else 0 }) (offsetNoted o s))
    else stepTime o (modSext (fun x => { x with good := 0 }) (offsetNoted o s)) := by
  have hfar : ((!decide (o.natAbs < stepNs (offsetNoted o s))) = true) ↔ ¬ o.natAbs < stepNs (offsetNoted o s) := by simp
  unfold measure
  dsimp only
  rw [offsetNoted_st, hst, ← ite_not (p := o.natAbs < stepNs (offsetNoted o s))]
  exact ite_of_iff hfar rfl rfl

end

/-! ### PPS -/

section
variable {s u : State} {t : Nat} {o : Int} (hsrc : sxSource s = 1) (hu : u = advanceMaster t s) (ho : o = (t : Int) - (edgeSecond t u * secNs : Nat))
include hsrc hu ho

theorem execPpsInEdge_used (hgood : u.sext.st ≠ .locked ∨ o.natAbs ≤ 1000) : execPpsInEdge t s = .next (measure o (refPresent
    (cntAdd 0x11 0x820 1 (modSext (fun x => { x with ppsLast := some t, ppsRej := 0, todSec := edgeSecond t u, todArmed := false }) u)))) := by
  unfold execPpsInEdge
  rw [if_neg (not_not_intro hsrc)]
  dsimp only
  rw [← hu, ← ho, if_neg (by simpa [Decidable.or_iff_not_imp_left] using hgood)]
  subst ho
  rfl

/-- An edge too far off is counted, and the third in a row is taken. -/
theorem execPpsInEdge_rejected (hst : u.sext.st = .locked) (hfar : 1000 < o.natAbs) {rej : State}
    (hrej : rej = advisory 0x11 3 0x1104 0 0 (cntAdd 0x11 0x828 1 (modSext (fun x => { x with ppsRej := x.ppsRej + 1 }) u))) :
    execPpsInEdge t s = .next (if rej.sext.ppsRej < 3 then rej
      else measure o (measure o (measure o (modSext (fun x => { x with ppsRej := 0, big := 0 }) rej)))) := by
  unfold execPpsInEdge
  rw [if_neg (not_not_intro hsrc)]
  dsimp only
  rw [← hu, ← ho, if_pos ⟨hst, hfar⟩, ← hrej]
  exact (apply_ite Host.Outcome.next _ _ _).symm

end

theorem execPpsOutPulse_idle {s : State} (hidle : s.sext.ppsOut = false) {t0 t : Nat} (h0 : t0 = cdiv (now s) secNs * secNs)
    (ht : t = if t0 = s.sext.ppsRise ∧ t0 ≠ 0 then t0 + secNs else t0) {u : State} (hu : u = advanceMaster t s) :
    execPpsOutPulse s = .next (if ppsOutOn u then emit (.pps true) (modSext (fun x => { x with ppsOut := true, ppsRise := t }) u) else u) := by
  unfold execPpsOutPulse
  rw [if_neg (Bool.eq_false_iff.mp hidle)]
  dsimp only
  rw [← h0, ← ht, ← hu]
  exact (apply_ite Host.Outcome.next _ _ _).symm

theorem execPpsOutPulseEnd_high {s : State} (hhigh : s.sext.ppsOut = true) : execPpsOutPulseEnd s = .next (emit (.pps false)
    (modSext (fun x => { x with ppsOut := false }) (advanceMaster (s.sext.ppsRise + regFld s 0x11 0x124 18 0 * 1000) s))) := if_pos hhigh

/-! ### The source -/

/-- The Sextant without what it knew of its source. -/
def sourceCleared (s : State) : State :=
  modSext (fun x => { x with haveRef := false, sync := none, t1t2 := none, t3 := none, good := 0, big := 0, ppsRej := 0, ppsLast := none }) s

theorem writeSource_same {s : State} {w : Word} (h : sxSource (storeRw 0x11 0x100 w s) = sxSource s) : writeSource w s = storeRw 0x11 0x100 w s := if_pos h

theorem writeSource_other {s v : State} {w : Word} (h : sxSource (storeRw 0x11 0x100 w s) ≠ sxSource s) (hv : v = sourceCleared (storeRw 0x11 0x100 w s)) :
    writeSource w s = if sxSource v = 2 then sextTo .freerun v else if v.chip.stage = .ready then sextTo .acquiring v else v := by
  subst hv
  exact if_neg h

/-- Settles O52: an offset in each state, the PPS edges and pulses, the time of day and a change of source. -/
theorem sextantResult : Obligations.SextantResult := by
  unfold Obligations.SextantResult
  refine ⟨?offset, ?edge, ?pulse, fun s hhigh => execPpsOutPulseEnd_high hhigh, fun s p w hr => regRow_runs hr _, ?source⟩
  case offset =>
    intro s o u small
    refine ⟨fun hst => ?_, fun hst hs => ?_, fun hst hs hb => ?_, fun hst hs hb => ?_, fun hst hs => ?_, fun hst hs hfar => ?_, fun hst hs hnear hg => ?_,
      fun hst hs hnear hg => ?_⟩
    · exact ⟨fun hs => (measure_coasting hst).trans (if_pos hs), fun hs => (measure_coasting hst).trans (if_neg hs)⟩
    · exact (measure_locked hst).trans (if_pos hs)
    · exact (measure_locked hst).trans ((if_neg hs).trans (if_neg (Nat.not_le.mpr hb)))
    · exact (measure_locked hst).trans ((if_neg hs).trans (if_pos hb))
    · exact (measure_acquiring hst).trans (if_neg hs)
    · refine (measure_acquiring hst).trans ((if_pos hs).trans ?_)
      simp only [if_neg (Nat.not_le.mpr hfar)]
      rfl
    · refine (measure_acquiring hst).trans ((if_pos hs).trans ?_)
      simp only [if_pos hnear]
      exact if_neg (by omega)
    · refine (measure_acquiring hst).trans ((if_pos hs).trans ?_)
      simp only [if_pos hnear]
      exact if_pos (by omega)
  case edge =>
    intro s t hsrc u sec o rej
    have hrejected (hst : u.sext.st = .locked) (hfar : 1000 < o.natAbs) := execPpsInEdge_rejected hsrc (u := u) rfl (o := o) rfl hst hfar (rej := rej) rfl
    exact ⟨fun hgood => execPpsInEdge_used hsrc (u := u) rfl (o := o) rfl hgood, fun hst hfar hfew => (hrejected hst hfar).trans (congrArg _ (if_pos hfew)),
      fun hst hfar hmany => (hrejected hst hfar).trans (congrArg _ (if_neg (Nat.not_lt.mpr hmany)))⟩
  case pulse =>
    intro s hidle t0 t u
    have hpulse := execPpsOutPulse_idle hidle (t0 := t0) rfl (t := t) rfl (u := u) rfl
    exact ⟨fun hon => hpulse.trans (congrArg _ (if_pos hon)), fun hoff => hpulse.trans (congrArg _ (if_neg (Bool.eq_false_iff.mp hoff)))⟩
  case source =>
    intro s p w hr u v
    have hrow : execSourceWrite p w s = .next (writeSource w s) := regRow_runs hr _
    have hother (h : sxSource u ≠ sxSource s) := hrow.trans (congrArg Host.Outcome.next (writeSource_other (v := v) h rfl))
    exact ⟨fun hsame => hrow.trans (congrArg _ (writeSource_same hsame)), fun h hnone => (hother h).trans (congrArg _ (if_pos hnone)),
      fun h hsome hready => (hother h).trans (congrArg _ ((if_neg hsome).trans (if_pos hready)))⟩

end Sys2Proof.Machine
end

section
/-! PROOFS. Strait: segments, timers, configuration and delivery (R420 to R431, R436). -/
namespace Sys2Proof.Machine
open Sys2Proof

/-! ### Segments -/

section
variable {s : State} {m : StraitMsg} (hup : s.niu.linkUp = true)
include hup

theorem straitRow_otherPort (type : Nat) (hport : m.port ≠ straitPort s) : straitRow type m s = .next (cntAdd 0x10 0x870 1 s) := by
  unfold straitRow
  rw [if_neg (by simp [hup]), if_pos hport]
  rfl

variable (hport : m.port = straitPort s)
include hport

theorem straitRow_off (type : Nat) (hoff : straitOn s = false) : straitRow type m s = .next (cntAdd 0x12 0x820 1 s) := by
  unfold straitRow
  rw [if_neg (by simp [hup]), if_neg (not_not_intro hport), if_pos (by simp [hoff])]
  rfl

variable (hon : straitOn s = true)
include hon

theorem straitRow_malformed (type : Nat) (hparse : parseSeg s m.data = none) : straitRow type m s = .next (cntAdd 0x12 0x820 1 s) := by
  unfold straitRow
  rw [if_neg (by simp [hup]), if_neg (not_not_intro hport), if_neg (by simp [hon]), hparse]
  rfl

variable {g : Segment} (hparse : parseSeg s m.data = some g)
include hparse

theorem straitRow_stranger (type : Nat) (hno : senderSlot s m g = none) : straitRow type m s = .next (cntAdd 0x12 0x820 1 s) := by
  unfold straitRow
  rw [if_neg (by simp [hup]), if_neg (not_not_intro hport), if_neg (by simp [hon]), hparse]
  dsimp only
  rw [hno]
  rfl

/-- A segment of a member is taken under the row of its own type. -/
theorem straitRow_takes {type n : Nat} (hsend : senderSlot s m g = some n) (htype : g.type = type) : straitRow type m s = .next (takeSeg n g s) := by
  unfold straitRow
  rw [if_neg (by simp [hup]), if_neg (not_not_intro hport), if_neg (by simp [hon]), hparse]
  dsimp only
  rw [hsend]
  exact if_pos htype

end

/-- The state after a segment's session and acknowledgment are taken. -/
def segNoted (n : Nat) (g : Segment) (s : State) : State :=
  if bit g.flags 0 then takeAck n g.src g.ack (newSession n g.src g.session s) else newSession n g.src g.session s

section
variable {s v : State} {n : Nat} {g : Segment} (hv : v = segNoted n g s)
include hv

theorem takeSeg_ack (htype : g.type = 4) : takeSeg n g s = v := by
  subst hv
  exact if_pos htype

variable (htype : g.type ≠ 4)
include htype

/-- What a segment other than an ACK does by its place in the sequence. -/
theorem takeSeg_sequenced : takeSeg n g s = if g.seq = (member v n g.src).rxSeq then
      if g.type = 1 ∧ 33554432 < bufBytes v + g.pay.length then bufFull v else acceptSeg n g v
    else if seqBefore g.seq (member v n g.src).rxSeq then cntAdd 0x12 0x818 1 (modMember n g.src (fun b => { b with ackDue := max 1 b.ackDue }) v) else v := by
  subst hv
  exact if_neg htype

end

/-! ### Timers -/

theorem execStraitRetransmit_resends {s u : State} {n m : Nat} (hopen : (member s n m).unacked ≠ [])
    (hu : u = (member s n m).unacked.foldl
      (fun v g => cntAdd 0x12 0x810 1 (sendSeg (member s n m).ipv6 (member s n m).addr (resendBytes v n m g.bytes) v))
      (modMember n m (fun b => { b with retries := b.retries + 1, rto := 2 * b.rto, ackDue := 0 }) s)) :
    execStraitRetransmit n m s = .next (if regFld u 0x12 0x10C 19 16 ≤ (member s n m).retries + 1 then markDown n m u else u) := by
  subst hu
  unfold execStraitRetransmit
  dsimp only
  rw [if_neg (by simpa using hopen)]
  exact (apply_ite Host.Outcome.next _ _ _).symm

theorem execMemberStale_waits {s : State} {n m t : Nat} (ht : (member s n m).reply = some t) : execMemberStale n m s =
    .next (outOfStep n m (fun b => { b with stale := true }) (advanceMaster (t + 3000000 * regFld s 0x12 0x110 15 0) s)) := by
  unfold execMemberStale
  rw [ht]
  rfl

theorem execHeldMessageExpiry_held {s : State} {k : Nat} {h : HeldMsg} (hh : s.strait.held[k]? = some h) : execHeldMessageExpiry k s =
    .next (cntAdd 0x12 0x830 1 (modStrait (fun x => { x with held := x.held.eraseIdx k }) (advanceMaster (h.since + 1000000 * regFld s 0x12 0x114 15 0) s))) := by
  unfold execHeldMessageExpiry
  rw [hh]
  rfl

/-! ### Configuration -/

section
variable {s : State} {w : Word} {n m : Nat} {b : Member} (hn : n = selGrp s) (hm : m = selMem s) (hb : b = member s n m)
include hn hm hb

theorem writeMemCfg_same (hvalid : b.valid = bit w.toNat 0) (hv6 : b.ipv6 = bit w.toNat 1) (haddr : b.addr = b.addrNext) : writeMemCfg w s = s := by
  subst hb hn hm
  exact if_pos ⟨hvalid, hv6, haddr⟩

theorem writeMemCfg_changes (hnew : b.valid ≠ bit w.toNat 0 ∨ b.ipv6 ≠ bit w.toNat 1 ∨ b.addr ≠ b.addrNext) :
    writeMemCfg w s = modMember n m (fun b => { Member.reset with valid := bit w.toNat 0, ipv6 := bit w.toNat 1, addr := b.addrNext, addrNext := b.addrNext })
      (outOfStep n m id (dropMsgs n m (if b.part.isEmpty then s else sendFailed none s))) := by
  subst hb hn hm
  refine if_neg ?_
  rintro ⟨hvalid, hv6, haddr⟩
  exact hnew.elim (fun h => h hvalid) fun h => h.elim (fun h => h hv6) fun h => h haddr

end

/-- An address word waits for the next write of the member's configuration. -/
theorem execStraitMemCfgWrite_word {s : State} {p : Path} {i : Nat} (hi : i < 4) (hr : Reaches s p 0x12 (0x134 + 4 * i)) (w : Word) :
    execStraitMemCfgWrite p (0x134 + 4 * i) w s = .next (modMember (selGrp s) (selMem s) (fun b => { b with addrNext := putWord4 b.addrNext i w }) s) := by
  have hidx : (0x134 + 4 * i - 0x134) / 4 = i := by omega
  unfold execStraitMemCfgWrite
  rw [if_neg (by omega), if_pos (by simp; omega), hidx]
  exact regRow_runs hr _

section
variable {s : State} {w : Word}

/-- Another slot uses the group that a write names. -/
def groupTaken (s : State) (n g : Nat) : Bool := s.strait.slots.any fun e => e.1 != n && e.2.group == g

theorem groupTaken_iff (s : State) (n g : Nat) : groupTaken s n g = true ↔ ∃ e ∈ s.strait.slots, e.1 ≠ n ∧ e.2.group = g := by
  simp [groupTaken]

theorem writeGrpCfg_free (hg : bits w.toNat 15 0 ≠ 0) (hfree : ∀ e ∈ s.strait.slots, e.1 ≠ selGrp s → e.2.group ≠ bits w.toNat 15 0) :
    writeGrpCfg w s = modGrp (selGrp s) (fun x => { x with group := bits w.toNat 15 0, self := bits w.toNat 23 16 }) s := by
  have hnot : ¬ (bits w.toNat 15 0 ≠ 0 ∧ groupTaken s (selGrp s) (bits w.toNat 15 0) = true) := by
    rintro ⟨-, hused⟩
    obtain ⟨e, he, hslot, hgrp⟩ := (groupTaken_iff _ _ _).mp hused
    exact hfree e he hslot hgrp
  unfold groupTaken at hnot
  unfold writeGrpCfg
  dsimp only
  rw [if_neg hg]
  simp only [if_neg hnot]

theorem writeGrpCfg_taken (hg : bits w.toNat 15 0 ≠ 0) (hused : ∃ e ∈ s.strait.slots, e.1 ≠ selGrp s ∧ e.2.group = bits w.toNat 15 0) :
    writeGrpCfg w s = modGrp (selGrp s) (fun x => { x with self := bits w.toNat 23 16 }) s := by
  have hboth : bits w.toNat 15 0 ≠ 0 ∧ groupTaken s (selGrp s) (bits w.toNat 15 0) = true := ⟨hg, (groupTaken_iff _ _ _).mpr hused⟩
  unfold groupTaken at hboth
  unfold writeGrpCfg
  dsimp only
  rw [if_neg hg]
  simp only [if_pos hboth]

theorem writeGrpCfg_zero (hg : bits w.toNat 15 0 = 0) : writeGrpCfg w s =
    modStrait (fun x => { x with held := x.held.filter fun h => h.grp != (grpSlot s (selGrp s)).group })
      (modGrp (selGrp s) (fun x => { x with group := 0, self := bits w.toNat 23 16 }) s) := by
  unfold writeGrpCfg
  dsimp only
  rw [if_pos hg]
  simp only [hg, ne_eq, not_true_eq_false, false_and, if_false]

end

/-- Settles O53: what a segment, a timer or a write of the configuration does. -/
theorem straitResult : Obligations.StraitResult := by
  unfold Obligations.StraitResult
  refine ⟨?segment, fun s n m hdue => if_neg hdue, ?resend, fun s n m t ht => execMemberStale_waits ht, fun s => rfl,
    fun s k h hh => execHeldMessageExpiry_held hh, ?memCfg, fun s p i w hi hr => execStraitMemCfgWrite_word hi hr w, ?grpCfg, fun s p w hr => regRow_runs hr _⟩
  case segment =>
    intro s m hup all own
    have hall {r : Res} (h : ∀ type, straitRow type m s = r) : all r := ⟨h 1, h 2, h 3, h 4, h 5, h 6⟩
    refine ⟨fun hport => hall fun type => straitRow_otherPort hup type hport, fun hport hoff => hall fun type => straitRow_off hup hport type hoff,
      fun hport hon hparse => hall fun type => straitRow_malformed hup hport hon type hparse,
      fun g hport hon hparse hno => hall fun type => straitRow_stranger hup hport hon hparse type hno, ?_⟩
    intro g n hport hon hparse hsend u v want
    have htakes (type : Nat) (htype : g.type = type) : straitRow type m s = .next (takeSeg n g s) := straitRow_takes hup hport hon hparse hsend htype
    have hown {r : State} (h : takeSeg n g s = r) : own g.type (.next r) := by
      subst h
      exact ⟨htakes 1, htakes 2, htakes 3, htakes 4, htakes 5, htakes 6⟩
    have hseq (htype : g.type ≠ 4) := takeSeg_sequenced (v := v) rfl htype
    refine ⟨fun htype => (htakes 4 htype).trans (congrArg _ (takeSeg_ack rfl htype)), fun htype hwant hdata hfull => ?_, fun htype hwant hroom => ?_,
      fun htype hne hbefore => ?_, fun htype hne hafter => ?_⟩
    · exact (htakes 1 hdata).trans (congrArg _ ((hseq htype).trans ((if_pos hwant).trans (if_pos ⟨hdata, hfull⟩))))
    · exact hown ((hseq htype).trans ((if_pos hwant).trans (if_neg fun hboth => Nat.not_lt.mpr (hroom hboth.1) hboth.2)))
    · exact hown ((hseq htype).trans ((if_neg hne).trans (if_pos hbefore)))
    · exact hown ((hseq htype).trans ((if_neg hne).trans (if_neg (Bool.eq_false_iff.mp hafter))))
  case resend =>
    intro s n m hopen mb u
    have hresend := execStraitRetransmit_resends hopen (u := u) rfl
    exact ⟨fun hmore => hresend.trans (congrArg _ (if_neg (Nat.not_le.mpr hmore))), fun hlast => hresend.trans (congrArg _ (if_pos hlast))⟩
  case memCfg =>
    intro s p w hr n m b
    have hrow : execStraitMemCfgWrite p 0x130 w s = .next (writeMemCfg w s) := regRow_runs hr _
    exact ⟨fun hvalid hv6 haddr => hrow.trans (congrArg _ (writeMemCfg_same (b := b) rfl rfl rfl hvalid hv6 haddr)),
      fun hnew => hrow.trans (congrArg _ (writeMemCfg_changes (b := b) rfl rfl rfl hnew))⟩
  case grpCfg =>
    intro s p w hr n g old
    have hrow : execStraitGrpCfgWrite p 0x124 w s = .next (writeGrpCfg w s) := regRow_runs hr _
    exact ⟨fun hg hfree => hrow.trans (congrArg _ (writeGrpCfg_free hg hfree)), fun hg hused => hrow.trans (congrArg _ (writeGrpCfg_taken hg hused)),
      fun hg => hrow.trans (congrArg _ (writeGrpCfg_zero hg))⟩

/-! ### Delivery -/

section
variable {s : State} {n : Nat} {g : Segment}

/-- A message of one segment is delivered at once. -/
theorem acceptSeg_whole (hcnt : g.cnt = 1) (hidx : g.idx = 0) {b : State} (hb : b = deliverMsg n g g.pay (cntAdd 0x12 0x808 1 (modMember n g.src
      (fun b => { b with rxSeq := (b.rxSeq + 1) % 2 ^ 32, ackDue := b.ackDue + 1, part := [] }) s))) :
    acceptSeg n g s = if 8 ≤ (member b n g.src).ackDue then sendAck n g.src b else b := by
  subst hb
  unfold acceptSeg
  simp only [hcnt, hidx, if_true, List.nil_append, List.length_singleton, and_self, decide_true, true_or, Nat.zero_add, List.flatten_singleton]

theorem deliverMsg_data (d : List Byte) (htype : g.type = 1) : deliverMsg n g d s = takeData g.grp g.src g.tag d (straitWake s) := if_pos htype

theorem deliverMsg_sync (d : List Byte) (htype : g.type = 5) : deliverMsg n g d s = answerSync n g.src g.time s := by
  unfold deliverMsg
  simp only [htype, Nat.reduceEqDiff, if_false, if_true]

theorem deliverMsg_reply (d : List Byte) (htype : g.type = 6) : deliverMsg n g d s = takeReply n g.src d s := by
  unfold deliverMsg
  simp only [htype, Nat.reduceEqDiff, if_false, if_true]

end

theorem takeData_held {s : State} {g m tag : Nat} (d : List Byte) (hno : matchRecv s g m tag = none) :
    takeData g m tag d s = modStrait (fun x => { x with held := x.held ++ [{ grp := g, mem := m, tag := tag, data := d, since := now s }] }) s := by
  rw [takeData, hno]

theorem takeData_given {s : State} {g m tag : Nat} (d : List Byte) {o : OpenRecv} (ho : matchRecv s g m tag = some o) : takeData g m tag d s = giveRecv o d s := by
  rw [takeData, ho]

/-- Settles O54: an accepted segment that is a whole message, and what each type of message does. -/
theorem straitMessageResult : Obligations.StraitMessageResult := by
  unfold Obligations.StraitMessageResult
  intro s n g
  refine ⟨fun hcnt hidx => acceptSeg_whole hcnt hidx rfl, fun d htype hno => (deliverMsg_data d htype).trans (takeData_held d hno),
    fun d o htype ho => (deliverMsg_data d htype).trans (takeData_given d ho), fun d htype => deliverMsg_sync d htype, fun d htype => deliverMsg_reply d htype⟩

end Sys2Proof.Machine
end

section
/-! PROOFS. The management core's events: watchdog, update, session, tamper, key store, waiting commands, MCTP and I3C (R438, R439, R447,
R458, R464, R465, R491, R492, R496). -/
namespace Sys2Proof.Machine
open Sys2Proof

/-! ### The firmware update -/

/-- The state with the next sector of an update programmed. -/
def sectorProgrammed (u : FwUpdate) (s : State) : State :=
  let i := if u.done + 1 < u.total then u.done + 1 else 0
  modMsp (fun m => { m with update := some { u with done := u.done + 1 }, progress := (u.done + 1, u.total) })
    (norProgram (i * sectorBytes) ((u.img.drop (i * sectorBytes)).take sectorBytes) (modMsp (fun m => { m with nor := smDel m.nor i }) s))

section
variable {s : State} {u : FwUpdate} (hu : s.msp.update = some u)
include hu

theorem execSectorProgramComplete_good : execSectorProgramComplete true s =
    .next (if u.done + 1 < u.total then sectorProgrammed u s else updateEnd u (sectorProgrammed u s)) := by
  unfold execSectorProgramComplete
  rw [hu]
  rfl

theorem execSectorProgramComplete_failed : execSectorProgramComplete false s = .next (updateFail s) := by
  unfold execSectorProgramComplete
  rw [hu]
  rfl

end

/-- An image that reads back as it was sent runs after a management reset. -/
theorem updateEnd_good {u : FwUpdate} {v w : State} (hdig : imageDigest (norRead v u.img.length) = imageDigest u.img)
    (hw : w = mgmtReset (modMsp (fun m => { m with update := none }) v)) :
    updateEnd u v = if w.msp.fw.isSome then complete .admin u.tag stSuccess 0 0 [] (cntAdd 0x03 0x808 1 w)
      else complete .admin u.tag stInternalError 0 0 [] (cntAdd 0x03 0x810 1 w) := by
  subst hw
  exact if_neg (not_not_intro hdig)

theorem execSessionIdleTimeout_open {s : State} {x : Session} (hx : s.msp.session = some x) :
    execSessionIdleTimeout s = .next (modMsp (fun m => { m with session := none }) (advanceMaster (x.lastT + 60000000000) s)) := by
  unfold execSessionIdleTimeout
  rw [hx]
  rfl

/-! ### Tamper -/

theorem execTamperEvent_armed {s : State} {src : Nat} (hsrc : src < 4) (hon : tamperOn s = true) (hloop : src = 0 → loopOn s = true) :
    execTamperEvent src s = .next (tamper src s) := by
  unfold execTamperEvent
  rw [if_neg (Nat.not_le.mpr hsrc), if_pos]
  · rfl
  · split
    · exact hloop ‹_›
    · exact hon

section
variable {s : State} (hloop : loopOn s = true)
include hloop

theorem execTamperLoopMeasure_good :
    execTamperLoopMeasure true s = .next (modMsp (fun m => { m with loopSince := none, loopRaised := false }) s) := by
  unfold execTamperLoopMeasure
  rw [hloop]
  rfl

/-- What a measurement outside the window does with the time since which the loop is out. -/
theorem execTamperLoopMeasure_bad {t : Nat} (ht : t = s.msp.loopSince.getD (now s)) : execTamperLoopMeasure false s =
    .next (if s.msp.loopRaised ∨ (now s < t + 10000 ∧ !(s.chip.powered && s.chip.stage == .powerGood)) then modMsp (fun m => { m with loopSince := some t }) s
      else tamper 0 (modMsp (fun m => { m with loopRaised := true }) (modMsp (fun m => { m with loopSince := some t }) s))) := by
  subst ht
  unfold execTamperLoopMeasure
  rw [if_neg (by simp [hloop]), if_neg Bool.false_ne_true]
  exact (apply_ite Host.Outcome.next _ _ _).symm

theorem execTamperLoopMeasure_raises {t : Nat} (ht : s.msp.loopSince = some t) (hraised : s.msp.loopRaised = false) (hlong : t + 10000 ≤ now s) :
    execTamperLoopMeasure false s = .next (tamper 0 (modMsp (fun m => { m with loopRaised := true }) (modMsp (fun m => { m with loopSince := some t }) s))) := by
  rw [execTamperLoopMeasure_bad hloop (t := t) (by rw [ht, Option.getD_some]), if_neg]
  rintro (h | ⟨hshort, -⟩)
  · exact Bool.eq_false_iff.mp hraised h
  · exact Nat.not_lt.mpr hlong hshort

theorem execTamperLoopMeasure_begins (hnone : s.msp.loopSince = none) (hstage : s.chip.stage ≠ .powerGood) :
    execTamperLoopMeasure false s = .next (modMsp (fun m => { m with loopSince := some (now s) }) s) := by
  rw [execTamperLoopMeasure_bad hloop (t := now s) (by rw [hnone, Option.getD_none]), if_pos]
  exact Or.inr ⟨Nat.lt_add_of_pos_right (by decide), by simp [hstage]⟩

end

/-! ### Commands that wait for the core -/

section
variable {s : State} {t : Tag} {c : Conn} {o : OutCmd} {k i z : Nat} (hc : conn? s t.conn = some c) (ho : c.outst.find? (fun o => o.cid == t.cid) = some o)
  (hq : c.queue = some (k, i, z)) (hbusy : s.msp.busy = true) (hwhole : o.need = 0)
include hc ho hq hbusy hwhole

/-- A command that waits for the busy core, on its own kind of queue. -/
theorem execCommandInterrupted_waits (hneeds : needsMsp o = true) : execCommandInterrupted t s =
    (if o.op = 0x8D then (if i == 0 then ok s else ok (refuse t cMGMT_BUSY 0 s))
     else if !(i == 0) ∨ (s.msp.recovery ∧ (o.op = 0x10 ∨ o.op = 0x11)) then ok s else ok (complete .admin t stInterrupted 0 0 [] s)) := by
  unfold execCommandInterrupted
  rw [hc, Option.bind_some, ho]
  dsimp only [Option.map_some]
  rw [hq]
  dsimp only
  rw [if_neg (by simp [hbusy, hneeds, hwhole])]

theorem execCommandInterrupted_mutate (hi : i ≠ 0) (hop : o.op = 0x8D) : execCommandInterrupted t s = .next (refuse t cMGMT_BUSY 0 s) := by
  rw [execCommandInterrupted_waits hc ho hq hbusy hwhole (by simp [needsMsp, hop]), if_pos hop, if_neg (by simpa using hi)]
  rfl

theorem execCommandInterrupted_admin (hi : i = 0) (hop : o.op ∈ [0x0D, 0x80, 0x84, 0x10, 0x11]) (hmay : s.msp.recovery = false ∨ o.op ∈ [0x0D, 0x80, 0x84]) :
    execCommandInterrupted t s = .next (complete .admin t stInterrupted 0 0 [] s) := by
  have hneeds : needsMsp o = true := by
    simp only [needsMsp, decide_eq_true_eq, List.mem_cons, List.not_mem_nil, or_false] at hop ⊢
    omega
  rw [execCommandInterrupted_waits hc ho hq hbusy hwhole hneeds, if_neg, if_neg]
  · rfl
  · rintro (h | ⟨hrec, hdl⟩)
    · simp [hi] at h
    · simp only [List.mem_cons, List.not_mem_nil, or_false] at hmay
      exact hmay.elim (fun h => Bool.eq_false_iff.mp h hrec) fun h => by omega
  · simp only [List.mem_cons, List.not_mem_nil, or_false] at hop
    omega

end

/-! ### MCTP and I3C -/

theorem execMctpControlMessage_answers {s : State} {m : List Byte} (hpow : s.chip.powered = true ∨ s.pwr.aux = true) (htype : fld m 0 1 % 128 = 0) :
    execMctpControlMessage m s = .next (emit (.sideband [0, BitVec.ofNat 8 (fld m 1 1 % 128), BitVec.ofNat 8 (fld m 2 1), 0]) s) := by
  unfold execMctpControlMessage
  rw [if_neg (by simpa [Decidable.or_iff_not_imp_left] using hpow), if_pos htype]
  rfl

theorem execEntdaa_takes {s : State} {a : Nat} (ha : a < 128) (hpow : s.chip.powered = true ∨ s.pwr.aux = true) (hnew : s.pwr.i3c = none) :
    execEntdaa a s = .next (modPwr (fun p => { p with i3c := some a }) s) := by
  unfold execEntdaa
  rw [if_neg (Nat.not_le.mpr ha), if_pos ⟨hpow, by simp [hnew]⟩]
  rfl

/-- Settles O56: what each event of the management core does where its conditions hold. -/
theorem managementEventResult : Obligations.ManagementEventResult := by
  unfold Obligations.ManagementEventResult
  refine ⟨fun s hruns => ⟨if_pos hruns, if_pos hruns⟩, ?update, fun s x hx => execSessionIdleTimeout_open hx,
    fun s src hsrc hon hloop => execTamperEvent_armed hsrc hon hloop, ?loop, fun s hpend => if_pos hpend, ?waiting,
    fun s m hpow htype => execMctpControlMessage_answers hpow htype, fun s a ha hpow hnew => execEntdaa_takes ha hpow hnew⟩
  case update =>
    intro s u hu i v
    have hgood := execSectorProgramComplete_good hu
    refine ⟨fun hmore => hgood.trans (congrArg _ (if_pos hmore)), ?_, execSectorProgramComplete_failed hu⟩
    intro hlast hdig w
    exact hgood.trans (congrArg _ ((if_neg (Nat.not_lt.mpr hlast)).trans (updateEnd_good (v := v) hdig rfl)))
  case loop =>
    exact fun s hloop => ⟨execTamperLoopMeasure_good hloop, fun t ht hraised hlong => execTamperLoopMeasure_raises hloop ht hraised hlong,
      fun hnone hstage => execTamperLoopMeasure_begins hloop hnone hstage⟩
  case waiting =>
    intro s t c o k i z hc ho hq hbusy hwhole
    refine ⟨fun hi hop => execCommandInterrupted_mutate hc ho hq hbusy hwhole hi hop, fun hi hop => ?_, fun hi hrec hop => ?_⟩
    · exact execCommandInterrupted_admin hc ho hq hbusy hwhole hi (List.mem_append_left [0x10, 0x11] hop) (Or.inr hop)
    · exact execCommandInterrupted_admin hc ho hq hbusy hwhole hi (List.mem_append_right [0x0D, 0x80, 0x84] hop) (Or.inl hrec)

end Sys2Proof.Machine
end

section
/-! PROOFS. The pins and the input voltage (R491 to R497, R500, R505, R506). -/
namespace Sys2Proof.Machine
open Sys2Proof

/-! ### PWR_EN and MOD_RST_N -/

/-- The state with a new level of PWR_EN. -/
def pwrEnSet (l : Bool) (s : State) : State := modPwr (fun p => { p with pwrEn := l, armed := p.armed || l }) s

theorem execPwrEnEdge_new {s : State} {l : Bool} (hnew : s.pwr.pwrEn ≠ l) :
    execPwrEnEdge l s = .next (if l ∨ !s.chip.powered then pwrEnSet l s else beginFlush .pwrEn (pwrEnSet l s)) :=
  (if_neg hnew.symm).trans (apply_ite Host.Outcome.next _ _ _).symm

/-- The state with a new level of MOD_RST_N. -/
def modRstNSet (l : Bool) (s : State) : State := modPwr (fun p => { p with modRstN := l }) s

theorem execModRstNEdge_new {s : State} {l : Bool} (hnew : s.pwr.modRstN ≠ l) :
    execModRstNEdge l s = .next (if l ∨ !s.chip.powered then modRstNSet l s
      else beginFlush .modRst (modChip (fun c => { c with modReset := some (c.modReset.getD 1) }) (modRstNSet l s))) :=
  (if_neg hnew.symm).trans (apply_ite Host.Outcome.next _ _ _).symm

/-! ### BRAKE_N -/

/-- The state with a new level of BRAKE_N. -/
def brakeNSet (l : Bool) (s : State) : State := modPwr (fun p => { p with brakeN := l }) s

theorem execBrakeNEdge_powered {s : State} {l : Bool} (hnew : s.pwr.brakeN ≠ l) (hpow : s.chip.powered = true) :
    execBrakeNEdge l s = .next (if l then modPwr (fun p => { p with brake := p.toggleHold }) (brakeNSet l s) else brakeRequest (brakeNSet l s)) := by
  unfold execBrakeNEdge
  rw [if_neg hnew.symm]
  dsimp only
  rw [if_neg (by simp [modPwr, setPwr, hpow])]
  exact (apply_ite Host.Outcome.next _ _ _).symm

/-- Every array gated by a brake request that is counted. -/
def brakeGated (s : State) : State := gateAll (cntAdd 0x02 0x808 1 s)

/-- The request comes within 100 µs of the last. -/
def brakeNear (s : State) : Bool := match s.pwr.brakeT with | some t => decide (now s ≤ t + 100000) | none => false

theorem brakeNear_iff (s : State) : brakeNear s = true ↔ ∃ t, s.pwr.brakeT = some t ∧ now s ≤ t + 100000 := by
  unfold brakeNear
  cases s.pwr.brakeT with
  | none => simp
  | some t => simp

/-- The brake is on from now, and its release waits where `hold` says so. -/
def braked (hold : Bool) (s : State) : State :=
  modPwr (fun p => { p with brake := true, brakeT := some (now s), brakeHeld := false, toggleHold := p.toggleHold || hold }) s

/-- A brake request gates every array, and a second one near the last is recorded and holds the release. -/
theorem brakeRequest_eq (s : State) : brakeRequest s =
    if brakeNear s && !(brakeGated s).pwr.toggleHold then advisory 0x02 1 0x0202 0 0 (braked (brakeNear s) (brakeGated s)) else braked (brakeNear s) (brakeGated s) := rfl

theorem gateAll_pwr (s : State) : (gateAll s).pwr = s.pwr := by
  have hfold (l : List Nat) (u : State) : (l.foldl (fun s k => modCore k (fun c => { c with gated := true }) s) u).pwr = u.pwr := by
    induction l generalizing u with
    | nil => rfl
    | cons k l ih => exact ih _
  exact hfold _ s

theorem brakeGated_pwr (s : State) : (brakeGated s).pwr = s.pwr := by
  obtain ⟨m, hm⟩ := cntAdd_eq 0x02 0x808 1 s
  rw [brakeGated, gateAll_pwr, hm]
  rfl

theorem brakeRequest_far {s : State} (hfar : brakeNear s = false) : brakeRequest s = braked false (brakeGated s) := by
  rw [brakeRequest_eq, hfar, if_neg (by simp)]

theorem brakeRequest_near {s : State} (hnear : brakeNear s = true) (hhold : s.pwr.toggleHold = false) :
    brakeRequest s = advisory 0x02 1 0x0202 0 0 (braked true (brakeGated s)) := by
  rw [brakeRequest_eq, hnear, brakeGated_pwr, hhold]
  rfl

theorem braked_false (s : State) :
    braked false s = modPwr (fun p => { p with brake := true, brakeT := some (now s), brakeHeld := false, toggleHold := p.toggleHold }) s := by
  simp only [braked, Bool.or_false]

theorem braked_true (s : State) :
    braked true s = modPwr (fun p => { p with brake := true, brakeT := some (now s), brakeHeld := false, toggleHold := true }) s := by
  simp only [braked, Bool.or_true]

theorem execBrakeHeld_low {s : State} {t : Nat} (hlow : s.pwr.brakeN = false) (hnew : s.pwr.brakeHeld = false) (hpow : s.chip.powered = true)
    (ht : s.pwr.brakeT = some t) :
    execBrakeHeld s = .next (advisory 0x02 0 0x0201 0 0 (modPwr (fun p => { p with brakeHeld := true }) (advanceMaster (t + 60000000000) s))) := by
  unfold execBrakeHeld
  rw [if_neg (by simp [hlow, hnew, hpow]), ht]
  rfl

theorem execActLedTimeout_lit {s : State} {t : Nat} (ht : s.qcu.actLed = some t) :
    execActLedTimeout s = .next (modQcu (fun q => { q with actLed := none }) (advanceMaster (t + 50000000) s)) := by
  unfold execActLedTimeout
  rw [ht]
  rfl

/-! ### The input voltage -/

section
variable {s : State} (hpow : s.chip.powered = true)
include hpow

theorem execInputVoltageEvent_dip :
    execInputVoltageEvent .dip s = .next (advisory 0x02 2 0x0203 0 0 (modPwr (fun p => { p with dipCap := true }) s)) := if_pos hpow

theorem execInputVoltageEvent_ride : execInputVoltageEvent .ride s = .next (if s.pwr.holdupMj < 30000 then powerFail (modPwr (fun p => { p with vin := false }) s)
    else modPwr (fun p => { p with ride := true }) s) :=
  (if_neg (by simp [hpow])).trans (apply_ite Host.Outcome.next _ _ _).symm

theorem inputLost_powered : inputLost s = powerFail (modPwr (fun p => { p with ride := false, vin := false }) s) := if_pos hpow

theorem execInputVoltageEvent_over :
    execInputVoltageEvent .over s = .next (beginFlush .over (modPwr (fun p => { p with vin := false }) s)) := if_pos hpow

end

section
variable {s : State}

theorem inputRestored_ride (hride : s.pwr.ride = true) :
    inputRestored s = advisory 0x02 2 0x0203 0 0 (cntAdd 0x02 0x828 1 (modPwr (fun p => { p with ride := false }) s)) := if_pos hride

variable (hride : s.pwr.ride = false)
include hride

theorem inputRestored_absent (hvin : s.pwr.vin = false) : inputRestored s = modPwr (fun p => { p with vin := true, armed := true }) s :=
  (if_neg (Bool.eq_false_iff.mp hride)).trans (if_pos (by simp [hvin]))

theorem inputRestored_dip (hvin : s.pwr.vin = true) : inputRestored s = modPwr (fun p => { p with dipCap := false }) s :=
  (if_neg (Bool.eq_false_iff.mp hride)).trans (if_neg (by simp [hvin]))

end

/-- Settles O58: the edges of the three pins, the auxiliary supply, the timeouts and the input voltage. -/
theorem pinEventResult : Obligations.PinEventResult := by
  unfold Obligations.PinEventResult
  refine ⟨?pwrEn, ?modRst, ?brake, fun s l => rfl, fun s hhold hhigh => if_pos ⟨hhold, hhigh⟩, fun s t hlow hnew hpow ht => execBrakeHeld_low hlow hnew hpow ht,
    fun s t ht => execActLedTimeout_lit ht, ?volt, ?restored⟩
  case pwrEn =>
    intro s l hnew u
    have hedge := execPwrEnEdge_new hnew
    exact ⟨fun hon => hedge.trans (congrArg _ (if_pos (by simpa using hon))), fun hoff hpow => hedge.trans (congrArg _ (if_neg (by simp [hoff, hpow])))⟩
  case modRst =>
    intro s l hnew u
    have hedge := execModRstNEdge_new hnew
    exact ⟨fun hon => hedge.trans (congrArg _ (if_pos (by simpa using hon))), fun hoff hpow => hedge.trans (congrArg _ (if_neg (by simp [hoff, hpow])))⟩
  case brake =>
    intro s l hnew hpow u
    have hedge := execBrakeNEdge_powered hnew hpow
    refine ⟨fun hhigh => hedge.trans (congrArg _ (if_pos hhigh)), ?_⟩
    intro hlow a
    have hrequest : execBrakeNEdge l s = .next (brakeRequest u) := hedge.trans (congrArg _ (if_neg (Bool.eq_false_iff.mp hlow)))
    refine ⟨fun hfar => hrequest.trans (congrArg _ ?_), fun t ht hsoon hhold => hrequest.trans (congrArg _ ?_)⟩
    · refine (brakeRequest_far (Bool.eq_false_iff.mpr fun hnear => ?_)).trans (braked_false _)
      obtain ⟨t, ht, hsoon⟩ := (brakeNear_iff u).mp hnear
      have hs : s.pwr.brakeT = some t := ht
      rcases hfar with hnone | ⟨t', ht', hlate⟩
      · exact Option.some_ne_none t (hs.symm.trans hnone)
      · obtain rfl : t = t' := Option.some.inj (hs.symm.trans ht')
        exact Nat.not_lt.mpr hsoon hlate
    · have hnear : brakeNear u = true := (brakeNear_iff u).mpr ⟨t, ht, hsoon⟩
      rw [brakeRequest_near hnear hhold, braked_true]
      rfl
  case volt =>
    intro s hpow
    have hride := execInputVoltageEvent_ride hpow
    exact ⟨execInputVoltageEvent_dip hpow, fun henough => hride.trans (congrArg _ (if_neg (Nat.not_lt.mpr henough))),
      fun hshort => hride.trans (congrArg _ (if_pos hshort)), congrArg Host.Outcome.next (inputLost_powered hpow),
      congrArg Host.Outcome.next (inputLost_powered hpow), execInputVoltageEvent_over hpow⟩
  case restored =>
    intro s
    exact ⟨fun hride => congrArg Host.Outcome.next (inputRestored_ride hride), fun hride hvin => congrArg Host.Outcome.next (inputRestored_absent hride hvin),
      fun hride hvin => congrArg Host.Outcome.next (inputRestored_dip hride hvin)⟩

end Sys2Proof.Machine
end

section
/-! PROOFS. The governor, the temperatures, the hold-up energy, the die-to-die link and late classes (R20, R22, R29, R498, R501 to R511). -/
namespace Sys2Proof.Machine
open Sys2Proof

/-! ### The governor -/

section
variable {s u v : State} {mw mv : Nat} (hpow : s.chip.powered = true) (hu : u = peakGrant (countInterval mw mv s))
  (hv : v = modPwr (fun p => { p with limitW := govLimit u }) u)
include hpow hu hv

theorem execGovernorInterval_powered : execGovernorInterval mw mv s =
    .next (if brakeLevel v then gateAll v else if 3 ≤ v.qcu.ps.inForce then v
      else regate mw (if v.pwr.peakGrant then 900000 else govLimit u * 1000) v) := by
  unfold execGovernorInterval
  rw [if_neg (by simp [hpow])]
  dsimp only
  rw [← hu, ← hv, apply_ite Host.Outcome.next, apply_ite Host.Outcome.next]
  rfl

end

theorem regate_over {mw cap : Nat} (hover : cap < mw) (s : State) : regate mw cap s =
    setGated true (((gateOrder s).filter fun k => !(core s k).gated).take ((mw - cap + 10999) / 11000)) s := by
  have hround : cdiv (mw - cap) 11000 = (mw - cap + 10999) / 11000 := rfl
  unfold regate
  dsimp only
  rw [if_pos hover, hround]

theorem regate_within {mw cap : Nat} (hwithin : mw ≤ cap) (s : State) : regate mw cap s =
    setGated false (((gateOrder s).reverse.filter fun k => (core s k).gated).take (min 4 ((cap - mw) / 11000))) s := by
  unfold regate
  dsimp only
  rw [if_neg (Nat.not_lt.mpr hwithin)]

/-! ### Temperatures -/

/-- The state with a temperature noted, and the thermal cap recorded where it begins. -/
def thermalNoted (n : Nat) (t : Int) (s : State) : State :=
  let a := modPwr (fun p => { p with temps := smSet p.temps n t }) s
  let cap := decide (thermalCap a < psLimit a)
  let b := modPwr (fun p => { p with throttle := cap }) a
  if cap && !s.pwr.throttle then advisory 0x02 5 0x0206 0 0 b else b

theorem execThermalRead_powered {s : State} {n : Nat} (t : Int) (hn : n < 120) (hpow : s.chip.powered = true) {c : State} (hc : c = thermalNoted n t s) :
    execThermalRead n t s = .next (if t < (sensorLimits n).2 ∨ c.pwr.tripped ∨ c.chip.stage = .powerGood then c
      else raiseFatal 0x0207 0x02 (some 6) 0 0 (wantFlush .trip (modErr (fun e => { e with tripHold := true }) (modPwr (fun p => { p with tripped := true }) c)))) := by
  subst hc
  unfold execThermalRead
  rw [if_neg (Nat.not_le.mpr hn), if_neg (by simp [hpow])]
  exact (apply_ite Host.Outcome.next _ _ _).symm

/-! ### The hold-up energy -/

section
variable {s u : State} {mj : Nat} (hpow : s.chip.powered = true)
  (hu : u = modPwr (fun p => { p with holdupMj := min mj 0xFFFF, holdupUf := min (mj * 1000 / 2688) 0xFFFF }) (cntAdd 0x02 0x838 1 s))
include hpow hu

theorem execHoldupMeasurement_enough (henough : 40000 ≤ mj) :
    execHoldupMeasurement mj s = .next (modPwr (fun p => { p with holdupLow := false, writeThrough := false }) u) := by
  unfold execHoldupMeasurement
  rw [if_neg (by simp [hpow])]
  dsimp only
  rw [← hu, if_pos henough]
  rfl

theorem execHoldupMeasurement_low (hlow : mj < 40000) {v : State}
    (hv : v = advisory 0x02 7 0x0208 0 0 (modPwr (fun p => { p with holdupLow := true, writeThrough := p.writeThrough || decide (mj < 30000) }) u)) :
    execHoldupMeasurement mj s = .next (if u.pwr.holdupLow || u.ftl.flushBad then v else smartEvent 4 v) := by
  have hset : (if (!u.pwr.holdupLow && !u.ftl.flushBad) = true then smartEvent 4 v else v) =
      if (u.pwr.holdupLow || u.ftl.flushBad) = true then v else smartEvent 4 v := by
    rw [← Bool.not_or]
    cases u.pwr.holdupLow || u.ftl.flushBad <;> rfl
  unfold execHoldupMeasurement
  rw [if_neg (by simp [hpow])]
  dsimp only
  rw [← hu, if_neg (Nat.not_le.mpr hlow), ← hv, hset]
  rfl

end

/-! ### The link between the dies -/

section
variable {s u : State} (hu : u = unattached 0xE003 .corrected 0 0 s)
include hu

theorem execFlitGroupCrcFail_passes : execFlitGroupCrcFail true s = .next (modChip (fun c => { c with replays := 0 }) u) := by
  subst hu
  rfl

theorem execFlitGroupCrcFail_fails : execFlitGroupCrcFail false s = .next (if u.chip.replays + 1 < 8 then modChip (fun c => { c with replays := c.replays + 1 }) u
    else raiseFatal 0xE004 0xE0 none 0 0 (modChip (fun c => { c with replays := 0 }) u)) := by
  subst hu
  exact (apply_ite Host.Outcome.next _ _ _).symm

end

theorem execPs4FabricClockStop_running {s : State} {t : Nat} (ht : s.chip.ps4Fabric = some t) :
    execPs4FabricClockStop s = .next (modChip (fun c => { c with ps4Fabric := none }) (advanceMaster (t + 100000) s)) := by
  unfold execPs4FabricClockStop
  rw [ht]
  rfl

/-- Settles O59: an interval of the governor, a temperature, a hold-up measurement, a flit error, a late class and the clock's stop. -/
theorem governorResult : Obligations.GovernorResult := by
  unfold Obligations.GovernorResult
  refine ⟨?interval, ?thermal, ?holdup, ?flit, fun s r i c w => rfl, fun s t ht => execPs4FabricClockStop_running ht⟩
  case interval =>
    intro s mw mv hpow u v cap
    have hint := execGovernorInterval_powered hpow (u := u) rfl (v := v) rfl
    have hgate (hbr : brakeLevel v = false) (hps : v.qcu.ps.inForce < 3) : execGovernorInterval mw mv s = .next (regate mw cap v) :=
      hint.trans (congrArg _ ((if_neg (Bool.eq_false_iff.mp hbr)).trans (if_neg (Nat.not_le.mpr hps))))
    exact ⟨fun hbr => hint.trans (congrArg _ (if_pos hbr)), fun hbr hps => hint.trans (congrArg _ ((if_neg (Bool.eq_false_iff.mp hbr)).trans (if_pos hps))),
      fun hbr hps hover => (hgate hbr hps).trans (congrArg _ (regate_over hover v)), fun hbr hps hwithin => (hgate hbr hps).trans (congrArg _ (regate_within hwithin v))⟩
  case thermal =>
    intro s n t hn hpow hstage htrip a cap b c
    have hread := execThermalRead_powered t hn hpow (c := c) rfl
    refine ⟨fun hcool => hread.trans (congrArg _ (if_pos (Or.inl hcool))), fun hhot hnew hgo => hread.trans (congrArg _ (if_neg ?_))⟩
    rintro (h | h | h)
    · exact absurd h (Int.not_lt.mpr hhot)
    · exact Bool.eq_false_iff.mp hnew h
    · exact hgo h
  case holdup =>
    intro s mj hpow u
    refine ⟨fun henough => execHoldupMeasurement_enough hpow (u := u) rfl henough, ?_⟩
    intro hlow v
    exact execHoldupMeasurement_low hpow (u := u) rfl hlow (v := v) rfl
  case flit =>
    intro s u
    have hfail := execFlitGroupCrcFail_fails (s := s) (u := u) rfl
    exact ⟨execFlitGroupCrcFail_passes (u := u) rfl, fun hfew => hfail.trans (congrArg _ (if_pos (Nat.succ_lt_succ hfew))),
      fun hmany => hfail.trans (congrArg _ (if_neg (by omega)))⟩

end Sys2Proof.Machine
end

section
/-! PROOFS. SCALAR instructions (R167): the register forms by one equation each for the scalar and the address registers, LD and ST by
the checks of their address. -/
namespace Sys2Proof.Machine
open Sys2Proof

/-! ### Values -/

/-- SLT, MIN, MAX, BLT and BGE compare as signed numbers. -/
theorem sltD_iff (a b : DWord) : sltD a b = true ↔ a.toInt < b.toInt := BitVec.slt_iff_toInt_lt

theorem ite_sltD (a b x y : DWord) : (if sltD a b then x else y) = if a.toInt < b.toInt then x else y :=
  ite_congr (propext (sltD_iff a b)) (fun _ => rfl) fun _ => rfl

/-- MOVHI's value: the immediate above the low half of the register. -/
theorem highHalf_eq_append (i : Word) (x : DWord) :
    BitVec.ofNat 64 (i.toNat * 2 ^ 32 + x.toNat % 2 ^ 32) = i ++ x.setWidth 32 := by
  have hi : i.toNat < 2 ^ 32 := i.isLt
  have hlow : x.toNat % 2 ^ 32 < 2 ^ 32 := Nat.mod_lt _ (by decide)
  refine BitVec.eq_of_toNat_eq ?_
  rw [BitVec.toNat_append, BitVec.toNat_setWidth, ← Nat.shiftLeft_add_eq_or_of_lt hlow, Nat.shiftLeft_eq, BitVec.toNat_ofNat]
  exact Nat.mod_eq_of_lt (by omega)

/-! ### The address of LD and ST -/

section
variable {s : State} {k : Nat} {r : Run} {a : Nat}

theorem ldCheck_none (hal : a % 8 = 0) (hw : windowOf a ≤ 2) : ldCheck k r a s = none := by
  rw [ldCheck, if_neg (not_not_intro hal), if_neg (Nat.not_lt.mpr hw)]

theorem ldCheck_misaligned (hal : a % 8 ≠ 0) : ldCheck k r a s = some (coreFault k r cADDR_ALIGN s) := if_pos hal

theorem ldCheck_window (hal : a % 8 = 0) (hw : 2 < windowOf a) : ldCheck k r a s = some (coreFault k r cADDR_RANGE s) := by
  rw [ldCheck, if_neg (not_not_intro hal), if_pos hw]

/-- The first check that fails ends the instruction. -/
theorem afterChecks_first (x : Res) (l : List (Option Res)) (g : Unit → Res) : afterChecks (some x :: l) g = x := rfl

end

section
variable {s : State} {k : Nat} {f : IFields} {r : Run} {c : Ctx} {st : Step} (h : CoreRuns s k r c st)
include h

/-! ### Register forms -/

/-- An operation on S registers sets S[RD], and the core goes on. -/
theorem scalarOp_sets (hmod : modBad f 0 = false) (v : Run → DWord) :
    scalarOp k f s v = .next (advance k (putRun k (setS r f.rd (v r)) s)) := insn_runs h _ (Bool.and_false _) hmod

/-- A binary operation on S registers sets S[RD] to its value at S[RA] and S[RB]. -/
theorem scalarBin_sets (hmod : modBad f 0 = false) (g : DWord → DWord → DWord) {v : DWord} (hv : g (getS r f.ra) (getS r f.rb) = v) :
    scalarBin k f s g = .next (advance k (putRun k (setS r f.rd v) s)) := hv ▸ scalarOp_sets h hmod _

theorem execToa_sets (hmod : modBad f 0 = false) (hrd : f.rd.toNat < 8) :
    execToa k f s = .next (advance k (putRun k (setA r f.rd (getS r f.ra)) s)) :=
  insn_runs h _ (Bool.and_false _) (by rw [hmod, aBad_false hrd]; rfl)

theorem execTos_sets (hmod : modBad f 0 = false) (hra : f.ra.toNat < 8) :
    execTos k f s = .next (advance k (putRun k (setS r f.rd (getA r f.ra)) s)) :=
  insn_runs h _ (Bool.and_false _) (by rw [hmod, aBad_false hra]; rfl)

theorem execAaddi_sets (hmod : modBad f 0 = false) (hrd : f.rd.toNat < 8) (hra : f.ra.toNat < 8) :
    execAaddi k f s = .next (advance k (putRun k (setA r f.rd (getA r f.ra + f.imm.signExtend 64)) s)) :=
  insn_runs h _ (Bool.and_false _) (by rw [hmod, aBad_false hrd, aBad_false hra]; rfl)

theorem execAadd_sets (hmod : modBad f 0 = false) (hrd : f.rd.toNat < 8) (hra : f.ra.toNat < 8) :
    execAadd k f s = .next (advance k (putRun k (setA r f.rd (getA r f.ra + getS r f.rb)) s)) :=
  insn_runs h _ (Bool.and_false _) (by rw [hmod, aBad_false hrd, aBad_false hra]; rfl)

theorem execTime_sets (hmod : modBad f 1 = false) : execTime k f s =
    .next (advance k (putRun k (setS r f.rd (BitVec.ofNat 64 (if f.md.toNat % 2 = 1 then st.slotStart else s.time.replica))) s)) :=
  insn_runs h _ (Bool.and_false _) hmod

/-! ### LD and ST -/

section
variable (hmod : modBad f 0 = false) (hra : f.ra.toNat < 8)
include hmod hra

/-- LD stands behind the checks of its address and of its read. -/
theorem execLd_checked : execLd k f s = afterChecks [ldCheck k r (ldAddr r f) s, chkRd k r st (Ext.one (ldAddr r f) 8) s] fun _ =>
    rdThen k r.ctx (ldAddr r f) 8 s fun d s => ok (advance k (modRunOf k (fun r => setS r f.rd (BitVec.ofNat 64 (leNat d))) s)) :=
  insn_runs h _ (Bool.and_false _) (by rw [hmod, aBad_false hra]; rfl)

/-- ST stands behind the checks of its address and of its write. -/
theorem execSt_checked : execSt k f s = afterChecks [ldCheck k r (ldAddr r f) s, chkWr k r (Ext.one (ldAddr r f) 8) s] fun _ =>
    wrThen k r.ctx (ldAddr r f) (leBytes 8 (getS r f.rb).toNat) s fun s => ok (advance k s) :=
  insn_runs h _ (Bool.and_false _) (by rw [hmod, aBad_false hra]; rfl)

theorem execLd_loads (hal : ldAddr r f % 8 = 0) (hw : windowOf (ldAddr r f) ≤ 2) (hread : CanRead s k r st (Ext.one (ldAddr r f) 8))
    {d : List Byte} {u : State} (hd : instrRead s k r.ctx (ldAddr r f) 8 = (.data d, u)) :
    execLd k f s = .next (advance k (modRunOf k (fun x => setS x f.rd (BitVec.ofNat 64 (leNat d))) u)) := by
  rw [execLd_checked h hmod hra, ldCheck_none hal hw, chkRd_none hread, afterChecks_none (by simp), rdThen_data hd]
  rfl

theorem execSt_stores (hal : ldAddr r f % 8 = 0) (hw : windowOf (ldAddr r f) ≤ 2) (hwrite : CanWrite s k r (Ext.one (ldAddr r f) 8))
    {u : State} (hu : writeWin k r.ctx (ldAddr r f) (leBytes 8 (getS r f.rb).toNat) s = (none, u)) :
    execSt k f s = .next (advance k u) := by
  rw [execSt_checked h hmod hra, ldCheck_none hal hw, chkWr_none hwrite, afterChecks_none (by simp), wrThen_done hu]
  rfl

/-- A fault that the address raises is LD's and ST's. -/
theorem ld_st_fault {code : Code} (hbad : ldCheck k r (ldAddr r f) s = some (coreFault k r code s)) :
    execLd k f s = .next (jobFault r.ctx (some k) code s) ∧ execSt k f s = .next (jobFault r.ctx (some k) code s) := by
  rw [execLd_checked h hmod hra, execSt_checked h hmod hra, hbad, afterChecks_first, afterChecks_first]
  exact ⟨rfl, rfl⟩

end
end

/-- Settles O14: the register forms by the register each sets, LD and ST by what the checks of their address find. -/
theorem scalarResult : Obligations.ScalarResult := by
  unfold Obligations.ScalarResult
  refine ⟨?scalars, ?addresses, ?memory⟩
  case scalars =>
    intro s k f r c st h hmod x y put
    have hbin := scalarBin_sets h hmod
    have hop := scalarOp_sets h hmod
    show execNop k f s = _ ∧ execAdd k f s = _ ∧ execSub k f s = _ ∧ execMul k f s = _ ∧ execAnd k f s = _ ∧ execOr k f s = _ ∧ execXor k f s = _ ∧
      execShl k f s = _ ∧ execShr k f s = _ ∧ execSra k f s = _ ∧ execMin k f s = _ ∧ execMax k f s = _ ∧ execSlt k f s = _ ∧ execAddi k f s = _ ∧
      execMovi k f s = _ ∧ execMovhi k f s = _
    refine ⟨insn_runs h _ (Bool.and_false _) hmod, hbin _ rfl, hbin _ rfl, hbin _ rfl, hbin _ rfl, hbin _ rfl, hbin _ rfl, hbin _ rfl, hbin _ rfl, hbin _ rfl,
      hbin _ (ite_sltD _ _ _ _), hbin _ (ite_sltD _ _ _ _), hbin _ (ite_sltD _ _ _ _),
      hop _, hop _, ?_⟩
    exact highHalf_eq_append f.imm (getS r f.rd) ▸ hop _
  case addresses =>
    intro s k f r c st h go
    exact ⟨execToa_sets h, execTos_sets h, fun hmod hrd hra => ⟨execAaddi_sets h hmod hrd hra, execAadd_sets h hmod hrd hra⟩, execTime_sets h⟩
  case memory =>
    intro s k f r c st h hmod hra a
    exact ⟨fun hal hw => ⟨fun d u hread hd => execLd_loads h hmod hra hal hw hread hd, fun u hwrite hu => execSt_stores h hmod hra hal hw hwrite hu⟩,
      fun hal => ld_st_fault h hmod hra (ldCheck_misaligned hal), fun hal hw => ld_st_fault h hmod hra (ldCheck_window hal hw)⟩

end Sys2Proof.Machine
end
section
/-! PROOFS. BRANCH instructions and what follows an instruction (R168, R169): where a jump leads, when a LOOP starts, and what the loops
whose bodies end at an instruction do. -/
namespace Sys2Proof.Machine
open Sys2Proof

/-! ### Jumps -/

/-- What a jump to `t` comes to: the core stands at `t`, the loops whose bodies do not hold `t` inactive, or `t` is no place in the
code (R168, R169). -/
def JumpsTo (s : State) (k : Nat) (r : Run) (t : Nat) (o : Res) : Prop :=
  (t % 16 = 0 ∧ t < codeBytes s r → ∃ r2, o = .next (putRun k r2 s) ∧ r2.pc.toNat = t % 2 ^ 64 ∧ r2.s = r.s ∧ r2.a = r.a ∧
    r2.lstack = r.lstack.filter fun i => inBody r i t) ∧
  (¬ (t % 16 = 0 ∧ t < codeBytes s r) → o = .next (jobFault r.ctx (some k) cBRANCH_RANGE s))

/-- A conditional branch jumps, or the core goes on. -/
def BranchesTo (s : State) (k : Nat) (r : Run) (t : Nat) (p : Prop) (o : Res) : Prop :=
  (p → JumpsTo s k r t o) ∧ (¬ p → o = .next (advance k s))

/-- Stopping loops leaves the scalar and address registers and the list of active loops. -/
theorem foldl_stopLoop_keeps (l : List Nat) (r : Run) :
    let u := l.foldl (fun r i => setL r i { getL r i with count := 0 }) r
    u.s = r.s ∧ u.a = r.a ∧ u.lstack = r.lstack := by
  induction l generalizing r with
  | nil => exact ⟨rfl, rfl, rfl⟩
  | cons i l ih => exact ih _

/-- What remains of a list without its elements that fail a test are those that pass it. -/
theorem filter_not_mem_filter_not (p : Nat → Bool) (l : List Nat) : (l.filter fun i => !(l.filter fun j => !p j).contains i) = l.filter p := by
  refine List.filter_congr fun i hi => ?_
  cases hp : p i <;> simp [hi, hp]

theorem jumpTo_jumpsTo (s : State) (k : Nat) (r : Run) (t : Nat) : JumpsTo s k r t (jumpTo k r t s) := by
  refine ⟨fun hin => ?inside, fun hout => if_pos (by omega)⟩
  obtain ⟨hs, ha, hl⟩ := foldl_stopLoop_keeps (r.lstack.filter fun i => !inBody r i t) r
  exact ⟨_, if_neg (by omega), BitVec.toNat_ofNat _ _, hs, ha,
    (congrArg (List.filter _) hl).trans (filter_not_mem_filter_not (fun i => inBody r i t) r.lstack)⟩

/-! ### Bodies -/

/-- Every active body that holds the core's place holds the body up to `stop` too (R169). -/
def NestsIn (r : Run) (stop : Nat) : Prop := ∀ j ∈ r.lstack, inBody r j r.pc.toNat = true → stop ≤ (getL r j).stop

/-- The last instruction of a LOOP's body. -/
def loopStop (r : Run) (f : IFields) : Nat := r.pc.toNat + 16 * extF f 15 0

/-- The loop register with which a LOOP starts. -/
def startedLoop (r : Run) (f : IFields) (n : Nat) : LoopReg := { count := n, index := 0, start := r.pc.toNat + 16, stop := loopStop r f }

theorem nestsIn_iff_any_not (r : Run) (stop : Nat) : NestsIn r stop ↔
    ¬ (r.lstack.any fun j => decide ((getL r j).start ≤ r.pc.toNat) && decide (r.pc.toNat ≤ (getL r j).stop) && decide ((getL r j).stop < stop)) = true := by
  simp [NestsIn, inBody]

section
variable {s : State} {k : Nat} {f : IFields} {r : Run} {c : Ctx} {st : Step} (h : CoreRuns s k r c st)
include h

section
variable (hmod : modBad f 0 = false)
include hmod

theorem execJ_eq : execJ k f s = jumpTo k r (target r f) s := insn_runs h _ (Bool.and_false _) hmod

theorem execJr_eq : execJr k f s = jumpTo k r (getS r f.ra).toNat s := insn_runs h _ (Bool.and_false _) hmod

theorem branchIf_branchesTo {cond : DWord → DWord → Bool} {p : Prop} (hp : cond (getS r f.ra) (getS r f.rb) = true ↔ p) :
    BranchesTo s k r (target r f) p (branchIf k f s cond) := by
  unfold branchIf
  rw [insn_runs h _ (Bool.and_false _) hmod]
  refine ⟨fun hyes => ?_, fun hno => if_neg fun hc => hno (hp.1 hc)⟩
  rw [if_pos (hp.2 hyes)]
  exact jumpTo_jumpsTo s k r _

/-! ### BVERD, LIDX and END -/

section
variable {e : Nat} {t : Tensor} (hact : actEntry c.pkg (extF f 11 0) = some (e, t))
include hact

theorem execBverd_goesOn {v : NpSt} (hv : smFind st.np e = some v) (hne : v.verdict ≠ .rerun) : execBverd k f s = .next (advance k s) := by
  unfold execBverd
  rw [insn_runs h _ (Bool.and_false _) hmod, hact]
  dsimp only
  rw [hv]
  exact if_neg hne

theorem execBverd_jumps {v : NpSt} (hv : smFind st.np e = some v) (hrerun : v.verdict = .rerun) : execBverd k f s = execJ k f s := by
  rw [execJ_eq h hmod]
  unfold execBverd
  rw [insn_runs h _ (Bool.and_false _) hmod, hact]
  dsimp only
  rw [hv]
  exact if_pos hrerun

theorem execBverd_waits (hv : smFind st.np e = none) :
    execBverd k f s = .next (modRunOf k (fun x => { x with wait := .verdict (extF f 11 0) }) s) := by
  unfold execBverd
  rw [insn_runs h _ (Bool.and_false _) hmod, hact]
  dsimp only
  rw [hv]
  rfl

end

theorem execLidx_sets (hra : f.ra.toNat < 4) :
    execLidx k f s = .next (advance k (putRun k (setS r f.rd (BitVec.ofNat 64 (getL r f.ra.toNat).index)) s)) :=
  insn_runs h _ (Bool.and_false _) (by rw [hmod, decide_eq_false (Nat.not_le.mpr hra)]; rfl)

theorem execEnd_endsTask : execEnd k f s = .next (putRun k { r with ended := true, wait := .none } s) := insn_runs h _ (Bool.and_false _) hmod

end

/-! ### LOOP -/

section
variable (hmod : modBad f 1 = false) (hrd : f.rd.toNat < 4) (hlen : 1 ≤ extF f 15 0)
include hmod hrd hlen

theorem execLoop_eq : execLoop k f s =
    if r.lstack.contains f.rd.toNat then coreFault k r cLOOP_NEST s
    else if codeBytes s r ≤ loopStop r f
      ∨ (r.lstack.any fun j => decide ((getL r j).start ≤ r.pc.toNat) && decide (r.pc.toNat ≤ (getL r j).stop) && decide ((getL r j).stop < loopStop r f)) then
      coreFault k r cBRANCH_RANGE s
    else if loopCount r f = 0 then ok (advanceFrom k (loopStop r f) (putRun k (setL r f.rd.toNat (startedLoop r f 0)) s))
    else ok (putRun k { setL r f.rd.toNat (startedLoop r f (loopCount r f)) with
      lstack := f.rd.toNat :: r.lstack, pc := BitVec.ofNat 64 (r.pc.toNat + 16), wait := .none } s) :=
  insn_runs h _ (Bool.and_false _) (by rw [hmod, decide_eq_false (Nat.not_le.mpr hrd), decide_eq_false (Nat.ne_of_gt hlen)]; rfl)

theorem execLoop_nested (hin : f.rd.toNat ∈ r.lstack) : execLoop k f s = .next (jobFault r.ctx (some k) cLOOP_NEST s) :=
  (execLoop_eq h hmod hrd hlen).trans (if_pos (List.contains_iff_mem.mpr hin))

section
variable (hfree : f.rd.toNat ∉ r.lstack)
include hfree

theorem execLoop_outside (hout : ¬ (loopStop r f < codeBytes s r ∧ NestsIn r (loopStop r f))) :
    execLoop k f s = .next (jobFault r.ctx (some k) cBRANCH_RANGE s) := by
  rw [execLoop_eq h hmod hrd hlen, if_neg (mt List.contains_iff_mem.mp hfree), if_pos]
  · rfl
  · rwa [nestsIn_iff_any_not, Classical.not_and_iff_not_or_not, Classical.not_not, Nat.not_lt] at hout

section
variable (hcode : loopStop r f < codeBytes s r) (hnest : NestsIn r (loopStop r f))
include hcode hnest

/-- A LOOP whose register is free and whose body lies in the code and in the bodies around it starts, or skips its body. -/
theorem execLoop_taken : execLoop k f s =
    if loopCount r f = 0 then ok (advanceFrom k (loopStop r f) (putRun k (setL r f.rd.toNat (startedLoop r f 0)) s))
    else ok (putRun k { setL r f.rd.toNat (startedLoop r f (loopCount r f)) with
      lstack := f.rd.toNat :: r.lstack, pc := BitVec.ofNat 64 (r.pc.toNat + 16), wait := .none } s) := by
  rw [execLoop_eq h hmod hrd hlen, if_neg (mt List.contains_iff_mem.mp hfree), if_neg]
  exact not_or.mpr ⟨Nat.not_le.mpr hcode, (nestsIn_iff_any_not r _).mp hnest⟩

theorem execLoop_skips (hn : loopCount r f = 0) :
    execLoop k f s = .next (advanceFrom k (loopStop r f) (putRun k (setL r f.rd.toNat (startedLoop r f 0)) s)) :=
  (execLoop_taken h hmod hrd hlen hfree hcode hnest).trans (if_pos hn)

theorem execLoop_starts (hn : 1 ≤ loopCount r f) : execLoop k f s =
    .next (putRun k { setL r f.rd.toNat (startedLoop r f (loopCount r f)) with
      lstack := f.rd.toNat :: r.lstack, pc := BitVec.ofNat 64 (r.pc.toNat + 16), wait := .none } s) :=
  (execLoop_taken h hmod hrd hlen hfree hcode hnest).trans (if_neg (Nat.ne_of_gt hn))

end
end
end
end

/-! ### After an instruction -/

theorem getL_setL_ne {i j : Nat} (hne : j ≠ i) (r : Run) (v : LoopReg) : getL (setL r i v) j = getL r j := by
  simp [getL, setL, Vector.getD, Array.getD_eq_getD_getElem?, Array.getElem?_setIfInBounds_ne hne.symm]

/-- A loop register after a pass of its body: INDEX has risen and COUNT fallen by 1 (R169). -/
def passedLoop (l : LoopReg) : LoopReg := { l with count := l.count - 1, index := (l.index + 1) % 2 ^ 32 }

section
variable {pc i : Nat} {l : List Nat} {r : Run}

theorem loopEnd_elsewhere (hne : ∀ i ∈ l, (getL r i).stop ≠ pc) : loopEnd pc l r = (r, false) := by
  induction l with
  | nil => rfl
  | cons i l ih =>
    obtain ⟨hi, hl⟩ := List.forall_mem_cons.mp hne
    exact (if_neg hi).trans (ih hl)

theorem loopEnd_again (hstop : (getL r i).stop = pc) (hcount : 1 < (getL r i).count) :
    loopEnd pc (i :: l) r = ({ setL r i (passedLoop (getL r i)) with pc := BitVec.ofNat 64 (getL r i).start }, true) :=
  (if_pos hstop).trans (if_pos (Nat.sub_pos_of_lt hcount))

theorem filter_ne_cons (hi : i ∉ l) : (i :: l).filter (· != i) = l := by
  rw [List.filter_cons_of_neg (by simp), List.filter_eq_self]
  exact fun j hj => bne_iff_ne.mpr (ne_of_mem_of_not_mem hj hi)

/-- A loop that ends its last pass leaves the list, and those around it are evaluated. -/
theorem loopEnd_last (hl : r.lstack = i :: l) (hi : i ∉ l) (hstop : (getL r i).stop = pc) (hcount : (getL r i).count = 1) :
    loopEnd pc (i :: l) r = loopEnd pc l { setL r i (passedLoop (getL r i)) with lstack := l } := by
  have hover : loopEnd pc (i :: l) r = loopEnd pc l { setL r i (passedLoop (getL r i)) with lstack := r.lstack.filter (· != i) } :=
    (if_pos hstop).trans (if_neg (by simp [hcount]))
  rw [hover, hl, filter_ne_cons hi]

/-- The innermost loop is over, and no loop around it ends here. -/
theorem loopEnd_last_elsewhere (hl : r.lstack = i :: l) (hi : i ∉ l) (hstop : (getL r i).stop = pc) (hcount : (getL r i).count = 1)
    (hne : ∀ j ∈ l, (getL r j).stop ≠ pc) : loopEnd pc (i :: l) r = ({ setL r i (passedLoop (getL r i)) with lstack := l }, false) := by
  rw [loopEnd_last hl hi hstop hcount]
  refine loopEnd_elsewhere fun j hj hend => hne j hj ?_
  exact (congrArg LoopReg.stop (getL_setL_ne (ne_of_mem_of_not_mem hj hi) r _)).symm.trans hend

/-- The innermost loop is over, and the one around it, which ends here too, starts its body again. -/
theorem loopEnd_last_again {j : Nat} (hl : r.lstack = i :: j :: l) (hi : i ∉ j :: l) (hstop : (getL r i).stop = pc) (hcount : (getL r i).count = 1)
    (hjstop : (getL r j).stop = pc) (hjcount : 1 < (getL r j).count) : loopEnd pc (i :: j :: l) r =
      ({ setL (setL r i (passedLoop (getL r i))) j (passedLoop (getL r j)) with lstack := j :: l, pc := BitVec.ofNat 64 (getL r j).start }, true) := by
  have hj : getL { setL r i (passedLoop (getL r i)) with lstack := j :: l } j = getL r j := getL_setL_ne (List.ne_of_not_mem_cons hi).symm r _
  rw [loopEnd_last hl hi hstop hcount, loopEnd_again (hj ▸ hjstop) (hj ▸ hjcount), hj]
  rfl

end

/-- A loop after its last pass has COUNT 0. -/
theorem passedLoop_last {l : LoopReg} (h : l.count = 1) : passedLoop l = { l with count := 0, index := (l.index + 1) % 2 ^ 32 } := by
  rw [passedLoop, h]

section
variable {s : State} {k : Nat} {r r2 : Run} {l : List Nat} (hrun : (core s k).run = some r) (hl : r.lstack = l)
include hrun hl

/-- The core goes on where its loops leave it: at the start of a body, or at the next instruction. -/
theorem advance_of_loops {again : Bool} (he : loopEnd r.pc.toNat l { r with wait := .none } = (r2, again)) :
    advance k s = if again then putRun k r2 s
      else if r.pc.toNat + 16 < codeBytes s r then putRun k { r2 with pc := r.pc + 16 } s
      else jobFault r.ctx (some k) cBRANCH_RANGE (putRun k { r2 with pc := r.pc + 16 } s) := by
  have hpc : BitVec.ofNat 64 (r.pc.toNat + 16) = r.pc + 16 := BitVec.eq_of_toNat_eq (by simp)
  subst hl
  cases again <;> simp [advance, advanceFrom, hrun, fallThrough, he, hpc]

theorem advance_again (he : loopEnd r.pc.toNat l { r with wait := .none } = (r2, true)) : advance k s = putRun k r2 s :=
  advance_of_loops hrun hl he

theorem advance_past (he : loopEnd r.pc.toNat l { r with wait := .none } = (r2, false)) (hin : r.pc.toNat + 16 < codeBytes s r) :
    advance k s = putRun k { r2 with pc := r.pc + 16 } s := (advance_of_loops hrun hl he).trans (if_pos hin)

theorem advance_beyond (he : loopEnd r.pc.toNat l { r with wait := .none } = (r2, false)) (hout : codeBytes s r ≤ r.pc.toNat + 16) :
    advance k s = jobFault r.ctx (some k) cBRANCH_RANGE (putRun k { r2 with pc := r.pc + 16 } s) :=
  (advance_of_loops hrun hl he).trans (if_neg (Nat.not_lt.mpr hout))

end

/-- Settles O15: jumps by `jumpTo_jumpsTo`, LOOP by its register and its body, the end of an instruction by the loops that end there. -/
theorem controlFlowResult : Obligations.ControlFlowResult := by
  unfold Obligations.ControlFlowResult
  refine ⟨?jumps, ?others, ?after⟩
  case jumps =>
    intro s k f r c st h hmod x y t jumped branch
    have hbr {cond p} := branchIf_branchesTo (cond := cond) (p := p) h hmod
    show JumpsTo s k r t (execJ k f s) ∧ JumpsTo s k r x.toNat (execJr k f s) ∧ BranchesTo s k r t _ (execBeq k f s) ∧ BranchesTo s k r t _ (execBne k f s) ∧
      BranchesTo s k r t _ (execBlt k f s) ∧ BranchesTo s k r t _ (execBge k f s)
    refine ⟨execJ_eq h hmod ▸ jumpTo_jumpsTo s k r t, execJr_eq h hmod ▸ jumpTo_jumpsTo s k r _, hbr beq_iff_eq, hbr bne_iff_ne, hbr (sltD_iff x y), hbr ?_⟩
    rw [condGe, Bool.not_eq_true', ← Bool.not_eq_true, sltD_iff, Int.not_lt]
  case others =>
    intro s k f r c st h
    refine ⟨?loop, fun e p v hmod hact hv hne => execBverd_goesOn h hmod hact hv hne, fun e p v hmod hact hv hrerun => execBverd_jumps h hmod hact hv hrerun,
      fun e p hmod hact hv => execBverd_waits h hmod hact hv, fun hmod hra => execLidx_sets h hmod hra, fun hmod => execEnd_endsTask h hmod⟩
    rintro n hmod hrd hlen rfl i pc stop nested
    exact ⟨fun hfree hcode hnest hn => execLoop_starts h hmod hrd hlen hfree hcode hnest hn,
      fun hfree hcode hnest hn => execLoop_skips h hmod hrd hlen hfree hcode hnest hn,
      fun hin => execLoop_nested h hmod hrd hlen hin, fun hfree hout => execLoop_outside h hmod hrd hlen hfree hout⟩
  case after =>
    intro s k r c st h pc ended again
    have hrun := h.runs
    refine ⟨fun hne hin => advance_past hrun rfl (loopEnd_elsewhere hne) hin, fun hne hout => advance_beyond hrun rfl (loopEnd_elsewhere hne) hout,
      ?again, ?last, ?outer⟩
    case again =>
      intro i l hl hstop hcount
      exact advance_again hrun hl (loopEnd_again (r := { r with wait := .none }) hstop hcount)
    case last =>
      intro i l hl hi hstop hcount hne hin
      have hend : ended i = passedLoop (getL r i) := (passedLoop_last hcount).symm
      rw [hend]
      exact advance_past hrun hl (loopEnd_last_elsewhere (r := { r with wait := .none }) hl hi hstop hcount hne) hin
    case outer =>
      intro i j l hl hi hstop hcount hjstop hjcount
      have hend : ended i = passedLoop (getL r i) := (passedLoop_last hcount).symm
      rw [hend]
      exact advance_again hrun hl (loopEnd_last_again (r := { r with wait := .none }) hl hi hstop hcount hjstop hjcount)

end Sys2Proof.Machine
end
section
/-! PROOFS. VECTOR instructions (R175): every one is `vecOp` with its operands X, Y and D, each read from memory or a constant. -/
namespace Sys2Proof.Machine
open Sys2Proof

/-! ### Operands -/

/-- `n` elements `xs` of an operand that is read, from state `s1` on and leaving state `u`, where `mem` says so, its read permitted in
the state `s` of the issue; otherwise each of them is `v`. -/
inductive VecOperand (s : State) (k : Nat) (r : Run) (st : Step) (n : Nat) (mem : Bool) (a ty v : Nat) (xs : Nat → Nat) (s1 u : State) : Prop where
  | memory (b : List Byte) (isMem : mem = true) (aligned : a % elBytes ty = 0) (reads : CanRead s k r st (Ext.one a (n * elBytes ty)))
      (data : instrRead s1 k r.ctx a (n * elBytes ty) = (.data b, u)) (vals : ∀ i < n, xs i = elAt ty b i)
  | constant (isConst : mem = false) (same : u = s1) (vals : ∀ i < n, xs i = v)

theorem map_range_congr {n : Nat} {f g : Nat → Nat} (h : ∀ i < n, f i = g i) : (List.range n).map f = (List.range n).map g :=
  List.map_congr_left fun i hi => h i (List.mem_range.mp hi)

section
variable {s s1 u : State} {k : Nat} {r : Run} {st : Step} {n : Nat} {mem : Bool} {a ty v : Nat} {xs : Nat → Nat}

/-- What an operand's read goes on with, and the elements that come of it. -/
theorem VecOperand.read (ho : VecOperand s k r st n mem a ty v xs s1 u) : ∃ b,
    (∀ g, rdThen k r.ctx a (if mem then n * elBytes ty else 0) s1 g = g b u) ∧
    (if mem then elems ty n b else List.replicate n v) = (List.range n).map xs := by
  cases ho with
  | memory b isMem _ _ data vals =>
    subst isMem
    exact ⟨b, rdThen_data data, (elems_eq ty n b).trans (map_range_congr fun i hi => (vals i hi).symm)⟩
  | constant isConst same vals =>
    subst isConst same
    refine ⟨[], fun g => rdThen_zero u k g r.ctx a, ?_⟩
    rw [map_range_congr vals, List.map_const', List.length_range]
    rfl

theorem VecOperand.chkAlign_none (ho : VecOperand s k r st n mem a ty v xs s1 u) :
    ∀ x ∈ (if mem then [chkAlign k r a (elBytes ty) s] else []), x = none := by
  cases ho with
  | memory b isMem aligned => simp [isMem, Machine.chkAlign_none aligned]
  | constant isConst => simp [isConst]

theorem VecOperand.chkRd_none (ho : VecOperand s k r st n mem a ty v xs s1 u) :
    ∀ x ∈ (if mem then [chkRd k r st (Ext.one a (n * elBytes ty)) s] else []), x = none := by
  cases ho with
  | memory b isMem _ reads => simp [isMem, Machine.chkRd_none reads]
  | constant isConst => simp [isConst]

end

/-! ### A vector instruction -/

/-- A VECTOR instruction of `n` elements has its fields in range, and its operands X and D can be reached. -/
structure VecReady (s : State) (k : Nat) (f : IFields) (r : Run) (st : Step) (n : Nat) : Prop where
  brake : brakeLevel s = false
  rsvd : modBad f 0 = false
  typeX : extF f 1 0 < 3
  typeY : extF f 3 2 < 3
  typeD : extF f 5 4 < 3
  rd : f.rd.toNat < 8
  ra : f.ra.toNat < 8
  count : n = (getS r f.rc).toNat
  lo : 1 ≤ n
  hi : n ≤ 2 ^ 24
  alignedX : (getA r f.ra).toNat % elBytes (extF f 1 0) = 0
  alignedD : (getA r f.rd).toNat % elBytes (extF f 5 4) = 0
  reads : CanRead s k r st (Ext.one (getA r f.ra).toNat (n * elBytes (extF f 1 0)))
  writes : CanWrite s k r (Ext.one (getA r f.rd).toNat (n * elBytes (extF f 5 4)))

/-- Where the write of the elements `v` in D's type succeeds, they are counted and the core goes on. -/
def VecStores (s : State) (k : Nat) (f : IFields) (r : Run) (n : Nat) (v : Nat → Nat) (o : Res) : Prop :=
  ∀ u, writeWin k r.ctx (getA r f.rd).toNat (unElems (extF f 5 4) ((List.range n).map fun i => canon (v i))) s = (none, u) →
    o = .next (advance k (cntAdd (0x40 + k) 0xA00 n u))

theorem zip3_map_range (n : Nat) (xs ys ds : Nat → Nat) (g : Nat → Nat → Nat → Nat) :
    (List.zip ((List.range n).map xs) (List.zip ((List.range n).map ys) ((List.range n).map ds))).map (fun p => canon (g p.1 p.2.1 p.2.2)) =
      (List.range n).map fun i => canon (g (xs i) (ys i) (ds i)) := by
  rw [List.zip_map', List.zip_map', List.map_map]
  rfl

section
variable {s s1 s2 s3 : State} {k : Nat} {f : IFields} {r : Run} {c : Ctx} {st : Step} {n : Nat} {useY useD : Bool} {bx : List Byte} {ys ds : Nat → Nat}

/-- A VECTOR instruction whose checks pass stores its operation's value at each element (R175). -/
theorem vecOp_stores (h : CoreRuns s k r c st) (hr : VecReady s k f r st n)
    (hx : instrRead s k r.ctx (getA r f.ra).toNat (n * elBytes (extF f 1 0)) = (.data bx, s1))
    (hrb : (useY && extF f 6 6 == 0) = true → f.rb.toNat < 8)
    (hy : VecOperand s k r st n (useY && extF f 6 6 == 0) (getA r f.rb).toNat (extF f 3 2) f.imm.toNat ys s1 s2)
    (hd : VecOperand s k r st n useD (getA r f.rd).toNat (extF f 5 4) 0 ds s2 s3)
    (g : Nat → Nat → Nat → Nat) {v : Nat → Nat} (hv : ∀ i < n, v i = g (elAt (extF f 1 0) bx i) (ys i) (ds i)) :
    VecStores s3 k f r n v (vecOp k f useY useD s g) := by
  intro u hu
  obtain ⟨hbr, hmod, htx, hty, htd, hrd, hra, hn, hlo, hhi, hxa, hda, hread, hwrite⟩ := hr
  obtain ⟨by_, hyread, hyvals⟩ := hy.read
  obtain ⟨bd, hdread, hdvals⟩ := hd.read
  have hbad : ((useY && extF f 6 6 == 0) && aBad f.rb) = false := by
    cases hm : useY && extF f 6 6 == 0
    · rfl
    · exact aBad_false (hrb hm)
  unfold vecOp
  dsimp only
  rw [vsuInsn_runs h _ (Bool.and_false _) ?bad hbr, ← hn, afterChecks_none ?checks, rdThen_data hx]
  case bad => simp [-Bool.and_eq_true, hmod, aBad_false hrd, aBad_false hra, hbad, Nat.ne_of_lt htx, Nat.ne_of_lt hty, Nat.ne_of_lt htd]
  case checks =>
    simp only [List.mem_append, or_imp, forall_and]
    refine ⟨⟨⟨⟨⟨?_, hy.chkAlign_none⟩, ?_⟩, hy.chkRd_none⟩, hd.chkRd_none⟩, ?_⟩
    all_goals simp [-Nat.reducePow, chkCount_none hlo hhi, chkAlign_none hxa, chkAlign_none hda, chkRd_none hread, chkWr_none hwrite]
  rw [hyread, hdread, hyvals, hdvals, elems_eq, zip3_map_range, ← List.map_congr_left fun i hi => congrArg canon (hv i (List.mem_range.mp hi)), wrThen_done hu]
  rfl

/-- An operation of X alone. -/
theorem vecOp_unary (h : CoreRuns s k r c st) (hr : VecReady s k f r st n)
    (hx : instrRead s k r.ctx (getA r f.ra).toNat (n * elBytes (extF f 1 0)) = (.data bx, s1)) (g : Nat → Nat) :
    VecStores s1 k f r n (fun i => g (elAt (extF f 1 0) bx i)) (vecOp k f false false s fun x _ _ => g x) :=
  vecOp_stores h hr hx (by simp) (.constant rfl rfl fun _ _ => rfl) (.constant rfl rfl fun _ _ => rfl) _ fun _ _ => rfl

/-- An operation of X and Y: Y is the second operand `ys`, read from memory unless BCAST. -/
theorem vecOp_binary (h : CoreRuns s k r c st) (hr : VecReady s k f r st n)
    (hx : instrRead s k r.ctx (getA r f.ra).toNat (n * elBytes (extF f 1 0)) = (.data bx, s1))
    (hrb : (true && extF f 6 6 == 0) = true → f.rb.toNat < 8)
    (hy : VecOperand s k r st n (true && extF f 6 6 == 0) (getA r f.rb).toNat (extF f 3 2) f.imm.toNat ys s1 s2)
    (g : Nat → Nat → Nat) {v : Nat → Nat} (hv : ∀ i < n, v i = g (elAt (extF f 1 0) bx i) (ys i)) :
    VecStores s2 k f r n v (vecOp k f true false s fun x y _ => g x y) :=
  vecOp_stores h hr hx hrb hy (.constant rfl rfl fun _ _ => rfl) _ hv

end

/-! ### MAX and MIN -/

/-- With no NaN and not two zeros, the operand that the comparison names (log entry 7 leaves the rest open). -/
theorem vecMaxMin_eq {isMax : Bool} {x y : Nat} (hx : isNaN x = false) (hy : isNaN y = false) (hz : ¬ (x % 2 ^ 31 = 0 ∧ y % 2 ^ 31 = 0)) :
    vecMaxMin isMax x y = if flt x y = isMax then y else x := by
  rw [vecMaxMin, if_neg (by simp [hx, hy]), if_neg fun hzero => hz ⟨hzero.1, hzero.2.1⟩]

/-- Settles O25: the operations of X alone, those of X and Y, and MAC with D, each by `vecOp_stores`. -/
theorem vectorResult : Obligations.VectorResult := by
  unfold Obligations.VectorResult
  rintro s k f r c st n _ _ _ _ _ _ h hbr hmod hn rfl rfl rfl rfl rfl rfl htx hty htd hrd hra hlo hhi hxa hda hread hwrite bx s1 hx stored xs
  have hr : VecReady s k f r st n := ⟨hbr, hmod, htx, hty, htd, hrd, hra, hn, hlo, hhi, hxa, hda, hread, hwrite⟩
  refine ⟨vecOp_unary h hr hx fabs, vecOp_unary h hr hx fneg, vecOp_unary h hr hx id, fun ys s2 hys => ?binary⟩
  case binary =>
    have hrb : (true && extF f 6 6 == 0) = true → f.rb.toNat < 8 := fun hm => by
      obtain ⟨_, hrb, _⟩ | ⟨hb, _⟩ := hys
      · exact hrb
      · simp [hb] at hm
    have hy : VecOperand s k r st n (true && extF f 6 6 == 0) (getA r f.rb).toNat (extF f 3 2) f.imm.toNat ys s1 s2 := by
      obtain ⟨hb, _, halign, hready, b, hdata, hvals⟩ | ⟨hb, hsame, hvals⟩ := hys
      · exact .memory b (by simp [hb]) halign hready hdata hvals
      · exact .constant (by simp [hb]) hsame hvals
    have hbin := fun g => vecOp_binary h hr hx hrb hy g (v := fun i => g (xs i) (ys i)) fun _ _ => rfl
    refine ⟨hbin fadd, hbin fsub, hbin fmul, fun hopen => ⟨?max, ?min⟩, fun b s3 hready hdata => ?mac⟩
    case max =>
      refine vecOp_binary h hr hx hrb hy (vecMaxMin true) fun i hi => ?_
      obtain ⟨hnx, hny, hz⟩ := hopen i hi
      exact (vecMaxMin_eq hnx hny hz).symm
    case min =>
      refine vecOp_binary h hr hx hrb hy (vecMaxMin false) fun i hi => ?_
      obtain ⟨hnx, hny, hz⟩ := hopen i hi
      rw [vecMaxMin_eq hnx hny hz]
      cases flt (xs i) (ys i) <;> rfl
    case mac =>
      exact vecOp_stores h hr hx hrb hy (.memory b rfl hda hready hdata fun _ _ => rfl) (fun x y d => fadd (fmul x y) d) fun _ _ => rfl

end Sys2Proof.Machine
end
section
/-! PROOFS. SYNC instructions (R181, R182): what each waits for, and what it does once that has come. -/
namespace Sys2Proof.Machine
open Sys2Proof

/-! ### What the instructions wait for -/

theorem not_or_eq_true_iff (a b : Bool) : (!a || b) = true ↔ (a = true → b = true) := by
  cases a <;> simp

theorem fenceDone_iff (r : Run) (mask : Nat) : fenceDone r mask = true ↔
    (∀ i < 8, bit mask i = true → getG r i = 0) ∧ (bit mask 8 = true → r.mat = none) ∧ (bit mask 10 = true → r.g.toList.sum ≤ r.dma.length) := by
  simp only [fenceDone, peerOut, Bool.and_eq_true, List.all_eq_true, List.mem_range, not_or_eq_true_iff, beq_iff_eq, Option.isNone_iff_eq_none,
    Nat.sub_eq_zero_iff_le, and_assoc]

theorem allQuiet_iff (r : Run) : allQuiet r = true ↔ r.dma = [] ∧ r.mat = none ∧ ∀ i ∈ r.g.toList, i = 0 := by
  simp only [allQuiet, Bool.and_eq_true, List.isEmpty_iff, Option.isNone_iff_eq_none, List.all_eq_true, beq_iff_eq, and_assoc]

/-- An event has come where its count less the target is below 2^31 modulo 2^32. -/
theorem eventReached_iff (ev t : Nat) : eventReached ev (t % 2 ^ 32) = true ↔ (ev + 2 ^ 32 - t % 2 ^ 32) % 2 ^ 32 < 2 ^ 31 := by
  rw [eventReached, decide_eq_true_iff, Nat.mod_mod]

section
variable {s : State} {k : Nat} {f : IFields} {r : Run} {c : Ctx} {st : Step} (h : CoreRuns s k r c st)
include h

theorem execFence_eq (hmod : modBad f 0 = false) : execFence k f s = if fenceDone r (extF f 10 0) then ok (advance k s) else stay k .fence s :=
  insn_runs h _ (Bool.and_false _) hmod

/-- A SIGNAL with an operation outstanding waits. -/
theorem execSignal_waits (hmod : modBad f 0 = false) (hbusy : allQuiet r = false) :
    execSignal k f s = .next (modRunOf k (fun x => { x with wait := .fence }) s) := by
  unfold execSignal
  rw [insn_runs h _ (Bool.and_false _) hmod]
  exact if_pos (by rw [hbusy]; rfl)

/-- A SIGNAL with nothing outstanding adds its immediate to the event. -/
theorem execSignal_adds (hmod : modBad f 0 = false) (hquiet : allQuiet r = true) :
    execSignal k f s = .next (advance k (putCtx r.ctx { c with
      step := some { st with ev := st.ev.set (extF f 3 0) ((st.ev.getD (extF f 3 0) 0 + f.imm.toNat) % 2 ^ 32) } } s)) := by
  unfold execSignal
  rw [insn_runs h _ (Bool.and_false _) hmod]
  dsimp only
  rw [if_neg (by simp [hquiet]), modCtx_eq h.ctx, h.step]
  rfl

theorem execWaitev_eq (hmod : modBad f 0 = false) : execWaitev k f s =
    if eventReached (st.ev.getD (extF f 3 0) 0) ((getS r f.ra).toNat % 2 ^ 32) then ok (advance k s)
    else stay k (.waitev (extF f 3 0) ((getS r f.ra).toNat % 2 ^ 32)) s := insn_runs h _ (Bool.and_false _) hmod

theorem execSlotwait_eq (hmod : modBad f 1 = false) (hlevel : s.chip.level1 = false) {t : Nat}
    (ht : (getS r f.ra).toNat + (if f.md.toNat % 2 = 1 then 0 else st.slotStart) = t) :
    execSlotwait k f s = if t ≤ s.time.replica then ok (advance k s) else stay k (.slotwait t) s :=
  ht ▸ insn_runs h _ (by rw [hlevel]; rfl) hmod

end

/-- Settles O31: each instruction by the condition it waits for. -/
theorem syncResult : Obligations.SyncResult := by
  unfold Obligations.SyncResult
  intro s k f r c st h
  refine ⟨fun hmod => ?fence, fun hmod => ?signal, fun hmod => ?waitev, fun hmod hlevel => ?slotwait⟩
  case fence =>
    intro done
    have heq := execFence_eq h hmod
    exact ⟨fun hdone => heq.trans (if_pos ((fenceDone_iff r _).2 hdone)), fun hnot => heq.trans (if_neg (mt (fenceDone_iff r _).1 hnot))⟩
  case signal =>
    intro e quiet
    exact ⟨fun hq => execSignal_adds h hmod ((allQuiet_iff r).2 hq),
      fun hnot => execSignal_waits h hmod (Bool.eq_false_iff.2 (mt (allQuiet_iff r).1 hnot))⟩
  case waitev =>
    intro e t
    have heq := execWaitev_eq h hmod
    have hiff := eventReached_iff (st.ev.getD e 0) (getS r f.ra).toNat
    exact ⟨fun hcome => heq.trans (if_pos (hiff.2 hcome)), fun hnot => heq.trans (if_neg (mt hiff.1 (Nat.not_lt.2 hnot)))⟩
  case slotwait =>
    intro t
    have heq := execSlotwait_eq h hmod hlevel (t := t) rfl
    exact ⟨fun hdue => heq.trans (if_pos hdue), fun hearly => heq.trans (if_neg (Nat.not_le.2 hearly))⟩

end Sys2Proof.Machine
end
section
/-! PROOFS. Events of steps and of the replica: the end of a task (R161), job faults (R88), corrections of the replica (R23), deadlock
(R188), reserved classes (R9) and the lookahead (R270). -/
namespace Sys2Proof.Machine
open Sys2Proof

/-! ### The end of a task -/

theorem runQuiet_of {r : Run} (hend : r.ended = true) (hdma : r.dma = []) (hmat : r.mat = none) (hrecv : r.recv = none) (hg : ∀ g ∈ r.g.toList, g = 0) :
    runQuiet r = true := by
  have hgroups : (r.g.toList.all (· == 0)) = true := List.all_eq_true.mpr fun g hm => beq_iff_eq.mpr (hg g hm)
  simp [-Vector.all_toList, runQuiet, hend, hdma, hmat, hrecv, hgroups]

/-- The state after a task of context `n` has left core `k`: the core is free, and the task is done. -/
def afterTask (n task k : Nat) (c : Ctx) (st : Step) (s : State) : State :=
  putCtx n { c with step := some { st with tasks := st.tasks.set task .done } } (modCore k (fun x => { x with run := none }) s)

section
variable {s : State} {n task k : Nat} {c : Ctx} {st : Step} {r : Run} (hc : ctx? s n = some c) (hst : c.step = some st)
include hc hst

theorem finishTask_eq : finishTask n task k s =
    if (st.tasks.set task .done).all (· == .done) then completeStep n (afterTask n task k c st s) else issueTasks n 48 (afterTask n task k c st s) := by
  have hput : modCtx n (fun c => { c with step := c.step.map fun st => { st with tasks := st.tasks.set task .done } })
      (modCore k (fun x => { x with run := none }) s) = afterTask n task k c st s := by
    have hfree : ctx? (modCore k (fun x => { x with run := none }) s) n = some c := hc
    rw [modCtx_eq hfree, hst]
    rfl
  have hstep : (ctx? (afterTask n task k c st s) n).bind (·.step) = some { st with tasks := st.tasks.set task .done } := by
    rw [afterTask, ctx?_putCtx]
    rfl
  unfold finishTask
  dsimp only
  rw [hput, hstep]

/-- TASK_COMPLETE of a task that has ended with nothing outstanding ends it. -/
theorem execTaskComplete_finishes (htask : st.tasks[task]? = some (.running k)) (hrun : (core s k).run = some r) (hctx : r.ctx = n)
    (hmine : r.task = task) (hquiet : runQuiet r = true) : execTaskComplete n task s = .next (finishTask n task k s) := by
  unfold execTaskComplete
  rw [hc, Option.bind_some, hst]
  dsimp only
  rw [htask]
  dsimp only
  rw [hrun]
  exact if_pos ⟨hctx, hmine, hquiet⟩

end

/-! ### Job faults -/

section
variable {s : State} {n k : Nat} {code : Code}

theorem coreMarks_plain (hcheck : code ≠ 0x4001) (hskew : code ≠ 0x4002) : coreMarks k code s = s := by
  rw [coreMarks, if_neg hcheck, if_neg hskew]

theorem execJobFault_byCore {r : Run} (hrun : (core s k).run = some r) (hctx : r.ctx = n) :
    execJobFault n k code s = .next (jobFault n (some k) code (coreMarks k code s)) := by
  unfold execJobFault
  rw [hrun]
  dsimp only
  rw [if_pos hctx]
  rfl

theorem execJobFault_byNone (hno : ∀ r, (core s k).run = some r → r.ctx ≠ n) : execJobFault n k code s = .next (jobFault n none code s) := by
  unfold execJobFault
  cases hrun : (core s k).run with
  | none => rfl
  | some r =>
    dsimp only
    rw [if_neg (hno r hrun)]
    rfl

end

/-! ### The replica -/

/-- A correction that brings no later time sets the replica alone (R23, R80). -/
theorem stepReplica_back {s : State} {t : Nat} (h : t ≤ s.time.replica) : stepReplica t s = setTime { s.time with replica := t } s := if_pos h

/-! ### Deadlock -/

/-- A task waits in WAITEV for an event that has not come, with no DMA, PEER or SEARCH operation outstanding (R188). -/
def WaitsIdle (st : Step) (r : Run) : Prop :=
  r.dma = [] ∧ r.recv = none ∧ (∀ g ∈ r.g.toList, g = 0) ∧
    ∃ e v, r.wait = .waitev e v ∧ (BitVec.ofNat 32 (st.ev.getD e 0) - BitVec.ofNat 32 v).toInt < 0

/-- WAITEV's comparison is that of the difference read as a signed 32-bit value (R181). -/
theorem eventReached_false_iff (ev v : Nat) : eventReached ev v = false ↔ (BitVec.ofNat 32 ev - BitVec.ofNat 32 v).toInt < 0 := by
  have hsub : (BitVec.ofNat 32 ev - BitVec.ofNat 32 v).toNat = (ev + 2 ^ 32 - v % 2 ^ 32) % 2 ^ 32 := by
    rw [BitVec.toNat_sub, BitVec.toNat_ofNat, BitVec.toNat_ofNat]
    omega
  rw [eventReached, decide_eq_false_iff_not, ← hsub, BitVec.toInt_eq_toNat_cond]
  split <;> omega

/-- The runs of a context's tasks that hold cores. -/
def tasksOnCores (s : State) (n : Nat) : List Run :=
  s.cores.filterMap fun e => match e.2.run with
    | some r => if r.ctx = n then some r else none
    | none => none

theorem mem_tasksOnCores {s : State} {n : Nat} {r : Run} : r ∈ tasksOnCores s n ↔ ∃ e ∈ s.cores, e.2.run = some r ∧ r.ctx = n := by
  rw [tasksOnCores, List.mem_filterMap]
  refine exists_congr fun e => and_congr_right fun _ => ?_
  cases e.2.run with
  | none => simp
  | some u =>
    by_cases hu : u.ctx = n
    · simp only [if_pos hu, Option.some.injEq]
      exact ⟨fun hur => ⟨hur, hur ▸ hu⟩, And.left⟩
    · simp only [if_neg hu, Option.some.injEq]
      exact ⟨nofun, fun ⟨hur, hr⟩ => absurd (hur ▸ hr) hu⟩

/-- A step is deadlocked where some task of it holds a core and each that does waits idle (R188). -/
theorem deadlocked_iff {s : State} {n : Nat} {c : Ctx} {st : Step} (hc : ctx? s n = some c) (hst : c.step = some st) :
    deadlocked s n = true ↔ (∃ r, r ∈ tasksOnCores s n) ∧ ∀ r ∈ tasksOnCores s n, WaitsIdle st r := by
  unfold deadlocked
  rw [hc, Option.bind_some, hst]
  show (!(tasksOnCores s n).isEmpty && (tasksOnCores s n).all _) = true ↔ _
  rw [Bool.and_eq_true, List.all_eq_true, Bool.not_eq_true', List.isEmpty_eq_false_iff_exists_mem]
  refine and_congr_right fun _ => forall₂_congr fun r _ => ?_
  rw [Bool.and_eq_true, Bool.and_eq_true, Bool.and_eq_true, Option.isNone_iff_eq_none, List.isEmpty_iff, List.all_eq_true]
  cases hw : r.wait with
  | waitev e v =>
    dsimp only
    rw [Bool.not_eq_true', eventReached_false_iff]
    constructor
    · rintro ⟨⟨⟨hrecv, hdma⟩, hg⟩, hlate⟩
      exact ⟨hdma, hrecv, fun g hm => beq_iff_eq.mp (hg g hm), e, v, hw, hlate⟩
    · rintro ⟨hdma, hrecv, hg, e', v', hw', hlate⟩
      obtain ⟨rfl, rfl⟩ := Wait.waitev.inj (hw.symm.trans hw')
      exact ⟨⟨⟨hrecv, hdma⟩, fun g hm => beq_iff_eq.mpr (hg g hm)⟩, hlate⟩
  | _ => exact ⟨fun hno => absurd hno.2 Bool.false_ne_true, fun ⟨_, _, _, _, _, hw', _⟩ => nomatch hw.symm.trans hw'⟩

/-- Settles O35: each event by what its condition finds. -/
theorem stepEventResult : Obligations.StepEventResult := by
  unfold Obligations.StepEventResult
  refine ⟨?task, fun s n k code hno => execJobFault_byNone hno, ?fault, fun s hps hback => ?correction, fun s hps => if_pos hps, ?deadlock,
    fun s k cls r c st hcls h => reservedClassFetch_fault h hcls, ?lookahead⟩
  case task =>
    intro s n task k c st r hc hst htask hrun hctx hmine hend hdma hmat hrecv hg u
    have hends := execTaskComplete_finishes hc hst htask hrun hctx hmine (runQuiet_of hend hdma hmat hrecv hg)
    rw [finishTask_eq hc hst] at hends
    refine ⟨fun hall => hends.trans (congrArg _ (if_pos ?_)), fun hsome => hends.trans (congrArg _ (if_neg ?_))⟩
    · exact List.all_eq_true.mpr fun t ht => beq_iff_eq.mpr (hall t ht)
    · obtain ⟨t, ht, hne⟩ := hsome
      exact fun hall => hne (beq_iff_eq.mp (List.all_eq_true.mp hall t ht))
  case fault =>
    intro s n k r code hrun hctx hcheck hskew
    exact (execJobFault_byCore hrun hctx).trans (congrArg _ (congrArg _ (coreMarks_plain hcheck hskew)))
  case correction => exact (if_neg hps).trans (congrArg _ (stepReplica_back hback))
  case deadlock =>
    intro s n c st hc hst waits
    have hiff := deadlocked_iff hc hst
    refine ⟨fun ⟨e, he, r, hrun, hctx⟩ hall => if_pos (hiff.2 ⟨⟨r, mem_tasksOnCores.2 ⟨e, he, hrun, hctx⟩⟩, fun u hu => ?_⟩), fun hsome => if_neg ?_⟩
    · obtain ⟨e, he, hrun, hctx⟩ := mem_tasksOnCores.1 hu
      exact hall e he u hrun hctx
    · obtain ⟨e, he, r, hrun, hctx, hnot⟩ := hsome
      exact fun hdead => hnot ((hiff.1 hdead).2 r (mem_tasksOnCores.2 ⟨e, he, hrun, hctx⟩))
  case lookahead =>
    intro s b i t x c hnext hslot hstep hps u hc hisland
    show execLookaheadPrefetch b i s = _
    unfold execLookaheadPrefetch
    rw [hnext, hslot]
    dsimp only
    rw [if_neg (by simp [hstep, hps]), hc]
    exact if_pos hisland

end Sys2Proof.Machine
end
